-- ==== Sys2Proof/Word.lean ====
section
/-! DEFINITION. The two word types of the hub: a register is 32 bits wide (R4), and memory and descriptors are bytes. -/

namespace Sys2Proof

/-- A register or a 32-bit memory word (R4). -/
abbrev Word := BitVec 32

/-- One byte of memory, of a descriptor or of a frame. -/
abbrev Byte := BitVec 8

/-- Sparse data by key: the listed keys hold the listed values, and every other key holds the default of the array. -/
abbrev Sparse (α : Type) := List (Nat × α)

end Sys2Proof
end

