-- ==== Sys2Proof/Machine/Bits.lean ====
section
/-! DEFINITION. Bit fields, saturating counts, byte order and sign, as the notation of spec/00_scope.md uses them
("[high:low]", little-endian multi-byte fields, signed fields in two's complement). -/

namespace Sys2Proof.Machine

/-- Bits [hi:lo] of a number. -/
def fieldOf (w hi lo : Nat) : Nat := (w / 2 ^ lo) % 2 ^ (hi + 1 - lo)

/-- Bit `i` of a number. -/
def bitOf (w i : Nat) : Bool := (w / 2 ^ i) % 2 == 1

/-- `w` with bits [hi:lo] replaced by the low bits of `v`. -/
def putField (w hi lo v : Nat) : Nat :=
  w - fieldOf w hi lo * 2 ^ lo + (v % 2 ^ (hi + 1 - lo)) * 2 ^ lo

/-- 1 for true. -/
def b2n (b : Bool) : Nat := if b then 1 else 0

/-- A counter of `bits` bits counts one more and saturates (R9). -/
def satInc (bits n : Nat) : Nat := if n + 1 < 2 ^ bits then n + 1 else 2 ^ bits - 1

/-- A counter of `bits` bits counts `k` more and saturates (R9). -/
def satAdd (bits n k : Nat) : Nat := if n + k < 2 ^ bits then n + k else 2 ^ bits - 1

/-- The signed value of a `bits`-bit field. -/
def signed (bits v : Nat) : Int :=
  if v % 2 ^ bits < 2 ^ (bits - 1) then (v % 2 ^ bits : Int) else (v % 2 ^ bits : Int) - 2 ^ bits

/-- The `bits`-bit field that holds a signed value, wrapping. -/
def unsigned (bits : Nat) (v : Int) : Nat := (v % (2 ^ bits : Int)).toNat

/-- The `bits`-bit field that holds a signed value, saturating. -/
def satSigned (bits : Nat) (v : Int) : Nat :=
  if v ≥ 2 ^ (bits - 1) then 2 ^ (bits - 1) - 1
  else if v < -(2 ^ (bits - 1) : Int) then 2 ^ (bits - 1)
  else unsigned bits v

/-- `v` held within `[lo, hi]`. -/
def clampInt (lo hi v : Int) : Int := if v < lo then lo else if hi < v then hi else v

/-- `k` bytes of `v`, least significant first. -/
def leBytes : Nat → Nat → List Byte
  | 0, _ => []
  | k + 1, v => BitVec.ofNat 8 v :: leBytes k (v / 256)

/-- `k` bytes of `v`, most significant first. -/
def beBytes (k v : Nat) : List Byte := (leBytes k v).reverse

/-- The number that bytes hold, least significant first. -/
def ofLe : List Byte → Nat
  | [] => 0
  | b :: bs => b.toNat + 256 * ofLe bs

/-- The number that bytes hold, most significant first. -/
def ofBe (bs : List Byte) : Nat := ofLe bs.reverse

/-- `k` bytes of a list from position `off`, as a little-endian number; bytes beyond the list count as zero. -/
def leAt (bs : List Byte) (off k : Nat) : Nat := ofLe ((bs.drop off).take k)

/-- `k` bytes of a list from position `off`, as a big-endian number. -/
def beAt (bs : List Byte) (off k : Nat) : Nat := ofBe ((bs.drop off).take k)

/-- Byte `off` of a list, as a number. -/
def byteAt (bs : List Byte) (off : Nat) : Nat := leAt bs off 1

/-- `k` zero bytes. -/
def zeros (k : Nat) : List Byte := List.replicate k 0

/-- A list of bytes brought to length `k` by zero bytes or by cutting. -/
def padTo (k : Nat) (bs : List Byte) : List Byte := bs.take k ++ zeros (k - bs.length)

/-- `a ÷ b`, rounded up; zero when `b` is zero. -/
def ceilDiv (a b : Nat) : Nat := if b = 0 then 0 else (a + b - 1) / b

/-- Whether every number of a list is different from every other. -/
def distinctNats (l : List Nat) : Bool := l.eraseDups.length == l.length

/-- The steps from one index of a ring to another. -/
def ringDist (size a b : Nat) : Nat := (b + size - a % size) % size

/-- Data with the listed 64-byte blocks given as zero. -/
def zeroBlocks (bad : List Nat) (bs : List Byte) : List Byte :=
  (List.range bs.length).map (fun i => if bad.contains (i / 64) then 0 else bs.getD i 0)

/-- The list with its element `i` replaced; a list too short is left as it is. -/
def setNth {α : Type} (l : List α) (i : Nat) (a : α) : List α := l.set i a

/-- A range overlaps another. -/
def overlaps (a n b m : Nat) : Bool := decide (a < b + m ∧ b < a + n)

end Sys2Proof.Machine
end

