-- ==== Sys2Proof/Syntax.lean ====
section
/-! DEFINITION. The commands and events of the hub: one constructor for each row of spec/opcode_table.json, with what the row is given from
outside the hub (a ring and a tag name a fetched descriptor; data that a DMA, a link or a pin brings in; which instance an event strikes). -/

namespace Sys2Proof.Machine

/-- Who makes an access (Table 17.1): the host through HIF, an engine, the JTAG port, or the hub's own commit and firmware ports. -/
inductive Requester where
  | host | engine (e : Nat) | jtag | firmware
deriving DecidableEq, Repr

/-- The blocks of the hub (Tables 1.1 and 20.1), with the instance where there are several, and the parts of MEM that Table 1.5 names. -/
inductive Block where
  | glb | clk | pwr | int | hif | cmt | tim
  | net (n : Nat) | ing | mem | memA | memB | qos | sramBank (b : Nat) | scrubber
  | scn (p : Nat) | pg | cal | nsh (n : Nat) | fix | odl (r : Nat) | col | spr (e : Nat)
  | pmu | sdl | fwu | crn | sec | tio | dbg
deriving DecidableEq, Repr

/-- A PTP message as the protocol reads it (R101): the sending port's identity and the data set of an Announce in order of comparison; sequence
numbers; master times in units of 2^-48 ns; and correction fields in the same units. -/
inductive PtpMsg where
  | announce (src : Nat) (dataset : List Nat)
  | sync (seq : Nat) (twoStep : Bool) (t1 : Nat) (corr : Int)
  | followUp (seq : Nat) (t1 : Nat) (corr : Int)
  | delayResp (seq : Nat) (t4 : Nat) (corr : Int)
  | peerResp (seq : Nat) (turn : Int)
  | peerRespTwo (seq : Nat) (t2 : Nat) (corr : Int)
  | peerFollowUp (seq : Nat) (t3 : Nat) (corr : Int)
  | delayReq (seq : Nat)
  | peerReq (seq : Nat)
deriving DecidableEq, Repr

/-- A PTP message that an instance sends (R103). -/
inductive PtpSend where
  | announce | sync | delayReq
deriving DecidableEq, Repr

/-- A PTP message as it leaves (R101): transmission is two-step, so a Follow_Up brings the stamp of a Sync and of a peer delay response. -/
inductive PtpOut where
  | announce (set : List Nat)
  | sync | followUp | delayReq | delayResp | peerReq | peerResp | peerFollowUp
deriving DecidableEq, Repr


/-- Why a received Naush frame is discarded (R226). -/
inductive NshReject where
  | crc | format | farEnd | bufferFull
deriving DecidableEq, Repr

/-- The tag of a 64-byte DRAM block (Table 6.2). -/
structure BlockTag where
  secure : Bool := false
  poison : Bool := false
  type   : Nat := 0
deriving DecidableEq, Repr

/-- What the decoder makes of an error in more than three symbols of a DRAM block (R143): it detects it, or it takes another word for the right one,
as corrected or as free of errors, and gives these data and this tag as good. -/
inductive Beyond where
  | detected
  | wrong (counted : Bool) (data : List Byte) (tag : BlockTag)
deriving DecidableEq, Repr

/-- The error in a stored DRAM block as a read meets it: which of its 72 symbols are wrong (0 to 63 data, 64 and 65 tag, 66 to 71 check), and what comes of
it where they are more than three. -/
structure ReadError where
  symbols : List Nat
  beyond  : Beyond := .detected
deriving DecidableEq, Repr

/-- Pixels of a raster line, by their position in it, whose reads were lost: a read that missed its deadline, on a channel (R157), or a poisoned
entry of the region map (R178). -/
structure BadRead where
  pipe  : Nat
  first : Nat
  count : Nat
  late  : Option Nat
deriving DecidableEq, Repr

/-- A memory of 32-byte lines: shared SRAM, or an engine's instruction or data memory (R150 to R152). -/
inductive LineMem where
  | sram | imem (e : Nat) | dmem (e : Nat)
deriving DecidableEq, Repr

/-- A codeword with three or more wrong bits that the decoder takes for good: which of the sixteen, the 16 data bits that it gives, and whether it takes
them for a correction (R151). -/
structure Miscode where
  codeword : Nat
  data     : BitVec 16
  counted  : Bool
deriving DecidableEq, Repr

/-- The error in a 32-byte line as a read meets it (R151): which of its 352 bit cells are wrong, in their physical order, and which codewords with three or
more wrong bits the decoder does not detect. -/
structure LineErr where
  cells : List Nat
  wrong : List Miscode := []
deriving DecidableEq, Repr

/-- A sample row data header of an ST 2110-20 packet with its samples: one per pixel, three values each, or one for an odd pixel of 4:2:2. -/
structure RowData where
  row     : Nat
  offset  : Nat
  samples : List (List Nat)
deriving DecidableEq, Repr

/-- A packet of a flow as the ST 2110-20 payload header gives it: its 32-bit sequence number, RTP timestamp, marker and field bits, its RTP
payload length and its rows. -/
structure FlowPkt where
  seq     : Nat
  rtp     : Nat
  marker  : Bool
  field   : Bool
  payload : Nat
  rows    : List RowData
deriving DecidableEq, Repr

/-- An sACN packet for UDP port 5568 (R132): a data packet, with its CID, priority, sequence number, start code, Preview_Data and
Stream_Terminated bits, synchronisation address and values; or universe discovery. -/
inductive SacnPkt where
  | data (cid univ prio seq startCode sync : Nat) (preview terminated : Bool) (values : List Byte)
  | discovery
deriving DecidableEq, Repr

/-- What becomes of a radio transmission: it is sent, a busy channel prevents it, or the transceiver fails three serial transactions in a row
(R292, R302). -/
inductive OdlTx where
  | sent | busy | fails
deriving DecidableEq, Repr

/-- The counter sets of Table 18.3. -/
inductive PmuSet where
  | pipe (p : Nat) | port (n : Nat) | col
deriving DecidableEq, Repr

/-- An apply instant (Table 3.4); a time is in units of 2^-48 ns. -/
inductive Instant where
  | immediate
  | time (tb : Nat) (at48 : Nat)
  | frame (pg : Nat) (n : Nat)
deriving DecidableEq, Repr

/-- A frame buffer named by an arm; an ingest arm also names its flow and RTP timestamp (R128, R368). -/
structure Arm where
  addr   : Nat
  source : Option (Nat × Nat) := none
deriving DecidableEq, Repr

/-- A fade in progress: its parameter (fixture × 64 + parameter), start on the fade clock, start and target values, time in ms, and whether it is an
S-CURVE; and the record of the fade table that it holds (Table 11.1). -/
structure Fade where
  par    : Nat
  slot   : Nat
  start  : Nat
  origin : Nat
  target : Nat
  time   : Nat
  curve  : Bool
deriving DecidableEq, Repr

/-- A short address: 0 FREE, 1 PRESENT, 2 ADRIFT; the HOP of its latest frame, the extended address bound to it, and the beacon intervals that have
begun since its node was heard or, for an ADRIFT one, since it became ADRIFT; and how far into its interval, in 2^-48 ns, that frame came. -/
structure OdlAddr where
  state : Nat := 0
  hop   : Nat := 0
  ext   : Nat := 0
  age   : Nat := 0
  part  : Nat := 0
deriving DecidableEq, Repr

/-- Where a work item stands (R343): waiting in its level since a cycle, running on an engine, or parked in a Talus list until an instant of its
base, in units of 2^-48 ns. -/
inductive ItemPlace where
  | waiting (since : Nat)
  | running (e : Nat)
  | parked (t expiry : Nat)
deriving DecidableEq, Repr

/-- A work item in its slot: its level, the ring or engine that posted it, whether it has returned from a Talus list, its descriptor as posted, and
the ring and tag of its WORK_POST. -/
structure WorkItem where
  slot     : Nat
  level    : Nat
  engine   : Bool
  source   : Nat
  deferred : Bool
  body     : List Byte
  owner    : Option (Nat × Nat)
  place    : ItemPlace
deriving DecidableEq, Repr

/-- What a state copy class carries (Table 15.3). Class 0: the epoch and digest; the next sequence numbers as port, queue, destination (255 for
broadcast) and number; the hold records as port, tile, mask and what is left of their time, in 0.01 ns; and the tiles with RESEND. Class 1: base, servo state, frequency and HOLD_EST.
Class 2: the fades and E_g. Class 3: fixture store lines. Class 4: items and generations. Class 5: radio, address table, lease, and number and instant of the next beacon. -/
inductive CopyData where
  | commit (epoch : Nat) (digest : List Byte) (seqs : List (Nat × Nat × Nat × Nat)) (holds : List (Nat × Nat × Nat × Nat)) (resend : List (Nat × Nat))
  | servo (bases : List (Nat × Nat × Int × Nat))
  | fades (fades : List Fade) (clocks : List (Nat × Nat))
  | lines (lines : List (Nat × List Byte × List Nat))
  | col (items : List WorkItem) (gens : List (Nat × Nat))
  | odelle (radios : List (Nat × List (Nat × OdlAddr) × Nat × Nat × Nat))
deriving DecidableEq, Repr

/-- A Q1 or Q3 frame as it is mirrored (R370). -/
structure MirrorFrame where
  type    : Nat
  dest    : Nat
  seq     : Nat
  payload : List Byte
deriving DecidableEq, Repr


/-- What the partner does at a master cycle boundary: nothing to the roles, a planned handover that it asked for, or it leaves the pair (R363, R377). -/
inductive PartnerAct where
  | none | handover | leaves
deriving DecidableEq, Repr


/-- The register-register operations of an engine (Table 13.5). -/
inductive AluOp where
  | add | sub | and | or | xor | sll | srl | sra | slt | sltu | min | max | minu | maxu | clz | popc
  | mul | mulh | mulhu | div | divu | rem | remu
deriving DecidableEq, Repr

/-- The immediate operations of an engine (Table 13.5). -/
inductive ImmOp where
  | addi | andi | ori | xori | slti | sltiu | slli | srli | srai | lui
deriving DecidableEq, Repr

/-- A scalar instruction as its fields give it: registers by number, and the 16-bit immediate. -/
inductive ScalarInstr where
  | rr (op : AluOp) (rd rs1 rs2 : Nat)
  | ri (op : ImmOp) (rd rs1 imm : Nat)
deriving DecidableEq, Repr

/-- The conditions of a branch (Table 13.5). -/
inductive BranchCond where
  | eq | ne | lt | ge | ltu | geu
deriving DecidableEq, Repr

/-- A branch or a jump as its fields give it, with its 16-bit word offset or immediate. -/
inductive BranchInstr where
  | cond (c : BranchCond) (rs1 rs2 off : Nat)
  | jal (rs1 off : Nat)
  | jalr (rd rs1 imm : Nat)
deriving DecidableEq, Repr

/-- The loads, the stores and the atomics of an engine (Table 13.5). -/
inductive LoadOp where
  | lb | lbu | lh | lhu | lw | vld
deriving DecidableEq, Repr
inductive StoreOp where
  | sb | sh | sw | vst
deriving DecidableEq, Repr
inductive AmoOp where
  | add | swap | and | or | min | max | cas
deriving DecidableEq, Repr

/-- The pixel formats between which VUNPK and VPACK convert (Table 13.5, Table 6.8, R252). -/
inductive PixFmt where
  | p16 | p24 | p32a | p32h | l48 | l36
deriving DecidableEq, Repr

/-- The vector operations of an engine (Table 13.5). -/
inductive VecOp where
  | vadd | vsub | vadds | vsubs | vand | vor | vxor | vsll | vsrl | vsra | vmin | vmax | vminu | vmaxu | vmov
  | vmul | vmulh | vmulq13 | vmac | vmacq13
  | vcmpeq | vcmplt | vcmpltu | kand | kor | kxor | knot | ktos | stok
  | vperm | vshuf | vext | vins | vredadd | vredmax | vredmin
  | vunpk (f : PixFmt) | vpack (f : PixFmt) | vlut | vcrc64
deriving DecidableEq, Repr

/-- A V-format instruction as its fields give it (Table 13.4). -/
structure VecInstr where
  op  : VecOp
  vd  : Nat
  vs1 : Nat
  r2  : Nat
  s   : Bool
  k   : Nat
  ew  : Nat
  p   : Bool
deriving DecidableEq, Repr

/-- What the JTAG port accesses: a register at a BAR0 offset, or 32 bits of DRAM or shared SRAM (R448). -/
inductive JtagTarget where
  | reg (off : Nat) | dram (a : Nat) | sram (a : Nat)
deriving DecidableEq, Repr
end Sys2Proof.Machine

namespace Sys2Proof

open Machine

/-- A command or event of the hub. -/
inductive Instr where
  /-- Stages register writes and table bytes into the single staging bank, all or nothing (R66). -/
  | cfgStage (q tag : Nat) (writes : List (Nat × Nat)) (table : List Byte) (lines : List (Nat × LineErr))
  /-- Starts the check of the staged set against a named apply instant (R71). -/
  | cfgCommit (q tag : Nat)
  /-- The commit check ends; on failure it reports status and rule, and on success the set is pending (R75). -/
  | commitCheckDone (errs : List (Nat × ReadError)) (lines : List (Nat × LineErr))
  /-- At the instant, every staged write and table switch takes effect in one PCLK cycle, and epoch and digest update (R77). -/
  | commitApply (errs : List (Nat × ReadError))
  /-- Empties the staging bank unless a commit is checking or pending (R70). -/
  | cfgDiscard (q tag : Nat)
  /-- Copies consecutive applied or staged register values to host memory from one side of an apply (R81). -/
  | cfgRead (q tag : Nat)
  /-- A direct write to a class L, S or D register is refused, counted and reported on source 47 (R65). -/
  | directWriteRefused (who : Requester) (off value : Nat)
  /-- Asks every enumerated tile on the named ports for its digest and epoch (R85). -/
  | census (q tag : Nat)
  /-- The census answers are complete or the 10 ms wait ends, and entries and completion are written (R86). -/
  | censusWaitEnd (q tag : Nat) (bad : List Nat)
  /-- Writes frame data from host memory to DRAM in the NORMAL class (R184). -/
  | framePost (q tag : Nat) (data : List Byte) (errs : List (Nat × ReadError))
  /-- Lands an arm of a frame buffer on a pipe and returns the frame that will show it (R182). -/
  | frameArm (q tag : Nat)
  /-- Posts a work item from the host to a Col level, or refuses it (R348). -/
  | workPost (q tag : Nat)
  /-- Removes a queued work item and frees its slot (R357). -/
  | workCancel (q tag : Nat)
  /-- Writes gain words or matrix records into a pipe's target calibration bank (R201). -/
  | calLoad (q tag : Nat) (data : List Byte) (errs : List (Nat × ReadError))
  /-- Returns entries of a pipe's target calibration bank to host memory (R202). -/
  | calRead (q tag : Nat) (errs : List (Nat × ReadError))
  /-- Checks a measurement sequence and starts a measurement run (R212). -/
  | calMeasure (q tag : Nat) (seq : List Byte) (errs : List (Nat × ReadError))
  /-- Copies Cairn log entries in SEQ order to host memory (R414). -/
  | logRead (q tag : Nat) (lines : List (Nat × LineErr))
  /-- Clears a Cairn log on a secure request or a valid signed token (R415). -/
  | logClear (q tag : Nat) (token : List Byte)
  /-- Checks an image header early and programs image bytes into the flash staging area (R386). -/
  | fwStage (q tag : Nat) (data : List Byte)
  /-- Verifies the staged image as a set, erases the inactive slot and marks the activation pending (R389). -/
  | fwActivate (q tag : Nat)
  /-- Confirms the image in trial, raises the anti-rollback floor and lifts the settings lock (R393). -/
  | fwConfirm (q tag : Nat)
  /-- Steps a time base to a given value and adjusts its servo state (R98). -/
  | timeSet (q tag : Nat)
  /-- Steps a JUMP_HELD base by the held offset and enters LOCKED, or defers a backward step (R99). -/
  | timeAcceptJump (q tag : Nat)
  /-- A deferred backward step applies after the last presentation time already sent (R99). -/
  | deferredJumpApply (t : Nat)
  /-- ABORT KIND 0 ends an engine's item and restarts it at its kernel entry (R340). -/
  | abortEngine (q tag : Nat) (hung : Bool) (errs : List (Nat × ReadError))
  /-- ABORT KIND 1 ends the fetched descriptors of a submission ring and skips the rest (R58). -/
  | abortRing (q tag : Nat) (hung : Bool)
  /-- ABORT KIND 2 removes every queued item of a Col level (R358). -/
  | abortColLevel (q tag : Nat) (hung : Bool)
  /-- ABORT KIND 3 stops a scan-out pipe at once without a FLIP (R58). -/
  | abortPipe (q tag : Nat) (hung : Bool)
  /-- ABORT KIND 4 flushes a Naush port's queues and retrains it (R58). -/
  | abortPort (q tag : Nat) (hung : Bool)
  /-- ABORT KIND 5 stops an ingest flow and empties its jitter buffer (R131). -/
  | abortFlow (q tag : Nat) (hung : Bool)
  /-- ABORT KIND 6 halts an Odelle MAC, which resumes on its schedule (R312). -/
  | abortRadio (q tag : Nat) (hung : Bool)
  /-- An ABORT target quiesces and the ABORT completes with OK and ESCALATED 0 (R58). -/
  | targetQuiesced (kind index units : Nat)
  /-- The 24 µs quiesce wait expires and the hub fences and resets the block (R58). -/
  | abortEscalation (kind index : Nat)
  /-- A block reset completes, restoring applied registers and returning the block to service (R80). -/
  | blockResetDone (kind index units : Nat) (errs : List (Nat × ReadError))
  /-- A block reset does not complete within 100 µs, so the ABORT completes with TIMEOUT and the block stays isolated (R58). -/
  | blockResetTimeout (kind index : Nat)
  /-- Queues one CTRL, CAL or FWB frame to a tile or broadcast and completes when it is retired (R260). -/
  | tileSend (q tag : Nat) (payload : List Byte)
  /-- PAIR_CTRL action 0 returns the role and partner health (R363). -/
  | pairQuery (q tag : Nat)
  /-- PAIR_CTRL action 1 enables pairing and assigns ACTIVE or SYNCING (R363). -/
  | pairEnable (q tag : Nat)
  /-- PAIR_CTRL action 2 makes the hub UNPAIRED at the next master cycle boundary (R363). -/
  | pairDisable (q tag : Nat)
  /-- PAIR_CTRL action 3 requests a planned handover to this hub (R377). -/
  | requestActive (q tag : Nat) (opposed : Bool)
  /-- PAIR_CTRL action 4 requests a planned handover away from this hub (R377). -/
  | requestStandby (q tag : Nat) (opposed : Bool)
  /-- A doorbell write sets a submission ring's tail or is refused and counted (R57). -/
  | sqTail (n value : Nat) (whole : Bool)
  /-- A doorbell write advances a completion ring's head (R57). -/
  | cqHead (n value : Nat) (whole : Bool)
  /-- A doorbell write advances the event ring's head (R57). -/
  | evqHead (value : Nat) (whole : Bool)
  /-- A doorbell write re-arms an MSI-X vector (R63). -/
  | vecRearm (v : Nat) (whole : Bool)
  /-- The hub fetches a descriptor once a CQ entry can be reserved and any fence has cleared, then starts it or completes it as INVALID or DUPLICATE (R43). -/
  | descriptorFetch (n : Nat) (bytes : List Byte) (lines : List (Nat × LineErr))
  /-- A host memory read that a descriptor needs fails or takes over 50 ms, and the descriptor completes with UNCORRECTABLE (R52). -/
  | dmaReadTimeout (q tag : Nat) (poisoned : List Byte) (errs : List (Nat × ReadError))
  /-- A function-level reset, hot reset, PERST_N or PCIe link loss resets only ring and interrupt state (R41). -/
  | hostRegionReset
  /-- A write to SQn_CTL enables a ring and restarts its indices, or disables fetching (R42). -/
  | sqCtlWrite (who : Requester) (n value : Nat)
  /-- A write to CQn_CTL enables a completion ring and restarts its tail and phase (R42). -/
  | cqCtlWrite (who : Requester) (n value : Nat)
  /-- A write to EVQ_CTL enables the event ring and restarts its tail, phase and EVQ_LOST (R47). -/
  | evqCtlWrite (who : Requester) (value : Nat)
  /-- Writing a different SQn_EPOCH clears the ring's duplicate window (R54). -/
  | sqEpochWrite (who : Requester) (n value : Nat)
  /-- A write to INT_SRC_MAPn changes the source's vector, enable or event-ring mapping (R456). -/
  | intSrcMapWrite (who : Requester) (n value : Nat)
  /-- An asserted, armed vector sends its MSI-X message once HOLDOFF has passed and disarms (R63). -/
  | msixMessage (v : Nat)
  /-- A change of MSI-X Enable or Function Mask releases or holds vector messages (R63). -/
  | msixCapabilityWrite (enable fmask : Bool)
  /-- A write to an MSI-X table entry changes its address, data or mask (R450). -/
  | msixTableWrite (off value size : Nat)
  /-- A BAR0 or register-window write to a register that has no row of its own acts under its access codes (R5). -/
  | registerWrite (who : Requester) (off value size : Nat)
  /-- A write of 1 to GLB_FLT_CTL.FORCE_SAFE enters the safe state with cause 0x7 (R26). -/
  | forceSafe (who : Requester)
  /-- A write of 1 clears all 20 mesh link replay counters (R21). -/
  | glbLnkClr (who : Requester)
  /-- A receiver finds a flit CRC error and asks for a replay; a fourth failure is a link error (R21). -/
  | flitCrcError (x : Nat) (again : Bool) (b : Block)
  /-- A region fault manager isolates a block that reported a fault and writes a Cairn snapshot (R23). -/
  | isolation (b : Block)
  /-- A block is not isolated within 2 µs and the chip enters the safe state with cause 0x3 (R26). -/
  | isolationTimeout (b : Block)
  /-- The chip fault manager stops output, ingest and engines and records the cause (R26). -/
  | safeStateEntry (causes : List Nat)
  /-- The root PLL loses lock and the hub enters the safe state on the bypass clock (R34). -/
  | rootPllLockLost
  /-- The reference stops or drifts beyond 1,000 ppm for 2 µs and the hub enters the safe state (R462). -/
  | refclkFailure
  /-- At each whole second of TB0 all four bases are copied into TIM_PPS_SNAP (R90). -/
  | ppsSnapshot
  /-- A PTP message is received and handled by the protocol and the best master clock algorithm (R101). -/
  | ptpMessageReceive (n domain : Nat) (l2 : Bool) (phase : Nat) (m : PtpMsg)
  /-- A discipline source times out and the base enters HOLDOVER (R95). -/
  | sourceLoss (t : Nat)
  /-- The holdover error estimate crosses a QUALITY threshold and source 36 + t is raised (R96). -/
  | qualityChange (t : Nat)
  /-- An edge on a TIO input pin is captured and time-stamped (R104). -/
  | tioInputEdge (p : Nat) (rise : Bool) (quarter : Nat)
  /-- A compare unit reaches its time and drives the pins that name it (R111). -/
  | compareFire (c : Nat)
  /-- A PPS output goes active at a whole second of its base (R110). -/
  | ppsOutput (p : Nat)
  /-- The active level of a TIO output ends after WIDTH × 100 ns (R110). -/
  | tioPulseEnd (p : Nat)
  /-- A port runs 16 MEASURE rounds and computes and sends each tile's delay (R106). -/
  | roundTripMeasurement (n : Nat)
  /-- A port broadcasts a BASE TIME frame in blanking, or every 10 ms in self-refresh (R108). -/
  | timeBaseSend (n : Nat)
  /-- A NET sub-port receives a frame and discards, counts or passes it on (R116). -/
  | netFrameReceive (n sub : Nat) (frame : List Byte) (fcsOk : Bool)
  /-- A NET sub-port gains link (R139). -/
  | netLinkUp (n sub : Nat)
  /-- A NET sub-port loses link (R139). -/
  | netLinkDown (n sub : Nat)
  /-- A received PAUSE or PFC frame holds transmit queues Q0–Q6 (R119). -/
  | pauseFrameReceive (n sub : Nat) (pfc : Bool) (times : List (Nat × Nat))
  /-- The pause time of a held NET queue expires (R119). -/
  | netPauseHoldEnd (n sub : Nat) (cls : Option Nat)
  /-- A NET queue held for more than 10 ms raises event 0x04 (R119). -/
  | netQueueHoldEvent (n sub q : Nat)
  /-- An ST 2110-20 packet is merged, discarded or counted, and written to its frame (R122). -/
  | flowPacket (f path : Nat) (pkt : FlowPkt) (freed : Nat) (errs : List (Nat × ReadError)) (lines : List (Nat × LineErr))
  /-- The last DRAM write of a complete frame finishes and the frame is counted and armed (R126). -/
  | flowFrameComplete (f : Nat)
  /-- A path silent for 10 ms is marked down, and the flow may stall (R123). -/
  | flowPathTimeout (f path : Nat)
  /-- An sACN data packet is accepted or discarded, and the universe is merged (R136). -/
  | sacnPacket (n sub : Nat) (p : SacnPkt) (errs : List (Nat × ReadError)) (lines : List (Nat × LineErr))
  /-- A synchronisation packet publishes every universe waiting on its address (R137). -/
  | sacnSyncPacket (n sub addr : Nat)
  /-- A tracked sACN source is silent for SRC_TO and leaves (R134). -/
  | sacnSourceTimeout (u cid : Nat)
  /-- No synchronisation packet arrives within SRC_TO and the waiting universes are published (R137). -/
  | sacnSyncTimeout (addr : Nat)
  /-- The scrubber reads and corrects a line of shared SRAM or of a local memory (R153). -/
  | sramScrub (w : LineMem) (line : Nat) (err : LineErr)
  /-- The patrol scrubber reads a DRAM block in the BULK class (R154). -/
  | dramPatrolScrub (block : Nat) (err : Option ReadError)
  /-- A presentation group begins a frame at a grid instant (R163). -/
  | frameBoundary (pg : Nat) (errs : List (Nat × ReadError)) (act : PartnerAct)
  /-- A line of the virtual raster begins and each pipe processes its spans (R166). -/
  | virtualLine (pg : Nat) (bad : List BadRead) (errs : List (Nat × ReadError))
  /-- APPLY_LINE begins and a pending arm takes effect (R180). -/
  | applyLine (pg : Nat)
  /-- The port sends the FLIP of a frame and removes PIX still queued (R168). -/
  | flipSend (p : Nat)
  /-- Writing 1 to SCNp_FB_ARM.GO lands an arm of the shadow address (R179). -/
  | fbArmGo (who : Requester) (p : Nat)
  /-- Writing 1 to SCNp_FB_ARM.CLR clears the pipe's arm and substitution counters (R179). -/
  | fbArmClr (who : Requester) (p : Nat)
  /-- The copy of the new bank in force ends and the pipe becomes IDLE (R207). -/
  | calCopyDone (p : Nat) (errs : List (Nat × ReadError))
  /-- The estimator finishes initialising a pipe's records and STAT_READY reads 1 (R216). -/
  | statInitDone (p : Nat) (errs : List (Nat × ReadError))
  /-- The estimator samples the drive of every pixel of the next covered pipe (R217). -/
  | statSample (errs : List (Nat × ReadError))
  /-- The estimator folds a covered pipe's records into ageing gains and starts a slew (R218). -/
  | statFold (p : Nat) (errs : List (Nat × ReadError))
  /-- A measurement step's sub-field starts, its triggers are placed and the next step's CAL frames are sent (R211). -/
  | msrStep (errs : List (Nat × ReadError))
  /-- The last sub-field ends and CAL_MEASURE completes with OK or TIMEOUT (R214). -/
  | msrRunEnd
  /-- Writing 1 to CAL_MSR_CTL.STOP ends the run with ABORTED (R214). -/
  | msrStop (who : Requester)
  /-- A port begins full training with electrical idle and TRAIN at RATE_MAX (R231). -/
  | trainingStart (n : Nat)
  /-- A training attempt is not up within 10 ms and the next lower rate is tried, or a link fault is raised (R231). -/
  | trainingAttemptTimeout (n : Nat)
  /-- The 1 s WAIT after failed training ends and training restarts (R231). -/
  | trainingWaitEnd (n : Nat)
  /-- The port reaches block lock on its receive lane, the link is up and enumeration starts (R231). -/
  | nshLinkUp (n : Nat)
  /-- The 1 ms wait for identity answers ends; the request is repeated or enumeration ends (R244). -/
  | enumWaitEnd (n : Nat) (errs : List (Nat × ReadError))
  /-- A port loses block lock and recovers it within 1 ms (R232). -/
  | blockLockLoss (n : Nat)
  /-- Block lock stays lost for more than 1 ms, causing a link fault (R232). -/
  | lockLossTimeout (n : Nat)
  /-- A received Naush frame fails CRC or format, is a far-end frame, or finds the buffer full, and is discarded and counted (R226). -/
  | nshFrameReject (n : Nat) (why : NshReject)
  /-- A tile's ACK retires an acknowledged frame (R249). -/
  | ackReceive (n k queue seq : Nat) (unsupported : Bool)
  /-- A PAUSE from a tile replaces its hold record on the port's queues (R230). -/
  | tilePause (n k mask time : Nat)
  /-- A tile's hold record reaches its end time and releases its queues (R230). -/
  | tilePauseHoldEnd (n k : Nat)
  /-- A queue held longer than HOLD_EVT raises event 0x06 (R230). -/
  | tileHoldEvent (n q : Nat)
  /-- A tile's identity answer is recorded and matched against the tile map (R244). -/
  | identityAnswer (n k seq : Nat) (answer : List Byte) (errs : List (Nat × ReadError))
  /-- A tile's digest answer to a census is recorded (R85). -/
  | digestAnswer (n k seq : Nat) (answer : List Byte)
  /-- A tile's FAULT frame updates the port's fault map and is acknowledged (R263). -/
  | faultReport (n k seq : Nat) (report : List Byte)
  /-- A tile's ECHO frame report updates duplicates, RESEND and LATE counts (R255). -/
  | frameReport (n k : Nat) (report : List Byte)
  /-- A tile's ECHO measurement answer supplies the stamps of a round (R257); it is received `phase` * 2^-16 ns into the PCLK cycle (R104). -/
  | measurementAnswer (n k phase : Nat) (answer : List Byte)
  /-- A frame's retry timer expires and it is resent, or retries are exhausted (R250). -/
  | retryTimeout (n queue dest seq : Nat)
  /-- A port sends SHIFT and changes line rate in a permitted interval (R233). -/
  | rateShift (n : Nat)
  /-- The receiver regains block lock at the new rate and the shift completes (R233). -/
  | rateShiftComplete (n : Nat)
  /-- Block lock is not regained 1 ms after a shift, causing a link fault (R233). -/
  | shiftLockTimeout (n : Nat)
  /-- Writing 1 to a bit of GLB_NSH_HINT requests an upshift of that port (R235). -/
  | glbNshHint (who : Requester) (value : Nat)
  /-- At a fixture output tick the fade engine evaluates fades, merges and queues FIX output (R274). -/
  | fixtureTick (pg : Nat) (errs : List (Nat × ReadError)) (lines : List (Nat × LineErr))
  /-- Held FIX frames are queued once the port's Q1 has room (R283). -/
  | fixHeldRelease (n : Nat) (errs : List (Nat × ReadError))
  /-- Before each downlink round the MAC builds and sends one ODATA from dirty outputs (R308). -/
  | downlinkRound (r round : Nat) (tx : OdlTx) (errs : List (Nat × ReadError))
  /-- The MAC issues the transmit command of a beacon at its planned time (R298). -/
  | beaconSend (r : Nat) (tx : OdlTx)
  /-- The TS pin edge of the beacon's SFD is captured and the error recorded (R298). -/
  | beaconSfdCapture (r quarter : Nat)
  /-- An association request is granted or refused and answered in the next downlink (R304). -/
  | assocReq (r src seq hop ext req : Nat)
  /-- A node's keepalive marks its address heard, or draws status 4 when it is FREE (R305). -/
  | keepalive (r src seq hop : Nat)
  /-- A received Odelle frame failing its FCS or format is discarded and counted (R294). -/
  | odlFrameReject (r : Nat) (fcs : Bool)
  /-- A node unheard for 2 × KA_INT + 1 intervals becomes ADRIFT (R305). -/
  | nodeAdrift (r a : Nat)
  /-- The reservation of an ADRIFT address ends and the address becomes FREE (R305). -/
  | addrLeaseEnd (r a : Nat)
  /-- A stopped MAC retries its transceiver after 1 s (R292). -/
  | transceiverRetry (r : Nat) (answers : Bool)
  /-- Executes a scalar ALU, multiply, divide or immediate instruction (R324). -/
  | scalarAlu (e : Nat) (ins : ScalarInstr) (fetch : LineErr)
  /-- Executes a branch, JAL or JALR with static prediction (R323). -/
  | branch (e : Nat) (ins : BranchInstr) (fetch : LineErr)
  /-- Issues a scalar or vector load from a window (R320). -/
  | load (e : Nat) (op : LoadOp) (rt rb off hi : Nat) (errs : List (Nat × ReadError)) (lines : List LineErr) (fetch : LineErr)
  /-- Load data returns, or an error or poisoned response raises an exception (R337). -/
  | loadResponse (e k : Nat)
  /-- Issues a scalar or vector store to a window (R320). -/
  | store (e : Nat) (op : StoreOp) (rt rb off hi : Nat) (errs : List (Nat × ReadError)) (lines : List LineErr) (fetch : LineErr)
  /-- A store receives a late error response and is counted as lost (R320). -/
  | storeErrorResponse (e : Nat)
  /-- Performs an indivisible read-modify-write of a shared SRAM word (R335). -/
  | atomic (e : Nat) (op : AmoOp) (rd rs1 rs2 hi : Nat) (lines : List LineErr) (fetch : LineErr)
  /-- Executes a vector integer, multiply, compare, permute or pixel instruction (R322). -/
  | vectorOp (e : Nat) (ins : VecInstr) (fetch : LineErr)
  /-- Waits for Col to give the engine a work item (R326). -/
  | wget (e rd rs1 rs2 : Nat) (fetch : LineErr)
  /-- Completes the held work item with a status (R327). -/
  | wdone (e rs1 rs2 : Nat) (fetch : LineErr)
  /-- Posts a work item descriptor from an engine to a level (R328). -/
  | wpost (e rd rs1 rs2 : Nat) (lines : List LineErr) (fetch : LineErr)
  /-- Parks the held item in a Talus list for a delay (R329). -/
  | wdefer (e rd rs1 rs2 : Nat) (fetch : LineErr)
  /-- Reads an engine counter half and latches the upper half (R330). -/
  | cntrd (e rd n : Nat) (high : Bool) (fetch : LineErr)
  /-- Waits until earlier accesses to the chosen windows are complete (R334). -/
  | fence (e set : Nat) (fetch : LineErr)
  /-- Reads a control and status register (R325). -/
  | csrr (e rd csr : Nat) (fetch : LineErr)
  /-- Writes a control and status register (R325). -/
  | csrw (e csr rs1 : Nat) (fetch : LineErr)
  /-- Returns from an exception to the saved mode and address (R316). -/
  | eret (e : Nat) (fetch : LineErr)
  /-- Raises ECAUSE 0x09 with a code (R332). -/
  | trap (e code : Nat) (fetch : LineErr)
  /-- Copies a network frame into a NET transmit queue (R331). -/
  | npost (e rd rs1 rs2 hi : Nat) (errs : List (Nat × ReadError)) (lines : List LineErr) (fetch : LineErr)
  /-- Raises the engine's interrupt source with a detail (R332). -/
  | signal (e rs1 : Nat) (fetch : LineErr)
  /-- Raises ECAUSE 0x0A (R332). -/
  | bkpt (e : Nat) (fetch : LineErr)
  /-- SPRe_CTL.EN going from 0 to 1 starts the load of the engine image (R338). -/
  | engineStart (who : Requester) (e : Nat) (reload : Bool)
  /-- SPRe_CTL.EN going from 1 to 0 ends the engine as an ABORT KIND 0 would (R339). -/
  | engineStop (who : Requester) (e : Nat) (reload : Bool)
  /-- The image copies end and the engine starts at ENTRY, or the load fails (R338). -/
  | engineImageLoaded (e : Nat) (errs : List (Nat × ReadError))
  /-- Col gives the oldest item of the highest eligible level to the longest-waiting engine (R349). -/
  | colGrant (line : LineErr)
  /-- An item whose expiry instant has come returns from a Talus list to its level (R355). -/
  | talusExpiry (lines : List (Nat × LineErr))
  /-- All four Saddle lanes reach block lock and a session is negotiated (R365). -/
  | saddleLinkUp (nonce role : Nat) (later : Bool)
  /-- The Saddle link loses lock or authentication fails 16 times (R365). -/
  | saddleLinkDown (lanes : Nat)
  /-- The SDL block sends a keepalive packet at least every 100 µs (R367). -/
  | saddleKeepalive
  /-- The STANDBY receives an arm record and puts the same buffer in force (R368). -/
  | armRecord (p frame : Nat) (arm : Arm)
  /-- At APPLY_LINE plus 20 µs without a usable record, the STANDBY mutes the pipe's PIX or applies its own arm (R369). -/
  | armRecordDeadline (p : Nat)
  /-- The STANDBY queues a mirrored Q1 or Q3 frame and returns a receipt (R370). -/
  | mirroredFrame (n : Nat) (f : MirrorFrame) (errs : List (Nat × ReadError))
  /-- The ACTIVE receives a receipt for a mirrored frame, ending its flight (R370). -/
  | mirrorReceipt (n : Nat)
  /-- The STANDBY receives a commit notice and checks its own staging bank against it (R371). -/
  | commitNotice (at_ : Instant) (epoch : Nat) (digest : List Byte) (errs : List (Nat × ReadError)) (lines : List (Nat × LineErr))
  /-- The STANDBY receives a state copy class and applies it once it has fully arrived (R373). -/
  | stateCopy (data : CopyData) (last : Bool) (errs : List (Nat × ReadError))
  /-- A partner health record is received, compared, and may cause promotion (R381). -/
  | healthRecord (rec : List Byte) (later : Bool)
  /-- No health record arrives 1 ms after a master cycle boundary, and after HB_MISS misses the STANDBY is promoted or isolated (R375). -/
  | heartbeatMiss
  /-- A partner's output digest for a frame is compared, and a mismatch mutes the STANDBY's port (R380). -/
  | outputDigest (n frame digest : Nat)
  /-- Every 1 ms the STANDBY disciplines its bases to the partner by two-way time transfer (R372). -/
  | saddleTimeTransfer (offs : List Int)
  /-- The trial timer reaches 600 s, the trial is marked failed and a warm reset follows (R392). -/
  | trialTimeout
  /-- Writing 1 to FWU_CTL.READY lets FW_CONFIRM proceed (R393). -/
  | fwuReady (who : Requester) (tileAuto : Bool)
  /-- Writing 1 to FWU_CTL.REJECT in trial fails the trial and resets the hub (R394). -/
  | fwuReject (who : Requester) (reason : Nat)
  /-- Service item 0xA1 sets the Saddle pairing key (R409). -/
  | setPairingKey (e : Nat) (errs : List (Nat × ReadError))
  /-- Service item 0xA2 saves the applied SEC registers in the settings store (R409). -/
  | saveSecRegisters (e : Nat)
  /-- Service item 0xA3 revokes an OTP image key hash (R409). -/
  | revokeKey (e : Nat)
  /-- A write to CRN_TRIG triggers a snapshot of a unit, or is a violation (R411). -/
  | crnTrig (who : Requester) (unit : Nat)
  /-- Writing 1 to CRN_CLR.SNAP clears the snapshot log (R417). -/
  | crnClrSnap (who : Requester)
  /-- Writing 1 to CRN_CLR.REC clears the record log and writes a CLEARED record (R417). -/
  | crnClrRec (who : Requester)
  /-- The recorder takes a queued trigger and writes a snapshot entry (R412). -/
  | snapshotWrite
  /-- The recorder writes a queued record and raises source 92 (R413). -/
  | recordWrite
  /-- A write to PMU_CTL.FREEZE stops or restarts every non-secure counter (R419). -/
  | pmuFreeze (who : Requester) (freeze : Bool)
  /-- Writing 1 to PMU_CTL.CLR_ALL clears every non-secure counter (R420). -/
  | pmuClrAll (who : Requester) (freeze : Bool)
  /-- Writing 1 to PMUe_CNT_CTL.CLR clears the engine's nine counters and SAT (R420). -/
  | pmuEngineClr (who : Requester) (e : Nat) (userRd : Bool)
  /-- Writing 1 to a pipe, port or Col set's CTL.CLR clears its counters (R425). -/
  | pmuSetClr (who : Requester) (set : PmuSet)
  /-- A read of a counter's _LO register latches its upper bits into _HI (R418). -/
  | pmuLoRead (who : Requester) (off : Nat)
  /-- An idle hub enters the deepest power state that its known events and entry conditions allow (R432). -/
  | powerStateEntry
  /-- A wake source fires and the hub returns to D0 (R434). -/
  | wake (code : Nat)
  /-- Writing 1 to a Host bit of PWR_DOM_CTL powers the domain off (R427). -/
  | domainPowerOff (who : Requester) (d : Nat)
  /-- Writing 0 to a Host bit of PWR_DOM_CTL powers the domain on and resets its blocks (R427). -/
  | domainPowerOn (who : Requester) (d : Nat)
  /-- A write to PWR_CTL changes MAXSTATE or MARGIN, waking the hub if shallower (R436). -/
  | pwrCtlWrite (who : Requester) (value : Nat)
  /-- Writing 1 to PWR_CTL.CLR clears the residency counters (R428). -/
  | pwrResClr (who : Requester)
  /-- The junction sensors are sampled every 1 ms, raising warnings or entering the safe state at the critical limit (R444). -/
  | thermalSample (temps : List Int)
  /-- At 125 °C an on-die comparator drives THERMTRIP_N low (R444). -/
  | thermtrip
  /-- PORST_N rising after a cold reset runs the boot sequence to link bring-up (R440). -/
  | coldReset (boot lanes : Nat) (pair ramp : Bool) (densA densB : Nat)
  /-- PORST_N held low for 10 µs puts the hub in cold reset (R465). -/
  | porstLow
  /-- VDD_AON or VDD_CORE droops for over 1 µs and the hub enters cold reset (R459). -/
  | supplyDroop
  /-- GLB_RST.WARM, a failed trial or JTAG makes a warm reset and reboot (R438). -/
  | warmReset (who : Requester)
  /-- A PTP instance sends its Sync, Announce or delay request in transmit queue Q7 at its message interval, with a hardware time-stamp (R103). -/
  | ptpMessageSend (t n seq phase : Nat) (m : PtpSend)
  /-- An engine executes a word that matches no instruction, or has a non-zero unused field, and takes ECAUSE 0x01 (R322). -/
  | illegalInstruction (e word : Nat) (fetch : LineErr)
  /-- The data transfer of a descriptor such as CFG_STAGE, FRAME_POST, CAL_LOAD or a read back to host memory ends, and the descriptor completes with OK (R184). -/
  | dmaTransferDone (q tag : Nat) (errs : List (Nat × ReadError))
  /-- The programming of a FW_STAGE or the read-back and erase of a FW_ACTIVATE ends, and the descriptor completes and updates FWU_STAGE or FWU_STATUS (R387). -/
  | flashOperationDone
  /-- On a STANDBY, an engine runs a self-test slice, completing the test once every BIST_PERIOD seconds, and a failure counts in SDL_CNT_BIST and isolates the engine (R379). -/
  | engineBist (e : Nat) (fails : Bool)
  /-- A PRBS31 test block arrives on the Saddle link, and an errored block increments SDL_CNT_PRBS and raises event 0x03 once per master cycle (R367). -/
  | prbsTestBlock (bad : Bool)
  /-- A keepalive packet from the partner arrives and marks the partner heard (R367). -/
  | saddleKeepaliveReceive
  /-- A Saddle packet whose tag fails, or whose counter is not greater than the last one accepted, is discarded and counted in SDL_CNT_AUTH (R366). -/
  | saddlePacketDiscard (tagFails : Bool) (counter : Nat)
  /-- The ACTIVE receives a STANDBY's request over the Saddle link and enumerates the named port (R370). -/
  | standbyEnumRequest (n : Nat)
  /-- On a dual-ended or self-looped chain, the port's receiver follows a SHIFT ordered set sent by the other end and changes rate (R233). -/
  | shiftReceive (n rate : Nat)
  /-- An Odelle frame whose source and sequence number are already in the hub's seen-cache is neither acted on nor relayed, and is counted in ODLr_CNT_DUP (R303). -/
  | odlSeenFrame (r src seq : Nat)
  /-- A JTAG access reaches the DBG block, or reads or writes registers and memory, with secure targets giving zero and no effect when DBG_LOCK is blown (R448). -/
  | jtagAccess (target : JtagTarget) (write : Option Nat) (errs : List (Nat × ReadError)) (line : LineErr)
deriving DecidableEq, Repr

end Sys2Proof
end

