-- ==== Sys2Proof/Decode.lean ====
section
/-! DEFINITION. The command that a word of the opcode table spells: no row of spec/opcode_table.json gives bits, so none does. And the instruction that a
word of engine code spells, where the manual gives its words whole (R322, R325, Tables 13.5 and 13.6). -/

namespace Sys2Proof

open Machine

/-- The command spelled by `nbits` bits of the table. -/
def decodeTableWord (_nbits _w : Nat) : Option Instr := none

/-- The X-format instruction that a 32-bit word is to engine `e`; `none` for a word of another major opcode, of a func that Table 13.6 does not list, or with a field set that its
instruction does not use. `hi` stands for the upper address bits of NPOST, and no read meets an error. -/
def decodeX (e hi w : Nat) : Option Instr :=
  let rd := fieldOf w 25 21
  let rs1 := fieldOf w 20 16
  let rs2 := fieldOf w 15 11
  let sub := fieldOf w 10 6
  let ok : LineErr := { cells := [] }
  let give (zero : Bool) (i : Instr) : Option Instr := if zero then some i else none
  if fieldOf w 31 26 ≠ 0x3F then none
  else match fieldOf w 5 0 with
    | 0x01 => give (sub == 0) (.wget e rd rs1 rs2 ok)
    | 0x02 => give (rd == 0 && sub == 0) (.wdone e rs1 rs2 ok)
    | 0x03 => give (sub == 0) (.wpost e rd rs1 rs2 [] ok)
    | 0x04 => give (sub == 0) (.wdefer e rd rs1 rs2 ok)
    | 0x05 => give (rs1 == 0 && rs2 == 0) (.cntrd e rd (sub / 2) (sub % 2 == 1) ok)
    | 0x06 => give (rd == 0 && rs1 == 0 && rs2 == 0) (.fence e sub ok)
    | 0x07 => give (rs1 == 0) (.csrr e rd (fieldOf w 15 6) ok)
    | 0x08 => give (rd == 0) (.csrw e (fieldOf w 15 6) rs1 ok)
    | 0x09 => give (rd == 0 && rs1 == 0 && rs2 == 0 && sub == 0) (.eret e ok)
    | 0x0A => give (rd == 0 && rs1 == 0) (.trap e (fieldOf w 15 6) ok)
    | 0x0B => give (sub == 0) (.npost e rd rs1 rs2 hi [] [] ok)
    | 0x0C => give (rd == 0 && rs2 == 0 && sub == 0) (.signal e rs1 ok)
    | 0x0D => give (rd == 0 && rs1 == 0 && rs2 == 0 && sub == 0) (.bkpt e ok)
    | _ => none

/-- The instruction of a word that the manual gives whole: ADD, whose func the word of the no-operation gives (R322), JALR, which has a major opcode of its own
(Table 13.5), or one of X format. -/
def decodeWord (e hi w : Nat) : Option Instr :=
  let ok : LineErr := { cells := [] }
  let rd := fieldOf w 25 21
  let rs1 := fieldOf w 20 16
  if fieldOf w 31 26 = 0 ∧ fieldOf w 10 0 = 0 then some (.scalarAlu e (.rr .add rd rs1 (fieldOf w 15 11)) ok)
  else if fieldOf w 31 26 = 0x0E then some (.branch e (.jalr rd rs1 (fieldOf w 15 0)) ok)
  else decodeX e hi w

/-- A word that the manual gives whole and that is an instruction. -/
def wordLegal (w : Nat) : Bool := (decodeWord 0 0 w).isSome

end Sys2Proof
end

