-- ==== Sys2Proof/Machine/Codes.lean ====
section
/-! DEFINITION. The check codes and digests of the manual: CRC-32C (R224), CRC-64 (R189), CRC-16 (R294), and the SHA-2 functions that R83,
R261 and spec/16_firmware_update.md name. -/

namespace Sys2Proof.Machine

/-- One bit of a reflected CRC. -/
def crcBitR (poly c : Nat) : Nat := if c % 2 = 1 then (c / 2) ^^^ poly else c / 2

/-- Eight bits of a reflected CRC. -/
def crcByteR (poly c : Nat) (b : Byte) : Nat := Nat.repeat (crcBitR poly) 8 (c ^^^ b.toNat)

/-- The CRC-32C of R224: polynomial 0x1EDC6F41 reflected, initial value and final XOR all ones. -/
def crc32c (bs : List Byte) : Nat := (bs.foldl (crcByteR 0x82F63B78) 0xFFFFFFFF) ^^^ 0xFFFFFFFF

/-- The CRC-16 of IEEE 802.15.4 (R293): the ITU-T polynomial reflected, initial value zero. -/
def crc16 (bs : List Byte) : Nat := bs.foldl (crcByteR 0x8408) 0

/-- One bit of a CRC taken most significant bit first, `w` bits wide. -/
def crcBit (w poly c : Nat) : Nat := if 2 ^ (w - 1) ≤ c then (2 * c % 2 ^ w) ^^^ poly else 2 * c

/-- Eight bits of such a CRC. -/
def crcByte (w poly c : Nat) (b : Byte) : Nat := Nat.repeat (crcBit w poly) 8 (c ^^^ (b.toNat * 2 ^ (w - 8)))

/-- The CRC-64 of a longer run of bytes, from that of the bytes before; the CRC of no bytes is 0. -/
def crc64More (d : Nat) (bs : List Byte) : Nat := (bs.foldl (crcByte 64 0x42F0E1EBA9EA3693) (d ^^^ (2 ^ 64 - 1))) ^^^ (2 ^ 64 - 1)

/-- The CRC-64 of R189: polynomial 0x42F0E1EBA9EA3693, not reflected, initial value and final XOR all ones. -/
def crc64 (bs : List Byte) : Nat := (bs.foldl (crcByte 64 0x42F0E1EBA9EA3693) (2 ^ 64 - 1)) ^^^ (2 ^ 64 - 1)

/-! ## SHA-2 (FIPS 180-4)

FIPS 180-4 gives its constants as bits of the roots of the first primes; here they are those bits, and not a table. -/

/-- The first `k` primes, for `k` up to 80: those below 441 have no factor below 21 but themselves. -/
def firstPrimes (k : Nat) : List Nat :=
  ((List.range 410).filter (fun n => decide (1 < n) && (List.range 21).all (fun d => Nat.ble d 1 || d == n || Nat.mod n d != 0))).take k

/-- The greatest number at most `r + 2 ^ b - 1` whose power `k` is at most `m`, its `b` lowest bits found from the highest down. -/
def rootFrom (k m : Nat) : Nat → Nat → Nat
  | 0, r => r
  | b + 1, r => rootFrom k m b (if Nat.ble (Nat.pow (Nat.add r (Nat.pow 2 b)) k) m then Nat.add r (Nat.pow 2 b) else r)

/-- The first `w` bits of the fractional part of the root of order `k` of a number below 1,024. -/
def rootBits (k w n : Nat) : Nat := Nat.mod (rootFrom k (n * 2 ^ (k * w)) (w + 5) 0) (2 ^ w)

/-- What differs between the functions of the family: the word width, the number of rounds, the primes whose square roots give the initial value, and the
rotations of the four sigma functions, the last of a small one being a shift. -/
structure ShaKind where
  width  : Nat
  rounds : Nat
  skip   : Nat
  small0 : List Nat
  small1 : List Nat
  big0   : List Nat
  big1   : List Nat

/-- The constants of SHA-256. -/
def sha256Kind : ShaKind :=
  { width := 32, rounds := 64, skip := 0, small0 := [7, 18, 3], small1 := [17, 19, 10], big0 := [2, 13, 22], big1 := [6, 11, 25] }
/-- The constants of SHA-384 (and SHA-512). -/
def sha384Kind : ShaKind :=
  { width := 64, rounds := 80, skip := 8, small0 := [1, 8, 7], small1 := [19, 61, 6], big0 := [28, 34, 39], big1 := [14, 18, 41] }

/-- The constants of the rounds. -/
def ShaKind.keys (s : ShaKind) : List Nat := (firstPrimes s.rounds).map (rootBits 3 s.width)
/-- Four words of the initial value: half 0 or 1. -/
def ShaKind.start (s : ShaKind) (half : Nat) : List Nat := (((firstPrimes 16).drop (s.skip + 4 * half)).take 4).map (rootBits 2 s.width)

/-- A word turned right by `n` bits: the low half of the word beside itself, moved down. -/
def ShaKind.turn (s : ShaKind) (x n : Nat) : Nat := (x * (2 ^ s.width + 1)) >>> n % 2 ^ s.width

/-- The large sigma functions. -/
def ShaKind.big (s : ShaKind) (rot : List Nat) (x : Nat) : Nat := rot.foldl (fun y n => y ^^^ s.turn x n) 0
/-- The small sigma functions. -/
def ShaKind.small (s : ShaKind) (rot : List Nat) (x : Nat) : Nat := s.big (rot.take 2) x ^^^ (x >>> rot.getD 2 0)

/-- The hash in work: the words that came to the head of each half of the value in the last four rounds, newest first, and the next sixteen words of
the schedule. -/
structure ShaWork where
  upper : List Nat
  lower : List Nat
  words : List Nat

/-- One round with its constant. FIPS 180-4 shifts eight variables; each half of them is here the last four of one sequence. -/
def ShaKind.round (s : ShaKind) (x : ShaWork) (key : Nat) : ShaWork :=
  let word := fun k => x.words.getD k 0
  let low := fun k => x.lower.getD k 0
  let up := fun k => x.upper.getD k 0
  let mixed := (low 3 + s.big s.big1 (low 0) + (low 2 ^^^ (low 0 &&& (low 1 ^^^ low 2))) + key + word 0) % 2 ^ s.width
  let chosen := s.big s.big0 (up 0) + ((up 0 &&& (up 1 ||| up 2)) ||| (up 1 &&& up 2))
  { upper := (mixed + chosen) % 2 ^ s.width :: x.upper.take 3
    lower := (up 3 + mixed) % 2 ^ s.width :: x.lower.take 3
    words := x.words.drop 1 ++ [(word 0 + s.small s.small0 (word 1) + word 9 + s.small s.small1 (word 14)) % 2 ^ s.width] }

/-- One block, given as a number of sixteen words, into the hash value. -/
def ShaKind.block (s : ShaKind) (v : List Nat × List Nat) (b : Nat) : List Nat × List Nat :=
  let x := s.keys.foldl s.round
    { upper := v.1, lower := v.2, words := (List.range 16).map (fun k => b >>> ((15 - k) * s.width) % 2 ^ s.width) }
  let add := List.zipWith (fun o n => (o + n) % 2 ^ s.width)
  (add v.1 x.upper, add v.2 x.lower)

/-- The padded message as a number, with its count of blocks: a one bit, as many zeros as fill the last block, and the length in two words. -/
def ShaKind.padded (s : ShaKind) (bs : List Byte) : Nat × Nat :=
  let bits := 8 * bs.length
  let count := ceilDiv (bits + 1 + 2 * s.width) (16 * s.width)
  (count, (2 * ofBe bs + 1) * 2 ^ (16 * s.width * count - bits - 1) + bits)

/-- The hash of a message, as the bytes of its eight words. -/
def ShaKind.hash (s : ShaKind) (bs : List Byte) : List Byte :=
  let m := s.padded bs
  let v := (List.range m.1).foldl (fun v k => s.block v (m.2 >>> (16 * s.width * (m.1 - 1 - k)) % 2 ^ (16 * s.width))) (s.start 0, s.start 1)
  ((v.1 ++ v.2).map (beBytes (s.width / 8))).flatten

/-- SHA-256. -/
def sha256 (bs : List Byte) : List Byte := sha256Kind.hash bs

/-! ## SHA-384 and ECDSA over P-384 (spec/16_firmware_update.md, spec/17_security_cairn.md; FIPS 180-4 and FIPS 186-4) -/

/-- SHA-384: the first six of the eight words. -/
def sha384 (bs : List Byte) : List Byte := (sha384Kind.hash bs).take 48

/-- The field, the order and the base point of P-384, and its coefficient b; its coefficient a is -3. -/
def p384 : Nat := 2 ^ 384 - 2 ^ 128 - 2 ^ 96 + 2 ^ 32 - 1
def p384Order : Nat :=
  0xffffffffffffffffffffffffffffffffffffffffffffffffc7634d81f4372ddf581a0db248b0a77aecec196accc52973
def p384B : Nat :=
  0xb3312fa7e23ee7e4988e056be3f82d19181d9c6efe8141120314088f5013875ac656398d8a2ed19d2a85c8edd3ec2aef
def p384G : Nat × Nat :=
  (0xaa87ca22be8b05378eb1c71ef320ad746e1d3b628ba79b9859f741e082542a385502f25dbf55296c3a545e3872760ab7,
   0x3617de4a96262c6f5d9e98bf9292dc29f8f41dbd289a147ce9da3113b5f0b8c00a60b1ce1d7e819d7a431d7c90ea0e5f)

/-- `a` to the power of `e`, modulo `m`, over the `k` low base-16 digits of `e`. (The operations of `Nat` stand by name: the kernel then
evaluates a signature check in little memory.) -/
def powMod (m : Nat) : Nat → Nat → Nat → Nat
  | 0, _, _ => 1 % m
  | k + 1, a, e => Nat.mod (Nat.mul (Nat.pow (powMod m k a (Nat.div e 16)) 16) (Nat.pow a (Nat.mod e 16))) m

/-- The inverse modulo a prime. -/
def invMod (m a : Nat) : Nat := powMod m 96 (a % m) (m - 2)

/-- The sum of two points; `none` is the point at infinity. -/
def ecAdd : Option (Nat × Nat) → Option (Nat × Nat) → Option (Nat × Nat)
  | none, q => q
  | p, none => p
  | some (x1, y1), some (x2, y2) =>
    if x1 = x2 && (y1 + y2) % p384 = 0 then none
    else
      let l := if x1 = x2 then (3 * x1 * x1 + (p384 - 3)) * invMod p384 (2 * y1) % p384
        else (y2 + (p384 - y1)) * invMod p384 (x2 + (p384 - x1)) % p384
      let x3 := (l * l + (p384 - x1) + (p384 - x2)) % p384
      some (x3, (l * (x1 + (p384 - x3)) + (p384 - y1)) % p384)

/-- The multiple of a point by the `k` low bits of a number. -/
def ecMul : Nat → Nat → Option (Nat × Nat) → Option (Nat × Nat)
  | 0, _, _ => none
  | k + 1, n, p => ecAdd (if n % 2 = 1 then p else none) (ecMul k (n / 2) (ecAdd p p))

/-- A public key x, y and a signature r, s, big-endian, are good for a message. -/
def ecdsaVerify (key sig msg : List Byte) : Bool :=
  let x := beAt key 0 48; let y := beAt key 48 48
  let r := beAt sig 0 48; let s := beAt sig 48 48
  let w := invMod p384Order s
  let z := ofBe (sha384 msg)
  decide (x < p384 ∧ y < p384 ∧ 0 < r ∧ r < p384Order ∧ 0 < s ∧ s < p384Order) && (y * y) % p384 == (x * x * x + (p384 - 3) * x + p384B) % p384 &&
    match ecAdd (ecMul 384 (z * w % p384Order) (some p384G)) (ecMul 384 (r * w % p384Order) (some (x, y))) with
    | some (x1, _) => x1 % p384Order == r
    | none => false

end Sys2Proof.Machine
end

