-- ==== Sys2Proof/Config.lean ====
section
/-! DEFINITION. What the manual leaves open. A free value has no body, so nothing can be proved of what it is. -/

namespace Sys2Proof.Machine

/-- Free values, one for each draw: `Hub.free` counts the draws. Used wherever the manual states that a value results and not which. -/
opaque Config.freeNat : Nat → Nat

/-- Where in the table area its first table lies, in units of 8 MiB modulo 256 MiB; R69 does not say. -/
opaque Config.tableShift : Nat

/-- The first 32 bytes of HKDF-SHA-384 over the pairing key and the nonces of the two hubs; R366 does not say which of them is its salt, its input and its
info. -/
opaque Config.sessionKey : List Byte → Nat → Nat → List Byte

/-- The bytes of local data memory, below 128 KiB, at which VLUT finds the entry of a 12-bit index, from its second operand; R324 does not say. -/
opaque Config.lutPlace : Nat → Nat → Nat

/-- The channel, as three times its pixel plus its place in R, G, B, that VUNPK brings to a 16-bit element, by the number of bits of a pixel, the element of
the second operand and the place of the element; and the 16-bit element of its two operands that VPACK takes for a channel. R324 does not say. -/
opaque Config.unpackPlace : Nat → Nat → Nat → Nat
opaque Config.packPlace : Nat → Nat → Nat

/-- How a code of fewer bits than 16 becomes a 16-bit channel element, and such an element a code of that many bits; and the bits of VPACK's result that no
channel gives, from its two operands. R324 does not say. -/
opaque Config.widened : Nat → Nat → Nat
opaque Config.narrowed : Nat → Nat → Nat
opaque Config.packRest : BitVec 512 → BitVec 512 → Nat → Nat

/-- The bytes that VCRC64 takes into a 64-bit lane of its destination, from its two operands; R324 does not say which. -/
opaque Config.crcBytes : BitVec 512 → BitVec 512 → Nat → List Byte

/-- The instruction and the data memory of one of SE0 to SE3 as the boot loads them from the control firmware; R338 does not give the part's layout. -/
opaque Config.firmwareCode : List Byte → Nat → List Byte
opaque Config.firmwareData : List Byte → Nat → List Byte

/-- Where in DRAM the boot ROM keeps its copy of the control firmware, in blocks of 64 bytes modulo the room there is; R440 does not say. -/
opaque Config.firmwarePlace : Nat

/-- The line of shared SRAM bank 16, of its 65,536, that holds 32 bytes of a log: by the log, the SEQ of the entry, and the place of the bytes in it; Table 6.5 does
not say. -/
opaque Config.logLine : Nat → Nat → Nat → Nat

/-- The line of shared SRAM bank 18, of its 65,536, that a Col item slot is; Table 6.5 does not say. -/
opaque Config.itemLine : Nat → Nat

/-- The control firmware of an image can read settings of a format other than its own; the manual says it of no firmware (R399). -/
opaque Config.readsFormat : List Byte → Nat → Bool

end Sys2Proof.Machine
end

