-- ==== Sys2Proof/Machine/RegId.lean ====
section
/-! DEFINITION. The names of the registers of BAR0, as the register sections of spec/ name them; a lower-case letter in a name stands for
an instance number. -/

namespace Sys2Proof.Machine

/-- The name of a register. -/
inductive RegId where
  | GLB_ID | GLB_STRAP | GLB_RST | GLB_RST_CAUSE | GLB_FLT_STATUS | GLB_FLT_CTL | GLB_NSH_HINT | GLB_LNK_RPLx | GLB_LNK_CLR
  | CLK_STATUS | PWR_CTL | PWR_STATUS | PWR_DOM_CTL | PWR_DOM_STATUS | PWR_RES_Ds | PWR_THERM_CTL | PWR_THERMi | INT_SRC_MAPn
  | INT_PENDk | INT_VEC_CTLv | HIF_ACC_ERR | SQn_BASE_LO | SQn_BASE_HI | SQn_CTL | SQn_EPOCH | SQn_STATUS | CQn_BASE_LO | CQn_BASE_HI
  | CQn_CTL | CQn_STATUS | EVQ_BASE_LO | EVQ_BASE_HI | EVQ_CTL | EVQ_STATUS | EVQ_LOST | CMT_STATUS | CMT_STG_WRITES | CMT_STG_BYTES
  | CMT_EPOCH | CMT_DIGEST_LO | CMT_DIGEST_HI | CMT_CHK_FAIL | CMT_CHK_RULE | CMT_DIRECT | CMT_DIRECT_LAST | CMT_TBL_BASE_LO
  | CMT_TBL_BASE_HI | TBt_CTL | TBt_LIMITS | TBt_TRIM | TBt_HOLD | TBt_PTP | TBt_PTP_DS | TBt_GEN_NS | TBt_GEN_FRAC | TBt_STATUS
  | TBt_OFFSET | TBt_FREQ | TBt_HOLD_EST | TBt_COUNTS | TBt_NOW_SEC_LO | TBt_NOW_SEC_HI | TBt_NOW_NS | TIM_PPS_SNAPt_SEC_LO
  | TIM_PPS_SNAPt_SEC_HI | TIM_PPS_SNAPt_NS | TIM_PPS_SNAPt_FRAC | TIM_CMPc_CTL | TIM_CMPc_SEC | TIM_CMPc_NS | TIM_CMPc_PERIOD
  | TIM_ODLr_ING | TIM_ODLr_EGR | TIM_NDLYn_k | NETn_CTL | NETn_TXQ_PCP | NETn_MAC_LO | NETn_MAC_HI | NETn_STATUS | NETn_CNT_FCS
  | NETn_CNT_OVR | NETn_CNT_PAUSE | NETn_TS_ING | NETn_TS_EGR | NETn_TS_ASYM | ING_FLOWf_CTL | ING_FLOWf_PATHA_IP | ING_FLOWf_PATHA_UDP
  | ING_FLOWf_PATHB_IP | ING_FLOWf_PATHB_UDP | ING_FLOWf_GEOM | ING_FLOWf_PKT | ING_FLOWf_PERIOD | ING_FLOWf_JB | ING_FLOWf_RING_LO
  | ING_FLOWf_RING_HI | ING_FLOWf_PITCH | ING_FLOWf_PIPES | ING_FSTf_STATUS | ING_FSTf_RTP | ING_FSTf_DUP | ING_FSTf_LATE
  | ING_FSTf_OVR | ING_FSTf_FMT | ING_FSTf_DONE | ING_FSTf_INC | ING_SACN_CTL | ING_SACN_STATUS | ING_SACN_IGN | ING_SACN_OVR
  | ING_SACN_POOL | ING_SACN_SEQ | ING_SACN_ACC | ING_CNT_CLR | MEM_STATUS | MEM_SCRUB | MEM_QOS | MEM_ECC_THR | MEM_CNT_CLR
  | MEMc_CNT_CE | MEMc_CNT_UE | MEMc_UE_ADDR_LO | MEMc_UE_ADDR_HI | MEM_DL_MISS | SRAM_CNT_CEb | SRAM_UE | LCL_CNT_CEe | LCL_UE
  | MEM_FIFOi_CTL | MEM_FIFOi_STATUS | SCNp_CTL | SCNp_SRC_GEOM | SCNp_SRC_PITCH | SCNp_BRIGHT | SCNp_FB_ADDR_LO | SCNp_FB_ADDR_HI
  | SCNp_FB_ARM | SCNp_FB_CUR_LO | SCNp_FB_CUR_HI | SCNp_ARM_STATUS | SCNp_ARM_FRAME | SCNp_SUBST | SCNp_LATE | SCNp_FLAG_ERR
  | PGg_CTL | PGg_PERIOD_NS | PGg_FRAC | PGg_PHASE_NS | PGg_RASTER | PGg_APPLY | PGg_STATUS | PGg_FRAME | PGg_HELD | CAL_CTL
  | CAL_STAT_TIME | CAL_PGg_CTL | CAL_STAT_COEFn | CAL_PIPEp_CTL | CAL_PIPEp_BASE_LO | CAL_PIPEp_BASE_HI | CAL_PIPEp_APPLY
  | CAL_PIPEp_STAT_LO | CAL_PIPEp_STAT_HI | CAL_PIPEp_STATUS | CAL_PIPEp_DELTA | CAL_PIPEp_CLAMP | CAL_PIPEp_DEAD | CAL_PIPEp_GVALIDk
  | CAL_PIPEp_MVALIDk | CAL_MSR_CTL | CAL_MSR_STATUS | CAL_MSR_RUN | CAL_MSR_MISS | NSHn_CTL | NSHn_SHIFT | NSHn_PAUSE | NSHn_STATUS
  | NSHn_Q2_OCC | NSHn_FAULT | NSHn_CNT_CRC | NSHn_CNT_FMT | NSHn_CNT_RXOVR | NSHn_CNT_FAR | NSHn_CNT_PAUSE | NSHn_CNT_SHIFT
  | NSHn_CNT_FAULT | NSHn_CNT_LOCK | NSHn_PROTO | NSHn_ENUM | NSHn_FMAP_CNT | NSHn_CNT_UDUP | NSHn_CNT_RETRY | NSHn_CNT_LATE
  | NSHn_CNT_FMOVF | NSHn_TILEk | NSHn_FMAPe | NSHn_TDUPk | NSHn_ING_ASYM | NSHn_EGR_ASYM | FIX_CTL | FIX_AREA_LO | FIX_AREA_HI
  | FIX_PGg_CTL | FIX_PGg_QUOTA | FIX_CUEc_LO | FIX_CUEc_HI | FIX_CUEc_CNT | FIX_STATUS | FIX_PGg_ACTIVE | FIX_CNT_SKIP | FIX_CNT_SUPER
  | FIX_CNT_LATE | FIX_CNT_POISON | ODLr_CTL | ODLr_PAN | ODLr_PHASE | ODLr_GUARD | ODLr_LEASE | ODLr_RBI | ODLr_STATUS | ODLr_BEACON
  | ODLr_TX_ERR | ODLr_LAST_EXT_LO | ODLr_LAST_EXT_HI | ODLr_LAST_ADDR | ODLr_CNT_FCS | ODLr_CNT_FMT | ODLr_CNT_DUP | ODLr_CNT_EVICT
  | ODLr_CNT_CCA | ODLr_CNT_LATE | ODLr_CNT_REFUSE | ODLr_NSTATa | COL_LVLl_CTL | COL_LVLl_STATUS | COL_LVLl_CNT_POST | COL_LVLl_CNT_REFUSE
  | COL_TALUSt_CTL | COL_TALUSt_STATUS | COL_TALUSt_CNT_REFUSE | COL_WAIT | COL_CNT_CANCEL | COL_CNT_POISON | COL_SECMASK
  | SPRe_CTL | SPRe_IMG_LO | SPRe_IMG_HI | SPRe_LEN | SPRe_ENTRY | SPRe_STATUS | SPRe_ITEM | SPRe_EXC_PC | SPRe_EXC_CAUSE
  | SPRe_STERR | PMU_CTL | PMUe_CNT_CTL | PMUe_EVSELk | PMUe_CYC_LO | PMUe_CYC_HI | PMUe_CNTk_LO | PMUe_CNTk_HI | PMU_SCNp_PX_EXAM_LO
  | PMU_SCNp_PX_EXAM_HI | PMU_SCNp_PX_SENT_LO | PMU_SCNp_PX_SENT_HI | PMU_SCNp_TILES_SENT_LO | PMU_SCNp_TILES_SENT_HI | PMU_SCNp_TILES_SKIP_LO
  | PMU_SCNp_TILES_SKIP_HI | PMU_SCNp_SLACK_MIN | PMU_SCNp_CTL | PMU_NSHn_TX_BLK_LO | PMU_NSHn_TX_BLK_HI | PMU_NSHn_IDLE_BLK_LO
  | PMU_NSHn_IDLE_BLK_HI | PMU_NSHn_RATE_MSr | PMU_NSHn_PEAK | PMU_NSHn_CTL | PMU_COL_GRANTS_LO | PMU_COL_GRANTS_HI | PMU_COL_ITEM_WAIT_LO
  | PMU_COL_ITEM_WAIT_HI | PMU_COL_ENG_WAIT_LO | PMU_COL_ENG_WAIT_HI | PMU_COL_RETURNS_LO | PMU_COL_RETURNS_HI | PMU_COL_CTL
  | SDL_CTL | SDL_STATUS | SDL_MUTE | SDL_TOFS | SDL_COPY | SDL_CNT_AUTH | SDL_CNT_PRBS | SDL_CNT_HBMISS | SDL_CNT_DIGEST
  | SDL_CNT_NOREC | SDL_CNT_BIST | SDL_CNT_PROMOTE | FWU_STATUS | FWU_STAGE | FWU_REASON | FWU_TRIAL | FWU_RUN_VER | FWU_RUN_SV
  | FWU_PREV_VER | FWU_CTL | CRN_CTL | CRN_CLR | CRN_STATUS | CRN_SNAP_HEAD | CRN_REC_HEAD | CRN_UID_LO | CRN_UID_HI | CRN_NONCE_LO
  | CRN_NONCE_HI | CRN_TRIG | CRN_UNITu_CTL | CRN_SETs_REGk | SEC_MWORLD | SEC_BLKWORLD | SEC_DRDn_BASE | SEC_DRDn_LIMIT | SEC_DRDn_CTL
  | SEC_SRDn_BASE | SEC_SRDn_LIMIT | SEC_SRDn_CTL | SEC_VIOL_CNT | SEC_VIOL_LAST_LO | SEC_VIOL_LAST_HI | SEC_OTP | TIO_PINp_CFG
  | TIO_PINp_DLY | TIO_GPIO
deriving DecidableEq, Repr

end Sys2Proof.Machine
end

