-- ==== Sys2Proof/Machine/State.lean ====
section
/-! DEFINITION. The state of the hub, as plain data, and the state right after a cold reset.
Every register field that software writes lies in `Hub.regs`; status that a block keeps lies in that block's record, and the register
that shows it is computed from there when it is read (`Machine/View.lean`), so that nothing has two homes. Arrays of records are sparse,
with the record's value after reset as the default. -/

namespace Sys2Proof.Machine

/-! ## Registers -/

/-- The commit classes of Table 3.1. -/
inductive RegClass where
  | f | l | s | d
deriving DecidableEq, Repr

/-- The world of a register: non-secure, secure, that of its engine, or that of its unit (R475). -/
inductive RegWorld where
  | ns | sec | eng | unit
deriving DecidableEq, Repr

/-- One register of the map: where it lies, its instances in two dimensions, its reset value and its fields by access code (Table 0.4). -/
structure RegDesc where
  id      : RegId
  base    : Nat
  count1  : Nat
  stride1 : Nat
  count2  : Nat
  stride2 : Nat
  reset   : Nat
  rw      : Nat
  ro      : Nat
  w1c     : Nat
  w1s     : Nat
  wo      : Nat
  cls     : RegClass
  world   : RegWorld
deriving DecidableEq, Repr

/-! ## Host interface (spec/02_host_interface.md) -/

/-- A completion entry (Table 2.5). -/
structure Completion where
  tag     : Nat
  status  : Nat
  orig    : Nat
  sq      : Nat
  phase   : Bool
  sqHead  : Nat
  result  : List Byte
deriving DecidableEq, Repr

/-- An event entry (Table 2.9). -/
structure Event where
  source  : Nat
  phase   : Bool
  seconds : Nat
  nanos   : Nat
  detail  : Nat
deriving DecidableEq, Repr

/-- Where a fetched descriptor stands: fetched and not begun; begun and moving data; or waiting for the event that completes it. -/
inductive DescPhase where
  | fetched | moving | waiting
deriving DecidableEq, Repr

/-- A descriptor that the hub holds, from its fetch to its completion. `tag` is its handle: the TAG that the host chose, plus a multiple of 2^32 that
sets it apart from the older descriptors of its ring with that TAG which the hub still holds (R55). `words` and `data` are what its step keeps
for the later ones, and `silent` that no completion is written (R41). -/
structure Desc where
  tag      : Nat
  opcode   : Nat
  flags    : Nat
  bytes    : List Byte
  cq       : Nat
  secure   : Bool
  phase    : DescPhase
  status   : Nat
  result   : List Byte
  words    : List Nat
  data     : List Byte
  silent   : Bool
deriving DecidableEq, Repr

/-- An entry of a duplicate window (R54), under the handle of its descriptor: the status is absent until the descriptor completes. -/
structure WinEntry where
  tag    : Nat
  status : Option Nat
  result : List Byte
deriving DecidableEq, Repr

/-- What the hub holds of a submission ring besides its registers. -/
structure Sq where
  head     : Nat := 0
  tail     : Nat := 0
  cfgErr   : Bool := false
  dbErr    : Nat := 0
  fenced   : Bool := false
  inflight : List Desc := []
  window   : List WinEntry := []
deriving DecidableEq, Repr

/-- What the hub holds of a completion ring besides its registers; `used` counts the entries written that the host has not consumed. -/
structure Cq where
  tail   : Nat := 0
  phase  : Bool := true
  head   : Nat := 0
  used   : Nat := 0
  cfgErr : Bool := false
deriving DecidableEq, Repr

/-- What the hub holds of the event ring besides its registers (R47); `held` the events that their blocks hold until FIFO 5 has room (Table 6.7). -/
structure Evq where
  tail   : Nat := 0
  phase  : Bool := true
  head   : Nat := 0
  used   : Nat := 0
  cfgErr : Bool := false
  ovf    : Bool := false
  lost   : Nat := 0
  held   : List Event := []
deriving DecidableEq, Repr

/-- A doorbell write (Table 2.6a). -/
inductive Doorbell where
  | sqTail (n value : Nat) | cqHead (n value : Nat) | evqHead (value : Nat) | rearm (v : Nat)
deriving DecidableEq, Repr

/-- An MSI-X vector: armed (R63), its last message, its table entry (Table 20.2) and its pending bit. -/
structure Vec where
  armed   : Bool := true
  lastMsg : Option Nat := none
  addr    : Nat := 0
  data    : Nat := 0
  mask    : Bool := true
  pba     : Bool := false
deriving DecidableEq, Repr

/-- Where an ABORT stands (R58, R60): its target quiesces, or hangs and will not; or its block is being reset, after an escalation or not. -/
inductive AbortPhase where
  | quiescing (hung : Bool)
  | resetting (escalated : Bool)
deriving DecidableEq, Repr

/-- An ABORT in flight on one target, with the descriptors that joined it (R60); for a ring, `tail` is its tail as read at the ABORT's fetch
(Table 2.6); `atOnce` says that the target has nothing to quiesce (R131). -/
structure AbortOp where
  kind  : Nat
  index : Nat
  phase : AbortPhase
  ended : Nat
  descs : List (Nat × Nat)
  tail  : Nat := 0
  atOnce : Bool := false
deriving DecidableEq, Repr

/-- The PCI Express link and endpoint (R37, R38): whether the boot sequence has reached link bring-up, so that configuration requests are answered,
and the width and the generation at which the link trained. -/
structure PcieLink where
  ready : Bool := false
  width : Nat := 0
  gen   : Nat := 0
deriving DecidableEq, Repr

/-- The HOST region: rings, vectors, the MSI-X capability and the ABORTs in flight; the ring last served by the weighted round robin and the
descriptors fetched from it in its turn (R45); the link; and the doorbell writes that wait for FIFO 0 (Table 6.7). -/
structure Rings where
  sqs       : Sparse Sq := []
  cqs       : Sparse Cq := []
  evq       : Evq := {}
  vecs      : Sparse Vec := []
  msixEn    : Bool := false
  fmask     : Bool := false
  aborts    : List AbortOp := []
  wrrRing   : Nat := 63
  wrrUsed   : Nat := 15
  link      : PcieLink := {}
  doorbells : List Doorbell := []
deriving DecidableEq, Repr

/-! ## Summit commit (spec/03_summit_commit.md) -/

/-- CMT_STATUS.STATE. -/
inductive CmtPhase where
  | idle | checking | pending
deriving DecidableEq, Repr

/-- A staged register write: BAR0 offset and value, and the ring and tag of the CFG_STAGE that is still staging it. -/
structure StagedWrite where
  off   : Nat
  value : Nat
  owner : Option (Nat × Nat)
deriving DecidableEq, Repr

/-- A table: TABLE_ID and content (R68). -/
structure Table where
  id    : Nat
  bytes : List Byte
deriving DecidableEq, Repr

/-- Table bytes staged by one descriptor, and the ring and tag of the CFG_STAGE that is still staging them. -/
structure StagedTable where
  id    : Nat
  bytes : List Byte
  owner : Option (Nat × Nat)
deriving DecidableEq, Repr

/-- A tile's answer to a census: port, tile, epoch, digest, and the TB0 time of the answer. -/
structure CensusAnswer where
  port    : Nat
  tile    : Nat
  epoch   : Nat
  digest  : List Byte
  differs : Bool
  seconds : Nat
  nanos   : Nat
deriving DecidableEq, Repr

/-- A census in progress (R85). -/
structure Census where
  sq      : Nat
  tag     : Nat
  mask    : Nat
  dest    : Nat
  epoch   : Nat
  seconds : Nat
  nanos   : Nat
  down    : List Nat
  tiles   : List (Nat × Nat)
  answers : List CensusAnswer
  endEpoch : Nat
  endDigest : List Byte
deriving DecidableEq, Repr

/-- The registers (false) and tables (true) that take part in a rule which a set breaks, by offset and TABLE_ID (R75). -/
abbrev Finding := List (Bool × Nat)

/-- A table in force of which the block that it configures is refused some part: the bytes that the block reads, and the DRAM blocks that refuse it, each with
the kind of its violation (R144, R406). -/
structure TableView where
  id    : Nat
  bytes : List Byte
  shut  : List (Nat × Nat)
deriving DecidableEq, Repr

/-- The commit engine: the staging bank, the tables in force (`seen` has those that their blocks may not read whole), the commit in progress, the epoch, the digest and the censuses.
`slots` says which of its two slots in DRAM each table in force lies in (R69). `atStart` holds what the rules that speak of the start of the check found then (R204, R279, R354). -/
structure Commit where
  phase     : CmtPhase := .idle
  writes    : List StagedWrite := []
  tables    : List StagedTable := []
  inForce   : List Table := []
  seen      : List TableView := []
  slots     : Sparse Bool := []
  owner     : Option (Nat × Nat) := none
  instant   : Instant := .immediate
  next      : Bool := false
  kind      : Nat := 0
  epoch     : Nat := 0
  digest    : List Byte := List.replicate 8 0
  chkFail   : Nat := 0
  chkRule   : Nat := 0
  chkTbl    : Bool := false
  chkStatus : Nat := 0
  baseFixed : Bool := false
  atStart   : List Finding := []
  censuses  : List Census := []
deriving DecidableEq, Repr

/-! ## Time bases and timed I/O (spec/04_time.md) -/

/-- TBt_STATUS.STATE (Table 4.2). -/
inductive ServoState where
  | free | acquire | locked | holdover | jumpHeld
deriving DecidableEq, Repr

/-- A PTP master that a base hears: its NET port, the identity of its sending port, and the data set of its latest Announce (R101). -/
structure PtpMaster where
  port  : Nat
  src   : Nat
  set   : List Nat
  heard : Nat
  qual  : Bool
deriving DecidableEq, Repr

/-- What of a base a measurement of one PCLK cycle may change, as it stood before the first of that cycle (R100). -/
structure ServoSave where
  clock   : Nat
  state   : ServoState
  freq    : Int
  freqLog : List (Nat × Int)
  steered : List Nat
  offset  : Int
  e0      : Nat
  since   : Nat
  jumps   : Nat
  quality : Nat
deriving DecidableEq, Repr

/-- A time base. `t48` is its value in units of 2^-48 ns (R88), `freq` its frequency offset in 1/256 ppb, `freqLog` the frequencies
with the PCLK cycle from which each was in force, newest first, and `steered` the cycles of those that were the servo's output; `offset` is TBt_OFFSET in ns and `e0` that of R96 in 2^-48 ns. `deferred` is the
ring and tag of an accepted backward jump that waits (R99), and `jumpedAt` the PCLK cycle of the latest TIME_SET or accepted jump (R100).
`master` is the selected PTP master and `rivals` every master heard, with the PCLK cycle of its latest Announce and whether it qualifies; `syncT2` is the sequence number and local stamp of a Sync under way,
`reqT3` the sequence number and stamp of the delay request of each port, `peerT4` the number, the local stamp, and the stamp and correction carried of a two-step
peer delay answer that waits for its Follow_Up, `lastDiff` the latest local less master time, and `delays` the mean path delay of each port, in 2^-48 ns. -/
structure TimeBase where
  t48        : Nat := 0
  freq       : Int := 0
  freqLog    : List (Nat × Int) := []
  steered    : List Nat := []
  state      : ServoState := .free
  quality    : Nat := 5
  offset     : Int := 0
  e0         : Nat := 0
  since      : Nat := 0
  slavePort  : Nat := 0
  slaveValid : Bool := false
  deferred   : Option (Nat × Nat) := none
  jumps      : Nat := 0
  masters    : Nat := 0
  jumpedAt   : Option Nat := none
  master     : Option PtpMaster := none
  rivals     : List PtpMaster := []
  syncT2     : Option (Nat × Nat) := none
  reqT3      : Sparse (Option (Nat × Nat)) := []
  peerT4     : Sparse (Option (Nat × Nat × Nat × Int)) := []
  lastDiff   : Int := 0
  delays     : Sparse Int := []
deriving DecidableEq, Repr

/-- A compare unit: FIRED, LATE and, when armed, its next firing in units of 2^-48 ns (R111). -/
structure Compare where
  fired : Bool := false
  late  : Bool := false
  next  : Option Nat := none
deriving DecidableEq, Repr

/-- A timed I/O pin: the level it drives, when it drives one, whether that is a pulse and when it ends, in 2^-48 ns of the pin's base, the level
sampled on it, and the time of its latest captured edge, in 0.25 ns from the first PCLK cycle (R466). -/
structure Pin where
  drive  : Option Bool := none
  sample : Bool := false
  active : Bool := false
  ends   : Nat := 0
  edge   : Option Nat := none
deriving DecidableEq, Repr

/-- What a measurement has to tell: an event of its base, or the record of a refusal, with the offset, the state before and the source (R94, R96). -/
inductive Told where
  | event (detail : Nat)
  | refusal (offset : Int) (state source : Nat)
deriving DecidableEq, Repr

/-- The bases, the copies of their values taken at a whole second of TB0 (R90), what measurements of this PCLK cycle replaced and have to tell (R100), the compare
units and the pins. -/
structure TimeState where
  bases : Sparse TimeBase := []
  snap  : Sparse Nat := []
  saves : Sparse (Option ServoSave) := []
  told  : List (Nat × Told) := []
  cmps  : Sparse Compare := []
  pins  : Sparse Pin := []
deriving DecidableEq, Repr

/-! ## Network ports and ingest (spec/05_ingest.md) -/

/-- A frame that waits to be sent on a sub-port: one that an engine posted, the control firmware's answer to a frame, or its IGMPv3 join or leave of
an address (R116, R118). -/
inductive TxFrame where
  | posted (frame : List Byte)
  | answer (frame : List Byte)
  | igmp (addr : Nat) (join : Bool)
deriving DecidableEq, Repr

/-- A PTP message in transmit queue Q7 (R103, R118): its base, whether it travels in Ethernet frames and not in UDP, its sequence number, and the time stamp that
it carries; an event message takes its own as it leaves. -/
structure Q7Frame where
  t     : Nat
  m     : PtpOut
  l2    : Bool
  seq   : Nat
  stamp : Nat
deriving DecidableEq, Repr

/-- A sub-port (keyed 4 × port + sub-port): its link, its transmit queue Q7 and the PCLK cycle in which it last sent a frame, its transmit queues Q0 to Q6, oldest frame first, the frames of the control firmware that wait
for room in Q6, the bytes held in its receive buffer, the holds in force (by a PAUSE, and by class), and the queues whose present hold has raised
event 0x04. -/
structure NetSub where
  link     : Bool := false
  q7       : List Q7Frame := []
  sentAt   : Option Nat := none
  txq      : Sparse (List TxFrame) := []
  firm     : List TxFrame := []
  rx       : Nat := 0
  paused   : Bool := false
  classes  : List Nat := []
  heldSaid : List Nat := []
deriving DecidableEq, Repr

/-- What a frame arms that completes in the PCLK cycle of an apply: the pipes that its flow was bound to before it, and the address of its slot then (R130). -/
structure FlowArms where
  clock : Nat
  pipes : List Nat
  addr  : Nat
deriving DecidableEq, Repr

/-- A frame of a flow in progress, or complete and waiting for its last DRAM write: its slot, RTP timestamp, number of packets accepted, and
whether its marker was. `samples` holds the samples received (row × 8192 + column), whose chroma a later packet may need (R129). `cells` are the jitter-buffer cells that its packets have
taken; `under` is set when a commit has written the flow while the frame waited for its last DRAM write. -/
structure FlowFrame where
  slot    : Nat
  rtp     : Nat
  count   : Nat
  marker  : Bool
  samples : Sparse (List Nat)
  cells   : Nat := 0
  under   : Option FlowArms := none
deriving DecidableEq, Repr

/-- An ST 2110-20 flow. A path is `up` from its first packet and `down` after 10 ms without one; `slot` is the last slot written; `high` and
`seen` are the merge window (R122); `ended` the timestamps of frames that have ended; `overrun` those that have raised event 0x03; `cells` the
jitter-buffer cells in use; `slots` one more than the RTP timestamp of the complete frame
that each slot holds. -/
structure Flow where
  upA     : Bool := false
  upB     : Bool := false
  downA   : Bool := false
  downB   : Bool := false
  stalled : Bool := false
  aborted : Bool := false
  slot    : Option Nat := none
  high    : Option Nat := none
  seen    : List Nat := []
  frame   : Option FlowFrame := none
  done    : List FlowFrame := []
  ended   : List Nat := []
  overrun : List Nat := []
  slots   : Sparse Nat := []
  cells   : Nat := 0
deriving DecidableEq, Repr

/-- A tracked sACN source of a universe: its CID, priority, last sequence number, values, and the order in which its latest packet arrived. -/
structure SacnSource where
  cid    : Nat
  prio   : Nat
  seq    : Nat
  values : List Byte
  last   : Nat
deriving DecidableEq, Repr

/-- A universe, by its index in the universe table: its sources, the sources refused, its merged values, and the synchronisation addresses it
waits for (R134, R136, R137). -/
structure Universe where
  sources : List SacnSource := []
  refused : List Nat := []
  merged  : List Byte := []
  waiting : List Nat := []
deriving DecidableEq, Repr

/-- Network and ingest; `arrivals` orders the accepted sACN packets, and `sacnIn` counts those in the input queue of the sACN receiver (R132). -/
structure NetState where
  subs     : Sparse NetSub := []
  flows    : Sparse Flow := []
  univs    : Sparse Universe := []
  arrivals : Nat := 0
  sacnIn   : Nat := 0
deriving DecidableEq, Repr

/-! ## Memory (spec/06_memory.md) -/

/-- The memories of the hub. `dram` is keyed by DRAM offset and `sram` by offset from 0x00_4000_0000; `imem` and `dmem` are the engine
local memories, keyed by engine × 2^17 + offset. Tags are keyed by block (offset ÷ 64); a listed codeword
(offset ÷ 2) holds a double error that every read of its line detects (R151). `stored` marks the bytes of `sram` that an engine or JTAG has
stored, whose bytes a read of a bank that the hub keeps elsewhere gives back (R150); `calSet` lists the runs of DRAM, by address and length, that hold the
calibration entries loaded since power-up (R202). -/
structure Memory where
  dram    : List Host.Cell := []
  tags    : Sparse BlockTag := []
  sram    : List Host.Cell := []
  sramBad : Sparse Bool := []
  imem    : List Host.Cell := []
  imemBad : Sparse Bool := []
  dmem    : List Host.Cell := []
  dmemBad : Sparse Bool := []
  stored  : Sparse Bool := []
  calSet  : List (Nat × Nat) := []
deriving DecidableEq, Repr

/-! ## Presentation groups and scan-out pipes (spec/07_scanout.md) -/

/-- PGg_STATUS.STATE. -/
inductive PgPhase where
  | disabled | running | gap | selfRefresh
deriving DecidableEq, Repr

/-- A presentation group. `start` is T_N of the frame in progress and `next` the
instant of the next boundary, in 2^-48 ns of its base; `epoch` the epoch in force at T_N (R84); `first` says that the next frame is the first after an
enable (R164); `quiet` counts frames without PIX, and `counting` says that the frame in progress began under CHG_EN 1 and a non-zero SR_FRAMES (R192); `leaveAt` the time of a trigger of R193 that waits for a boundary, in 2^-48 ns from the first PCLK cycle; `begun` that the
current line has been processed; `stepped` that the base stepped
in the frame; `lastFlip` is the presentation time of the latest FLIP sent; `applied` that APPLY_LINE of the frame has begun; `scanned` that the latest
frame was scanned, its group not in self-refresh. In a gap `start` is the point from which its end is reckoned (R163). -/
structure Group where
  phase     : PgPhase := .disabled
  frame     : Nat := 0
  start     : Nat := 0
  next      : Nat := 0
  epoch     : Nat := 0
  line      : Nat := 0
  begun     : Bool := false
  first     : Bool := true
  quiet     : Nat := 0
  counting  : Bool := false
  sentPix   : Bool := false
  leaveAt   : Option Nat := none
  stepped   : Bool := false
  applied   : Bool := false
  scanned   : Bool := false
  held      : Nat := 0
  srEntries : Nat := 0
  lastFlip  : Option Nat := none
deriving DecidableEq, Repr

/-- A scan-out pipe. `pend` is the pending arm, `next` the arm that took effect and is scanned from the next frame, `cur` the buffer being
scanned. `hashes` is one more than the hash of each tile in the last frame scanned (R189), 0 where there is none; `sending` the tiles sent in
this frame; `dead` the pixels (tile, pixel) that the fault map makes DEAD (R200); `touched` that a set applied at this boundary touches the
pipe; `block` the index of the next block, and `pixBegun` that PIX of the frame has begun to be queued; `stopped` that an ABORT stopped the pipe until the next boundary; `lutNew` that the curves must be
loaded, `lutBad` that the last load was poisoned (R178); `pendAt` the PCLK cycle in which the pending arm landed and its place in the order of R181, `armsIn` the places of every arm of that cycle, and `hadOld` that
an older arm was pending when the first of them landed; `noPix` and `noPixNext` that a STANDBY sends no PIX in this frame or the next, and
`fallback` the ingest arm of its own that it had pending at APPLY_LINE (R369); `walked` the hash of each tile over what the frame in progress has fetched. -/
structure Pipe where
  pend       : Option Arm := none
  pendAt     : Nat × Nat := (0, 0)
  armsIn     : List Nat := []
  hadOld     : Bool := false
  next       : Option Arm := none
  cur        : Nat := 0
  moved      : Bool := false
  armErr     : Nat := 0
  superseded : Nat := 0
  armFrame   : Nat := 0
  hashes     : Sparse Nat := []
  sending    : List Nat := []
  dead       : List (Nat × Nat) := []
  touched    : Bool := false
  block      : Nat := 0
  pixBegun   : Bool := false
  flipped    : Bool := false
  stopped    : Bool := false
  lutNew     : Bool := false
  lutBad     : Bool := false
  substSaid  : Bool := false
  lateSaid   : Bool := false
  missSaid   : Bool := false
  noPix      : Bool := false
  noPixNext  : Bool := false
  fallback   : Option Arm := none
  walked     : Sparse Nat := []
deriving DecidableEq, Repr

/-- The groups and the pipes. -/
structure Scan where
  groups : Sparse Group := []
  pipes  : Sparse Pipe := []
deriving DecidableEq, Repr

/-! ## Colour calibration (spec/08_calibration.md) -/

/-- CAL_PIPEp_STATUS.STATE (Table 8.4). -/
inductive CalPhase where
  | idle | loaded | slewing | copying | fold
deriving DecidableEq, Repr

/-- The calibration of a pipe. `gTarget` and `mTarget` are the VALID bits of the target bank, `gForce` and `mForce` those in force, each a mask of
slots; `touched` the slots written since the previous transition, `lastTouched` those of the transition under way, and `forced` those that a target forced
outside a transition's frames has changed since the last frame scanned (R189, R208); `loads` lists the
CAL_LOADs in progress; `loaded` that one ended while a fold ran; `slewOnly` that a fold asked for the transition; `foldAt` the time from which it may start, in 2^-48 ns from the first PCLK cycle;
`sampled` the PCLK cycle of the latest sample. -/
structure CalPipe where
  phase       : CalPhase := .idle
  bank        : Nat := 0
  k           : Nat := 0
  j           : Nat := 0
  dg          : Nat := 0
  dm          : Nat := 0
  gTarget     : Nat := 0
  mTarget     : Nat := 0
  gForce      : Nat := 0
  mForce      : Nat := 0
  touched     : List Nat := []
  lastTouched : List Nat := []
  forced      : List Nat := []
  loads       : List (Nat × Nat) := []
  start       : Bool := false
  slewOnly    : Bool := false
  foldAt      : Nat := 0
  changed     : Bool := false
  loaded      : Bool := false
  statInit    : Bool := false
  statReady   : Bool := false
  sampled     : Option Nat := none
deriving DecidableEq, Repr

/-- CAL_MSR_STATUS.STATE. -/
inductive MsrPhase where
  | idle | waiting | running
deriving DecidableEq, Repr

/-- The measurement sequencer: the run, its ring and tag, its sequence, its group and first frame, the steps whose sub-field started, the CAL
frames of the next step that each port and tile has still to acknowledge, and the misses. -/
structure Msr where
  phase   : MsrPhase := .idle
  owner   : Option (Nat × Nat) := none
  seq     : List Byte := []
  pg      : Nat := 0
  f0      : Nat := 0
  started : Nat := 0
  run     : Nat := 0
  due     : List (Nat × Nat × Nat) := []
  missed  : Nat := 0
  first   : Nat := 0
  stop    : Bool := false
deriving DecidableEq, Repr

/-- Calibration of the pipes, the sequencer, the pipe that the estimator sampled last, the PCLK cycles from which its next sample and its next round of folds are
due, and the pipes, as bits, that the round has folded (R217, R218). -/
structure Cal where
  pipes   : Sparse CalPipe := []
  msr     : Msr := {}
  last    : Nat := 31
  statDue : Nat := 0
  foldDue : Nat := 0
  folded  : Nat := 0
deriving DecidableEq, Repr

/-! ## Naush ports (spec/09_naush_link.md, spec/10_tile_protocol.md) -/

/-- NSHn_STATUS.STATE; a port in training has not yet left electrical idle while `idle` is set. -/
inductive LinkPhase where
  | off | training (idle : Bool) | up | shifting | wait
deriving DecidableEq, Repr

/-- What queued a frame: a TILE_SEND (its ring and tag), a step of a measurement run (run × 8192 + step), a fixture output (its index), the hub's own
CONFIG, its ENUM request, which no acknowledgement retires (R244), or nothing that waits for it. -/
inductive FrameOwner where
  | none | tileSend (q tag : Nat) | step (k : Nat) | fix (i : Nat) | config | enum
deriving DecidableEq, Repr

/-- A frame of Q1 or Q3: its type, destination, number and payload; whether it has been sent, how often it was resent, and the tiles whose
acknowledgement it waits for. `todo` lists the ports of the chain from which it has still to leave (R242), and `epoch` is the epoch of its first
sending, which a resend keeps (R250). `unsup` collects UNSUPPORTED. `pt` is the base and time by which a FIX must start (R283). -/
structure QFrame where
  type     : Nat
  dest     : Nat
  seq      : Nat := 0
  payload  : List Byte
  owner    : FrameOwner
  sent     : Bool := false
  todo     : List Nat := []
  epoch    : Nat := 0
  tries    : Nat := 0
  due      : List Nat := []
  unsup    : Bool := false
  pt       : Option (Nat × Nat) := none
deriving DecidableEq, Repr

/-- A PIX frame of Q2. -/
structure PixFrame where
  tile    : Nat
  seq     : Nat
  payload : List Byte
deriving DecidableEq, Repr

/-- A frame as it leaves (Table 9.3); its CRC follows from it. -/
structure NFrame where
  type    : Nat
  addr    : Nat
  queue   : Nat
  seq     : Nat
  flags   : Nat
  epoch   : Nat
  payload : List Byte
deriving DecidableEq, Repr

/-- What a port keeps of a tile: NSHn_TILEk, the duplicate count, the last upstream number accepted (R248), and what its identity answer said
of the four LAST numbers, of its maker and model, and of its firmware version; `answer` is that answer. -/
structure TileRec where
  present    : Bool := false
  configured : Bool := false
  mismatch   : Bool := false
  resend     : Bool := false
  endA       : Bool := false
  endB       : Bool := false
  last       : Nat := 0
  frame      : Nat := 0
  dup        : Nat := 0
  upSeq      : Option Nat := none
  ok         : Bool := false
  lasts      : List Nat := []
  vendor     : Nat := 0
  model      : Nat := 0
  version    : Nat := 0
  answer     : List Byte := []
deriving DecidableEq, Repr

/-- An entry of the fault map (NSHn_FMAPe), with the time of its acceptance, or of its clearing, in 2^-48 ns from the first PCLK cycle (R200). -/
structure FaultEntry where
  pixel : Nat
  tile  : Nat
  ch    : Nat
  short : Bool
  since : Nat
deriving DecidableEq, Repr

/-- A FLIP that a port sent: its frame, and the tiles that were sent whole in it. -/
structure FlipRec where
  frame : Nat
  whole : List Nat
deriving DecidableEq, Repr

/-- A Naush port. `uni1`, `uni3`, `bc1` and `bc3` are the next numbers of R247; `sends` the producers that wait for room; `q2More` the PIX frames with
which the pipe waits for room in Q2 (Table 9.5); `holds` the hold record of each tile, mask and end time in 0.01 ns from the first PCLK cycle (R230), and
`heldSaid` the queues whose present hold has raised event 0x06; `wantUp` and `wantDown` that an upshift or a downshift was asked for (R235); `shiftAt` the
PCLK cycle in which the latest shift began, and `followAt` that in which the receiver followed a SHIFT of the other end and has not regained block lock
since (R233); `enumTry` counts the requests of an enumeration in progress, and `before` lists the tiles known before it;
`stamped` the rounds whose egress stamp t1 was kept, with it in 2^-16 ns from the first PCLK cycle, and `rounds` the round and RTT of each valid answer of a tile (R106); `timeDue` that TIME goes before
the next FLIP (R89);
`idle` is time not carried by frames, in 0.01 ns, not yet counted in IDLE_BLK, negative while a frame is being sent; `digest` the bytes of each PIX of the frame that enter its
output digest, with the SEQ of the PIX, and `digested` the digest of a frame whose FLIP still waits in Q0, with the frame (R379); `enumReq` the REQ of the latest ENUM request that the port
queued. -/
structure Port where
  phase    : LinkPhase := .off
  rate     : Nat := 0
  ceil     : Nat := 0
  tryRate  : Nat := 0
  rxRate   : Nat := 0
  cause    : Nat := 0
  q0       : List NFrame := []
  q1       : List QFrame := []
  q3       : List QFrame := []
  q2       : List PixFrame := []
  q2More   : List PixFrame := []
  sends    : List QFrame := []
  peak     : Nat := 0
  low      : Nat := 0
  wantUp   : Bool := false
  wantDown : Bool := false
  shiftTo  : Nat := 0
  shiftAt  : Nat := 0
  followAt : Option Nat := none
  holds    : Sparse (Nat × Nat) := []
  heldSaid : Nat := 0
  uni1     : Sparse Nat := []
  uni3     : Sparse Nat := []
  bc1      : Nat := 0
  bc3      : Nat := 0
  tiles    : Sparse TileRec := []
  before   : List Nat := []
  enumTry  : Nat := 0
  enumDone : Bool := false
  enumBad  : Bool := false
  enumCnt  : Nat := 0
  req      : Nat := 0
  fmap     : List FaultEntry := []
  cleared  : List FaultEntry := []
  fullSaid : Bool := false
  measuring : Bool := false
  measured : Bool := false
  rtFails  : Nat := 0
  stamped  : List (Nat × Nat) := []
  rounds   : Sparse (List (Nat × Int)) := []
  lateSaid : Option Nat := none
  flips    : List FlipRec := []
  lost     : Bool := false
  timeSent : Bool := false
  timeDue  : Bool := false
  digest   : List (Nat × List Byte) := []
  digested : Option (Nat × Nat) := none
  enumReq  : Option Nat := none
  idle     : Int := 0
deriving DecidableEq, Repr

/-- What a port's lane carries besides frames, from then on: electrical idle, IDLE blocks, or an ordered set, TRAIN or SHIFT, as the eight bytes of its
block (R221, R237, Table 9.2). -/
inductive LaneOut where
  | electricalIdle | idleBlocks | orderedSet (block : List Byte)
deriving DecidableEq, Repr

/-! ## Fixtures (spec/11_fixtures.md) -/

/-- The fade engine. `clocks` holds E_g of each group in 2^-16 ns and `ticked` one more than the frame of its latest tick; `fades` the running
fades; `cues` the cues that were started and wait for their tick; `prev` the layer value of each parameter at its fixture's previous tick; `fresh`
the parameters newly mapped and not yet ticked; `whole` the PCLK cycle at which each output was last sent whole and `dirty` the outputs to be sent
whole; `held` the FIX frames that wait for room, by port; `acked` lists the nodes (port × 128 + tile) that have acknowledged a CONFIG since the
latest tick. The three flags say that an event of the present tick has been raised. -/
structure Fix where
  clocks     : Sparse Nat := []
  ticked     : Sparse Nat := []
  fades      : List Fade := []
  cues       : List Nat := []
  prev       : Sparse Nat := []
  fresh      : List Nat := []
  whole      : Sparse Nat := []
  dirty      : List Nat := []
  held       : List (Nat × QFrame) := []
  lateSaid   : Bool := false
  superSaid  : Bool := false
  poisonSaid : Bool := false
  acked      : List Nat := []
deriving DecidableEq, Repr

/-! ## Odelle (spec/12_odelle_mesh.md) -/

/-- ODLr_STATUS.STATE. -/
inductive OdlPhase where
  | off | starting | beaconing | standby | fault | halted
deriving DecidableEq, Repr

/-- An ASSOC_RSP that waits for the next downlink. -/
structure OdlRsp where
  dst    : Nat
  ext    : Nat
  addr   : Nat
  status : Nat
deriving DecidableEq, Repr

/-- An Odelle MAC. `idx` and `at48` are the index and instant B_k of the next beacon; `last` the number of the latest beacon sent and `plan` its
planned SFD until that is captured; `ctl`, `guard`, `lease` and `rbi` the settings that the latest beacon carried; `seq` the hub's next sequence
number; `seen` the cache, oldest first, each entry with the beacons that it still outlives; `latest` the merged values of each output at its
group's latest tick, with that group, and `ticks` the frame and presentation time of each group's latest tick; `marks` the dirty span of each
output (first and last slot; (0, 0) for none), `wholes` the outputs whose whole mark is not yet sent, and `served` one more than the output served
last. -/
structure Odl where
  phase   : OdlPhase := .off
  idx     : Nat := 0
  at48    : Nat := 0
  last    : Nat := 0
  plan    : Option Nat := none
  prevErr : Int := 0
  stepped : Bool := false
  ctl     : Nat := 0
  guard   : Nat := 0
  lease   : Nat := 0
  rbi     : Nat := 0
  table   : Sparse OdlAddr := []
  seq     : Nat := 0
  seen    : List (Nat × Nat × Nat) := []
  rsps    : List OdlRsp := []
  latest  : Sparse (Nat × List Byte) := []
  ticks   : Sparse (Nat × Nat) := []
  marks   : Sparse (Nat × Nat) := []
  wholes  : List Nat := []
  served  : Nat := 0
deriving DecidableEq, Repr


/-! ## Col work dispatcher (spec/14_col_dispatcher.md) -/

/-- An engine that waits in WGET: its level mask, the local address for the descriptor, the register for the ID, and the cycle since which it waits. -/
structure Waiter where
  engine : Nat
  mask   : Nat
  addr   : Nat
  rd     : Nat
  since  : Nat
deriving DecidableEq, Repr

/-- The FCLK cycle that Col is in: the PCLK cycle, which of its two it is, the place in Table 14.2 of the latest event, and the slots freed at the end of it,
each with its level (R352). -/
structure ColTurn where
  clock : Nat := 0
  late  : Bool := false
  rank  : Nat := 0
  freed : List (Nat × Nat) := []
deriving DecidableEq, Repr

/-- Col: the items, in the order in which they came to where they stand; the generation of each slot; the engines that wait, longest first;
the levels whose latest refusal has been told (R361); and the PCLK cycle of the latest grants, and that of the latest returns from the Talus lists, each with how
many that cycle has had (R349, R352). `turn` orders the events of an FCLK cycle, and
`fclk` counts the PCLK cycles in which FCLK has run (R352, R425, R428). -/
structure Col where
  items   : List WorkItem := []
  gens    : Sparse Nat := []
  waiters : List Waiter := []
  told    : List Nat := []
  grants  : Nat × Nat := (0, 0)
  returns : Nat × Nat := (0, 0)
  turn    : ColTurn := {}
  fclk    : Nat := 0
deriving DecidableEq, Repr

/-! ## Spur engines (spec/13_spur_engines.md) -/

/-- SPRe_STATUS.STATE. -/
inductive EngPhase where
  | off | loading | running | waiting | halted | failed
deriving DecidableEq, Repr

/-- What an outstanding load brings back (R320, R337): a scalar, a vector, an error response, or poisoned data with the address of its first
poisoned block. -/
inductive LoadData where
  | scalar (v : Word)
  | vector (v : BitVec 512)
  | error
  | poisoned (block : Nat)
deriving DecidableEq, Repr

/-- An outstanding load: its instruction's address, the engine address it reads, its destination and what it brings back. -/
structure EngLoad where
  pc   : Nat
  addr : Nat
  dest : Nat
  data : LoadData
deriving DecidableEq, Repr

/-- An engine (Table 13.2 and its SPR registers). `loads` are the outstanding loads, oldest first; `lost` the stores whose error response has not
come; `told` that event 0x03 has been raised since STERR was cleared; `reload` that a load of the image is a copy of the data section alone. -/
structure Engine where
  phase    : EngPhase := .off
  s        : Sparse Word := []
  v        : Sparse (BitVec 512) := []
  k        : Sparse (BitVec 64) := []
  pc       : Nat := 0
  kmode    : Bool := false
  pmode    : Bool := false
  exc      : Bool := false
  restart  : Bool := false
  epc      : Nat := 0
  ecause   : Nat := 0
  eaddr    : Nat := 0
  kvec     : Nat := 0
  item     : Option Nat := none
  shadow   : Word := 0
  loads    : List EngLoad := []
  lost     : Nat := 0
  restarts : Nat := 0
  excPc    : Nat := 0
  excCause : Nat := 0
  sterr    : Nat := 0
  told     : Bool := false
deriving DecidableEq, Repr
/-! ## Pairing (spec/15_pairing.md) -/

/-- SDL_STATUS.ROLE. -/
inductive Role where
  | unpaired | syncing | standby | active
deriving DecidableEq, Repr

/-- A PAIR_CTRL that waits for a master cycle boundary: its ring and tag, and its ACTION. -/
structure PairReq where
  q      : Nat
  tag    : Nat
  action : Nat
deriving DecidableEq, Repr

/-- A commit notice that the STANDBY has taken (R371): the instant, the epoch, and whether its own bank agrees. -/
structure Notice where
  instant : Instant
  epoch   : Nat
  agrees  : Bool
deriving DecidableEq, Repr

/-- The Saddle block. `left` says that the host of this hub has disabled pairing; `heardAt` is the PCLK cycle at which the partner was last heard; `pRole`, `pHealth`, `pEpoch` and `pDigest` what the
partner last said of itself, and `diffs` the consecutive records that differed; `digMuted` holds one more than the consecutive matching digests of
each port muted by a mismatch, `muteNext` the ports to be muted from their next frame, `cmtMuted` that a commit was not agreed; `recs` the arm record of each pipe, with its frame; `flight` the mirrored frames
of each port without a receipt; `copied` what was last copied of each class, and `dirty` the fixture store lines that engines have written since;
`segment` the class that is sent in segments, with the bytes still to go; `bistSince` and `ueSaid` the BIST failures since, and the memory errors at, the last health record, and `ueCarry` the errors since it that a clear has taken from
the counters; `nonceOwn` and `nonceTheirs` the nonces of the session, `sessionKey` its key, `saltOut` and `saltIn` the salts of the two directions (R366), `tx` its packet counter and `rx` the least number that the next packet may carry, `discards` the consecutive discards, and `lost` those of them whose tag failed; `own` and `theirs` the latest output digest of each port, each
with its frame. -/
structure Saddle where
  role        : Role := .unpaired
  link        : Bool := false
  lanes       : Nat := 0
  heardAt     : Option Nat := none
  pRole       : Nat := 0
  pHealth     : Nat := 0
  pEpoch      : Nat := 0
  pDigest     : List Byte := []
  diffs       : Nat := 0
  isolated    : Bool := false
  misses      : Nat := 0
  current     : Bool := false
  left        : Bool := false
  tofs        : Int := 0
  copyBytes   : Nat := 0
  defer       : Nat := 0
  discards    : Nat := 0
  prbsSaid    : Bool := false
  reqs        : List PairReq := []
  digMuted    : Sparse Nat := []
  muteNext    : List Nat := []
  cmtMuted    : Bool := false
  notice      : Option Notice := none
  recs        : Sparse (Option (Nat × Arm)) := []
  flight      : Sparse Nat := []
  copied      : List CopyData := []
  dirty       : List Nat := []
  segment     : Option (CopyData × Nat) := none
  bistFailed  : Bool := false
  bistSince   : Nat := 0
  ueSaid      : Nat := 0
  ueCarry     : Nat := 0
  nonceOwn    : Nat := 0
  nonceTheirs : Nat := 0
  sessionKey  : List Byte := []
  saltOut     : Nat := 0
  saltIn      : Nat := 0
  tx          : Nat := 0
  rx          : Nat := 0
  lost        : Nat := 0
  own         : Sparse (Nat × Nat) := []
  theirs      : Sparse (Nat × Nat) := []
deriving DecidableEq, Repr


/-! ## Firmware update (spec/16_firmware_update.md) -/

/-- A copy of the boot record (R391). `failed` is the cause of a failed trial not yet acted on (Table 16.7), 0 for none; `used` the trial time used, in
PCLK cycles; `outcome` FWU_STATUS.LAST; `crc` its CRC-32C, by which a copy is valid. -/
structure BootRec where
  seq     : Nat := 0
  slot    : Nat := 0
  pending : Bool := false
  trial   : Bool := false
  failed  : Nat := 0
  boots   : Nat := 0
  used    : Nat := 0
  outcome : Nat := 0
  crc     : Nat := 0
deriving DecidableEq, Repr

/-- A copy of the settings store (R397): its format, number and length, its SHA-384 hash, by which it is valid, and as its data the pairing key and the SEC registers saved as
offset and value. -/
structure Settings where
  format : Nat := 0
  seq    : Nat := 0
  length : Nat := 0
  hash   : Option (List Byte) := none
  key    : List Byte := List.replicate 32 0
  sec    : List (Nat × Nat) := []
deriving DecidableEq, Repr

/-- The flash operation of a running FW_STAGE or FW_ACTIVATE (R401), with its ring and tag. -/
structure FlashOp where
  q        : Nat
  tag      : Nat
  activate : Bool
deriving DecidableEq, Repr

/-- Where the start of the hub stands: being started, halted in the boot ROM, in recovery, or running firmware. -/
inductive BootPhase where
  | reset | halted | recovery | running
deriving DecidableEq, Repr

/-- The FWU block and the flash. `size` is the device's size in MiB, 0 for one that does not answer; `descriptor` the flash descriptor, which is never
rewritten; `images` holds slot A, slot B and the recovery region
under 0, 1 and 2; `staging` the staging area and `bytes` FWU_STAGE.BYTES; `boot0` and `boot1` the two boot records and `set0` and `set1` the two
settings copies; `running` the image that runs, with its slot and whether it is the factory image; `trialAt` the PCLK cycle of the hand-off of
the trial boot; `bundlePorts` the ports that still get tile bundles (R400). -/
structure Fwu where
  size        : Nat := 64
  descriptor  : List Byte := []
  images      : Sparse (List Byte) := []
  staging     : List Byte := []
  bytes       : Nat := 0
  reason      : Nat := 0
  boot0       : BootRec := {}
  boot1       : BootRec := {}
  set0        : Settings := {}
  set1        : Settings := {}
  op          : Option FlashOp := none
  phase       : BootPhase := .reset
  slot        : Nat := 0
  factory     : Bool := false
  trialAt     : Nat := 0
  lockedWr    : Nat := 0
  bundlePorts : List Nat := []
deriving DecidableEq, Repr
/-! ## Fuses, straps and the Cairn recorder (spec/17_security_cairn.md, spec/19_power_clocks_reset.md) -/

/-- The ordering codes (spec/00_scope.md, GLB_ID.GRADE). -/
inductive Grade where
  | c | e
deriving DecidableEq, Repr

/-- The OTP fields (Table 17.2); a key hash of zero is not present. -/
structure Otp where
  keyHash0   : Nat := 0
  keyHash1   : Nat := 0
  keyHash2   : Nat := 0
  keyHash3   : Nat := 0
  keyRevoke  : Nat := 0
  logKeyHash : Nat := 0
  uid        : Nat := 0
  failMode   : Bool := false
  svFloor    : Nat := 0
  hostNs     : Bool := false
  dbgLock    : Bool := false
deriving DecidableEq, Repr

/-- The straps (Table 19.9). -/
structure Straps where
  bootMode  : Nat := 0
  pairId    : Bool := false
  pcieLanes : Nat := 0
deriving DecidableEq, Repr

/-- What the whole chip holds: fuses, straps, grade, the safe state and what caused it (R26). -/
structure Glob where
  grade  : Grade := .c
  otp    : Otp := {}
  straps : Straps := {}
  safe   : Bool := false
  cause  : Nat := 0
  forced : Bool := false
deriving DecidableEq, Repr

/-- A snapshot entry (Table 17.5). `vals` pairs each captured offset with its value. -/
structure Snapshot where
  seq     : Nat
  seconds : Nat
  nanos   : Nat
  unit    : Nat
  trigger : Nat
  off     : Bool
  secure  : Bool
  aux     : Nat
  epoch   : Nat
  vals    : List (Nat × Nat)
deriving DecidableEq, Repr

/-- A record (Table 17.6). -/
structure Record where
  code    : Nat
  source  : Nat
  seq     : Nat
  seconds : Nat
  nanos   : Nat
  p0      : Nat
  p1      : Nat
  p2      : Nat
  p3      : Nat
deriving DecidableEq, Repr

/-- The Cairn recorder: its logs, oldest first, their heads, the waiting triggers and records, and the limit on violation records (R407).
`recAt` is the last CCLK cycle that produced records, and how many; `clearing` the CCLK cycle of the last clear and the bits of CRN_CLR that it made read 1. -/
structure Cairn where
  snaps    : List Snapshot := []
  recs     : List Record := []
  snapHead : Nat := 0
  recHead  : Nat := 0
  snapQ    : List Snapshot := []
  recQ     : List Record := []
  snapLost : Nat := 0
  violAt   : Option Nat := none
  violMiss : Nat := 0
  recAt    : Nat × Nat := (0, 0)
  clearing : Option (Nat × Nat) := none
  fresh    : List Nat := []
  snapAt   : Option Nat := none
deriving DecidableEq, Repr

/-! ## Faults, power and clocks (spec/01_architecture.md, spec/19_power_clocks_reset.md) -/

/-- Isolation, powered domains and clocks. `isolated` lists the isolated blocks and `reported` those that have
reported a block fault and are not yet isolated (R22); `offPending` the domains whose power-off waits (R79, R436);
`domains` is PWR_DOM_STATUS; `rstNext` is the cause that the end of the reset in progress records; `wokeAt` the PCLK cycle of the latest wake (R434). -/
structure Power where
  isolated   : List Block := []
  reported   : List Block := []
  isoEvt     : Nat := 0
  flitTries  : Sparse Nat := []
  domains    : Nat := 0xFFF
  offPending : List Nat := []
  state      : Nat := 0
  wake       : Nat := 0
  rootLock   : Bool := false
  bypass     : Bool := false
  refFailed  : Bool := false
  losses     : Nat := 0
  hot        : Bool := false
  critical   : Bool := false
  trip       : Bool := false
  porstLow   : Bool := false
  rstCause   : Nat := 0
  rstNext    : Nat := 0
  ramp       : Bool := false
  resCycles  : Nat := 0
  wokeAt     : Option Nat := none
deriving DecidableEq, Repr

/-! ## What leaves the hub -/

/-- What the hub sends or writes outside itself. -/
inductive Out where
  /-- A completion entry written to slot `slot` of a completion ring, at its address in host memory (R42, R46). -/
  | completion (cq slot addr : Nat) (c : Completion)
  /-- An event entry written to slot `slot` of the event ring, at its address in host memory (R42, R47). -/
  | event (slot addr : Nat) (e : Event)
  /-- A read of the 64 bytes of a descriptor of a ring, at their address in host memory (R42, R44). -/
  | descRead (sq addr : Nat)
  /-- What a read of a register returns to its requester (R39, R418). -/
  | regRead (who : Requester) (off : Nat) (bytes : List Byte)
  /-- An MSI-X message (R63). -/
  | msix (vec addr data : Nat)
  /-- Data written to host memory. -/
  | hostWrite (addr : Nat) (bytes : List Byte)
  /-- A level driven on a TIO pin, and where its edge is placed on the pin's base, in 2^-48 ns; `none` is high impedance (R109, R110). -/
  | pin (p : Nat) (level : Option Bool) (at48 : Nat)
  /-- A PTP message sent on sub-port 0 of a NET port in queue Q7: its base, whether it travels in Ethernet frames and not in UDP, its sequence number,
  and the time stamp that it carries, or gives, in 2^-48 ns (R101, R103, R115). -/
  | ptp (n t : Nat) (m : PtpOut) (l2 : Bool) (seq stamp : Nat)
  /-- A Naush frame on port `n` (R223). -/
  | naush (n : Nat) (f : NFrame)
  /-- Electrical idle or an ordered set on the lane of port `n` (R221, R233, R237). -/
  | lane (n : Nat) (o : LaneOut)
  /-- An arm record for the partner: pipe, frame to be scanned, and buffer (R368). -/
  | armRecord (p frame : Nat) (a : Arm)
  /-- A STANDBY asks its partner to enumerate port `n` (R370). -/
  | enumRequest (n : Nat)
  /-- A copy of a Q1 or Q3 frame of port `n` for the partner (R370). -/
  | mirror (n : Nat) (f : QFrame)
  /-- A frame sent on a NET sub-port from transmit queue `q` (R118). -/
  | netTx (n sub q : Nat) (frame : List Byte)
  /-- The control firmware answers a received ARP or ICMP echo frame, in Q6 (R116). -/
  | netAnswer (n sub : Nat) (frame : List Byte)
  /-- An IGMPv3 join or leave of an address on a sub-port (R116). -/
  | igmp (n sub addr : Nat) (join : Bool)
  /-- A PSDU on the air of radio `r` (R293). -/
  | odl (r : Nat) (psdu : List Byte)
  /-- A Saddle packet: a keepalive (R367), a receipt for a mirrored frame of port `n` (R370), a commit notice (R371), a state copy class (R373), a
  health record (R381), an output digest of a frame of port `n` (R379), or a role request (R363). -/
  | keepalive
  | receipt (n : Nat)
  | commitNotice (i : Instant) (epoch : Nat) (digest : List Byte)
  | stateCopy (c : CopyData)
  | health (record : List Byte)
  | outputDigest (n frame digest : Nat)
  | roleRequest (action : Nat)
  /-- A segment of a state copy class too long for one cycle, but for the last, which `stateCopy` is: the class and its bytes (R373). -/
  | copySegment (cls bytes : Nat)
  /-- PRBS31 test blocks begin, or end, in the idle bandwidth of the Saddle link (R367). -/
  | prbs (on : Bool)
  /-- THERMTRIP_N driven low (R444). -/
  | thermtrip
  /-- What a read through the JTAG port returns (R448). -/
  | jtagRead (value : Nat)
deriving DecidableEq, Repr

/-! ## The whole state -/

/-- The hub but for its fuses, its safe state and its memories. `clock` counts PCLK cycles and `free` counts the free values drawn; `out` holds
what has left the hub, newest first; `popped` the fall-through FIFOs that gave up a word in this PCLK cycle and have taken none since; `slots` the issue slots that each engine has used ahead of
its cycles (R422). -/
structure Hub where
  regs    : Sparse Word := []
  clock   : Nat := 0
  free    : Nat := 0
  out     : List Out := []
  rings   : Rings := {}
  commit  : Commit := {}
  cairn   : Cairn := {}
  power   : Power := {}
  time    : TimeState := {}
  fifos   : Sparse (List Nat) := []
  popped  : List Nat := []
  scan    : Scan := {}
  ports   : Sparse Port := []
  cal     : Cal := {}
  net     : NetState := {}
  fix     : Fix := {}
  odls    : Sparse Odl := []
  col     : Col := {}
  engines : Sparse Engine := []
  fwu     : Fwu := {}
  saddle  : Saddle := {}
  pmu     : Sparse Nat := []
  slots   : Sparse Nat := []
deriving DecidableEq, Repr

/-- The hub: the commands that wait, first in first out; what the whole chip holds; its memories; and the rest. -/
structure State where
  pending : List Instr := []
  glob    : Glob := {}
  mem     : Memory := {}
  hub     : Hub := {}
deriving DecidableEq, Repr

/-- The reasons a step can stop the hub. No command of this hub stops it: the manual gives every access and every error an effect, so the
type has no constructor. -/
inductive Fault where
deriving DecidableEq, Repr

/-- The reasons a command is refused. -/
inductive Refusal where
  /-- The command has no meaning yet. Raised by `exec` alone; safe, because nothing is claimed of the command. -/
  | notModelled (mnemonic : String)
deriving DecidableEq, Repr

/-- The hub right after a cold reset, before the boot steps of Table 19.8: every register at the value of the Reset columns, every queue
empty, no memory byte written. -/
def State.reset : State := {}

end Sys2Proof.Machine
end

