-- ==== Sys2Proof/Machine/Store.lean ====
section
/-! DEFINITION. Sparse arrays in one canonical form: keys strictly rising, and no listed key holding the array's default, so that
equal arrays are equal data. Registers, memory cells and arrays of records are held this way. -/

namespace Sys2Proof.Machine

/-- What key `k` holds, where `d` is the default at `k`. -/
def Sparse.get {α : Type} (d : α) : Sparse α → Nat → α
  | [], _ => d
  | (j, a) :: m, k => if j = k then a else Sparse.get d m k

/-- An entry put in its place before the first higher key. -/
def Sparse.insert {α : Type} (k : Nat) (a : α) : Sparse α → Sparse α
  | [] => [(k, a)]
  | (j, b) :: m => if k < j then (k, a) :: (j, b) :: m else (j, b) :: Sparse.insert k a m

/-- The array without key `k`. -/
def Sparse.erase {α : Type} (k : Nat) (m : Sparse α) : Sparse α := m.filter (fun e => e.1 != k)

/-- The array with `a` at key `k`; writing the default removes the key. -/
def Sparse.set {α : Type} [DecidableEq α] (d : α) (m : Sparse α) (k : Nat) (a : α) : Sparse α :=
  if a = d then Sparse.erase k m else Sparse.insert k a (Sparse.erase k m)

/-- The keys are strictly rising. -/
def Sparse.rising {α : Type} : Sparse α → Bool
  | [] => true
  | [_] => true
  | (j, _) :: (k, b) :: m => decide (j < k) && Sparse.rising ((k, b) :: m)

/-- The canonical form, for an array whose default is `d` at every key. -/
def Sparse.wf {α : Type} [DecidableEq α] (d : α) (m : Sparse α) : Bool :=
  Sparse.rising m && m.all (fun e => decide (e.2 ≠ d))

/-- The array with key `k` changed by `f`. -/
def Sparse.mod {α : Type} [DecidableEq α] (d : α) (m : Sparse α) (k : Nat) (f : α → α) : Sparse α :=
  Sparse.set d m k (f (Sparse.get d m k))

end Sys2Proof.Machine
end

