-- ==== Sys2Proof/Machine/Image.lean ====
section
/-! DEFINITION. Firmware images, the boot record and the slots of the flash (spec/16_firmware_update.md). -/

namespace Sys2Proof.Machine

/-! ## Images (R384, R385) -/

/-- Fields of an image header. -/
def imgKey (b : List Byte) : Nat := byteAt b 10
def imgSecVersion (b : List Byte) : Nat := leAt b 12 4
def imgSize (b : List Byte) : Nat := leAt b 16 4
def imgParts (b : List Byte) : Nat := byteAt b 20
def imgPubkey (b : List Byte) : List Byte := (b.drop 112).take 96

/-- A manifest entry, and its fields. -/
def imgManifest (b : List Byte) (i : Nat) : List Byte := (b.drop (512 + 96 * i)).take 96
def entType (e : List Byte) : Nat := byteAt e 0
def entAux (e : List Byte) : Nat := leAt e 2 2
def entVersion (e : List Byte) : Nat := leAt e 4 4
def entOffset (e : List Byte) : Nat := leAt e 8 4
def entLength (e : List Byte) : Nat := leAt e 12 4

/-- The entries in use. -/
def imgEntries (b : List Byte) : List (List Byte) := (List.range (imgParts b)).map (imgManifest b)

/-- The bytes of a part. -/
def imgPart (b e : List Byte) : List Byte := (b.drop (entOffset e)).take (entLength e)

/-- The control firmware of an image: its version and the settings format that it writes. -/
def imgControl (b : List Byte) : List Byte := ((imgEntries b).find? (fun e => entType e == 2)).getD []
def imgVersion (b : List Byte) : Nat := entVersion (imgControl b)
def imgAux (b : List Byte) : Nat := entAux (imgControl b)

/-- Bytes from `off`, `n` of them, are zero. -/
def zeroAt (b : List Byte) (off n : Nat) : Bool := leAt b off n == 0

/-- The hash of a signing key in the fuses; zero where it is not present. -/
def Otp.keyHash (o : Otp) : Nat → Nat
  | 0 => o.keyHash0 | 1 => o.keyHash1 | 2 => o.keyHash2 | 3 => o.keyHash3 | _ => 0

/-- An entry by itself meets R385. -/
def entryOk (size : Nat) (e : List Byte) : Bool :=
  decide (1 ≤ entType e ∧ entType e ≤ 8) && zeroAt e 1 1 && (entType e == 2 || entAux e == 0) && (entType e == 8 || zeroAt e 16 4) &&
    zeroAt e 20 28 && entOffset e % 4096 == 0 && decide (4096 ≤ entOffset e ∧ entOffset e + entLength e ≤ size)

/-- No two parts overlap. -/
def partsApart : List (List Byte) → Bool
  | [] => true
  | e :: es => es.all (fun x => !overlaps (entOffset e) (entLength e) (entOffset x) (entLength x)) && partsApart es

/-- The flash size in use: the lower of the sizes it lies between; 0 where the device is too small or does not answer (R383). -/
def flashSize (mib : Nat) : Nat := if 256 ≤ mib then 256 else if 128 ≤ mib then 128 else if 64 ≤ mib then 64 else 0

/-- The regions of the flash (Table 16.1); the settings store and the boot record have two copies, and there are two slots. -/
inductive FlashRegion where
  | descriptor | recovery
  | settings (copy : Nat)
  | bootRecord (copy : Nat)
  | slot (n : Nat)
  | staging
deriving DecidableEq, Repr

/-- Where a region begins, and its bytes; `f` is the flash size in use, in MiB. -/
def FlashRegion.offset (f : Nat) : FlashRegion → Nat
  | .descriptor => 0
  | .recovery => 0x10000
  | .settings c => 0x400000 + 0x100000 * c
  | .bootRecord c => 0x600000 + 0x10000 * c
  | .slot n => f * 2 ^ 18 * (n + 1)
  | .staging => f * 2 ^ 18 * 3
def FlashRegion.size (f : Nat) : FlashRegion → Nat
  | .descriptor | .bootRecord _ => 0x10000
  | .recovery => 0x3F0000
  | .settings _ => 0x100000
  | .slot _ | .staging => f * 2 ^ 18

/-- SIZE, PARTS and every entry meet R384 and R385; `f` is the flash size in MiB. -/
def imgShapeOk (f : Nat) (b : List Byte) : Bool :=
  let es := imgEntries b
  imgSize b % 4096 == 0 && decide (imgSize b ≤ FlashRegion.size f .staging) && decide (7 ≤ imgParts b ∧ imgParts b ≤ 16) && decide (byteAt b 8 ≤ byteAt b 9) &&
    zeroAt b 11 1 && zeroAt b 21 43 && zeroAt b 304 208 && es.all (entryOk (imgSize b)) && partsApart es &&
    (List.range 7).all (fun t => (es.filter (fun e => entType e == t + 1)).length == 1) &&
    decide ((es.filter (fun e => entType e == 8)).length ≤ 9) &&
    ((List.range 16).drop (imgParts b)).all (fun i => zeroAt (imgManifest b i) 0 96)

/-- The early check of a header and a manifest (Table 16.4): the first reason that fails, 0 for none. The revision is A1. `floor` is false for the
recovery region, which is exempt from it. -/
def imgReason (o : Otp) (f : Nat) (floor : Bool) (b : List Byte) : Nat :=
  if leAt b 0 4 != 0x57465A41 || leAt b 4 2 != 1 then 1
  else if leAt b 6 2 != 0xA324 || !decide (byteAt b 8 ≤ 1 ∧ 1 ≤ byteAt b 9) then 2
  else if o.keyHash (imgKey b) = 0 || bitOf o.keyRevoke (imgKey b) || ofBe (sha384 (imgPubkey b)) != o.keyHash (imgKey b) then 3
  else if !ecdsaVerify (imgPubkey b) ((b.drop 208).take 96) (b.take 208) then 4
  else if sha384 ((b.drop 512).take 1536) != (b.drop 64).take 48 then 5
  else if floor && decide (imgSecVersion b < o.svFloor) then 6
  else if !imgShapeOk f b then 7
  else 0

/-- Every part matches its HASH. -/
def imgPartsOk (b : List Byte) : Bool := (imgEntries b).all (fun e => sha384 (imgPart b e) == (e.drop 48).take 48)

/-- An image verifies as a set (R390, R395). -/
def imgVerifies (o : Otp) (f : Nat) (floor : Bool) (b : List Byte) : Bool := imgReason o f floor b == 0 && imgPartsOk b

/-! ## The boot record and the slots -/

/-- Of two copies with a 32-bit sequence number each, the second is the valid one with the newer sequence (R391, R397); a number is newer than one up to 2³¹ − 1
before it (DESIGN CHOICE, log entry 14: a sequence that wraps is not spoken of). -/
def secondNewer (v0 v1 : Bool) (q0 q1 : Nat) : Bool :=
  v1 && (!v0 || decide (1 ≤ (q1 % 2 ^ 32 + 2 ^ 32 - q0 % 2 ^ 32) % 2 ^ 32 ∧ (q1 % 2 ^ 32 + 2 ^ 32 - q0 % 2 ^ 32) % 2 ^ 32 < 2 ^ 31))

/-- The bytes of a boot record that its CRC-32C covers: its fields in the order of R391 (DESIGN CHOICE, log entry 14: the manual gives no layout). -/
def BootRec.bytes (r : BootRec) : List Byte :=
  leBytes 4 r.seq ++ leBytes 1 r.slot ++ leBytes 1 (b2n r.pending) ++ leBytes 1 (b2n r.trial) ++ leBytes 1 r.failed ++ leBytes 1 r.boots ++
    leBytes 8 r.used ++ leBytes 1 r.outcome

/-- A copy of the boot record as it is written, and a copy that was written whole (R391). -/
def BootRec.sealed (r : BootRec) : BootRec := { r with crc := crc32c r.bytes }
def BootRec.valid (r : BootRec) : Bool := r.crc == crc32c r.bytes

/-- The second copy of the boot record is the one in force. -/
def Fwu.boot1Newer (w : Fwu) : Bool := secondNewer w.boot0.valid w.boot1.valid w.boot0.seq w.boot1.seq

/-- The boot record in force: the valid copy with the newer sequence (R391). Where neither is valid, slot A is active with nothing pending (DESIGN CHOICE, log
entry 14). -/
def Fwu.boot (w : Fwu) : BootRec := if w.boot1Newer then w.boot1 else if w.boot0.valid then w.boot0 else {}

/-- The boot record written: the older copy, with the sequence incremented. -/
def Fwu.setBoot (w : Fwu) (r : BootRec) : Fwu :=
  let new := BootRec.sealed { r with seq := (w.boot.seq + 1) % 2 ^ 32 }
  if w.boot1Newer then { w with boot0 := new } else { w with boot1 := new }

/-- The flash size in use, in MiB. -/
def Fwu.inUse (w : Fwu) : Nat := flashSize w.size

/-- The image of a slot, and the one that runs. -/
def Fwu.image (w : Fwu) (slot : Nat) : List Byte := Sparse.get [] w.images slot
def Fwu.running (w : Fwu) : List Byte := if w.phase = .running then w.image (if w.factory then 2 else w.slot) else []

/-- A trial runs. -/
def Fwu.inTrial (w : Fwu) : Bool := w.phase == .running && w.boot.trial && !w.factory

/-- A whole image is staged and not activated. -/
def Fwu.staged (w : Fwu) : Bool := w.bytes != 0 && w.bytes == imgSize w.staging && !w.boot.pending

/-- How long the present trial has run, in PCLK cycles: what earlier boots left of its count, and this boot's (R392). -/
def Hub.trialRun (h : Hub) : Nat := h.fwu.boot.used + (h.clock - h.fwu.trialAt)

/-- FWU_STATUS.STATE. A FW_STAGE that has passed its checks is under way before its first byte counts (R399, Table 16.6). -/
def Fwu.state (w : Fwu) : Nat :=
  if w.phase = .recovery then 5 else if w.inTrial then 4 else if w.boot.pending then 3 else if w.staged then 2
  else if w.bytes != 0 || w.op.any (fun o => !o.activate) then 1 else 0

/-! ## The settings store (R397, R399) -/

/-- The data of a copy: the pairing key and the saved registers (DESIGN CHOICE, log entry 14: the manual gives no layout). -/
def Settings.data (s : Settings) : List Byte := s.key ++ (s.sec.map (fun e => leBytes 4 e.1 ++ leBytes 4 e.2)).flatten

/-- What the hash of a copy covers. -/
def Settings.bytes (s : Settings) : List Byte := leBytes 2 s.format ++ leBytes 4 s.seq ++ leBytes 4 s.length ++ s.data

/-- A copy as it is written, and a copy that was written whole. -/
def Settings.sealed (s : Settings) : Settings :=
  let s1 := { s with length := s.data.length }
  { s1 with hash := some (sha384 s1.bytes) }
def Settings.valid (s : Settings) : Bool := s.hash.isSome && s.length == s.data.length && s.hash == some (sha384 s.bytes)

/-- The second copy is the one in force. -/
def Fwu.set1Newer (w : Fwu) : Bool := secondNewer w.set0.valid w.set1.valid w.set0.seq w.set1.seq

/-- The valid copy with the newer sequence, and the other. -/
def Fwu.newest (w : Fwu) : Settings := if w.set1Newer then w.set1 else if w.set0.valid then w.set0 else {}
def Fwu.oldest (w : Fwu) : Settings := if w.set1Newer then w.set0 else w.set1

/-- The control firmware that runs can read a settings format: its own, and perhaps others. -/
def Fwu.reads (w : Fwu) (format : Nat) : Bool := format == imgAux w.running || Config.readsFormat w.running format

/-- The settings that the firmware uses: the newest valid copy, or the older one where the newest is in a format that it cannot read and the older in one that it can. -/
def Fwu.settings (w : Fwu) : Settings :=
  if w.newest.valid && !w.reads w.newest.format && w.oldest.valid && w.reads w.oldest.format then w.oldest else w.newest

/-- The settings written: over the older copy, with the newer sequence incremented, in the format of the running firmware. -/
def Fwu.setSettings (w : Fwu) (s : Settings) : Fwu :=
  let new := Settings.sealed { s with seq := (w.newest.seq + 1) % 2 ^ 32, format := imgAux w.running }
  if w.set1Newer then { w with set0 := new } else { w with set1 := new }

end Sys2Proof.Machine
end

