-- ==== Sys2Proof/Machine/RegMap.lean ====
section
/-! DEFINITION. The register map of the hub: the BAR0 offset of every register (the register sections of every chapter of spec/, and Table 20.1),
its reset value, its access codes (Table 0.4), its commit class (Table 3.2) and its world. An offset function is named as the spec names
the register, with the instance as its argument; a register description gives its fields as masks, one for each access code. -/

namespace Sys2Proof.Machine

/-! ## Offsets -/

abbrev Reg.GLB_ID : Nat := 0
abbrev Reg.GLB_STRAP : Nat := 0x40
abbrev Reg.GLB_RST : Nat := 0x44
abbrev Reg.GLB_RST_CAUSE : Nat := 0x48
abbrev Reg.GLB_FLT_STATUS : Nat := 0x100
abbrev Reg.GLB_FLT_CTL : Nat := 0x104
abbrev Reg.GLB_NSH_HINT : Nat := 0x200
abbrev Reg.GLB_LNK_RPLx (x : Nat) : Nat := 0x300 + 4 * x
abbrev Reg.GLB_LNK_CLR : Nat := 0x350
abbrev Reg.CLK_STATUS : Nat := 0x10000
abbrev Reg.PWR_CTL : Nat := 0x20000
abbrev Reg.PWR_STATUS : Nat := 0x20004
abbrev Reg.PWR_DOM_CTL : Nat := 0x20008
abbrev Reg.PWR_DOM_STATUS : Nat := 0x2000C
abbrev Reg.PWR_RES_Ds (s : Nat) : Nat := 0x20010 + 4 * s
abbrev Reg.PWR_THERM_CTL : Nat := 0x20020
abbrev Reg.PWR_THERMi (i : Nat) : Nat := 0x20040 + 4 * i
abbrev Reg.INT_SRC_MAPn (n : Nat) : Nat := 0x30000 + 4 * n
abbrev Reg.INT_PENDk (k : Nat) : Nat := 0x30200 + 4 * k
abbrev Reg.INT_VEC_CTLv (v : Nat) : Nat := 0x30400 + 4 * v
abbrev Reg.HIF_ACC_ERR : Nat := 0x40010
abbrev Reg.SQn_BASE_LO (n : Nat) : Nat := 0x41000 + 0x20 * n
abbrev Reg.SQn_BASE_HI (n : Nat) : Nat := 0x41004 + 0x20 * n
abbrev Reg.SQn_CTL (n : Nat) : Nat := 0x41008 + 0x20 * n
abbrev Reg.SQn_EPOCH (n : Nat) : Nat := 0x4100C + 0x20 * n
abbrev Reg.SQn_STATUS (n : Nat) : Nat := 0x41010 + 0x20 * n
abbrev Reg.CQn_BASE_LO (n : Nat) : Nat := 0x42000 + 0x20 * n
abbrev Reg.CQn_BASE_HI (n : Nat) : Nat := 0x42004 + 0x20 * n
abbrev Reg.CQn_CTL (n : Nat) : Nat := 0x42008 + 0x20 * n
abbrev Reg.CQn_STATUS (n : Nat) : Nat := 0x42010 + 0x20 * n
abbrev Reg.EVQ_BASE_LO : Nat := 0x43000
abbrev Reg.EVQ_BASE_HI : Nat := 0x43004
abbrev Reg.EVQ_CTL : Nat := 0x43008
abbrev Reg.EVQ_STATUS : Nat := 0x43010
abbrev Reg.EVQ_LOST : Nat := 0x43014
abbrev Reg.CMT_STATUS : Nat := 0x50000
abbrev Reg.CMT_STG_WRITES : Nat := 0x50004
abbrev Reg.CMT_STG_BYTES : Nat := 0x50008
abbrev Reg.CMT_EPOCH : Nat := 0x50010
abbrev Reg.CMT_DIGEST_LO : Nat := 0x50014
abbrev Reg.CMT_DIGEST_HI : Nat := 0x50018
abbrev Reg.CMT_CHK_FAIL : Nat := 0x50020
abbrev Reg.CMT_CHK_RULE : Nat := 0x50024
abbrev Reg.CMT_DIRECT : Nat := 0x50028
abbrev Reg.CMT_DIRECT_LAST : Nat := 0x5002C
abbrev Reg.CMT_TBL_BASE_LO : Nat := 0x50030
abbrev Reg.CMT_TBL_BASE_HI : Nat := 0x50034
abbrev Reg.TBt_CTL (t : Nat) : Nat := 0x60000 + 0x100 * t
abbrev Reg.TBt_LIMITS (t : Nat) : Nat := 0x60004 + 0x100 * t
abbrev Reg.TBt_TRIM (t : Nat) : Nat := 0x60008 + 0x100 * t
abbrev Reg.TBt_HOLD (t : Nat) : Nat := 0x6000C + 0x100 * t
abbrev Reg.TBt_PTP (t : Nat) : Nat := 0x60010 + 0x100 * t
abbrev Reg.TBt_PTP_DS (t : Nat) : Nat := 0x60014 + 0x100 * t
abbrev Reg.TBt_GEN_NS (t : Nat) : Nat := 0x60018 + 0x100 * t
abbrev Reg.TBt_GEN_FRAC (t : Nat) : Nat := 0x6001C + 0x100 * t
abbrev Reg.TBt_STATUS (t : Nat) : Nat := 0x60020 + 0x100 * t
abbrev Reg.TBt_OFFSET (t : Nat) : Nat := 0x60024 + 0x100 * t
abbrev Reg.TBt_FREQ (t : Nat) : Nat := 0x60028 + 0x100 * t
abbrev Reg.TBt_HOLD_EST (t : Nat) : Nat := 0x6002C + 0x100 * t
abbrev Reg.TBt_COUNTS (t : Nat) : Nat := 0x60030 + 0x100 * t
abbrev Reg.TBt_NOW_SEC_LO (t : Nat) : Nat := 0x60040 + 0x100 * t
abbrev Reg.TBt_NOW_SEC_HI (t : Nat) : Nat := 0x60044 + 0x100 * t
abbrev Reg.TBt_NOW_NS (t : Nat) : Nat := 0x60048 + 0x100 * t
abbrev Reg.TIM_PPS_SNAPt_SEC_LO (t : Nat) : Nat := 0x60400 + 0x10 * t
abbrev Reg.TIM_PPS_SNAPt_SEC_HI (t : Nat) : Nat := 0x60404 + 0x10 * t
abbrev Reg.TIM_PPS_SNAPt_NS (t : Nat) : Nat := 0x60408 + 0x10 * t
abbrev Reg.TIM_PPS_SNAPt_FRAC (t : Nat) : Nat := 0x6040C + 0x10 * t
abbrev Reg.TIM_CMPc_CTL (c : Nat) : Nat := 0x61000 + 0x10 * c
abbrev Reg.TIM_CMPc_SEC (c : Nat) : Nat := 0x61004 + 0x10 * c
abbrev Reg.TIM_CMPc_NS (c : Nat) : Nat := 0x61008 + 0x10 * c
abbrev Reg.TIM_CMPc_PERIOD (c : Nat) : Nat := 0x6100C + 0x10 * c
abbrev Reg.TIM_ODLr_ING (r : Nat) : Nat := 0x62000 + 8 * r
abbrev Reg.TIM_ODLr_EGR (r : Nat) : Nat := 0x62004 + 8 * r
abbrev Reg.TIM_NDLYn_k (n k : Nat) : Nat := 0x68000 + 0x200 * n + 4 * k
abbrev Reg.NETn_CTL (n : Nat) : Nat := 0x80000 + 0x4000 * n
abbrev Reg.NETn_TXQ_PCP (n : Nat) : Nat := 0x80004 + 0x4000 * n
abbrev Reg.NETn_MAC_LO (n : Nat) : Nat := 0x80008 + 0x4000 * n
abbrev Reg.NETn_MAC_HI (n : Nat) : Nat := 0x8000C + 0x4000 * n
abbrev Reg.NETn_STATUS (n : Nat) : Nat := 0x80010 + 0x4000 * n
abbrev Reg.NETn_CNT_FCS (n : Nat) : Nat := 0x80020 + 0x4000 * n
abbrev Reg.NETn_CNT_OVR (n : Nat) : Nat := 0x80024 + 0x4000 * n
abbrev Reg.NETn_CNT_PAUSE (n : Nat) : Nat := 0x80028 + 0x4000 * n
abbrev Reg.NETn_TS_ING (n : Nat) : Nat := 0x83F00 + 0x4000 * n
abbrev Reg.NETn_TS_EGR (n : Nat) : Nat := 0x83F04 + 0x4000 * n
abbrev Reg.NETn_TS_ASYM (n : Nat) : Nat := 0x83F08 + 0x4000 * n
abbrev Reg.ING_FLOWf_CTL (f : Nat) : Nat := 0x90000 + 0x40 * f
abbrev Reg.ING_FLOWf_PATHA_IP (f : Nat) : Nat := 0x90004 + 0x40 * f
abbrev Reg.ING_FLOWf_PATHA_UDP (f : Nat) : Nat := 0x90008 + 0x40 * f
abbrev Reg.ING_FLOWf_PATHB_IP (f : Nat) : Nat := 0x9000C + 0x40 * f
abbrev Reg.ING_FLOWf_PATHB_UDP (f : Nat) : Nat := 0x90010 + 0x40 * f
abbrev Reg.ING_FLOWf_GEOM (f : Nat) : Nat := 0x90014 + 0x40 * f
abbrev Reg.ING_FLOWf_PKT (f : Nat) : Nat := 0x90018 + 0x40 * f
abbrev Reg.ING_FLOWf_PERIOD (f : Nat) : Nat := 0x9001C + 0x40 * f
abbrev Reg.ING_FLOWf_JB (f : Nat) : Nat := 0x90020 + 0x40 * f
abbrev Reg.ING_FLOWf_RING_LO (f : Nat) : Nat := 0x90024 + 0x40 * f
abbrev Reg.ING_FLOWf_RING_HI (f : Nat) : Nat := 0x90028 + 0x40 * f
abbrev Reg.ING_FLOWf_PITCH (f : Nat) : Nat := 0x9002C + 0x40 * f
abbrev Reg.ING_FLOWf_PIPES (f : Nat) : Nat := 0x90030 + 0x40 * f
abbrev Reg.ING_FSTf_STATUS (f : Nat) : Nat := 0x91000 + 0x40 * f
abbrev Reg.ING_FSTf_RTP (f : Nat) : Nat := 0x91004 + 0x40 * f
abbrev Reg.ING_FSTf_DUP (f : Nat) : Nat := 0x91008 + 0x40 * f
abbrev Reg.ING_FSTf_LATE (f : Nat) : Nat := 0x9100C + 0x40 * f
abbrev Reg.ING_FSTf_OVR (f : Nat) : Nat := 0x91010 + 0x40 * f
abbrev Reg.ING_FSTf_FMT (f : Nat) : Nat := 0x91014 + 0x40 * f
abbrev Reg.ING_FSTf_DONE (f : Nat) : Nat := 0x91018 + 0x40 * f
abbrev Reg.ING_FSTf_INC (f : Nat) : Nat := 0x9101C + 0x40 * f
abbrev Reg.ING_SACN_CTL : Nat := 0x92000
abbrev Reg.ING_SACN_STATUS : Nat := 0x92004
abbrev Reg.ING_SACN_IGN : Nat := 0x92010
abbrev Reg.ING_SACN_OVR : Nat := 0x92014
abbrev Reg.ING_SACN_POOL : Nat := 0x92018
abbrev Reg.ING_SACN_SEQ : Nat := 0x9201C
abbrev Reg.ING_SACN_ACC : Nat := 0x92020
abbrev Reg.ING_CNT_CLR : Nat := 0x93000
abbrev Reg.MEM_STATUS : Nat := 0xA0000
abbrev Reg.MEM_SCRUB : Nat := 0xA0004
abbrev Reg.MEM_QOS : Nat := 0xA0008
abbrev Reg.MEM_ECC_THR : Nat := 0xA000C
abbrev Reg.MEM_CNT_CLR : Nat := 0xA0010
abbrev Reg.MEMc_CNT_CE (c : Nat) : Nat := 0xA0100 + 0x10 * c
abbrev Reg.MEMc_CNT_UE (c : Nat) : Nat := 0xA0104 + 0x10 * c
abbrev Reg.MEMc_UE_ADDR_LO (c : Nat) : Nat := 0xA0108 + 0x10 * c
abbrev Reg.MEMc_UE_ADDR_HI (c : Nat) : Nat := 0xA010C + 0x10 * c
abbrev Reg.MEM_DL_MISS : Nat := 0xA0200
abbrev Reg.SRAM_CNT_CEb (b : Nat) : Nat := 0xA1000 + 4 * b
abbrev Reg.SRAM_UE : Nat := 0xA1080
abbrev Reg.LCL_CNT_CEe (e : Nat) : Nat := 0xA1100 + 4 * e
abbrev Reg.LCL_UE : Nat := 0xA1180
abbrev Reg.MEM_FIFOi_CTL (i : Nat) : Nat := 0xA2000 + 8 * i
abbrev Reg.MEM_FIFOi_STATUS (i : Nat) : Nat := 0xA2004 + 8 * i
abbrev Reg.SCNp_CTL (p : Nat) : Nat := 0xC0000 + 0x800 * p
abbrev Reg.SCNp_SRC_GEOM (p : Nat) : Nat := 0xC0004 + 0x800 * p
abbrev Reg.SCNp_SRC_PITCH (p : Nat) : Nat := 0xC0008 + 0x800 * p
abbrev Reg.SCNp_BRIGHT (p : Nat) : Nat := 0xC000C + 0x800 * p
abbrev Reg.SCNp_FB_ADDR_LO (p : Nat) : Nat := 0xC0010 + 0x800 * p
abbrev Reg.SCNp_FB_ADDR_HI (p : Nat) : Nat := 0xC0014 + 0x800 * p
abbrev Reg.SCNp_FB_ARM (p : Nat) : Nat := 0xC0018 + 0x800 * p
abbrev Reg.SCNp_FB_CUR_LO (p : Nat) : Nat := 0xC0020 + 0x800 * p
abbrev Reg.SCNp_FB_CUR_HI (p : Nat) : Nat := 0xC0024 + 0x800 * p
abbrev Reg.SCNp_ARM_STATUS (p : Nat) : Nat := 0xC0028 + 0x800 * p
abbrev Reg.SCNp_ARM_FRAME (p : Nat) : Nat := 0xC002C + 0x800 * p
abbrev Reg.SCNp_SUBST (p : Nat) : Nat := 0xC0030 + 0x800 * p
abbrev Reg.SCNp_LATE (p : Nat) : Nat := 0xC0034 + 0x800 * p
abbrev Reg.SCNp_FLAG_ERR (p : Nat) : Nat := 0xC0038 + 0x800 * p
abbrev Reg.PGg_CTL (g : Nat) : Nat := 0xD0000 + 0x100 * g
abbrev Reg.PGg_PERIOD_NS (g : Nat) : Nat := 0xD0004 + 0x100 * g
abbrev Reg.PGg_FRAC (g : Nat) : Nat := 0xD0008 + 0x100 * g
abbrev Reg.PGg_PHASE_NS (g : Nat) : Nat := 0xD000C + 0x100 * g
abbrev Reg.PGg_RASTER (g : Nat) : Nat := 0xD0010 + 0x100 * g
abbrev Reg.PGg_APPLY (g : Nat) : Nat := 0xD0014 + 0x100 * g
abbrev Reg.PGg_STATUS (g : Nat) : Nat := 0xD0040 + 0x100 * g
abbrev Reg.PGg_FRAME (g : Nat) : Nat := 0xD0044 + 0x100 * g
abbrev Reg.PGg_HELD (g : Nat) : Nat := 0xD0048 + 0x100 * g
abbrev Reg.CAL_CTL : Nat := 0xE0000
abbrev Reg.CAL_STAT_TIME : Nat := 0xE0004
abbrev Reg.CAL_PGg_CTL (g : Nat) : Nat := 0xE0040 + 4 * g
abbrev Reg.CAL_STAT_COEFn (n : Nat) : Nat := 0xE0100 + 4 * n
abbrev Reg.CAL_PIPEp_CTL (p : Nat) : Nat := 0xE1000 + 0x80 * p
abbrev Reg.CAL_PIPEp_BASE_LO (p : Nat) : Nat := 0xE1004 + 0x80 * p
abbrev Reg.CAL_PIPEp_BASE_HI (p : Nat) : Nat := 0xE1008 + 0x80 * p
abbrev Reg.CAL_PIPEp_APPLY (p : Nat) : Nat := 0xE100C + 0x80 * p
abbrev Reg.CAL_PIPEp_STAT_LO (p : Nat) : Nat := 0xE1010 + 0x80 * p
abbrev Reg.CAL_PIPEp_STAT_HI (p : Nat) : Nat := 0xE1014 + 0x80 * p
abbrev Reg.CAL_PIPEp_STATUS (p : Nat) : Nat := 0xE1020 + 0x80 * p
abbrev Reg.CAL_PIPEp_DELTA (p : Nat) : Nat := 0xE1024 + 0x80 * p
abbrev Reg.CAL_PIPEp_CLAMP (p : Nat) : Nat := 0xE1028 + 0x80 * p
abbrev Reg.CAL_PIPEp_DEAD (p : Nat) : Nat := 0xE102C + 0x80 * p
abbrev Reg.CAL_PIPEp_GVALIDk (p k : Nat) : Nat := 0xE1030 + 0x80 * p + 4 * k
abbrev Reg.CAL_PIPEp_MVALIDk (p k : Nat) : Nat := 0xE1040 + 0x80 * p + 4 * k
abbrev Reg.CAL_MSR_CTL : Nat := 0xE3000
abbrev Reg.CAL_MSR_STATUS : Nat := 0xE3004
abbrev Reg.CAL_MSR_RUN : Nat := 0xE3008
abbrev Reg.CAL_MSR_MISS : Nat := 0xE300C
abbrev Reg.NSHn_CTL (n : Nat) : Nat := 0x100000 + 0x1000 * n
abbrev Reg.NSHn_SHIFT (n : Nat) : Nat := 0x100004 + 0x1000 * n
abbrev Reg.NSHn_PAUSE (n : Nat) : Nat := 0x100008 + 0x1000 * n
abbrev Reg.NSHn_STATUS (n : Nat) : Nat := 0x100010 + 0x1000 * n
abbrev Reg.NSHn_Q2_OCC (n : Nat) : Nat := 0x100014 + 0x1000 * n
abbrev Reg.NSHn_FAULT (n : Nat) : Nat := 0x100018 + 0x1000 * n
abbrev Reg.NSHn_CNT_CRC (n : Nat) : Nat := 0x100020 + 0x1000 * n
abbrev Reg.NSHn_CNT_FMT (n : Nat) : Nat := 0x100024 + 0x1000 * n
abbrev Reg.NSHn_CNT_RXOVR (n : Nat) : Nat := 0x100028 + 0x1000 * n
abbrev Reg.NSHn_CNT_FAR (n : Nat) : Nat := 0x10002C + 0x1000 * n
abbrev Reg.NSHn_CNT_PAUSE (n : Nat) : Nat := 0x100030 + 0x1000 * n
abbrev Reg.NSHn_CNT_SHIFT (n : Nat) : Nat := 0x100034 + 0x1000 * n
abbrev Reg.NSHn_CNT_FAULT (n : Nat) : Nat := 0x100038 + 0x1000 * n
abbrev Reg.NSHn_CNT_LOCK (n : Nat) : Nat := 0x10003C + 0x1000 * n
abbrev Reg.NSHn_PROTO (n : Nat) : Nat := 0x100040 + 0x1000 * n
abbrev Reg.NSHn_ENUM (n : Nat) : Nat := 0x100044 + 0x1000 * n
abbrev Reg.NSHn_FMAP_CNT (n : Nat) : Nat := 0x100048 + 0x1000 * n
abbrev Reg.NSHn_CNT_UDUP (n : Nat) : Nat := 0x10004C + 0x1000 * n
abbrev Reg.NSHn_CNT_RETRY (n : Nat) : Nat := 0x100050 + 0x1000 * n
abbrev Reg.NSHn_CNT_LATE (n : Nat) : Nat := 0x100054 + 0x1000 * n
abbrev Reg.NSHn_CNT_FMOVF (n : Nat) : Nat := 0x100058 + 0x1000 * n
abbrev Reg.NSHn_TILEk (n k : Nat) : Nat := 0x100200 + 0x1000 * n + 4 * k
abbrev Reg.NSHn_FMAPe (n e : Nat) : Nat := 0x100400 + 0x1000 * n + 4 * e
abbrev Reg.NSHn_TDUPk (n k : Nat) : Nat := 0x100C00 + 0x1000 * n + 4 * k
abbrev Reg.NSHn_ING_ASYM (n : Nat) : Nat := 0x100F00 + 0x1000 * n
abbrev Reg.NSHn_EGR_ASYM (n : Nat) : Nat := 0x100F04 + 0x1000 * n
abbrev Reg.FIX_CTL : Nat := 0x120000
abbrev Reg.FIX_AREA_LO : Nat := 0x120004
abbrev Reg.FIX_AREA_HI : Nat := 0x120008
abbrev Reg.FIX_PGg_CTL (g : Nat) : Nat := 0x120040 + 4 * g
abbrev Reg.FIX_PGg_QUOTA (g : Nat) : Nat := 0x120060 + 4 * g
abbrev Reg.FIX_CUEc_LO (c : Nat) : Nat := 0x120100 + 0x10 * c
abbrev Reg.FIX_CUEc_HI (c : Nat) : Nat := 0x120104 + 0x10 * c
abbrev Reg.FIX_CUEc_CNT (c : Nat) : Nat := 0x120108 + 0x10 * c
abbrev Reg.FIX_STATUS : Nat := 0x120200
abbrev Reg.FIX_PGg_ACTIVE (g : Nat) : Nat := 0x120220 + 4 * g
abbrev Reg.FIX_CNT_SKIP : Nat := 0x120300
abbrev Reg.FIX_CNT_SUPER : Nat := 0x120304
abbrev Reg.FIX_CNT_LATE : Nat := 0x120308
abbrev Reg.FIX_CNT_POISON : Nat := 0x12030C
abbrev Reg.ODLr_CTL (r : Nat) : Nat := 0x130000 + 0x4000 * r
abbrev Reg.ODLr_PAN (r : Nat) : Nat := 0x130004 + 0x4000 * r
abbrev Reg.ODLr_PHASE (r : Nat) : Nat := 0x130008 + 0x4000 * r
abbrev Reg.ODLr_GUARD (r : Nat) : Nat := 0x13000C + 0x4000 * r
abbrev Reg.ODLr_LEASE (r : Nat) : Nat := 0x130010 + 0x4000 * r
abbrev Reg.ODLr_RBI (r : Nat) : Nat := 0x130014 + 0x4000 * r
abbrev Reg.ODLr_STATUS (r : Nat) : Nat := 0x130020 + 0x4000 * r
abbrev Reg.ODLr_BEACON (r : Nat) : Nat := 0x130024 + 0x4000 * r
abbrev Reg.ODLr_TX_ERR (r : Nat) : Nat := 0x130028 + 0x4000 * r
abbrev Reg.ODLr_LAST_EXT_LO (r : Nat) : Nat := 0x130030 + 0x4000 * r
abbrev Reg.ODLr_LAST_EXT_HI (r : Nat) : Nat := 0x130034 + 0x4000 * r
abbrev Reg.ODLr_LAST_ADDR (r : Nat) : Nat := 0x130038 + 0x4000 * r
abbrev Reg.ODLr_CNT_FCS (r : Nat) : Nat := 0x130040 + 0x4000 * r
abbrev Reg.ODLr_CNT_FMT (r : Nat) : Nat := 0x130044 + 0x4000 * r
abbrev Reg.ODLr_CNT_DUP (r : Nat) : Nat := 0x130048 + 0x4000 * r
abbrev Reg.ODLr_CNT_EVICT (r : Nat) : Nat := 0x13004C + 0x4000 * r
abbrev Reg.ODLr_CNT_CCA (r : Nat) : Nat := 0x130050 + 0x4000 * r
abbrev Reg.ODLr_CNT_LATE (r : Nat) : Nat := 0x130054 + 0x4000 * r
abbrev Reg.ODLr_CNT_REFUSE (r : Nat) : Nat := 0x130058 + 0x4000 * r
abbrev Reg.ODLr_NSTATa (r a : Nat) : Nat := 0x131000 + 0x4000 * r + 4 * a
abbrev Reg.COL_LVLl_CTL (l : Nat) : Nat := 0x140000 + 0x10 * l
abbrev Reg.COL_LVLl_STATUS (l : Nat) : Nat := 0x140004 + 0x10 * l
abbrev Reg.COL_LVLl_CNT_POST (l : Nat) : Nat := 0x140008 + 0x10 * l
abbrev Reg.COL_LVLl_CNT_REFUSE (l : Nat) : Nat := 0x14000C + 0x10 * l
abbrev Reg.COL_TALUSt_CTL (t : Nat) : Nat := 0x140100 + 0x10 * t
abbrev Reg.COL_TALUSt_STATUS (t : Nat) : Nat := 0x140104 + 0x10 * t
abbrev Reg.COL_TALUSt_CNT_REFUSE (t : Nat) : Nat := 0x140108 + 0x10 * t
abbrev Reg.COL_WAIT : Nat := 0x140200
abbrev Reg.COL_CNT_CANCEL : Nat := 0x140204
abbrev Reg.COL_CNT_POISON : Nat := 0x140208
abbrev Reg.COL_SECMASK : Nat := 0x140300
abbrev Reg.SPRe_CTL (e : Nat) : Nat := 0x150000 + 0x400 * e
abbrev Reg.SPRe_IMG_LO (e : Nat) : Nat := 0x150004 + 0x400 * e
abbrev Reg.SPRe_IMG_HI (e : Nat) : Nat := 0x150008 + 0x400 * e
abbrev Reg.SPRe_LEN (e : Nat) : Nat := 0x15000C + 0x400 * e
abbrev Reg.SPRe_ENTRY (e : Nat) : Nat := 0x150010 + 0x400 * e
abbrev Reg.SPRe_STATUS (e : Nat) : Nat := 0x150020 + 0x400 * e
abbrev Reg.SPRe_ITEM (e : Nat) : Nat := 0x150024 + 0x400 * e
abbrev Reg.SPRe_EXC_PC (e : Nat) : Nat := 0x150028 + 0x400 * e
abbrev Reg.SPRe_EXC_CAUSE (e : Nat) : Nat := 0x15002C + 0x400 * e
abbrev Reg.SPRe_STERR (e : Nat) : Nat := 0x150030 + 0x400 * e
abbrev Reg.PMU_CTL : Nat := 0x160000
abbrev Reg.PMUe_CNT_CTL (e : Nat) : Nat := 0x161000 + 0x100 * e
abbrev Reg.PMUe_EVSELk (e k : Nat) : Nat := 0x161010 + 0x100 * e + 4 * k
abbrev Reg.PMUe_CYC_LO (e : Nat) : Nat := 0x161040 + 0x100 * e
abbrev Reg.PMUe_CYC_HI (e : Nat) : Nat := 0x161044 + 0x100 * e
abbrev Reg.PMUe_CNTk_LO (e k : Nat) : Nat := 0x161048 + 0x100 * e + 8 * k
abbrev Reg.PMUe_CNTk_HI (e k : Nat) : Nat := 0x16104C + 0x100 * e + 8 * k
abbrev Reg.PMU_SCNp_PX_EXAM_LO (p : Nat) : Nat := 0x164000 + 0x40 * p
abbrev Reg.PMU_SCNp_PX_EXAM_HI (p : Nat) : Nat := 0x164004 + 0x40 * p
abbrev Reg.PMU_SCNp_PX_SENT_LO (p : Nat) : Nat := 0x164008 + 0x40 * p
abbrev Reg.PMU_SCNp_PX_SENT_HI (p : Nat) : Nat := 0x16400C + 0x40 * p
abbrev Reg.PMU_SCNp_TILES_SENT_LO (p : Nat) : Nat := 0x164010 + 0x40 * p
abbrev Reg.PMU_SCNp_TILES_SENT_HI (p : Nat) : Nat := 0x164014 + 0x40 * p
abbrev Reg.PMU_SCNp_TILES_SKIP_LO (p : Nat) : Nat := 0x164018 + 0x40 * p
abbrev Reg.PMU_SCNp_TILES_SKIP_HI (p : Nat) : Nat := 0x16401C + 0x40 * p
abbrev Reg.PMU_SCNp_SLACK_MIN (p : Nat) : Nat := 0x164020 + 0x40 * p
abbrev Reg.PMU_SCNp_CTL (p : Nat) : Nat := 0x164024 + 0x40 * p
abbrev Reg.PMU_NSHn_TX_BLK_LO (n : Nat) : Nat := 0x165000 + 0x40 * n
abbrev Reg.PMU_NSHn_TX_BLK_HI (n : Nat) : Nat := 0x165004 + 0x40 * n
abbrev Reg.PMU_NSHn_IDLE_BLK_LO (n : Nat) : Nat := 0x165008 + 0x40 * n
abbrev Reg.PMU_NSHn_IDLE_BLK_HI (n : Nat) : Nat := 0x16500C + 0x40 * n
abbrev Reg.PMU_NSHn_RATE_MSr (n r : Nat) : Nat := 0x165010 + 0x40 * n + 4 * r
abbrev Reg.PMU_NSHn_PEAK (n : Nat) : Nat := 0x165020 + 0x40 * n
abbrev Reg.PMU_NSHn_CTL (n : Nat) : Nat := 0x165024 + 0x40 * n
abbrev Reg.PMU_COL_GRANTS_LO : Nat := 0x166000
abbrev Reg.PMU_COL_GRANTS_HI : Nat := 0x166004
abbrev Reg.PMU_COL_ITEM_WAIT_LO : Nat := 0x166008
abbrev Reg.PMU_COL_ITEM_WAIT_HI : Nat := 0x16600C
abbrev Reg.PMU_COL_ENG_WAIT_LO : Nat := 0x166010
abbrev Reg.PMU_COL_ENG_WAIT_HI : Nat := 0x166014
abbrev Reg.PMU_COL_RETURNS_LO : Nat := 0x166018
abbrev Reg.PMU_COL_RETURNS_HI : Nat := 0x16601C
abbrev Reg.PMU_COL_CTL : Nat := 0x166020
abbrev Reg.SDL_CTL : Nat := 0x170000
abbrev Reg.SDL_STATUS : Nat := 0x170004
abbrev Reg.SDL_MUTE : Nat := 0x170008
abbrev Reg.SDL_TOFS : Nat := 0x17000C
abbrev Reg.SDL_COPY : Nat := 0x170010
abbrev Reg.SDL_CNT_AUTH : Nat := 0x170020
abbrev Reg.SDL_CNT_PRBS : Nat := 0x170024
abbrev Reg.SDL_CNT_HBMISS : Nat := 0x170028
abbrev Reg.SDL_CNT_DIGEST : Nat := 0x17002C
abbrev Reg.SDL_CNT_NOREC : Nat := 0x170030
abbrev Reg.SDL_CNT_BIST : Nat := 0x170034
abbrev Reg.SDL_CNT_PROMOTE : Nat := 0x170038
abbrev Reg.FWU_STATUS : Nat := 0x180000
abbrev Reg.FWU_STAGE : Nat := 0x180004
abbrev Reg.FWU_REASON : Nat := 0x180008
abbrev Reg.FWU_TRIAL : Nat := 0x18000C
abbrev Reg.FWU_RUN_VER : Nat := 0x180010
abbrev Reg.FWU_RUN_SV : Nat := 0x180014
abbrev Reg.FWU_PREV_VER : Nat := 0x180018
abbrev Reg.FWU_CTL : Nat := 0x180020
abbrev Reg.CRN_CTL : Nat := 0x190000
abbrev Reg.CRN_CLR : Nat := 0x190004
abbrev Reg.CRN_STATUS : Nat := 0x190008
abbrev Reg.CRN_SNAP_HEAD : Nat := 0x19000C
abbrev Reg.CRN_REC_HEAD : Nat := 0x190010
abbrev Reg.CRN_UID_LO : Nat := 0x190014
abbrev Reg.CRN_UID_HI : Nat := 0x190018
abbrev Reg.CRN_NONCE_LO : Nat := 0x19001C
abbrev Reg.CRN_NONCE_HI : Nat := 0x190020
abbrev Reg.CRN_TRIG : Nat := 0x190024
abbrev Reg.CRN_UNITu_CTL (u : Nat) : Nat := 0x190400 + 4 * u
abbrev Reg.CRN_SETs_REGk (s k : Nat) : Nat := 0x191000 + 0x40 * s + 4 * k
abbrev Reg.SEC_MWORLD : Nat := 0x1A0000
abbrev Reg.SEC_BLKWORLD : Nat := 0x1A0004
abbrev Reg.SEC_DRDn_BASE (n : Nat) : Nat := 0x1A0100 + 0x10 * n
abbrev Reg.SEC_DRDn_LIMIT (n : Nat) : Nat := 0x1A0104 + 0x10 * n
abbrev Reg.SEC_DRDn_CTL (n : Nat) : Nat := 0x1A0108 + 0x10 * n
abbrev Reg.SEC_SRDn_BASE (n : Nat) : Nat := 0x1A0200 + 0x10 * n
abbrev Reg.SEC_SRDn_LIMIT (n : Nat) : Nat := 0x1A0204 + 0x10 * n
abbrev Reg.SEC_SRDn_CTL (n : Nat) : Nat := 0x1A0208 + 0x10 * n
abbrev Reg.SEC_VIOL_CNT : Nat := 0x1A0300
abbrev Reg.SEC_VIOL_LAST_LO : Nat := 0x1A0304
abbrev Reg.SEC_VIOL_LAST_HI : Nat := 0x1A0308
abbrev Reg.SEC_OTP : Nat := 0x1A0400
abbrev Reg.TIO_PINp_CFG (p : Nat) : Nat := 0x1B0000 + 4 * p
abbrev Reg.TIO_PINp_DLY (p : Nat) : Nat := 0x1B0040 + 4 * p
abbrev Reg.TIO_GPIO : Nat := 0x1B0080

/-! ## Descriptions -/

/-- Registers of GLB. -/
def Reg.rows_glb : List RegDesc :=
  [ ⟨.GLB_ID, 0, 1, 0, 1, 0, 0x11A324, 0, 0xFFFFFFFF, 0, 0, 0, .f, .ns⟩,
    ⟨.GLB_STRAP, 0x40, 1, 0, 1, 0, 0, 0, 0x3F, 0, 0, 0, .f, .ns⟩,
    ⟨.GLB_RST, 0x44, 1, 0, 1, 0, 0, 0, 0, 0, 1, 0, .f, .sec⟩,
    ⟨.GLB_RST_CAUSE, 0x48, 1, 0, 1, 0, 0, 0, 0xF, 0, 0, 0, .f, .ns⟩,
    ⟨.GLB_FLT_STATUS, 0x100, 1, 0, 1, 0, 0, 0, 0x800FFF00, 0xFF, 0, 0, .f, .ns⟩,
    ⟨.GLB_FLT_CTL, 0x104, 1, 0, 1, 0, 0, 0, 0, 0, 1, 0, .f, .sec⟩,
    ⟨.GLB_NSH_HINT, 0x200, 1, 0, 1, 0, 0, 0, 0, 0, 0xFFFFFFFF, 0, .f, .ns⟩,
    ⟨.GLB_LNK_RPLx, 0x300, 20, 4, 1, 0, 0, 0, 0xFFFFFFFF, 0, 0, 0, .f, .ns⟩,
    ⟨.GLB_LNK_CLR, 0x350, 1, 0, 1, 0, 0, 0, 0, 0, 0, 1, .f, .ns⟩ ]
/-- Registers of CLK. -/
def Reg.rows_clk : List RegDesc :=
  [ ⟨.CLK_STATUS, 0x10000, 1, 0, 1, 0, 0, 0, 0xFF03, 0, 0, 0, .l, .ns⟩ ]
/-- Registers of PWR. -/
def Reg.rows_pwr : List RegDesc :=
  [ ⟨.PWR_CTL, 0x20000, 1, 0, 1, 0, 0x1402, 0xFF07, 0, 0, 0, 0x80000000, .f, .ns⟩,
    ⟨.PWR_STATUS, 0x20004, 1, 0, 1, 0, 0, 0, 0xF07, 0, 0, 0, .f, .ns⟩,
    ⟨.PWR_DOM_CTL, 0x20008, 1, 0, 1, 0, 0, 0xFFF, 0, 0, 0, 0, .f, .ns⟩,
    ⟨.PWR_DOM_STATUS, 0x2000C, 1, 0, 1, 0, 0xFFF, 0, 0xFFF, 0, 0, 0, .f, .ns⟩,
    ⟨.PWR_RES_Ds, 0x20010, 3, 4, 1, 0, 0, 0, 0xFFFFFFFF, 0, 0, 0, .f, .ns⟩,
    ⟨.PWR_THERM_CTL, 0x20020, 1, 0, 1, 0, 0x5A, 0xFF, 0, 0, 0, 0, .f, .ns⟩,
    ⟨.PWR_THERMi, 0x20040, 8, 4, 1, 0, 0, 0, 0xFFF0FFF, 0, 0, 0, .f, .ns⟩ ]
/-- Registers of INT. -/
def Reg.rows_int : List RegDesc :=
  [ ⟨.INT_SRC_MAPn, 0x30000, 128, 4, 1, 0, 0, 0x33F, 0, 0, 0, 0, .f, .ns⟩,
    ⟨.INT_PENDk, 0x30200, 4, 4, 1, 0, 0, 0, 0, 0xFFFFFFFF, 0, 0, .f, .ns⟩,
    ⟨.INT_VEC_CTLv, 0x30400, 64, 4, 1, 0, 0x10000, 0x3FF, 0x10000, 0, 0, 0, .f, .ns⟩ ]
/-- Registers of HIF. -/
def Reg.rows_hif : List RegDesc :=
  [ ⟨.HIF_ACC_ERR, 0x40010, 1, 0, 1, 0, 0, 0, 0xFFFF, 0, 0, 0x80000000, .f, .ns⟩,
    ⟨.SQn_BASE_LO, 0x41000, 64, 0x20, 1, 0, 0, 0xFFFFF000, 0, 0, 0, 0, .f, .ns⟩,
    ⟨.SQn_BASE_HI, 0x41004, 64, 0x20, 1, 0, 0, 0xFFFFFFFF, 0, 0, 0, 0, .f, .ns⟩,
    ⟨.SQn_CTL, 0x41008, 64, 0x20, 1, 0, 0x1000400, 0xF3F1F03, 0, 0, 0, 0, .f, .ns⟩,
    ⟨.SQn_EPOCH, 0x4100C, 64, 0x20, 1, 0, 0, 0xFFFF, 0, 0, 0, 0, .f, .ns⟩,
    ⟨.SQn_STATUS, 0x41010, 64, 0x20, 1, 0, 0x10000, 0, 0xFF03FFFF, 0, 0, 0, .f, .ns⟩,
    ⟨.CQn_BASE_LO, 0x42000, 64, 0x20, 1, 0, 0, 0xFFFFF000, 0, 0, 0, 0, .f, .ns⟩,
    ⟨.CQn_BASE_HI, 0x42004, 64, 0x20, 1, 0, 0, 0xFFFFFFFF, 0, 0, 0, 0, .f, .ns⟩,
    ⟨.CQn_CTL, 0x42008, 64, 0x20, 1, 0, 0x400, 0x1F03, 0, 0, 0, 0, .f, .ns⟩,
    ⟨.CQn_STATUS, 0x42010, 64, 0x20, 1, 0, 0x10000, 0, 0x3FFFF, 0, 0, 0, .f, .ns⟩,
    ⟨.EVQ_BASE_LO, 0x43000, 1, 0, 1, 0, 0, 0xFFFFF000, 0, 0, 0, 0, .f, .ns⟩,
    ⟨.EVQ_BASE_HI, 0x43004, 1, 0, 1, 0, 0, 0xFFFFFFFF, 0, 0, 0, 0, .f, .ns⟩,
    ⟨.EVQ_CTL, 0x43008, 1, 0, 1, 0, 0x400, 0x1F01, 0, 0, 0, 0, .f, .ns⟩,
    ⟨.EVQ_STATUS, 0x43010, 1, 0, 1, 0, 0x10000, 0, 0x5FFFF, 0x20000, 0, 0, .f, .ns⟩,
    ⟨.EVQ_LOST, 0x43014, 1, 0, 1, 0, 0, 0, 0xFFFFFFFF, 0, 0, 0, .f, .ns⟩ ]
/-- Registers of CMT. -/
def Reg.rows_cmt : List RegDesc :=
  [ ⟨.CMT_STATUS, 0x50000, 1, 0, 1, 0, 0, 0, 3, 0, 0, 0, .f, .ns⟩,
    ⟨.CMT_STG_WRITES, 0x50004, 1, 0, 1, 0, 0, 0, 0x1FFFF, 0, 0, 0, .f, .ns⟩,
    ⟨.CMT_STG_BYTES, 0x50008, 1, 0, 1, 0, 0, 0, 0x7FFFFFF, 0, 0, 0, .f, .ns⟩,
    ⟨.CMT_EPOCH, 0x50010, 1, 0, 1, 0, 0, 0, 0xFFFFFFFF, 0, 0, 0, .f, .ns⟩,
    ⟨.CMT_DIGEST_LO, 0x50014, 1, 0, 1, 0, 0, 0, 0xFFFFFFFF, 0, 0, 0, .f, .ns⟩,
    ⟨.CMT_DIGEST_HI, 0x50018, 1, 0, 1, 0, 0, 0, 0xFFFFFFFF, 0, 0, 0, .f, .ns⟩,
    ⟨.CMT_CHK_FAIL, 0x50020, 1, 0, 1, 0, 0, 0, 0xFFFFFFFF, 0, 0, 0, .f, .ns⟩,
    ⟨.CMT_CHK_RULE, 0x50024, 1, 0, 1, 0, 0, 0, 0xFF01FF, 0, 0, 0, .f, .ns⟩,
    ⟨.CMT_DIRECT, 0x50028, 1, 0, 1, 0, 0, 0, 0xFFFF, 0, 0, 0x80000000, .f, .ns⟩,
    ⟨.CMT_DIRECT_LAST, 0x5002C, 1, 0, 1, 0, 0, 0, 0xFFFFFF, 0, 0, 0, .f, .ns⟩,
    ⟨.CMT_TBL_BASE_LO, 0x50030, 1, 0, 1, 0, 0, 0xF0000000, 0, 0, 0, 0, .f, .ns⟩,
    ⟨.CMT_TBL_BASE_HI, 0x50034, 1, 0, 1, 0, 0, 0xF, 0, 0, 0, 0, .f, .ns⟩ ]
/-- Registers of TIM. -/
def Reg.rows_tim_0 : List RegDesc :=
  [ ⟨.TBt_CTL, 0x60000, 4, 0x100, 1, 0, 0x400, 0xF1F, 0, 0, 0, 0, .l, .ns⟩,
    ⟨.TBt_LIMITS, 0x60004, 4, 0x100, 1, 0, 0x64003E8, 0xFFFFFFFF, 0, 0, 0, 0, .l, .ns⟩,
    ⟨.TBt_TRIM, 0x60008, 4, 0x100, 1, 0, 0, 0xFFFFFFFF, 0, 0, 0, 0, .l, .ns⟩,
    ⟨.TBt_HOLD, 0x6000C, 4, 0x100, 1, 0, 0xA0064, 0xFFFFFFFF, 0, 0, 0, 0, .l, .ns⟩,
    ⟨.TBt_PTP, 0x60010, 4, 0x100, 1, 0, 0x10003000, 0xFFFFF3FF, 0, 0, 0, 0, .l, .ns⟩,
    ⟨.TBt_PTP_DS, 0x60014, 4, 0x100, 1, 0, 0xFEF88080, 0xFFFFFFFF, 0, 0, 0, 0, .l, .ns⟩,
    ⟨.TBt_GEN_NS, 0x60018, 4, 0x100, 1, 0, 0, 0xFFFFFFFF, 0, 0, 0, 0, .l, .ns⟩,
    ⟨.TBt_GEN_FRAC, 0x6001C, 4, 0x100, 1, 0, 0, 0xFFFF, 0, 0, 0, 0, .l, .ns⟩,
    ⟨.TBt_STATUS, 0x60020, 4, 0x100, 1, 0, 0x50, 0, 0x1777, 0, 0, 0, .l, .ns⟩,
    ⟨.TBt_OFFSET, 0x60024, 4, 0x100, 1, 0, 0, 0, 0xFFFFFFFF, 0, 0, 0, .l, .ns⟩,
    ⟨.TBt_FREQ, 0x60028, 4, 0x100, 1, 0, 0, 0, 0xFFFFFFFF, 0, 0, 0, .l, .ns⟩,
    ⟨.TBt_HOLD_EST, 0x6002C, 4, 0x100, 1, 0, 0, 0, 0xFFFFFFFF, 0, 0, 0, .l, .ns⟩,
    ⟨.TBt_COUNTS, 0x60030, 4, 0x100, 1, 0, 0, 0, 0x7FFFFFFF, 0, 0, 0x80000000, .l, .ns⟩,
    ⟨.TBt_NOW_SEC_LO, 0x60040, 4, 0x100, 1, 0, 0, 0, 0xFFFFFFFF, 0, 0, 0, .l, .ns⟩,
    ⟨.TBt_NOW_SEC_HI, 0x60044, 4, 0x100, 1, 0, 0, 0, 0xFFFF, 0, 0, 0, .l, .ns⟩,
    ⟨.TBt_NOW_NS, 0x60048, 4, 0x100, 1, 0, 0, 0, 0x3FFFFFFF, 0, 0, 0, .l, .ns⟩,
    ⟨.TIM_PPS_SNAPt_SEC_LO, 0x60400, 4, 0x10, 1, 0, 0, 0, 0xFFFFFFFF, 0, 0, 0, .l, .ns⟩,
    ⟨.TIM_PPS_SNAPt_SEC_HI, 0x60404, 4, 0x10, 1, 0, 0, 0, 0xFFFF, 0, 0, 0, .l, .ns⟩,
    ⟨.TIM_PPS_SNAPt_NS, 0x60408, 4, 0x10, 1, 0, 0, 0, 0x3FFFFFFF, 0, 0, 0, .l, .ns⟩,
    ⟨.TIM_PPS_SNAPt_FRAC, 0x6040C, 4, 0x10, 1, 0, 0, 0, 0xFFFF, 0, 0, 0, .l, .ns⟩ ]
/-- Registers of TIM. -/
def Reg.rows_tim_1 : List RegDesc :=
  [ ⟨.TIM_CMPc_CTL, 0x61000, 16, 0x10, 1, 0, 0, 0xFFFF0007, 0x18, 0, 0, 0, .l, .ns⟩,
    ⟨.TIM_CMPc_SEC, 0x61004, 16, 0x10, 1, 0, 0, 0xFFFFFFFF, 0, 0, 0, 0, .l, .ns⟩,
    ⟨.TIM_CMPc_NS, 0x61008, 16, 0x10, 1, 0, 0, 0x3FFFFFFF, 0, 0, 0, 0, .l, .ns⟩,
    ⟨.TIM_CMPc_PERIOD, 0x6100C, 16, 0x10, 1, 0, 0, 0xFFFFFFFF, 0, 0, 0, 0, .l, .ns⟩,
    ⟨.TIM_ODLr_ING, 0x62000, 2, 8, 1, 0, 0, 0xFFFFFFFF, 0, 0, 0, 0, .l, .ns⟩,
    ⟨.TIM_ODLr_EGR, 0x62004, 2, 8, 1, 0, 0, 0xFFFFFFFF, 0, 0, 0, 0, .l, .ns⟩,
    ⟨.TIM_NDLYn_k, 0x68000, 32, 0x200, 128, 4, 0xFFFFFFFF, 0, 0xFFFFFFFF, 0, 0, 0, .l, .ns⟩ ]
/-- Registers of TIM. -/
def Reg.rows_tim : List RegDesc := Reg.rows_tim_0 ++ Reg.rows_tim_1
/-- Registers of NET. -/
def Reg.rows_net : List RegDesc :=
  [ ⟨.NETn_CTL, 0x80000, 4, 0x4000, 1, 0, 0x1C, 0x1F, 0, 0, 0, 0, .l, .ns⟩,
    ⟨.NETn_TXQ_PCP, 0x80004, 4, 0x4000, 1, 0, 0xFAC688, 0xFFFFFF, 0, 0, 0, 0, .l, .ns⟩,
    ⟨.NETn_MAC_LO, 0x80008, 4, 0x4000, 1, 0, 0, 0xFFFFFFFF, 0, 0, 0, 0, .l, .ns⟩,
    ⟨.NETn_MAC_HI, 0x8000C, 4, 0x4000, 1, 0, 0, 0xFFFF, 0, 0, 0, 0, .l, .ns⟩,
    ⟨.NETn_STATUS, 0x80010, 4, 0x4000, 1, 0, 0, 0, 0xFFF, 0, 0, 0, .l, .ns⟩,
    ⟨.NETn_CNT_FCS, 0x80020, 4, 0x4000, 1, 0, 0, 0, 0x7FFFFFFF, 0, 0, 0x80000000, .l, .ns⟩,
    ⟨.NETn_CNT_OVR, 0x80024, 4, 0x4000, 1, 0, 0, 0, 0x7FFFFFFF, 0, 0, 0x80000000, .l, .ns⟩,
    ⟨.NETn_CNT_PAUSE, 0x80028, 4, 0x4000, 1, 0, 0, 0, 0x7FFFFFFF, 0, 0, 0x80000000, .l, .ns⟩,
    ⟨.NETn_TS_ING, 0x83F00, 4, 0x4000, 1, 0, 0, 0xFFFFFFFF, 0, 0, 0, 0, .l, .ns⟩,
    ⟨.NETn_TS_EGR, 0x83F04, 4, 0x4000, 1, 0, 0, 0xFFFFFFFF, 0, 0, 0, 0, .l, .ns⟩,
    ⟨.NETn_TS_ASYM, 0x83F08, 4, 0x4000, 1, 0, 0, 0xFFFFFFFF, 0, 0, 0, 0, .l, .ns⟩ ]
/-- Registers of ING. -/
def Reg.rows_ing_0 : List RegDesc :=
  [ ⟨.ING_FLOWf_CTL, 0x90000, 32, 0x40, 1, 0, 0, 0xFFF7, 0, 0, 0, 0, .s, .ns⟩,
    ⟨.ING_FLOWf_PATHA_IP, 0x90004, 32, 0x40, 1, 0, 0, 0xFFFFFFFF, 0, 0, 0, 0, .s, .ns⟩,
    ⟨.ING_FLOWf_PATHA_UDP, 0x90008, 32, 0x40, 1, 0, 0, 0xFFFFF, 0, 0, 0, 0, .s, .ns⟩,
    ⟨.ING_FLOWf_PATHB_IP, 0x9000C, 32, 0x40, 1, 0, 0, 0xFFFFFFFF, 0, 0, 0, 0, .s, .ns⟩,
    ⟨.ING_FLOWf_PATHB_UDP, 0x90010, 32, 0x40, 1, 0, 0, 0xFFFFF, 0, 0, 0, 0, .s, .ns⟩,
    ⟨.ING_FLOWf_GEOM, 0x90014, 32, 0x40, 1, 0, 0, 0x3FFF3FFF, 0, 0, 0, 0, .s, .ns⟩,
    ⟨.ING_FLOWf_PKT, 0x90018, 32, 0x40, 1, 0, 0, 0xFFFFFFFF, 0, 0, 0, 0, .s, .ns⟩,
    ⟨.ING_FLOWf_PERIOD, 0x9001C, 32, 0x40, 1, 0, 0, 0xFFFFFFFF, 0, 0, 0, 0, .s, .ns⟩,
    ⟨.ING_FLOWf_JB, 0x90020, 32, 0x40, 1, 0, 0xC0410000, 0xF07FFFFF, 0, 0, 0, 0, .s, .ns⟩,
    ⟨.ING_FLOWf_RING_LO, 0x90024, 32, 0x40, 1, 0, 0, 0xFFFFF000, 0, 0, 0, 0, .s, .ns⟩,
    ⟨.ING_FLOWf_RING_HI, 0x90028, 32, 0x40, 1, 0, 0x30, 0xFF, 0, 0, 0, 0, .s, .ns⟩,
    ⟨.ING_FLOWf_PITCH, 0x9002C, 32, 0x40, 1, 0, 0, 0x3FFFF, 0, 0, 0, 0, .s, .ns⟩,
    ⟨.ING_FLOWf_PIPES, 0x90030, 32, 0x40, 1, 0, 0, 0xFFFFFFFF, 0, 0, 0, 0, .s, .ns⟩,
    ⟨.ING_FSTf_STATUS, 0x91000, 32, 0x40, 1, 0, 0, 0, 0x7F, 0, 0, 0, .s, .ns⟩,
    ⟨.ING_FSTf_RTP, 0x91004, 32, 0x40, 1, 0, 0, 0, 0xFFFFFFFF, 0, 0, 0, .s, .ns⟩,
    ⟨.ING_FSTf_DUP, 0x91008, 32, 0x40, 1, 0, 0, 0, 0x7FFFFFFF, 0, 0, 0, .s, .ns⟩,
    ⟨.ING_FSTf_LATE, 0x9100C, 32, 0x40, 1, 0, 0, 0, 0x7FFFFFFF, 0, 0, 0, .s, .ns⟩,
    ⟨.ING_FSTf_OVR, 0x91010, 32, 0x40, 1, 0, 0, 0, 0x7FFFFFFF, 0, 0, 0, .s, .ns⟩,
    ⟨.ING_FSTf_FMT, 0x91014, 32, 0x40, 1, 0, 0, 0, 0x7FFFFFFF, 0, 0, 0, .s, .ns⟩,
    ⟨.ING_FSTf_DONE, 0x91018, 32, 0x40, 1, 0, 0, 0, 0x7FFFFFFF, 0, 0, 0, .s, .ns⟩ ]
/-- Registers of ING. -/
def Reg.rows_ing_1 : List RegDesc :=
  [ ⟨.ING_FSTf_INC, 0x9101C, 32, 0x40, 1, 0, 0, 0, 0x7FFFFFFF, 0, 0, 0, .s, .ns⟩,
    ⟨.ING_SACN_CTL, 0x92000, 1, 0, 1, 0, 0x1900000, 0xFFFFFF1, 0, 0, 0, 0x80000000, .s, .ns⟩,
    ⟨.ING_SACN_STATUS, 0x92004, 1, 0, 1, 0, 0, 0, 0x3FFF7FFF, 0, 0, 0, .s, .ns⟩,
    ⟨.ING_SACN_IGN, 0x92010, 1, 0, 1, 0, 0, 0, 0x7FFFFFFF, 0, 0, 0, .s, .ns⟩,
    ⟨.ING_SACN_OVR, 0x92014, 1, 0, 1, 0, 0, 0, 0x7FFFFFFF, 0, 0, 0, .s, .ns⟩,
    ⟨.ING_SACN_POOL, 0x92018, 1, 0, 1, 0, 0, 0, 0x7FFFFFFF, 0, 0, 0, .s, .ns⟩,
    ⟨.ING_SACN_SEQ, 0x9201C, 1, 0, 1, 0, 0, 0, 0x7FFFFFFF, 0, 0, 0, .s, .ns⟩,
    ⟨.ING_SACN_ACC, 0x92020, 1, 0, 1, 0, 0, 0, 0x7FFFFFFF, 0, 0, 0, .s, .ns⟩,
    ⟨.ING_CNT_CLR, 0x93000, 1, 0, 1, 0, 0, 0, 0, 0, 0, 0xFFFFFFFF, .s, .ns⟩ ]
/-- Registers of ING. -/
def Reg.rows_ing : List RegDesc := Reg.rows_ing_0 ++ Reg.rows_ing_1
/-- Registers of MEM. -/
def Reg.rows_mem : List RegDesc :=
  [ ⟨.MEM_STATUS, 0xA0000, 1, 0, 1, 0, 0, 0, 0x3F, 0, 0, 0, .l, .ns⟩,
    ⟨.MEM_SCRUB, 0xA0004, 1, 0, 1, 0, 0x79, 0xFFF, 0, 0, 0, 0, .l, .ns⟩,
    ⟨.MEM_QOS, 0xA0008, 1, 0, 1, 0, 0xA, 0xFF, 0, 0, 0, 0, .l, .ns⟩,
    ⟨.MEM_ECC_THR, 0xA000C, 1, 0, 1, 0, 0xA, 0x1F, 0, 0, 0, 0, .l, .ns⟩,
    ⟨.MEM_CNT_CLR, 0xA0010, 1, 0, 1, 0, 0, 0, 0, 0, 0, 0x1F, .l, .ns⟩,
    ⟨.MEMc_CNT_CE, 0xA0100, 2, 0x10, 1, 0, 0, 0, 0xFFFFFFFF, 0, 0, 0, .l, .ns⟩,
    ⟨.MEMc_CNT_UE, 0xA0104, 2, 0x10, 1, 0, 0, 0, 0xFFFFFFFF, 0, 0, 0, .l, .ns⟩,
    ⟨.MEMc_UE_ADDR_LO, 0xA0108, 2, 0x10, 1, 0, 0, 0, 0xFFFFFFC0, 0, 0, 0, .l, .ns⟩,
    ⟨.MEMc_UE_ADDR_HI, 0xA010C, 2, 0x10, 1, 0, 0, 0, 0x1FF, 0, 0, 0, .l, .ns⟩,
    ⟨.MEM_DL_MISS, 0xA0200, 1, 0, 1, 0, 0, 0, 0x1FFFFFFF, 0, 0, 0, .l, .ns⟩,
    ⟨.SRAM_CNT_CEb, 0xA1000, 24, 4, 1, 0, 0, 0, 0xFFFFFFFF, 0, 0, 0, .l, .ns⟩,
    ⟨.SRAM_UE, 0xA1080, 1, 0, 1, 0, 0, 0, 0x7FFFFFFF, 0, 0, 0, .l, .ns⟩,
    ⟨.LCL_CNT_CEe, 0xA1100, 24, 4, 1, 0, 0, 0, 0xFFFFFFFF, 0, 0, 0, .l, .ns⟩,
    ⟨.LCL_UE, 0xA1180, 1, 0, 1, 0, 0, 0, 0x7FFFFFFF, 0, 0, 0, .l, .ns⟩,
    ⟨.MEM_FIFOi_CTL, 0xA2000, 8, 8, 1, 0, 0xC, 0x1F, 0, 0, 0, 0, .l, .ns⟩,
    ⟨.MEM_FIFOi_STATUS, 0xA2004, 8, 8, 1, 0, 0, 0, 0xFFFFFF1F, 0, 0, 0, .l, .ns⟩ ]
/-- Registers of SCN. -/
def Reg.rows_scn : List RegDesc :=
  [ ⟨.SCNp_CTL, 0xC0000, 32, 0x800, 1, 0, 0x20, 0x3FF, 0, 0, 0, 0, .d, .ns⟩,
    ⟨.SCNp_SRC_GEOM, 0xC0004, 32, 0x800, 1, 0, 0, 0x3FFF3FFF, 0, 0, 0, 0, .d, .ns⟩,
    ⟨.SCNp_SRC_PITCH, 0xC0008, 32, 0x800, 1, 0, 0, 0x3FFFF, 0, 0, 0, 0, .d, .ns⟩,
    ⟨.SCNp_BRIGHT, 0xC000C, 32, 0x800, 1, 0, 0x10000, 0x1FFFF, 0, 0, 0, 0, .d, .ns⟩,
    ⟨.SCNp_FB_ADDR_LO, 0xC0010, 32, 0x800, 1, 0, 0, 0xFFFFF000, 0, 0, 0, 0, .f, .ns⟩,
    ⟨.SCNp_FB_ADDR_HI, 0xC0014, 32, 0x800, 1, 0, 0, 0xF, 0, 0, 0, 0, .f, .ns⟩,
    ⟨.SCNp_FB_ARM, 0xC0018, 32, 0x800, 1, 0, 0, 0, 0, 0, 0, 0x80000001, .f, .ns⟩,
    ⟨.SCNp_FB_CUR_LO, 0xC0020, 32, 0x800, 1, 0, 0, 0, 0xFFFFF000, 0, 0, 0, .d, .ns⟩,
    ⟨.SCNp_FB_CUR_HI, 0xC0024, 32, 0x800, 1, 0, 0, 0, 0xF, 0, 0, 0, .d, .ns⟩,
    ⟨.SCNp_ARM_STATUS, 0xC0028, 32, 0x800, 1, 0, 0, 0, 0xFFFFFF03, 0, 0, 0, .d, .ns⟩,
    ⟨.SCNp_ARM_FRAME, 0xC002C, 32, 0x800, 1, 0, 0, 0, 0xFFFFFFFF, 0, 0, 0, .d, .ns⟩,
    ⟨.SCNp_SUBST, 0xC0030, 32, 0x800, 1, 0, 0, 0, 0xFFFFFFFF, 0, 0, 0, .d, .ns⟩,
    ⟨.SCNp_LATE, 0xC0034, 32, 0x800, 1, 0, 0, 0, 0xFFFFFFFF, 0, 0, 0, .d, .ns⟩,
    ⟨.SCNp_FLAG_ERR, 0xC0038, 32, 0x800, 1, 0, 0, 0, 0xFFFFFFFF, 0, 0, 0, .d, .ns⟩ ]
/-- Registers of PG. -/
def Reg.rows_pg : List RegDesc :=
  [ ⟨.PGg_CTL, 0xD0000, 8, 0x100, 1, 0, 0x143C08, 0x3FFFF1F, 0, 0, 0, 0, .d, .ns⟩,
    ⟨.PGg_PERIOD_NS, 0xD0004, 8, 0x100, 1, 0, 0xFE502A, 0xFFFFFFFF, 0, 0, 0, 0, .d, .ns⟩,
    ⟨.PGg_FRAC, 0xD0008, 8, 0x100, 1, 0, 0xAAAB, 0xFFFFFFFF, 0, 0, 0, 0, .d, .ns⟩,
    ⟨.PGg_PHASE_NS, 0xD000C, 8, 0x100, 1, 0, 0, 0xFFFFFFFF, 0, 0, 0, 0, .d, .ns⟩,
    ⟨.PGg_RASTER, 0xD0010, 8, 0x100, 1, 0, 0x4380465, 0x3FFF3FFF, 0, 0, 0, 0, .d, .ns⟩,
    ⟨.PGg_APPLY, 0xD0014, 8, 0x100, 1, 0, 0, 0x3FFF, 0, 0, 0, 0, .d, .ns⟩,
    ⟨.PGg_STATUS, 0xD0040, 8, 0x100, 1, 0, 0, 0, 0x3FFF0007, 0, 0, 0, .d, .ns⟩,
    ⟨.PGg_FRAME, 0xD0044, 8, 0x100, 1, 0, 0, 0, 0xFFFFFFFF, 0, 0, 0, .d, .ns⟩,
    ⟨.PGg_HELD, 0xD0048, 8, 0x100, 1, 0, 0, 0, 0x7FFFFFFF, 0, 0, 0x80000000, .d, .ns⟩ ]
/-- Registers of CAL. -/
def Reg.rows_cal : List RegDesc :=
  [ ⟨.CAL_CTL, 0xE0000, 1, 0, 1, 0, 0, 0x3FFFF, 0, 0, 0, 0, .d, .ns⟩,
    ⟨.CAL_STAT_TIME, 0xE0004, 1, 0, 1, 0, 0xE100A0A, 0xFFFFFFFF, 0, 0, 0, 0, .d, .ns⟩,
    ⟨.CAL_PGg_CTL, 0xE0040, 8, 4, 1, 0, 4, 0xFFD, 0, 0, 0, 0, .d, .ns⟩,
    ⟨.CAL_STAT_COEFn, 0xE0100, 24, 4, 1, 0, 0, 0xFFFF, 0, 0, 0, 0, .d, .ns⟩,
    ⟨.CAL_PIPEp_CTL, 0xE1000, 32, 0x80, 1, 0, 0, 0x3FF, 0, 0, 0, 0x80000000, .d, .ns⟩,
    ⟨.CAL_PIPEp_BASE_LO, 0xE1004, 32, 0x80, 1, 0, 0, 0xFFFFF000, 0, 0, 0, 0, .d, .ns⟩,
    ⟨.CAL_PIPEp_BASE_HI, 0xE1008, 32, 0x80, 1, 0, 0, 0xF, 0, 0, 0, 0, .d, .ns⟩,
    ⟨.CAL_PIPEp_APPLY, 0xE100C, 32, 0x80, 1, 0, 0, 0xFFFF, 0, 0, 0, 0, .d, .ns⟩,
    ⟨.CAL_PIPEp_STAT_LO, 0xE1010, 32, 0x80, 1, 0, 0, 0xFFFFF000, 0, 0, 0, 0, .d, .ns⟩,
    ⟨.CAL_PIPEp_STAT_HI, 0xE1014, 32, 0x80, 1, 0, 0, 0xF, 0, 0, 0, 0, .d, .ns⟩,
    ⟨.CAL_PIPEp_STATUS, 0xE1020, 32, 0x80, 1, 0, 0, 0, 0x7FFFFFF, 0, 0, 0, .d, .ns⟩,
    ⟨.CAL_PIPEp_DELTA, 0xE1024, 32, 0x80, 1, 0, 0, 0, 0xFFFF03FF, 0, 0, 0, .d, .ns⟩,
    ⟨.CAL_PIPEp_CLAMP, 0xE1028, 32, 0x80, 1, 0, 0, 0, 0xFFFFFFFF, 0, 0, 0, .d, .ns⟩,
    ⟨.CAL_PIPEp_DEAD, 0xE102C, 32, 0x80, 1, 0, 0, 0, 0x1FFFFF, 0, 0, 0, .d, .ns⟩,
    ⟨.CAL_PIPEp_GVALIDk, 0xE1030, 32, 0x80, 4, 4, 0, 0, 0xFFFFFFFF, 0, 0, 0, .d, .ns⟩,
    ⟨.CAL_PIPEp_MVALIDk, 0xE1040, 32, 0x80, 4, 4, 0, 0, 0xFFFFFFFF, 0, 0, 0, .d, .ns⟩,
    ⟨.CAL_MSR_CTL, 0xE3000, 1, 0, 1, 0, 0, 0, 0, 0, 1, 0, .f, .ns⟩,
    ⟨.CAL_MSR_STATUS, 0xE3004, 1, 0, 1, 0, 0, 0, 0x1FFF0003, 0, 0, 0, .f, .ns⟩,
    ⟨.CAL_MSR_RUN, 0xE3008, 1, 0, 1, 0, 0, 0, 0xFFFFFFFF, 0, 0, 0, .f, .ns⟩,
    ⟨.CAL_MSR_MISS, 0xE300C, 1, 0, 1, 0, 0, 0, 0x1FFFFFFF, 0, 0, 0, .f, .ns⟩ ]
/-- Registers of NSH. -/
def Reg.rows_nsh_0 : List RegDesc :=
  [ ⟨.NSHn_CTL, 0x100000, 32, 0x1000, 1, 0, 0x38, 0x3F, 0, 0, 0, 0, .s, .ns⟩,
    ⟨.NSHn_SHIFT, 0x100004, 32, 0x1000, 1, 0, 0x207823, 0xFFFF3F, 0, 0, 0, 0, .s, .ns⟩,
    ⟨.NSHn_PAUSE, 0x100008, 32, 0x1000, 1, 0, 0xA, 0xFF, 0, 0, 0, 0, .s, .ns⟩,
    ⟨.NSHn_STATUS, 0x100010, 32, 0x1000, 1, 0, 0, 0, 0x77F, 0, 0, 0, .s, .ns⟩,
    ⟨.NSHn_Q2_OCC, 0x100014, 32, 0x1000, 1, 0, 0, 0, 0x3FFFF, 0, 0, 0, .s, .ns⟩,
    ⟨.NSHn_FAULT, 0x100018, 32, 0x1000, 1, 0, 0, 0, 0xFF, 0, 0, 0, .s, .ns⟩,
    ⟨.NSHn_CNT_CRC, 0x100020, 32, 0x1000, 1, 0, 0, 0, 0x7FFFFFFF, 0, 0, 0x80000000, .s, .ns⟩,
    ⟨.NSHn_CNT_FMT, 0x100024, 32, 0x1000, 1, 0, 0, 0, 0x7FFFFFFF, 0, 0, 0x80000000, .s, .ns⟩,
    ⟨.NSHn_CNT_RXOVR, 0x100028, 32, 0x1000, 1, 0, 0, 0, 0x7FFFFFFF, 0, 0, 0x80000000, .s, .ns⟩,
    ⟨.NSHn_CNT_FAR, 0x10002C, 32, 0x1000, 1, 0, 0, 0, 0x7FFFFFFF, 0, 0, 0x80000000, .s, .ns⟩,
    ⟨.NSHn_CNT_PAUSE, 0x100030, 32, 0x1000, 1, 0, 0, 0, 0x7FFFFFFF, 0, 0, 0x80000000, .s, .ns⟩,
    ⟨.NSHn_CNT_SHIFT, 0x100034, 32, 0x1000, 1, 0, 0, 0, 0x7FFFFFFF, 0, 0, 0x80000000, .s, .ns⟩,
    ⟨.NSHn_CNT_FAULT, 0x100038, 32, 0x1000, 1, 0, 0, 0, 0x7FFFFFFF, 0, 0, 0x80000000, .s, .ns⟩,
    ⟨.NSHn_CNT_LOCK, 0x10003C, 32, 0x1000, 1, 0, 0, 0, 0x7FFFFFFF, 0, 0, 0x80000000, .s, .ns⟩,
    ⟨.NSHn_PROTO, 0x100040, 32, 0x1000, 1, 0, 0xA141008, 0xFFFF1FFF, 0, 0, 0, 0, .s, .ns⟩,
    ⟨.NSHn_ENUM, 0x100044, 32, 0x1000, 1, 0, 0, 0, 0x3FF, 0, 0, 0, .s, .ns⟩,
    ⟨.NSHn_FMAP_CNT, 0x100048, 32, 0x1000, 1, 0, 0, 0, 0x3FF, 0, 0, 0, .s, .ns⟩,
    ⟨.NSHn_CNT_UDUP, 0x10004C, 32, 0x1000, 1, 0, 0, 0, 0x7FFFFFFF, 0, 0, 0x80000000, .s, .ns⟩,
    ⟨.NSHn_CNT_RETRY, 0x100050, 32, 0x1000, 1, 0, 0, 0, 0x7FFFFFFF, 0, 0, 0x80000000, .s, .ns⟩,
    ⟨.NSHn_CNT_LATE, 0x100054, 32, 0x1000, 1, 0, 0, 0, 0x7FFFFFFF, 0, 0, 0x80000000, .s, .ns⟩ ]
/-- Registers of NSH. -/
def Reg.rows_nsh_1 : List RegDesc :=
  [ ⟨.NSHn_CNT_FMOVF, 0x100058, 32, 0x1000, 1, 0, 0, 0, 0x7FFFFFFF, 0, 0, 0x80000000, .s, .ns⟩,
    ⟨.NSHn_TILEk, 0x100200, 32, 0x1000, 128, 4, 0, 0, 0xFFFF033F, 0, 0, 0, .s, .ns⟩,
    ⟨.NSHn_FMAPe, 0x100400, 32, 0x1000, 512, 4, 0, 0, 0x8F7FFFFF, 0, 0, 0, .s, .ns⟩,
    ⟨.NSHn_TDUPk, 0x100C00, 32, 0x1000, 128, 4, 0, 0, 0xFFFFFFFF, 0, 0, 0, .s, .ns⟩,
    ⟨.NSHn_ING_ASYM, 0x100F00, 32, 0x1000, 1, 0, 0, 0xFFFFFFFF, 0, 0, 0, 0, .l, .ns⟩,
    ⟨.NSHn_EGR_ASYM, 0x100F04, 32, 0x1000, 1, 0, 0, 0xFFFFFFFF, 0, 0, 0, 0, .l, .ns⟩ ]
/-- Registers of NSH. -/
def Reg.rows_nsh : List RegDesc := Reg.rows_nsh_0 ++ Reg.rows_nsh_1
/-- Registers of FIX. -/
def Reg.rows_fix : List RegDesc :=
  [ ⟨.FIX_CTL, 0x120000, 1, 0, 1, 0, 0xA00, 0xFF01, 0, 0, 0, 0, .s, .ns⟩,
    ⟨.FIX_AREA_LO, 0x120004, 1, 0, 1, 0, 0, 0xFC000000, 0, 0, 0, 0, .s, .ns⟩,
    ⟨.FIX_AREA_HI, 0x120008, 1, 0, 1, 0, 0, 0xF, 0, 0, 0, 0, .s, .ns⟩,
    ⟨.FIX_PGg_CTL, 0x120040, 8, 4, 1, 0, 1, 0x1F, 0, 0, 0, 0, .s, .ns⟩,
    ⟨.FIX_PGg_QUOTA, 0x120060, 8, 4, 1, 0, 0, 0x1FFFFF, 0, 0, 0, 0, .s, .ns⟩,
    ⟨.FIX_CUEc_LO, 0x120100, 8, 0x10, 1, 0, 0, 0xFFFFFFF0, 0, 0, 0, 0, .s, .ns⟩,
    ⟨.FIX_CUEc_HI, 0x120104, 8, 0x10, 1, 0, 0, 0xF, 0, 0, 0, 0, .s, .ns⟩,
    ⟨.FIX_CUEc_CNT, 0x120108, 8, 0x10, 1, 0, 0, 0x1FFFFF, 0, 0, 0, 0x80000000, .s, .ns⟩,
    ⟨.FIX_STATUS, 0x120200, 1, 0, 1, 0, 0, 0, 1, 0, 0, 0, .s, .ns⟩,
    ⟨.FIX_PGg_ACTIVE, 0x120220, 8, 4, 1, 0, 0, 0, 0x1FFFFF, 0, 0, 0, .s, .ns⟩,
    ⟨.FIX_CNT_SKIP, 0x120300, 1, 0, 1, 0, 0, 0, 0x7FFFFFFF, 0, 0, 0x80000000, .s, .ns⟩,
    ⟨.FIX_CNT_SUPER, 0x120304, 1, 0, 1, 0, 0, 0, 0x7FFFFFFF, 0, 0, 0x80000000, .s, .ns⟩,
    ⟨.FIX_CNT_LATE, 0x120308, 1, 0, 1, 0, 0, 0, 0x7FFFFFFF, 0, 0, 0x80000000, .s, .ns⟩,
    ⟨.FIX_CNT_POISON, 0x12030C, 1, 0, 1, 0, 0, 0, 0x7FFFFFFF, 0, 0, 0x80000000, .s, .ns⟩ ]
/-- Registers of ODL. -/
def Reg.rows_odl : List RegDesc :=
  [ ⟨.ODLr_CTL, 0x130000, 2, 0x4000, 1, 0, 0x288B90, 0x3FFFFF, 0, 0, 0, 0, .s, .ns⟩,
    ⟨.ODLr_PAN, 0x130004, 2, 0x4000, 1, 0, 0, 0xFFFF, 0, 0, 0, 0, .s, .ns⟩,
    ⟨.ODLr_PHASE, 0x130008, 2, 0x4000, 1, 0, 0, 0xFFFFFFFF, 0, 0, 0, 0, .s, .ns⟩,
    ⟨.ODLr_GUARD, 0x13000C, 2, 0x4000, 1, 0, 0xFA028080, 0xFFFFFFFF, 0, 0, 0, 0, .s, .ns⟩,
    ⟨.ODLr_LEASE, 0x130010, 2, 0x4000, 1, 0, 0x100810, 0xFFFFFFF, 0, 0, 0, 0, .s, .ns⟩,
    ⟨.ODLr_RBI, 0x130014, 2, 0x4000, 1, 0, 0x89800004, 0xFFFF000F, 0, 0, 0, 0, .s, .ns⟩,
    ⟨.ODLr_STATUS, 0x130020, 2, 0x4000, 1, 0, 0, 0, 0x1FFF0007, 0, 0, 0, .s, .ns⟩,
    ⟨.ODLr_BEACON, 0x130024, 2, 0x4000, 1, 0, 0, 0, 0xFFFFFFFF, 0, 0, 0, .s, .ns⟩,
    ⟨.ODLr_TX_ERR, 0x130028, 2, 0x4000, 1, 0, 0, 0, 0xFFFFFFFF, 0, 0, 0, .s, .ns⟩,
    ⟨.ODLr_LAST_EXT_LO, 0x130030, 2, 0x4000, 1, 0, 0, 0, 0xFFFFFFFF, 0, 0, 0, .s, .ns⟩,
    ⟨.ODLr_LAST_EXT_HI, 0x130034, 2, 0x4000, 1, 0, 0, 0, 0xFFFFFFFF, 0, 0, 0, .s, .ns⟩,
    ⟨.ODLr_LAST_ADDR, 0x130038, 2, 0x4000, 1, 0, 0, 0, 0xFFFFFF, 0, 0, 0, .s, .ns⟩,
    ⟨.ODLr_CNT_FCS, 0x130040, 2, 0x4000, 1, 0, 0, 0, 0x7FFFFFFF, 0, 0, 0x80000000, .s, .ns⟩,
    ⟨.ODLr_CNT_FMT, 0x130044, 2, 0x4000, 1, 0, 0, 0, 0x7FFFFFFF, 0, 0, 0x80000000, .s, .ns⟩,
    ⟨.ODLr_CNT_DUP, 0x130048, 2, 0x4000, 1, 0, 0, 0, 0x7FFFFFFF, 0, 0, 0x80000000, .s, .ns⟩,
    ⟨.ODLr_CNT_EVICT, 0x13004C, 2, 0x4000, 1, 0, 0, 0, 0x7FFFFFFF, 0, 0, 0x80000000, .s, .ns⟩,
    ⟨.ODLr_CNT_CCA, 0x130050, 2, 0x4000, 1, 0, 0, 0, 0x7FFFFFFF, 0, 0, 0x80000000, .s, .ns⟩,
    ⟨.ODLr_CNT_LATE, 0x130054, 2, 0x4000, 1, 0, 0, 0, 0x7FFFFFFF, 0, 0, 0x80000000, .s, .ns⟩,
    ⟨.ODLr_CNT_REFUSE, 0x130058, 2, 0x4000, 1, 0, 0, 0, 0x7FFFFFFF, 0, 0, 0x80000000, .s, .ns⟩,
    ⟨.ODLr_NSTATa, 0x131000, 2, 0x4000, 1024, 4, 0, 0, 0x1F1F1F1F, 0, 0, 0, .s, .ns⟩ ]
/-- Registers of COL. -/
def Reg.rows_col : List RegDesc :=
  [ ⟨.COL_LVLl_CTL, 0x140000, 8, 0x10, 1, 0, 0x200, 0x1FFF1FFF, 0, 0, 0, 0, .s, .ns⟩,
    ⟨.COL_LVLl_STATUS, 0x140004, 8, 0x10, 1, 0, 0, 0, 0x1FFF1FFF, 0, 0, 0, .s, .ns⟩,
    ⟨.COL_LVLl_CNT_POST, 0x140008, 8, 0x10, 1, 0, 0, 0, 0x7FFFFFFF, 0, 0, 0x80000000, .s, .ns⟩,
    ⟨.COL_LVLl_CNT_REFUSE, 0x14000C, 8, 0x10, 1, 0, 0, 0, 0x7FFFFFFF, 0, 0, 0x80000000, .s, .ns⟩,
    ⟨.COL_TALUSt_CTL, 0x140100, 4, 0x10, 1, 0, 0x10003E8, 0x7FF03FF, 0, 0, 0, 0, .s, .ns⟩,
    ⟨.COL_TALUSt_STATUS, 0x140104, 4, 0x10, 1, 0, 0, 0, 0x7FF, 0, 0, 0, .s, .ns⟩,
    ⟨.COL_TALUSt_CNT_REFUSE, 0x140108, 4, 0x10, 1, 0, 0, 0, 0x7FFFFFFF, 0, 0, 0x80000000, .s, .ns⟩,
    ⟨.COL_WAIT, 0x140200, 1, 0, 1, 0, 0, 0, 0xFFFFFF, 0, 0, 0, .s, .ns⟩,
    ⟨.COL_CNT_CANCEL, 0x140204, 1, 0, 1, 0, 0, 0, 0x7FFFFFFF, 0, 0, 0x80000000, .s, .ns⟩,
    ⟨.COL_CNT_POISON, 0x140208, 1, 0, 1, 0, 0, 0, 0x7FFFFFFF, 0, 0, 0x80000000, .s, .ns⟩,
    ⟨.COL_SECMASK, 0x140300, 1, 0, 1, 0, 0, 0xFF, 0, 0, 0, 0, .s, .sec⟩ ]
/-- Registers of SPR. -/
def Reg.rows_spr : List RegDesc :=
  [ ⟨.SPRe_CTL, 0x150000, 24, 0x400, 1, 0, 0, 3, 0, 0, 0, 0, .f, .eng⟩,
    ⟨.SPRe_IMG_LO, 0x150004, 24, 0x400, 1, 0, 0, 0xFFFFFFC0, 0, 0, 0, 0, .f, .eng⟩,
    ⟨.SPRe_IMG_HI, 0x150008, 24, 0x400, 1, 0, 0, 0xF, 0, 0, 0, 0, .f, .eng⟩,
    ⟨.SPRe_LEN, 0x15000C, 24, 0x400, 1, 0, 0, 0xFFFFFFFF, 0, 0, 0, 0, .f, .eng⟩,
    ⟨.SPRe_ENTRY, 0x150010, 24, 0x400, 1, 0, 0, 0x1FFFC, 0, 0, 0, 0, .f, .eng⟩,
    ⟨.SPRe_STATUS, 0x150020, 24, 0x400, 1, 0, 0, 0, 0xFFFF001F, 0, 0, 0, .f, .eng⟩,
    ⟨.SPRe_ITEM, 0x150024, 24, 0x400, 1, 0, 0xFFFFFFFF, 0, 0xFFFFFFFF, 0, 0, 0, .f, .eng⟩,
    ⟨.SPRe_EXC_PC, 0x150028, 24, 0x400, 1, 0, 0, 0, 0x1FFFC, 0, 0, 0, .f, .eng⟩,
    ⟨.SPRe_EXC_CAUSE, 0x15002C, 24, 0x400, 1, 0, 0, 0, 0xFF, 0, 0, 0, .f, .eng⟩,
    ⟨.SPRe_STERR, 0x150030, 24, 0x400, 1, 0, 0, 0, 0xFFFF, 0, 0, 0x80000000, .f, .eng⟩ ]
/-- Registers of PMU. -/
def Reg.rows_pmu_0 : List RegDesc :=
  [ ⟨.PMU_CTL, 0x160000, 1, 0, 1, 0, 0, 1, 0, 0, 0, 2, .f, .ns⟩,
    ⟨.PMUe_CNT_CTL, 0x161000, 24, 0x100, 1, 0, 0, 1, 0x1FF00, 0, 0, 2, .f, .eng⟩,
    ⟨.PMUe_EVSELk, 0x161010, 24, 0x100, 8, 4, 0x600, 0x1FFF0FFF, 0, 0, 0, 0, .f, .eng⟩,
    ⟨.PMUe_CYC_LO, 0x161040, 24, 0x100, 1, 0, 0, 0, 0xFFFFFFFF, 0, 0, 0, .f, .eng⟩,
    ⟨.PMUe_CYC_HI, 0x161044, 24, 0x100, 1, 0, 0, 0, 0xFFFFFFFF, 0, 0, 0, .f, .eng⟩,
    ⟨.PMUe_CNTk_LO, 0x161048, 24, 0x100, 8, 8, 0, 0, 0xFFFFFFFF, 0, 0, 0, .f, .eng⟩,
    ⟨.PMUe_CNTk_HI, 0x16104C, 24, 0x100, 8, 8, 0, 0, 0xFFFF, 0, 0, 0, .f, .eng⟩,
    ⟨.PMU_SCNp_PX_EXAM_LO, 0x164000, 32, 0x40, 1, 0, 0, 0, 0xFFFFFFFF, 0, 0, 0, .f, .ns⟩,
    ⟨.PMU_SCNp_PX_EXAM_HI, 0x164004, 32, 0x40, 1, 0, 0, 0, 0xFFFF, 0, 0, 0, .f, .ns⟩,
    ⟨.PMU_SCNp_PX_SENT_LO, 0x164008, 32, 0x40, 1, 0, 0, 0, 0xFFFFFFFF, 0, 0, 0, .f, .ns⟩,
    ⟨.PMU_SCNp_PX_SENT_HI, 0x16400C, 32, 0x40, 1, 0, 0, 0, 0xFFFF, 0, 0, 0, .f, .ns⟩,
    ⟨.PMU_SCNp_TILES_SENT_LO, 0x164010, 32, 0x40, 1, 0, 0, 0, 0xFFFFFFFF, 0, 0, 0, .f, .ns⟩,
    ⟨.PMU_SCNp_TILES_SENT_HI, 0x164014, 32, 0x40, 1, 0, 0, 0, 0xFFFF, 0, 0, 0, .f, .ns⟩,
    ⟨.PMU_SCNp_TILES_SKIP_LO, 0x164018, 32, 0x40, 1, 0, 0, 0, 0xFFFFFFFF, 0, 0, 0, .f, .ns⟩,
    ⟨.PMU_SCNp_TILES_SKIP_HI, 0x16401C, 32, 0x40, 1, 0, 0, 0, 0xFFFF, 0, 0, 0, .f, .ns⟩,
    ⟨.PMU_SCNp_SLACK_MIN, 0x164020, 32, 0x40, 1, 0, 0xFFFFFF, 0, 0xFFFFFF, 0, 0, 0, .f, .ns⟩,
    ⟨.PMU_SCNp_CTL, 0x164024, 32, 0x40, 1, 0, 0, 0, 0, 0, 0, 1, .f, .ns⟩,
    ⟨.PMU_NSHn_TX_BLK_LO, 0x165000, 32, 0x40, 1, 0, 0, 0, 0xFFFFFFFF, 0, 0, 0, .f, .ns⟩,
    ⟨.PMU_NSHn_TX_BLK_HI, 0x165004, 32, 0x40, 1, 0, 0, 0, 0xFFFF, 0, 0, 0, .f, .ns⟩,
    ⟨.PMU_NSHn_IDLE_BLK_LO, 0x165008, 32, 0x40, 1, 0, 0, 0, 0xFFFFFFFF, 0, 0, 0, .f, .ns⟩ ]
/-- Registers of PMU. -/
def Reg.rows_pmu_1 : List RegDesc :=
  [ ⟨.PMU_NSHn_IDLE_BLK_HI, 0x16500C, 32, 0x40, 1, 0, 0, 0, 0xFFFF, 0, 0, 0, .f, .ns⟩,
    ⟨.PMU_NSHn_RATE_MSr, 0x165010, 32, 0x40, 4, 4, 0, 0, 0xFFFFFFFF, 0, 0, 0, .f, .ns⟩,
    ⟨.PMU_NSHn_PEAK, 0x165020, 32, 0x40, 1, 0, 0, 0, 0x7F03FFFF, 0, 0, 0, .f, .ns⟩,
    ⟨.PMU_NSHn_CTL, 0x165024, 32, 0x40, 1, 0, 0, 0, 0, 0, 0, 1, .f, .ns⟩,
    ⟨.PMU_COL_GRANTS_LO, 0x166000, 1, 0, 1, 0, 0, 0, 0xFFFFFFFF, 0, 0, 0, .f, .ns⟩,
    ⟨.PMU_COL_GRANTS_HI, 0x166004, 1, 0, 1, 0, 0, 0, 0xFFFF, 0, 0, 0, .f, .ns⟩,
    ⟨.PMU_COL_ITEM_WAIT_LO, 0x166008, 1, 0, 1, 0, 0, 0, 0xFFFFFFFF, 0, 0, 0, .f, .ns⟩,
    ⟨.PMU_COL_ITEM_WAIT_HI, 0x16600C, 1, 0, 1, 0, 0, 0, 0xFFFF, 0, 0, 0, .f, .ns⟩,
    ⟨.PMU_COL_ENG_WAIT_LO, 0x166010, 1, 0, 1, 0, 0, 0, 0xFFFFFFFF, 0, 0, 0, .f, .ns⟩,
    ⟨.PMU_COL_ENG_WAIT_HI, 0x166014, 1, 0, 1, 0, 0, 0, 0xFFFF, 0, 0, 0, .f, .ns⟩,
    ⟨.PMU_COL_RETURNS_LO, 0x166018, 1, 0, 1, 0, 0, 0, 0xFFFFFFFF, 0, 0, 0, .f, .ns⟩,
    ⟨.PMU_COL_RETURNS_HI, 0x16601C, 1, 0, 1, 0, 0, 0, 0xFFFF, 0, 0, 0, .f, .ns⟩,
    ⟨.PMU_COL_CTL, 0x166020, 1, 0, 1, 0, 0, 0, 0, 0, 0, 1, .f, .ns⟩ ]
/-- Registers of PMU. -/
def Reg.rows_pmu : List RegDesc := Reg.rows_pmu_0 ++ Reg.rows_pmu_1
/-- Registers of SDL. -/
def Reg.rows_sdl : List RegDesc :=
  [ ⟨.SDL_CTL, 0x170000, 1, 0, 1, 0, 0xA0832, 0xFFFFF3, 0, 0, 0, 0, .l, .ns⟩,
    ⟨.SDL_STATUS, 0x170004, 1, 0, 1, 0, 0, 0, 0xFFFF, 0, 0, 0, .l, .ns⟩,
    ⟨.SDL_MUTE, 0x170008, 1, 0, 1, 0, 0, 0, 0xFFFFFFFF, 0, 0, 0, .l, .ns⟩,
    ⟨.SDL_TOFS, 0x17000C, 1, 0, 1, 0, 0, 0, 0xFFFFFFFF, 0, 0, 0, .l, .ns⟩,
    ⟨.SDL_COPY, 0x170010, 1, 0, 1, 0, 0, 0, 0x3F7FFFFF, 0, 0, 0, .l, .ns⟩,
    ⟨.SDL_CNT_AUTH, 0x170020, 1, 0, 1, 0, 0, 0, 0x7FFFFFFF, 0, 0, 0x80000000, .l, .ns⟩,
    ⟨.SDL_CNT_PRBS, 0x170024, 1, 0, 1, 0, 0, 0, 0x7FFFFFFF, 0, 0, 0x80000000, .l, .ns⟩,
    ⟨.SDL_CNT_HBMISS, 0x170028, 1, 0, 1, 0, 0, 0, 0x7FFFFFFF, 0, 0, 0x80000000, .l, .ns⟩,
    ⟨.SDL_CNT_DIGEST, 0x17002C, 1, 0, 1, 0, 0, 0, 0x7FFFFFFF, 0, 0, 0x80000000, .l, .ns⟩,
    ⟨.SDL_CNT_NOREC, 0x170030, 1, 0, 1, 0, 0, 0, 0x7FFFFFFF, 0, 0, 0x80000000, .l, .ns⟩,
    ⟨.SDL_CNT_BIST, 0x170034, 1, 0, 1, 0, 0, 0, 0x7FFFFFFF, 0, 0, 0x80000000, .l, .ns⟩,
    ⟨.SDL_CNT_PROMOTE, 0x170038, 1, 0, 1, 0, 0, 0, 0x7FFFFFFF, 0, 0, 0x80000000, .l, .ns⟩ ]
/-- Registers of FWU. -/
def Reg.rows_fwu : List RegDesc :=
  [ ⟨.FWU_STATUS, 0x180000, 1, 0, 1, 0, 0, 0, 0x7FFFFF, 0, 0, 0, .f, .ns⟩,
    ⟨.FWU_STAGE, 0x180004, 1, 0, 1, 0, 0, 0, 0x7FFFFFF, 0, 0, 0, .f, .ns⟩,
    ⟨.FWU_REASON, 0x180008, 1, 0, 1, 0, 0, 0, 0xFF, 0, 0, 0, .f, .ns⟩,
    ⟨.FWU_TRIAL, 0x18000C, 1, 0, 1, 0, 0, 0, 0xFFF, 0, 0, 0, .f, .ns⟩,
    ⟨.FWU_RUN_VER, 0x180010, 1, 0, 1, 0, 0, 0, 0xFFFFFFFF, 0, 0, 0, .f, .ns⟩,
    ⟨.FWU_RUN_SV, 0x180014, 1, 0, 1, 0, 0, 0, 0xFFFFFFFF, 0, 0, 0, .f, .ns⟩,
    ⟨.FWU_PREV_VER, 0x180018, 1, 0, 1, 0, 0, 0, 0xFFFFFFFF, 0, 0, 0, .f, .ns⟩,
    ⟨.FWU_CTL, 0x180020, 1, 0, 1, 0, 0, 4, 0, 0, 3, 0, .f, .sec⟩ ]
/-- Registers of CRN. -/
def Reg.rows_crn : List RegDesc :=
  [ ⟨.CRN_CTL, 0x190000, 1, 0, 1, 0, 1, 1, 0, 0, 0, 0, .f, .sec⟩,
    ⟨.CRN_CLR, 0x190004, 1, 0, 1, 0, 0, 0, 0, 0, 3, 0, .f, .sec⟩,
    ⟨.CRN_STATUS, 0x190008, 1, 0, 1, 0, 0, 0, 0xFFFF, 0, 0, 0x80000000, .f, .ns⟩,
    ⟨.CRN_SNAP_HEAD, 0x19000C, 1, 0, 1, 0, 0, 0, 0xFFFFFFFF, 0, 0, 0, .f, .ns⟩,
    ⟨.CRN_REC_HEAD, 0x190010, 1, 0, 1, 0, 0, 0, 0xFFFFFFFF, 0, 0, 0, .f, .ns⟩,
    ⟨.CRN_UID_LO, 0x190014, 1, 0, 1, 0, 0, 0, 0xFFFFFFFF, 0, 0, 0, .f, .ns⟩,
    ⟨.CRN_UID_HI, 0x190018, 1, 0, 1, 0, 0, 0, 0xFFFFFFFF, 0, 0, 0, .f, .ns⟩,
    ⟨.CRN_NONCE_LO, 0x19001C, 1, 0, 1, 0, 0, 0, 0xFFFFFFFF, 0, 0, 0, .f, .ns⟩,
    ⟨.CRN_NONCE_HI, 0x190020, 1, 0, 1, 0, 0, 0, 0xFFFFFFFF, 0, 0, 0, .f, .ns⟩,
    ⟨.CRN_TRIG, 0x190024, 1, 0, 1, 0, 0, 0, 0, 0, 0, 0xFFFF, .f, .ns⟩,
    ⟨.CRN_UNITu_CTL, 0x190400, 131, 4, 1, 0, 0x20, 0x7F, 0, 0, 0, 0, .f, .unit⟩,
    ⟨.CRN_SETs_REGk, 0x191040, 15, 0x40, 16, 4, 0, 0x8000FFFF, 0, 0, 0, 0, .f, .ns⟩ ]
/-- Registers of SEC. -/
def Reg.rows_sec : List RegDesc :=
  [ ⟨.SEC_MWORLD, 0x1A0000, 1, 0, 1, 0, 1, 0xFFFFF1, 0, 0, 0, 0, .l, .sec⟩,
    ⟨.SEC_BLKWORLD, 0x1A0004, 1, 0, 1, 0, 0, 0x1F, 0, 0, 0, 0, .l, .sec⟩,
    ⟨.SEC_DRDn_BASE, 0x1A0100, 16, 0x10, 1, 0, 0, 0xFFFFF, 0, 0, 0, 0, .l, .sec⟩,
    ⟨.SEC_DRDn_LIMIT, 0x1A0104, 16, 0x10, 1, 0, 0, 0xFFFFF, 0, 0, 0, 0, .l, .sec⟩,
    ⟨.SEC_DRDn_CTL, 0x1A0108, 16, 0x10, 1, 0, 0, 7, 0, 0, 0, 0, .l, .sec⟩,
    ⟨.SEC_SRDn_BASE, 0x1A0200, 8, 0x10, 1, 0, 0, 0x3FFF, 0, 0, 0, 0, .l, .sec⟩,
    ⟨.SEC_SRDn_LIMIT, 0x1A0204, 8, 0x10, 1, 0, 0, 0x3FFF, 0, 0, 0, 0, .l, .sec⟩,
    ⟨.SEC_SRDn_CTL, 0x1A0208, 8, 0x10, 1, 0, 0, 7, 0, 0, 0, 0, .l, .sec⟩,
    ⟨.SEC_VIOL_CNT, 0x1A0300, 1, 0, 1, 0, 0, 0, 0x7FFFFFFF, 0, 0, 0x80000000, .l, .sec⟩,
    ⟨.SEC_VIOL_LAST_LO, 0x1A0304, 1, 0, 1, 0, 0, 0, 0xFFFFFFFF, 0, 0, 0, .l, .sec⟩,
    ⟨.SEC_VIOL_LAST_HI, 0x1A0308, 1, 0, 1, 0, 0, 0, 0xFFFF07FF, 0, 0, 0, .l, .sec⟩,
    ⟨.SEC_OTP, 0x1A0400, 1, 0, 1, 0, 0, 0, 0x7F0FFF, 0, 0, 0, .l, .sec⟩ ]
/-- Registers of TIO. -/
def Reg.rows_tio : List RegDesc :=
  [ ⟨.TIO_PINp_CFG, 0x1B0000, 8, 4, 1, 0, 0, 0xFFFFFF7F, 0, 0, 0, 0, .s, .ns⟩,
    ⟨.TIO_PINp_DLY, 0x1B0040, 8, 4, 1, 0, 0, 0xFFFFFFFF, 0, 0, 0, 0, .s, .ns⟩,
    ⟨.TIO_GPIO, 0x1B0080, 1, 0, 1, 0, 0, 0xFF, 0xFF00, 0, 0, 0, .s, .ns⟩ ]

/-- The registers of the 64 KiB page that an offset lies in (Table 20.1). -/
def Reg.rowsAt (off : Nat) : List RegDesc :=
  match off / 0x10000 with
  | 0 => Reg.rows_glb
  | 1 => Reg.rows_clk
  | 2 => Reg.rows_pwr
  | 3 => Reg.rows_int
  | 4 => Reg.rows_hif
  | 5 => Reg.rows_cmt
  | 6 => Reg.rows_tim
  | 8 => Reg.rows_net
  | 9 => Reg.rows_ing
  | 10 => Reg.rows_mem
  | 12 => Reg.rows_scn
  | 13 => Reg.rows_pg
  | 14 => Reg.rows_cal
  | 16 | 17 => Reg.rows_nsh
  | 18 => Reg.rows_fix
  | 19 => Reg.rows_odl
  | 20 => Reg.rows_col
  | 21 => Reg.rows_spr
  | 22 => Reg.rows_pmu
  | 23 => Reg.rows_sdl
  | 24 => Reg.rows_fwu
  | 25 => Reg.rows_crn
  | 26 => Reg.rows_sec
  | 27 => Reg.rows_tio
  | _ => []

/-- Every register of the map, in ascending order of its first offset. -/
def Reg.all : List RegDesc :=
  Reg.rows_glb ++ Reg.rows_clk ++ Reg.rows_pwr ++ Reg.rows_int ++ Reg.rows_hif ++ Reg.rows_cmt ++ Reg.rows_tim ++ Reg.rows_net ++ Reg.rows_ing ++ Reg.rows_mem ++ Reg.rows_scn ++ Reg.rows_pg ++ Reg.rows_cal ++ Reg.rows_nsh ++ Reg.rows_fix ++ Reg.rows_odl ++ Reg.rows_col ++ Reg.rows_spr ++ Reg.rows_pmu ++ Reg.rows_sdl ++ Reg.rows_fwu ++ Reg.rows_crn ++ Reg.rows_sec ++ Reg.rows_tio

end Sys2Proof.Machine
end

