-- ==== Sys2Proof/Machine/Regs.lean ====
section
/-! DEFINITION. Reading and writing the stored registers, their fields and counts, and who lies where: the register at an offset, its
instance, its block, power domain and world (Tables 1.1, 3.2, 17.1, 17.4, 19.1, 20.1). -/

namespace Sys2Proof.Machine

/-! ## The register at an offset -/

/-- The instance of a register that lies at an offset. -/
def RegDesc.inst (d : RegDesc) (off : Nat) : Option (Nat × Nat) :=
  if off < d.base then none else
  let r := off - d.base
  let i := if d.stride1 = 0 then 0 else r / d.stride1
  let r2 := r - i * d.stride1
  let j := if d.stride2 = 0 then 0 else r2 / d.stride2
  if i < d.count1 && j < d.count2 && r2 == j * d.stride2 then some (i, j) else none

/-- The register that an offset holds, with its instance (R446). -/
def Reg.at (off : Nat) : Option (RegDesc × Nat × Nat) :=
  (Reg.rowsAt off).findSome? (fun d => (d.inst off).map (fun p => (d, p.1, p.2)))

/-- The stored value of a register after a cold reset (the Reset columns). -/
def Reg.resetValue (off : Nat) : Word :=
  match Reg.at off with
  | some (d, i, _) => if d.id = .INT_SRC_MAPn then BitVec.ofNat 32 (i / 2) else BitVec.ofNat 32 d.reset
  | none => 0

/-- The bits of a register that a read returns as they stand (R5). -/
def RegDesc.readMask (d : RegDesc) : Nat := d.rw ||| d.ro ||| d.w1c ||| d.w1s

/-- Whether software can change the register at all (R66). -/
def RegDesc.writable (d : RegDesc) : Bool := (d.rw ||| d.w1c ||| d.w1s ||| d.wo) != 0

/-! ## Stored registers -/

/-- The stored value at an offset. -/
def Hub.rd (h : Hub) (off : Nat) : Word := Sparse.get (Reg.resetValue off) h.regs off

/-- The stored value at an offset replaced. -/
def Hub.wr (h : Hub) (off : Nat) (v : Word) : Hub := { h with regs := Sparse.set (Reg.resetValue off) h.regs off v }

/-- The stored value as a number. -/
def Hub.n (h : Hub) (off : Nat) : Nat := (h.rd off).toNat

/-- The stored value replaced by a number. -/
def Hub.wrN (h : Hub) (off v : Nat) : Hub := h.wr off (BitVec.ofNat 32 v)

/-- A field of a stored register. -/
def Hub.f (h : Hub) (off hi lo : Nat) : Nat := fieldOf (h.n off) hi lo

/-- A bit of a stored register. -/
def Hub.bit (h : Hub) (off i : Nat) : Bool := bitOf (h.n off) i

/-- A field of a stored register replaced. -/
def Hub.putF (h : Hub) (off hi lo v : Nat) : Hub := h.wrN off (putField (h.n off) hi lo v)

/-- A bit of a stored register replaced. -/
def Hub.putBit (h : Hub) (off i : Nat) (b : Bool) : Hub := h.putF off i i (b2n b)

/-- A counter of `bits` bits in the low bits of a register counts one more (R9). -/
def Hub.count (h : Hub) (off bits : Nat) : Hub := h.putF off (bits - 1) 0 (satInc bits (h.f off (bits - 1) 0))

/-- A counter in the low bits of a register counts `k` more (R9). -/
def Hub.countBy (h : Hub) (off bits k : Nat) : Hub := h.putF off (bits - 1) 0 (satAdd bits (h.f off (bits - 1) 0) k)

/-- A signed 32-bit stored register. -/
def Hub.s32 (h : Hub) (off : Nat) : Int := signed 32 (h.n off)

/-- Counting only when a condition holds. -/
def Hub.countIf (h : Hub) (c : Bool) (off bits : Nat) : Hub := if c then h.count off bits else h

/-- A DRAM offset held in a low and a high register, from bit `lo` of the low one. -/
def Hub.addr36 (h : Hub) (offLo offHi lo : Nat) : Nat := (h.n offLo / 2 ^ lo) * 2 ^ lo + h.f offHi 3 0 * 2 ^ 32

/-! ## Blocks, domains and units -/

/-- The block that a BAR0 offset belongs to (Table 20.1). -/
def Block.ofOffset (off : Nat) : Option Block :=
  match off / 0x10000 with
  | 0 => some .glb | 1 => some .clk | 2 => some .pwr | 3 => some .int | 4 => some .hif | 5 => some .cmt
  | 6 => some .tim | 7 => some .tim
  | 8 => some (.net ((off - 0x80000) / 0x4000))
  | 9 => some .ing | 10 => some .mem
  | 12 => some (.scn ((off - 0xC0000) / 0x800))
  | 13 => some .pg | 14 => some .cal
  | 16 => some (.nsh ((off - 0x100000) / 0x1000))
  | 17 => some (.nsh ((off - 0x100000) / 0x1000))
  | 18 => some .fix
  | 19 => some (.odl ((off - 0x130000) / 0x4000 % 2))
  | 20 => some .col
  | 21 => some (.spr ((off - 0x150000) / 0x400))
  | 22 => some .pmu | 23 => some .sdl | 24 => some .fwu | 25 => some .crn | 26 => some .sec | 27 => some .tio
  | 28 => some .dbg
  | _ => none

/-- The bit of the power domain of a block (Tables 1.1 and 19.1). -/
def Block.domain : Block → Nat
  | .tim | .pwr | .clk | .tio | .glb => 0
  | .sec | .crn | .fwu | .pmu | .dbg => 1
  | .hif | .int | .cmt => 2
  | .net _ | .ing => 3
  | .mem | .memA | .memB | .qos | .sramBank _ | .scrubber => 4
  | .spr e => if e < 12 then 5 else 6
  | .col => 5
  | .scn _ | .pg | .cal | .fix => 7
  | .nsh n => if n < 16 then 8 else 9
  | .sdl => 10
  | .odl _ => 11

/-- The region of a block (Table 1.1); GLB stands with CONTROL (Table 20.1). -/
def Block.region : Block → Nat
  | .hif | .int | .cmt => 0
  | .net _ | .ing => 1
  | .mem | .memA | .memB | .qos | .sramBank _ | .scrubber => 2
  | .spr e => if e < 12 then 3 else 4
  | .col => 3
  | .scn _ | .pg | .cal | .fix => 5
  | .nsh _ | .odl _ | .tio => 6
  | .tim | .pwr | .clk | .sec | .crn | .fwu | .pmu | .dbg | .sdl | .glb => 7

/-- The unit number of a block (Table 17.4); the Cairn recorder has none. -/
def Block.unit : Block → Nat
  | .scn p => p
  | .nsh n => 0x20 + n
  | .spr e => 0x40 + e
  | .net n => 0x60 + n
  | .odl r => 0x68 + r
  | .ing => 0x70
  | .mem | .memA | .memB | .qos | .sramBank _ | .scrubber => 0x71
  | .col => 0x72 | .cmt => 0x73 | .hif => 0x74 | .tim => 0x75 | .fix => 0x76 | .cal => 0x77 | .pg => 0x78
  | .sdl => 0x79 | .fwu => 0x7A | .glb => 0x7B | .int => 0x7C | .pwr => 0x7D | .clk => 0x7E | .pmu => 0x7F
  | .tio => 0x80 | .sec => 0x81 | .dbg => 0x82
  | .crn => 0xFFFF

/-- The block of a unit number and its instance base (Table 17.4). -/
def Block.ofUnit (u : Nat) : Option (Block × Nat) :=
  if u < 0x20 then some (.scn u, 0xC0000 + 0x800 * u)
  else if u < 0x40 then some (.nsh (u - 0x20), 0x100000 + 0x1000 * (u - 0x20))
  else if u < 0x58 then some (.spr (u - 0x40), 0x150000 + 0x400 * (u - 0x40))
  else if u < 0x60 then none
  else if u < 0x64 then some (.net (u - 0x60), 0x80000 + 0x4000 * (u - 0x60))
  else match u with
    | 0x68 => some (.odl 0, 0x130000) | 0x69 => some (.odl 1, 0x134000)
    | 0x70 => some (.ing, 0x90000) | 0x71 => some (.mem, 0xA0000) | 0x72 => some (.col, 0x140000)
    | 0x73 => some (.cmt, 0x50000) | 0x74 => some (.hif, 0x40000) | 0x75 => some (.tim, 0x60000)
    | 0x76 => some (.fix, 0x120000) | 0x77 => some (.cal, 0xE0000) | 0x78 => some (.pg, 0xD0000)
    | 0x79 => some (.sdl, 0x170000) | 0x7A => some (.fwu, 0x180000) | 0x7B => some (.glb, 0)
    | 0x7C => some (.int, 0x30000) | 0x7D => some (.pwr, 0x20000) | 0x7E => some (.clk, 0x10000)
    | 0x7F => some (.pmu, 0x160000) | 0x80 => some (.tio, 0x1B0000) | 0x81 => some (.sec, 0x1A0000)
    | 0x82 => some (.dbg, 0x1C0000)
    | _ => none

/-- The block acts through the PORT region's router, which PD_NSHW powers (R17, R18). -/
def Block.behindWest : Block → Bool
  | .nsh n => 16 ≤ n
  | .odl _ => true
  | .tio => true
  | _ => false

/-- A power domain is on. -/
def Hub.domainOn (h : Hub) (d : Nat) : Bool := bitOf h.power.domains d

/-- A block is powered and reachable (R18, R447). -/
def Hub.blockOn (h : Hub) (b : Block) : Bool := h.domainOn b.domain && (!b.behindWest || h.domainOn 8)

/-- A block is isolated (R23). -/
def Hub.isolatedBlock (h : Hub) (b : Block) : Bool := h.power.isolated.contains b

/-- The registers of a block can be reached: it is powered and not isolated. -/
def Hub.reachable (h : Hub) (b : Block) : Bool := h.blockOn b && !h.isolatedBlock b

/-- A block serves requests: it is reachable and has reported no fault (R22). -/
def Hub.serving (h : Hub) (b : Block) : Bool := h.reachable b && !h.power.reported.contains b

/-- A block has reported a fault to its region fault manager; its isolation follows within 2 µs (R22, R23). -/
def Hub.blockReport (h : Hub) (b : Block) : Hub :=
  if h.power.reported.contains b || h.isolatedBlock b then h
  else { h with power := { h.power with reported := b :: h.power.reported } }

/-! ## Worlds -/

/-- The host acts in the secure world (Table 17.1). -/
def Hub.hostSecure (h : Hub) (g : Glob) : Bool := h.bit Reg.SEC_MWORLD 0 && !g.otp.hostNs

/-- An engine acts in the secure world (Table 17.1, R315). -/
def Hub.engineSecure (h : Hub) (e : Nat) : Bool := e < 4 || h.bit Reg.SEC_MWORLD e

/-- A requester acts in the secure world; JTAG reaches secure state unless DBG_LOCK is blown (R448). -/
def Hub.requesterSecure (h : Hub) (g : Glob) : Requester → Bool
  | .host => h.hostSecure g
  | .engine e => h.engineSecure e
  | .jtag => !g.otp.dbgLock
  | .firmware => true

/-- A unit is of the secure world (R475). -/
def Hub.unitSecure (h : Hub) (u : Nat) : Bool :=
  match Block.ofUnit u with
  | some (.spr e, _) => h.engineSecure e
  | some (.sec, _) => true
  | some (.dbg, _) => true
  | some (.ing, _) => h.bit Reg.SEC_BLKWORLD 0
  | some (.scn _, _) => h.bit Reg.SEC_BLKWORLD 1
  | some (.cal, _) => h.bit Reg.SEC_BLKWORLD 1
  | some (.fix, _) => h.bit Reg.SEC_BLKWORLD 2
  | some (.nsh _, _) => h.bit Reg.SEC_BLKWORLD 3
  | some (.odl _, _) => h.bit Reg.SEC_BLKWORLD 4
  | _ => false

/-- A register, at its first instance index, is of the secure world. -/
def Hub.regSecure (h : Hub) (d : RegDesc) (i : Nat) : Bool :=
  match d.world with
  | .ns => false
  | .sec => true
  | .eng => h.engineSecure i
  | .unit => h.unitSecure i

/-- The unit that a requester appears as (spec/17_security_cairn.md, Records); the hub's own firmware port is the commit engine. -/
def Requester.unit : Requester → Nat
  | .host => 0x74
  | .engine e => 0x40 + e
  | .jtag => 0x82
  | .firmware => 0x73

end Sys2Proof.Machine
end

