-- ==== Sys2Proof/Machine/Records.lean ====
section
/-! DEFINITION. Where the state holds what: the record of each ring, base, table, group, pipe, port, flow, engine and item, and the fields of the
tables of the commit engine (Tables 5.4, 7.1, 7.2, 10.2, 10.3, 11.2). -/

namespace Sys2Proof.Machine

/-! ## Records of the host interface and of time -/

def Hub.sq (h : Hub) (n : Nat) : Sq := Sparse.get {} h.rings.sqs n
def Hub.cq (h : Hub) (n : Nat) : Cq := Sparse.get {} h.rings.cqs n
def Hub.vec (h : Hub) (v : Nat) : Vec := Sparse.get {} h.rings.vecs v
def Hub.setSq (h : Hub) (n : Nat) (q : Sq) : Hub := { h with rings := { h.rings with sqs := Sparse.set {} h.rings.sqs n q } }
def Hub.setCq (h : Hub) (n : Nat) (c : Cq) : Hub := { h with rings := { h.rings with cqs := Sparse.set {} h.rings.cqs n c } }
def Hub.setVec (h : Hub) (v : Nat) (x : Vec) : Hub := { h with rings := { h.rings with vecs := Sparse.set {} h.rings.vecs v x } }
def Hub.base (h : Hub) (t : Nat) : TimeBase := Sparse.get {} h.time.bases t
def Hub.setBase (h : Hub) (t : Nat) (b : TimeBase) : Hub := { h with time := { h.time with bases := Sparse.set {} h.time.bases t b } }
def Hub.cmp (h : Hub) (c : Nat) : Compare := Sparse.get {} h.time.cmps c
def Hub.setCmp (h : Hub) (c : Nat) (x : Compare) : Hub := { h with time := { h.time with cmps := Sparse.set {} h.time.cmps c x } }
def Hub.pinState (h : Hub) (p : Nat) : Pin := Sparse.get {} h.time.pins p
def Hub.setPin (h : Hub) (p : Nat) (x : Pin) : Hub := { h with time := { h.time with pins := Sparse.set {} h.time.pins p x } }
def Hub.fifo (h : Hub) (i : Nat) : List Nat := Sparse.get [] h.fifos i
def Hub.setFifo (h : Hub) (i : Nat) (l : List Nat) : Hub := { h with fifos := Sparse.set [] h.fifos i l }

/-- A word enters a FIFO, in place of one that it gave up in this cycle or beside those that it holds (R159). -/
def Hub.fifoIn (h : Hub) (i w : Nat) : Hub := { h.setFifo i (h.fifo i ++ [w]) with popped := h.popped.filter (· != i) }

/-! ## Time values -/

/-- One nanosecond, and one second, in units of 2^-48 ns (R88). -/
def ns48 : Nat := 2 ^ 48
def sec48 : Nat := 1000000000 * 2 ^ 48

/-- Seconds wrap modulo 2^48 (R87). -/
def wrap48 (t : Nat) : Nat := t % (2 ^ 48 * sec48)

/-- The seconds, nanoseconds and visible fraction of a value (R87, R88). -/
def secOf (t : Nat) : Nat := t / sec48
def nsOf (t : Nat) : Nat := t / ns48 % 1000000000
def fracOf (t : Nat) : Nat := t / 2 ^ 32 % 65536

/-- The value with given seconds, nanoseconds and 16-bit fraction. -/
def time48 (sec ns frac : Nat) : Nat := sec * sec48 + ns * ns48 + frac * 2 ^ 32

/-- PCLK cycles in one microsecond and one millisecond (Table 1.8). -/
def cyclesPerUs : Nat := 400
def cyclesPerMs : Nat := 400000

/-- The TB0 seconds [31:0] and nanoseconds that entries carry. -/
def Hub.nowSec (h : Hub) : Nat := secOf (h.base 0).t48 % 2 ^ 32
def Hub.nowNs (h : Hub) : Nat := nsOf (h.base 0).t48

/-! ## Tables of the commit engine -/

/-- The content of a table in force as the block that it configures reads it; an absent table is empty. -/
def Hub.table (h : Hub) (id : Nat) : List Byte :=
  match h.commit.seen.find? (fun v => v.id == id), h.commit.inForce.find? (fun t => t.id == id) with
  | some v, _ => v.bytes
  | none, some t => t.bytes
  | none, none => []

/-- TABLE_ID of the region map and the transfer LUT of a pipe, the tile map of a port, the fixture patch and the universe table (Table 3.3). -/
def tblRegion (p : Nat) : Nat := 0x01000000 + p
def tblTile (n : Nat) : Nat := 0x02000000 + n
def tblLut (p : Nat) : Nat := 0x03000000 + p
def tblPatch : Nat := 0x04000000
def tblUniverse : Nat := 0x05000000

/-- The register writes and the table bytes that the bank holds: those whose CFG_STAGE has completed. -/
def Commit.stagedWrites (c : Commit) : List StagedWrite := c.writes.filter (fun w => w.owner.isNone)
def Commit.stagedTables (c : Commit) : List StagedTable := c.tables.filter (fun t => t.owner.isNone)

/-! ## Groups and pipes -/

def Hub.group (h : Hub) (g : Nat) : Group := Sparse.get {} h.scan.groups g
def Hub.setGroup (h : Hub) (g : Nat) (x : Group) : Hub := { h with scan := { h.scan with groups := Sparse.set {} h.scan.groups g x } }
def Hub.pipe (h : Hub) (p : Nat) : Pipe := Sparse.get {} h.scan.pipes p
def Hub.setPipe (h : Hub) (p : Nat) (x : Pipe) : Hub := { h with scan := { h.scan with pipes := Sparse.set {} h.scan.pipes p x } }

/-- A group is enabled, and the base it counts on. -/
def Hub.groupOn (h : Hub) (g : Nat) : Bool := h.bit (Reg.PGg_CTL g) 0
def Hub.groupTb (h : Hub) (g : Nat) : Nat := h.f (Reg.PGg_CTL g) 2 1

/-- The PERIOD and PHASE of a group, in 2^-48 ns (R162). -/
def Hub.period48 (h : Hub) (g : Nat) : Nat := h.n (Reg.PGg_PERIOD_NS g) * ns48 + h.f (Reg.PGg_FRAC g) 15 0 * 2 ^ 32
def Hub.phase48 (h : Hub) (g : Nat) : Nat := h.n (Reg.PGg_PHASE_NS g) * ns48 + h.f (Reg.PGg_FRAC g) 31 16 * 2 ^ 32

/-- The index of the first grid instant at or after a time, and that instant (R162). -/
def Hub.gridIndex (h : Hub) (pg t : Nat) : Nat := if t ≤ h.phase48 pg then 0 else ceilDiv (t - h.phase48 pg) (h.period48 pg)
def Hub.gridAfter (h : Hub) (pg t : Nat) : Nat := h.phase48 pg + h.gridIndex pg t * h.period48 pg

/-- A pipe is enabled, and the group it belongs to (R171). -/
def Hub.pipeOn (h : Hub) (p : Nat) : Bool := h.bit (Reg.SCNp_CTL p) 0
def Hub.pipeGroup (h : Hub) (p : Nat) : Nat := h.f (Reg.SCNp_CTL p) 3 1

/-- The enabled groups on a base. -/
def Hub.groupsOnBase (h : Hub) (t : Nat) : List Nat := (List.range 8).filter (fun g => h.groupOn g && h.groupTb g == t)

/-- The enabled pipes of a group. -/
def Hub.pipesOf (h : Hub) (g : Nat) : List Nat := (List.range 32).filter (fun p => h.pipeOn p && h.pipeGroup p == g)

/-! ## Radios -/

def Hub.odl (h : Hub) (r : Nat) : Odl := Sparse.get {} h.odls r
def Hub.setOdl (h : Hub) (r : Nat) (x : Odl) : Hub := { h with odls := Sparse.set {} h.odls r x }
def Hub.modOdl (h : Hub) (r : Nat) (f : Odl → Odl) : Hub := h.setOdl r (f (h.odl r))

/-! ## Naush ports -/

def Hub.port (h : Hub) (n : Nat) : Port := Sparse.get {} h.ports n
def Hub.setPort (h : Hub) (n : Nat) (p : Port) : Hub := { h with ports := Sparse.set {} h.ports n p }
def Hub.modPort (h : Hub) (n : Nat) (f : Port → Port) : Hub := h.setPort n (f (h.port n))

/-- The code of STATE. -/
def LinkPhase.code : LinkPhase → Nat
  | .off => 0 | .training _ => 1 | .up => 2 | .shifting => 3 | .wait => 4

/-! ## Tile maps -/

/-- Fields of the header record. -/
def tmTiles (b : List Byte) : Nat := byteAt b 4
def tmChain (b : List Byte) : Nat := byteAt b 5
def tmFar (b : List Byte) : Nat := byteAt b 6

/-- The record of tile `t`, and its fields. -/
def tmRec (b : List Byte) (t : Nat) : List Byte := (b.drop (768 * (t + 1))).take 768
def tmType (b : List Byte) (t : Nat) : Nat := byteAt (tmRec b t) 0
def tmVendor (b : List Byte) (t : Nat) : Nat := leAt (tmRec b t) 2 2
def tmModel (b : List Byte) (t : Nat) : Nat := leAt (tmRec b t) 4 2
def tmWidth (b : List Byte) (t : Nat) : Nat := leAt (tmRec b t) 6 2
def tmPixels (b : List Byte) (t : Nat) : Nat := leAt (tmRec b t) 8 4
def tmTwStart (b : List Byte) (t : Nat) : Nat := leAt (tmRec b t) 12 4
def tmTwEnd (b : List Byte) (t : Nat) : Nat := leAt (tmRec b t) 16 4
def tmBlob (b : List Byte) (t : Nat) : List Byte := ((tmRec b t).drop 256).take 512

/-- The tiles that a map names; a node is not one that shows pixels. -/
def tmAll (b : List Byte) : List Nat := List.range (tmTiles b)
def tmPixelTiles (b : List Byte) : List Nat := (tmAll b).filter (fun t => tmType b t == 0)

/-- The tile map staged for a port. -/
def Hub.tileMap (h : Hub) (n : Nat) : List Byte := h.table (tblTile n)

/-- The port whose tile map governs port `n`: itself, or the near port of the self-looped chain whose far port it is (R242). -/
def Hub.near (h : Hub) (n : Nat) : Nat :=
  if (h.tileMap n).isEmpty then
    match (List.range 32).find? (fun j => !(h.tileMap j).isEmpty && tmChain (h.tileMap j) == 2 && tmFar (h.tileMap j) == n) with
    | some j => j
    | none => n
  else n

/-- The tile map that governs a port, and its chain kind. -/
def Hub.mapOf (h : Hub) (n : Nat) : List Byte := h.tileMap (h.near n)
def Hub.chainKind (h : Hub) (n : Nat) : Nat := tmChain (h.mapOf n)

/-- The ports that send the frames of near port `j`: itself, and the far port of a self-looped chain. -/
def Hub.ends (h : Hub) (j : Nat) : List Nat :=
  if tmChain (h.tileMap j) = 2 then [j, tmFar (h.tileMap j)] else [j]

/-! ## Region maps -/

/-- A span (Table 7.2). -/
structure Span where
  x     : Nat
  y     : Nat
  count : Nat
  tile  : Nat
  dir   : Nat
  brk   : Bool
  flags : Nat
  dst   : Nat
deriving DecidableEq, Repr

/-- Fields of a region map (Table 7.1). -/
def rmLines (b : List Byte) : Nat := leAt b 4 2
def rmSpans (b : List Byte) : Nat := leAt b 8 4
def rmFirst (b : List Byte) (l : Nat) : Nat := leAt b (32 + 4 * l) 4

/-- Where the span table begins (R172). -/
def rmBase (b : List Byte) : Nat := (32 + 4 * rmLines b + 15) / 16 * 16

/-- Span `i` of a map. -/
def rmSpan (b : List Byte) (i : Nat) : Span :=
  let r := (b.drop (rmBase b + 16 * i)).take 16
  { x := leAt r 0 2, y := leAt r 2 2, count := leAt r 4 2, tile := byteAt r 6, dir := fieldOf (byteAt r 7) 1 0, brk := bitOf (byteAt r 7) 2,
    flags := byteAt r 7, dst := leAt r 8 2 }

/-- The spans of line `l`. -/
def rmLine (b : List Byte) (l : Nat) : List Span :=
  let first := rmFirst b l
  let last := if l + 1 < rmLines b then rmFirst b (l + 1) else rmSpans b
  (List.range (last - first)).map (fun i => rmSpan b (first + i))

/-- The region map of a pipe. -/
def Hub.regionMap (h : Hub) (p : Nat) : List Byte := h.table (tblRegion p)

/-- A pixel of a walk: its source, its tile and destination, and whether a block must close after it (R172, R173). -/
structure WalkPx where
  x    : Nat
  y    : Nat
  tile : Nat
  dst  : Nat
  brk  : Bool
deriving DecidableEq, Repr

/-- The pixels of a span, in order. -/
def Span.pixels (s : Span) : List WalkPx :=
  (List.range s.count).map (fun i =>
    { x := if s.dir = 0 then s.x + i else if s.dir = 1 then s.x - i else s.x
      y := if s.dir = 2 then s.y + i else if s.dir = 3 then s.y - i else s.y
      tile := s.tile, dst := s.dst + i, brk := s.brk && i + 1 == s.count })

/-- The pixels of line `l` of a map, in walk order. -/
def rmPixels (b : List Byte) (l : Nat) : List WalkPx := ((rmLine b l).map Span.pixels).flatten

/-- The blocks of a line (R173): each a non-empty run of its pixels. `cur` is the block being built, newest pixel first, and `n` its length. -/
def blocksOf (cur : List WalkPx) (n : Nat) : List WalkPx → List (List WalkPx)
  | [] => if cur.isEmpty then [] else [cur.reverse]
  | px :: rest =>
    match cur with
    | [] => blocksOf [px] 1 rest
    | last :: _ =>
      if last.brk || last.tile != px.tile || px.dst != last.dst + 1 || 1024 ≤ n then cur.reverse :: blocksOf [px] 1 rest
      else blocksOf (px :: cur) (n + 1) rest

/-- The blocks of line `l` of a map. -/
def rmBlocks (b : List Byte) (l : Nat) : List (List WalkPx) := blocksOf [] 0 (rmPixels b l)

/-- The bytes of a PIX frame in Q2. -/
def PixFrame.size (f : PixFrame) : Nat := f.payload.length + 20

/-- The frames that Q2 takes, `used` bytes of its 128 KiB being taken, and those that wait for room (Table 9.5). -/
def fitQ2 (used : Nat) : List PixFrame → List PixFrame × List PixFrame
  | [] => ([], [])
  | f :: fs =>
    if used + f.size ≤ 131072 then
      let r := fitQ2 (used + f.size) fs
      (f :: r.1, r.2)
    else ([], f :: fs)

/-- A port whose PIX frames, queued and waiting, are these. -/
def Port.withPix (p : Port) (l : List PixFrame) : Port := { p with q2 := (fitQ2 0 l).1, q2More := (fitQ2 0 l).2 }

/-- The PIX frames of a port, those that wait for room last. -/
def Port.pix (p : Port) : List PixFrame := p.q2 ++ p.q2More

/-- The occupancy of Q2. -/
def Port.q2Bytes (p : Port) : Nat := min 131072 ((p.q2.map PixFrame.size).sum)

/-- The group of a port (R171). -/
def Hub.portGroup (h : Hub) (n : Nat) : Nat := h.pipeGroup (h.near n)

/-- The ports of a group (R171). -/
def Hub.portsOf (h : Hub) (pg : Nat) : List Nat := (List.range 32).filter (fun n => h.portGroup n == pg)

/-- The number of active lines of a group. -/
def Hub.activeLines (h : Hub) (g : Nat) : Nat := h.f (Reg.PGg_RASTER g) 29 16

/-- Queue `q` of a port is held by some tile's record (R230). -/
def Hub.heldQ (h : Hub) (n q : Nat) : Bool := (h.port n).holds.any (fun e => bitOf e.2.1 q && decide (250 * h.clock < e.2.2))

/-- The HELD field: bit q - 1 for queue q (R230). -/
def Hub.heldField (h : Hub) (n : Nat) : Nat := b2n (h.heldQ n 1) + 2 * b2n (h.heldQ n 2) + 4 * b2n (h.heldQ n 3)

/-- A port is muted: a kind 1 port of a SYNCING hub, or of a STANDBY that has muted it (R362, R371, R375, R380). The ACTIVE never mutes. -/
def Hub.mutedPort (h : Hub) (n : Nat) : Bool :=
  tmChain (h.tileMap n) == 1 &&
    (h.saddle.role == .syncing ||
      (h.saddle.role == .standby && (h.saddle.isolated || h.saddle.cmtMuted || Sparse.get 0 h.saddle.digMuted n != 0)))

/-- The code of a group's state. -/
def PgPhase.code : PgPhase → Nat
  | .disabled => 0 | .running => 1 | .gap => 2 | .selfRefresh => 3

/-! ## Calibration, network, fixtures, radios -/

/-- The code of the sequencer's state. -/
def MsrPhase.code : MsrPhase → Nat
  | .idle => 0 | .waiting => 1 | .running => 2

def Hub.calPipe (h : Hub) (p : Nat) : CalPipe := Sparse.get {} h.cal.pipes p
def Hub.setCal (h : Hub) (p : Nat) (c : CalPipe) : Hub := { h with cal := { h.cal with pipes := Sparse.set {} h.cal.pipes p c } }
def Hub.modCal (h : Hub) (p : Nat) (f : CalPipe → CalPipe) : Hub := h.setCal p (f (h.calPipe p))
def Hub.setMsr (h : Hub) (x : Msr) : Hub := { h with cal := { h.cal with msr := x } }

/-- The code of a calibration state. -/
def CalPhase.code : CalPhase → Nat
  | .idle => 0 | .loaded => 1 | .slewing => 2 | .copying => 3 | .fold => 4

def Hub.subPort (h : Hub) (n s : Nat) : NetSub := Sparse.get {} h.net.subs (4 * n + s)
def Hub.setSub (h : Hub) (n s : Nat) (x : NetSub) : Hub := { h with net := { h.net with subs := Sparse.set {} h.net.subs (4 * n + s) x } }
def Hub.modSub (h : Hub) (n s : Nat) (f : NetSub → NetSub) : Hub := h.setSub n s (f (h.subPort n s))

/-- The PFC class of a queue. -/
def Hub.pcp (h : Hub) (n q : Nat) : Nat := h.f (Reg.NETn_TXQ_PCP n) (3 * q + 2) (3 * q)

/-- A queue is held; Q7 never is (R103, R119). -/
def Hub.netHeld (h : Hub) (n s q : Nat) : Bool :=
  decide (q < 7) && ((h.subPort n s).paused || (h.subPort n s).classes.contains (h.pcp n q))

def Hub.flow (h : Hub) (f : Nat) : Flow := Sparse.get {} h.net.flows f
def Hub.setFlow (h : Hub) (f : Nat) (x : Flow) : Hub := { h with net := { h.net with flows := Sparse.set {} h.net.flows f x } }
def Hub.modFlow (h : Hub) (f : Nat) (k : Flow → Flow) : Hub := h.setFlow f (k (h.flow f))

def Hub.univ (h : Hub) (u : Nat) : Universe := Sparse.get {} h.net.univs u
def Hub.setUniv (h : Hub) (u : Nat) (x : Universe) : Hub := { h with net := { h.net with univs := Sparse.set {} h.net.univs u x } }
def Hub.modUniv (h : Hub) (u : Nat) (k : Universe → Universe) : Hub := h.setUniv u (k (h.univ u))

/-- The source slots in use, and the universes with a source. -/
def Hub.sourcesUsed (h : Hub) : Nat := (h.net.univs.map (fun e => e.2.sources.length)).sum
def Hub.univsActive (h : Hub) : Nat := (h.net.univs.filter (fun e => !e.2.sources.isEmpty)).length

/-! ## The fixture patch (R271) -/

/-- The patch, and its counts. -/
def Hub.patch (h : Hub) : List Byte := h.table tblPatch
def fpFixtures (b : List Byte) : Nat := leAt b 4 4
def fpProfiles (b : List Byte) : Nat := leAt b 8 2
def fpOutputs (b : List Byte) : Nat := leAt b 10 2

/-- Output record `o`, and its fields. -/
def outRec (b : List Byte) (o : Nat) : List Byte := (b.drop (64 + 256 * fpProfiles b + 32 * fpFixtures b + 16 * o)).take 16
def outRoute (r : List Byte) : Nat := byteAt r 0
def outPort (r : List Byte) : Nat := byteAt r 1
def outNode (r : List Byte) : Nat := leAt r 2 2
def outOut (r : List Byte) : Nat := byteAt r 4
def outSlots (r : List Byte) : Nat := leAt r 6 2

/-! ## Fixtures and parameters of the patch (Table 11.2) -/

/-- Fixture record `f`, and its fields. -/
def fxRec (b : List Byte) (f : Nat) : List Byte := (b.drop (64 + 256 * fpProfiles b + 32 * f)).take 32
def fxProfile (r : List Byte) : Nat := leAt r 0 2
def fxGroup (r : List Byte) : Nat := byteAt r 2
def fxOn (r : List Byte) : Bool := bitOf (byteAt r 3) 0
def fxOutput (r : List Byte) : Nat := leAt r 4 2
def fxDmx (r : List Byte) : Nat := leAt r 6 2
def fxUniv (r : List Byte) : Nat := leAt r 8 2
def fxSacn (r : List Byte) : Nat := leAt r 10 2

/-- Parameter entry `i` of a profile, and its fields. -/
def parEntry (b : List Byte) (profile i : Nat) : Nat := leAt b (64 + 256 * profile + 4 * i) 4
def parWidth (e : Nat) : Nat := fieldOf e 1 0
def parHtp (e : Nat) : Bool := bitOf e 2
def parDmx (e : Nat) : Nat := fieldOf e 12 4
def parSacn (e : Nat) : Nat := fieldOf e 24 16
def parFrom (e : Nat) : Bool := bitOf e 31

/-- The enabled fixtures of a patch. -/
def fxEnabled (b : List Byte) : List Nat := (List.range (fpFixtures b)).filter (fun f => fxOn (fxRec b f))

/-- Parameter key `fixture × 64 + parameter`: its entry; 0 where the fixture is disabled or beyond the patch. -/
def parOf (b : List Byte) (key : Nat) : Nat :=
  if key / 64 < fpFixtures b && fxOn (fxRec b (key / 64)) then parEntry b (fxProfile (fxRec b (key / 64))) (key % 64) else 0

/-- A parameter that the patch maps. -/
def parMapped (b : List Byte) (key : Nat) : Bool := parWidth (parOf b key) == 1 || parWidth (parOf b key) == 2

/-- The parameters of a fixture. -/
def fxPars (b : List Byte) (f : Nat) : List Nat := ((List.range 64).map (64 * f + ·)).filter (parMapped b)

/-- The first slot of a parameter on its output. -/
def parSlot (b : List Byte) (key : Nat) : Nat := fxDmx (fxRec b (key / 64)) + parDmx (parOf b key)

/-- The group of a parameter. -/
def parGroup (b : List Byte) (key : Nat) : Nat := fxGroup (fxRec b (key / 64))

/-- The code of STATE. -/
def OdlPhase.code : OdlPhase → Nat
  | .off => 0 | .starting => 1 | .beaconing => 2 | .standby => 3 | .fault => 4 | .halted => 5

/-! ## Col, engines and the pair -/

/-- The code of an engine's state. -/
def EngPhase.code : EngPhase → Nat
  | .off => 0 | .loading => 1 | .running => 2 | .waiting => 3 | .halted => 4 | .failed => 5


def Hub.eng (h : Hub) (e : Nat) : Engine := Sparse.get {} h.engines e
def Hub.setEng (h : Hub) (e : Nat) (x : Engine) : Hub := { h with engines := Sparse.set {} h.engines e x }
def Hub.modEng (h : Hub) (e : Nat) (f : Engine → Engine) : Hub := h.setEng e (f (h.eng e))

/-- An item waits in its level. -/
def WorkItem.isWaiting (i : WorkItem) : Bool := match i.place with
  | .waiting _ => true
  | _ => false

/-- The Talus list that an item is parked in. -/
def WorkItem.list (i : WorkItem) : Option Nat := match i.place with
  | .parked t _ => some t
  | _ => none

/-- Slots held by a level, and items parked in a list. -/
def Hub.levelHeld (h : Hub) (l : Nat) : Nat := (h.col.items.filter (fun i => i.level == l)).length
def Hub.levelWaiting (h : Hub) (l : Nat) : Nat := (h.col.items.filter (fun i => i.level == l && i.isWaiting)).length
def Hub.talusParked (h : Hub) (t : Nat) : Nat := (h.col.items.filter (fun i => i.list == some t)).length

/-- The code of a role (Table 15.1). -/
def Role.code : Role → Nat
  | .unpaired => 0 | .syncing => 1 | .standby => 2 | .active => 3

/-- The partner has been heard within the last 1 ms (R367). -/
def Hub.heard (h : Hub) : Bool := match h.saddle.heardAt with
  | some t => decide (h.clock ≤ t + cyclesPerMs)
  | none => false

/-- The ports that are muted, and those whose link is up, as masks. -/
def Hub.muteMask (h : Hub) : Nat := ((List.range 32).map (fun n => if h.mutedPort n then 2 ^ n else 0)).sum
def Hub.upMask (h : Hub) : Nat := ((List.range 32).map (fun n => if (h.port n).phase.code == 2 || (h.port n).phase.code == 3 then 2 ^ n else 0)).sum

/-- A clear runs: in the CCLK cycle in which it took effect (DESIGN CHOICE, log entry 23: R417 gives its end only as within 100 µs). -/
def Hub.clearRuns (h : Hub) : Bool := match h.cairn.clearing with
  | some c => c.1 == h.clock / 2
  | none => false

/-- CRN_CLR as it reads: a bit is 1 until the clear that its write started is done. -/
def Hub.crnClrBits (h : Hub) : Nat := match h.cairn.clearing with
  | some c => if h.clearRuns then c.2 else 0
  | none => 0

end Sys2Proof.Machine
end

