-- ==== Sys2Proof/Machine/View.lean ====
section
/-! DEFINITION. What a read of a register returns (R5, R39): its stored fields, or, where a block keeps the status itself, the fields
computed from that block's record. -/

namespace Sys2Proof.Machine

/-- The code of a servo state (Table 4.2). -/
def ServoState.code : ServoState → Nat
  | .free => 0 | .acquire => 1 | .locked => 2 | .holdover => 3 | .jumpHeld => 4

/-- The error estimate of R96, in 2^-48 ns: e0 + U t + A t² / 2, with U in 0.1 ppb, A in 0.001 ppb/s and t from PCLK cycles. -/
def Hub.holdEst48 (h : Hub) (t : Nat) : Nat :=
  let b := h.base t
  let c := h.clock - b.since
  b.e0 + (h.f (Reg.TBt_HOLD t) 15 0 * c * (2000 * 400000000 * 400000000) + h.f (Reg.TBt_HOLD t) 31 16 * c * c * 4000000000) * ns48 /
    (4000000000 * (2000 * 400000000 * 400000000))

/-- The estimate in whole ns, rounded down (DESIGN CHOICE, log entry 24: R96 does not say how). -/
def Hub.holdEst (h : Hub) (t : Nat) : Nat := h.holdEst48 t / ns48

/-- TBt_HOLD_EST: the estimate in HOLDOVER and JUMP_HELD, zero elsewhere, saturating. -/
def Hub.holdEstReg (h : Hub) (t : Nat) : Nat :=
  match (h.base t).state with
  | .holdover | .jumpHeld => min (h.holdEst t) (2 ^ 32 - 1)
  | _ => 0

/-! ## Registers whose status a record holds -/

/-- CMT_STATUS.STATE. -/
def CmtPhase.code : CmtPhase → Nat
  | .idle => 0 | .checking => 1 | .pending => 2

/-- Bit `r` of ISO_NOW (R23, R24). -/
def Hub.isoNow (h : Hub) : Nat :=
  ((List.range 8).map (fun r => if h.power.isolated.any (fun b => b.region == r) then 2 ^ r else 0)).sum

/-- SEC_OTP. -/
def Otp.reg (o : Otp) : Nat :=
  b2n (o.keyHash0 != 0) + 2 * b2n (o.keyHash1 != 0) + 4 * b2n (o.keyHash2 != 0) + 8 * b2n (o.keyHash3 != 0)
    + 16 * (o.keyRevoke % 16) + 256 * b2n (o.logKeyHash != 0) + 512 * b2n o.failMode + 1024 * b2n o.hostNs + 2048 * b2n o.dbgLock
    + 65536 * (o.svFloor % 128)

/-- A count with its CLR bit reading zero. -/
def Hub.statusBits (l : List (Nat × Nat)) : Nat := (l.map (fun p => p.1 * 2 ^ p.2)).sum

/-! ## The status of each block -/

/-- A mask of the indices below `n` that satisfy a condition. -/
def maskOf (n : Nat) (p : Nat → Bool) : Nat := ((List.range n).map (fun i => if p i then 2 ^ i else 0)).sum

/-- The status registers of the network ports and ingest. -/
def Hub.viewNet (h : Hub) (id : RegId) (i : Nat) : Option Nat :=
  match id with
  | .NETn_STATUS => some (maskOf 4 (fun s => (h.subPort i s).link) + 16 * maskOf 8 (fun q => (List.range 4).any (fun s => h.netHeld i s q)))
  | .ING_FSTf_STATUS => some (Hub.statusBits [(match (h.flow i).frame with
      | some f => f.slot
      | none => (h.flow i).slot.getD 0, 0), (b2n (h.flow i).upA, 3), (b2n (h.flow i).upB, 4), (b2n (h.flow i).stalled, 5),
      (b2n (h.flow i).aborted, 6)])
  | .ING_SACN_STATUS => some (Hub.statusBits [(h.sourcesUsed, 0), (h.univsActive, 16)])
  | _ => none

/-- The status registers of the groups and the pipes. -/
def Hub.viewScan (h : Hub) (id : RegId) (i : Nat) : Option Nat :=
  match id with
  | .PGg_STATUS => some (Hub.statusBits [((h.group i).phase.code, 0),
      (b2n ((h.group i).phase == .running && decide (h.activeLines i ≤ (h.group i).line)), 2), ((h.group i).line, 16)])
  | .PGg_FRAME => some (h.group i).frame
  | .PGg_HELD => some (Hub.statusBits [((h.group i).held, 0), ((h.group i).srEntries, 16)])
  | .SCNp_FB_CUR_LO => some ((h.pipe i).cur / 4096 * 4096 % 2 ^ 32)
  | .SCNp_FB_CUR_HI => some ((h.pipe i).cur / 2 ^ 32 % 16)
  | .SCNp_ARM_STATUS => some (Hub.statusBits [(b2n (h.pipe i).pend.isSome, 0), (b2n (h.pipe i).moved, 1), ((h.pipe i).armErr, 8),
      ((h.pipe i).superseded, 16)])
  | .SCNp_ARM_FRAME => some (h.pipe i).armFrame
  | _ => none

/-- The status registers of calibration. -/
def Hub.viewCal (h : Hub) (id : RegId) (i j : Nat) : Option Nat :=
  match id with
  | .CAL_PIPEp_STATUS => some (Hub.statusBits [((h.calPipe i).phase.code, 0), ((h.calPipe i).bank, 3), (b2n (h.calPipe i).statReady, 4),
      ((h.calPipe i).j, 5), ((h.calPipe i).k, 16)])
  | .CAL_PIPEp_DELTA => some (Hub.statusBits [((h.calPipe i).dg, 0), ((h.calPipe i).dm, 16)])
  | .CAL_PIPEp_DEAD => some (h.pipe i).dead.length
  | .CAL_PIPEp_GVALIDk => some ((h.calPipe i).gTarget / 2 ^ (32 * j) % 2 ^ 32)
  | .CAL_PIPEp_MVALIDk => some ((h.calPipe i).mTarget / 2 ^ (32 * j) % 2 ^ 32)
  | .CAL_MSR_STATUS => some (Hub.statusBits [(h.cal.msr.phase.code, 0), (h.cal.msr.started, 16)])
  | .CAL_MSR_RUN => some h.cal.msr.run
  | .CAL_MSR_MISS => some (Hub.statusBits [(h.cal.msr.missed, 0), (h.cal.msr.first, 16)])
  | _ => none

/-- The status registers of the Naush ports (NSHn_TILEk, NSHn_FMAPe). -/
def Hub.viewPort (h : Hub) (id : RegId) (i j : Nat) : Option Nat :=
  let p := h.port i
  match id with
  | .NSHn_STATUS => some (Hub.statusBits [(p.phase.code, 0), (if p.phase = .off then 0 else p.rate, 3), (p.ceil, 5), (h.heldField i, 8)])
  | .NSHn_Q2_OCC => some p.q2Bytes
  | .NSHn_FAULT => some p.cause
  | .NSHn_ENUM => some (Hub.statusBits [(p.enumCnt, 0), (b2n p.enumDone, 8), (b2n p.enumBad, 9)])
  | .NSHn_FMAP_CNT => some p.fmap.length
  | .NSHn_TILEk =>
    let t := Sparse.get {} p.tiles j
    some (Hub.statusBits [(b2n t.present, 0), (b2n t.configured, 1), (b2n t.mismatch, 2), (b2n t.resend, 3), (b2n t.endA, 4), (b2n t.endB, 5),
      (t.last % 4, 8), (t.frame % 65536, 16)])
  | .NSHn_TDUPk => some (Sparse.get {} p.tiles j).dup
  | .NSHn_FMAPe => some (match p.fmap[j]? with
    | some e => Hub.statusBits [(e.pixel % 65536, 0), (e.tile % 128, 16), (e.ch % 8, 24), (b2n e.short, 27), (1, 31)]
    | none => 0)
  | _ => none

/-- The running fades of a group (FIX_PGg_ACTIVE). -/
def Hub.fixActive (h : Hub) (pg : Nat) : Nat := (h.fix.fades.filter (fun f => parGroup h.patch f.par == pg)).length

/-- The status registers of the fade engine and the radios. -/
def Hub.viewFix (h : Hub) (id : RegId) (i j : Nat) : Option Nat :=
  match id with
  | .FIX_STATUS => some (b2n (!h.fix.cues.isEmpty))
  | .FIX_PGg_ACTIVE => some (h.fixActive i)
  | .ODLr_STATUS => some (Hub.statusBits [((h.odl i).phase.code, 0), (((h.odl i).table.filter (fun e => e.2.state == 1 || e.2.state == 2)).length, 16)])
  | .ODLr_BEACON => some (h.odl i).last
  | .ODLr_NSTATa => some (((List.range 4).map (fun k =>
      ((Sparse.get {} (h.odl i).table (4 * j + k)).state % 4 + 4 * ((Sparse.get {} (h.odl i).table (4 * j + k)).hop % 8)) * 256 ^ k)).sum)
  | _ => none

/-- The status registers of Col and the engines. -/
def Hub.viewEng (h : Hub) (id : RegId) (i : Nat) : Option Nat :=
  let x := h.eng i
  match id with
  | .COL_LVLl_STATUS => some (Hub.statusBits [(h.levelWaiting i, 0), (h.levelHeld i, 16)])
  | .COL_TALUSt_STATUS => some (h.talusParked i)
  | .COL_WAIT => some (maskOf 24 (fun e => h.col.waiters.any (fun w => w.engine == e)))
  | .SPRe_STATUS => some (Hub.statusBits [(x.phase.code, 0),
      (b2n (x.kmode && (x.phase == .running || x.phase == .waiting || x.phase == .halted)), 3), (b2n x.item.isSome, 4), (x.restarts, 16)])
  | .SPRe_ITEM => some (x.item.getD 0xFFFFFFFF)
  | .SPRe_EXC_PC => some (x.excPc % 2 ^ 17 / 4 * 4)
  | .SPRe_EXC_CAUSE => some (x.excCause % 256)
  | .SPRe_STERR => some x.sterr
  | _ => none

/-- The status registers of the Saddle link. -/
def Hub.viewSaddle (h : Hub) (id : RegId) : Option Nat :=
  let x := h.saddle
  match id with
  | .SDL_STATUS => some (Hub.statusBits [(x.role.code, 0), (b2n x.link, 2), (b2n h.heard, 3), (x.pHealth % 4, 4), (b2n x.current, 6),
      (b2n x.isolated, 7), (x.lanes % 16, 8), (min x.misses 15, 12)])
  | .SDL_MUTE => some h.muteMask
  | .SDL_TOFS => some (satSigned 32 x.tofs)
  | .SDL_COPY => some (Hub.statusBits [(x.copyBytes % 2 ^ 23, 0), (x.defer % 64, 24)])
  | _ => none

/-- The seconds left in a trial (R392). -/
def Hub.trialLeft (h : Hub) : Nat :=
  if h.fwu.inTrial then 600 - h.trialRun / 400000000 else 0

/-- The status registers of the FWU block. -/
def Hub.viewFwu (h : Hub) (g : Glob) (id : RegId) : Option Nat :=
  let w := h.fwu
  match id with
  | .FWU_STATUS => some (Hub.statusBits [(w.state, 0), (w.slot % 2, 3), (b2n w.factory, 4), (b2n g.otp.failMode, 5), (w.boot.outcome % 4, 6),
      (w.lockedWr % 256, 8), (min g.otp.svFloor 64, 16)])
  | .FWU_STAGE => some w.bytes
  | .FWU_REASON => some (w.reason % 256)
  | .FWU_TRIAL => some (Hub.statusBits [(h.trialLeft, 0), (if w.inTrial then w.boot.boots % 4 else 0, 10)])
  | .FWU_RUN_VER => some (imgVersion w.running)
  | .FWU_RUN_SV => some (imgSecVersion w.running)
  | .FWU_PREV_VER => some (if imgVerifies g.otp w.inUse true (w.image (1 - w.slot)) then imgVersion (w.image (1 - w.slot)) else 0)
  | _ => none

/-! ## Counters (R418 to R425) -/

/-- The block whose power domain a performance counter follows (R420, R425). -/
def pmuBlock (id : RegId) (i : Nat) : Option Block :=
  match id with
  | .PMUe_CNT_CTL | .PMUe_EVSELk | .PMUe_CYC_LO | .PMUe_CYC_HI | .PMUe_CNTk_LO | .PMUe_CNTk_HI => some (.spr i)
  | .PMU_SCNp_PX_EXAM_LO | .PMU_SCNp_PX_EXAM_HI | .PMU_SCNp_PX_SENT_LO | .PMU_SCNp_PX_SENT_HI | .PMU_SCNp_TILES_SENT_LO
  | .PMU_SCNp_TILES_SENT_HI | .PMU_SCNp_TILES_SKIP_LO | .PMU_SCNp_TILES_SKIP_HI | .PMU_SCNp_SLACK_MIN => some (.scn i)
  | .PMU_NSHn_TX_BLK_LO | .PMU_NSHn_TX_BLK_HI | .PMU_NSHn_IDLE_BLK_LO | .PMU_NSHn_IDLE_BLK_HI | .PMU_NSHn_RATE_MSr | .PMU_NSHn_PEAK =>
    some (.nsh i)
  | .PMU_COL_GRANTS_LO | .PMU_COL_GRANTS_HI | .PMU_COL_ITEM_WAIT_LO | .PMU_COL_ITEM_WAIT_HI | .PMU_COL_ENG_WAIT_LO | .PMU_COL_ENG_WAIT_HI
  | .PMU_COL_RETURNS_LO | .PMU_COL_RETURNS_HI => some .col
  | _ => none

/-- The low half of a counter of 48 or 64 bits (R418, Table 18.3). -/
def RegId.counterLo : RegId → Bool
  | .PMUe_CYC_LO | .PMUe_CNTk_LO | .PMU_SCNp_PX_EXAM_LO | .PMU_SCNp_PX_SENT_LO | .PMU_SCNp_TILES_SENT_LO | .PMU_SCNp_TILES_SKIP_LO
  | .PMU_NSHn_TX_BLK_LO | .PMU_NSHn_IDLE_BLK_LO | .PMU_COL_GRANTS_LO | .PMU_COL_ITEM_WAIT_LO | .PMU_COL_ENG_WAIT_LO
  | .PMU_COL_RETURNS_LO => true
  | _ => false

/-- What a performance counter shows: zero while its power domain is off. -/
def Hub.viewPmu (h : Hub) (id : RegId) (i off : Nat) : Option Nat :=
  match pmuBlock id i with
  | none => none
  | some b => if !h.blockOn b then some 0 else if id.counterLo then some (Sparse.get 0 h.pmu off % 2 ^ 32) else none

/-- The domain of the router of a region of Table 1.6a. Only that of PORT's is given (PD_NSHW); each other router is taken to lie in the domain of its
region's first blocks (DESIGN CHOICE, log entry 41). -/
def regionRouter (r : Nat) : Nat := [2, 3, 4, 5, 6, 7, 8, 1].getD r 0

/-- The region that counter `x` of GLB_LNK_RPLx is counted at (Table 1.6a); regions are numbered as in Table 1.1. -/
def linkCounted (x : Nat) : Nat := [1, 0, 3, 1, 7, 3, 5, 6, 2, 5, 4, 2, 6, 0, 5, 1, 2, 3, 4, 7].getD x 0

/-- The status that a record holds for a register of the blocks above. -/
def Hub.viewBlock (h : Hub) (g : Glob) (r : RegId) (i j off : Nat) : Option Nat :=
  [h.viewNet r i, h.viewScan r i, h.viewCal r i j, h.viewPort r i j, h.viewFix r i j, h.viewEng r i, h.viewSaddle r, h.viewFwu g r,
    h.viewPmu r i off].findSome? id

/-- The status that a record holds for a register, at its instance; `none` where the stored register is the whole of it. -/
def Hub.viewRecord (h : Hub) (g : Glob) (id : RegId) (i j off : Nat) : Option Nat :=
  match id with
  | .GLB_ID => some (match g.grade with | .c => 0x11A324 | .e => 0x21A324)
  | .GLB_STRAP => some (Hub.statusBits [(g.straps.bootMode % 4, 0), (b2n g.straps.pairId, 2), (g.straps.pcieLanes % 4, 3),
      (b2n (g.straps.bootMode == 3), 5)])
  | .GLB_RST_CAUSE => some (h.power.rstCause % 8 + 8 * b2n h.power.ramp)
  | .GLB_FLT_STATUS => some (Hub.statusBits [(h.power.isoEvt % 256, 0), (h.isoNow, 8), (g.cause % 16, 16), (b2n g.safe, 31)])
  | .GLB_FLT_CTL => some (b2n g.forced)
  | .GLB_LNK_RPLx => if h.domainOn (regionRouter (linkCounted i)) then none else some 0
  | .CLK_STATUS => some (Hub.statusBits [(b2n h.power.rootLock, 0), (b2n (h.power.bypass && !h.power.refFailed), 1), (h.power.losses % 256, 8)])
  | .PWR_STATUS => some (Hub.statusBits [(h.power.state % 8, 0), (h.power.wake % 16, 8)])
  | .PWR_DOM_STATUS => some (h.power.domains % 4096)
  | .INT_VEC_CTLv => some (h.f (Reg.INT_VEC_CTLv i) 9 0 + 0x10000 * b2n (h.vec i).armed)
  | .SQn_STATUS => some (Hub.statusBits [((h.sq i).head, 0), (b2n (h.sq i).inflight.isEmpty, 16), (b2n (h.sq i).cfgErr, 17),
      ((h.sq i).dbErr, 24)])
  | .CQn_STATUS => some (Hub.statusBits [((h.cq i).tail, 0), (b2n (h.cq i).phase, 16), (b2n (h.cq i).cfgErr, 17)])
  | .EVQ_STATUS => some (Hub.statusBits [(h.rings.evq.tail, 0), (b2n h.rings.evq.phase, 16), (b2n h.rings.evq.ovf, 17),
      (b2n h.rings.evq.cfgErr, 18)])
  | .EVQ_LOST => some h.rings.evq.lost
  | .CMT_STATUS => some h.commit.phase.code
  | .CMT_STG_WRITES => some h.commit.stagedWrites.length
  | .CMT_STG_BYTES => some ((h.commit.stagedTables.map (fun t => t.bytes.length)).sum)
  | .CMT_EPOCH => some h.commit.epoch
  | .CMT_DIGEST_LO => some (leAt h.commit.digest 0 4)
  | .CMT_DIGEST_HI => some (leAt h.commit.digest 4 4)
  | .CMT_CHK_FAIL => some h.commit.chkFail
  | .CMT_CHK_RULE => some (Hub.statusBits [(h.commit.chkRule, 0), (b2n h.commit.chkTbl, 8), (h.commit.chkStatus, 16)])
  | .TBt_STATUS => some (Hub.statusBits [((h.base i).state.code, 0), ((h.base i).quality, 4), ((h.base i).slavePort, 8),
      (b2n (h.base i).slaveValid, 10), (b2n (h.base i).deferred.isSome, 12)])
  | .TBt_OFFSET => some (satSigned 32 (h.base i).offset)
  | .TBt_FREQ => some (satSigned 32 (h.base i).freq)
  | .TBt_HOLD_EST => some (h.holdEstReg i)
  | .TBt_COUNTS => some (Hub.statusBits [((h.base i).jumps, 0), ((h.base i).masters, 16)])
  | .TBt_NOW_SEC_LO => some (secOf (h.base i).t48 % 2 ^ 32)
  | .TBt_NOW_SEC_HI => some (secOf (h.base i).t48 / 2 ^ 32)
  | .TBt_NOW_NS => some (nsOf (h.base i).t48)
  | .TIM_PPS_SNAPt_SEC_LO => some (secOf (Sparse.get 0 h.time.snap i) % 2 ^ 32)
  | .TIM_PPS_SNAPt_SEC_HI => some (secOf (Sparse.get 0 h.time.snap i) / 2 ^ 32)
  | .TIM_PPS_SNAPt_NS => some (nsOf (Sparse.get 0 h.time.snap i))
  | .TIM_PPS_SNAPt_FRAC => some (fracOf (Sparse.get 0 h.time.snap i))
  | .TIM_CMPc_CTL => some (Hub.statusBits [(h.f (Reg.TIM_CMPc_CTL i) 2 0, 0), (b2n (h.cmp i).fired, 3), (b2n (h.cmp i).late, 4),
      (h.f (Reg.TIM_CMPc_CTL i) 31 16, 16)])
  | .TIO_GPIO => some (h.f Reg.TIO_GPIO 7 0 + 256 * ((List.range 8).map (fun p =>
      if h.f (Reg.TIO_PINp_CFG p) 3 0 == 1 && (h.pinState p).sample then 2 ^ p else 0)).sum)
  | .MEM_FIFOi_STATUS => some (Hub.statusBits [((h.fifo i).length, 0), (h.f (Reg.MEM_FIFOi_STATUS i) 31 8, 8)])
  | .CRN_CLR => some h.crnClrBits
  | .CRN_STATUS => some h.cairn.snapLost
  | .CRN_SNAP_HEAD => some h.cairn.snapHead
  | .CRN_REC_HEAD => some h.cairn.recHead
  | .CRN_UID_LO => some (g.otp.uid % 2 ^ 32)
  | .CRN_UID_HI => some (g.otp.uid / 2 ^ 32 % 2 ^ 32)
  | .SEC_OTP => some g.otp.reg
  | .SEC_MWORLD => some (h.n Reg.SEC_MWORLD - h.n Reg.SEC_MWORLD % 2 + b2n (h.hostSecure g))
  | _ => h.viewBlock g id i j off

/-- What a read of an offset returns to a requester whose access is allowed; an offset that holds no register reads zero (R39). -/
def Hub.view (h : Hub) (g : Glob) (off : Nat) : Nat :=
  match Reg.at off with
  | some (d, i, j) => (h.viewRecord g d.id i j off).getD (h.n off &&& d.readMask)
  | none => 0

end Sys2Proof.Machine
end

