-- ==== Sys2Proof/Machine/Flags.lean ====
section
/-! DEFINITION. Every flag by which the hub tells of a cause: free values, Cairn snapshots and records, the event ring, the fall-through
FIFOs, and raising one of the 128 interrupt sources (R62, R159, R411 to R413, R452 to R456). -/

namespace Sys2Proof.Machine

/-! ## Free values and outputs -/

/-- The `k`-th free value from here. -/
def Hub.freeAt (h : Hub) (k : Nat) : Nat := Config.freeNat (h.free + k)

/-- `k` free values have been drawn. -/
def Hub.drew (h : Hub) (k : Nat) : Hub := { h with free := h.free + k }

/-- Something leaves the hub. -/
def Hub.emit (h : Hub) (o : Out) : Hub := { h with out := o :: h.out }

/-! ## Snapshots (R411, R412) -/

/-- The offsets, from the instance base, that a snapshot of a unit captures. -/
def Hub.snapOffsets (h : Hub) (u : Nat) : List Nat :=
  let set := h.f (Reg.CRN_UNITu_CTL u) 3 0
  if set = 0 then (List.range 16).map (4 * ·)
  else ((List.range 16).filter (fun k => h.bit (Reg.CRN_SETs_REGk set k) 31)).map (fun k => h.f (Reg.CRN_SETs_REGk set k) 15 0)

/-- The register at an offset is of the secure world. -/
def Hub.offSecure (h : Hub) (off : Nat) : Bool :=
  match Reg.at off with
  | some (d, i, _) => h.regSecure d i
  | none => false

/-- The snapshot that a trigger takes; SEQ is given when it is written. A unit in a powered-off domain gives zeros and sets OFF. -/
def Hub.snapshotOf (h : Hub) (g : Glob) (u trigger aux : Nat) : Snapshot :=
  match Block.ofUnit u with
  | none => { seq := 0, seconds := h.nowSec, nanos := h.nowNs, unit := u, trigger := trigger, off := false, secure := false, aux := aux,
              epoch := h.commit.epoch, vals := [] }
  | some (b, base) =>
    { seq := 0, seconds := h.nowSec, nanos := h.nowNs, unit := u, trigger := trigger, off := !h.blockOn b,
      secure := h.unitSecure u || (h.snapOffsets u).any (fun o => h.offSecure (base + o)), aux := aux, epoch := h.commit.epoch,
      vals := (h.snapOffsets u).map (fun o => (o, if h.blockOn b then h.view g (base + o) else 0)) }

/-- A trigger of a snapshot: it waits in the queue of 64, or is lost and counted (R412). -/
def Hub.trigger (h : Hub) (g : Glob) (u trigger aux : Nat) : Hub :=
  { h with cairn := { h.cairn with
      snapQ := if h.cairn.snapQ.length < 64 then h.cairn.snapQ ++ [h.snapshotOf g u trigger aux] else h.cairn.snapQ
      snapLost := if h.cairn.snapQ.length < 64 then h.cairn.snapLost else satInc 16 h.cairn.snapLost } }

/-- The line of shared SRAM that holds 32 bytes of an entry of a log, in bank 16 (Table 6.5). -/
def logLine (log seq k : Nat) : Nat := 16 * 65536 + Config.logLine log seq k % 65536

/-- A snapshot entry joins its log of 8,192, which drops its oldest entry when full (R410). -/
def Cairn.appendSnap (c : Cairn) (e : Snapshot) : Cairn :=
  { c with
    snaps := (if c.snaps.length < 8192 then c.snaps else c.snaps.drop 1) ++ [{ e with seq := c.snapHead }]
    snapHead := (c.snapHead + 1) % 2 ^ 32
    fresh := (List.range 4).map (logLine 0 c.snapHead) ++ c.fresh }

/-! ## Interrupt sources (R62, R452 to R456) -/

/-- The unit that a source's block is, for EV snapshots (Tables 17.4 and 20.3). -/
def sourceUnit (src : Nat) : Nat :=
  if src < 32 then 0x20 + src
  else if src < 36 then 0x60 + (src - 32)
  else if src < 40 then 0x75
  else if src < 42 then 0x68 + (src - 40)
  else if src < 46 then 0x71
  else if src < 48 then 0x73
  else if src < 56 then 0x78
  else if src < 64 then 0x72
  else if src < 88 then 0x40 + (src - 64)
  else if src < 91 then 0x79
  else if src < 92 then 0x7A
  else if src < 93 then 0xFFFF
  else if src < 94 then 0x81
  else if src < 96 then 0x7D
  else if src < 104 then 0x71
  else if src < 106 then 0x70
  else if src < 112 then 0x76
  else 0x74

/-- Sources 106, 107 and 111 are reserved and never raised (R453). -/
def sourceReserved (src : Nat) : Bool := src == 106 || src == 107 || src == 111 || 128 ≤ src

/-- The DETAIL that an event entry carries: zero for a secure engine while HIF is of the non-secure world (R455). -/
def Hub.eventDetail (h : Hub) (g : Glob) (src detail : Nat) : Nat :=
  if 64 ≤ src && src < 88 && h.engineSecure (src - 64) && !h.hostSecure g then 0 else detail % 2 ^ 32

/-- The size of a ring, from its control register. -/
def Hub.ringSize (h : Hub) (ctl : Nat) : Nat := 2 ^ h.f ctl 12 8

/-- The base of a ring in host memory, from its two base registers; it is 4 KiB-aligned (R42). -/
def Hub.ringAddr (h : Hub) (lo hi : Nat) : Nat := h.n lo / 4096 * 4096 + h.n hi * 2 ^ 32

/-- The event ring can take an entry (R47). -/
def Hub.evqRoom (h : Hub) : Bool := h.bit Reg.EVQ_CTL 0 && h.rings.evq.used < h.ringSize Reg.EVQ_CTL

/-- The event ring after one more entry was called for: written, or lost and counted (R46, R47). -/
def Evq.next (q : Evq) (room : Bool) (size : Nat) : Evq :=
  if room then
    { q with tail := (q.tail + 1) % size, used := q.used + 1, phase := if q.tail + 1 = size then !q.phase else q.phase }
  else { q with ovf := true, lost := satInc 32 q.lost }

/-- The event entry of a cause that occurs now (Table 2.9); its phase is that of the ring when it is written. -/
def Hub.eventOf (h : Hub) (src detail : Nat) : Event :=
  { source := src, phase := false, seconds := h.nowSec, nanos := h.nowNs, detail := detail }

/-- An event entry written, or lost (R47). -/
def Hub.putEvent (h : Hub) (e : Event) : Hub :=
  { h with
    rings := { h.rings with evq := h.rings.evq.next h.evqRoom (h.ringSize Reg.EVQ_CTL) }
    out := if h.evqRoom then
        .event h.rings.evq.tail (h.ringAddr Reg.EVQ_BASE_LO Reg.EVQ_BASE_HI + 16 * h.rings.evq.tail) { e with phase := h.rings.evq.phase } :: h.out
      else h.out }

/-- FIFO `i` is full (R158). -/
def Hub.fifoFull (h : Hub) (i : Nat) : Bool := 16 ≤ (h.fifo i).length

/-- An event passes FIFO 5 to the event ring; while the FIFO is full its block holds it (Table 6.7). -/
def Hub.eventStream (h : Hub) (e : Event) : Hub :=
  if h.fifoFull 5 then { h with rings := { h.rings with evq := { h.rings.evq with held := h.rings.evq.held ++ [e] } } }
  else (h.putEvent e).fifoIn 5 e.source

/-- The pending bit of a source is set (R62). -/
def Hub.setPend (h : Hub) (src : Nat) : Hub := h.putBit (Reg.INT_PENDk (src / 32)) (src % 32) true

/-- The pending bit of a source. -/
def Hub.pending (h : Hub) (src : Nat) : Bool := h.bit (Reg.INT_PENDk (src / 32)) (src % 32)

/-- A source raised: its pending bit at once, its event entry through FIFO 5 when EVQ is 1, and its snapshot when EV is 1. The level event that its
entry gives FIFO 5 is left out. -/
def Hub.raiseCore (h : Hub) (g : Glob) (src detail : Nat) : Hub :=
  if sourceReserved src then h else
  let h1 := h.setPend src
  let h2 := if h.bit (Reg.INT_SRC_MAPn src) 9 then h1.eventStream (h1.eventOf src (h.eventDetail g src detail)) else h1
  if h.bit (Reg.CRN_UNITu_CTL (sourceUnit src)) 4 && (Block.ofUnit (sourceUnit src)).isSome
  then h2.trigger g (sourceUnit src) 3 (detail % 2 ^ 32 + src * 2 ^ 32) else h2

/-- An entry pushed on FIFO `i`: one that is full loses it and counts it in OVF. The producers of FIFOs 0, 5 and 6 wait before they push
(Table 6.7). -/
def Hub.fifoPut (h : Hub) (i w : Nat) : Hub :=
  if !h.fifoFull i then h.fifoIn i w
  else if i = 0 || i = 5 || i = 6 then h
  else h.putF (Reg.MEM_FIFOi_STATUS i) 31 24 (satInc 8 (h.f (Reg.MEM_FIFOi_STATUS i) 31 24))

/-- A push on FIFO `i` makes its occupancy rise to LEVEL; one in the cycle of a pop does not change it (R159). -/
def Hub.fifoCrosses (h : Hub) (i : Nat) : Bool :=
  !h.fifoFull i && !h.popped.contains i && h.f (Reg.MEM_FIFOi_CTL i) 4 0 != 0 && (h.fifo i).length + 1 == h.f (Reg.MEM_FIFOi_CTL i) 4 0

/-- A source raised. Where its entry makes FIFO 5 rise to its LEVEL, source 101 is raised too, whose own entry follows through the FIFO (R159). -/
def Hub.raise (h : Hub) (g : Glob) (src detail : Nat) : Hub :=
  if !sourceReserved src && h.bit (Reg.INT_SRC_MAPn src) 9 && h.fifoCrosses 5
  then (h.raiseCore g src detail).raiseCore g 101 (h.f (Reg.MEM_FIFOi_CTL 5) 4 0)
  else h.raiseCore g src detail

/-- A source raised when a condition holds. -/
def Hub.raiseIf (h : Hub) (c : Bool) (g : Glob) (src detail : Nat) : Hub := if c then h.raise g src detail else h

/-- An entry pushed on FIFO `i`, with its level event (R158, R159). -/
def Hub.fifoPush (h : Hub) (g : Glob) (i w : Nat) : Hub :=
  let h1 := h.fifoPut i w
  if h.fifoCrosses i then h1.raise g (96 + i) (h.f (Reg.MEM_FIFOi_CTL i) 4 0) else h1

/-- A push on FIFO `i` would be lost. -/
def Hub.fifoLoses (h : Hub) (i : Nat) : Bool := h.fifoFull i && !(i == 0 || i == 5 || i == 6)

/-! ## Block faults (R22) -/

/-- The interrupt source of a block, where it has one to itself (Table 20.3). -/
def Block.source : Block → Option Nat
  | .nsh n => some n
  | .net n => some (32 + n)
  | .odl r => some (40 + r)
  | .memA => some 42
  | .memB => some 43
  | .sramBank _ => some 44
  | .cmt => some 47
  | .spr e => some (64 + e)
  | .sdl => some 88
  | .fwu => some 91
  | .crn => some 92
  | .sec => some 93
  | .pwr => some 94
  | .ing => some 104
  | .fix => some 110
  | _ => none

/-- A block meets an error it cannot absorb: it raises its interrupt source, whose DETAIL the manual does not give here, and reports the fault
(R22). What it reports is told by `Power.reported`; no status register but an engine's has a field for it. -/
def Hub.blockFault (h : Hub) (g : Glob) (b : Block) : Hub :=
  if h.power.reported.contains b || h.isolatedBlock b then h
  else match b.source with
    | some src => ((h.drew 1).raise g src (h.freeAt 0 % 2 ^ 32)).blockReport b
    | none => h.blockReport b

/-- The block that owns FIFO `i` (Table 6.7). -/
def fifoOwner (i : Nat) : Block := [.hif, .tio, .tim, .tim, .tim, .int, .col, .tim].getD i .mem

/-- FIFO `i` gives up its oldest word. What its decoder meets is left to the outside: a free value. A corrected error counts in CE, and a double error is
a fault of the owning block (R158). -/
def Hub.fifoPop (h : Hub) (g : Glob) (i : Nat) : Hub :=
  if (h.fifo i).isEmpty then h else
  let h1 := { (h.drew 1).setFifo i ((h.fifo i).drop 1) with popped := i :: h.popped }
  match h.freeAt 0 % 3 with
  | 0 => h1
  | 1 => h1.putF (Reg.MEM_FIFOi_STATUS i) 23 8 (satInc 16 (h1.f (Reg.MEM_FIFOi_STATUS i) 23 8))
  | _ => h1.blockFault g (fifoOwner i)

/-! ## Records (R413, R417) -/

/-- The SEQ of each of the 64 newest CLEARED records (R417). -/
def Cairn.keptClears (c : Cairn) : List Nat := ((c.recs.filter (fun r => r.code == 0x0701)).reverse.take 64).map (·.seq)

/-- The record log without the record that an overwrite takes (R417). -/
def Cairn.dropOne (c : Cairn) : List Record :=
  match c.recs.find? (fun r => !c.keptClears.contains r.seq) with
  | some r => c.recs.erase r
  | none => c.recs.drop 1

/-- A record joins its log of 4,096 (R410, R417). -/
def Cairn.appendRec (c : Cairn) (r : Record) : Cairn :=
  { c with
    recs := (if c.recs.length < 4096 then c.recs else c.dropOne) ++ [{ r with seq := c.recHead }]
    recHead := (c.recHead + 1) % 2 ^ 32
    fresh := logLine 1 c.recHead 0 :: c.fresh }

/-- The recorder writes its oldest waiting record and raises source 92 (R413). -/
def Hub.writeRecord (h : Hub) (g : Glob) : Hub :=
  match h.cairn.recQ with
  | [] => h
  | r :: rest =>
    ({ h with cairn := { h.cairn.appendRec r with recQ := rest } }).raise g 92 (r.code + h.cairn.recHead % 65536 * 65536)

/-- How many of the queue's last records were produced in this CCLK cycle, which is two PCLK cycles (R33). -/
def Hub.recsNow (h : Hub) : Nat := if h.cairn.recAt.1 = h.clock / 2 then min h.cairn.recAt.2 h.cairn.recQ.length else 0

/-- A record among others in ascending SOURCE order, after those of its own. -/
def insertRecord (r : Record) : List Record → List Record
  | [] => [r]
  | a :: as => if a.source ≤ r.source then a :: insertRecord r as else r :: a :: as

/-- A record joins the queue, whose records of one CCLK cycle stand in ascending SOURCE order. -/
def Hub.queueRecord (h : Hub) (r : Record) : Hub :=
  let keep := h.cairn.recQ.length - h.recsNow
  { h with cairn := { h.cairn with
    recQ := h.cairn.recQ.take keep ++ insertRecord r (h.cairn.recQ.drop keep)
    recAt := (h.clock / 2, h.recsNow + 1) } }

/-- A record produced: it waits in the queue of 16; a full queue is written from its oldest end first, so no record is lost (R413). -/
def Hub.record (h : Hub) (g : Glob) (code source p0 p1 p2 p3 : Nat) : Hub :=
  (if h.cairn.recQ.length < 16 then h else h.writeRecord g).queueRecord
    { code := code, source := source, seq := 0, seconds := h.nowSec, nanos := h.nowNs, p0 := p0 % 2 ^ 32, p1 := p1 % 2 ^ 32,
      p2 := p2 % 2 ^ 32, p3 := p3 % 2 ^ 32 }

/-! ## Violations (R407) -/

/-- A violation record may be written: none was in the last 1 ms (R407). -/
def Hub.violationDue (h : Hub) : Bool :=
  match h.cairn.violAt with
  | none => true
  | some t => t + cyclesPerMs ≤ h.clock

/-- A violation: it is counted, its address and requester are stored, and at most once per ms it is recorded and raises source 93. KIND is
0 DRAM descriptor, 1 DRAM tag, 2 SRAM descriptor, 3 register. -/
def Hub.violation (h : Hub) (g : Glob) (kind addr : Nat) (write : Bool) (unit : Nat) : Hub :=
  let h1 := ((h.count Reg.SEC_VIOL_CNT 31).wrN Reg.SEC_VIOL_LAST_LO (addr % 2 ^ 32)).wrN Reg.SEC_VIOL_LAST_HI
      (addr / 2 ^ 32 % 256 + 256 * b2n write + 512 * (kind % 4) + 65536 * (unit % 65536))
  if h.violationDue then
    let code := if kind = 3 then 0x0201 else 0x0202
    let p1 := if kind = 3 then b2n write else addr / 2 ^ 32 % 256 + 256 * b2n write + 512 * (kind % 4)
    (({ h1 with cairn := { h1.cairn with violAt := some h.clock, violMiss := 0 } }).record g code unit (addr % 2 ^ 32) p1 0 h.cairn.violMiss).raise
      g 93 code
  else { h1 with cairn := { h1.cairn with violMiss := satInc 32 h1.cairn.violMiss } }

end Sys2Proof.Machine
end

