-- ==== Sys2Proof/Machine/MemOps.lean ====
section
/-! DEFINITION. The named operations over DRAM, shared SRAM and the engine local memories: reading and writing ranges of bytes, the block
tags of DRAM (R144, R147) and the double errors of SRAM codewords (R151, R152). A byte that nothing has written reads 0x00
(assumption 3, DESIGN CHOICE). -/

namespace Sys2Proof.Machine

/-- What a byte of memory that nothing has written reads as (assumption 3). -/
def Memory.blank : Byte := 0

/-! ## Ranges of bytes -/

/-- `n` bytes of a memory from address `a`. -/
def Memory.bytesOf (cells : List Host.Cell) (a : Nat) : Nat → List Byte
  | 0 => []
  | n + 1 => Sparse.get Memory.blank cells a :: Memory.bytesOf cells (a + 1) n

/-- The cells that a run of bytes from address `a` lists. -/
def Memory.run (a : Nat) : List Byte → List Host.Cell
  | [] => []
  | b :: bs => if b = Memory.blank then Memory.run (a + 1) bs else (a, b) :: Memory.run (a + 1) bs

/-- A memory with bytes written from address `a`. -/
def Memory.put (cells : List Host.Cell) (a : Nat) (bs : List Byte) : List Host.Cell :=
  cells.filter (fun c => c.1 < a) ++ Memory.run a bs ++ cells.filter (fun c => a + bs.length ≤ c.1)

/-- A memory with the `n` bytes from `src` copied to `dst`. -/
def Memory.copyCells (cells : List Host.Cell) (src dst n : Nat) : List Host.Cell :=
  cells.filter (fun c => c.1 < dst) ++
    (cells.filter (fun c => decide (src ≤ c.1 ∧ c.1 < src + n))).map (fun c => (c.1 - src + dst, c.2)) ++
    cells.filter (fun c => dst + n ≤ c.1)

/-! ## DRAM -/

/-- One byte of DRAM. -/
def Memory.dramByte (m : Memory) (a : Nat) : Byte := Sparse.get Memory.blank m.dram a

/-- `n` bytes of DRAM. -/
def Memory.dramBytes (m : Memory) (a n : Nat) : List Byte := Memory.bytesOf m.dram a n

/-- A little-endian number of `n` bytes of DRAM. -/
def Memory.dramLe (m : Memory) (a n : Nat) : Nat := ofLe (m.dramBytes a n)

/-- The tag of the block that holds a DRAM offset. -/
def Memory.tagAt (m : Memory) (a : Nat) : BlockTag := Sparse.get {} m.tags (a / 64)

/-- The blocks that a range of DRAM touches. -/
def Memory.blocksOf (a n : Nat) : List Nat :=
  if n = 0 then [] else (List.range ((a + n - 1) / 64 + 1 - a / 64)).map (· + a / 64)

/-- Whether a range of DRAM touches a poisoned block (R146). -/
def Memory.poisoned (m : Memory) (a n : Nat) : Bool :=
  (Memory.blocksOf a n).any (fun b => (Sparse.get {} m.tags b).poison)

/-- Some block of DRAM has POISON set. -/
def Memory.anyPoison (m : Memory) : Bool := m.tags.any (fun e => e.2.poison)

/-- Whether a range of DRAM touches a block of the secure world (R144). -/
def Memory.secureTagged (m : Memory) (a n : Nat) : Bool :=
  (Memory.blocksOf a n).any (fun b => (Sparse.get {} m.tags b).secure)

/-- The tag that a write leaves on block `b`: WORLD and TYPE are the writer's; a write of the whole block clears POISON, a shorter one
leaves it, and poisoned data sets it (R144, R147). -/
def BlockTag.afterWrite (t : BlockTag) (secure : Bool) (type a n b : Nat) (bad : Bool) : BlockTag :=
  { secure := secure, type := type, poison := bad || (t.poison && !(a ≤ 64 * b && 64 * b + 64 ≤ a + n)) }

/-- Bytes written to DRAM by a writer of a world, into blocks each of its type; `bad` marks poisoned data. -/
def Memory.writeDram (m : Memory) (secure : Bool) (type : Nat → Nat) (a : Nat) (bs : List Byte) (bad : Bool) : Memory :=
  { m with
    dram := Memory.put m.dram a bs
    tags := (Memory.blocksOf a bs.length).foldl
      (fun t b => Sparse.set {} t b ((Sparse.get {} t b).afterWrite secure (type b) a bs.length b bad)) m.tags }

/-- `n` bytes, a whole number of blocks, copied from `src` to `dst` by a writer of a world: each block carries its POISON with it (R147, R207). -/
def Memory.copyDram (m : Memory) (secure : Bool) (type : Nat → Nat) (src dst n : Nat) : Memory :=
  { m with
    dram := Memory.copyCells m.dram src dst n
    tags := (List.range (n / 64)).foldl (fun t i => Sparse.set {} t (dst / 64 + i)
      { secure := secure, type := type (dst / 64 + i), poison := (Sparse.get {} m.tags (src / 64 + i)).poison }) m.tags }

/-- A block marked POISON after an uncorrectable read (R146). -/
def Memory.poisonBlock (m : Memory) (b : Nat) : Memory :=
  { m with tags := Sparse.set {} m.tags b { Sparse.get {} m.tags b with poison := true } }

/-! ## SRAM lines -/

/-- The codewords (two bytes each) of the 32-byte lines that a range touches. -/
def Memory.codewordsOf (a n : Nat) : List Nat :=
  if n = 0 then [] else (List.range (((a + n - 1) / 32 + 1 - a / 32) * 16)).map (· + a / 32 * 16)

/-- Whether a read of a range finds a double error in one of its lines (R151). -/
def Memory.lineBad (bad : Sparse Bool) (a n : Nat) : Bool :=
  (Memory.codewordsOf a n).any (fun c => Sparse.get false bad c)

/-- A codeword lies wholly in a range. -/
def Memory.covers (a n c : Nat) : Bool := a ≤ 2 * c && 2 * c + 2 ≤ a + n

/-- Bytes written to lines: a codeword with a double error that the write does not wholly replace is left as it stands (R151). -/
def Memory.putLine (cells : List Host.Cell) (bad : Sparse Bool) (start n a : Nat) : List Byte → List Host.Cell
  | [] => cells
  | b :: bs =>
    Memory.putLine
      (if Sparse.get false bad (a / 2) && !Memory.covers start n (a / 2) then cells else Sparse.set Memory.blank cells a b)
      bad start n (a + 1) bs

/-- The double errors that are left after a write of a range. -/
def Memory.clearBad (bad : Sparse Bool) (a n : Nat) : Sparse Bool := bad.filter (fun e => !Memory.covers a n e.1)

/-- `n` bytes of shared SRAM. -/
def Memory.sramBytes (m : Memory) (a n : Nat) : List Byte := Memory.bytesOf m.sram a n

/-- A little-endian number of `n` bytes of shared SRAM. -/
def Memory.sramLe (m : Memory) (a n : Nat) : Nat := ofLe (m.sramBytes a n)

/-- Banks 8 to 18 hold the pools, logs, windows and lists of the hub (Table 6.5), in a layout that the manual does not give. -/
def sramHeld (a n : Nat) : Bool := overlaps a n (8 * 0x200000) (11 * 0x200000)

/-- Bytes written to shared SRAM; those in banks that the hub fills itself are marked as written. -/
def Memory.writeSram (m : Memory) (a : Nat) (bs : List Byte) : Memory :=
  { m with
    sram := Memory.putLine m.sram m.sramBad a bs.length a bs
    sramBad := Memory.clearBad m.sramBad a bs.length
    stored := ((List.range bs.length).filter (fun k => sramHeld (a + k) 1)).foldl (fun t k => Sparse.set false t (a + k) true) m.stored }

/-- The base of an engine's local memory in `imem` and `dmem`. -/
def Memory.localBase (e : Nat) : Nat := e * 0x20000

/-- Bytes written to an engine's data memory. -/
def Memory.writeDmem (m : Memory) (e a : Nat) (bs : List Byte) : Memory :=
  { m with
    dmem := Memory.putLine m.dmem m.dmemBad (Memory.localBase e + a) bs.length (Memory.localBase e + a) bs
    dmemBad := Memory.clearBad m.dmemBad (Memory.localBase e + a) bs.length }

/-- Bytes written to an engine's instruction memory. -/
def Memory.writeImem (m : Memory) (e a : Nat) (bs : List Byte) : Memory :=
  { m with
    imem := Memory.putLine m.imem m.imemBad (Memory.localBase e + a) bs.length (Memory.localBase e + a) bs
    imemBad := Memory.clearBad m.imemBad (Memory.localBase e + a) bs.length }

/-- The canonical form of every array of the memory. -/
def Memory.wf (m : Memory) : Bool :=
  Sparse.wf Memory.blank m.dram && Sparse.wf ({} : BlockTag) m.tags && Sparse.wf Memory.blank m.sram && Sparse.wf false m.sramBad &&
    Sparse.wf Memory.blank m.imem && Sparse.wf false m.imemBad && Sparse.wf Memory.blank m.dmem && Sparse.wf false m.dmemBad &&
    Sparse.wf false m.stored

end Sys2Proof.Machine
end

