-- ==== Sys2Proof/Machine/Ops.lean ====
section
/-! DEFINITION. The operations that every family of commands shares: status codes, descriptors and their completions (R46, R49, R53, R54,
R454), the cancelling of a commit (R78), and the tables in force. -/

namespace Sys2Proof.Machine

/-! ## Status codes (Table 0.5) -/

abbrev Status.ok : Nat := 0x00
abbrev Status.refused : Nat := 0x01
abbrev Status.invalid : Nat := 0x02
abbrev Status.conflict : Nat := 0x03
abbrev Status.late : Nat := 0x04
abbrev Status.aborted : Nat := 0x05
abbrev Status.denied : Nat := 0x06
abbrev Status.timeout : Nat := 0x07
abbrev Status.uncorrectable : Nat := 0x08
abbrev Status.busy : Nat := 0x09
abbrev Status.duplicate : Nat := 0x0A
abbrev Status.notPresent : Nat := 0x0B

/-! ## Descriptors in flight -/

/-- The descriptor of a ring with a tag, while the hub holds it. -/
def Hub.desc (h : Hub) (q tag : Nat) : Option Desc := (h.sq q).inflight.find? (fun d => d.tag == tag)

/-- The descriptor of a ring that starts next: the oldest fetched one that has not begun, for a ring's descriptors start in ring order (R44). -/
def Hub.nextFetched (h : Hub) (q : Nat) : Option Desc := (h.sq q).inflight.find? (fun d => d.phase == .fetched)

/-- The descriptor of a ring that starts next, where it has a tag and an opcode. -/
def Hub.fetched (h : Hub) (q tag op : Nat) : Option Desc := (h.nextFetched q).filter (fun d => d.tag == tag && d.opcode == op)

/-- An operand of a descriptor: `k` bytes from byte `off`, little-endian. -/
def Desc.op (d : Desc) (off k : Nat) : Nat := leAt d.bytes off k

/-- Every descriptor of a ring with a tag changed. -/
def Hub.modDesc (h : Hub) (q tag : Nat) (f : Desc → Desc) : Hub :=
  h.setSq q { h.sq q with inflight := (h.sq q).inflight.map (fun d => if d.tag == tag then f d else d) }

/-- A descriptor goes on: it waits for the event that completes it, keeping `words`. -/
def Hub.await (h : Hub) (q tag : Nat) (words : List Nat) : Hub :=
  h.modDesc q tag (fun d => { d with phase := .waiting, words := words })

/-- A descriptor goes on: it moves data, and completes with this status and result when the transfer is done (R52). -/
def Hub.move (h : Hub) (q tag : Nat) (status : Nat) (result : List Byte) (words : List Nat) (data : List Byte) : Hub :=
  h.modDesc q tag (fun d => { d with phase := .moving, status := status, result := result, words := words, data := data })

/-- The duplicate window after a descriptor completes: its entry takes status and result; INVALID takes the entry out (R49, R54). The entry is found
by the descriptor's handle, so that one of an earlier epoch finds none. -/
def windowAfter (w : List WinEntry) (tag status : Nat) (result : List Byte) : List WinEntry :=
  if status = Status.invalid then w.filter (fun e => e.tag != tag)
  else w.map (fun e => if e.tag == tag then { e with status := some status, result := result } else e)

/-- The entries that a duplicate window recalls: the last 1,024 (R54). -/
def windowLive (w : List WinEntry) : List WinEntry := w.drop (w.length - 1024)

/-- A duplicate window without the entries that can never be among its last 1,024 again. An older entry stays for as long as descriptors after it are
in flight, because one that completes with INVALID was never accepted (R49, R54). -/
def windowTrim : List WinEntry → List WinEntry
  | [] => []
  | e :: es => if 1024 ≤ (es.filter (fun x => x.status.isSome)).length then windowTrim es else e :: es

/-- The duplicate window with one more accepted descriptor (R54). -/
def windowAccept (w : List WinEntry) (tag : Nat) : List WinEntry := windowTrim w ++ [{ tag := tag, status := none, result := [] }]

/-- The entry of a ring's duplicate window with a TAG (R54). -/
def Sq.recall (q : Sq) (tag : Nat) : Option WinEntry := (windowLive q.window).find? (fun e => e.tag % 2 ^ 32 == tag % 2 ^ 32)

/-- The handle of a new descriptor with a TAG: the TAG itself, or, while the ring holds that handle already, the TAG and the least multiple of 2^32
that makes it new (R55). -/
def Sq.handle (q : Sq) (tag : Nat) : Nat :=
  (((List.range (q.inflight.length + q.window.length + 1)).map (fun k => tag + k * 2 ^ 32)).find? (fun t =>
    q.inflight.all (fun d => d.tag != t) && q.window.all (fun e => e.tag != t))).getD tag

/-- A completion ring after one more entry (R46). -/
def Cq.next (c : Cq) (size : Nat) : Cq :=
  { c with tail := (c.tail + 1) % size, used := c.used + 1, phase := if c.tail + 1 = size then !c.phase else c.phase }

/-- A completion entry written, with the ring's source when IRQ_ALL or FLAGS.IRQ asks for it (R46, R454). Nothing is written to a ring that
is not enabled. -/
def Hub.postCompletion (h : Hub) (g : Glob) (cq flags : Nat) (c : Completion) : Hub :=
  if h.bit (Reg.CQn_CTL cq) 0 then
    let h1 := (h.emit (.completion cq (h.cq cq).tail (h.ringAddr (Reg.CQn_BASE_LO cq) (Reg.CQn_BASE_HI cq) + 32 * (h.cq cq).tail)
      { c with phase := (h.cq cq).phase })).setCq cq ((h.cq cq).next (h.ringSize (Reg.CQn_CTL cq)))
    h1.raiseIf (h.bit (Reg.CQn_CTL cq) 1 || bitOf flags 1) g (112 + cq % 16) (cq + (h1.cq cq).tail * 65536)
  else h

/-- A descriptor completes: it leaves its ring, its window entry takes the outcome, and its completion is written unless it is silent. -/
def Hub.complete (h : Hub) (g : Glob) (q tag status : Nat) (result : List Byte) : Hub :=
  match h.desc q tag with
  | none => h
  | some d =>
    let h1 := h.setSq q { h.sq q with
      inflight := (h.sq q).inflight.erase d
      window := windowAfter (h.sq q).window tag status (padTo 16 result) }
    if d.silent then h1 else
    h1.postCompletion g d.cq d.flags
      { tag := tag % 2 ^ 32, status := status, orig := 0, sq := q, phase := false, sqHead := (h.sq q).head, result := padTo 16 result }

/-- The descriptor of a ring that starts next, with a tag and an opcode, as its block `b` carries it out with `k`; while that block has faulted or is isolated,
it ends as work of such a block does (R22, R23, R53; DESIGN CHOICE, log entry 20). -/
def Hub.servedBy (h : Hub) (g : Glob) (b : Block) (q tag op : Nat) (k : Desc → Hub) : Hub :=
  match h.fetched q tag op with
  | none => h
  | some d => if h.serving b then k d else h.complete g q tag Status.aborted []

/-- Several descriptors complete alike, in order. -/
def Hub.completeAll (h : Hub) (g : Glob) (ds : List (Nat × Nat)) (status : Nat) (result : List Byte) : Hub :=
  ds.foldl (fun h d => h.complete g d.1 d.2 status result) h

/-! ## Commit cancelling (R78) -/

/-- A checking or pending commit is cancelled: its set returns to the staging bank, its descriptor completes ABORTED, and source 47 is raised
with DETAIL[7:0] = 0x05. A request to power off that waited for the set goes on waiting until the next apply or wake (DESIGN CHOICE, log entry 17:
R79 speaks of the apply alone). -/
def Hub.cancelCommit (h : Hub) (g : Glob) : Hub :=
  if h.commit.phase = .idle then h else
  let h1 := { h with commit := { h.commit with phase := .idle, owner := none } }
  let h2 := match h.commit.owner with
    | some (q, tag) => h1.complete g q tag Status.aborted []
    | none => h1
  h2.raise g 47 0x05

/-! ## Outcomes -/

/-- The next state whose hub is `h`: fuses, safe state, memories and queue are as they were. -/
abbrev nextHub (s : State) (h : Hub) : Host.Outcome State Fault Refusal := .next { s with hub := h }

/-! ## Times -/

/-- One cycle of PCLK, in 2^-48 ns. -/
def cycle48 : Nat := 5 * 2 ^ 47

/-- The value of a base, in units of 2^-48 ns. -/
def Hub.now48 (h : Hub) (t : Nat) : Nat := (h.base t).t48

/-- A saturating addition of a signed step to a time. -/
def addTime (t : Nat) (d : Int) : Nat := wrap48 (((t : Int) + d) % ((2 ^ 48 * sec48 : Nat) : Int)).toNat

/-! ## Load counters (R425) -/

/-- A 48-bit counter of a pipe, a port or Col counts `k` more, unless PMU_CTL.FREEZE is 1. -/
def Hub.pmuAdd (h : Hub) (off k : Nat) : Hub :=
  if h.bit Reg.PMU_CTL 0 then h else { h with pmu := Sparse.mod 0 h.pmu off (fun c => satAdd 48 c k) }

/-- A field of a PMU register takes the larger of its value and `v`, unless PMU_CTL.FREEZE is 1. -/
def Hub.pmuPeak (h : Hub) (off hi lo v : Nat) : Hub :=
  if h.bit Reg.PMU_CTL 0 || v ≤ h.f off hi lo then h else h.putF off hi lo v

/-! ## NET ports -/

/-- The mode of a port, and whether it has a sub-port (Table 5.1). -/
def Hub.netMode (h : Hub) (n : Nat) : Nat := h.f (Reg.NETn_CTL n) 1 0
def Hub.hasSub (h : Hub) (n s : Nat) : Bool := decide (n < 4) && (if h.netMode n = 1 then s == 0 else decide (2 ≤ h.netMode n ∧ s < 4))

/-- A sub-port can carry frames. -/
def Hub.netUp (h : Hub) (n s : Nat) : Bool := h.hasSub n s && (h.subPort n s).link && h.serving (.net n)

/-! ## Pins, compare units and the measurement run -/

/-- The function of a pin, its base and its compare unit (Table 4.9). -/
def Hub.pinFunc (h : Hub) (p : Nat) : Nat := h.f (Reg.TIO_PINp_CFG p) 3 0
def Hub.pinTb (h : Hub) (p : Nat) : Nat := h.f (Reg.TIO_PINp_CFG p) 5 4
def Hub.pinCmp (h : Hub) (p : Nat) : Nat := h.f (Reg.TIO_PINp_CFG p) 11 8

/-- A FUNC 3 pin names a compare unit: the measurement sequencer sets its times, and the committed ones are not used (R209). -/
def Hub.seqUnit (h : Hub) (c : Nat) : Bool := (List.range 8).any (fun p => h.pinFunc p == 3 && h.pinCmp p == c)

/-- The measurement run ends with a status and its run number; no trigger of it fires any more (R214). -/
def Hub.msrEnd (h : Hub) (g : Glob) (status : Nat) : Hub :=
  if h.cal.msr.phase = .idle then h else
  let h1 := (List.range 16).foldl (fun h c => if h.seqUnit c then h.setCmp c { h.cmp c with next := none } else h) h
  let h2 := { h1 with cal := { h1.cal with msr := { h1.cal.msr with phase := .idle, owner := none, due := [] } } }
  match h.cal.msr.owner with
  | some (q, tag) => h2.complete g q tag status (leBytes 4 h.cal.msr.run)
  | none => h2

end Sys2Proof.Machine
end

