-- ==== Sys2Proof/Machine/Access.lean ====
section
/-! DEFINITION. What becomes of a register access before the register sees it: an absent or unreachable register, a refusal by world, and a
refusal by commit class (R8, R18, R23, R65, R407, R447, R448). -/

namespace Sys2Proof.Machine

/-- The judgement on an access: nothing lies there or it cannot be reached, the world refuses it, or the register takes it. -/
inductive AccessVerdict where
  | absent | denied | ok (d : RegDesc) (i j : Nat)
deriving DecidableEq, Repr

/-- A register of a block can be reached by a requester: that of a block that is off or isolated cannot, nor that of DBG by any but JTAG (R18, R23, R447, R448). -/
def Hub.blockOpen (h : Hub) (who : Requester) (b : Block) : Bool := !(b == .dbg && who != .jtag) && h.reachable b

/-- The block at an offset is off or isolated: an access of any form there is not counted (R23, R447). -/
def Hub.shutOff (h : Hub) (off : Nat) : Bool := match Block.ofOffset off with
  | some b => !h.reachable b
  | none => false

/-- The block at an offset can be reached and has reported a fault: it answers every request with an error response (R22). -/
def Hub.answersError (h : Hub) (who : Requester) (off : Nat) : Bool := match Block.ofOffset off with
  | some b => h.blockOpen who b && h.power.reported.contains b
  | none => false

/-- The judgement on an access of a requester to an offset. An offset of a block that is off, unreachable or isolated, the DBG block
for all but JTAG, and an offset without a register read zero and take no write (R18, R39, R447, R448). -/
def Hub.accessAt (h : Hub) (g : Glob) (who : Requester) (off : Nat) : AccessVerdict :=
  match Block.ofOffset off, Reg.at off with
  | some b, some (d, i, j) =>
    if !h.blockOpen who b then .absent
    else if h.regSecure d i && !h.requesterSecure g who then .denied
    else .ok d i j
  | _, _ => .absent

/-- A direct write to a register of class L, S or D: counted, its offset stored, and source 47 raised (R65). -/
def Hub.directRefused (h : Hub) (g : Glob) (off : Nat) : Hub :=
  ((h.putF Reg.CMT_DIRECT 15 0 (satInc 16 (h.f Reg.CMT_DIRECT 15 0))).wrN Reg.CMT_DIRECT_LAST (off % 2 ^ 24)).raise g 47 Status.conflict

/-- A write that a requester makes: `k` is what the register does with it when nothing refuses it. The hub's own firmware port is not a direct
write (R65, R404). -/
def Hub.tryWrite (h : Hub) (g : Glob) (who : Requester) (off : Nat) (k : Hub → Hub) : Hub :=
  match h.accessAt g who off with
  | .absent => h
  | .denied => h.violation g 3 off true who.unit
  | .ok d _ _ => if d.cls = .f || who = .firmware then k h else h.directRefused g off

/-- What a read leaves behind: the read of the low half of a counter copies its upper bits into the high register (R418). -/
def Hub.afterRead (h : Hub) (d : RegDesc) (off : Nat) : Hub :=
  if d.id.counterLo then h.wrN (off + 4) (Sparse.get 0 h.pmu off / 2 ^ 32) else h

/-- What a read returns to a requester, and the hub after it: a refused read returns zero and is a violation (R8). -/
def Hub.tryRead (h : Hub) (g : Glob) (who : Requester) (off : Nat) : Nat × Hub :=
  match h.accessAt g who off with
  | .absent => (0, h)
  | .denied => (0, h.violation g 3 off false who.unit)
  | .ok d _ _ => (h.view g off, h.afterRead d off)

/-- A rejected access is counted (R39, R40). -/
def Hub.accError (h : Hub) : Hub := h.count Reg.HIF_ACC_ERR 16

/-- The 32-bit reads of a longer one, of consecutive registers. -/
def Hub.readWords (h : Hub) (g : Glob) (who : Requester) (off : Nat) : Nat → List Byte × Hub
  | 0 => ([], h)
  | k + 1 =>
    let r := h.tryRead g who off
    let rest := r.2.readWords g who (off + 4) k
    (leBytes 4 r.1 ++ rest.1, rest.2)

/-- An offset reads zero to the host whatever the form of the access: the block is off or isolated, or is DBG (R23, R447, R448). -/
def Hub.readsZero (h : Hub) (who : Requester) (off : Nat) : Bool := match Block.ofOffset off with
  | some b => !h.blockOpen who b
  | none => false

/-- A read of `size` bytes of BAR0: of one or two bytes, the addressed bytes of the register; of whole registers, consecutive registers; one that is
not naturally aligned has no effect and is counted, and what it returns is left open (R39). -/
def Hub.bar0Read (h : Hub) (g : Glob) (who : Requester) (off size : Nat) : List Byte × Hub :=
  if (size = 1 || size = 2) && off % size = 0 then
    let r := h.tryRead g who (off / 4 * 4)
    ((leBytes 4 r.1).drop (off % 4) |>.take size, r.2)
  else if size % 4 = 0 && size ≠ 0 && off % 4 = 0 then h.readWords g who off (size / 4)
  else if h.readsZero who off then (zeros size, if h.shutOff off then h else h.accError)
  else ((List.range size).map (fun k => BitVec.ofNat 8 (h.freeAt k)), (h.drew size).accError)

/-- A read of BAR2 returns zero (R40). -/
def bar2Read (size : Nat) : List Byte := zeros size

end Sys2Proof.Machine
end

