-- ==== Sys2Proof/Machine/Staging.lean ====
section
/-! DEFINITION. The configuration as it will stand after the staged set is applied: the applied registers and tables overlaid with the staged
ones (R67, R68, R76). -/

namespace Sys2Proof.Machine

/-- The value last staged for a register. -/
def Hub.stagedWrite (h : Hub) (off : Nat) : Option Nat := (h.commit.stagedWrites.reverse.find? (fun w => w.off == off)).map (·.value)

/-- The RW fields of a register. -/
def rwMask (off : Nat) : Nat := match Reg.at off with
  | some (d, _, _) => d.rw
  | none => 0

/-- A value with the RW fields of a register taken from a write, and the rest from the register as it stands. -/
def mergeRw (old new rw : Nat) : Nat := (old - (old &&& rw)) + (new &&& rw)

/-- A register as it will stand after the apply of the staged set. -/
def Hub.afterN (h : Hub) (off : Nat) : Nat :=
  match h.stagedWrite off with
  | some v => mergeRw (h.n off) v (rwMask off)
  | none => h.n off

/-- The tables staged, each with its joined bytes (R68). -/
def Hub.stagedIds (h : Hub) : List Nat := (h.commit.stagedTables.map (·.id)).eraseDups
def Hub.stagedTable (h : Hub) (id : Nat) : List Byte := ((h.commit.stagedTables.filter (fun t => t.id == id)).map (·.bytes)).flatten

/-- A write of the table area's base, which has no effect once table data has been staged (R69). -/
def Hub.baseStands (h : Hub) (off : Nat) : Bool := h.commit.baseFixed && (off == Reg.CMT_TBL_BASE_LO || off == Reg.CMT_TBL_BASE_HI)

/-- RW fields of registers taken from writes, the later over the earlier. -/
def Hub.mergeWrites (h : Hub) (ws : List (Nat × Nat)) : Hub :=
  ws.foldl (fun h w => if h.baseStands w.1 then h else h.wrN w.1 (mergeRw (h.n w.1) w.2 (rwMask w.1))) h

/-- The slot of a table that is not in force, which staging writes (R69). -/
def Commit.freeSlot (c : Commit) (id : Nat) : Bool := !Sparse.get false c.slots id

/-- The staged tables replace those in force whole: the apply selects the slot that staging wrote (R68, R69). -/
def Hub.switchTables (h : Hub) : Hub :=
  { h with commit := { h.commit with
      seen := []
      inForce := (h.commit.inForce.filter (fun t => !h.stagedIds.contains t.id)) ++
        (h.stagedIds.filter (fun id => !(h.stagedTable id).isEmpty)).map (fun id => { id := id, bytes := h.stagedTable id })
      slots := h.stagedIds.foldl (fun m id => Sparse.set false m id (h.commit.freeSlot id)) h.commit.slots } }

/-- The hub with the RW fields of the staged writes and the staged tables in force, and nothing else done: what the check judges. -/
def Hub.overlay (h : Hub) : Hub := (h.mergeWrites (h.commit.stagedWrites.map (fun w => (w.off, w.value)))).switchTables

/-- A set that is checking or pending. -/
def Hub.setInFlight (h : Hub) : Bool := h.commit.phase != .idle

end Sys2Proof.Machine
end

