-- ==== Sys2Proof/Machine/NaushOps.lean ====
section
/-! DEFINITION. The shared operations of the Naush ports: intervals, holds, frames and queues, acknowledgement, link faults and the ways a port
goes down (spec/09_naush_link.md, spec/10_tile_protocol.md). -/

namespace Sys2Proof.Machine

/-! ## Ports and intervals -/

/-- Event of port `n` (R239, R268). -/
def Hub.nshEvent (h : Hub) (g : Glob) (n detail : Nat) : Hub := h.raise g n detail

/-- The intervals that Table 9.5 tells apart: active lines, blanking lines, and GAP, self-refresh or a disabled pipe or group. -/
inductive Interval where
  | active | blank | free
deriving DecidableEq, Repr

/-- The interval that a port is in. -/
def Hub.interval (h : Hub) (n : Nat) : Interval :=
  let g := h.portGroup n
  if !h.pipeOn (h.near n) || !h.groupOn g then .free
  else match (h.group g).phase with
    | .running => if (h.group g).line < h.activeLines g then .active else .blank
    | _ => .free

/-- A port sends at a rate: its link is up, or a shift has begun so long ago that it goes on at the new rate (R233). -/
def Port.atRate (p : Port) : Bool := p.phase == .up || (p.phase == .shifting && p.rate == p.shiftTo)

/-- A port can send frames at all: its link is up, it is not muted, and the hub is not in the safe state (R26, R233, R362). -/
def Hub.laneOpen (h : Hub) (g : Glob) (n : Nat) : Bool :=
  (h.port n).atRate && !g.safe && h.serving (.nsh n) && !h.mutedPort n

/-- No frame is in transmission on the port. -/
def Port.quiet (p : Port) : Bool := decide (0 ≤ p.idle)

/-- A port can start a frame: it can send, and the frame before has ended, for none is pre-empted (R227). -/
def Hub.laneFree (h : Hub) (g : Glob) (n : Nat) : Bool := h.laneOpen g n && (h.port n).quiet

/-- In D2 the links idle in keepalive: they carry TIME, and Q1 to Q3 are held (R429). -/
def Hub.keepalive (h : Hub) : Bool := h.power.state == 2

/-- Block times of a frame of `len` payload bytes, with its IDLE block (R222). -/
def blockCost (len : Nat) : Nat := (len + 13) / 8 + 3

/-- The time of one block at a rate, in 0.01 ns (Table 9.1). -/
def blockTime (rate : Nat) : Nat := 528 * 2 ^ rate

/-- When a transmission of so many 0.01 ns would end, on the base of the port's group: it starts once the frame in transmission has ended. -/
def Hub.laneEnd (h : Hub) (n cost : Nat) : Nat :=
  h.now48 (h.groupTb (h.portGroup n)) + (cost + (-(h.port n).idle).toNat) * ns48 / 100

/-- The time by which the FLIP of the frame in progress leaves (R168). -/
def Hub.flipDeadline (h : Hub) (pg : Nat) : Nat := (h.group pg).next - h.f (Reg.PGg_CTL pg) 25 16 * (1000 * ns48)

/-- The time from now to an instant of a base, in 2^-48 ns; 0 when it has passed. -/
def Hub.until48 (h : Hub) (t at48 : Nat) : Nat := at48 - h.now48 t

/-- The number of the group's next frame. -/
def Hub.nextNumber (h : Hub) (pg : Nat) : Nat :=
  (if (h.group pg).first then h.gridIndex pg (h.group pg).next else (h.group pg).frame + 1) % 2 ^ 32

/-- How many boundaries lie from the next one to that of frame `n`; none where it has passed. -/
def Hub.framesTo (h : Hub) (pg n : Nat) : Option Nat :=
  let k := (n + 2 ^ 32 + 1 - h.nextNumber pg) % 2 ^ 32
  if k = 0 || 2 ^ 31 ≤ k then none else some (k - 1)

/-- The boundary `k` frames after the next one. -/
def Hub.boundaryAt (h : Hub) (pg k : Nat) : Nat := (h.group pg).next + k * h.period48 pg

/-- The time from now to the instant of a pending commit (R79). -/
def Hub.commitAhead (h : Hub) : Option Nat :=
  if h.commit.phase ≠ .pending then none else
  match h.commit.instant with
  | .immediate => some 0
  | .time t at48 => some (h.until48 t at48)
  | .frame pg n => some (h.until48 (h.groupTb pg) (h.boundaryAt pg ((h.framesTo pg n).getD 0)))

/-- The time of a group's base; the boundary at which the frame in progress began is never later. -/
def Hub.groupNow (h : Hub) (g : Nat) : Nat :=
  match (h.group g).phase with
  | .running | .selfRefresh => max (h.now48 (h.groupTb g)) (h.group g).start
  | _ => h.now48 (h.groupTb g)

/-- An instant of a group's base, in 2^-48 ns from the first PCLK cycle: a wait of 60 µs that a step or a change of the base must not move is counted so. -/
def Hub.onClock (h : Hub) (pg t48 : Nat) : Nat := (((h.clock * cycle48 + t48 : Nat) : Int) - (h.now48 (h.groupTb pg) : Int)).toNat

/-- The present instant of a group, so counted. -/
def Hub.presentNow (h : Hub) (pg : Nat) : Nat := h.onClock pg (h.groupNow pg)

/-- When line 0 of the frame that follows begins, on the base of the port's group, for a port that is not in active lines: in self-refresh only where the
boundary to come leaves it (R193), and while the pipe is disabled only where a pending set enables it in a running group. -/
def Hub.activeFrom (h : Hub) (n : Nat) : Option Nat :=
  let pg := h.portGroup n
  let G := h.group pg
  match h.interval n, G.phase with
  | .blank, _ => some G.next
  | .free, .gap => if h.pipeOn (h.near n) && h.groupOn pg then some G.next else none
  | .free, .selfRefresh => if G.leaveAt.any (fun t => decide (t + 60000 * ns48 ≤ h.onClock pg G.next)) then some G.next else none
  | .free, .running =>
    if h.groupOn pg && h.commit.phase == .pending && h.overlay.pipeOn (h.near n) then h.commitAhead.map (fun d => h.now48 (h.groupTb pg) + d) else none
  | _, _ => none

/-- A transmission of so many 0.01 ns ends before line 0 of the next frame (R228, R234). -/
def Hub.endsBefore (h : Hub) (n cost : Nat) : Bool := (h.activeFrom n).all (fun t => decide (h.laneEnd n cost ≤ t))

/-- A BASE TIME frame, a MEASURE frame with its round (Table 10.11), and a FLIP. -/
def NFrame.isTime (f : NFrame) : Bool := f.type == 0 && byteAt f.payload 0 == 0
def NFrame.isMeasure (f : NFrame) : Bool := f.type == 0 && byteAt f.payload 0 == 1
def NFrame.isFlip (f : NFrame) : Bool := f.type == 1

/-- A FLIP waits in Q0 of the port. -/
def Port.flipWaits (p : Port) : Bool := p.q0.any NFrame.isFlip

/-- A transmission of so many 0.01 ns does not delay a FLIP still to be sent past its deadline (R228). -/
def Hub.sparesFlip (h : Hub) (n cost : Nat) : Bool :=
  let x := h.pipe (h.near n)
  h.interval n == .free || ((x.flipped || x.stopped) && !(h.port n).flipWaits) || decide (h.laneEnd n cost ≤ h.flipDeadline (h.portGroup n))

/-- The time of a frame of `len` payload bytes on a port, in 0.01 ns. -/
def Hub.sendCost (h : Hub) (n len : Nat) : Nat := blockCost len * blockTime (h.port n).rate

/-- A frame of `len` payload bytes may leave queue `q` of a port once the lane is free (Table 9.5, R228 to R230, R429). -/
def Hub.queueServed (h : Hub) (g : Glob) (n q len : Nat) : Bool :=
  let fits := h.endsBefore n (h.sendCost n len)
  h.laneOpen g n && !h.heldQ n q && !(h.keepalive && q != 0) && h.sparesFlip n (h.sendCost n len) &&
    match q, h.interval n with
    | 0, _ => true
    | 1, .active => decide (len ≤ 1024)
    | 1, _ => fits
    | 2, .active => true
    | 2, .blank => !(h.pipe (h.near n)).flipped && fits
    | 2, .free => false
    | _, .active => false
    | _, _ => fits

/-- It may leave now. -/
def Hub.queueOpen (h : Hub) (g : Glob) (n q len : Nat) : Bool := h.queueServed g n q len && (h.port n).quiet

/-- A port carries blocks. -/
def LinkPhase.carries (p : LinkPhase) : Bool := p == .up || p == .shifting

/-- A PIX frame of near port `j` can leave: every end of the chain whose link is up takes it at once (R242; DESIGN CHOICE, log entry 31: a pair of
ports with one Q2 sends each PIX from both together). One that only waits for a lane to be free comes next. -/
def Hub.pixNext (h : Hub) (g : Glob) (j len : Nat) : Bool :=
  let up := (h.ends j).filter (fun n => (h.port n).phase.carries)
  !up.isEmpty && up.all (fun n => h.queueServed g n 2 len)
def Hub.canLeave (h : Hub) (g : Glob) (j len : Nat) : Bool :=
  h.pixNext g j len && ((h.ends j).filter (fun n => (h.port n).phase.carries)).all (fun n => (h.port n).quiet)

/-! ## Frames on the lane -/

/-- The chain end at which a port's frames enter: 0 the A end, 1 the B end (Table 10.1). -/
def Hub.endOf (h : Hub) (g : Glob) (n : Nat) : Nat :=
  match h.chainKind n with
  | 1 => b2n g.straps.pairId
  | 2 => b2n (h.near n != n)
  | _ => 0

/-- The ordered sets (R221, Table 9.2): the block type 0x4B, the code, and bytes 2 to 7 of the table. Byte 3 of TRAIN is the hop index, 0 at the port. -/
def LaneOut.train (rate : Nat) : LaneOut := .orderedSet ([0x4B, 0x01] ++ leBytes 1 rate ++ zeros 5)
def LaneOut.shift (rate countdown : Nat) : LaneOut := .orderedSet ([0x4B, 0x02] ++ leBytes 1 rate ++ leBytes 2 countdown ++ zeros 3)

/-- The bytes of a frame as they travel: header, payload and CRC (R223, R224). -/
def NFrame.bytes (f : NFrame) : List Byte :=
  let hd := [0xD5] ++ leBytes 1 (f.type + 16) ++ leBytes 1 f.addr ++ leBytes 1 f.queue ++ leBytes 4 f.seq ++ leBytes 2 f.payload.length ++
    leBytes 1 f.flags ++ [0] ++ leBytes 4 f.epoch
  hd ++ f.payload ++ leBytes 4 (crc32c (hd ++ f.payload))

/-- The bytes of a frame that the output digest covers: 1 to 9, 12 to 15, and the payload (R379). -/
def NFrame.digestBytes (f : NFrame) : List Byte := (f.bytes.drop 1).take 9 ++ (f.bytes.drop 12).take 4 ++ f.payload

/-- A frame leaves a port. -/
def Hub.emitFrame (h : Hub) (n : Nat) (f : NFrame) : Hub :=
  ((h.modPort n (fun p => { p with idle := p.idle - (blockCost f.payload.length * blockTime p.rate : Nat) })).pmuAdd
    (Reg.PMU_NSHn_TX_BLK_LO n) (blockCost f.payload.length)).emit (.naush n f)

/-- Where in its PCLK cycle a frame starts, in 2^-16 ns: a matter of the lane's blocks, which is open. -/
def Hub.lanePhase (h : Hub) : Nat := h.freeAt 0 % 163840

/-- When a frame that leaves now starts, in 2^-16 ns from the first PCLK cycle (R104). -/
def Hub.laneStamp (h : Hub) : Nat := 250 * h.clock * 65536 / 100 + h.lanePhase

/-- The FIFO of the Naush time stamps of a port (Table 6.7). -/
def stampFifo (n : Nat) : Nat := if n < 16 then 2 else 3

/-- The payload of a BASE TIME frame that leaves now: the group's base time as the frame starts (R108, Table 10.11). The time is the base's own, without
NSHn_EGR_ASYM: the two corrections of a port stand in d_k alone (DEDUCED, log entry 24: R106 puts them there, and a tile adds d_k to the time carried). -/
def Hub.timePayload (h : Hub) (n : Nat) : List Byte :=
  let pg := h.portGroup n
  let t := h.now48 (h.groupTb pg) + h.lanePhase * 2 ^ 32
  [0] ++ leBytes 1 pg ++ leBytes 1 (h.groupTb pg) ++ [0] ++ leBytes 6 (secOf t) ++ leBytes 4 (nsOf t) ++ leBytes 2 (fracOf t) ++ zeros 16

/-- A frame of Q0 leaves: TIME takes its time as it goes (R108), after which none is due before the FLIP (R89), and a MEASURE its egress stamp t1, which is
kept unless the FIFO loses it, which spoils the round (R106, Table 6.7). -/
def Hub.leaveQ0 (h : Hub) (g : Glob) (n : Nat) (f : NFrame) : Hub :=
  if f.isTime then
    ((h.emitFrame n { f with payload := h.timePayload n }).drew 1).modPort n (fun p => { p with timeSent := true, timeDue := false })
  else if f.isMeasure then
    let t1 := h.laneStamp
    let h1 := (h.drew 1).fifoPush g (stampFifo n) (t1 % 2 ^ 64)
    (if h.fifoLoses (stampFifo n) then h1 else h1.modPort n (fun p => { p with stamped := (byteAt f.payload 1, t1) :: p.stamped })).emitFrame n f
  else h.emitFrame n f

/-- A frame of the port's own logic is taken into Q0: the link is up or shifts, and the port may send at all. -/
def Hub.takesQ0 (h : Hub) (g : Glob) (n : Nat) : Bool := (h.port n).phase.carries && !g.safe && h.serving (.nsh n) && !h.mutedPort n

/-- A frame of Q0 may leave now. A FLIP may at any time, and so may the TIME that is due before a FLIP that waits; any other, unless it would delay the FLIP
past its deadline (R228), and but for TIME not in keepalive (R429). -/
def Hub.q0Leaves (h : Hub) (g : Glob) (n : Nat) (f : NFrame) : Bool :=
  if f.isFlip then h.laneFree g n
  else if f.isTime && (h.port n).timeDue && (h.port n).flipWaits then h.laneFree g n
  else h.queueOpen g n 0 f.payload.length && (f.isTime || !h.keepalive)

/-- A frame as the port's own logic forms it for Q0. -/
def Hub.q0Frame (h : Hub) (g : Glob) (n type addr seq : Nat) (payload : List Byte) : NFrame :=
  { type := type, addr := addr, queue := 0, seq := seq, flags := 4 * h.endOf g n, epoch := h.commit.epoch, payload := payload }

/-- The broadcast BASE TIME frame of a port (R108). -/
def Hub.timeFrame (h : Hub) (g : Glob) (n : Nat) : NFrame := h.q0Frame g n 0 255 0 (h.timePayload n)

/-- The first frame of Q0 that may leave does; before a FLIP goes the TIME that a step of its base has made due (R89). -/
def Hub.pumpQ0 (h : Hub) (g : Glob) (n : Nat) : Hub :=
  match (h.port n).q0.find? (h.q0Leaves g n) with
  | none => h
  | some f =>
    if f.isFlip && (h.port n).timeDue then h.leaveQ0 g n (h.timeFrame g n)
    else (h.modPort n (fun p => { p with q0 := p.q0.erase f })).leaveQ0 g n f

/-- A frame of the port's own logic in Q0: it leaves, or waits for its turn. -/
def Hub.sendQ0 (h : Hub) (g : Glob) (n type addr seq : Nat) (payload : List Byte) : Hub :=
  if h.takesQ0 g n then (h.modPort n (fun p => { p with q0 := p.q0 ++ [h.q0Frame g n type addr seq payload] })).pumpQ0 g n else h

/-! ## Q1 and Q3 (R227, R247, R283, R370) -/

/-- The queue of a frame type (Table 9.4). -/
def queueOf (type : Nat) : Nat := if type = 9 || type = 10 then 3 else 1

/-- A queue of a port, and the port with a queue replaced. -/
def Port.queue (p : Port) (q : Nat) : List QFrame := if q = 3 then p.q3 else p.q1
def Port.withQueue (p : Port) (q : Nat) (l : List QFrame) : Port := if q = 3 then { p with q3 := l } else { p with q1 := l }

/-- A FIX frame leaves after its presentation time: it counts, and raises event 0x02 once per tick (R283). -/
def Hub.fixLate (h : Hub) (g : Glob) (j : Nat) (f : QFrame) : Hub :=
  match f.pt with
  | none => h
  | some (t, at48) =>
    if h.now48 t ≤ at48 then h
    else
      let h1 := h.count Reg.FIX_CNT_LATE 31
      if h.fix.lateSaid then h1 else ({ h1 with fix := { h1.fix with lateSaid := true } }).raise g 109 (2 + j * 256)

/-- The frames of a queue of near port `j` leave from port `n` in their order for as long as the next may leave; one that has left there, or that was
sent and waits for its acknowledgement, keeps its place (R227, R242). A resend carries the epoch of the first sending (R250), and only the first start of
a FIX is late (R283). One that may not leave yet holds back those behind it, a long Q1 frame in active lines the shorter ones too (DESIGN CHOICE, log
entry 31: R227 does not say whether they pass it). -/
def Hub.sendFrom (h : Hub) (g : Glob) (j n q : Nat) : List QFrame → Hub × List QFrame
  | [] => (h, [])
  | f :: fs =>
    if !f.todo.contains n then
      let r := h.sendFrom g j n q fs
      (r.1, f :: r.2)
    else if h.queueOpen g n q f.payload.length then
      let epoch := if f.sent then f.epoch else h.commit.epoch
      let h1 := if f.sent then h else h.fixLate g j f
      let r := (h1.emitFrame n { type := f.type, addr := f.dest, queue := q, seq := f.seq, flags := 2 * b2n (f.tries != 0) + 4 * h.endOf g n,
                                 epoch := epoch, payload := f.payload }).sendFrom g j n q fs
      (r.1, { f with sent := true, epoch := epoch, todo := f.todo.filter (· != n) } :: r.2)
    else (h, f :: fs)

/-- The frame is an ENUM request that has left every end: it waits for no acknowledgement (R244). -/
def QFrame.asked (f : QFrame) : Bool := f.owner == .enum && f.sent && f.todo.isEmpty

/-- A port whose link is down, while another end's is up, sends no copy. -/
def dropEnd (n : Nat) (l : List QFrame) : List QFrame := l.map (fun f => { f with todo := f.todo.filter (· != n) })

/-- Queue `q` of near port `j` sends what it may from one end. -/
def Hub.pumpEnd (h : Hub) (g : Glob) (j q n : Nat) : Hub :=
  if !(h.port n).phase.carries && (h.ends j).any (fun m => (h.port m).phase.carries) then
    h.modPort j (fun p => p.withQueue q ((dropEnd n (p.queue q)).filter (fun f => !f.asked)))
  else
    let r := h.sendFrom g j n q ((h.port j).queue q)
    r.1.modPort j (fun p => p.withQueue q (r.2.filter (fun f => !f.asked)))

/-- Queue `q` of near port `j` sends what it may. -/
def Hub.pumpQueue (h : Hub) (g : Glob) (j q : Nat) : Hub := (h.ends j).foldl (fun h n => h.pumpEnd g j q n) h

/-- What may leave near port `j` before Q2 leaves, by priority (R227). -/
def Hub.pumpTop (h : Hub) (g : Glob) (j : Nat) : Hub := ((h.ends j).foldl (fun h n => h.pumpQ0 g n) h).pumpQueue g j 1

/-- The head of Q2 leaves every end of the chain that takes it, if it may (R227, R228, R242). -/
def Hub.pumpPix (h : Hub) (g : Glob) (j : Nat) : Hub :=
  match (h.port j).pix with
  | [] => h
  | f :: fs =>
    if h.canLeave g j f.payload.length then
      ((h.ends j).foldl (fun h n => if h.queueOpen g n 2 f.payload.length then
        h.emitFrame n { type := 7, addr := f.tile, queue := 2, seq := f.seq, flags := 4 * h.endOf g n, epoch := h.commit.epoch, payload := f.payload }
        else h) h).modPort j (fun p => p.withPix fs)
    else h

/-- Q3 sends what it may, while no PIX frame comes before it (R227). -/
def Hub.pumpLow (h : Hub) (g : Glob) (j : Nat) : Hub :=
  match (h.port j).q2 with
  | [] => h.pumpQueue g j 3
  | f :: _ => if h.pixNext g j f.payload.length then h else h.pumpQueue g j 3

/-- What comes next on near port `j` leaves, by priority: on each free lane one frame, for those behind it wait until it has ended (R227). -/
def Hub.pump (h : Hub) (g : Glob) (j : Nat) : Hub := ((h.pumpTop g j).pumpPix g j).pumpLow g j

/-- The Q1 and Q3 frames of a port are originated by this hub (R370, R374). -/
def Hub.originates (h : Hub) (j : Nat) : Bool := !(h.chainKind j == 1 && (h.saddle.role == .syncing || h.saddle.role == .standby))

/-- The frames of a port are mirrored to the partner (R370). -/
def Hub.mirrors (h : Hub) (j : Nat) : Bool := h.chainKind j == 1 && h.saddle.role == .active && h.saddle.link

/-- A queue of near port `j` has room for one more frame (Table 9.5, R370). -/
def Hub.roomFor (h : Hub) (j q : Nat) : Bool :=
  decide (((h.port j).queue q).length < 64) && (!h.mirrors j || (h.serving .sdl && decide (Sparse.get 0 h.saddle.flight j < 64)))

/-- The tiles that a broadcast of near port `j` reaches: those it enumerated. -/
def Hub.enumerated (h : Hub) (j : Nat) : List Nat := ((h.port j).tiles.filter (fun e => e.2.present)).map (·.1)

/-- The next number of a queue and destination, and the port with that number used (R247). -/
def Port.nextSeq (p : Port) (q dest : Nat) : Nat :=
  if dest = 255 then (if q = 3 then p.bc3 else p.bc1) else Sparse.get 0 (if q = 3 then p.uni3 else p.uni1) dest
def Port.bumpSeq (p : Port) (q dest by_ : Nat) : Port :=
  if dest = 255 then
    if q = 3 then { p with bc3 := (p.bc3 + by_) % 2 ^ 32 } else { p with bc1 := (p.bc1 + by_) % 2 ^ 32 }
  else if q = 3 then { p with uni3 := Sparse.set 0 p.uni3 dest ((Sparse.get 0 p.uni3 dest + by_) % 2 ^ 32) }
  else { p with uni1 := Sparse.set 0 p.uni1 dest ((Sparse.get 0 p.uni1 dest + by_) % 2 ^ 32) }

def Hub.setSaddle (h : Hub) (x : Saddle) : Hub := { h with saddle := x }
def Hub.modSaddle (h : Hub) (f : Saddle → Saddle) : Hub := h.setSaddle (f h.saddle)

/-- The packets that `n` bytes for the partner take, at 4,096 to a packet (R366). -/
def packetsOf (n : Nat) : Nat := max 1 (ceilDiv n 4096)

/-- `n` bytes go to the partner while the link is up and SDL serves (R22, R23); each packet takes the next packet counter (R366). -/
def Hub.saddleSendLong (h : Hub) (n : Nat) (o : Out) : Hub :=
  if h.saddle.link && h.serving .sdl then (h.modSaddle (fun x => { x with tx := x.tx + packetsOf n })).emit o else h

/-- What fits one packet goes to the partner. -/
def Hub.saddleSend (h : Hub) (o : Out) : Hub := h.saddleSendLong 0 o

/-- A packet of the partner reaches the Saddle block: the link is up, and the block serves (R22, R23). -/
def Hub.saddleHears (h : Hub) : Bool := h.saddle.link && h.serving .sdl

/-- Packets of the partner have been accepted: the partner is heard (R366, R367). Their numbers follow those of the packets before them, of which one whose tag failed
took a number too (DEDUCED, log entry 39). -/
def Hub.packetsIn (h : Hub) (n : Nat) : Hub := h.modSaddle (fun x => { x with heardAt := some h.clock, rx := x.rx + x.lost + n, lost := 0, discards := 0 })
def Hub.packetIn (h : Hub) : Hub := h.packetsIn 1

/-- A copy of a mirrored frame goes to the partner and is in flight until its receipt (R370). -/
def Hub.mirrorFrame (h : Hub) (j : Nat) (f : QFrame) : Hub :=
  if h.mirrors j then
    (h.setSaddle { h.saddle with flight := Sparse.set 0 h.saddle.flight j (Sparse.get 0 h.saddle.flight j + 1) }).saddleSendLong
      f.payload.length (.mirror j f)
  else h

/-- A frame takes its number and its place in its queue, after its copy went to the partner. A broadcast that reaches no enumerated tile is not sent, and
completes a TILE_SEND with NOT_PRESENT (R260). An ENUM request takes no number and awaits no tile (R244). -/
def Hub.admitOne (h : Hub) (g : Glob) (j : Nat) (f : QFrame) : Hub :=
  let q := queueOf f.type
  if f.owner == .enum then
    let f1 := { f with todo := h.ends j }
    (h.mirrorFrame j f1).modPort j (fun p => p.withQueue q (p.queue q ++ [f1]))
  else
  let f1 := { f with seq := (h.port j).nextSeq q f.dest, due := if f.dest = 255 then h.enumerated j else [f.dest], todo := h.ends j }
  if f1.due.isEmpty then
    match f.owner with
    | .tileSend sq tag => h.complete g sq tag Status.notPresent []
    | _ => h
  else (h.mirrorFrame j f1).modPort j (fun p => (p.bumpSeq q f.dest 1).withQueue q (p.queue q ++ [f1]))

/-- The producers that wait, in order, take what room there is. -/
def Hub.admitList (h : Hub) (g : Glob) (j : Nat) : List QFrame → Hub × List QFrame
  | [] => (h, [])
  | f :: fs =>
    if h.roomFor j (queueOf f.type) then (h.admitOne g j f).admitList g j fs
    else
      let r := h.admitList g j fs
      (r.1, f :: r.2)

/-- Waiting producers are admitted, on a hub that originates the port's frames (R370), and what may leave leaves. -/
def Hub.admitWaiting (h : Hub) (g : Glob) (j : Nat) : Hub :=
  if !h.originates j then h.pump g j else
  let r := (h.modPort j (fun p => { p with sends := [] })).admitList g j (h.port j).sends
  (r.1.modPort j (fun p => { p with sends := r.2 ++ p.sends })).pump g j

/-- A producer hands near port `j` a frame of Q1 or Q3; it waits when there is no room (Table 9.5). -/
def Hub.submit (h : Hub) (g : Glob) (j : Nat) (f : QFrame) : Hub :=
  (h.modPort j (fun p => { p with sends := p.sends ++ [f] })).admitWaiting g j

/-! ## Acknowledgement (R249, R260) -/

/-- What a retired frame's producer learns: a TILE_SEND completes, a tile becomes CONFIGURED, a step has one frame fewer to wait for. -/
def Hub.retired (h : Hub) (g : Glob) (j : Nat) (f : QFrame) : Hub :=
  match f.owner with
  | .tileSend q tag => h.complete g q tag Status.ok (leBytes 4 f.seq ++ leBytes 1 (b2n f.unsup))
  | .config =>
    if f.dest = 255 then h else
    let h1 := h.modPort j (fun p => { p with tiles := Sparse.mod {} p.tiles f.dest (fun t => { t with configured := true }) })
    { h1 with fix := { h1.fix with acked := (128 * j + f.dest) :: h1.fix.acked.filter (· != 128 * j + f.dest) } }
  | .step key =>
    if key ≠ h.cal.msr.run * 8192 + h.cal.msr.started then h else
    { h with cal := { h.cal with msr := { h.cal.msr with due :=
        (h.cal.msr.due.map (fun e => if e.1 == j && e.2.1 == f.dest then (e.1, e.2.1, e.2.2 - 1) else e)).filter (fun e => e.2.2 != 0) } } }
  | _ => h

/-- The frame that an ACK of tile `k` for number `seq` matches: the oldest one sent that still waits for that tile. -/
def ackMatches (seq k : Nat) (f : QFrame) : Bool := f.sent && f.owner != .enum && f.seq == seq && f.due.contains k && (f.dest == k || f.dest == 255)

/-- A queue after an ACK. -/
def ackFrames (seq k : Nat) (unsup : Bool) : List QFrame → List QFrame
  | [] => []
  | f :: fs =>
    if ackMatches seq k f then { f with due := f.due.filter (· != k), unsup := f.unsup || unsup } :: fs else f :: ackFrames seq k unsup fs

/-- The frames of a queue that every tile has acknowledged retire, in order. -/
def Hub.retireAll (h : Hub) (g : Glob) (j q : Nat) : Hub :=
  let gone (f : QFrame) : Bool := f.sent && f.due.isEmpty && f.owner != .enum
  let done := ((h.port j).queue q).filter gone
  if done.isEmpty then h else
  let h1 := h.modPort j (fun p => p.withQueue q (((h.port j).queue q).filter (fun f => !gone f)))
  (done.foldl (fun h f => h.retired g j f) h1).admitWaiting g j

/-! ## Going down (R230 to R238, R476) -/

/-- Every frame of Q1 and Q3 of near port `j`, and every producer that waits, ends; a TILE_SEND completes with `status`. -/
def Hub.dropFrames (h : Hub) (g : Glob) (j status : Nat) : Hub :=
  let p := h.port j
  let h1 := h.setPort j { p with q1 := [], q3 := [], sends := [] }
  (p.q1 ++ p.q3 ++ p.sends).foldl (fun h f => match f.owner with
    | .tileSend q tag => h.complete g q tag status []
    | _ => h) h1

/-- A hub that becomes SYNCING or STANDBY originates no more frame of a chain of kind 1: its producers that wait end, as Table 15.2 has new ones end, and a
census of it ends too. A hub that enters SYNCING, whose numbers are no longer the pair's, ends its queued frames with them (DESIGN CHOICE, log entry 39). -/
def Hub.leaveOrigin (h : Hub) (g : Glob) (j : Nat) : Hub :=
  if h.originates j then h
  else if h.saddle.role = .syncing then (h.dropFrames g j Status.conflict).modPort j (fun p => { p with enumTry := 0 })
  else
    (h.port j).sends.foldl (fun h f => match f.owner with
      | .tileSend q tag => h.complete g q tag Status.conflict []
      | _ => h) (h.modPort j (fun p => { p with sends := [], enumTry := 0 }))

/-- The hint bit of a port clears (R235). -/
def Hub.hintEnds (h : Hub) (n : Nat) : Hub := h.putBit Reg.GLB_NSH_HINT n false

/-- A port begins a retrain: electrical idle, from RATE_MAX, its hold records cleared (R230, R231), a new measurement ahead of it (R107). An enumeration goes
on while the other end of the chain carries it. -/
def Hub.retrain (h : Hub) (n : Nat) (phase : LinkPhase) : Hub :=
  let other := (h.ends n).any (fun m => m != n && (h.port m).phase.carries)
  ((h.modPort n (fun p => { p with
    phase := phase, tryRate := h.f (Reg.NSHn_CTL n) 2 1, holds := [], heldSaid := 0, q0 := [], lost := false, wantUp := false, wantDown := false
    measuring := false, rtFails := 0, followAt := none, idle := 0, digested := none, enumTry := if other then p.enumTry else 0 })).hintEnds n).emit (.lane n .electricalIdle)

/-- The lane of a port that trains, waits or was reset sends IDLE blocks from now on, which no training step ends (R26, R237). -/
def Hub.laneIdles (h : Hub) (n : Nat) : Hub :=
  if (h.port n).phase.carries || !h.reachable (.nsh n) then h
  else (h.modPort n (fun p => { p with phase := .training false })).emit (.lane n .idleBlocks)

/-- A link fault (R238): cause, count and event, the unacknowledged frames end, and the port retrains, from WAIT after cause 0x04. -/
def Hub.linkFault (h : Hub) (g : Glob) (n cause : Nat) : Hub :=
  let h1 := ((h.modPort n (fun p => { p with cause := cause })).count (Reg.NSHn_CNT_FAULT n) 31).nshEvent g n (3 + cause * 256)
  let h2 := if h.near n = n then h1.dropFrames g n Status.timeout else h1
  h2.retrain n (if cause = 4 then .wait else .training true)

/-- A port goes down without a fault: event 0x02 if its link was up, electrical idle, and its frames end with `status` (R237, R476). The training that follows
its next enable is an initial one (R107). -/
def Hub.portDown (h : Hub) (g : Glob) (n status : Nat) : Hub :=
  let was := (h.port n).phase
  let h1 := h.raiseIf (was == .up || was == .shifting) g n 2
  let h2 := if h.near n = n then h1.dropFrames g n status else h1
  if was = .off then h2 else (h2.retrain n .off).modPort n (fun p => { p with rate := 0, q2 := [], q2More := [], measured := false })

/-- Every RESEND bit of near port `j` is set: those of the tiles that its map gives or that it knows (R190, R232). -/
def Hub.resendAll (h : Hub) (j : Nat) : Hub :=
  let ks := (tmAll (h.tileMap j) ++ (h.port j).tiles.map (·.1)).eraseDups
  h.modPort j (fun p => { p with tiles := ks.foldl (fun t k => Sparse.mod {} t k (fun x => { x with resend := true })) p.tiles })

/-- A RESEND bit of the port is set. -/
def Port.anyResend (p : Port) : Bool := p.tiles.any (fun e => e.2.resend)

/-- A tile record changed. -/
def Hub.modTile (h : Hub) (j k : Nat) (f : TileRec → TileRec) : Hub :=
  h.modPort j (fun p => { p with tiles := Sparse.mod {} p.tiles k f })

/-- A tile record. -/
def Hub.tile (h : Hub) (j k : Nat) : TileRec := Sparse.get {} (h.port j).tiles k

/-- The highest rate that a port may reach: CEIL, and no more than RATE_MAX. -/
def Hub.topRate (h : Hub) (n : Nat) : Nat := max (h.port n).ceil (h.f (Reg.NSHn_CTL n) 2 1)

/-- A trigger of an upshift: one that finds the port at its top rate asks for nothing, and one during a shift is acted on after it (R235, R236). -/
def Port.askUp (p : Port) (top : Nat) : Port := if !p.phase.carries || (p.phase == .up && p.rate == top) then p else { p with wantUp := true }
def Hub.askUp (h : Hub) (n : Nat) : Hub := h.modPort n (fun p => p.askUp (h.topRate n))

/-- Before a group leaves self-refresh its ports are to shift up (R193, R235). -/
def Hub.groupUpshift (h : Hub) (pg : Nat) : Hub := (h.portsOf pg).foldl (fun h n => h.askUp n) h

/-- A trigger of R193 on a group: from self-refresh it leaves at a later boundary, its ports to shift up before that, and the count of R192 starts
again. -/
def Hub.groupTrigger (h : Hub) (g : Nat) : Hub :=
  let G := h.group g
  if G.phase == .selfRefresh && G.leaveAt.isNone then (h.setGroup g { G with quiet := 0, leaveAt := some (h.presentNow g) }).groupUpshift g
  else h.setGroup g { G with quiet := 0 }

/-- A RESEND bit is set: it asks for an upshift at both ends of the chain (R235, R242) and wakes the group (R193). -/
def Hub.setResend (h : Hub) (j k : Nat) : Hub :=
  ((h.ends j).foldl (fun h n => h.askUp n) (h.modTile j k (fun t => { t with resend := true }))).groupTrigger (h.portGroup j)

/-! ## CONFIG (Table 10.13, R259) -/

/-- The payload of the CONFIG of tile `k` of near port `j`. -/
def Hub.configPayload (h : Hub) (j k : Nat) : List Byte :=
  let b := h.tileMap j
  [0x01] ++ leBytes 1 (h.pipeGroup j) ++ leBytes 1 k ++ leBytes 1 (b2n (h.bit (Reg.SCNp_CTL j) 4)) ++ leBytes 4 (tmPixels b k) ++
    leBytes 2 (tmWidth b k) ++ leBytes 2 (h.f (Reg.NSHn_PROTO j) 23 16) ++ leBytes 2 (h.f (Reg.NSHn_PROTO j) 31 24) ++ zeros 2 ++
    leBytes 4 (tmTwStart b k) ++ leBytes 4 (tmTwEnd b k) ++ zeros 8 ++ padTo 512 (tmBlob b k)

/-- A CONFIG queued for a tile. -/
def Hub.sendConfig (h : Hub) (g : Glob) (j k : Nat) : Hub :=
  if h.originates j then h.submit g j { type := 4, dest := k, payload := h.configPayload j k, owner := .config } else h

end Sys2Proof.Machine
end

