-- ==== Sys2Proof/Machine/Protect.lean ====
section
/-! DEFINITION. Access to DRAM and shared SRAM by a requester of a world: the usable size, region descriptors and block tags
(R140, R141, R144, R405, R406), block types (Table 6.3), and the counts and events of memory errors (R145, R146, R151 to R154, R161). -/

namespace Sys2Proof.Machine

/-! ## DRAM -/

/-- The usable size U, from MEM_STATUS.DENS (Table 6.1). -/
def Hub.usable (h : Hub) : Nat := h.f Reg.MEM_STATUS 2 0 * 7 * 2 ^ 30

/-- The region descriptor that decides an address: the lowest enabled one that covers its granule (R405). -/
def Hub.drdOf (h : Hub) (a : Nat) : Option Nat :=
  (List.range 16).find? (fun n =>
    h.bit (Reg.SEC_DRDn_CTL n) 0 && decide (h.f (Reg.SEC_DRDn_BASE n) 19 0 ≤ a / 65536 ∧ a / 65536 ≤ h.f (Reg.SEC_DRDn_LIMIT n) 19 0))

/-- A descriptor refuses an access of a world to one address. -/
def Hub.drdRefuses (h : Hub) (secure write : Bool) (a : Nat) : Bool :=
  !secure && match h.drdOf a with
    | none => false
    | some n => !h.bit (Reg.SEC_DRDn_CTL n) (if write then 2 else 1)

/-- Why an access to a block of DRAM is refused: 0 by a descriptor, 1 by its WORLD tag. -/
def Hub.blockRefused (h : Hub) (m : Memory) (secure write : Bool) (b : Nat) : Option Nat :=
  if h.drdRefuses secure write (64 * b) then some 0
  else if !secure && (Sparse.get {} m.tags b).secure then some 1
  else none

/-- Why the first refused block of `n` bytes of DRAM from `a` is refused. -/
def Hub.dramRefused (h : Hub) (m : Memory) (secure write : Bool) (a n : Nat) : Option Nat :=
  (Memory.blocksOf a n).findSome? (fun b => h.blockRefused m secure write b)

/-- `n` bytes of DRAM from `a` lie below U (R141). -/
def Hub.inDram (h : Hub) (a n : Nat) : Bool := decide (a + n ≤ h.usable)

/-- The slot size and the base of a flow's ring (R127). -/
def Hub.flowSlot (h : Hub) (f : Nat) : Nat :=
  (h.f (Reg.ING_FLOWf_PITCH f) 17 0 * h.f (Reg.ING_FLOWf_GEOM f) 29 16 + 4095) / 4096 * 4096
def Hub.flowRing (h : Hub) (f : Nat) : Nat := h.f (Reg.ING_FLOWf_RING_LO f) 31 12 * 4096 + h.f (Reg.ING_FLOWf_RING_HI f) 3 0 * 2 ^ 32
def Hub.flowSlots (h : Hub) (f : Nat) : Nat := h.f (Reg.ING_FLOWf_RING_HI f) 7 4

/-- The calibration store of a pipe (R195). -/
def Hub.calBase (h : Hub) (p : Nat) : Nat := h.f (Reg.CAL_PIPEp_BASE_LO p) 31 12 * 4096 + h.f (Reg.CAL_PIPEp_BASE_HI p) 3 0 * 2 ^ 32
def Hub.calSlots (h : Hub) (p : Nat) : Nat := h.f (Reg.CAL_PIPEp_CTL p) 9 2

/-- The commit table area (R69). -/
def Hub.tableArea (h : Hub) : Nat := h.f Reg.CMT_TBL_BASE_LO 31 28 * 2 ^ 28 + h.f Reg.CMT_TBL_BASE_HI 3 0 * 2 ^ 32

/-- Where the slots of a table begin, from the first: region maps, patch, tile maps, LUTs and the universe table, each as long as the table may be. -/
def tableBase (id : Nat) : Nat :=
  let i := id % 2 ^ 24
  match id / 2 ^ 24 with
  | 1 => i * 2 ^ 21
  | 4 => 2 ^ 26
  | 2 => 2 ^ 26 + 2 ^ 23 + i * 2 ^ 17
  | 3 => 2 ^ 26 + 2 ^ 23 + 2 ^ 22 + i * 2 ^ 15
  | _ => 2 ^ 26 + 2 ^ 23 + 2 ^ 22 + 2 ^ 20

/-- The place of one of the two slots of a table in the table area: no two slots share a byte, and none passes the area's end (R69; DESIGN CHOICE, log entry 16:
their order, and that the second slots lie 128 MiB behind the first, are the model's, and where the first begins is open). -/
def tablePlace (id : Nat) (second : Bool) : Nat := (tableBase id + b2n second * 2 ^ 27 + Config.tableShift * 2 ^ 23) % 2 ^ 28

/-- A read of `n` bytes from `off` of a table in force is poisoned. -/
def Hub.tableBad (h : Hub) (m : Memory) (id off n : Nat) : Bool :=
  decide (0 < n) && m.anyPoison && m.poisoned (h.tableArea + tablePlace id (Sparse.get false h.commit.slots id) + off) n

/-- The block that a table configures. -/
def tableBlock (id : Nat) : Option Block :=
  match id / 2 ^ 24 with
  | 1 | 3 => some (.scn (id % 2 ^ 24))
  | 2 => some (.nsh (id % 2 ^ 24))
  | 4 => some .fix
  | 5 => some .ing
  | _ => none

/-- The unit of that block. -/
def tableUnit (id : Nat) : Nat := ((tableBlock id).map Block.unit).getD 0

/-- Where a table in force lies. -/
def Hub.tableAt (h : Hub) (id : Nat) : Nat := h.tableArea + tablePlace id (Sparse.get false h.commit.slots id)

/-- The DRAM blocks of a table in force that refuse the block which it configures, each with the kind of the violation (R144, R406). -/
def Hub.tableShut (h : Hub) (m : Memory) (t : Table) : List (Nat × Nat) :=
  let secure := h.unitSecure (tableUnit t.id)
  (Memory.blocksOf (h.tableAt t.id) t.bytes.length).filterMap (fun b => (h.blockRefused m secure false b).map (fun kind => (b, kind)))

/-- What the blocks read of their tables now: of a block of DRAM that refuses one it reads zeros. -/
def Hub.viewTables (h : Hub) (m : Memory) : Hub :=
  { h with commit := { h.commit with seen := h.commit.inForce.filterMap (fun t =>
      let shut := h.tableShut m t
      if shut.isEmpty then none
      else some { id := t.id, shut := shut, bytes := (List.range t.bytes.length).map (fun i =>
        if shut.any (fun b => b.1 == (h.tableAt t.id + i) / 64) then 0 else byteAt t.bytes i) }) } }

/-- The violations of a read of `n` bytes from `off` of a table by the block that it configures (R406). -/
def Hub.tableLook (h : Hub) (g : Glob) (id off n : Nat) : Hub :=
  match h.commit.seen.find? (fun v => v.id == id) with
  | none => h
  | some v =>
    (v.shut.filter (fun b => decide ((h.tableAt id + off) / 64 ≤ b.1 ∧ 64 * b.1 < h.tableAt id + off + n))).foldl (fun k b =>
      k.violation g b.2 (0x1000000000 + 64 * b.1) false (tableUnit id)) h

/-- Some part of a table in force reads poisoned. -/
def Hub.tableSpoilt (h : Hub) (m : Memory) (id : Nat) : Bool := h.tableBad m id 0 (h.table id).length

/-- The type of a block, from the DRAM claim that covers it (Table 6.3): the bytes that each entry of the table names, and not the rest of the 1 MiB that Table 3.6
counts as claimed with them (DESIGN CHOICE, log entry 28). -/
def Hub.blockType (h : Hub) (a : Nat) : Nat :=
  if h.tableArea ≤ a && a < h.tableArea + 2 ^ 28 then 3
  else if (List.range 32).any (fun p => decide (h.calBase p ≤ a ∧ a < h.calBase p + 2 * h.calSlots p * 557056)) then 2
  else if (List.range 32).any (fun f => h.bit (Reg.ING_FLOWf_CTL f) 0 &&
      decide (h.flowRing f ≤ a ∧ a < h.flowRing f + h.flowSlots f * h.flowSlot f)) then 1
  else 0

/-- What a read of DRAM gives a requester: its bytes, and whether they are poisoned. -/
structure DramRead where
  bytes  : List Byte
  poison : Bool
deriving DecidableEq, Repr

/-- The blocks of a range that a requester may reach. -/
def Hub.blocksOpen (h : Hub) (m : Memory) (secure write : Bool) (a n : Nat) : List Nat :=
  (Memory.blocksOf a n).filter (fun b => (h.blockRefused m secure write b).isNone)

/-- A read of DRAM: a refused block gives zeros, and the read is poisoned at or above U and where a block that is not refused is (R141, R144, R146,
R406). -/
def Hub.readDram (h : Hub) (m : Memory) (secure : Bool) (a n : Nat) : DramRead :=
  if !h.inDram a n then { bytes := zeros n, poison := true }
  else if (h.dramRefused m secure false a n).isNone then { bytes := m.dramBytes a n, poison := m.poisoned a n }
  else
    let ok := h.blocksOpen m secure false a n
    { bytes := (List.range n).map (fun i => if ok.contains ((a + i) / 64) then m.dramByte (a + i) else 0)
      poison := ok.any (fun b => (Sparse.get {} m.tags b).poison) }

/-- A read of DRAM for delivery to the host: poisoned blocks give zeros, and are listed (R52). -/
def Hub.readZeroed (h : Hub) (m : Memory) (secure : Bool) (a n : Nat) : List Byte × List Nat :=
  if !h.inDram a n then (zeros n, Memory.blocksOf a n)
  else
    let ok := h.blocksOpen m secure false a n
    ((List.range n).map (fun i => if ok.contains ((a + i) / 64) && !(m.tagAt (a + i)).poison then m.dramByte (a + i) else 0),
     ok.filter (fun b => (Sparse.get {} m.tags b).poison))

/-- The violations that an access to some blocks of DRAM leaves, one for each that is refused (R144, R406, R407); the address of one is that of Table 13.3. -/
def Hub.blockViolations (h : Hub) (g : Glob) (m : Memory) (secure write : Bool) (unit : Nat) (blocks : List Nat) : Hub :=
  blocks.foldl (fun k b => match h.blockRefused m secure write b with
    | some kind => k.violation g kind (0x1000000000 + 64 * b) write unit
    | none => k) h

/-- The violations that an access to a range of DRAM leaves. -/
def Hub.dramViolation (h : Hub) (g : Glob) (m : Memory) (secure write : Bool) (a n unit : Nat) : Hub :=
  h.blockViolations g m secure write unit (Memory.blocksOf a n)

/-- The bytes of a run from `a` that lie in block `b`, with the address of the first. -/
def blockPart (a : Nat) (bs : List Byte) (b : Nat) : Nat × List Byte :=
  let first := max a (64 * b)
  (first, (bs.drop (first - a)).take (64 * b + 64 - first))

/-- A write of DRAM by a requester: no effect on a block that refuses it, nor beyond U. -/
def Hub.writeDram (h : Hub) (m : Memory) (secure : Bool) (a : Nat) (bs : List Byte) (bad : Bool) : Memory :=
  if !h.inDram a bs.length then m
  else if (h.dramRefused m secure true a bs.length).isNone then m.writeDram secure (fun b => h.blockType (64 * b)) a bs bad
  else (h.blocksOpen m secure true a bs.length).foldl (fun m b =>
    m.writeDram secure (fun b => h.blockType (64 * b)) (blockPart a bs b).1 (blockPart a bs b).2 bad) m

/-- One block of a copy: its POISON goes with it (R147). -/
def Hub.copyBlock (h : Hub) (secure : Bool) (src dst : Nat) (m : Memory) (i : Nat) : Memory :=
  let r := h.readDram m secure (src + 64 * i) 64
  h.writeDram m secure (dst + 64 * i) r.bytes r.poison

/-- `n` bytes, a whole number of blocks, copied by a requester: blocks that refuse its read give zeros, and those that refuse its write stay (R144, R406). -/
def Hub.copyDram (h : Hub) (m : Memory) (secure : Bool) (src dst n : Nat) : Memory :=
  if h.inDram src n && h.inDram dst n && (h.dramRefused m secure false src n).isNone && (h.dramRefused m secure true dst n).isNone then
    m.copyDram secure (fun b => h.blockType (64 * b)) src dst n
  else (List.range (n / 64)).foldl (h.copyBlock secure src dst) m

/-! ## Errors (R145, R146, R151, R161) -/

/-- A corrected-error counter counts one more, and raises event 0x01 when it first reaches 2^THR. -/
def Hub.countCorrected (h : Hub) (g : Glob) (off source whereBits : Nat) : Hub :=
  let new := satInc 32 (h.n off)
  let thr := h.f Reg.MEM_ECC_THR 4 0
  (h.wrN off new).raiseIf (thr != 0 && new == 2 ^ thr && new != h.n off) g source (1 + whereBits * 256)

/-- The channel of a DRAM block (R141). -/
def channelOf (block : Nat) : Nat := block / 64 % 2

/-- An uncorrectable block: counted, its place stored, and its event raised (R146, R154). -/
def Hub.dramUncorrectable (h : Hub) (g : Glob) (m : Memory) (block : Nat) (scrub : Bool) : Hub :=
  let c := channelOf block
  ((((h.count (Reg.MEMc_CNT_UE c) 32).wrN (Reg.MEMc_UE_ADDR_LO c) (64 * block % 2 ^ 32)).wrN (Reg.MEMc_UE_ADDR_HI c)
    (64 * block / 2 ^ 32 % 16 + 16 * (m.tagAt (64 * block)).type + 256 * b2n scrub))).raise g (42 + c) (if scrub then 3 else 2)

/-- What the decoder of a DRAM block answers. -/
inductive Decode where
  | clean | corrected | uncorrectable
  | wrong (counted : Bool) (data : List Byte) (tag : BlockTag)
deriving DecidableEq, Repr

/-- The code corrects any error confined to at most three of the 72 symbols (R143). -/
def ReadError.decode (e : ReadError) : Decode :=
  let k := ((e.symbols.filter (· < 72)).eraseDups).length
  if k = 0 then .clean
  else if k ≤ 3 then .corrected
  else match e.beyond with
    | .detected => .uncorrectable
    | .wrong c d t => .wrong c d t

/-- The symbols that a burst of `n` adjacent bits from bit `i` of a codeword touches. -/
def burstSymbols (i n : Nat) : List Nat := if n = 0 then [] else (List.range ((i + n - 1) / 8 + 1 - i / 8)).map (· + i / 8)

/-- A block whose content is taken to be other than it was written. -/
def Memory.missetBlock (m : Memory) (b : Nat) (data : List Byte) (tag : BlockTag) : Memory :=
  { m with dram := Memory.put m.dram (64 * b) (padTo 64 data), tags := Sparse.set {} m.tags b tag }

/-- The errors that reads of DRAM meet, each in a block: corrected and counted (R145), uncorrectable and poisoned (R146), or not detected (R143), which
leaves other data. A block with POISON set decodes cleanly. -/
def dramErrors (g : Glob) (scrub : Bool) (errs : List (Nat × ReadError)) (hm : Hub × Memory) : Hub × Memory :=
  errs.foldl (fun hm e =>
    let fixed := hm.1.countCorrected g (Reg.MEMc_CNT_CE (channelOf e.1)) (42 + channelOf e.1) 0
    if (hm.2.tagAt (64 * e.1)).poison || !hm.1.inDram (64 * e.1) 64 then hm
    else match e.2.decode with
      | .clean => hm
      | .corrected => (fixed, hm.2)
      | .uncorrectable => (hm.1.dramUncorrectable g hm.2 e.1 scrub, hm.2.poisonBlock e.1)
      | .wrong counted data tag => (if counted then fixed else hm.1, hm.2.missetBlock e.1 data tag)) hm

/-- A state with the errors that the reads of a command meet. -/
def State.reads (s : State) (errs : List (Nat × ReadError)) : State :=
  let r := dramErrors s.glob false errs (s.hub, s.mem)
  { s with hub := r.1, mem := r.2 }

/-- A read with a detected double error of shared SRAM (R151); `offset` counts from 0x00_4000_0000. -/
def Hub.sramDouble (h : Hub) (g : Glob) (offset : Nat) (scrub : Bool) : Hub :=
  let b := offset / 0x200000 % 24
  (h.wrN Reg.SRAM_UE (satInc 24 (h.f Reg.SRAM_UE 23 0) + b * 2 ^ 24 + b2n scrub * 2 ^ 29)).raise g 44 ((if scrub then 3 else 2) + b * 256)

/-- A read with a detected double error of an engine local memory (R152). -/
def Hub.localDouble (h : Hub) (g : Glob) (e : Nat) (instr scrub : Bool) : Hub :=
  (h.wrN Reg.LCL_UE (satInc 24 (h.f Reg.LCL_UE 23 0) + e * 2 ^ 24 + b2n scrub * 2 ^ 29 + b2n instr * 2 ^ 30)).raise g 45
    ((if scrub then 3 else 2) + e * 256)

/-- The double errors that a read of shared SRAM finds, line by line. -/
def Hub.sramReadErrors (h : Hub) (g : Glob) (m : Memory) (a n : Nat) : Hub :=
  ((List.range ((a + n - 1) / 32 + 1 - a / 32)).map (· + a / 32)).foldl (fun h l =>
    if Memory.lineBad m.sramBad (32 * l) 32 then h.sramDouble g (32 * l) false else h) h

/-! ## Shared SRAM (R150, R405) -/

/-- What a read of shared SRAM by an engine or by JTAG shows: in the banks that the hub fills itself a byte that one of them has stored, and a free value where
none has (DESIGN CHOICE, log entry 28: what the hub writes there itself later is not seen). -/
def Hub.sramSeen (h : Hub) (m : Memory) (a n : Nat) : List Byte :=
  if sramHeld a n then (List.range n).map (fun k =>
    if sramHeld (a + k) 1 && !Sparse.get false m.stored (a + k) then BitVec.ofNat 8 (h.freeAt k) else Sparse.get Memory.blank m.sram (a + k))
  else m.sramBytes a n

/-- The hub after such a read. -/
def Hub.sramDrew (h : Hub) (a n : Nat) : Hub := if sramHeld a n then h.drew n else h

/-- A descriptor or the fixed rule for banks 16 to 18 refuses an engine of a world an SRAM range; offsets count from 0x00_4000_0000. -/
def Hub.sramRefused (h : Hub) (secure write : Bool) (a n : Nat) : Bool :=
  !secure && (overlaps a n (16 * 0x200000) (3 * 0x200000) ||
    [a, a + n - 1].any (fun x =>
      match (List.range 8).find? (fun i =>
          h.bit (Reg.SEC_SRDn_CTL i) 0 && decide (h.f (Reg.SEC_SRDn_BASE i) 13 0 ≤ x / 4096 ∧ x / 4096 ≤ h.f (Reg.SEC_SRDn_LIMIT i) 13 0)) with
      | none => false
      | some i => !h.bit (Reg.SEC_SRDn_CTL i) (if write then 2 else 1)))

end Sys2Proof.Machine
end

