-- ==== Sys2Proof/Machine/Scrub.lean ====
section
/-! DEFINITION. Errors in the lines of shared SRAM and of the engine local memories, and the scrubbers (spec/06_memory.md). -/

namespace Sys2Proof.Machine

/-- The key of byte 0 of a line in the array that holds it. -/
def LineMem.base (w : LineMem) (line : Nat) : Nat :=
  match w with
  | .sram => 32 * line
  | .imem e => Memory.localBase e + 32 * line
  | .dmem e => Memory.localBase e + 32 * line

/-- The double errors that a memory holds, and the memory with others in their place. -/
def Memory.badOf (m : Memory) : LineMem → Sparse Bool
  | .sram => m.sramBad
  | .imem _ => m.imemBad
  | .dmem _ => m.dmemBad
def Memory.withBad (m : Memory) (w : LineMem) (b : Sparse Bool) : Memory :=
  match w with
  | .sram => { m with sramBad := b }
  | .imem _ => { m with imemBad := b }
  | .dmem _ => { m with dmemBad := b }

/-- The cells of a memory of lines, and the memory with others in their place. -/
def Memory.cellsOf (m : Memory) : LineMem → List Host.Cell
  | .sram => m.sram
  | .imem _ => m.imem
  | .dmem _ => m.dmem
def Memory.withCells (m : Memory) (w : LineMem) (c : List Host.Cell) : Memory :=
  match w with
  | .sram => { m with sram := c }
  | .imem _ => { m with imem := c }
  | .dmem _ => { m with dmem := c }

/-! ## What the decoder of a line makes of an error (R151): cell `c` of a line belongs to codeword `c mod 16` -/

/-- The wrong bits of codeword `k`. -/
def LineErr.bits (l : LineErr) (k : Nat) : Nat := ((l.cells.filter (fun c => decide (c < 352) && c % 16 == k)).eraseDups).length

/-- The codewords that the decoder takes for good though three or more of their bits are wrong. -/
def LineErr.missed (l : LineErr) : List Miscode := l.wrong.filter (fun w => decide (w.codeword < 16) && decide (3 ≤ l.bits w.codeword))

/-- The codewords with a detected error: two wrong bits, or more that are not missed. -/
def LineErr.broken (l : LineErr) : List Nat :=
  (List.range 16).filter (fun k => decide (2 ≤ l.bits k) && !l.missed.any (fun w => w.codeword == k))

/-- The decoder corrects a codeword of the line, or takes one for corrected. -/
def LineErr.fixed (l : LineErr) : Bool := (List.range 16).any (fun k => l.bits k == 1) || l.missed.any (·.counted)

/-- The cells that a burst of `n` adjacent bits from cell `i` makes wrong. -/
def burstCells (i n : Nat) : List Nat := (List.range n).map (· + i)

/-- Codewords of a line marked as holding a double error. -/
def Memory.breakLine (m : Memory) (w : LineMem) (line : Nat) (broken : List Nat) : Memory :=
  m.withBad w (broken.foldl (fun b k => if k < 16 then Sparse.set false b (w.base line / 2 + k) true else b) (m.badOf w))

/-- A line as a read with an error finds and leaves it: the double errors that it detects are marked, and a codeword that it takes for good holds other data. -/
def Memory.strikeLine (m : Memory) (w : LineMem) (line : Nat) (err : LineErr) : Memory :=
  let m1 := m.breakLine w line err.broken
  err.missed.foldl (fun m e =>
    let k := w.base line / 2 + e.codeword
    if Sparse.get false (m.badOf w) k then m
    else m.withCells w (Sparse.set Memory.blank (Sparse.set Memory.blank (m.cellsOf w) (2 * k) (e.data.extractLsb' 0 8)) (2 * k + 1)
      (e.data.extractLsb' 8 8))) m1

/-- A line that a read finds broken. -/
def Memory.lineBroken (m : Memory) (w : LineMem) (line : Nat) : Bool := Memory.lineBad (m.badOf w) (w.base line) 32

/-- The engine address of a line (R153, Table 17.5). -/
def LineMem.address (w : LineMem) (line : Nat) : Nat :=
  match w with
  | .sram => 0x40000000 + 32 * line + 255 * 2 ^ 40
  | .imem e => 32 * line + e * 2 ^ 40
  | .dmem e => 0x20000 + 32 * line + e * 2 ^ 40

/-- The line exists. -/
def LineMem.has (w : LineMem) (line : Nat) : Bool :=
  match w with
  | .sram => decide (32 * line < 24 * 0x200000)
  | .imem e => decide (e < 24 ∧ 32 * line < 0x20000)
  | .dmem e => decide (e < 24 ∧ 32 * line < 0x20000)

/-- The marks of shared SRAM lines that the hub has written whole since are gone: such a write gives every codeword fresh check bits (R151). -/
def Memory.renewLines (m : Memory) (lines : List Nat) : Memory :=
  if lines.isEmpty then m else { m with sramBad := m.sramBad.filter (fun e => !lines.contains (e.1 / 16)) }

/-- The lines of the logs that the recorder has written. -/
def logsWritten (hm : Hub × Memory) : Hub × Memory :=
  if hm.1.cairn.fresh.isEmpty then hm else ({ hm.1 with cairn := { hm.1.cairn with fresh := [] } }, hm.2.renewLines hm.1.cairn.fresh)

/-- What a read of one line leaves (R151, R152): a double error is counted and raised at every read; a line without one that was corrected
counts once. -/
def readLine (g : Glob) (scrub : Bool) (w : LineMem) (line : Nat) (err : LineErr) (hm : Hub × Memory) : Hub × Memory :=
  let hm0 := if w = .sram then logsWritten hm else hm
  let m1 := hm0.2.strikeLine w line err
  let h := hm0.1
  if m1.lineBroken w line then
    (match w with
      | .sram => h.sramDouble g (32 * line) scrub
      | .imem e => h.localDouble g e true scrub
      | .dmem e => h.localDouble g e false scrub, m1)
  else if err.fixed then
    (match w with
      | .sram => h.countCorrected g (Reg.SRAM_CNT_CEb (32 * line / 0x200000 % 24)) 44 (32 * line / 0x200000 % 24)
      | .imem e => h.countCorrected g (Reg.LCL_CNT_CEe e) 45 e
      | .dmem e => h.countCorrected g (Reg.LCL_CNT_CEe e) 45 e, m1)
  else (h, m1)

/-- The codewords of a line of shared SRAM with a double error; no line has one while none is marked. -/
def Memory.sramBroken (m : Memory) (line : Nat) : Bool := m.sramBad.any (fun e => e.2 && e.1 / 16 == line)

/-- A block reads lines of its own state in banks `b` to `b + n - 1`, each given by its number and the error that it meets: a double error is a fault of the block
(R22, R149). -/
def State.ownLines (s : State) (blk : Block) (b n : Nat) (lines : List (Nat × LineErr)) : State :=
  let mine := lines.filter (fun l => decide (65536 * b ≤ l.1 ∧ l.1 < 65536 * (b + n)))
  let r := mine.foldl (fun hm l => readLine s.glob false .sram l.1 l.2 hm) (s.hub, s.mem)
  { s with mem := r.2, hub := if mine.any (fun l => r.2.sramBroken l.1) then r.1.blockFault s.glob blk else r.1 }

/-- The scrubber reads a line (R153), in D3 of shared SRAM alone (R431): a double error is counted, raises event 0x03, and takes a snapshot of the line's address. -/
def sramScrubOf (s : State) (w : LineMem) (line : Nat) (err : LineErr) : State :=
  if !w.has line || !s.hub.serving .scrubber || (s.hub.power.state == 3 && w != .sram) then s
  else
    let r := readLine s.glob true w line err (s.hub, s.mem)
    { s with
      mem := r.2
      hub := if r.2.lineBroken w line then r.1.trigger s.glob 0x71 2 (w.address line) else r.1 }

def execSramScrub (w : LineMem) (line : Nat) (err : LineErr) (s : State) : Host.Outcome State Fault Refusal := .next (sramScrubOf s w line err)

/-- The patrol scrubber reads a DRAM block while MEM_SCRUB.EN is 1, in D0 and D1 (R154, R431). -/
def patrolOf (s : State) (block : Nat) (err : Option ReadError) : State :=
  if !s.hub.bit Reg.MEM_SCRUB 0 || !s.hub.serving .scrubber || 2 ≤ s.hub.power.state then s
  else
    let r := dramErrors s.glob true (err.toList.map (fun e => (block, e))) (s.hub, s.mem)
    { s with mem := r.2, hub := r.1 }

def execDramPatrolScrub (block : Nat) (err : Option ReadError) (s : State) : Host.Outcome State Fault Refusal := .next (patrolOf s block err)

end Sys2Proof.Machine
end

