-- ==== Sys2Proof/Machine/Col.lean ====
section
/-! DEFINITION. The Col work dispatcher and the Talus lists (spec/14_col_dispatcher.md). -/

namespace Sys2Proof.Machine

/-! ## Engines and items -/

/-- A scalar register; s0 reads zero (Table 13.2). -/
def Engine.reg (x : Engine) (r : Nat) : Word := if r % 32 = 0 then 0 else Sparse.get 0 x.s (r % 32)
def Engine.n (x : Engine) (r : Nat) : Nat := (x.reg r).toNat

/-- A scalar register written; a write of s0 is discarded (Table 13.2). -/
def Engine.setReg (x : Engine) (r : Nat) (w : Word) : Engine := if r % 32 = 0 then x else { x with s := Sparse.set 0 x.s (r % 32) w }

/-- The engine goes on at the next instruction; the PC has 17 bits. -/
def Engine.next (x : Engine) : Engine := { x with pc := (x.pc + 4) % 2 ^ 17 }

def Hub.colItems (h : Hub) (f : List WorkItem → List WorkItem) : Hub := { h with col := { h.col with items := f h.col.items } }

/-- An item changed; it comes to the end of the list, as the latest to arrive where it stands. -/
def Hub.moveItem (h : Hub) (i new : WorkItem) : Hub := h.colItems (fun l => l.filter (fun x : WorkItem => x.slot != i.slot) ++ [new])

/-- The ID of an item: its slot, and the slot's generation (R344). -/
def Hub.itemId (h : Hub) (slot : Nat) : Nat := slot % 4096 + Sparse.get 0 h.col.gens slot % 2 ^ 19 * 4096

/-- The item that an ID names (R344). -/
def Hub.itemOf (h : Hub) (id : Nat) : Option WorkItem :=
  h.col.items.find? (fun i => h.itemId i.slot == id)

/-- An item is queued while it waits in its level or is parked (R343). -/
def WorkItem.queued (i : WorkItem) : Bool := match i.place with
  | .running _ => false
  | _ => true

/-- A level is secure (R347). -/
def Hub.levelSecure (h : Hub) (l : Nat) : Bool := bitOf (h.n Reg.COL_SECMASK) l

/-- Event of a level (R361). -/
def Hub.levelEvent (h : Hub) (g : Glob) (l detail : Nat) : Hub := h.raise g (56 + l) detail

/-- A Talus list refuses for want of room: the event comes from the level of the item (Table 14.4). -/
def talusFullDetail (t e : Nat) : Nat := 5 + t * 256 + e * 1024

/-! ## The order of events within an FCLK cycle (R352, Table 14.2) -/

/-- The places of Table 14.2; those of posts are in the order of their SQs and engines. -/
def rankAbort : Nat := 1000
def rankCancel : Nat := 2000
def rankReturn : Nat := 3000
def rankPost (engine : Bool) (source : Nat) : Nat := (if engine then 5000 else 4000) + source
def rankDone : Nat := 6000
def rankGrant : Nat := 7000

/-- Col takes an event of a place in the order: one that comes before the latest belongs to the next FCLK cycle, of which a PCLK cycle has two, and so does a second
one of a kind that a cycle has `once`. An event that would need a third one is taken in the second, in the order of the commands, and finds no more slots free for
it (DESIGN CHOICE, log entry 38). -/
def Hub.colEvent (h : Hub) (rank : Nat) (once : Bool) : Hub :=
  let c := h.col.turn
  let c1 : ColTurn :=
    if c.clock ≠ h.clock then { clock := h.clock, rank := rank }
    else if (rank < c.rank || (once && rank == c.rank)) && !c.late then { clock := h.clock, late := true, rank := rank }
    else { c with rank := rank }
  { h with col := { h.col with turn := c1 } }

/-- The slots freed at the end of this FCLK cycle, each with its level. -/
def Hub.colFreed (h : Hub) : List (Nat × Nat) := if h.col.turn.clock = h.clock then h.col.turn.freed else []

/-! ## Posts (R342, R345 to R348) -/

/-- The layout of a posted descriptor (R342). -/
def itemValid (b : List Byte) : Bool := byteAt b 0 == 1 && leAt b 1 3 == 0

/-- The slots that no item holds, and that none has left since the posts of this FCLK cycle (R352). -/
def Hub.freeSlots (h : Hub) : List Nat :=
  (List.range 4096).filter (fun s => !h.col.items.any (fun i => i.slot == s) && !h.colFreed.any (fun f => f.1 == s))

/-- The slot that an accepted post takes: one of the free ones, and the manual does not say which. -/
def Hub.slotTaken (h : Hub) : Nat := h.freeSlots.getD (h.freeAt 0 % h.freeSlots.length) 0

/-- The line of shared SRAM that an item slot is, in bank 18 (Table 6.5). -/
def itemLine (slot : Nat) : Nat := 18 * 65536 + Config.itemLine slot % 65536

/-- Bytes `a` to `a + n - 1` of shared SRAM have been stored to: an item whose slot they lie in has them in its descriptor. -/
def Hub.itemsStored (h : Hub) (m : Memory) (a n : Nat) : Hub :=
  if sramHeld a n then
    h.colItems (fun l => l.map (fun i => { i with body := (List.range 32).map (fun k =>
      let x := 32 * itemLine i.slot + k
      if a ≤ x && x < a + n then Sparse.get Memory.blank m.sram x else byteAt i.body k) }))
  else h

/-- A post to a level is refused: it holds its LIMIT, or no slot is free (R345). -/
def Hub.postRefused (h : Hub) (l : Nat) : Bool :=
  decide (h.f (Reg.COL_LVLl_CTL l) 12 0 ≤ h.levelHeld l + (h.colFreed.filter (fun f => f.2 == l)).length) || h.freeSlots.isEmpty

/-- An accepted post: the item holds a slot, as the last of the list. -/
def Hub.itemEnters (h : Hub) (g : Glob) (engine : Bool) (source l : Nat) (body : List Byte) (owner : Option (Nat × Nat)) : Hub :=
  let h1 := (h.count (Reg.COL_LVLl_CNT_POST l) 31).drew 1
  let h2 := { h1 with col := { h1.col with
    told := h1.col.told.filter (· != l)
    items := h1.col.items ++ [({ slot := h.slotTaken, level := l, engine := engine, source := source, deferred := false, body := body,
                                 owner := owner, place := .waiting h.col.fclk } : WorkItem)] } }
  h2.raiseIf (h.f (Reg.COL_LVLl_CTL l) 28 16 == h.levelHeld l + 1) g (56 + l) (1 + (h.levelHeld l + 1) * 65536)

/-- A refused post. -/
def Hub.postTurnedAway (h : Hub) (g : Glob) (engine : Bool) (source l : Nat) : Hub :=
  let h1 := (h.count (Reg.COL_LVLl_CNT_REFUSE l) 31).raiseIf (!h.col.told.contains l) g (56 + l) (2 + b2n engine * 256 + source * 1024)
  { h1 with col := { h1.col with told := l :: h1.col.told.filter (· != l) } }

/-- What Col, in service, does with a post: the hub after it and its status. -/
def Hub.colTakes (h : Hub) (g : Glob) (secure engine : Bool) (source l : Nat) (body : List Byte) (owner : Option (Nat × Nat)) : Hub × Nat :=
  if !itemValid body then (h, Status.invalid)
  else if h.levelSecure l && !secure then (h.count (Reg.COL_LVLl_CNT_REFUSE l) 31, Status.denied)
  else if h.postRefused l then (h.postTurnedAway g engine source l, Status.refused)
  else (h.itemEnters g engine source l body owner, Status.ok)

/-- What becomes of a post. -/
def Hub.colPost (h : Hub) (g : Glob) (secure engine : Bool) (source l : Nat) (body : List Byte) (owner : Option (Nat × Nat)) : Hub × Nat :=
  if !h.serving .col then (h, Status.aborted)
  else (h.colEvent (rankPost engine source) false).colTakes g secure engine source l body owner

/-- The ID of the item that came last. -/
def Hub.lastId (h : Hub) : Nat := match h.col.items.getLast? with
  | some i => h.itemId i.slot
  | none => 0

/-- The line of the item that came last has been written, and has fresh check bits (R151). -/
def Hub.lastRenewed (h : Hub) (m : Memory) : Memory := m.renewLines ((h.col.items.getLast?.map (fun i => itemLine i.slot)).toList)

/-- An item ends: its slot is free, the slot's generation increments, and a host item's WORK_POST completes (R343, R344, R348). A slot
freed after the posts of an FCLK cycle is free from the next one on (R352). -/
def Hub.endItem (h : Hub) (g : Glob) (i : WorkItem) (status : Nat) : Hub :=
  let h1 := { h with col := { h.col with
    items := h.col.items.filter (fun x => x.slot != i.slot)
    gens := Sparse.mod 0 h.col.gens i.slot (fun n => (n + 1) % 2 ^ 19)
    turn := if h.col.turn.clock = h.clock && rankDone ≤ h.col.turn.rank then { h.col.turn with freed := (i.slot, i.level) :: h.col.turn.freed }
      else h.col.turn } }
  match i.owner with
  | some (q, tag) => h1.complete g q tag status (leBytes 4 (h.itemId i.slot))
  | none => h1

/-- WORK_POST (R348). -/
def Hub.workPost (h : Hub) (g : Glob) (q tag : Nat) : Hub :=
  match h.fetched q tag 0x20 with
  | none => h
  | some d =>
    if 7 < d.op 16 1 then h.complete g q tag Status.invalid []
    else
      let r := h.colPost g d.secure false q (d.op 16 1) ((d.bytes.drop 32).take 32) (some (q, tag))
      if r.2 = Status.ok then r.1.await q tag [] else r.1.complete g q tag r.2 []

/-- The item of an accepted post is written to its slot. -/
def execWorkPost (q tag : Nat) (s : State) : Host.Outcome State Fault Refusal :=
  let h := s.hub.workPost s.glob q tag
  .next { s with hub := h, mem := if s.hub.col.items.length < h.col.items.length then h.lastRenewed s.mem else s.mem }

/-! ## Cancelling (R357, R358, R360) -/

/-- A queued item removed by WORK_CANCEL or by an ABORT of its level. -/
def Hub.cancelItem (h : Hub) (g : Glob) (i : WorkItem) : Hub := (h.count Reg.COL_CNT_CANCEL 31).endItem g i Status.aborted

/-- WORK_CANCEL. -/
def Hub.workCancel (h : Hub) (g : Glob) (q tag : Nat) : Hub :=
  match h.fetched q tag 0x21 with
  | none => h
  | some d =>
    if !h.serving .col then h.complete g q tag Status.aborted []
    else
      let h := h.colEvent rankCancel false
      match h.itemOf (d.op 16 4) with
      | none => h.complete g q tag Status.notPresent []
      | some i =>
        if h.levelSecure i.level && !d.secure then h.complete g q tag Status.denied []
        else if !i.queued then h.complete g q tag Status.notPresent []
        else (h.cancelItem g i).complete g q tag Status.ok []

def execWorkCancel (q tag : Nat) (s : State) : Host.Outcome State Fault Refusal := nextHub s (s.hub.workCancel s.glob q tag)

/-- ABORT KIND 2 of a level: the hub after it, and the number of engine-posted items removed (R358). -/
def Hub.abortLevel (h : Hub) (g : Glob) (l : Nat) : Hub × Nat :=
  let h := h.colEvent rankAbort false
  let gone := h.col.items.filter (fun i => i.level == l && i.queued)
  ((gone.foldl (fun h i => h.cancelItem g i) h).levelEvent g l (4 + gone.length * 65536), (gone.filter (·.engine)).length)

/-- Col leaves service: every WORK_POST whose item it holds completes ABORTED (R360). -/
def Hub.colIsolated (h : Hub) (g : Glob) : Hub :=
  let h1 : Hub := h.col.items.foldl (fun h i => match i.owner with
    | some (q, tag) => h.complete g q tag Status.aborted (leBytes 4 (h.itemId i.slot))
    | none => h) h
  h1.colItems (fun l => l.map (fun i => { i with owner := none }))

/-! ## Grants (R349, R350, R359) -/

/-- One more of what Col does once per FCLK cycle, of which a PCLK cycle has two (R349, R355): the PCLK cycle, and how many it has had. -/
def onceMore (clock : Nat) (n : Nat × Nat) : Nat × Nat := if n.1 = clock then (clock, n.2 + 1) else (clock, 1)

/-- The PCLK cycle has had its two. -/
def hadBoth (clock : Nat) (n : Nat × Nat) : Bool := n.1 == clock && decide (2 ≤ n.2)

/-- A waiting engine accepts a level (R326, R347); SE4 to SE23 of a SYNCING or STANDBY hub take no grant (R364, R372). -/
def Hub.accepts (h : Hub) (w : Waiter) (l : Nat) : Bool :=
  (w.mask == 0 || bitOf w.mask l) && h.levelSecure l == h.engineSecure w.engine && h.serving (.spr w.engine) &&
    (h.eng w.engine).phase == .waiting &&
    !(4 ≤ w.engine && (h.saddle.role == .standby || h.saddle.role == .syncing))

/-- The level of the next grant: the highest-priority one, 0 first, with an item waiting that a waiting engine accepts. -/
def Hub.grantLevel (h : Hub) : Option Nat :=
  (List.range 8).find? (fun l => decide (0 < h.levelWaiting l) && h.col.waiters.any (fun w => h.accepts w l))

/-- The descriptor as WGET delivers it (Table 14.1). -/
def WorkItem.delivered (i : WorkItem) : List Byte :=
  [1, BitVec.ofNat 8 i.level, BitVec.ofNat 8 (b2n i.engine + 128 * b2n i.deferred), BitVec.ofNat 8 i.source] ++ i.body.drop 4

/-! ## Talus lists (R353 to R356) -/

/-- The instant at which a deferral of `d` ticks on list `t` expires: the d-th multiple of TICK strictly after now (R353). -/
def Hub.talusExpiry (h : Hub) (t d : Nat) : Nat :=
  let tick := h.f (Reg.COL_TALUSt_CTL t) 9 0 * (1000 * ns48)
  (h.now48 t / tick + d) * tick

/-- What Col does with a WDEFER of an item by engine `e`: the hub after it and its status (R353, R354, R360). -/
def Hub.colDefer (h : Hub) (g : Glob) (e : Nat) (i : WorkItem) (t d : Nat) : Hub × Nat :=
  if !h.serving .col then (h, Status.aborted)
  else if d = 0 || 16777215 < d then (h, Status.invalid)
  else if h.f (Reg.COL_TALUSt_CTL t) 26 16 ≤ h.talusParked t then
    ((h.count (Reg.COL_TALUSt_CNT_REFUSE t) 31).levelEvent g i.level (talusFullDetail t e), Status.refused)
  else
    (h.moveItem i { i with place := .parked t (h.talusExpiry t d) }, Status.ok)

/-- How long ago the base of a parked item reached its expiry, in FCLK cycles; `none` before that. -/
def Hub.overdue (h : Hub) (i : WorkItem) : Option Nat :=
  match i.place with
  | .parked t expiry => if expiry ≤ h.now48 t then some ((h.now48 t - expiry) / (ns48 * 5 / 4)) else none
  | _ => none

/-- The item that returns next: the longest expired; then the lowest list; then the one deferred first (R355). -/
def Hub.nextReturn (h : Hub) : Option WorkItem :=
  h.col.items.foldl (fun best i =>
    match h.overdue i, best with
    | none, _ => best
    | some _, none => some i
    | some a, some b =>
      match h.overdue b with
      | none => some i
      | some c => if c < a || (a == c && decide (i.list.getD 0 < b.list.getD 0)) then some i else some b) none

/-- Col moves one expired item to the tail of its level (R355). -/
def Hub.talusReturn (h : Hub) : Hub :=
  if !h.serving .col || h.power.state ≠ 0 || hadBoth h.clock h.col.returns then h else
  match h.nextReturn with
  | none => h
  | some i =>
    let h1 := h.colEvent rankReturn true
    ({ h1 with col := { h1.col with returns := onceMore h.clock h.col.returns } }.pmuAdd Reg.PMU_COL_RETURNS_LO 1).moveItem i
      { i with deferred := true, place := .waiting h.col.fclk }

/-- `lines` are the errors that the reads of the Talus lists meet, in bank 18; a double error is a fault of Col (R149). -/
def execTalusExpiry (lines : List (Nat × LineErr)) (s : State) : Host.Outcome State Fault Refusal :=
  nextHub (s.ownLines .col 18 1 lines) (s.ownLines .col 18 1 lines).hub.talusReturn

end Sys2Proof.Machine
end

