-- ==== Sys2Proof/Machine/EngOps.lean ====
section
/-! DEFINITION. Spur engines: exceptions, counters, loading, starting, stopping and restarting (spec/13_spur_engines.md, R316, R318, R336, R338 to
R341; spec/18_performance_counters.md, R419 to R421). -/

namespace Sys2Proof.Machine

/-- Event of an engine (R341). -/
def Hub.engEvent (h : Hub) (g : Glob) (e detail : Nat) : Hub := h.raise g (64 + e) detail

/-! ## Counters (R419 to R421) -/

/-- Counter `k` of an engine counts event `ev` in the engine's mode. -/
def Hub.countsEvent (h : Hub) (e k ev : Nat) : Bool :=
  h.f (Reg.PMUe_EVSELk e k) 7 0 == ev && h.bit (Reg.PMUe_EVSELk e k) 8 &&
    h.bit (Reg.PMUe_EVSELk e k) (if (h.eng e).kmode then 10 else 9)

/-- No counter of a non-secure engine counts while FREEZE is 1. -/
def Hub.pmuFrozen (h : Hub) (e : Nat) : Bool := !h.engineSecure e && h.bit Reg.PMU_CTL 0

/-- Counter `k` of an engine, or the cycle counter for `k` 8, counts `a` more; it sets its SAT bit when it saturates (R420). -/
def Hub.pmuEngAdd (h : Hub) (e k a : Nat) : Hub :=
  let off := if k = 8 then Reg.PMUe_CYC_LO e else Reg.PMUe_CNTk_LO e k
  let bits := if k = 8 then 64 else 48
  let v := satAdd bits (Sparse.get 0 h.pmu off) a
  let h1 := { h with pmu := Sparse.set 0 h.pmu off v }
  if a ≠ 0 && v = 2 ^ bits - 1 then h1.putBit (Reg.PMUe_CNT_CTL e) (8 + k) true else h1

/-- An engine event with MODE 0 is counted `a` times by every counter that selects it. -/
def Hub.pmuEng (h : Hub) (e ev a : Nat) : Hub :=
  if h.pmuFrozen e then h else
  (List.range 8).foldl (fun h k => if h.countsEvent e k ev && !h.bit (Reg.PMUe_EVSELk e k) 11 then h.pmuEngAdd e k a else h) h

/-- An engine has used `a` issue slots of a class of Table 18.2, counted by event `cls` and as SLOTS (R421, R422); its next cycles have so many fewer for
the other classes. -/
def Hub.slotsUsed (h : Hub) (e cls a : Nat) : Hub :=
  let h1 := (h.pmuEng e cls a).pmuEng e 0x07 a
  { h1 with slots := Sparse.mod 0 h1.slots e (· + a) }

/-- An instruction retires from the scalar or the vector slot. -/
def Hub.engRetired (h : Hub) (e : Nat) (vector : Bool) : Hub := (h.slotsUsed e 0x01 1).pmuEng e (if vector then 0x11 else 0x10) 1

/-! ## Exceptions (R316, R336) -/

/-- An engine halts; its waiting and its outstanding loads end. -/
def Engine.halt (x : Engine) : Engine := { x with phase := .halted, loads := [] }

/-- An engine takes an exception of the instruction at `pc`, whose cycle of entry wastes its two slots (Table 18.2); a second one inside the handler halts it, and it reports a block fault. -/
def Hub.exceptionAt (h : Hub) (g : Glob) (e pc cause eaddr : Nat) : Hub :=
  let x := { h.eng e with excPc := pc, excCause := cause }
  if x.exc then ((h.setEng e x.halt).engEvent g e (1 + cause * 256)).blockReport (.spr e)
  else (h.setEng e { x with epc := pc, pmode := x.kmode, kmode := true, exc := true, pc := x.kvec, ecause := cause, eaddr := eaddr }).pmuEng
    e 0x19 1 |>.slotsUsed e 0x02 2

/-- An engine takes an exception of its current instruction. -/
def Hub.exception (h : Hub) (g : Glob) (e cause eaddr : Nat) : Hub := h.exceptionAt g e (h.eng e).pc cause eaddr

/-! ## Items and the end of an engine's work (Table 2.6, R339, R340) -/

/-- The item that runs on an engine. -/
def Hub.runningItem (h : Hub) (e : Nat) : Option WorkItem := h.col.items.find? (fun i => i.place == .running e)

/-- An engine's item is ended, and its wait in WGET too. -/
def Hub.endWork (h : Hub) (g : Glob) (e : Nat) : Hub :=
  let h1 := { h with col := { h.col with waiters := h.col.waiters.filter (fun w => w.engine != e) } }
  match h1.runningItem e with
  | some i => h1.endItem g i Status.aborted
  | none => h1

/-- The number of items that ending an engine's work ends. -/
def Hub.engineItems (h : Hub) (e : Nat) : Nat := if (h.runningItem e).isSome then 1 else 0

/-- What outlives a start of the engine: its counts and the latest exception. -/
def Engine.kept (x : Engine) : Engine :=
  { restarts := x.restarts, excPc := x.excPc, excCause := x.excCause, sterr := x.sterr, told := x.told, lost := x.lost }

/-- Every engine halts in the safe state; a held host-posted item completes with ABORTED (R340). -/
def Hub.haltEngine (h : Hub) (g : Glob) (e : Nat) : Hub := (h.endWork g e).modEng e (fun x => { x.halt with item := none })

/-- The STATE that an engine takes: in the safe state every engine stays halted (R26, R340). -/
def EngPhase.allowed (g : Glob) (p : EngPhase) : EngPhase := if g.safe then .halted else p

/-! ## Images (R338) -/

/-- The registers of an image. -/
def Hub.imgAddr (h : Hub) (e : Nat) : Nat := h.addr36 (Reg.SPRe_IMG_LO e) (Reg.SPRe_IMG_HI e) 6
def Hub.imgCode (h : Hub) (e : Nat) : Nat := 4 * h.f (Reg.SPRe_LEN e) 15 0
def Hub.imgData (h : Hub) (e : Nat) : Nat := 4 * h.f (Reg.SPRe_LEN e) 31 16
def Hub.imgEntry (h : Hub) (e : Nat) : Nat := 4 * h.f (Reg.SPRe_ENTRY e) 16 2
def Hub.imgDataAddr (h : Hub) (e : Nat) : Nat := h.imgAddr e + (h.imgCode e + 63) / 64 * 64

/-- The image registers give no image that can be loaded. -/
def Hub.imgRange (h : Hub) (e : Nat) : Bool :=
  h.imgCode e == 0 || decide (4 * 32768 < h.imgCode e) || decide (4 * 32768 < h.imgData e) || decide (h.imgCode e ≤ h.imgEntry e) ||
    decide (h.usable < h.imgAddr e + h.imgCode e) || (h.imgData e != 0 && decide (h.usable < h.imgDataAddr e + h.imgData e))

/-- The engine starts at ENTRY in K mode (R318). -/
def Engine.start (x : Engine) (entry : Nat) (restart : Bool) : Engine :=
  { x.kept with phase := .running, pc := entry, kvec := entry, kmode := true, restart := restart }

/-- A load of the image fails; the engine stays stopped (R338). -/
def Hub.loadFails (h : Hub) (g : Glob) (e why : Nat) : Hub :=
  (h.modEng e (fun x => { x.kept with phase := .failed })).engEvent g e (2 + why * 256)

/-- The data section copied, and the rest of data memory set to zero. -/
def Hub.copyData (h : Hub) (m : Memory) (e : Nat) : Memory :=
  m.writeDmem e 0 (padTo 0x20000 (h.readDram m (h.engineSecure e) (h.imgDataAddr e) (h.imgData e)).bytes)

/-- The data section reads poisoned data. -/
def Hub.dataPoisoned (h : Hub) (m : Memory) (e : Nat) : Bool :=
  h.imgData e != 0 && (h.readDram m (h.engineSecure e) (h.imgDataAddr e) (h.imgData e)).poison

/-- The image copies end: the engine starts, or the load fails (R338). `errs` are the errors that the reads of DRAM meet. -/
def imageLoaded (g : Glob) (e : Nat) (errs : List (Nat × ReadError)) (hm : Hub × Memory) : Hub × Memory :=
  if (hm.1.eng e).phase ≠ .loading || g.safe || !hm.1.serving (.spr e) then hm
  else if hm.1.imgRange e then (hm.1.loadFails g e 2, hm.2)
  else
    let r := dramErrors g false errs hm
    let code := r.1.readDram r.2 (r.1.engineSecure e) (r.1.imgAddr e) (r.1.imgCode e)
    let h1 := (r.1.dramViolation g r.2 (r.1.engineSecure e) false (r.1.imgAddr e) (r.1.imgCode e) (0x40 + e)).dramViolation g r.2
      (r.1.engineSecure e) false (r.1.imgDataAddr e) (r.1.imgData e) (0x40 + e)
    if code.poison || r.1.dataPoisoned r.2 e then (h1.loadFails g e 1, r.2)
    else (h1.modEng e (fun x => x.start (h1.imgEntry e) false), h1.copyData (r.2.writeImem e 0 code.bytes) e)

/-- An engine restarts after an ABORT of KIND 0 or a block reset (R340). An engine that is off, that loads its image or whose load failed
stays so, and in the safe state none starts. -/
def restartEngine (g : Glob) (e : Nat) (hm : Hub × Memory) : Hub × Memory :=
  let h := hm.1.endWork g e
  if g.safe then (hm.1.haltEngine g e, hm.2)
  else if (h.eng e).phase = .off || (h.eng e).phase = .failed || (h.eng e).phase = .loading then (h, hm.2)
  else
    let reload := h.bit (Reg.SPRe_CTL e) 1
    let h1 := if reload then h.dramViolation g hm.2 (h.engineSecure e) false (h.imgDataAddr e) (h.imgData e) (0x40 + e) else h
    if reload && h.dataPoisoned hm.2 e then (h1.loadFails g e 1, hm.2)
    else
      ((h1.modEng e (fun x => { x.start (h.imgEntry e) true with restarts := satInc 16 x.restarts })).engEvent g e 4,
       if reload then h.copyData hm.2 e else hm.2)

/-- SPRe_CTL written: EN going from 0 to 1 loads the image, and from 1 to 0 ends the engine (R338, R339). EN of SE0 to SE3 stays 1. -/
def Hub.sprCtl (h : Hub) (g : Glob) (e value : Nat) : Hub :=
  let en := if e < 4 then h.bit (Reg.SPRe_CTL e) 0 else bitOf value 0
  let h1 := h.putF (Reg.SPRe_CTL e) 1 0 (b2n en + 2 * b2n (bitOf value 1))
  if en && !h.bit (Reg.SPRe_CTL e) 0 then h1.modEng e (fun x => { x.kept with phase := EngPhase.allowed g .loading })
  else if !en && h.bit (Reg.SPRe_CTL e) 0 then (h1.endWork g e).modEng e (fun x => { x.kept with phase := EngPhase.allowed g .off })
  else h1

end Sys2Proof.Machine
end

