-- ==== Sys2Proof/Machine/Wake.lean ====
section
/-! DEFINITION. Leaving a power state: the wake sources, what a wake brings back, and the commands that are wake sources (spec/19_power_clocks_reset.md, R428,
R430, R434 to R436, R445), and the control firmware of SE0 to SE3 (R315, R338, R440). -/

namespace Sys2Proof.Machine

/-- Wake latency and break-even of a state, in µs (Table 19.2). -/
def stateW (s : Nat) : Nat := [0, 2, 150, 4000].getD s 0
def stateB (s : Nat) : Nat := [0, 0, 1000, 50000].getD s 0

/-- Source 94 (R445). -/
def Hub.pwrEvent (h : Hub) (g : Glob) (detail : Nat) : Hub := h.raise g 94 detail

/-- The local memories of an engine are lost. -/
def Memory.loseLocal (m : Memory) (e : Nat) : Memory :=
  let out (k : Nat) : Bool := !(Memory.localBase e ≤ k && decide (k < Memory.localBase e + 0x20000))
  let outBad (k : Nat) : Bool := out (2 * k)
  { m with
    imem := m.imem.filter (fun c => out c.1), imemBad := m.imemBad.filter (fun c => outBad c.1)
    dmem := m.dmem.filter (fun c => out c.1), dmemBad := m.dmemBad.filter (fun c => outBad c.1) }

/-- The PCI Express link is held in L1.2 (R435). -/
def Hub.linkInL12 (h : Hub) : Bool := h.power.state == 3

/-! ## The control firmware (R315, R338, R430, R440) -/

/-- The control firmware of the image that runs. -/
def Fwu.controlPart (w : Fwu) : List Byte := imgPart w.running (imgControl w.running)

/-- Where the boot ROM keeps its copy of the control firmware in DRAM, from whose size and the size of the DRAM (DESIGN CHOICE, log entry 12: the manual does
not say where). -/
def Hub.firmwarePlace (h : Hub) : Nat := Config.firmwarePlace % max 1 ((h.usable - h.fwu.controlPart.length) / 64) * 64

/-- The local memories of SE0 to SE3 as the control firmware `part` fills them. -/
def Memory.firmwareIn (m : Memory) (part : List Byte) : Memory :=
  (List.range 4).foldl (fun m e => (m.writeImem e 0 (padTo 0x20000 (Config.firmwareCode part e))).writeDmem e 0 (padTo 0x20000 (Config.firmwareData part e))) m

/-- The copy of the control firmware in DRAM, in the secure world. -/
def Hub.firmwareCopy (h : Hub) (m : Memory) : Memory :=
  if h.fwu.controlPart.isEmpty then m else h.writeDram m true h.firmwarePlace h.fwu.controlPart false

/-- SE0 to SE3 load their program from the copy in DRAM, where the firmware runs. -/
def State.firmwareLoads (s : State) : State :=
  if s.hub.fwu.phase = .running then
    { s with mem := s.mem.firmwareIn (s.mem.dramBytes s.hub.firmwarePlace s.hub.fwu.controlPart.length) }
  else s

/-- The boot ROM copies the control firmware to DRAM, from where SE0 to SE3 get it (Table 19.8, step 6). -/
def State.firmwareIn (s : State) : State :=
  if s.hub.fwu.phase = .running then State.firmwareLoads { s with mem := s.hub.firmwareCopy s.mem } else s

/-! ## Wakes (R430, R434) -/

/-- A wake source acts in a state (Table 19.5). -/
def wakesFrom (code s : Nat) : Bool := decide (1 ≤ code ∧ code ≤ 8) && (decide (s ≤ 2) || !(3 ≤ code && code ≤ 5))

/-- An engine whose local memories were lost in D3 begins anew: its item is ended with it and its wait in WGET is over (R339, R343); with EN 1 it loads its image, and
SE0 to SE3, which have theirs at once, start. -/
def Hub.engineWakes (h : Hub) (g : Glob) (e : Nat) : Hub :=
  let h1 := h.endWork g e
  if !h.bit (Reg.SPRe_CTL e) 0 then h1
  else if e < 4 then h1.modEng e (fun x => { x.start (h.imgEntry e) false with phase := EngPhase.allowed g .running })
  else h1.modEng e (fun x => { x.kept with phase := EngPhase.allowed g .loading })

/-- A port that is enabled trains; one whose link was up goes down first (R239). In the safe state no lane trains, and it sends IDLE blocks (R26, R237). -/
def Hub.portTrains (h : Hub) (g : Glob) (n : Nat) : Hub :=
  if !h.bit (Reg.NSHn_CTL n) 0 then h
  else if g.safe then h.laneIdles n
  else (h.raiseIf (h.port n).phase.carries g n 2).retrain n (.training true)

/-- What comes back from D3: every engine with EN 1 begins anew and every enabled link trains (R430). -/
def Hub.sleepEnds (h : Hub) (g : Glob) : Hub :=
  (List.range 32).foldl (fun h n => h.portTrains g n) ((List.range 24).foldl (fun h e => h.engineWakes g e) h)

/-- Two PCLK cycles lie in one AON cycle, of 40 ns (R465). -/
def sameAon (a b : Nat) : Bool := a / 16 == b / 16

/-- The hub returns to D0. Of two causes that fire in one AON cycle WAKE records the lower. -/
def wakeUp (code : Nat) (s : State) : State :=
  let p := s.hub.power
  if p.state = 0 then
    (if p.wokeAt.any (sameAon s.hub.clock) && decide (code < p.wake) then { s with hub := { s.hub with power := { p with wake := code } } } else s)
  else
    let h1 := { s.hub with power := { p with state := 0, wake := code, wokeAt := some s.hub.clock } }
    let s1 := if p.state = 3 then s.firmwareLoads else s
    { s1 with hub := (if p.state = 3 then h1.sleepEnds s.glob else h1).raiseIf (decide (2 ≤ p.state)) s.glob 94 (2 + code * 256) }

/-! ## Commands that are wake sources (R434, Table 19.5) -/

/-- The state in which a command that is a wake source of a code acts: the hub has returned to D0 where the source wakes it, and a transaction of PCI Express
that arrives in D3 is held until then (R435). -/
def State.wokenBy (s : State) (code : Nat) : State := if wakesFrom code s.hub.power.state then wakeUp code s else s

/-- A command that is a wake source. -/
def woken (code : Nat) (k : State → Host.Outcome State Fault Refusal) (s : State) : Host.Outcome State Fault Refusal := k (s.wokenBy code)

/-- A command that is a wake source where `b` holds. -/
def wokenWhen (b : Hub → Bool) (code : Nat) (k : State → Host.Outcome State Fault Refusal) (s : State) : Host.Outcome State Fault Refusal :=
  k (if b s.hub then s.wokenBy code else s)

/-- What arrives: a frame on a sub-port of NET port `n`, a Naush frame on a port, a Saddle packet, and an edge of a TIO input (Table 19.5). -/
def Hub.netHears (n : Nat) (h : Hub) : Bool := (List.range 4).any (h.netUp n)
def Hub.naushHears (n : Nat) (h : Hub) : Bool := (h.port n).phase.carries
def Hub.packetHears (h : Hub) : Bool := h.saddle.link
def Hub.pinHears (p : Nat) (h : Hub) : Bool := h.pinFunc p == 1 || h.pinFunc p == 4 || h.pinFunc p == 6

/-- An access of a requester: the host's is one through a BAR, which is a wake source. -/
def State.reachedBy (s : State) (who : Requester) : State := if who = .host then s.wokenBy 2 else s

/-- A command that is an access of a requester. -/
def reached (who : Requester) (k : State → Host.Outcome State Fault Refusal) (s : State) : Host.Outcome State Fault Refusal := k (s.reachedBy who)

/-- A wake source of a code changes nothing: it does not wake the hub from its state, or the hub is in D0 and has not come there in this AON cycle with a higher
code. -/
def Hub.awake (h : Hub) (code : Nat) : Bool :=
  !wakesFrom code h.power.state ||
    (h.power.state == 0 && !(h.power.wokeAt.any (sameAon h.clock) && decide (code < h.power.wake)))

/-- As `Hub.awake`, for an access of a requester. -/
def Hub.quietTo (h : Hub) (who : Requester) : Bool := who != .host || h.awake 2

end Sys2Proof.Machine
end

