-- ==== Sys2Proof/Machine/Naush.lean ====
section
/-! DEFINITION. The commands of the Naush link: training, lock, PAUSE and rate shifts (spec/09_naush_link.md). -/

namespace Sys2Proof.Machine

/-! ## Training (R231) -/

/-- Full training begins: TRAIN at RATE_MAX leaves after the electrical idle, and every RESEND bit of the port is set, for which the other end of its chain asks to
shift up (R190, R231, R232, R235). -/
def Hub.trainingStart (h : Hub) (g : Glob) (n : Nat) : Hub :=
  if (h.port n).phase ≠ .training true || g.safe || !h.serving (.nsh n) then h
  else
    let r := h.f (Reg.NSHn_CTL n) 2 1
    let h1 := (h.modPort n (fun p => { p with phase := .training false, tryRate := r, enumDone := false })).resendAll (h.near n)
    (((h1.ends n).foldl (fun h m => h.askUp m) h1).groupTrigger (h.portGroup n)).emit (.lane n (.train r))

def execTrainingStart (n : Nat) (s : State) : Host.Outcome State Fault Refusal := nextHub s (s.hub.trainingStart s.glob n)

/-- The port's logic acts on its lane: its block serves, and the hub is not in the safe state, in which the lanes carry IDLE blocks (R23, R26, R237). -/
def Hub.laneActs (h : Hub) (g : Glob) (n : Nat) : Bool := h.serving (.nsh n) && !g.safe

/-- An attempt was not up within 10 ms: the next lower rate, or, after RATE_MIN, a link fault with cause 0x04. -/
def Hub.trainingTimeout (h : Hub) (g : Glob) (n : Nat) : Hub :=
  if (h.port n).phase ≠ .training false || !h.laneActs g n then h
  else if (h.port n).tryRate < h.f (Reg.NSHn_CTL n) 4 3 then
    (h.modPort n (fun p => { p with tryRate := p.tryRate + 1 })).emit (.lane n (.train ((h.port n).tryRate + 1)))
  else h.linkFault g n 4

def execTrainingAttemptTimeout (n : Nat) (s : State) : Host.Outcome State Fault Refusal := nextHub s (s.hub.trainingTimeout s.glob n)

/-- The 1 s in WAIT ends, and training starts again at RATE_MAX. -/
def Hub.trainingWaitEnd (h : Hub) (g : Glob) (n : Nat) : Hub :=
  if (h.port n).phase = .wait && h.laneActs g n then h.retrain n (.training true) else h

def execTrainingWaitEnd (n : Nat) (s : State) : Host.Outcome State Fault Refusal := nextHub s (s.hub.trainingWaitEnd s.glob n)

/-- An ENUM request is queued in Q1 (R227, R244, Table 10.4): SEQ 0, no retry timer. -/
def Hub.sendEnum (h : Hub) (g : Glob) (n : Nat) : Hub :=
  h.submit g n { type := 5, dest := 255, owner := .enum
                 payload := [0, 0] ++ leBytes 1 (tmTiles (h.tileMap n)) ++ [0] ++ leBytes 4 (h.port n).req }

/-- A tile's record as an enumeration starts: what it answered before is gone, and its upstream state with it (R244, R248). -/
def TileRec.fresh (t : TileRec) : TileRec :=
  { resend := t.resend, last := t.last, frame := t.frame, dup := t.dup }

/-- The tile records of a port as an enumeration starts. -/
def Hub.freshTiles (h : Hub) (n : Nat) : Hub :=
  h.modPort n (fun p => { p with tiles := (p.tiles.map (fun e => (e.1, e.2.fresh))).filter (fun e => decide (e.2 ≠ {})) })

/-- Enumeration of near port `n` starts: the tiles known before, and those that an enumeration cut short was to compare, are kept for comparison
(R244). -/
def Hub.enumStart (h : Hub) (g : Glob) (n : Nat) : Hub :=
  let known := h.enumerated n
  ((h.freshTiles n).modPort n (fun p => { p with
    enumTry := 1, enumDone := false, req := (p.req + 1) % 2 ^ 32, enumReq := some ((p.req + 1) % 2 ^ 32), before := (known ++ p.before).eraseDups })).sendEnum g n

/-- The link comes up (R231): events 0x01 and, below RATE_MAX, 0x04; the chain is enumerated, after a training of either of its ports (R244), which a STANDBY asks
of the ACTIVE (R370). -/
def Hub.nshLinkUp (h : Hub) (g : Glob) (n : Nat) : Hub :=
  if (h.port n).phase ≠ .training false || !h.laneActs g n then h
  else
    let r := (h.port n).tryRate
    let h1 := (h.modPort n (fun p => { p with phase := .up, rate := r, ceil := r, rxRate := r, lost := false })).nshEvent g n (1 + r * 256)
    let h2 := h1.raiseIf (decide (h.f (Reg.NSHn_CTL n) 2 1 < r)) g n (4 + r * 256)
    if h.originates (h.near n) then h2.enumStart g (h.near n) else (h2.freshTiles n).saddleSend (.enumRequest n)

def execNshLinkUp (n : Nat) (s : State) : Host.Outcome State Fault Refusal := nextHub s (s.hub.nshLinkUp s.glob n)

/-! ## Block lock (R232) -/

/-- Block lock lost for at most 1 ms and recovered: the frames lost count as one event. -/
def Hub.blockLockLoss (h : Hub) (n : Nat) : Hub := h.countIf ((h.port n).phase.carries && h.serving (.nsh n)) (Reg.NSHn_CNT_LOCK n) 31

def execBlockLockLoss (n : Nat) (s : State) : Host.Outcome State Fault Refusal := wokenWhen (Hub.naushHears n) 4 (fun s =>
    nextHub s (s.hub.blockLockLoss n)) s

/-- Block lock lost for more than 1 ms: a link fault with cause 0x01. -/
def Hub.lockLossTimeout (h : Hub) (g : Glob) (n : Nat) : Hub :=
  if (h.port n).phase.carries && h.laneActs g n then h.linkFault g n 1 else h

def execLockLossTimeout (n : Nat) (s : State) : Host.Outcome State Fault Refusal := wokenWhen (Hub.naushHears n) 4 (fun s =>
    nextHub s (s.hub.lockLossTimeout s.glob n)) s

/-- A received frame is discarded and counted (R226). -/
def Hub.nshReject (h : Hub) (n : Nat) (why : NshReject) : Hub :=
  if !(h.port n).phase.carries || !h.serving (.nsh n) then h
  else match why with
    | .crc => h.count (Reg.NSHn_CNT_CRC n) 31
    | .format => h.count (Reg.NSHn_CNT_FMT n) 31
    | .farEnd =>
      let h1 := h.count (Reg.NSHn_CNT_FAR n) 31
      if h.chainKind n = 1 then h1.setSaddle { h1.saddle with heardAt := some h.clock } else h1
    | .bufferFull => h.count (Reg.NSHn_CNT_RXOVR n) 31

def execNshFrameReject (n : Nat) (why : NshReject) (s : State) : Host.Outcome State Fault Refusal := wokenWhen (Hub.naushHears n) 4 (fun s =>
    nextHub s (s.hub.nshReject n why)) s

/-! ## PAUSE (R230) -/

/-- The holds of a port changed: what was released may leave, and event 0x06 is armed again for each queue no longer held. -/
def Hub.holdsChanged (h : Hub) (g : Glob) (n : Nat) : Hub :=
  (h.modPort n (fun p => { p with heldSaid := p.heldSaid &&& (2 * h.heldField n) })).pump g (h.near n)

/-- A PAUSE from tile `k` replaces its record whole; a zero time or an empty mask clears it. The hold runs, in units of 64 ns, from the end of the frame in
transmission (R230, Table 9.6). -/
def Hub.tilePause (h : Hub) (g : Glob) (n k mask time : Nat) : Hub :=
  if !(h.port n).phase.carries || !h.serving (.nsh n) then h
  else if 127 < k || 15 < mask then h.count (Reg.NSHn_CNT_FMT n) 31
  else
    let m := mask &&& 0xE
    let r := if time = 0 || m = 0 then (0, 0) else (m, 250 * h.clock + (-(h.port n).idle).toNat + 6400 * time)
    ((h.count (Reg.NSHn_CNT_PAUSE n) 31).modPort n (fun p => { p with holds := Sparse.set (0, 0) p.holds k r })).holdsChanged g n

def execTilePause (n k mask time : Nat) (s : State) : Host.Outcome State Fault Refusal := wokenWhen (Hub.naushHears n) 4 (fun s =>
    nextHub s (s.hub.tilePause s.glob n k mask time)) s

/-- A hold record reaches its end time; before that time nothing ends. -/
def Hub.tilePauseEnd (h : Hub) (g : Glob) (n k : Nat) : Hub :=
  if 250 * h.clock < (Sparse.get (0, 0) (h.port n).holds k).2 then h
  else (h.modPort n (fun p => { p with holds := Sparse.set (0, 0) p.holds k (0, 0) })).holdsChanged g n

def execTilePauseHoldEnd (n k : Nat) (s : State) : Host.Outcome State Fault Refusal := nextHub s (s.hub.tilePauseEnd s.glob n k)

/-- A queue held longer than HOLD_EVT raises event 0x06, once per hold. -/
def Hub.tileHoldEvent (h : Hub) (g : Glob) (n q : Nat) : Hub :=
  if h.serving (.nsh n) && h.heldQ n q && !bitOf (h.port n).heldSaid q && h.f (Reg.NSHn_PAUSE n) 7 0 != 0 then
    (h.modPort n (fun p => { p with heldSaid := p.heldSaid ||| 2 ^ q })).nshEvent g n (6 + q * 65536)
  else h

def execTileHoldEvent (n q : Nat) (s : State) : Host.Outcome State Fault Refusal := nextHub s (s.hub.tileHoldEvent s.glob n q)

/-! ## Rate shifts (R233 to R236) -/

/-- The rate that the port shifts to, if any (R235, R236). A RATE_MIN that a commit raised above CEIL is shifted to all the same (DESIGN CHOICE, log entry 31:
R236 asks for the shift, and R231 calls CEIL the highest rate reachable). -/
def Hub.shiftTarget (h : Hub) (n : Nat) : Option Nat :=
  let p := h.port n
  let t :=
    if !h.bit (Reg.NSHn_CTL n) 5 || (p.wantUp && p.rate != h.topRate n) then h.topRate n
    else if p.rate < h.f (Reg.NSHn_CTL n) 2 1 then h.f (Reg.NSHn_CTL n) 2 1
    else if h.f (Reg.NSHn_CTL n) 4 3 < p.rate then h.f (Reg.NSHn_CTL n) 4 3
    else if p.wantDown && p.rate < h.f (Reg.NSHn_CTL n) 4 3 then p.rate + 1
    else p.rate
  if t = p.rate then none else some t

/-- The time in which a shifting port sends no frame, 40 µs, and what a downshift needs before the next frame, 45 µs, in 0.01 ns. -/
def shiftTime : Nat := 4000000
def downshiftTime : Nat := 4500000

/-- A shift to `t` may start now (R234), once the frame being sent has ended: never in active lines, and only where it ends before them. In blanking a downshift waits until the frame's FLIP and
TIME have left and has 45 µs to the next frame; an upshift starts in the first blanking line, if it will end before the FLIP deadline, or after the FLIP,
and ends before the next frame. -/
def Hub.shiftAllowed (h : Hub) (n t : Nat) : Bool :=
  match h.interval n with
  | .active => false
  | .free => h.endsBefore n shiftTime
  | .blank =>
    let pg := h.portGroup n
    let flipped := (h.pipe (h.near n)).flipped
    let flipped := flipped && !(h.port n).flipWaits
    if t < (h.port n).rate then (flipped || (h.group pg).line == h.activeLines pg) && h.endsBefore n shiftTime && h.sparesFlip n shiftTime
    else flipped && (h.port n).timeSent && h.endsBefore n downshiftTime

/-- A shift starts once the frame being sent has ended: SHIFT leaves, whose countdown the manual leaves open, and the port sends no frame until it has ended.
None starts while another runs (R236). -/
def Hub.rateShift (h : Hub) (g : Glob) (n : Nat) : Hub :=
  if !h.laneOpen g n || (h.port n).phase ≠ .up then h
  else match h.shiftTarget n with
    | none => h.modPort n (fun p => { p with wantUp := false, wantDown := false })
    | some t =>
      if h.shiftAllowed n t then
        ((h.modPort n (fun p => { p with
          phase := .shifting, shiftTo := t, shiftAt := h.clock + ceilDiv (-p.idle).toNat 250, wantUp := false, wantDown := false, low := if t < p.rate then 0 else p.low })).drew 1).emit
          (.lane n (.shift t (h.freeAt 0 % 65536)))
      else h

def execRateShift (n : Nat) (s : State) : Host.Outcome State Fault Refusal := nextHub s (s.hub.rateShift s.glob n)

/-- 40 µs after the first SHIFT block the port goes on at the new rate (R233); its receiver may still lack block lock. -/
def Hub.shiftResumes (h : Hub) (g : Glob) (n : Nat) : Hub :=
  let p := h.port n
  if p.phase == .shifting && p.rate != p.shiftTo && decide (p.shiftAt + 40 * cyclesPerUs ≤ h.clock)
  then (h.modPort n (fun p => { p with rate := p.shiftTo })).pump g (h.near n) else h

/-- The receiver has block lock at the new rate, and the shift is complete, 40 µs after its start at the earliest (R233): count, event 0x05, the hint bit
clears after an upshift, and the port measures anew. At a port that does not shift itself, the receiver has followed the other end. -/
def Hub.rateShiftComplete (h : Hub) (g : Glob) (n : Nat) : Hub :=
  let p := h.port n
  if !h.serving (.nsh n) then h
  else if p.phase ≠ .shifting then h.modPort n (fun p => { p with followAt := none })
  else if h.clock < p.shiftAt + 40 * cyclesPerUs then h
  else
    let h1 := h.modPort n (fun p => { p with
      phase := .up, rate := p.shiftTo, rxRate := if h.chainKind n = 0 then p.shiftTo else p.rxRate, measuring := false, rtFails := 0, followAt := none
      wantUp := p.wantUp && p.shiftTo != h.topRate n })
    let h2 := (h1.count (Reg.NSHn_CNT_SHIFT n) 31).nshEvent g n (5 + p.shiftTo * 256)
    (if p.shiftTo = h.topRate n then h2.hintEnds n else h2).pump g (h.near n)

def execRateShiftComplete (n : Nat) (s : State) : Host.Outcome State Fault Refusal := nextHub s (s.hub.rateShiftComplete s.glob n)

/-- Block lock is not regained 1 ms after a shift of the port or of the end that its receiver follows: a link fault with cause 0x05. -/
def Hub.shiftLockTimeout (h : Hub) (g : Glob) (n : Nat) : Hub :=
  let p := h.port n
  let waited (t : Nat) : Bool := decide (t + cyclesPerMs ≤ h.clock)
  if p.phase.carries && h.laneActs g n && ((p.phase == .shifting && waited p.shiftAt) || p.followAt.any waited) then h.linkFault g n 5 else h

def execShiftLockTimeout (n : Nat) (s : State) : Host.Outcome State Fault Refusal := nextHub s (s.hub.shiftLockTimeout s.glob n)

/-- On a chain of kind 1 or 2 the receiver follows the SHIFT of the other end. -/
def Hub.shiftReceive (h : Hub) (n rate : Nat) : Hub :=
  if h.chainKind n = 0 || !(h.port n).phase.carries || !h.serving (.nsh n) then h
  else h.modPort n (fun p => { p with rxRate := rate % 4, followAt := some h.clock })

def execShiftReceive (n rate : Nat) (s : State) : Host.Outcome State Fault Refusal := wokenWhen (Hub.naushHears n) 4 (fun s =>
    nextHub s (s.hub.shiftReceive n rate)) s

/-- One bit of GLB_NSH_HINT written 1 (R235, R236): a port at CEIL only restarts its downshift count, one that is down ends the request. -/
def Hub.hint (h : Hub) (n : Nat) : Hub :=
  let p := h.port n
  if !p.phase.carries then h
  else if p.phase = .up && p.rate = h.topRate n then h.modPort n (fun p => { p with low := 0 })
  else (h.putBit Reg.GLB_NSH_HINT n true).modPort n (fun p => { p with wantUp := true })

/-- A write to GLB_NSH_HINT. -/
def Hub.hintWrite (h : Hub) (value : Nat) : Hub := (List.range 32).foldl (fun h n => if bitOf value n then h.hint n else h) h

def execGlbNshHint (who : Requester) (value : Nat) (s : State) : Host.Outcome State Fault Refusal := reached who (fun s =>
    nextHub s (s.hub.tryWrite s.glob who Reg.GLB_NSH_HINT (fun h => h.hintWrite value))) s

/-! ## Round-trip measurement and TIME (R106 to R108) -/

/-- One MEASURE frame goes (R106, Table 10.11). -/
def Hub.roundSend (h : Hub) (g : Glob) (n i : Nat) : Hub := h.sendQ0 g n 0 255 0 ([1] ++ leBytes 1 i ++ zeros 30)

/-- The rounds start: sixteen MEASURE frames (Table 10.11). -/
def Hub.roundsStart (h : Hub) (g : Glob) (n : Nat) : Hub :=
  (List.range 16).foldl (fun h i => h.roundSend g n i) (h.modPort n (fun p => { p with measuring := true, stamped := [], rounds := [] }))

/-- The round-trip values of a tile. -/
def Port.roundTrips (p : Port) (k : Nat) : List Int := (Sparse.get [] p.rounds k).map (·.2)

/-- The mean of the rounds of a tile, twice over and with the correction of R106 added: (numerator, denominator) of d. -/
def roundMean (rs : List Int) (corr : Int) : Int × Nat :=
  let v := rs.length
  let kept := ((rs.mergeSort (fun a b => decide (a ≤ b))).drop (v / 4)).take (v - 2 * (v / 4))
  (kept.sum + corr * (kept.length : Int), 2 * kept.length)

/-- The delay of a tile; where it is not a whole number of 2^-16 ns, which way it is rounded is open. One that
the corrections make negative is written modulo 2^32, as a signed number would be (DESIGN CHOICE, log entry 24: R106 does not say). -/
def Hub.tileDelay (h : Hub) (n : Nat) (rs : List Int) : Nat :=
  let m := roundMean rs (h.s32 (Reg.NSHn_EGR_ASYM n) - h.s32 (Reg.NSHn_ING_ASYM n))
  let q := m.1 / (m.2 : Int)
  unsigned 32 (if m.1 % (m.2 : Int) = 0 then q else q + (h.freeAt 0 % 2 : Nat))

/-- The delay of one tile is written and sent to it, when at least eight rounds were valid. -/
def Hub.delayTile (h : Hub) (g : Glob) (n k : Nat) : Hub :=
  let rs := (h.port n).roundTrips k
  if rs.length < 8 then h
  else
    let d := h.tileDelay n rs
    (((h.drew 1).wrN (Reg.TIM_NDLYn_k n k) d).sendQ0 g n 0 k 0 ([2, 0] ++ leBytes 1 (h.endOf g n) ++ [0] ++ leBytes 4 d ++ zeros 24))

/-- The rounds end (R107): every tile with eight valid rounds takes its delay; a third failed attempt is a link fault with cause 0x03. -/
def Hub.roundsEnd (h : Hub) (g : Glob) (n : Nat) : Hub :=
  let ks := h.enumerated (h.near n)
  let good := ks.all (fun k => decide (8 ≤ ((h.port n).roundTrips k).length))
  let h1 := (ks.foldl (fun h k => h.delayTile g n k) h).modPort n (fun p => { p with
    measuring := false, stamped := [], rounds := [], q0 := p.q0.filter (fun f => !f.isMeasure) })
  if good then h1.modPort n (fun p => { p with measured := true, rtFails := 0 })
  else if (h.port n).rtFails < 2 then h1.modPort n (fun p => { p with rtFails := p.rtFails + 1 })
  else (h1.modPort n (fun p => { p with rtFails := 0 })).linkFault g n 3

/-- The round-trip measurement of a port: this command first starts the rounds, and, once they run, ends them (assumption log). After the first
measurement the rounds run only in blanking, GAP, self-refresh or with the pipe disabled (R107). -/
def Hub.roundTrip (h : Hub) (g : Glob) (n : Nat) : Hub :=
  if !h.laneOpen g n then h
  else if (h.port n).measuring then h.roundsEnd g n
  else if (h.port n).measured && h.interval n == .active then h
  else h.roundsStart g n

def execRoundTripMeasurement (n : Nat) (s : State) : Host.Outcome State Fault Refusal := nextHub s (s.hub.roundTrip s.glob n)

/-- A broadcast BASE TIME frame (R108). -/
def Hub.sendTime (h : Hub) (g : Glob) (n : Nat) : Hub := h.sendQ0 g n 0 255 0 (h.timePayload n)

/-- TIME leaves a port in blanking or self-refresh. -/
def Hub.timeBaseSend (h : Hub) (g : Glob) (n : Nat) : Hub :=
  let pg := h.portGroup n
  let ok := match (h.group pg).phase with
    | .running => decide (h.activeLines pg ≤ (h.group pg).line)
    | .selfRefresh => true
    | _ => false
  if h.groupOn pg && ok && h.laneOpen g n then h.sendTime g n else h

def execTimeBaseSend (n : Nat) (s : State) : Host.Outcome State Fault Refusal := nextHub s (s.hub.timeBaseSend s.glob n)

end Sys2Proof.Machine
end

