-- ==== Sys2Proof/Machine/CalOps.lean ====
section
/-! DEFINITION. The calibration store and its arithmetic, and the transitions of a pipe (spec/08_calibration.md). -/

namespace Sys2Proof.Machine

/-- The world of SCN and CAL (Table 17.1). -/
def Hub.scanSecure (h : Hub) : Bool := h.bit Reg.SEC_BLKWORLD 1

/-- An access of CAL to DRAM leaves its violations (R144, R406). -/
def Hub.calLooks (h : Hub) (g : Glob) (m : Memory) (write : Bool) (a n : Nat) : Hub := h.dramViolation g m h.scanSecure write a n 0x77

/-! ## The store (R195, R196) -/

/-- The DRAM offset of bank `b` of a pipe, of a gain word and of a matrix record. -/
def Hub.bankBase (h : Hub) (p b : Nat) : Nat := h.calBase p + b * h.calSlots p * 557056
def Hub.gainAddr (h : Hub) (p b t d : Nat) : Nat := h.bankBase p b + t * 557056 + 4 * d
def Hub.matrixAddr (h : Hub) (p b t i : Nat) : Nat := h.bankBase p b + t * 557056 + 262144 + 18 * i

/-- The block that destination pixel `d` of a tile of row width `w` belongs to (R196). -/
def calBlock (w d : Nat) : Nat := if w = 0 then 0 else d / w / 4 * ceilDiv w 4 + d % w / 4

/-- The number of blocks of a tile (R196). -/
def calBlocks (w px : Nat) : Nat := ceilDiv w 4 * ceilDiv (ceilDiv px w) 4

/-- The gains, code and matrix of a pixel, and whether a read of them was poisoned. -/
structure Coef where
  gains  : List Nat
  code   : Nat
  matrix : List Int
  poison : Bool
deriving DecidableEq, Repr

/-- The coefficients of an invalid slot (R198): unit gains, CODE 0, identity. -/
def unitGains : List Nat := [512, 512, 512]
def identity : List Int := [8192, 0, 0, 0, 8192, 0, 0, 0, 8192]

/-- The gains of a gain word (Table 8.2). -/
def gainsOf (w : Nat) : List Nat := [fieldOf w 9 0, fieldOf w 19 10, fieldOf w 29 20]

/-- The coefficients of a matrix record (Table 8.3). -/
def matrixOf (bs : List Byte) : List Int := (List.range 9).map (fun i => signed 16 (leAt bs (2 * i) 2))

/-- The coefficients of a pixel in one bank, under the VALID masks given. -/
def Hub.coefAt (h : Hub) (m : Memory) (p b gv mv t d w : Nat) : Coef :=
  let gr := if bitOf gv t then h.readDram m h.scanSecure (h.gainAddr p b t d) 4 else { bytes := leBytes 4 0x20080200, poison := false }
  let mr := h.readDram m h.scanSecure (h.matrixAddr p b t (calBlock w d)) 18
  { gains := gainsOf (ofLe gr.bytes), code := fieldOf (ofLe gr.bytes) 31 30
    matrix := if bitOf mv t then matrixOf mr.bytes else identity
    poison := gr.poison || (bitOf mv t && mr.poison) }

/-- A value of frame `j` of `k` of a transition (R205). -/
def slewed (old new : Int) (j k : Nat) : Int := old + ((j : Int) * (new - old)).tdiv (k : Int)

/-- The coefficients in force for a pixel: while a transition runs, those between the two banks, with CODE from the target (R205, R206). -/
def Hub.coef (h : Hub) (m : Memory) (p t d : Nat) : Coef :=
  let c := h.calPipe p
  let w := tmWidth (h.mapOf p) t
  let old := h.coefAt m p c.bank c.gForce c.mForce t d w
  if c.phase = .slewing then
    let new := h.coefAt m p (1 - c.bank) c.gTarget c.mTarget t d w
    { gains := (List.zipWith (fun (a b : Nat) => slewed a b c.j c.k) old.gains new.gains).map Int.toNat
      code := new.code, matrix := List.zipWith (fun a b => slewed a b c.j c.k) old.matrix new.matrix, poison := old.poison || new.poison }
  else old

/-- The matrix and gain stage (R199) on three u0.20 values. -/
def calStage (c : Coef) (x : List Nat) : List Nat :=
  if c.code = 1 then x
  else (List.range 3).map (fun i =>
    let s : Int := (List.range 3).foldl (fun a k => a + c.matrix.getD (3 * i + k) 0 * ((x.getD k 0 : Nat) : Int)) 0
    (clampInt 0 (2 ^ 20 - 1) ((s * ((c.gains.getD i 0 : Nat) : Int) + 2 ^ 21) / 2 ^ 22)).toNat)

/-! ## Transitions (R204 to R208) -/

/-- The largest steps that one slot needs: over its gains, and over its matrix coefficients. -/
def Hub.slotDelta (h : Hub) (m : Memory) (p t : Nat) : Nat × Nat :=
  let c := h.calPipe p
  let dg := (List.range 65536).foldl (fun a d =>
    let o := h.coefAt m p c.bank c.gForce 0 t d 0
    let n := h.coefAt m p (1 - c.bank) c.gTarget 0 t d 0
    (List.zipWith (fun x y => ((x : Int) - (y : Int)).natAbs) o.gains n.gains).foldl max a) 0
  let dm := (List.range 16384).foldl (fun a i =>
    let rec_ (b mv : Nat) : List Int :=
      if bitOf mv t then matrixOf (h.readDram m h.scanSecure (h.matrixAddr p b t i) 18).bytes else identity
    (List.zipWith (fun x y => (x - y).natAbs) (rec_ c.bank c.mForce) (rec_ (1 - c.bank) c.mTarget)).foldl max a) 0
  (dg, dm)

/-- The slots whose effective values may differ between the banks. -/
def CalPipe.differing (c : CalPipe) (slots : Nat) : List Nat :=
  (List.range slots).filter (fun t => c.touched.contains t || bitOf c.gForce t != bitOf c.gTarget t || bitOf c.mForce t != bitOf c.mTarget t)

/-- The length K of a transition (R205). -/
def Hub.slewLength (h : Hub) (m : Memory) (p : Nat) : Nat :=
  let pg := h.pipeGroup p
  if h.bit (Reg.CAL_PGg_CTL pg) 0 && !(h.calPipe p).slewOnly then 1
  else
    let slew := h.f (Reg.CAL_PGg_CTL pg) 11 2
    ((h.calPipe p).differing (h.calSlots p)).foldl (fun k t =>
      let d := h.slotDelta m p t
      max k (max (ceilDiv d.1 slew) (ceilDiv d.2 (64 * slew)))) 1

/-- The target comes into force outside the frames of a transition, and the copy follows: the slots written differ from the last frame scanned (R189, R208). -/
def CalPipe.finishNow (c : CalPipe) : CalPipe :=
  { c with phase := .copying, bank := 1 - c.bank, j := 0, gForce := c.gTarget, mForce := c.mTarget, start := false, slewOnly := false
           forced := (c.lastTouched ++ c.touched ++ c.forced).eraseDups, lastTouched := [], touched := [] }

/-- The target comes into force, and the copy follows (R207). -/
def CalPipe.finish (c : CalPipe) : CalPipe :=
  { c with phase := .copying, bank := 1 - c.bank, j := 0, gForce := c.gTarget, mForce := c.mTarget, start := false, slewOnly := false
           lastTouched := [], touched := [] }

/-- A transition begins with the frame that begins now. -/
def Hub.calBegin (h : Hub) (m : Memory) (p : Nat) : Hub :=
  let k := h.slewLength m p
  h.modCal p (fun c => { c with phase := .slewing, k := k, j := 1, start := false, lastTouched := c.touched, touched := [] })

/-- What a frame boundary does to the calibration of a pipe whose last frame was scanned, at time `t48` of the group's base: a transition goes
on to its next frame, or, its last frame scanned, ends; one that was asked for begins (R204, R205, R207, R218). -/
def Hub.calBoundary (h : Hub) (m : Memory) (p t48 : Nat) (scanned : Bool) : Hub :=
  let c := h.calPipe p
  match c.phase with
  | .slewing => if !scanned then h else if c.j < c.k then h.modCal p (fun c => { c with j := c.j + 1 }) else h.modCal p CalPipe.finish
  | .idle | .loaded => if c.start && c.foldAt ≤ h.onClock (h.pipeGroup p) t48 then h.calBegin m p else h
  | _ => h

/-- A transition is cut short: the target comes into force now (R208). -/
def Hub.calForce (h : Hub) (p : Nat) : Hub :=
  if (h.calPipe p).phase = .slewing then h.modCal p CalPipe.finishNow else h

/-- The tiles whose calibration differs in this frame: all that were written since the previous transition, while it runs (R206), and those whose target
was forced since the last frame scanned. -/
def Hub.calDiffers (h : Hub) (p t : Nat) : Bool :=
  (h.calPipe p).forced.contains t || ((h.calPipe p).phase == .slewing && (h.calPipe p).lastTouched.contains t)

end Sys2Proof.Machine
end

