-- ==== Sys2Proof/Machine/Pixels.lean ====
section
/-! DEFINITION. The pixel path of a scan-out pipe, from the frame buffer to a PIX payload (Table 7.3, R173, R175, R176, R178, R199, R252). -/

namespace Sys2Proof.Machine

/-- Bytes per pixel of a frame-store format (Table 6.8). -/
def fmtBytes (fmt : Nat) : Nat := if fmt = 0 then 2 else if fmt = 1 then 3 else 4

/-- The source format of a pipe. -/
def Hub.srcFmt (h : Hub) (p : Nat) : Nat := h.f (Reg.SCNp_CTL p) 8 7

/-- The DRAM offset of a source pixel in the buffer being scanned (R160). -/
def Hub.srcAddr (h : Hub) (p : Nat) (px : WalkPx) : Nat :=
  (h.pipe p).cur + px.y * h.f (Reg.SCNp_SRC_PITCH p) 17 0 + px.x * fmtBytes (h.srcFmt p)

/-- The frame-store bytes of a source pixel. -/
def Hub.srcRead (h : Hub) (m : Memory) (p : Nat) (px : WalkPx) : DramRead :=
  h.readDram m h.scanSecure (h.srcAddr p px) (fmtBytes (h.srcFmt p))

/-- A code of `c` bits as a 12-bit index (Table 7.3). -/
def lutIndex (c code : Nat) : Nat := (2 * code * 4095 + (2 ^ c - 1)) / (2 * (2 ^ c - 1))

/-- The three indices of a stored pixel, R first (Table 6.8). -/
def unpackPixel (fmt w : Nat) : List Nat :=
  if fmt = 0 then [lutIndex 5 (fieldOf w 15 11), lutIndex 6 (fieldOf w 10 5), lutIndex 5 (fieldOf w 4 0)]
  else if fmt = 3 then [lutIndex 10 (fieldOf w 29 20), lutIndex 10 (fieldOf w 19 10), lutIndex 10 (fieldOf w 9 0)]
  else [lutIndex 8 (fieldOf w 23 16), lutIndex 8 (fieldOf w 15 8), lutIndex 8 (fieldOf w 7 0)]

/-- The FLAG of a P32H pixel. -/
def pixelFlag (fmt w : Nat) : Nat := if fmt = 3 then fieldOf w 31 30 else 0

/-- The curve that a pixel uses (R175). -/
def Hub.curveOf (h : Hub) (p w : Nat) : Nat :=
  if h.srcFmt p = 3 then (if pixelFlag 3 w = 1 then 1 else 0) else h.f (Reg.SCNp_CTL p) 9 9

/-- A curve entry; the manual gives no value to a pipe that has no curves, so that value is free. -/
def Hub.lutEntry (h : Hub) (p curve i : Nat) : Nat :=
  let t := h.table (tblLut p)
  if t.isEmpty then h.freeAt (4096 * curve + i) % 2 ^ 20 else leAt t (16384 * curve + 4 * i) 4 % 2 ^ 20

/-- The dither matrix D (Table 7.4). -/
def ditherD (i j : Nat) : Nat := [0, 8, 2, 10, 12, 4, 14, 6, 3, 11, 1, 9, 15, 7, 13, 5].getD (4 * i + j) 0

/-- The threshold t, in thirty-seconds (R176). -/
def Hub.ditherT (h : Hub) (p line pos : Nat) : Nat :=
  let f := (h.group (h.pipeGroup p)).frame
  match h.f (Reg.SCNp_CTL p) 6 5 with
  | 1 => 2 * ditherD (line % 4) (pos % 4) + 1
  | 2 => 2 * ditherD ((line + f) % 4) ((pos + f) % 4) + 1
  | _ => 16

/-- The bits of a link code: 12 in L36, 16 in L48. -/
def Hub.linkBits (h : Hub) (p : Nat) : Nat := if h.bit (Reg.SCNp_CTL p) 4 then 12 else 16

/-- Brightness (Table 7.3). -/
def Hub.bright (h : Hub) (p x : Nat) : Nat := x * h.f (Reg.SCNp_BRIGHT p) 16 0 / 65536

/-- Dither and quantise (R176). -/
def quantise (b x t : Nat) : Nat := min (2 ^ b - 1) ((32 * x * (2 ^ b - 1) + t * 2 ^ 20) / (32 * 2 ^ 20))

/-- A pixel as the pipe sends it. -/
structure PixelOut where
  codes    : List Nat
  affected : Bool
deriving DecidableEq, Repr

/-- Whether the pipe applies matrix and gain. -/
def Hub.calOn (h : Hub) (p : Nat) : Bool := h.bit (Reg.CAL_PIPEp_CTL p) 0

/-- The drive of a pixel, up to and including brightness, and whether its calibration was poisoned (R199, R200). `none` is a DEAD pixel. -/
def Hub.pixelDrive (h : Hub) (m : Memory) (p t d w : Nat) : Option (List Nat) × Bool × Nat :=
  let x := (unpackPixel (h.srcFmt p) w).map (fun i => h.lutEntry p (h.curveOf p w) i)
  let c := if h.calOn p then h.coef m p t d else { gains := unitGains, code := 1, matrix := identity, poison := false }
  if c.code = 2 || (h.pipe p).dead.contains (t, d) then (none, c.poison, 2)
  else (some ((calStage c x).map (h.bright p)), c.poison, c.code)

/-- The span that holds position `pos` of a line, counted within the line. -/
def spanAt (pos : Nat) : List Span → Nat
  | [] => 0
  | s :: ss => if pos < s.count then 0 else 1 + spanAt (pos - s.count) ss

/-- The bytes of the line table that a line rests on: its own entry, and that of the next line where there is one (R172). -/
def lineEntry (b : List Byte) (line : Nat) : Nat := if line + 1 < rmLines b then 8 else 4

/-- The read of the region map that a pixel rests on is poisoned: the entry of its line, or its span (R172, R178). -/
def Hub.regionBad (h : Hub) (m : Memory) (p line pos : Nat) : Bool :=
  let b := h.regionMap p
  let id := tblRegion p
  m.anyPoison && (h.tableBad m id (32 + 4 * line) (lineEntry b line) ||
    h.tableBad m id (rmBase b + 16 * (rmFirst b line + spanAt pos (rmLine b line))) 16)

/-- The whole path of one pixel. -/
def Hub.pixelOut (h : Hub) (m : Memory) (p line pos : Nat) (px : WalkPx) : PixelOut :=
  let r := h.srcRead m p px
  let d := h.pixelDrive m p px.tile px.dst (ofLe r.bytes)
  { codes := match d.1 with
      | none => [0, 0, 0]
      | some v => v.map (fun x => quantise (h.linkBits p) x (h.ditherT p line pos))
    affected := r.poison || d.2.1 || (h.pipe p).lutBad || h.regionBad m p line pos }

/-! ## PIX payloads (Table 10.8, R178, R252) -/

/-- The maximal runs of affected pixels of a block: offset and length. -/
def runsOf (i : Nat) (cur : Option (Nat × Nat)) : List Bool → List (Nat × Nat)
  | [] => cur.toList
  | true :: bs => runsOf (i + 1) (some (match cur with
      | some (o, n) => (o, n + 1)
      | none => (i, 1))) bs
  | false :: bs => cur.toList ++ runsOf (i + 1) none bs

/-- At most 255 REPEAT ranges: the 255th extends to the end of the last affected pixel (R178). -/
def repeatRanges (affected : List Bool) : List (Nat × Nat) :=
  let rs := runsOf 0 none affected
  if rs.length ≤ 255 then rs
  else
    let s := (rs.getD 254 (0, 0)).1
    let last := rs.getLastD (0, 0)
    rs.take 254 ++ [(s, last.1 + last.2 - s)]

/-- A pixel index lies in one of the ranges. -/
def inRanges (rs : List (Nat × Nat)) (i : Nat) : Bool := rs.any (fun r => decide (r.1 ≤ i ∧ i < r.1 + r.2))

/-- The pixels' codes in L36: pairs in nine bytes, a last odd pixel in five. -/
def packL36 : List (List Nat) → List Byte
  | [] => []
  | [a] => leBytes 5 (a.getD 0 0 + a.getD 1 0 * 2 ^ 12 + a.getD 2 0 * 2 ^ 24)
  | a :: b :: rest =>
    leBytes 9 (a.getD 0 0 + a.getD 1 0 * 2 ^ 12 + a.getD 2 0 * 2 ^ 24 + b.getD 0 0 * 2 ^ 36 + b.getD 1 0 * 2 ^ 48 + b.getD 2 0 * 2 ^ 60) ++
      packL36 rest

/-- The pixels' codes in L48. -/
def packL48 (px : List (List Nat)) : List Byte := (px.map (fun c => (c.map (leBytes 2)).flatten)).flatten

/-- The payload of a PIX frame. -/
def pixPayload (l36 : Bool) (pg dst : Nat) (px : List PixelOut) (ranges : List (Nat × Nat)) : List Byte :=
  let vals := ((List.range px.length).zip px).filterMap (fun e => if inRanges ranges e.1 then none else some e.2.codes)
  leBytes 2 dst ++ leBytes 2 px.length ++ leBytes 1 (b2n l36) ++ leBytes 1 ranges.length ++ leBytes 1 pg ++ [0] ++
    (ranges.map (fun r => leBytes 2 r.1 ++ leBytes 2 r.2)).flatten ++ (if l36 then packL36 vals else packL48 vals)

/-- The full length of a PIX payload of `n` pixels (R225). -/
def pixLen (l36 : Bool) (n : Nat) : Nat := if l36 then 8 + ceilDiv (9 * n) 2 else 8 + 6 * n

end Sys2Proof.Machine
end

