-- ==== Sys2Proof/Machine/Scan.lean ====
section
/-! DEFINITION. Presentation groups, frame buffers and arming, change-only delivery, and the commands of scan-out (spec/07_scanout.md). -/

namespace Sys2Proof.Machine

/-- Event `ev` of group `pg`, for pipe `p` (R194). -/
def Hub.pgEvent (h : Hub) (g : Glob) (pg ev p : Nat) : Hub :=
  h.raise g (48 + pg) (ev + p * 256 + (h.group pg).frame % 65536 * 65536)

/-- The raster of a group. -/
def Hub.vTotal (h : Hub) (pg : Nat) : Nat := h.f (Reg.PGg_RASTER pg) 13 0
def Hub.applyLineOf (h : Hub) (pg : Nat) : Nat :=
  if h.f (Reg.PGg_APPLY pg) 13 0 = 0 then h.activeLines pg else h.f (Reg.PGg_APPLY pg) 13 0

/-- The block of a pipe serves, and the hub does not treat the pipe's port as powered off (R18). -/
def Hub.scanServes (h : Hub) (p : Nat) : Bool := h.serving (.scn p) && (p < 16 || h.domainOn 8)

/-- A pipe scans: it is enabled in an enabled group, not stopped, and the hub is not in the safe state (R26). -/
def Hub.scans (h : Hub) (g : Glob) (p : Nat) : Bool :=
  h.pipeOn p && h.groupOn (h.pipeGroup p) && !(h.pipe p).stopped && h.scanServes p && !g.safe

/-! ## Arms (R179 to R183) -/

/-- The size of the buffers of a pipe, and whether an address may be one (R182). -/
def Hub.bufSize (h : Hub) (p : Nat) : Nat := h.f (Reg.SCNp_SRC_PITCH p) 17 0 * h.f (Reg.SCNp_SRC_GEOM p) 29 16
def Hub.bufOk (h : Hub) (p a : Nat) : Bool := a % 4096 == 0 && h.inDram a (h.bufSize p)

/-- APPLY_LINE of the frame in progress has begun: its base has reached that line, in this PCLK cycle or before (R166, R180), or the raster has. -/
def Hub.applyBegun (h : Hub) (pg : Nat) : Bool :=
  let G := h.group pg
  G.applied || ((G.phase == .running || G.phase == .selfRefresh) &&
    decide (G.start + h.applyLineOf pg * h.period48 pg / h.vTotal pg ≤ h.now48 (h.groupTb pg)))

/-- The frame that an arm landing now is scanned as (R180). -/
def Hub.armFrameOf (h : Hub) (pg : Nat) : Nat :=
  let G := h.group pg
  (match G.phase with
    | .gap => if G.first then h.gridIndex pg G.next + 1 else G.frame + 2
    | _ => if h.applyBegun pg then G.frame + 2 else G.frame + 1) % 2 ^ 32

/-- The places of R181 in the order of the arms that land in one PCLK cycle. That of the JTAG port and of the firmware, which the rule does not name, is
that of BAR0 (DESIGN CHOICE, log entry 29). -/
def armRank : Requester → Nat
  | .engine e => 2 + e
  | _ => 1
def frameArmRank : Nat := 0
def ingestArmRank : Nat := 32

/-- The arm of a pipe takes effect: its buffer is scanned from the next frame, and the ACTIVE tells the STANDBY (R368). -/
def Hub.takeArm (h : Hub) (pg p : Nat) (a : Arm) : Hub :=
  let h1 := h.setPipe p { h.pipe p with pend := none, next := some a }
  if h.mirrors p then h1.saddleSend (.armRecord p (((h.group pg).frame + 1) % 2 ^ 32) a) else h1

/-- A buffer comes into force outside the raster (R183), and the ACTIVE tells the STANDBY, with the frame number of Table 2.4 for none (R368). -/
def Hub.forceArm (h : Hub) (p : Nat) (a : Arm) : Hub :=
  let h1 := h.setPipe p { h.pipe p with next := none, cur := a.addr }
  if h.mirrors p then h1.saddleSend (.armRecord p (2 ^ 32 - 1) a) else h1

/-- APPLY_LINE for one pipe: its pending arm takes effect, unless it landed after the line had begun, or a partner's arm records decide for it, of whose absence
an ingest arm of the hub's own may make up (R180, R368, R369). -/
def Hub.applyArm (h : Hub) (pg p : Nat) : Hub :=
  match (h.pipe p).pend with
  | none => h
  | some a =>
    if (h.pipe p).armFrame == ((h.group pg).frame + 2) % 2 ^ 32 then h
    else if h.originates p then h.takeArm pg p a
    else if a.source.isSome && (h.pipe p).fallback.isNone then h.setPipe p { h.pipe p with fallback := some a } else h

/-- An arm lands on a pipe: the hub, the frame that will show it, and whether it superseded one. A disabled pipe or group takes it at once, but on a STANDBY a
pipe of a kind 1 port takes none into force (R364). Of two that land in one PCLK cycle the later in the order of R181 is the one that counts, and the other is
superseded. An arm pending from before takes effect where APPLY_LINE begins in this cycle or has begun (R180). -/
def Hub.landArm (h : Hub) (p rank : Nat) (a : Arm) : Hub × Nat × Bool :=
  let pg := h.pipeGroup p
  if !h.pipeOn p || !h.groupOn pg then
    let x := h.pipe p
    let first := x.pendAt.1 == h.clock && decide (rank < x.pendAt.2)
    let h1 := h.setPipe p { x with pendAt := if first then x.pendAt else (h.clock, rank), moved := false, armFrame := 2 ^ 32 - 1 }
    (if first || !h.originates p then h1 else h1.forceArm p a, 2 ^ 32 - 1, false)
  else
    let h1 := if h.applyBegun pg then h.applyArm pg p else h
    let x := h1.pipe p
    let sup := x.pend.isSome
    let same := sup && x.pendAt.1 == h.clock
    let first := same && decide (rank < x.pendAt.2)
    let old := if same then x.hadOld else sup
    ((h1.setPipe p { x with
        pend := if first then x.pend else some a, pendAt := if first then x.pendAt else (h.clock, rank), moved := false
        armsIn := rank :: (if same then x.armsIn else []), hadOld := old
        superseded := if sup then satInc 16 x.superseded else x.superseded, armFrame := h.armFrameOf pg
      }).groupTrigger pg, h.armFrameOf pg, old || (same && x.armsIn.any (fun r => decide (r ≤ rank))))

/-- An arm through a register, or by ingest: one that breaks R182 has no effect, counts, and raises event 0x06. -/
def Hub.armByRegister (h : Hub) (g : Glob) (p rank : Nat) (a : Arm) : Hub :=
  if h.bufOk p a.addr then (h.landArm p rank a).1
  else (h.setPipe p { h.pipe p with armErr := satInc 8 (h.pipe p).armErr }).pgEvent g (h.pipeGroup p) 6 p

/-- The shadow address (R179). -/
def Hub.shadow (h : Hub) (p : Nat) : Nat := h.f (Reg.SCNp_FB_ADDR_LO p) 31 12 * 4096 + h.f (Reg.SCNp_FB_ADDR_HI p) 3 0 * 2 ^ 32

/-- SCNp_FB_ARM.GO written 1. -/
def Hub.fbArmGo (h : Hub) (g : Glob) (p rank : Nat) : Hub := h.armByRegister g p rank { addr := h.shadow p }

def execFbArmGo (who : Requester) (p : Nat) (s : State) : Host.Outcome State Fault Refusal := reached who (fun s =>
    nextHub s (s.hub.tryWrite s.glob who (Reg.SCNp_FB_ARM p) (fun h => h.fbArmGo s.glob p (armRank who)))) s

/-- SCNp_FB_ARM.CLR written 1. -/
def Hub.fbArmClr (h : Hub) (p : Nat) : Hub :=
  (((h.setPipe p { h.pipe p with armErr := 0, superseded := 0 }).wrN (Reg.SCNp_SUBST p) 0).wrN (Reg.SCNp_LATE p) 0).wrN (Reg.SCNp_FLAG_ERR p) 0

def execFbArmClr (who : Requester) (p : Nat) (s : State) : Host.Outcome State Fault Refusal := reached who (fun s =>
    nextHub s (s.hub.tryWrite s.glob who (Reg.SCNp_FB_ARM p) (fun h => h.fbArmClr p))) s

/-- FRAME_ARM (R182). One that meets both conditions ends with INVALID (DESIGN CHOICE, log entry 29: R182 gives no order); one for a pipe that has faulted or is isolated ends as work of an isolated block does (R23, R53; DESIGN CHOICE, log entry 20). -/
def Hub.frameArm (h : Hub) (g : Glob) (q tag : Nat) : Hub :=
  match h.fetched q tag 0x11 with
  | none => h
  | some d =>
    let p := d.op 16 1
    if !h.bufOk p (d.op 24 8) then h.complete g q tag Status.invalid []
    else if !h.domainOn 7 then h.complete g q tag Status.notPresent []
    else if !h.serving (.scn p) then h.complete g q tag Status.aborted []
    else
      let r := h.landArm p frameArmRank { addr := d.op 24 8 }
      r.1.complete g q tag Status.ok (leBytes 4 r.2.1 ++ leBytes 1 (b2n r.2.2))

def execFrameArm (q tag : Nat) (s : State) : Host.Outcome State Fault Refusal := nextHub s (s.hub.frameArm s.glob q tag)

/-- The buffers of a pipe that FRAME_POST must not touch: in force and pending (R184). -/
def Hub.buffersOf (h : Hub) (p : Nat) : List Nat :=
  [(h.pipe p).cur] ++ ((h.pipe p).next.toList ++ (h.pipe p).pend.toList).map (·.addr)

/-- A descriptor's data begins to move: an unreported number of its bytes is written now, and the rest when the transfer is done. -/
def startMove (s : State) (q tag dest : Nat) (secure : Bool) (data : List Byte) : State :=
  let k := (dest + s.hub.freeAt 0 % (data.length + 1)) / 64 * 64 - dest
  let h1 := s.hub.dramViolation s.glob s.mem secure true dest k (Requester.host).unit
  { s with
    mem := s.hub.writeDram s.mem secure dest (data.take k) false
    hub := (h1.drew 1).move q tag Status.ok [] [dest + k] (data.drop k) }

/-- The destination and the length of a FRAME_POST. -/
def Desc.postDest (d : Desc) : Nat := d.op 24 8
def Desc.postLen (d : Desc) : Nat := d.op 32 4

/-- Why a FRAME_POST ends without an effect (R184). -/
def Hub.framePostStatus (h : Hub) (d : Desc) : Option Nat :=
  if d.postDest % 64 ≠ 0 || d.postLen % fmtBytes (d.op 36 1) ≠ 0 || !h.inDram d.postDest d.postLen then some Status.invalid
  else if (List.range 32).any (fun p => (h.buffersOf p).any (fun b => overlaps d.postDest d.postLen b (h.bufSize p))) then some Status.busy
  else none

/-- FRAME_POST (R184). -/
def framePostOf (s : State) (q tag : Nat) (data : List Byte) : State :=
  match s.hub.fetched q tag 0x10 with
  | none => s
  | some d =>
    match s.hub.framePostStatus d with
    | some status => { s with hub := s.hub.complete s.glob q tag status [] }
    | none => startMove s q tag d.postDest d.secure (padTo d.postLen data)

def execFramePost (q tag : Nat) (data : List Byte) (errs : List (Nat × ReadError)) (s : State) : Host.Outcome State Fault Refusal :=
  .next (framePostOf (s.reads errs) q tag data)

/-- APPLY_LINE begins (R167, R180), once per frame; the raster has reached that line. -/
def Hub.applyLine (h : Hub) (g : Glob) (pg : Nat) : Hub :=
  let G := h.group pg
  if !h.groupOn pg || G.applied || !(G.phase == .running || G.phase == .selfRefresh) || !G.begun || decide (G.line < h.applyLineOf pg) then h
  else
    let h1 := h.setGroup pg { G with applied := true }
    let h2 := (h.pipesOf pg).foldl (fun h p => h.applyArm pg p) h1
    h2.raiseIf (h.bit (Reg.PGg_CTL pg) 4) g (48 + pg) (7 + G.frame % 65536 * 65536)

def execApplyLine (pg : Nat) (s : State) : Host.Outcome State Fault Refusal := nextHub s (s.hub.applyLine s.glob pg)

/-! ## Frame boundaries (R163 to R165, R188 to R193) -/

/-- The pixels of a whole frame, in walk order. -/
def Hub.framePixels (h : Hub) (p : Nat) : List WalkPx :=
  let b := h.regionMap p
  ((List.range (rmLines b)).map (rmPixels b)).flatten

/-- The hash of one tile's source pixels (R189), and whether any of them is affected by a poisoned frame-buffer block or calibration word. -/
def Hub.tileHash (h : Hub) (m : Memory) (p : Nat) (px : List WalkPx) : Nat × Bool :=
  (crc64 ((px.map (fun x => (h.srcRead m p x).bytes)).flatten),
   (h.pipe p).lutBad || px.any (fun x => (h.srcRead m p x).poison || (h.calOn p && (h.coef m p x.tile x.dst).poison)))

/-- The pixels that the fault map makes DEAD in a frame beginning at `t` (R200). -/
def Hub.deadAt (h : Hub) (p t : Nat) : List (Nat × Nat) :=
  let now := h.onClock (h.pipeGroup p) t
  let P := h.port (h.near p)
  let old := (h.pipe p).dead
  ((P.fmap.filter (fun e => decide (e.since + 60000 * ns48 ≤ now) || old.contains (e.tile, e.pixel))).map (fun e => (e.tile, e.pixel))) ++
    ((P.cleared.filter (fun e => decide (now < e.since + 60000 * ns48) && old.contains (e.tile, e.pixel) &&
      !P.fmap.any (fun f => f.tile == e.tile && f.pixel == e.pixel))).map (fun e => (e.tile, e.pixel)))

/-- A pipe begins a frame: its buffer, its DEAD pixels, the tiles it sends, and their hashes. -/
def Hub.pipeFrame (h : Hub) (m : Memory) (p t : Nat) : Hub :=
  let chg := h.bit (Reg.PGg_CTL (h.pipeGroup p)) 3
  let x0 := h.pipe p
  let dead := h.deadAt p t
  let h1 := h.setPipe p { x0 with
    cur := match x0.next with
      | some a => a.addr
      | none => x0.cur
    next := none, dead := dead, block := 0, pixBegun := false, flipped := false, stopped := false, substSaid := false, lateSaid := false, missSaid := false
    noPix := x0.noPixNext, noPixNext := false, fallback := none, walked := [], touched := false }
  let px := h1.framePixels p
  let tiles := (px.map (·.tile)).eraseDups
  let res := tiles.map (fun k => (k, h1.tileHash m p (px.filter (fun x => x.tile == k))))
  let sent := (res.filter (fun e =>
    !chg || x0.touched || Sparse.get 0 x0.hashes e.1 != e.2.1 + 1 || (h1.tile (h1.near p) e.1).resend || e.2.2 || h1.calDiffers p e.1 ||
      (x0.dead.filter (fun d => d.1 == e.1)) != (dead.filter (fun d => d.1 == e.1)))).map (·.1)
  ((h1.modCal p (fun c => { c with forced := [] })).setPipe p { h1.pipe p with
    sending := sent, hashes := res.foldl (fun s e => Sparse.set 0 s e.1 (e.2.1 + 1)) [] }).pmuAdd (Reg.PMU_SCNp_TILES_SENT_LO p) (if x0.noPixNext then 0 else sent.length)

/-- The curves of a pipe load, or fail to (R175, R178). -/
def Hub.loadLut (h : Hub) (g : Glob) (m : Memory) (p : Nat) : Hub :=
  let x := h.pipe p
  if x.lutNew || x.lutBad then (h.tableLook g (tblLut p) 0 32768).setPipe p { x with lutNew := false, lutBad := h.tableBad m (tblLut p) 0 32768 } else h

/-- The downshift count of a port at the end of a frame (R235). -/
def Hub.portFrameEnd (h : Hub) (n : Nat) : Hub :=
  if !h.bit (Reg.NSHn_CTL n) 5 then h.modPort n (fun p => { p with peak := 0, timeSent := false })
  else
    let lo := h.f (Reg.NSHn_SHIFT n) 5 0
    h.modPort n (fun p =>
      let low := if p.peak < lo then p.low + 1 else 0
      if h.f (Reg.NSHn_SHIFT n) 15 8 ≤ low then { p with peak := 0, low := 0, wantDown := p.wantDown || decide (p.rate < h.f (Reg.NSHn_CTL n) 4 3), timeSent := false }
      else { p with peak := 0, low := low, timeSent := false })

/-- What becomes of a group's state at a boundary, `now` from the first PCLK cycle: self-refresh is entered or left, a gap ends. -/
def Group.nextPhase (G : Group) (now sr : Nat) (chg : Bool) : PgPhase :=
  match G.phase with
  | .selfRefresh => match G.leaveAt with
    | some at48 => if at48 + 60000 * ns48 ≤ now then .running else .selfRefresh
    | none => .selfRefresh
  | _ => if G.scanned && chg && sr != 0 && decide (sr ≤ (if G.sentPix || !G.counting then 0 else G.quiet + 1)) then .selfRefresh else .running

/-- The frame in progress has ended and, its base having stepped, the next begins later: a gap, which counts as HELD and raises event 0x03 (R187, R188).
A group in self-refresh stays so (DESIGN CHOICE, log entry 29: R192 and R187 both give its STATE). -/
def Hub.gapAfterStep (h : Hub) (g : Glob) (pg : Nat) : Hub :=
  let G := h.group pg
  let ends := G.start + h.period48 pg
  let G1 := { G with stepped := false, held := satInc 16 G.held }
  if !G.stepped || G.next ≤ ends then h
  else match G.phase with
    | .running => (h.setGroup pg { G1 with phase := .gap, start := ends, line := 0, begun := false }).pgEvent g pg 3 0
    | .selfRefresh => (h.setGroup pg G1).pgEvent g pg 3 0
    | _ => h

/-- The end of a frame passes. -/
def Hub.frameEnds (h : Hub) (g : Glob) (pg : Nat) : Hub :=
  if h.serving .pg && !g.safe && (h.group pg).phase == .running && decide ((h.group pg).start + h.period48 pg ≤ h.now48 (h.groupTb pg)) then h.gapAfterStep g pg else h

/-- The group's record as a frame begins. -/
def Hub.groupFrame (h : Hub) (pg : Nat) : Hub :=
  let G := h.group pg
  let t := G.next
  let phase := G.nextPhase (h.onClock pg t) (h.f (Reg.PGg_CTL pg) 15 8) (h.bit (Reg.PGg_CTL pg) 3)
  h.setGroup pg { G with
    phase := phase, frame := if G.first then h.gridIndex pg t % 2 ^ 32 else (G.frame + 1) % 2 ^ 32, first := false
    start := t, next := t + h.period48 pg, line := 0, begun := false, stepped := false, applied := false, epoch := h.commit.epoch
    quiet := if !G.scanned || G.sentPix || !G.counting then (if phase == .running then 0 else G.quiet) else G.quiet + 1
    counting := h.f (Reg.PGg_CTL pg) 15 8 != 0 && h.bit (Reg.PGg_CTL pg) 3
    sentPix := false, leaveAt := if phase == .selfRefresh then G.leaveAt else none, scanned := phase == .running
    srEntries := if phase == .selfRefresh && G.phase != .selfRefresh then satInc 15 G.srEntries else G.srEntries }

/-- The events of a boundary: self-refresh entered or left. -/
def Hub.groupEvents (h : Hub) (g : Glob) (old : Hub) (pg : Nat) : Hub :=
  let a := (old.group pg).phase == .selfRefresh
  let b := (h.group pg).phase == .selfRefresh
  if !a && b then h.pgEvent g pg 1 0 else if a && !b then h.pgEvent g pg 2 0 else h

/-- A group begins a frame at a grid instant: the group, then each of its pipes: calibration, curves, buffer and tiles to send. In self-refresh
the pipes stop and each tile keeps its hash (R192). -/
def Hub.frameBoundary (h : Hub) (g : Glob) (m : Memory) (pg : Nat) : Hub :=
  let G := h.group pg
  if !h.groupOn pg || G.phase == .disabled || !h.serving .pg || g.safe then h
  else
    let h1 := (h.portsOf pg).foldl (fun h n => h.portFrameEnd n) (h.gapAfterStep g pg)
    let h2 := (h1.groupFrame pg).groupEvents g h1 pg
    let t := (h2.group pg).start
    let h3 := (h.pipesOf pg).foldl (fun h p => (h.calBoundary m p t (G.scanned && h.scanServes p)).loadLut g m p) h2
    if (h2.group pg).phase = .running then
      (h.pipesOf pg).foldl (fun h p => if h.scanServes p then h.pipeFrame m p t else h) h3
    else h3

/-! ## Lines (R166, R173, R178, R189, R235) -/

/-- The peak line use of one line, in percent (R235). -/
def Hub.lineUse (h : Hub) (pg n cost : Nat) : Nat :=
  if h.period48 pg = 0 then 0 else cost * blockTime (h.port n).rate * 2 ^ 48 * h.vTotal pg / h.period48 pg

/-- A PIX frame of a kind 1 port enters the port's output digest (R379). -/
def Hub.digestPix (h : Hub) (p : Nat) (f : PixFrame) : Hub :=
  if h.chainKind p = 1 then
    let fr : NFrame := { type := 7, addr := f.tile, queue := 2, seq := f.seq, flags := 0, epoch := h.commit.epoch, payload := f.payload }
    h.modPort p (fun P => { P with digest := P.digest ++ [(f.seq, fr.digestBytes)] })
  else h

/-- The pixels of a block as the pipe sends them; `bad` says which positions of the line lost a read. -/
def Hub.blockOut (h : Hub) (m : Memory) (p line pos : Nat) (bad : Nat → Bool) (blk : List WalkPx) : List PixelOut :=
  ((List.range blk.length).zip blk).map (fun e =>
    let o := h.pixelOut m p line (pos + e.1) e.2
    { o with affected := o.affected || bad (pos + e.1) })

/-- The tile of a block. -/
def blockTile (blk : List WalkPx) : Nat := (blk.head?.map (·.tile)).getD 0

/-- A block leaves as a PIX frame, block `idx` of the frame; the pixels substituted are counted, with event 0x05 once per pipe per frame (R178). -/
def Hub.sendBlock (h : Hub) (g : Glob) (pg p idx : Nat) (blk : List WalkPx) (outs : List PixelOut) : Hub :=
  let ranges := repeatRanges (outs.map (·.affected))
  let subst := (ranges.map (·.2)).sum
  let fr : PixFrame :=
    { tile := blockTile blk, seq := (h.group pg).frame % 65536 * 65536 + idx % 65536
      payload := pixPayload (h.bit (Reg.SCNp_CTL p) 4) pg ((blk.head?.map (·.dst)).getD 0) outs ranges }
  let h1 := if h.mutedPort p then h.digestPix p fr
    else ((h.digestPix p fr).modPort p (fun P => P.withPix (P.pix ++ [fr]))).pmuAdd (Reg.PMU_SCNp_PX_SENT_LO p) blk.length
  let h2 := (h1.setGroup pg { h1.group pg with sentPix := true }).setPipe p { h1.pipe p with pixBegun := true }
  if subst = 0 then h2
  else
    let h3 := h2.countBy (Reg.SCNp_SUBST p) 32 subst
    if (h.pipe p).substSaid then h3 else (h3.setPipe p { h3.pipe p with substSaid := true }).pgEvent g pg 5 p

/-- The blocks of line `l` of a map, each with its position in the line. -/
def linePlaces (b : List Byte) (l : Nat) : List (Nat × List WalkPx) :=
  ((rmBlocks b l).foldl (fun (a : Nat × List (Nat × List WalkPx)) blk => (a.1 + blk.length, a.2 ++ [(a.1, blk)])) (0, [])).2

/-- The blocks of a frame before block `n`: line, position in it, and pixels. -/
def placesBefore (b : List Byte) (n : Nat) : List (Nat × Nat × List WalkPx) :=
  (((List.range (rmLines b)).map (fun l => (linePlaces b l).map (fun e => (l, e.1, e.2)))).flatten).take n

/-- A tile that was not to be sent in this frame has an affected pixel after all: it is sent whole (R157, R189), so that the blocks of it that have gone by
leave now, before the rest. It counts among the tiles sent (Table 18.3). -/
def Hub.tileJoins (h : Hub) (g : Glob) (m : Memory) (pg p tile : Nat) : Hub :=
  let x := h.pipe p
  let h1 := (h.setPipe p { x with sending := tile :: x.sending }).pmuAdd (Reg.PMU_SCNp_TILES_SENT_LO p) 1
  ((List.range x.block).zip (placesBefore (h.regionMap p) x.block)).foldl (fun h e =>
    if blockTile e.2.2.2 = tile then h.sendBlock g pg p e.1 e.2.2.2 (h.blockOut m p e.2.1 e.2.2.1 (fun _ => false) e.2.2.2) else h) h1

/-- One block of a line: its index is used; it is formed into a PIX frame when its tile is sent in this frame. -/
def Hub.scanBlock (h : Hub) (g : Glob) (m : Memory) (pg p pos : Nat) (bad : Nat → Bool) (blk : List WalkPx) : Hub :=
  let x := h.pipe p
  let tile := blockTile blk
  let next (h : Hub) : Hub := h.setPipe p { h.pipe p with block := x.block + 1 }
  if x.noPix then next h
  else
    let outs := h.blockOut m p (h.group pg).line pos bad blk
    if x.sending.contains tile then next (h.sendBlock g pg p x.block blk outs)
    else if outs.any (·.affected) then next ((h.tileJoins g m pg p tile).sendBlock g pg p x.block blk outs)
    else next h

/-- The hash of each tile over the pixels of a line as they are fetched, in walk order; with the last line it is the hash of the tile in the last frame scanned (R189). -/
def Hub.walkLine (h : Hub) (m : Memory) (p l : Nat) (blks : List (List WalkPx)) : Hub :=
  let x := h.pipe p
  let w := blks.foldl (fun s b => Sparse.mod 0 s (blockTile b) (fun d => crc64More d ((b.map (fun x => (h.srcRead m p x).bytes)).flatten))) x.walked
  h.setPipe p { x with walked := w, hashes := if l + 1 = rmLines (h.regionMap p) then
    (x.hashes.map (·.1)).foldl (fun s k => Sparse.set 0 s k (Sparse.get 0 w k + 1)) x.hashes else x.hashes }

/-- The blocks of a line, one after the other. -/
def Hub.scanBlocks (h : Hub) (g : Glob) (m : Memory) (pg p : Nat) (bad : Nat → Bool) (pos : Nat) : List (List WalkPx) → Hub
  | [] => h
  | b :: bs => (h.scanBlock g m pg p pos bad b).scanBlocks g m pg p bad (pos + b.length) bs

/-- A read that missed its deadline is counted; its event is raised once per pipe per frame (R157). -/
def Hub.deadlineMiss (h : Hub) (g : Glob) (b : BadRead) : Hub :=
  match b.late with
  | none => h
  | some c =>
    let h1 := (h.wrN Reg.MEM_DL_MISS (satInc 24 (h.f Reg.MEM_DL_MISS 23 0) + b.pipe % 32 * 2 ^ 24)).putF (Reg.PMU_SCNp_SLACK_MIN b.pipe) 23 0
      (if h.bit Reg.PMU_CTL 0 then h.f (Reg.PMU_SCNp_SLACK_MIN b.pipe) 23 0 else 0)
    if (h.pipe b.pipe).missSaid then h1
    else (h1.setPipe b.pipe { h1.pipe b.pipe with missSaid := true }).raise g (42 + c % 2) (4 + b.pipe * 256)

/-- The smallest margin of the line's reads, which is a matter of timing and so free (Table 18.3). -/
def Hub.slack (h : Hub) (p : Nat) : Hub :=
  if h.bit Reg.PMU_CTL 0 then h
  else (h.putF (Reg.PMU_SCNp_SLACK_MIN p) 23 0 (min (h.f (Reg.PMU_SCNp_SLACK_MIN p) 23 0) (h.freeAt 0 % 2 ^ 24))).drew 1

/-- The P32H pixels of a line with FLAG 2 or 3 (R175). -/
def Hub.flagErrors (h : Hub) (m : Memory) (p : Nat) (px : List WalkPx) : Nat :=
  if h.srcFmt p = 3 then (px.filter (fun x => decide (2 ≤ pixelFlag 3 (ofLe (h.srcRead m p x).bytes)))).length else 0

/-- The most that Q2 holds in a line, in bytes, where each block is queued as its last pixel is processed, a pixel per PCLK cycle, and the lane sends at its
rate from the start of the line (DESIGN CHOICE, log entry 29: what else the lane sends meanwhile is left out). `busy` is when the lane has sent what was queued,
in 0.01 ns. -/
def q2Peak (rate : Nat) (l36 : Bool) (busy pos peak : Nat) : List (Nat × Bool) → Nat
  | [] => peak
  | (n, sent) :: bs =>
    let at_ := 250 * (pos + n)
    let busy1 := if sent then max busy at_ + blockCost (pixLen l36 n) * blockTime rate else busy
    q2Peak rate l36 busy1 (pos + n) (max peak (8 * ((busy1 - at_) / blockTime rate))) bs

/-- A port of the chain of pipe `p` records its line use and its Q2, and asks for an upshift where Q2 rises past UPSHIFT_HI (R235). -/
def Hub.lineRecord (h : Hub) (pg p cost q2 n : Nat) : Hub :=
  let use := h.lineUse pg n cost
  let full := decide (h.f (Reg.NSHn_SHIFT n) 23 16 * 1024 < q2)
  ((h.modPort n (fun P => if full then { P with peak := max P.peak use }.askUp (h.topRate n) else { P with peak := max P.peak use })).pmuPeak
    (Reg.PMU_NSHn_PEAK n) 30 24 (min 100 use)).pmuPeak (Reg.PMU_NSHn_PEAK n) 17 0 (if n = p then min 131072 q2 else 0)

/-- The DRAM blocks of the gain word and the matrix record of a pixel in one bank, as far as the VALID masks given make the pipe read them. -/
def Hub.coefBlocks (h : Hub) (p b gv mv : Nat) (x : WalkPx) : List Nat :=
  (if bitOf gv x.tile then Memory.blocksOf (h.gainAddr p b x.tile x.dst) 4 else []) ++
    (if bitOf mv x.tile then Memory.blocksOf (h.matrixAddr p b x.tile (calBlock (tmWidth (h.mapOf p) x.tile) x.dst)) 18 else [])

/-- The DRAM blocks that a line of a pipe reads: source pixels, and with calibration the gain words and matrix records of their pixels, of both banks while
a transition runs (R206). -/
def Hub.lineBlocks (h : Hub) (p : Nat) (px : List WalkPx) : List Nat :=
  let c := h.calPipe p
  (px.map (fun x =>
    Memory.blocksOf (h.srcAddr p x) (fmtBytes (h.srcFmt p)) ++
      (if h.calOn p then h.coefBlocks p c.bank c.gForce c.mForce x else []) ++
      (if h.calOn p && c.phase == .slewing then h.coefBlocks p (1 - c.bank) c.gTarget c.mTarget x else []))).flatten.eraseDups

/-- The violations of a pipe's reads: none in the secure world (R406). -/
def Hub.lineViolations (h : Hub) (g : Glob) (m : Memory) (p : Nat) (px : List WalkPx) : Hub :=
  if h.scanSecure then h else h.blockViolations g m false false p (h.lineBlocks p px)

/-- The violations of a pipe's reads of its region map for a line: the entry of the line, and its spans. -/
def Hub.mapLook (h : Hub) (g : Glob) (p line : Nat) : Hub :=
  let b := h.regionMap p
  (h.tableLook g (tblRegion p) (32 + 4 * line) (lineEntry b line)).tableLook g (tblRegion p) (rmBase b + 16 * rmFirst b line) (16 * (rmLine b line).length)

/-- A pipe processes an active line. -/
def Hub.scanLine (h : Hub) (g : Glob) (m : Memory) (pg : Nat) (bad : List BadRead) (p : Nat) : Hub :=
  if !h.scans g p then h
  else
    let l := (h.group pg).line
    let map := h.regionMap p
    let px := rmPixels map l
    let mine := bad.filter (fun b => b.pipe == p)
    let h1 := mine.foldl (fun h b => h.deadlineMiss g b) (if px.isEmpty then h.mapLook g p l else ((h.mapLook g p l).lineViolations g m p px).slack p)
    let h2 := (h1.pmuAdd (Reg.PMU_SCNp_PX_EXAM_LO p) px.length).countBy (Reg.SCNp_FLAG_ERR p) 32 (h.flagErrors m p px)
    let blks := rmBlocks map l
    let h3 := (h2.walkLine m p l blks).scanBlocks g m pg p (fun i => mine.any (fun b => decide (b.first ≤ i ∧ i < b.first + b.count))) 0 blks
    let l36 := h.bit (Reg.SCNp_CTL p) 4
    let sent (b : List WalkPx) : Bool := !(h3.pipe p).noPix && (h3.pipe p).sending.contains (blockTile b)
    let cost := ((blks.filter sent).map (fun b => blockCost (pixLen l36 b.length))).sum
    let queued := ((h.port p).pix.map (fun f => blockCost f.payload.length * blockTime (h.port p).rate)).sum
    let q2 := q2Peak (h.port p).rate l36 queued 0 0 (blks.map (fun b => (b.length, sent b)))
    ((h.ends p).foldl (fun h n => h.lineRecord pg p cost q2 n) h3).drew (if (h.table (tblLut p)).isEmpty && !px.isEmpty then 8192 else 0)

/-- The hub's timing of a group after the staged set: PERIOD, PHASE and TB (R187). -/
def Hub.timingOf (h : Hub) (pg : Nat) : List Nat :=
  [h.n (Reg.PGg_PERIOD_NS pg), h.n (Reg.PGg_FRAC pg), h.n (Reg.PGg_PHASE_NS pg), h.groupTb pg]

/-- The number of the frame of a group whose boundary meets an instant that lies `ahead` from now: its boundary in that PCLK cycle (R73). -/
def Hub.frameAhead (h : Hub) (pg ahead : Nat) : Nat :=
  let first := h.until48 (h.groupTb pg) (h.group pg).next
  (h.nextNumber pg + (ahead + h.period48 pg / 2 - first) / max (h.period48 pg) 1) % 2 ^ 32

/-- A pending set changes the timing of an enabled group: the number of its first frame under the new timing. -/
def Hub.timingChange (h : Hub) (pg : Nat) : Option Nat :=
  match h.commit.instant, h.commitAhead with
  | .frame g0 n, some ahead =>
    if h.groupOn pg && h.overlay.groupOn pg && h.timingOf pg != h.overlay.timingOf pg then some (if pg = g0 then n else h.frameAhead pg ahead) else none
  | _, _ => none

/-- The CTRL timing notice of a group, broadcast on each of its ports in blanking (R187, Table 10.12). -/
def Hub.timingNotice (h : Hub) (g : Glob) (pg : Nat) : Hub :=
  match h.timingChange pg with
  | none => h
  | some n =>
    let o := h.overlay
    let pay := [2] ++ leBytes 1 pg ++ zeros 2 ++ leBytes 4 n ++ leBytes 4 (o.n (Reg.PGg_PERIOD_NS pg)) ++ leBytes 4 (o.n (Reg.PGg_FRAC pg)) ++
      leBytes 4 (o.n (Reg.PGg_PHASE_NS pg))
    (h.portsOf pg).foldl (fun h j =>
      if h.near j == j && h.originates j && (h.ends j).any (fun n => (h.port n).phase.carries) then
        h.submit g j { type := 4, dest := 255, payload := pay, owner := .none } else h) h

/-- A line of the raster begins. In an active line each pipe of the group processes its spans. What the interval allows from now on leaves. -/
def Hub.virtualLine (h : Hub) (g : Glob) (m : Memory) (pg : Nat) (bad : List BadRead) : Hub :=
  let G := h.group pg
  if !h.groupOn pg || !(G.phase == .running || G.phase == .selfRefresh) || (G.begun && h.vTotal pg ≤ G.line + 1) then h
  else
    let h1 := h.setGroup pg { G with line := if G.begun then G.line + 1 else G.line, begun := true }
    if (h1.group pg).line < h.activeLines pg then
      if G.phase = .running then
        (h.pipesOf pg).foldl (fun h p => (h.scanLine g m pg bad p).pump g p) h1
      else h1
    else
      let h2 := if (h1.group pg).line = h.activeLines pg then h1.timingNotice g pg else h1
      (h.portsOf pg).foldl (fun h n => h.pump g n) h2

def execVirtualLine (pg : Nat) (bad : List BadRead) (errs : List (Nat × ReadError)) (s : State) : Host.Outcome State Fault Refusal :=
  nextHub (s.reads errs) ((s.reads errs).hub.virtualLine s.glob (s.reads errs).mem pg bad)

/-! ## FLIP (R168, R169, R189) -/

/-- The skip mask of a pipe's frame: the tiles of its map that show pixels and are not sent. -/
def Hub.skipTiles (h : Hub) (p : Nat) : List Nat := (tmPixelTiles (h.tileMap p)).filter (fun k => !(h.pipe p).sending.contains k)

/-- The FLIP payload (Table 10.9). -/
def Hub.flipPayload (h : Hub) (pg p : Nat) : List Byte :=
  let G := h.group pg
  leBytes 1 pg ++ zeros 3 ++ leBytes 4 G.frame ++ leBytes 6 (secOf G.next) ++ leBytes 4 (nsOf G.next) ++ leBytes 2 (fracOf G.next) ++
    leBytes 4 G.epoch ++ leBytes 16 (((h.skipTiles p).map (2 ^ ·)).sum)

/-- PIX frames still queued at the FLIP, and those that the pipe has not queued for want of room, are removed and counted, with event 0x04 once per pipe per
frame (R169, R228). -/
def Hub.removePix (h : Hub) (g : Glob) (pg p : Nat) : Hub :=
  let k := (h.port p).pix.length
  if k = 0 then h
  else
    let h1 := (h.modPort p (fun P => P.withPix [])).countBy (Reg.SCNp_LATE p) 32 k
    if (h.pipe p).lateSaid then h1 else (h1.setPipe p { h1.pipe p with lateSaid := true }).pgEvent g pg 4 p

/-! ## Output digests (R379, R380) -/

/-- A port of a STANDBY is muted after a mismatch: at once while no PIX of the frame has been begun, and from the next frame otherwise. -/
def Hub.digestMute (h : Hub) (n : Nat) : Hub :=
  if h.saddle.role ≠ .standby then h
  else if !(h.pipe n).pixBegun then { h with saddle := { h.saddle with digMuted := Sparse.set 0 h.saddle.digMuted n 1 } }
  else { h with saddle := { h.saddle with muteNext := n :: h.saddle.muteNext.filter (· != n) } }

/-- One more matching digest of a muted port; UNMUTE of them in a row end the mute. -/
def Hub.digestMatch (h : Hub) (n : Nat) : Hub :=
  let k := Sparse.get 0 h.saddle.digMuted n
  if k = 0 then h
  else { h with saddle := { h.saddle with
    digMuted := Sparse.set 0 h.saddle.digMuted n (if h.f Reg.SDL_CTL 15 8 ≤ k then 0 else k + 1) } }

/-- Both digests of one frame of a port are compared once (R380). -/
def Hub.digestJudge (h : Hub) (g : Glob) (n : Nat) : Hub :=
  let a := Sparse.get (0, 0) h.saddle.own n
  let b := Sparse.get (0, 0) h.saddle.theirs n
  if a.1 = 0 || a.1 != b.1 then h
  else
    let h1 := { h with saddle := { h.saddle with theirs := Sparse.erase n h.saddle.theirs, own := Sparse.erase n h.saddle.own } }
    if a.2 = b.2 then h1.digestMatch n
    else ((h1.count Reg.SDL_CNT_DIGEST 31).raise g 90 (4 + n * 256 + (a.1 - 1) % 65536 * 65536)).digestMute n

/-- The output digest of a frame: the PIX in the order of their block indices, whatever order they left in, and then the FLIP. -/
def Port.digestOf (P : Port) (payload : List Byte) : Nat :=
  crc64More ((P.digest.mergeSort (fun a b => decide (a.1 ≤ b.1))).foldl (fun d e => crc64More d e.2) 0) payload

/-- The output digest of a frame of a port is complete; it goes to the partner once the FLIP has left. A frame without PIX under R369 is not compared. -/
def Hub.digestEnd (h : Hub) (p frame : Nat) (payload : List Byte) : Hub :=
  h.modPort p (fun P => { P with
    digest := []
    digested := if h.chainKind p ≠ 1 || !(h.saddle.role == .active || h.saddle.role == .standby) || !h.saddle.link || (h.pipe p).noPix then none
      else some (frame, P.digestOf payload) })

/-- A complete digest, whose FLIP waits in Q0 no longer, goes to the partner, and is compared with the partner's. -/
def Hub.digestGo (h : Hub) (g : Glob) (p : Nat) : Hub :=
  match (h.port p).digested with
  | none => h
  | some (frame, d) =>
    if (h.port p).flipWaits then h
    else
      let h1 := h.modPort p (fun P => { P with digested := none })
      ((h1.setSaddle { h1.saddle with own := Sparse.set (0, 0) h1.saddle.own p (frame + 1, d) }).saddleSend (.outputDigest p frame d)).digestJudge g p

/-- The length of a FLIP payload (Table 10.9). -/
def flipLen : Nat := 40

/-- The deadline of the FLIP has come at an end of the chain: one that starts now ends no earlier (R168). -/
def Hub.flipDue (h : Hub) (pg p : Nat) : Bool :=
  (h.ends p).any (fun n => decide (h.flipDeadline pg ≤ h.laneEnd n (h.sendCost n flipLen)))

/-- The FLIP goes to Q0 of the ends of the chain that take it, where it leaves after the TIME that a step of the base has made due (R89), and the group's
record of it. -/
def Hub.flipLeaves (h : Hub) (g : Glob) (pg p : Nat) (payload : List Byte) (whole : List Nat) : Hub :=
  let G := h.group pg
  let h1 := (h.ends p).foldl (fun h n =>
    if (h.port n).measured then h.sendQ0 g n 1 255 G.frame payload else h) h
  let h2 := h1.modPort p (fun P => { P with flips := { frame := G.frame, whole := whole } :: P.flips })
  (h2.setGroup pg { h2.group pg with lastFlip := some G.next }).pmuAdd (Reg.PMU_SCNp_TILES_SKIP_LO p) (h.skipTiles p).length

/-- The port sends the FLIP of the frame, once: when the first blanking line has begun and the last PIX has left, and at its deadline in any case (R168). Before a first round-trip measurement none is sent (R107). A port that cannot send leaves the FLIP
out, and its queued PIX go. The output digest follows the FLIP, and is formed on a muted port too (R379). -/
def Hub.flipSend (h : Hub) (g : Glob) (p : Nat) : Hub :=
  let pg := h.pipeGroup p
  let G := h.group pg
  if !h.scans g p || G.phase ≠ .running || (h.pipe p).flipped ||
      !(h.flipDue pg p || (h.activeLines pg ≤ G.line && (h.port p).pix.isEmpty)) then h
  else
    let lost := ((h.port p).pix.map (·.tile)).eraseDups
    let h2 := h.removePix g pg p
    let h3 := h2.setPipe p { h2.pipe p with flipped := true }
    let goes := (h.ends p).any (fun n => h.takesQ0 g n && (h.port n).measured)
    let h4 := if goes then
        h3.flipLeaves g pg p (h.flipPayload pg p) (if (h.pipe p).noPix then [] else (h.pipe p).sending.filter (fun k => !lost.contains k))
      else h3
    ((if goes || h.mutedPort p then h4.digestEnd p G.frame (h.flipPayload pg p) else h4.modPort p (fun P => { P with digest := [] })).pump g p).digestGo g p

def execFlipSend (p : Nat) (s : State) : Host.Outcome State Fault Refusal := nextHub s (s.hub.flipSend s.glob p)

/-! ## What an apply does here (R183, R185 to R187) -/

/-- A group after a commit: enabled, disabled, or under a new timing. -/
def Hub.groupApply (h : Hub) (g : Glob) (old : Hub) (pg : Nat) : Hub :=
  let G := h.group pg
  match old.groupOn pg, h.groupOn pg with
  | false, true =>
    let from48 := h.now48 (h.groupTb pg) + 2000000 * ns48
    h.setGroup pg { G with
      phase := .gap, first := true, applied := false, quiet := 0, leaveAt := none, lastFlip := none, stepped := false, scanned := false
      start := from48, next := h.gridAfter pg from48 }
  | true, false =>
    let h1 := h.setGroup pg { G with phase := .disabled, line := 0, begun := false, scanned := false }
    if h.cal.msr.pg = pg then h1.msrEnd g Status.aborted else h1
  | true, true =>
    if h.timingOf pg = old.timingOf pg then h
    else
      let at48 := addTime G.next ((h.now48 (h.groupTb pg) : Int) - (old.now48 (old.groupTb pg) : Int))
      let next := h.gridAfter pg at48
      let gap := decide (at48 < next)
      let h1 := h.setGroup pg { G with
        phase := .gap, start := at48, next := next, stepped := false, line := 0, begun := false, held := if gap then satInc 16 G.held else G.held }
      let h2 := if h.cal.msr.pg = pg then h1.msrEnd g Status.aborted else h1
      if gap then h2.pgEvent g pg 3 0 else h2
  | false, false => h

/-- A pipe after a commit: an arm that still waits is taken at once when the pipe is disabled or moves (R183), but on a STANDBY not for a kind 1 port (R364),
SCNp_ARM_FRAME reading 0xFFFF_FFFF as the register table has it, and a transition under way is cut short (R208). A commit that disables the pipe's group acts as one that disables the pipe (DESIGN CHOICE, log entry 29: R183
names the pipe alone). -/
def Hub.pipeApply (h : Hub) (old : Hub) (p : Nat) : Hub :=
  let gone := old.pipeOn p && (!h.pipeOn p || h.pipeGroup p != old.pipeGroup p)
  let off := old.pipeOn p && old.groupOn (old.pipeGroup p) && !h.groupOn (old.pipeGroup p)
  let x := h.pipe p
  let h1 := if gone || off then
      match x.pend.filter (fun _ => h.originates p), x.next with
      | some a, _ => (h.setPipe p { x with pend := none, moved := true, armFrame := 2 ^ 32 - 1 }).forceArm p a
      | none, some a => h.setPipe p { x with next := none, cur := a.addr }
      | none, none => h
    else h
  if gone || off then h1.calForce p else h1

/-- Groups and pipes after a commit; `touched` lists the pipes whose registers or tables the set wrote. -/
def Hub.scanApply (h : Hub) (g : Glob) (old : Hub) (touched lutPipes : List Nat) : Hub :=
  let h1 := (List.range 8).foldl (fun h pg => h.groupApply g old pg) h
  let h2 := (List.range 32).foldl (fun h p => h.pipeApply old p) h1
  let h3 := touched.foldl (fun h p => h.setPipe p { h.pipe p with touched := true }) h2
  lutPipes.foldl (fun h p => h.setPipe p { h.pipe p with lutNew := true }) h3

end Sys2Proof.Machine
end

