-- ==== Sys2Proof/Machine/Calib.lean ====
section
/-! DEFINITION. The commands of colour calibration: loading and reading the store, the measurement sequencer and the statistics estimator
(spec/08_calibration.md). -/

namespace Sys2Proof.Machine

/-! ## Loading and reading (R198, R201, R202) -/

/-- The operands of CAL_LOAD and CAL_READ. -/
def Desc.calPipeOp (d : Desc) : Nat := d.op 16 1
def Desc.calPart (d : Desc) : Nat := d.op 17 1
def Desc.calFirst (d : Desc) : Nat := d.op 20 4
def Desc.calCount (d : Desc) : Nat := d.op 24 4

/-- Entries of a slot, and bytes of an entry, of part 0 (matrices) or 1 (gains). -/
def calPerSlot (part : Nat) : Nat := if part = 1 then 65536 else 16384
def calEntryLen (part : Nat) : Nat := if part = 1 then 4 else 18

/-- The range rule of R201. -/
def Hub.calRangeBad (h : Hub) (d : Desc) : Bool :=
  h.calSlots d.calPipeOp == 0 || d.calCount == 0 || decide (h.calSlots d.calPipeOp * calPerSlot d.calPart < d.calFirst + d.calCount)

/-- The DRAM offset of entry `i` of a part of a bank. -/
def Hub.calEntryAddr (h : Hub) (p b part i : Nat) : Nat :=
  if part = 1 then h.gainAddr p b (i / 65536) (i % 65536) else h.matrixAddr p b (i / 16384) (i % 16384)

/-- A set that changes CAL_PIPEp_APPLY has started its check and has neither applied nor failed. -/
def Hub.applyInFlight (h : Hub) (p : Nat) : Bool :=
  h.setInFlight && h.afterN (Reg.CAL_PIPEp_APPLY p) % 65536 != h.n (Reg.CAL_PIPEp_APPLY p) % 65536

/-- A pipe is under the estimator, and takes its base gains from loads (R215, R216). -/
def Hub.statOn (h : Hub) (p : Nat) : Bool := h.bit Reg.CAL_CTL 0 && h.bit (Reg.CAL_PIPEp_CTL p) 1
def Hub.statRef (h : Hub) : Bool := h.bit Reg.CAL_CTL 1

/-- The DRAM offset of a statistics record (Table 8.8). -/
def Hub.statAddr (h : Hub) (p t d : Nat) : Nat :=
  h.f (Reg.CAL_PIPEp_STAT_LO p) 31 12 * 4096 + h.f (Reg.CAL_PIPEp_STAT_HI p) 3 0 * 2 ^ 32 + 64 * (t * 65536 + d)

/-- A record with cleared dwell and age and given base gains. -/
def freshRecord (gainWord : Nat) : List Byte := zeros 60 ++ leBytes 4 (gainWord % 2 ^ 30)

/-- The larger of a difference and what was there. -/
def maxDiff (a : Nat) (old new : List Int) : Nat := (List.zipWith (fun x y => (x - y).natAbs) old new).foldl max a

/-- One entry of a load in the books: DELTA covers it, its slot counts as written, and the estimator's record of the pixel starts anew. What it reads of the bank
in force for DELTA is the state of CAL, and poisoned a fault of it (R149). -/
def calWrite (g : Glob) (p part : Nat) (hm : Hub × Memory) (e : Nat × List Byte) : Hub × Memory :=
  let h := hm.1
  let c := h.calPipe p
  let t := e.1 / calPerSlot part
  let i := e.1 % calPerSlot part
  let c1 := { c with touched := if c.touched.contains t then c.touched else t :: c.touched }
  if part = 1 then
    let old := h.coefAt hm.2 p c.bank c.gForce 0 t i 0
    let c2 := { c1 with dg := maxDiff c.dg (old.gains.map Int.ofNat) ((gainsOf (ofLe e.2)).map Int.ofNat) }
    let h := if bitOf c.gForce t then (if old.poison then h.blockFault g .cal else h).calLooks g hm.2 false (h.gainAddr p c.bank t i) 4 else h
    if h.statOn p && h.statRef then
      ((h.calLooks g hm.2 true (h.statAddr p t i) 64).setCal p c2,
       h.writeDram hm.2 h.scanSecure (h.statAddr p t i) (freshRecord (ofLe e.2)) false)
    else (h.setCal p c2, hm.2)
  else
    let r := h.readDram hm.2 h.scanSecure (h.matrixAddr p c.bank t i) 18
    let old := if bitOf c.mForce t then matrixOf r.bytes else identity
    let h := if bitOf c.mForce t then (if r.poison then h.blockFault g .cal else h).calLooks g hm.2 false (h.matrixAddr p c.bank t i) 18 else h
    (h.setCal p { c1 with dm := min 65535 (maxDiff c.dm old (matrixOf e.2)) }, hm.2)

/-- Runs of entries, in either bank, that have been loaded. -/
def Memory.calMark (m : Memory) (at_ : List Nat) (n : Nat) : Memory :=
  let new := (at_.map (fun a => (a, n))).filter (fun r => !m.calSet.contains r)
  { m with calSet := new ++ m.calSet }

/-- The entry at an address has been loaded since power-up. -/
def Memory.calLoaded (m : Memory) (a n : Nat) : Bool := m.calSet.any (fun r => decide (r.1 ≤ a ∧ a + n ≤ r.1 + r.2))

/-- The entries of a load in slot `t`, one after the other in the target bank, written together, so that a block that they fill is written whole (R147). -/
def calRun (g : Glob) (d : Desc) (first count : Nat) (data : List Byte) (hm : Hub × Memory) (t : Nat) : Hub × Memory :=
  let h := hm.1
  let a := max first (t * calPerSlot d.calPart)
  let z := min (first + count) ((t + 1) * calPerSlot d.calPart)
  let len := calEntryLen d.calPart
  let at_ := h.calEntryAddr d.calPipeOp (1 - (h.calPipe d.calPipeOp).bank) d.calPart a
  let bs := (data.drop (len * (a - first))).take (len * (z - a))
  if z ≤ a then hm
  else (h.dramViolation g hm.2 d.secure true at_ bs.length (Requester.host).unit,
    (h.writeDram hm.2 d.secure at_ bs false).calMark [h.calEntryAddr d.calPipeOp 0 d.calPart a, h.calEntryAddr d.calPipeOp 1 d.calPart a] bs.length)

/-- Entries written in ascending order, packed, from index `first`. -/
def calWrites (g : Glob) (d : Desc) (hm : Hub × Memory) (first count : Nat) (data : List Byte) : Hub × Memory :=
  let t := first / calPerSlot d.calPart
  let runs := (List.range ((first + count - 1) / calPerSlot d.calPart + 1 - t)).foldl (fun hm i => calRun g d first count data hm (t + i)) hm
  if count = 0 then hm
  else (List.range count).foldl (fun hm i =>
    calWrite g d.calPipeOp d.calPart hm (first + i, (data.drop (calEntryLen d.calPart * i)).take (calEntryLen d.calPart))) runs

/-- Why a CAL_LOAD ends without an effect (R201). One while the block CAL has faulted or is isolated ends as work of such a block does (R23, R53; DESIGN
CHOICE, log entry 20). -/
def Hub.calLoadStatus (h : Hub) (d : Desc) : Option Nat :=
  let p := d.calPipeOp
  let c := h.calPipe p
  if h.calRangeBad d then some Status.invalid
  else if c.phase == .slewing || c.phase == .copying || c.phase == .fold || h.applyInFlight p || (h.statOn p && h.statRef && !c.statReady) then
    some Status.busy
  else if !h.domainOn 7 then some Status.notPresent
  else if !h.serving .cal then some Status.aborted
  else none

/-- CAL_LOAD (R201): refused, or begun, with an unreported number of its entries written: so many that no DRAM block is cut in two, for 32 entries of either part
fill whole blocks (DESIGN CHOICE, log entry 30). -/
def calLoadOf (s : State) (q tag : Nat) (data : List Byte) : State :=
  let h := s.hub
  match h.fetched q tag 0x30 with
  | none => s
  | some d =>
    match h.calLoadStatus d with
    | some status => { s with hub := h.complete s.glob q tag status [] }
    | none =>
      let bytes := padTo (calEntryLen d.calPart * d.calCount) data
      let k := (d.calFirst + h.freeAt 0 % d.calCount) / 32 * 32 - d.calFirst
      let r := calWrites s.glob d (h, s.mem) d.calFirst k bytes
      { s with
        mem := r.2
        hub := ((r.1.drew 1).modCal d.calPipeOp (fun c => { c with loads := c.loads ++ [(q, tag)] })).move q tag Status.ok [] [k]
          (bytes.drop (calEntryLen d.calPart * k)) }

def execCalLoad (q tag : Nat) (data : List Byte) (errs : List (Nat × ReadError)) (s : State) : Host.Outcome State Fault Refusal :=
  .next (calLoadOf (s.reads errs) q tag data)

/-- A load is over, whole or not: the pipe is LOADED; a fold that runs keeps its state and leaves LOADED behind (R201). The target of the pipe has changed
(R193). -/
def Hub.calLoadEnd (h : Hub) (q tag p : Nat) : Hub :=
  (h.modCal p (fun c => { c with
    loads := c.loads.filter (· != (q, tag)), phase := if c.phase = .idle then .loaded else c.phase
    loaded := c.loaded || c.phase == .fold })).groupTrigger (h.pipeGroup p)

/-- The slots that a whole load makes valid: `n t` is the number of entries that slot `t` needs. -/
def calCovered (slots per first count : Nat) (n : Nat → Nat) : Nat :=
  ((List.range slots).map (fun t =>
    if n t ≠ 0 ∧ first ≤ t * per ∧ t * per + n t ≤ first + count then 2 ^ t else 0)).sum

/-- The pixels of a tile that the port's tile map gives, and its matrix blocks (R196). -/
def Hub.calPixels (h : Hub) (p t : Nat) : Nat := if t < tmTiles (h.mapOf p) then tmPixels (h.mapOf p) t else 0
def Hub.calBlocksOf (h : Hub) (p t : Nat) : Nat := calBlocks (tmWidth (h.mapOf p) t) (h.calPixels p t)

/-- The last write of a load is accepted: its VALID bits are set (R198). -/
def calLoadDone (s : State) (q tag : Nat) (d : Desc) : State :=
  let k := d.words.headD 0
  let p := d.calPipeOp
  let r := calWrites s.glob d (s.hub, s.mem) (d.calFirst + k) (d.calCount - k) d.data
  let per := calPerSlot d.calPart
  let cov := calCovered (s.hub.calSlots p) per d.calFirst d.calCount
    (fun t => if d.calPart = 1 then s.hub.calPixels p t else s.hub.calBlocksOf p t)
  let h1 := r.1.modCal p (fun c => if d.calPart = 1 then { c with gTarget := c.gTarget ||| cov } else { c with mTarget := c.mTarget ||| cov })
  { s with mem := r.2, hub := (h1.calLoadEnd q tag p).complete s.glob q tag Status.ok [] }

/-- The address of entry `i` of the target bank that a CAL_READ asks for, and the blocks of all of them. -/
def Hub.calReadAt (h : Hub) (d : Desc) (i : Nat) : Nat :=
  h.calEntryAddr d.calPipeOp (1 - (h.calPipe d.calPipeOp).bank) d.calPart (d.calFirst + i)
def Hub.calReadBlocks (h : Hub) (d : Desc) : List Nat :=
  ((List.range d.calCount).map (fun i => Memory.blocksOf (h.calReadAt d i) (calEntryLen d.calPart))).flatten.eraseDups

/-- An entry holds undefined data: it has never been loaded since power-up, and nothing else lies there (R202). -/
def Hub.calUndefined (h : Hub) (m : Memory) (d : Desc) (i : Nat) : Bool :=
  let n := calEntryLen d.calPart
  !m.calLoaded (h.calReadAt d i) n && (m.dramBytes (h.calReadAt d i) n).all (· == Memory.blank)

/-- The blocks that nothing has written and that read as poisoned, a free choice for each (R202). -/
def Hub.calStray (h : Hub) (m : Memory) (d : Desc) : List Nat :=
  ((h.calReadBlocks d).zipIdx.filter (fun e => Sparse.get {} m.tags e.1 == {} && (m.dramBytes (64 * e.1) 64).all (· == Memory.blank) &&
    h.freeAt (d.calCount + e.2) % 2 == 1)).map (·.1)

/-- One entry as it is read, and its poisoned blocks: an undefined one, in blocks that the world of the requester can read, is a free value. -/
def Hub.calEntry (h : Hub) (m : Memory) (d : Desc) (i : Nat) : List Byte × List Nat :=
  let a := h.calReadAt d i
  let n := calEntryLen d.calPart
  let r := h.readZeroed m d.secure a n
  if !h.calUndefined m d i || !h.inDram a n then r
  else
    let ok := h.blocksOpen m d.secure false a n
    let stray := (h.calStray m d).filter ok.contains
    ((List.range n).map (fun j => if ok.contains ((a + j) / 64) && !stray.contains ((a + j) / 64) then BitVec.ofNat 8 (h.freeAt i / 256 ^ j) else 0),
     r.2 ++ (Memory.blocksOf a n).filter stray.contains)

/-- The entries of the target bank that CAL_READ returns, and the poisoned blocks among them. -/
def Hub.calEntries (h : Hub) (m : Memory) (d : Desc) : List Byte × List Nat :=
  let rs := (List.range d.calCount).map (h.calEntry m d)
  ((rs.map (·.1)).flatten, ((rs.map (·.2)).flatten).eraseDups)

/-- CAL_READ (R202). -/
def Hub.calRead (h : Hub) (g : Glob) (m : Memory) (q tag : Nat) : Hub :=
  match h.fetched q tag 0x31 with
  | none => h
  | some d =>
    if h.calRangeBad d then h.complete g q tag Status.invalid []
    else if !h.domainOn 7 then h.complete g q tag Status.notPresent []
    else if !h.serving .cal then h.complete g q tag Status.aborted []
    else
      let r := h.calEntries m d
      ((h.blockViolations g m d.secure false (Requester.host).unit (h.calReadBlocks d)).drew (d.calCount + (h.calReadBlocks d).length)).move q tag
        (if r.2.isEmpty then Status.ok else Status.uncorrectable) (leBytes 4 r.2.length) [d.op 32 8] r.1

def execCalRead (q tag : Nat) (errs : List (Nat × ReadError)) (s : State) : Host.Outcome State Fault Refusal :=
  nextHub (s.reads errs) ((s.reads errs).hub.calRead s.glob (s.reads errs).mem q tag)

/-- The copy of the bank in force into the other ends: the pipe is IDLE and DELTA reads 0 (R207). -/
def calCopyDoneOf (s : State) (p : Nat) : State :=
  let c := s.hub.calPipe p
  let n := s.hub.calSlots p * 557056
  if c.phase ≠ .copying then s
  else
    { s with
      mem := s.hub.copyDram s.mem s.hub.scanSecure (s.hub.bankBase p c.bank) (s.hub.bankBase p (1 - c.bank)) n
      hub := ((s.hub.calLooks s.glob s.mem false (s.hub.bankBase p c.bank) n).calLooks s.glob s.mem true (s.hub.bankBase p (1 - c.bank)) n).setCal p { c with phase := .idle, dg := 0, dm := 0, gTarget := c.gForce, mTarget := c.mForce } }

def execCalCopyDone (p : Nat) (errs : List (Nat × ReadError)) (s : State) : Host.Outcome State Fault Refusal := .next (calCopyDoneOf (s.reads errs) p)

/-! ## Measurement sequencer (R209 to R214) -/

/-- The fields of a sequence (Tables 8.5 and 8.6). -/
def sqPg (b : List Byte) : Nat := byteAt b 4
def sqSteps (b : List Byte) : Nat := leAt b 6 2
def sqStart (b : List Byte) : Nat := leAt b 8 4
def sqStride (b : List Byte) : Nat := leAt b 12 2
def sqWin (b : List Byte) : Nat := leAt b 16 4
def sqStep (b : List Byte) (k : Nat) : List Byte := (b.drop (32 + 32 * k)).take 32
def stPorts (r : List Byte) : List Nat := (List.range 32).filter (bitOf (leAt r 0 4))
def stTile (r : List Byte) : Nat := byteAt r 4
def stKind (r : List Byte) : Nat := byteAt r 5
def stPins (r : List Byte) : List Nat := (List.range 8).filter (bitOf (byteAt r 6))
def stDur (r : List Byte) : Nat := leAt r 18 2
def stTrig (r : List Byte) : Nat := leAt r 20 4
def stImage (r : List Byte) : Nat := leAt r 24 8

/-- The tiles that a step names on a port. -/
def Hub.stTiles (h : Hub) (r : List Byte) (n : Nat) : List Nat := if stTile r = 255 then h.enumerated (h.near n) else [stTile r]

/-- The layout of a header, and of a step record. -/
def sqHeaderOk (b : List Byte) : Bool :=
  leAt b 0 4 == 1 && decide (sqPg b < 8) && byteAt b 5 / 2 == 0 && decide (1 ≤ sqSteps b ∧ sqSteps b ≤ 4096) &&
    b.length == 32 + 32 * sqSteps b && decide (1 ≤ sqStride b) && leAt b 14 2 == 0 && leAt b 20 12 == 0
def sqStepOk (r : List Byte) : Bool :=
  (decide (stTile r < 128) || stTile r == 255) && decide (stKind r ≤ 2) && byteAt r 7 == 0 &&
    decide (1 ≤ byteAt r 14 ∧ byteAt r 14 ≤ 64) && decide (1 ≤ byteAt r 15 ∧ byteAt r 15 ≤ 64) && decide (byteAt r 16 < byteAt r 14) &&
    decide (byteAt r 17 < byteAt r 15) && decide (1 ≤ stDur r) && decide (stTrig r < 100 * stDur r)

/-- The bytes of IMAGE data of a step. -/
def Hub.stImageLen (h : Hub) (r : List Byte) : Nat :=
  ((stPorts r).map (fun n => ((h.stTiles r n).map (fun t => 6 * h.calPixels n t)).sum)).sum

/-- What R212 asks of a step beyond its layout. -/
def Hub.stepAllowed (h : Hub) (b r : List Byte) : Bool :=
  (stPorts r).all (fun n => h.pipeGroup n == sqPg b) && (stKind r != 2 || (h.bit Reg.CAL_CTL 3 && h.inDram (stImage r) (h.stImageLen r))) &&
    (stPins r).all (fun p => h.pinFunc p == 3 && h.pinTb p == h.groupTb (sqPg b)) &&
    (stPorts r).all (fun n => (h.stTiles r n).all (fun t =>
      decide (t < tmTiles (h.mapOf n)) && decide (tmTwStart (h.mapOf n) t ≤ sqWin b) &&
        decide (sqWin b + 100 * stDur r ≤ tmTwEnd (h.mapOf n) t)))

/-- The instant at which frame `n` of a group begins, by the timing in force. -/
def Hub.frameTime (h : Hub) (pg n : Nat) : Nat :=
  let G := h.group pg
  let a : Nat × Nat := match G.phase with
    | .gap => (if G.first then h.gridIndex pg G.next else G.frame + 1, G.next)
    | _ => (G.frame, G.start)
  addTime a.2 (signed 32 (n + 2 ^ 32 - a.1 % 2 ^ 32) * (h.period48 pg : Int))

/-- The start of the sub-field of frame `f`. -/
def Hub.subField (h : Hub) (pg f win : Nat) : Nat := h.frameTime pg f + win * ns48

/-- The first frame from START on whose sub-field lies at least 2 ms ahead (R212). -/
def Hub.possibleStart (h : Hub) (b : List Byte) : Nat :=
  let at48 := h.subField (sqPg b) (sqStart b) (sqWin b)
  let need := h.groupNow (sqPg b) + 2000000 * ns48
  if need ≤ at48 then sqStart b else (sqStart b + ceilDiv (need - at48) (h.period48 (sqPg b))) % 2 ^ 32

/-- The frames of image data for one tile: at most 1,360 pixels each (Table 10.15). -/
def imageFrames (step run px : Nat) (data : List Byte) : List (List Byte) :=
  (List.range (ceilDiv px 1360)).map (fun i =>
    let n := min 1360 (px - 1360 * i)
    [2, 0] ++ leBytes 2 step ++ leBytes 4 run ++ leBytes 2 (1360 * i) ++ leBytes 2 n ++ zeros 4 ++ (data.drop (6 * 1360 * i)).take (6 * n))

/-- The step record for a tile (Table 10.15). -/
def stepFrame (b r : List Byte) (k run frame images : Nat) : List Byte :=
  [1] ++ leBytes 1 (stKind r) ++ leBytes 2 k ++ leBytes 4 run ++ leBytes 4 frame ++ leBytes 4 (sqWin b) ++ leBytes 2 (stDur r) ++
    (r.drop 8).take 6 ++ [BitVec.ofNat 8 (byteAt r 14), BitVec.ofNat 8 (byteAt r 15), BitVec.ofNat 8 (byteAt r 16), BitVec.ofNat 8 (byteAt r 17)] ++
    leBytes 4 images

/-- The CAL frames of a step for one tile leave in Q3: the step record and, for IMAGE, its data, unless a poisoned read affects it (Table 6.4).
`off` is where the tile's data begins. -/
def Hub.sendStep (h : Hub) (g : Glob) (m : Memory) (k n t off : Nat) : Hub :=
  let x := h.cal.msr
  let r := sqStep x.seq k
  let j := h.near n
  let px := h.calPixels n t
  let img := h.readDram m h.scanSecure (stImage r + off) (6 * px)
  let fs := if stKind r = 2 then imageFrames k x.run px img.bytes else []
  let one (h : Hub) (pay : List Byte) : Hub :=
    h.submit g j { type := 9, dest := t, payload := pay, owner := .step (x.run * 8192 + k) }
  let h1 : Hub := { h with cal := { h.cal with msr := { x with due := x.due ++ [(j, t, fs.length + 1)] } } }
  if !h.originates j then h1
  else
    let h2 := one (if stKind r = 2 then h1.calLooks g m false (stImage r + off) (6 * px) else h1) (stepFrame x.seq r k x.run ((x.f0 + k * sqStride x.seq) % 2 ^ 32) fs.length)
    if img.poison && stKind r = 2 then h2 else fs.foldl one h2

/-- The CAL frames of a step for every tile it names, ports and tiles ascending. -/
def Hub.sendSteps (h : Hub) (g : Glob) (m : Memory) (k : Nat) : Hub :=
  let r := sqStep h.cal.msr.seq k
  (((stPorts r).map (fun n => (h.stTiles r n).map (fun t => (n, t)))).flatten.foldl (fun (a : Hub × Nat) e =>
    (a.1.sendStep g m k e.1 e.2 a.2, a.2 + 6 * h.calPixels e.1 e.2)) (h, 0)).1

/-- The number of the next run: from 1, wrapping from 0xFFFF_FFFF to 1. -/
def nextRun (r : Nat) : Nat := if r + 1 < 2 ^ 32 then r + 1 else 1

/-- CAL_MEASURE (R210, R212). -/
def Hub.calMeasure (h : Hub) (g : Glob) (m : Memory) (q tag : Nat) (seq : List Byte) : Hub :=
  match h.fetched q tag 0x32 with
  | none => h
  | some d =>
    let b := padTo (d.op 24 4) seq
    let steps := (List.range (sqSteps b)).map (sqStep b)
    let pg := sqPg b
    if !sqHeaderOk b || !h.groupOn pg || !h.bit Reg.CAL_CTL 2 || !steps.all (fun r => sqStepOk r && h.stepAllowed b r) then
      h.complete g q tag Status.invalid []
    else if steps.any (fun r => (stPorts r).any (fun n => !h.originates n)) then h.complete g q tag Status.conflict []
    else
      let f0 := if bitOf (byteAt b 5) 0 then h.possibleStart b else sqStart b
      if h.subField pg f0 (sqWin b) < h.groupNow pg + 2000000 * ns48 then h.complete g q tag Status.late []
      else if h.cal.msr.phase ≠ .idle then h.complete g q tag Status.busy []
      else if steps.any (fun r => (stPorts r).any (fun n => !h.blockOn (.nsh n) || !(h.port n).phase.carries)) then
        h.complete g q tag Status.notPresent []
      else if !h.serving .cal then h.complete g q tag Status.aborted []
      else
        let h1 := (h.setMsr { h.cal.msr with
          phase := .waiting, owner := some (q, tag), seq := b, pg := pg, f0 := f0, started := 0, run := nextRun h.cal.msr.run, due := []
          missed := 0, first := 0, stop := false }).await q tag []
        (h1.groupTrigger pg).sendSteps g m 0

def execCalMeasure (q tag : Nat) (seq : List Byte) (errs : List (Nat × ReadError)) (s : State) : Host.Outcome State Fault Refusal :=
  nextHub (s.reads errs) ((s.reads errs).hub.calMeasure s.glob (s.reads errs).mem q tag seq)

/-- The edge of a trigger pin is placed: its compare unit takes the time (R209, R211). -/
def Hub.placeTrigger (h : Hub) (at48 p : Nat) : Hub :=
  if h.pinFunc p = 3 then h.setCmp (h.pinCmp p) { h.cmp (h.pinCmp p) with next := some at48 } else h

/-- The sub-field of the next step starts: the tiles that lack a frame of it miss it, its triggers are placed, and the CAL frames of the step
after it leave (R211, R213). -/
def Hub.msrStep (h : Hub) (g : Glob) (m : Memory) : Hub :=
  let x := h.cal.msr
  if x.phase = .idle || sqSteps x.seq ≤ x.started || !h.serving .cal then h
  else
    let k := x.started
    let r := sqStep x.seq k
    let at48 := h.subField x.pg ((x.f0 + k * sqStride x.seq) % 2 ^ 32) (sqWin x.seq) + stTrig r * ns48
    let h1 := h.setMsr { x with
      phase := .running, started := k + 1, due := [], missed := satAdd 16 x.missed x.due.length
      first := if x.missed = 0 && !x.due.isEmpty then k else x.first }
    let h2 := (stPins r).foldl (fun h p => h.placeTrigger at48 p) h1
    if k + 1 < sqSteps x.seq then h2.sendSteps g m (k + 1) else h2

def execMsrStep (errs : List (Nat × ReadError)) (s : State) : Host.Outcome State Fault Refusal :=
  nextHub (s.reads errs) ((s.reads errs).hub.msrStep s.glob (s.reads errs).mem)

/-- The last sub-field ends, and CAL_MEASURE completes (R214). -/
def Hub.msrRunEnd (h : Hub) (g : Glob) : Hub :=
  let x := h.cal.msr
  if x.phase = .running && x.started = sqSteps x.seq then h.msrEnd g (if x.missed = 0 then Status.ok else Status.timeout) else h

def execMsrRunEnd (s : State) : Host.Outcome State Fault Refusal := nextHub s (s.hub.msrRunEnd s.glob)

/-- CAL_MSR_CTL.STOP written 1 (R214). -/
def execMsrStop (who : Requester) (s : State) : Host.Outcome State Fault Refusal := reached who (fun s =>
    nextHub s (s.hub.tryWrite s.glob who Reg.CAL_MSR_CTL (fun h => h.msrEnd s.glob Status.aborted))) s

/-! ## Statistics estimator (R215 to R218) -/

/-- The estimator takes the BASE gains of a slot from the target bank (R216). -/
def Hub.baseStored (h : Hub) (p t : Nat) : Bool := h.statRef && bitOf (h.calPipe p).gTarget t

/-- The BASE gains that a record starts from (R216), and whether their read is poisoned. -/
def Hub.baseGain (h : Hub) (m : Memory) (p t d : Nat) : Nat × Bool :=
  if h.baseStored p t then
    let r := h.readDram m h.scanSecure (h.gainAddr p (1 - (h.calPipe p).bank) t d) 4
    (ofLe r.bytes, r.poison)
  else (0x20080200, false)

/-- One record initialised; a poisoned gain word is a block fault of the estimator, which then does no more (R149). -/
def initRecord (g : Glob) (p t : Nat) (hm : Hub × Memory) (d : Nat) : Hub × Memory :=
  let h := hm.1
  let w := h.baseGain hm.2 p t d
  if !h.serving .cal then hm
  else
    let h1 := if h.baseStored p t then h.calLooks g hm.2 false (h.gainAddr p (1 - (h.calPipe p).bank) t d) 4 else h
    if w.2 then (h1.blockFault g .cal, hm.2)
    else (h1.calLooks g hm.2 true (h.statAddr p t d) 64, h.writeDram hm.2 h.scanSecure (h.statAddr p t d) (freshRecord w.1) false)

/-- The records of a pipe are initialised (R216). -/
def statInitDoneOf (s : State) (p : Nat) : State :=
  let h := s.hub
  if !(h.calPipe p).statInit || !h.statOn p || !h.serving .cal then s
  else
    let r := (List.range (h.calSlots p)).foldl (fun hm t => (List.range 65536).foldl (initRecord s.glob p t) hm) (h, s.mem)
    { s with
      mem := r.2
      hub := if r.1.serving .cal then r.1.modCal p (fun c => { c with statInit := false, statReady := true, sampled := none }) else r.1 }

def execStatInitDone (p : Nat) (errs : List (Nat × ReadError)) (s : State) : Host.Outcome State Fault Refusal := .next (statInitDoneOf (s.reads errs) p)

/-- The pipes that the estimator can sample now, and the next of them in ascending order. -/
def Hub.sampleable (h : Hub) (p : Nat) : Bool :=
  h.statOn p && h.originates p && (h.calPipe p).statReady && h.pipeOn p && h.groupOn (h.pipeGroup p)
def Hub.nextSample (h : Hub) : Option Nat :=
  ((List.range 32).map (fun i => (h.cal.last + 1 + i) % 32)).find? h.sampleable

/-- The weight of a sample, in 1/16 s: the time since the pipe's previous sample, at most STAT_CAP seconds, to the nearest 1/16 s. The manual
does not say where a tie goes, so that is free. -/
def Hub.sampleWeight (h : Hub) (p : Nat) : Nat :=
  match (h.calPipe p).sampled with
  | none => 0
  | some t => (16 * min (h.clock - t) (h.f Reg.CAL_STAT_TIME 15 8 * 400000000) + 200000000 - h.freeAt 0 % 2) / 400000000

/-- A record with a weight added to one bin of each channel; the dwell saturates. -/
def addDwell (rec_ : List Byte) (bins : List Nat) (w : Nat) : List Byte :=
  ((List.range 24).map (fun i => leBytes 2 (satAdd 16 (leAt rec_ (2 * i) 2) (if bins.getD (i / 8) 8 = i % 8 then w else 0)))).flatten ++
    (rec_.drop 48)

/-- One pixel sampled. A drive that rests on poisoned data is free; a poisoned record is a block fault of the estimator, which then does no more
(R149, R217). -/
def samplePixel (g : Glob) (p w : Nat) (hm : Hub × Memory) (px : WalkPx) : Hub × Memory :=
  let h := hm.1
  let src := h.srcRead hm.2 p px
  let d := h.pixelDrive hm.2 p px.tile px.dst (ofLe src.bytes)
  match d.1 with
  | none => hm
  | some v =>
    if !h.serving .cal || d.2.2 = 1 then hm
    else
      let a := h.statAddr p px.tile px.dst
      let r := h.readDram hm.2 h.scanSecure a 64
      let h1 := (h.blockViolations g hm.2 h.scanSecure false 0x77 (h.lineBlocks p [px])).calLooks g hm.2 false a 64
      if r.poison then (h1.blockFault g .cal, hm.2)
      else
        let bins := if src.poison || d.2.1 then [h.freeAt 0 % 8, h.freeAt 1 % 8, h.freeAt 2 % 8] else v.map (· / 2 ^ 17)
        ((if src.poison || d.2.1 then h1.drew 3 else h1).calLooks g hm.2 true a 64, h.writeDram hm.2 h.scanSecure a (addDwell r.bytes bins w) false)

/-- The PCLK cycles between two samples, and between two rounds of folds (R217, R218). -/
def Hub.statPeriod (h : Hub) : Nat := h.f Reg.CAL_STAT_TIME 7 0 * 4000000
def Hub.foldPeriod (h : Hub) : Nat := h.f Reg.CAL_STAT_TIME 31 16 * 400000000

/-- The estimator samples the next covered pipe when a sample is due (R217). -/
def statSampleOf (s : State) : State :=
  let h := s.hub
  if !h.serving .cal || s.glob.safe || h.clock < h.cal.statDue then s
  else match h.nextSample with
    | none => if (List.range 32).any h.statOn then { s with hub := { h with cal := { h.cal with statDue := h.cal.statDue + h.statPeriod } } } else s
    | some p =>
      let w := h.sampleWeight p
      let r := (h.framePixels p).foldl (samplePixel s.glob p w) ((h.drew 1), s.mem)
      let h1 := r.1.modCal p (fun c => { c with sampled := some h.clock })
      { s with mem := r.2, hub := { h1 with cal := { h1.cal with last := p, statDue := h.cal.statDue + h.statPeriod } } }

def execStatSample (errs : List (Nat × ReadError)) (s : State) : Host.Outcome State Fault Refusal :=
  .next (statSampleOf (s.reads errs))

/-- AGE of channel `c` after a fold. -/
def Hub.foldAge (h : Hub) (rec_ : List Byte) (c : Nat) : Nat :=
  min (2 ^ 32 - 1) (leAt rec_ (48 + 4 * c) 4 +
    ((List.range 8).map (fun b => leAt rec_ (16 * c + 2 * b) 2 * (h.n (Reg.CAL_STAT_COEFn (8 * c + b)) % 65536))).sum)

/-- The gain that BASE and AGE give, before the limit of 1,023. -/
def agedGain (base age : Nat) : Nat := (2 * base * 2 ^ 32 + (2 ^ 32 - age)) / (2 * (2 ^ 32 - age))

/-- One pixel folded: its record, and, for CODE 0, its target gains. A poisoned record or gain word is a block fault of the estimator. -/
def foldPixel (g : Glob) (p t : Nat) (hm : Hub × Memory) (d : Nat) : Hub × Memory :=
  let h := hm.1
  let c := h.calPipe p
  let a := h.statAddr p t d
  let r := h.readDram hm.2 h.scanSecure a 64
  let x := h.coefAt hm.2 p c.bank c.gForce 0 t d 0
  let h0 := (h.calLooks g hm.2 false a 64).blockViolations g hm.2 h.scanSecure false 0x77
    (if bitOf c.gForce t then Memory.blocksOf (h.gainAddr p c.bank t d) 4 else [])
  if !h.serving .cal then hm
  else if r.poison || x.poison then (h0.blockFault g .cal, hm.2)
  else if x.code = 1 || x.code = 2 || (h.pipe p).dead.contains (t, d) then (h0, hm.2)
  else
    let ages := (List.range 3).map (h.foldAge r.bytes)
    let m1 := h.writeDram hm.2 h.scanSecure a (zeros 48 ++ (ages.map (leBytes 4)).flatten ++ r.bytes.drop 60) false
    let h1 := h0.calLooks g hm.2 true a 64
    if x.code = 3 then (h1, m1)
    else
      let raw := List.zipWith agedGain (gainsOf (leAt r.bytes 60 4)) ages
      let new := raw.map (min 1023)
      let m2 := h.writeDram m1 h.scanSecure (h.gainAddr p (1 - c.bank) t d)
        (leBytes 4 (new.getD 0 0 + new.getD 1 0 * 2 ^ 10 + new.getD 2 0 * 2 ^ 20)) false
      let h2 := (h1.calLooks g m1 true (h.gainAddr p (1 - c.bank) t d) 4).setCal p { c with
        changed := c.changed || new != x.gains, touched := if c.touched.contains t then c.touched else t :: c.touched }
      (h2.countBy (Reg.CAL_PIPEp_CLAMP p) 32 (raw.filter (1023 < ·)).length, m2)

/-- The fold of pipe `p` is due: a round is, and it has not folded the pipe (R218; the order of the pipes in a round is a DESIGN CHOICE, log entry 30). -/
def Hub.foldIsDue (h : Hub) (p : Nat) : Bool := decide (h.cal.foldDue ≤ h.clock) && !bitOf h.cal.folded p

/-- A round of folds takes pipe `p`; with the last of the covered pipes the next round is due STAT_FOLD seconds after this one was. -/
def Hub.foldTaken (h : Hub) (p : Nat) : Hub :=
  let done := h.cal.folded ||| 2 ^ p
  if (List.range 32).all (fun k => !h.statOn k || bitOf done k) then
    { h with cal := { h.cal with folded := 0, foldDue := h.cal.foldDue + h.foldPeriod } }
  else { h with cal := { h.cal with folded := done } }

/-- A fold of a pipe starts: it is due, and waits for IDLE and for a set that changes SERIAL (R204, R218). -/
def Hub.foldMayStart (h : Hub) (p : Nat) : Bool :=
  h.foldIsDue p && h.statOn p && (h.calPipe p).statReady && (h.calPipe p).phase == .idle && !h.applyInFlight p && h.serving .cal

/-- The last write of a fold is accepted. When it changed a gain the pipe is LOADED, a SLEW transition follows, and the changed target is a trigger of
R193; a load that ended meanwhile leaves the pipe LOADED too. -/
def Hub.foldEnd (h : Hub) (p : Nat) : Hub :=
  let pg := h.pipeGroup p
  if (h.calPipe p).changed then
    (h.modCal p (fun c => { c with phase := .loaded, changed := false, loaded := false, start := true, slewOnly := true, foldAt := h.presentNow pg + 60000 * ns48 })).groupTrigger pg
  else h.modCal p (fun c => { c with phase := if c.loaded then .loaded else .idle, loaded := false })

/-- The estimator begins the fold of a pipe, or ends the one that runs: records and gains as R218 gives them, and, when a gain changed, a SLEW
transition at the first boundary at least 60 µs later. -/
def statFoldOf (s : State) (p : Nat) : State :=
  let h := s.hub
  let c := h.calPipe p
  if s.glob.safe then s
  else if c.phase = .fold then
    let r := (List.range (h.calSlots p)).foldl (fun hm t => (List.range (h.calPixels p t)).foldl (foldPixel s.glob p t) hm) (h, s.mem)
    if !r.1.serving .cal then { s with mem := r.2, hub := r.1 }
    else
      { s with
        mem := r.2
        hub := r.1.foldEnd p }
  else if h.foldMayStart p then { s with hub := (h.setCal p { c with phase := .fold, changed := false, loaded := false }).foldTaken p }
  else s

def execStatFold (p : Nat) (errs : List (Nat × ReadError)) (s : State) : Host.Outcome State Fault Refusal :=
  .next (statFoldOf (s.reads errs) p)

/-! ## What an apply does here (R198, R204, R208, R216) -/

/-- The slots of a pipe whose tile has a new size or row width. -/
def Hub.slotsChanged (h old : Hub) (p : Nat) : List Nat :=
  (List.range 128).filter (fun t => h.calPixels p t != old.calPixels p t || tmWidth (h.mapOf p) t != tmWidth (old.mapOf p) t)

/-- A mask without the bits of some slots. -/
def clearSlots (mask : Nat) (ts : List Nat) : Nat := ((List.range 128).map (fun t => if bitOf mask t && !ts.contains t then 2 ^ t else 0)).sum

/-- The calibration of a pipe after a commit. -/
def Hub.calPipeApply (h old : Hub) (p : Nat) : Hub :=
  let c := h.calPipe p
  let moved := h.calBase p != old.calBase p || h.calSlots p != old.calSlots p
  let ts := if moved then List.range 128 else h.slotsChanged old p
  let c1 := { c with gTarget := clearSlots c.gTarget ts, mTarget := clearSlots c.mTarget ts
                     gForce := clearSlots c.gForce ts, mForce := clearSlots c.mForce ts }
  let c2 := if h.statOn p && !old.statOn p then { c1 with statInit := true, statReady := false, sampled := none }
    else if !h.statOn p then { c1 with statInit := false, statReady := false, sampled := none } else c1
  let serial := h.f (Reg.CAL_PIPEp_APPLY p) 15 0 != old.f (Reg.CAL_PIPEp_APPLY p) 15 0
  let c3 :=
    if !serial || !(c2.phase == .idle || c2.phase == .loaded) then c2
    else if h.pipeOn p && h.groupOn (h.pipeGroup p) && old.pipeOn p && old.groupOn (old.pipeGroup p) then
      { c2 with start := true, slewOnly := false, foldAt := 0 }
    else { c2.finishNow with k := 1 }
  let h1 := h.setCal p c3
  if serial then h1.groupTrigger (h.pipeGroup p) else h1

/-- The estimator comes into use: its first sample and its first round of folds lie within a period of each, and where is open (R217, R218; log entry 30). -/
def Hub.statBegins (h old : Hub) : Hub :=
  if (List.range 32).any h.statOn && !(List.range 32).any old.statOn then
    { h with cal := { h.cal with
        statDue := h.clock + h.freeAt 0 % (h.statPeriod + 1), foldDue := h.clock + h.freeAt 1 % (h.foldPeriod + 1), folded := 0 } }.drew 2
  else h

/-- The calibration of every pipe after a commit. -/
def Hub.calApply (h old : Hub) : Hub := ((List.range 32).foldl (fun h p => h.calPipeApply old p) h).statBegins old

end Sys2Proof.Machine
end

