-- ==== Sys2Proof/Machine/Tile.lean ====
section
/-! DEFINITION. The commands of the Naush tile protocol: enumeration, acknowledgement, reports, TILE_SEND and the census
(spec/10_tile_protocol.md; spec/03_summit_commit.md, Configuration census). -/

namespace Sys2Proof.Machine

/-! ## Upstream frames (R248, R249) -/

/-- The judgement of R248 on a number. -/
inductive SeqVerdict where
  | accept | duplicate | discard
deriving DecidableEq, Repr

/-- R248: 1 to 2^15 ahead of the last number is accepted, equal or behind is a duplicate, anything else is discarded; with no state any number
is accepted. -/
def seqJudge (last : Option Nat) (seq : Nat) : SeqVerdict :=
  match last with
  | none => .accept
  | some l =>
    let d := (seq + 2 ^ 32 - l % 2 ^ 32) % 2 ^ 32
    if 1 ≤ d ∧ d ≤ 2 ^ 15 then .accept else if d = 0 ∨ 2 ^ 31 ≤ d then .duplicate else .discard

/-- The hub's ACK of an upstream frame, in Q0, unicast to the tile (R249, Table 10.7). -/
def Hub.sendAck (h : Hub) (g : Glob) (n k seq flags : Nat) : Hub := h.sendQ0 g n 3 k seq ([1] ++ leBytes 1 flags ++ zeros 2)

/-- The bytes at some places are zero. -/
def zeroBytes (a : List Byte) (ps : List Nat) : Bool := ps.all (fun i => byteAt a i == 0)

/-- An acknowledged upstream frame of tile `k`: `ok` says that its layout is that of its type (R226), and `act` is what the hub does with one that it accepts,
and answers whether its fault map was full. -/
def Hub.upstream (h : Hub) (g : Glob) (n k seq : Nat) (ok : Bool) (act : Hub → Hub × Bool) : Hub :=
  let j := h.near n
  if !(h.port n).phase.carries || !h.serving (.nsh n) then h
  else if 127 < k || !ok then h.count (Reg.NSHn_CNT_FMT n) 31
  else match seqJudge (h.tile j k).upSeq seq with
    | .accept =>
      let r := act (h.modTile j k (fun t => { t with upSeq := some (seq % 2 ^ 32) }))
      r.1.sendAck g n k seq (4 * b2n r.2)
    | .duplicate => (h.count (Reg.NSHn_CNT_UDUP n) 31).sendAck g n k seq 1
    | .discard => h.count (Reg.NSHn_CNT_UDUP n) 31

/-! ## Enumeration (R244, R247) -/

/-- A tile's identity answer matches its record in the tile map (R244). -/
def Hub.idMatches (h : Hub) (j k : Nat) (a : List Byte) : Bool :=
  let b := h.tileMap j
  let fl := byteAt a 2
  decide (k < tmTiles b) && leAt a 8 2 == tmVendor b k && leAt a 10 2 == tmModel b k && !bitOf fl 1 &&
    (if tmType b k = 1 then bitOf fl 4
     else leAt a 24 4 == tmPixels b k && leAt a 28 2 == tmWidth b k && (if h.bit (Reg.SCNp_CTL j) 4 then bitOf fl 2 else bitOf fl 3))

/-- The violations of a port's read of a tile's record (R406). -/
def Hub.recordLook (h : Hub) (g : Glob) (j k : Nat) : Hub := h.tableLook g (tblTile j) (768 * (k + 1)) 768

/-- An identity answer recorded: PRESENT, the end, the match, the LAST numbers; a tile new to the port gets RESEND (R190), one that does not
match raises event 0x11, as does one that no longer matches. -/
def Hub.recordIdentity (h : Hub) (g : Glob) (m : Memory) (n k : Nat) (a : List Byte) : Hub :=
  let j := h.near n
  let old := h.tile j k
  let ok := h.idMatches j k a && !h.tableBad m (tblTile j) (768 * (k + 1)) 768
  let e := h.endOf g n
  let h1 := h.modTile j k (fun t => { t with
    present := true, mismatch := !ok, ok := ok, endA := t.endA || e == 0, endB := t.endB || e == 1
    lasts := [leAt a 32 4, leAt a 36 4, leAt a 40 4, leAt a 44 4]
    vendor := leAt a 8 2, model := leAt a 10 2, version := leAt a 12 4, answer := a })
  let h2 := if old.present || (h.port j).before.contains k then h1 else h1.setResend j k
  h2.raiseIf (!ok && !(old.present && old.mismatch)) g j (0x11 + k * 256 + b2n (bitOf (byteAt a 2) 1) * 65536)

/-- The layout of an identity answer (Table 10.5). -/
def identityLayout (a : List Byte) : Bool :=
  a.length == 64 && decide (byteAt a 2 < 64) && zeroBytes a [0, 3, 30, 31, 60, 61, 62, 63]

/-- A tile's identity answer: recorded while the port enumerates, or, on a hub that does not enumerate, at its own end (R370). -/
def Hub.identityAnswer (h : Hub) (g : Glob) (m : Memory) (n k seq : Nat) (a : List Byte) : Hub :=
  let j := h.near n
  h.upstream g n k seq (identityLayout a) (fun h =>
    (if (h.port j).enumTry != 0 || !h.originates j then (h.recordLook g j k).recordIdentity g m n k a else h, false))

/-- `errs` are the errors that the read of the tile's record in the tile map meets; of a record that reads poisoned nothing matches (R149; DESIGN CHOICE, log entry 28). -/
def execIdentityAnswer (n k seq : Nat) (answer : List Byte) (errs : List (Nat × ReadError)) (s : State) : Host.Outcome State Fault Refusal := wokenWhen (Hub.naushHears n) 4 (fun s =>
    nextHub (s.reads errs) ((s.reads errs).hub.identityAnswer s.glob (s.reads errs).mem n k seq answer)) s

/-- The newer of two numbers modulo 2^32. -/
def newerSeq (a b : Nat) : Nat := if (b + 2 ^ 32 - a % 2 ^ 32) % 2 ^ 32 < 2 ^ 31 then b else a

/-- The counters after enumeration (R247): one more than each LAST, and for broadcasts one more than the newest. -/
def Port.countersSet (p : Port) : Port :=
  let rs := p.tiles.filter (fun e => e.2.present)
  let newest (i : Nat) : Nat := match rs.map (fun e => e.2.lasts.getD i 0) with
    | [] => 0
    | x :: xs => xs.foldl newerSeq x
  let p1 := rs.foldl (fun p e => { p with
    uni1 := Sparse.set 0 p.uni1 e.1 ((e.2.lasts.getD 0 0 + 1) % 2 ^ 32)
    uni3 := Sparse.set 0 p.uni3 e.1 ((e.2.lasts.getD 1 0 + 1) % 2 ^ 32) }) p
  if rs.isEmpty then p1 else { p1 with bc1 := (newest 2 + 1) % 2 ^ 32, bc3 := (newest 3 + 1) % 2 ^ 32 }

/-- The fault map with entries removed: they keep their place among the cleared ones until R200 lets go of them. -/
def Port.unmap (p : Port) (now : Nat) (gone : FaultEntry → Bool) : Port :=
  let kept := p.fmap.filter (fun e => !gone e)
  { p with fmap := kept, cleared := p.cleared ++ (p.fmap.filter gone).map (fun e => { e with since := now }),
           fullSaid := p.fullSaid && decide (512 ≤ kept.length) }

/-- The present instant of a port's group. -/
def Hub.portNow (h : Hub) (n : Nat) : Nat := h.presentNow (h.portGroup n)

/-- A tile known before no longer answers: event 0x15, and its fault-map entries go (R244). -/
def Hub.tileGone (h : Hub) (g : Glob) (j k : Nat) : Hub :=
  let had := (h.port j).fmap.any (fun e => e.tile == k)
  ((h.nshEvent g j (0x15 + k * 256)).modPort j (fun p => p.unmap (h.portNow j) (fun e => e.tile == k))).raiseIf had g j (0x13 + k * 256)

/-- CONFIG to a matching tile; one whose map record reads poisoned gets none, is marked MISMATCH and raises event 0x11 (Table 6.4). -/
def Hub.configOrMark (h : Hub) (g : Glob) (m : Memory) (j k : Nat) : Hub :=
  if h.tableBad m (tblTile j) (768 * (k + 1)) 768 then (h.modTile j k (fun t => { t with mismatch := true })).nshEvent g j (0x11 + k * 256)
  else (h.recordLook g j k).sendConfig g j k

/-- The control firmware sends tile bundles: TILE_AUTO is 1, and the image that runs is confirmed (R400). -/
def Hub.bundlesOn (h : Hub) : Bool := h.bit Reg.FWU_CTL 2 && h.fwu.phase == .running && !h.fwu.inTrial

/-- Ports whose tiles the firmware looks through for bundles, beside those it has still to do. -/
def Hub.bundleWant (h : Hub) (js : List Nat) : Hub :=
  if h.bundlesOn then { h with fwu := { h.fwu with bundlePorts := h.fwu.bundlePorts ++ js.filter (fun j => !h.fwu.bundlePorts.contains j) } } else h

/-- Enumeration ends: counters, CONFIGs, NSHn_ENUM and event 0x10 (R244). -/
def Hub.enumEnd (h : Hub) (g : Glob) (m : Memory) (j : Nat) : Hub :=
  let known := h.enumerated j
  let gone := (h.port j).before.filter (fun k => !known.contains k)
  let h1 := gone.foldl (fun h k => h.tileGone g j k) (h.modPort j Port.countersSet)
  let h2 := ((known.filter (fun k => (h1.tile j k).ok)).foldl (fun h k => h.configOrMark g m j k) h1).bundleWant [j]
  (h2.modPort j (fun p => { p with
    enumTry := 0, enumDone := true, enumCnt := known.length, before := []
    enumBad := p.tiles.any (fun e => e.2.mismatch) || known.length != tmTiles (h.tileMap j) })).nshEvent g j (0x10 + known.length * 256)

/-- The 1 ms wait for identity answers ends: the request is repeated, at most twice, while answers are missing; else enumeration ends. There is no wait while
the request itself waits in Q1, or while no end of the chain carries frames. -/
def Hub.enumWaitEnd (h : Hub) (g : Glob) (m : Memory) (n : Nat) : Hub :=
  let p := h.port n
  if p.enumTry = 0 || !(h.ends n).any (fun m => (h.port m).phase.carries && h.laneActs g m) || (p.q1 ++ p.sends).any (fun f => f.owner == .enum) then h
  else if p.enumTry < 3 && !(tmAll (h.tileMap n)).all (fun k => (h.tile n k).present) then
    (h.modPort n (fun p => { p with enumTry := p.enumTry + 1 })).sendEnum g n
  else h.enumEnd g m n

/-- `errs` are the errors that the reads of tile-map records meet. -/
def execEnumWaitEnd (n : Nat) (errs : List (Nat × ReadError)) (s : State) : Host.Outcome State Fault Refusal :=
  nextHub (s.reads errs) ((s.reads errs).hub.enumWaitEnd s.glob (s.reads errs).mem n)

/-! ## ACK, retries and reports -/

/-- A tile's ACK (R249): it marks the frame it matches, and a frame that every tile has acknowledged retires. -/
def Hub.ackReceive (h : Hub) (g : Glob) (n k queue seq : Nat) (unsup : Bool) : Hub :=
  let j := h.near n
  if !(h.port n).phase.carries || !h.serving (.nsh n) then h
  else if 127 < k || !(queue == 1 || queue == 3) then h.count (Reg.NSHn_CNT_FMT n) 31
  else (h.modPort j (fun p => p.withQueue queue (ackFrames seq k unsup (p.queue queue)))).retireAll g j queue

def execAckReceive (n k queue seq : Nat) (unsupported : Bool) (s : State) : Host.Outcome State Fault Refusal := wokenWhen (Hub.naushHears n) 4 (fun s =>
    nextHub s (s.hub.ackReceive s.glob n k queue seq unsupported)) s

/-- A frame that a retry timer names: it has left every end, for the timer starts at the end of its transmission (R250). -/
def retryMatches (dest seq : Nat) (f : QFrame) : Bool := f.sent && f.todo.isEmpty && f.owner != .enum && f.dest == dest && f.seq == seq

/-- A retry timer expires (R250): the frame is resent with RETRY, or, after RETRY_LIMIT resends, the port raises a link fault. The timer of a
held queue has stopped, and so have all at keepalive (R429). Until the copy leaves, an ACK of an earlier one still retires the frame (R249). -/
def Hub.retryTimeout (h : Hub) (g : Glob) (n queue dest seq : Nat) : Hub :=
  let j := h.near n
  match ((h.port j).queue queue).find? (retryMatches dest seq) with
  | none => h
  | some f =>
    if h.heldQ n queue || 2 ≤ h.power.state || !(h.port n).phase.carries || !h.laneActs g n then h
    else if h.f (Reg.NSHn_PROTO n) 12 8 ≤ f.tries then h.linkFault g n 2
    else
      ((h.count (Reg.NSHn_CNT_RETRY n) 31).modPort j (fun p => p.withQueue queue ((p.queue queue).map (fun f =>
        if retryMatches dest seq f then { f with todo := h.ends j, tries := f.tries + 1 } else f)))).pump g j

def execRetryTimeout (n queue dest seq : Nat) (s : State) : Host.Outcome State Fault Refusal :=
  nextHub s (s.hub.retryTimeout s.glob n queue dest seq)

/-- A fault map under a report: the port, the additions that found it full, and how often event 0x14 is due, once until the map has room again
(R263). -/
structure FaultWork where
  port   : Port
  full   : Nat := 0
  events : Nat := 0
deriving DecidableEq, Repr

/-- One pixel of a tile added to a fault map of at most 512 pixels: channels of an entry that exists are merged. -/
def FaultWork.add (w : FaultWork) (now k pixel ch : Nat) (short : Bool) : FaultWork :=
  let p := w.port
  if p.fmap.any (fun e => e.tile == k && e.pixel == pixel) then
    { w with port := { p with fmap := p.fmap.map (fun e =>
        if e.tile == k && e.pixel == pixel then { e with ch := e.ch ||| (ch &&& 7), short := e.short || short } else e) } }
  else if p.fmap.length < 512 then
    { w with port := { p with fmap := p.fmap ++ [{ pixel := pixel, tile := k, ch := ch &&& 7, short := short, since := now }] } }
  else { port := { p with fullSaid := true }, full := w.full + 1, events := w.events + b2n (!p.fullSaid) }

/-- One entry of a FAULT report (Table 10.14). -/
def FaultWork.entry (w : FaultWork) (now k : Nat) (e : List Byte) : FaultWork :=
  let pixel := leAt e 0 2
  match byteAt e 3 with
  | 1 => w.add now k pixel (byteAt e 2) false
  | 2 => (w.add now k pixel (byteAt e 2) true).add now k (leAt e 4 2) (byteAt e 6) true
  | 3 => { w with port := w.port.unmap now (fun f => f.tile == k && f.pixel == pixel) }
  | _ => w

/-- The layout of one entry. -/
def faultEntryLayout (e : List Byte) : Bool :=
  decide (1 ≤ byteAt e 3 ∧ byteAt e 3 ≤ 3) && decide (byteAt e 2 < 8) && zeroBytes e [7] &&
    (if byteAt e 3 = 2 then decide (byteAt e 6 < 8) else zeroBytes e [4, 5, 6])

/-- Entry `i` of a FAULT payload, and the layout of the payload (R226). -/
def faultAt (r : List Byte) (i : Nat) : List Byte := (r.drop (8 + 8 * i)).take 8
def faultLayout (r : List Byte) : Bool :=
  let c := byteAt r 0
  decide (1 ≤ c ∧ c ≤ 128) && r.length == 8 + 8 * c && zeroBytes r [1, 2, 3, 4, 5, 6, 7] && (List.range c).all (fun i => faultEntryLayout (faultAt r i))

/-- An accepted FAULT report: the map, its entries applied in order, event 0x13 when it changed, and FULL with its count and event 0x14 (R263). -/
def Hub.applyFaults (h : Hub) (g : Glob) (j k : Nat) (r : List Byte) : Hub × Bool :=
  let p := h.port j
  let w := (List.range (byteAt r 0)).foldl (fun w i => w.entry (h.portNow j) k (faultAt r i)) { port := p : FaultWork }
  let h1 := (h.setPort j w.port).raiseIf (w.port.fmap != p.fmap) g j (0x13 + k * 256)
  let h2 := if w.full = 0 then h1 else h1.countBy (Reg.NSHn_CNT_FMOVF j) 31 w.full
  ((List.range w.events).foldl (fun h _ => h.nshEvent g j 0x14) h2, w.full != 0)

/-- A tile's FAULT frame (R263). -/
def Hub.faultReport (h : Hub) (g : Glob) (n k seq : Nat) (r : List Byte) : Hub :=
  h.upstream g n k seq (faultLayout r) (fun h => h.applyFaults g (h.near n) k r)

def execFaultReport (n k seq : Nat) (report : List Byte) (s : State) : Host.Outcome State Fault Refusal := wokenWhen (Hub.naushHears n) 4 (fun s =>
    nextHub s (s.hub.faultReport s.glob n k seq report)) s

/-- The layout of a frame report, and of a measurement answer (Table 10.10). -/
def reportLayout (r : List Byte) : Bool := r.length == 24 && decide (byteAt r 1 ≤ 2) && decide (byteAt r 2 < 2) && zeroBytes r [0, 3, 20, 21, 22, 23]
def echoLayout (a : List Byte) : Bool :=
  a.length == 32 && byteAt a 0 == 1 && decide (byteAt a 1 < 16) && decide (byteAt a 2 < 2) && zeroBytes a [3, 4, 5, 6, 7]

/-- A frame report (R255): duplicate count, LATE with RESEND, count and event, and RESEND cleared by a whole frame presented. A report for a
frame whose FLIP this port did not send is ignored. -/
def Hub.frameReport (h : Hub) (g : Glob) (n k : Nat) (r : List Byte) : Hub :=
  let j := h.near n
  let frame := leAt r 4 4
  let status := byteAt r 1
  if !(h.port n).phase.carries || !h.serving (.nsh n) then h
  else if 127 < k || !reportLayout r then h.count (Reg.NSHn_CNT_FMT n) 31
  else match (h.port j).flips.find? (fun f => f.frame == frame) with
    | none => h
    | some fl =>
      let h1 := h.modTile j k (fun t => { t with dup := leAt r 16 4, last := status % 4, frame := frame % 65536 })
      if status = 1 then
        let h2 := (h1.setResend j k).count (Reg.NSHn_CNT_LATE n) 31
        if (h.port j).lateSaid = some frame then h2
        else (h2.modPort j (fun p => { p with lateSaid := some frame })).nshEvent g n (0x12 + k * 256 + frame % 65536 * 65536)
      else if status = 0 && fl.whole.contains k then h1.modTile j k (fun t => { t with resend := false })
      else h1

def execFrameReport (n k : Nat) (report : List Byte) (s : State) : Host.Outcome State Fault Refusal := wokenWhen (Hub.naushHears n) 4 (fun s =>
    nextHub s (s.hub.frameReport s.glob n k report)) s

/-- A tile's answer to a MEASURE frame (R106, R257): its ingress stamp t4 is the PCLK cycle with `phase`, the place in it in 2^-16 ns (R104), and with the t1
that the port kept it gives the RTT of its round. The answer counts once, for the end that sent the frame, and not where FIFO 2 or 3 lost one of the
round's stamps. -/
def Hub.measurementAnswer (h : Hub) (g : Glob) (n k phase : Nat) (a : List Byte) : Hub :=
  let p := h.port n
  let round := byteAt a 1
  if !p.phase.carries || !h.serving (.nsh n) then h
  else if 127 < k || !echoLayout a then h.count (Reg.NSHn_CNT_FMT n) 31
  else
    let t4 := 163840 * h.clock + phase % 163840
    let h1 := h.fifoPush g (stampFifo n) (t4 % 2 ^ 64)
    match p.stamped.find? (fun e => e.1 == round) with
    | none => h1
    | some e =>
      if h.fifoLoses (stampFifo n) || !p.measuring || byteAt a 2 != h.endOf g n || (Sparse.get [] p.rounds k).any (fun e => e.1 == round) then h1
      else
        let t2 : Int := leAt a 8 8
        let t3 : Int := (leAt a 16 8 : Int) + signed 64 (leAt a 24 8)
        h1.modPort n (fun p => { p with rounds := Sparse.mod [] p.rounds k (fun l =>
          (round, (t4 : Int) - (e.2 : Int) - signed 64 (unsigned 64 (t3 - t2))) :: l) })

def execMeasurementAnswer (n k phase : Nat) (answer : List Byte) (s : State) : Host.Outcome State Fault Refusal := wokenWhen (Hub.naushHears n) 4 (fun s =>
    nextHub s (s.hub.measurementAnswer s.glob n k phase answer)) s

/-! ## TILE_SEND (R258, R260, R264) -/

/-- A KIND that TILE_SEND refuses. -/
def tileKindRefused (type kind : Nat) : Bool :=
  (type == 4 && (kind ≤ 2 || (4 ≤ kind && kind ≤ 0x3F))) || (type == 9 && kind < 0x80)

/-- TILE_SEND: INVALID and NOT_PRESENT send nothing, nor does one that a faulted or isolated port refuses (R22, R23; that the error response reads as ABORTED
is a DESIGN CHOICE, log entry 20); otherwise the frame is queued, or waits for room. -/
def Hub.tileSend (h : Hub) (g : Glob) (q tag : Nat) (payload : List Byte) : Hub :=
  match h.fetched q tag 0x80 with
  | none => h
  | some d =>
    let n := d.op 16 1; let k := d.op 17 1; let type := d.op 18 1; let len := d.op 20 2
    let bytes := padTo len payload
    if 31 < n || !(type == 4 || type == 9 || type == 10) || len == 0 || 8192 < len || (128 ≤ k && k ≤ 254) ||
        tileKindRefused type (byteAt bytes 0) then
      h.complete g q tag Status.invalid []
    else if h.blockOn (.nsh n) && !h.serving (.nsh n) then h.complete g q tag Status.aborted []
    else if !h.blockOn (.nsh n) || !(h.port n).phase.carries ||
        (if k = 255 then (h.enumerated n).isEmpty else !(decide (k < tmTiles (h.tileMap n)) && (h.tile n k).present)) then
      h.complete g q tag Status.notPresent []
    else (h.await q tag []).submit g n { type := type, dest := k, payload := bytes, owner := .tileSend q tag }

def execTileSend (q tag : Nat) (payload : List Byte) (s : State) : Host.Outcome State Fault Refusal :=
  nextHub s (s.hub.tileSend s.glob q tag payload)

/-! ## Census (R85, R86) -/

/-- The ports of a mask, in ascending order. -/
def maskPorts (mask : Nat) : List Nat := (List.range 32).filter (fun n => bitOf mask n)

/-- CENSUS: NOT_PRESENT when a named port's domain is off; otherwise every enumerated tile of the named ports is asked for its digest. A
named port that is the far end of a self-looped chain gives no entry, because its tiles stand under the near port (DESIGN CHOICE, log entry 31: R85
does not say). -/
def Hub.censusStart (h : Hub) (g : Glob) (q tag : Nat) : Hub :=
  h.servedBy g .cmt q tag 0x71 fun d =>
    let ps := maskPorts (d.op 16 4)
    if ps.any (fun n => !h.blockOn (.nsh n)) then h.complete g q tag Status.notPresent []
    else
      let up := ps.filter (fun n => (h.port n).phase.carries)
      let c : Census :=
        { sq := q, tag := tag, mask := d.op 16 4, dest := d.op 24 8, epoch := h.commit.epoch, seconds := h.nowSec, nanos := h.nowNs
          down := ps.filter (fun n => !(h.port n).phase.carries)
          tiles := (up.map (fun n => (h.enumerated n).map (fun k => (n, k)))).flatten, answers := []
          endEpoch := h.commit.epoch, endDigest := h.commit.digest }
      let h1 := h.await q tag []
      let h2 := { h1 with commit := { h1.commit with censuses := h1.commit.censuses ++ [c] } }
      up.foldl (fun h n =>
        if h.originates n then
          let h := h.modPort n (fun p => { p with req := (p.req + 1) % 2 ^ 32 })
          h.submit g n { type := 5, dest := 255, payload := [1, 0, 0, 0] ++ leBytes 4 (h.port n).req, owner := .none }
        else h) h2

def execCensus (q tag : Nat) (s : State) : Host.Outcome State Fault Refusal := nextHub s (s.hub.censusStart s.glob q tag)

/-- A census with one more answer: the first of a tile that it asked. -/
def Census.answer (c : Census) (a : CensusAnswer) (epoch : Nat) (digest : List Byte) : Census :=
  if c.tiles.contains (a.port, a.tile) && !c.answers.any (fun b => b.port == a.port && b.tile == a.tile) then
    { c with answers := c.answers ++ [a], endEpoch := epoch, endDigest := digest }
  else c

/-- The layout of a digest answer (Table 10.5). -/
def digestLayout (a : List Byte) : Bool := a.length == 24 && byteAt a 0 == 1 && zeroBytes a [1, 2, 3, 20, 21, 22, 23]

/-- A tile's digest answer (Table 10.5), recorded with the TB0 time and whether its epoch differs. Its REQ is not compared, so that an answer to an older
request counts for every census that still waits for the tile (DESIGN CHOICE, log entry 31: R85 does not say how answers and requests are matched). -/
def Hub.digestAnswer (h : Hub) (g : Glob) (n k seq : Nat) (a : List Byte) : Hub :=
  h.upstream g n k seq (digestLayout a) (fun h =>
    let r : CensusAnswer :=
      { port := h.near n, tile := k, epoch := leAt a 16 4, digest := (a.drop 8).take 8, differs := leAt a 16 4 != h.commit.epoch
        seconds := h.nowSec, nanos := h.nowNs }
    ({ h with commit := { h.commit with censuses := h.commit.censuses.map (fun c => c.answer r h.commit.epoch h.commit.digest) } }, false))

def execDigestAnswer (n k seq : Nat) (answer : List Byte) (s : State) : Host.Outcome State Fault Refusal := wokenWhen (Hub.naushHears n) 4 (fun s =>
    nextHub s (s.hub.digestAnswer s.glob n k seq answer)) s

/-- The census entry of one tile (Table 3.11). -/
def Census.entry (c : Census) (p k : Nat) : List Byte :=
  match c.answers.find? (fun a => a.port == p && a.tile == k) with
  | some a => leBytes 1 p ++ leBytes 1 k ++ leBytes 1 (1 + 4 * b2n a.differs) ++ [0] ++ leBytes 4 a.epoch ++ a.digest ++ leBytes 4 a.seconds ++
      leBytes 4 a.nanos ++ zeros 8
  | none => leBytes 1 p ++ leBytes 1 k ++ zeros 30

/-- The entries of one port: a port that was down has one. -/
def Census.portEntries (c : Census) (p : Nat) : List (List Byte) :=
  if c.down.contains p then [leBytes 1 p ++ [255, 2] ++ zeros 29]
  else (c.tiles.filter (fun t => t.1 == p)).map (fun t => c.entry p t.2)

/-- The census report: header (Table 3.10) and entries in ascending order. -/
def Census.report (c : Census) (epoch : Nat) (digest : List Byte) : List Byte :=
  let es := ((maskPorts c.mask).map c.portEntries).flatten
  leBytes 4 c.epoch ++ leBytes 4 epoch ++ padTo 8 digest ++ leBytes 4 c.seconds ++ leBytes 4 c.nanos ++ leBytes 4 c.mask ++
    leBytes 2 es.length ++ zeros 34 ++ es.flatten

/-- The answers are complete or the 10 ms wait ends: the report goes to host memory, and the completion follows it (R86). `bad` lists the 64-byte blocks of the
report whose read is poisoned: they are delivered as zero, and the census completes with UNCORRECTABLE (Table 6.4). -/
def Hub.censusEnd (h : Hub) (q tag : Nat) (bad : List Nat) : Hub :=
  match h.commit.censuses.find? (fun c => c.sq == q && c.tag == tag) with
  | none => h
  | some c =>
    let whole := c.answers.length == c.tiles.length
    let h1 := { h with commit := { h.commit with censuses := h.commit.censuses.erase c } }
    let rep := if whole && !c.tiles.isEmpty then c.report c.endEpoch c.endDigest else c.report h.commit.epoch h.commit.digest
    let hit := bad.filter (fun b => decide (64 * b < rep.length))
    h1.move q tag (if !hit.isEmpty then Status.uncorrectable else if whole && c.down.isEmpty then Status.ok else Status.timeout)
      (leBytes 4 c.answers.length) [c.dest] (zeroBlocks hit rep)

def execCensusWaitEnd (q tag : Nat) (bad : List Nat) (s : State) : Host.Outcome State Fault Refusal := nextHub s (s.hub.censusEnd q tag bad)

end Sys2Proof.Machine
end

