-- ==== Sys2Proof/Machine/Firmware.lean ====
section
/-! DEFINITION. Firmware images, staging, activation, confirmation and the settings store (spec/16_firmware_update.md), and the secure services of
the control firmware (spec/17_security_cairn.md, R409). -/

namespace Sys2Proof.Machine

/-! ## The FWU block -/

/-- Event of the FWU block (R402). -/
def Hub.fwuEvent (h : Hub) (g : Glob) (detail : Nat) : Hub := h.raise g 91 detail

def Hub.modFwu (h : Hub) (f : Fwu → Fwu) : Hub := { h with fwu := f h.fwu }

/-! ## Staging (R386 to R388, R401) -/

/-- What a FW_STAGE completes with before any of its data is read: in the safe state, too short a first one, while the FWU block is taken, or out of order. -/
def Hub.fwStageStatus (h : Hub) (g : Glob) (d : Desc) : Option Nat :=
  let len := d.op 24 4
  let off := d.op 28 4
  if g.safe then some Status.aborted
  else if off = 0 && len < 2048 then some Status.invalid
  else if h.fwu.op.isSome || h.fwu.inTrial || (h.fwu.boot.pending && off != 0) then some Status.busy
  else if off != 0 && (off != h.fwu.bytes || imgSize h.fwu.staging < off + len) then some Status.invalid
  else none

/-- A FW_STAGE with OFFSET 0 discards any staging, and cancels a pending activation (R386, R401). -/
def Hub.fwStageBegin (h : Hub) (off : Nat) : Hub :=
  if off ≠ 0 then h
  else h.modFwu (fun w =>
    let w1 := { w with bytes := 0, staging := [] }
    if w.boot.pending then w1.setBoot { w.boot with pending := false } else w1)

/-- FW_STAGE; `data` is what lies at SRC_ADDR. The flash is programmed until FLASH_OPERATION_DONE. -/
def Hub.fwStage (h : Hub) (g : Glob) (q tag : Nat) (data : List Byte) : Hub :=
  h.servedBy g .fwu q tag 0x50 fun d =>
    let off := d.op 28 4
    let bytes := padTo (d.op 24 4) data
    match h.fwStageStatus g d with
    | some status => h.complete g q tag status []
    | none =>
      let why := if off = 0 then imgReason g.otp h.fwu.inUse true bytes else 0
      if why != 0 then ((h.modFwu (fun w => { w with reason := why })).fwuEvent g (1 + why * 256)).complete g q tag Status.refused []
      else if off = 0 && imgSize bytes < d.op 24 4 then h.complete g q tag Status.invalid []
      else
        ((h.fwStageBegin off).modFwu (fun w => { w with op := some { q := q, tag := tag, activate := false } })).move q tag Status.ok [] [off] bytes

def execFwStage (q tag : Nat) (data : List Byte) (s : State) : Host.Outcome State Fault Refusal := nextHub s (s.hub.fwStage s.glob q tag data)

/-- A FW_STAGE ends part-way: BYTES stays at its OFFSET, rounded down to a sector of 64 KiB (R388). -/
def Hub.fwStageCut (h : Hub) (off : Nat) : Hub :=
  h.modFwu (fun w => { w with op := none, bytes := off / 65536 * 65536, staging := w.staging.take (off / 65536 * 65536) })

/-- A FW_STAGE that the FWU block would have taken ends before it has begun: by an ABORT, by R41 or with UNCORRECTABLE, as one that has begun (R388). -/
def Hub.fetchedCut (h : Hub) (g : Glob) (d : Desc) : Hub :=
  if d.opcode = 0x50 && (h.fwStageStatus g d).isNone then (h.fwStageBegin (d.op 28 4)).fwStageCut (d.op 28 4) else h

/-! ## One at a time (R401) -/

/-- A FW_CONFIRM whose turn comes after a FW_STAGE or a FW_ACTIVATE, beside which no trial runs; the safe state ends it, as a fault of the block does. -/
def Hub.confirmNow (h : Hub) (g : Glob) : Nat :=
  if g.safe || !h.serving .fwu then Status.aborted else if h.bit Reg.FWU_CTL 0 then Status.ok else Status.busy

/-- The FW_CONFIRMs that have waited for the FWU block execute once it is free. -/
def Hub.confirmsGo (h : Hub) (g : Glob) : Hub :=
  if h.fwu.op.isSome then h
  else (List.range 64).foldl (fun h q =>
    ((h.sq q).inflight.filter (fun d => d.opcode == 0x52 && d.phase == .waiting)).foldl (fun h d => h.complete g q d.tag (h.confirmNow g) []) h) h

/-! ## Activation (R389, R401) -/

/-- FW_ACTIVATE: the staged image is verified as a set; the inactive slot is erased until FLASH_OPERATION_DONE. With an activation pending it changes nothing, but
in recovery, where it copies and boots the image that is staged (R396). -/
def Hub.fwActivate (h : Hub) (g : Glob) (q tag : Nat) : Hub :=
  h.servedBy g .fwu q tag 0x51 fun _ =>
    let why := imgReason g.otp h.fwu.inUse true h.fwu.staging
    let start := h.modFwu (fun w => { w with op := some { q := q, tag := tag, activate := true } })
    if g.safe then h.complete g q tag Status.aborted []
    else if h.fwu.op.isSome then h.complete g q tag Status.busy []
    else if h.fwu.boot.pending then (if h.fwu.phase = .recovery then start.await q tag [] else h.complete g q tag Status.ok [])
    else if !h.fwu.staged then h.complete g q tag Status.invalid []
    else if why != 0 || !imgPartsOk h.fwu.staging then
      (h.modFwu (fun w => { w with reason := if why != 0 then why else 8, bytes := 0, staging := [] })).complete g q tag Status.invalid []
    else start.await q tag []

def execFwActivate (q tag : Nat) (s : State) : Host.Outcome State Fault Refusal := nextHub s (s.hub.fwActivate s.glob q tag)

/-! ## Confirmation (R393, R398, R400) -/

/-- The FWB frames of a bundle for a tile, of at most 8,176 bytes of data each (R265). -/
def bundleFrames (k i : Nat) (part : List Byte) : List QFrame :=
  (List.range (ceilDiv part.length 8176)).map (fun c =>
    { type := 10, dest := k, owner := .none
      payload := leBytes 4 i ++ leBytes 4 (8176 * c) ++ leBytes 4 part.length ++ zeros 4 ++ (part.drop (8176 * c)).take 8176 })

/-- A bundle serves a tile: its maker and model match, and the tile's firmware is older. -/
def bundleFor (t : TileRec) (e : List Byte) : Bool :=
  entType e == 8 && t.present && leAt e 16 2 == t.vendor && leAt e 18 2 == t.model && decide (t.version < entVersion e)

/-- The frames that bring the tiles of a port up to date. -/
def Hub.bundlesFor (h : Hub) (n : Nat) : List QFrame :=
  let img := h.fwu.running
  ((List.range (imgParts img)).map (fun i =>
    ((h.port n).tiles.filter (fun t => bundleFor t.2 (imgManifest img i))).map (fun t =>
      bundleFrames t.1 i (imgPart img (imgManifest img i))))).flatten.flatten

/-- Bundle frames of a port that are not yet acknowledged. -/
def Hub.bundlesLeft (h : Hub) (n : Nat) : Bool :=
  ((h.port n).sends ++ (h.port n).q3).any (fun f => f.type == 10 && f.owner == .none)

/-- The control firmware goes on to the next port once the bundles of the present one are acknowledged: one port at a time. -/
def Hub.bundleStep (h : Hub) (g : Glob) : Hub :=
  match h.fwu.bundlePorts with
  | [] => h
  | n :: rest =>
    if !h.bundlesOn || (List.range 32).any (fun k => h.bundlesLeft k) then h
    else (h.bundlesFor n).foldl (fun h f => h.submit g n f) (h.modFwu (fun w => { w with bundlePorts := rest }))

/-- FW_CONFIRM: the image is confirmed, the floor rises to its SEC_VERSION, and bundles go out when TILE_AUTO is 1. It waits for a FW_STAGE or FW_ACTIVATE that runs
(R401). -/
def Hub.fwConfirm (h : Hub) (g : Glob) (q tag : Nat) : Glob × Hub :=
  match h.fetched q tag 0x52 with
  | none => (g, h)
  | some _ =>
    if g.safe || !h.serving .fwu then (g, h.complete g q tag Status.aborted [])
    else if h.fwu.op.isSome then (g, h.await q tag [])
    else if !h.bit Reg.FWU_CTL 0 then (g, h.complete g q tag Status.busy [])
    else if !h.fwu.inTrial then (g, h.complete g q tag Status.ok [])
    else
      let img := h.fwu.running
      let floor := max g.otp.svFloor (min 64 (imgSecVersion img))
      let g1 := { g with otp := { g.otp with svFloor := floor } }
      let h1 := h.modFwu (fun w => (w.setBoot { w.boot with trial := false, boots := 0, used := 0, outcome := 1 }))
      let h2 := (h1.record g1 0x0501 0x7A (imgVersion img) (imgSecVersion img) floor h.fwu.slot).fwuEvent g1
        (3 + min (imgSecVersion img) (2 ^ 24 - 1) * 256)
      (g1, ((h2.bundleWant (List.range 32)).bundleStep g1).complete g1 q tag Status.ok [])

def execFwConfirm (q tag : Nat) (s : State) : Host.Outcome State Fault Refusal :=
  .next { s with glob := (s.hub.fwConfirm s.glob q tag).1, hub := (s.hub.fwConfirm s.glob q tag).2 }

/-- TILE_AUTO is written: bundles start where it becomes 1, and stop where it becomes 0; frames of a bundle that already have their SEQ go (R400; DESIGN CHOICE, log
entry 14). -/
def Hub.tileAuto (h : Hub) (v : Bool) : Hub :=
  let h1 := h.putBit Reg.FWU_CTL 2 v
  if v then (if h.bit Reg.FWU_CTL 2 then h1 else h1.bundleWant (List.range 32))
  else
    ((List.range 32).filter (fun n => (h.port n).sends.any (fun f => f.type == 10 && f.owner == .none))).foldl (fun h n =>
      h.modPort n (fun p => { p with sends := p.sends.filter (fun f => !(f.type == 10 && f.owner == .none)) }))
      (h1.modFwu (fun w => { w with bundlePorts := [] }))

/-- A write of FWU_CTL that sets READY; it writes TILE_AUTO of the same register too (R393). -/
def execFwuReady (who : Requester) (tileAuto : Bool) (s : State) : Host.Outcome State Fault Refusal := reached who (fun s =>
    nextHub s (s.hub.tryWrite s.glob who Reg.FWU_CTL (fun h => (h.putBit Reg.FWU_CTL 0 true).tileAuto tileAuto))) s

/-! ## Service items (R409, R397) -/

/-- The service item that one of SE0 to SE3 holds, with its code. While FIFO 6 is full the engine, whose WDONE would stall, does not come to the item's end
(R158; DESIGN CHOICE, log entry 28: the item's effect waits with its WDONE). -/
def Hub.serviceItem (h : Hub) (e code : Nat) : Option WorkItem :=
  if 4 ≤ e || h.fifoFull 6 then none else
  match h.runningItem e with
  | some i => if byteAt i.body 4 = code then some i else none
  | none => none

/-- The firmware completes a service item by WDONE (R327); one that completes with OK writes a record. -/
def Hub.serviceDone (h : Hub) (g : Glob) (e : Nat) (i : WorkItem) (status : Nat) : Hub :=
  let h1 := if status = Status.ok then h.record g 0x0205 (0x40 + e) (byteAt i.body 4) (byteAt i.body 16) 0 0 else h
  ((h1.endItem g i status).modEng e (fun x => { x with item := none })).fifoPush g 6 (h.itemId i.slot)

/-- A write of the settings store refused while a trial runs (R397). -/
def Hub.settingsLocked (h : Hub) : Hub := h.modFwu (fun w => { w with lockedWr := satInc 8 w.lockedWr })

/-- Service 0xA1: the pairing key from DRAM, whose argument is then overwritten with zeros. -/
def setPairingKey (g : Glob) (e : Nat) (errs : List (Nat × ReadError)) (hm : Hub × Memory) : Hub × Memory :=
  match hm.1.serviceItem e 0xA1 with
  | none => hm
  | some i =>
    let a := leAt i.body 8 8
    if hm.1.fwu.inTrial then (hm.1.settingsLocked.serviceDone g e i Status.busy, hm.2)
    else
      let r := dramErrors g false errs hm
      let d := r.1.readDram r.2 true a 32
      let m1 := r.1.writeDram r.2 true a (zeros 32) false
      if d.poison then (r.1.serviceDone g e i Status.uncorrectable, m1)
      else ((r.1.modFwu (fun w => w.setSettings { w.settings with key := d.bytes })).serviceDone g e i Status.ok, m1)

def execSetPairingKey (e : Nat) (errs : List (Nat × ReadError)) (s : State) : Host.Outcome State Fault Refusal :=
  .next { s with hub := (setPairingKey s.glob e errs (s.hub, s.mem)).1, mem := (setPairingKey s.glob e errs (s.hub, s.mem)).2 }

/-- The SEC registers that software writes (spec/17_security_cairn.md, Registers). -/
def secOffsets : List Nat :=
  [Reg.SEC_MWORLD, Reg.SEC_BLKWORLD] ++ ((List.range 16).map (fun n => [Reg.SEC_DRDn_BASE n, Reg.SEC_DRDn_LIMIT n, Reg.SEC_DRDn_CTL n])).flatten ++
    ((List.range 8).map (fun n => [Reg.SEC_SRDn_BASE n, Reg.SEC_SRDn_LIMIT n, Reg.SEC_SRDn_CTL n])).flatten

/-- Service 0xA2: the applied SEC registers become the values loaded at start. -/
def Hub.saveSec (h : Hub) (g : Glob) (e : Nat) : Hub :=
  match h.serviceItem e 0xA2 with
  | none => h
  | some i =>
    if h.fwu.inTrial then h.settingsLocked.serviceDone g e i Status.busy
    else (h.modFwu (fun w => w.setSettings { w.settings with sec := secOffsets.map (fun o => (o, h.n o)) })).serviceDone g e i Status.ok

def execSaveSecRegisters (e : Nat) (s : State) : Host.Outcome State Fault Refusal := nextHub s (s.hub.saveSec s.glob e)

/-- The signing keys that are present and not revoked. -/
def Otp.goodKeys (o : Otp) : List Nat := (List.range 4).filter (fun n => o.keyHash n != 0 && !bitOf o.keyRevoke n)

/-- Service 0xA3: key n is revoked, unless it is the key of the running image or the last unrevoked one. -/
def Hub.revokeKey (h : Hub) (g : Glob) (e : Nat) : Glob × Hub :=
  match h.serviceItem e 0xA3 with
  | none => (g, h)
  | some i =>
    let n := byteAt i.body 16
    if 3 < n || (n == imgKey h.fwu.running && !h.fwu.running.isEmpty) || g.otp.goodKeys == [n] then (g, h.serviceDone g e i Status.invalid)
    else
      let g1 := { g with otp := { g.otp with keyRevoke := g.otp.keyRevoke ||| 2 ^ n } }
      (g1, h.serviceDone g1 e i Status.ok)

def execRevokeKey (e : Nat) (s : State) : Host.Outcome State Fault Refusal :=
  .next { s with glob := (s.hub.revokeKey s.glob e).1, hub := (s.hub.revokeKey s.glob e).2 }

end Sys2Proof.Machine
end

