-- ==== Sys2Proof/Machine/Link.lean ====
section
/-! DEFINITION. The PCI Express endpoint: the width and generation at which its link trains, and what its configuration space reports (R37, R38,
Table 2.1). -/

namespace Sys2Proof.Machine

/-- The widest link that the PCIE_LANES strap lets the endpoint attempt (Table 19.9). -/
def Straps.widest (s : Straps) : Nat := 8 / 2 ^ (s.pcieLanes % 4)

/-- The widths at which the endpoint may train under its strap (R37). -/
def Straps.widths (s : Straps) : List Nat := [8, 4, 2, 1].filter (· ≤ s.widest)

/-- The boot sequence reaches link bring-up: the link stands at a width that the strap allows and at one of Gen1 to Gen5, which the manual leaves to
the training, and configuration requests are answered (R37, R38, Table 19.8, step 7). -/
def Hub.linkBringUp (h : Hub) (g : Glob) : Hub :=
  if h.rings.link.ready then h else
  { h.drew 2 with rings := { h.rings with link :=
      { ready := true
        width := g.straps.widths.getD (h.freeAt 0 % g.straps.widths.length) 1
        gen := 1 + h.freeAt 1 % 5 } } }

/-- The link trains anew after a HOST-region reset, where it had been brought up. Which of the causes of R41 take the link down, and what it trains to then, the manual
leaves open: the width and the generation after it are free, those before it among them (R37, R463; DESIGN CHOICE, log entry 44). -/
def Hub.linkRetrains (h : Hub) (g : Glob) : Hub :=
  if h.rings.link.ready then ({ h with rings := { h.rings with link := {} } } : Hub).linkBringUp g else h

/-- The items of the configuration space (Table 2.1). Class code and revision are those of the header; the payload and read-request sizes are in bytes. -/
inductive ConfigItem where
  | vendorId | deviceId | revisionId | classCode | subsystemVendorId | subsystemId | maxPayload | maxReadRequest | interruptPin | msixVectors
  | hasPowerManagement | hasPciExpress | hasMsix | hasAer | hasSerialNumber | hasFlr | hasMsi | hasSriov | hasAts
deriving DecidableEq, Repr

/-- What the configuration space reports (Table 2.1). The revision is A1, as in GLB_ID.REV (DESIGN CHOICE, log entry 44). -/
def ConfigItem.value (g : Glob) : ConfigItem → Nat
  | .vendorId | .subsystemVendorId => 0x1FA7
  | .deviceId => 0xA324
  | .revisionId => 0x01
  | .classCode => 0x048000
  | .subsystemId => match g.grade with
    | .c => 0x0001
    | .e => 0x0002
  | .maxPayload => 512
  | .maxReadRequest => 4096
  | .msixVectors => 64
  | .hasPowerManagement | .hasPciExpress | .hasMsix | .hasAer | .hasSerialNumber | .hasFlr => 1
  | .interruptPin | .hasMsi | .hasSriov | .hasAts => 0

/-- The answer to a configuration request; `none` is Configuration Request Retry Status, until link bring-up (R38). -/
def Hub.configAnswer (h : Hub) (g : Glob) (i : ConfigItem) : Option Nat := if h.rings.link.ready then some (i.value g) else none

end Sys2Proof.Machine
end

