-- ==== Sys2Proof/Machine/Pmu.lean ====
section
/-! DEFINITION. The performance counters: freezing, clearing and reading them (spec/18_performance_counters.md). -/

namespace Sys2Proof.Machine

/-- A counter set to zero; the copy of its upper bits stays until its next read (R418). -/
def Hub.pmuZero (h : Hub) (off : Nat) : Hub := { h with pmu := Sparse.set 0 h.pmu off 0 }

/-- The nine counters of an engine, and SAT, cleared (R420). -/
def Hub.pmuClearEngine (h : Hub) (e : Nat) : Hub :=
  ((List.range 8).foldl (fun h k => h.pmuZero (Reg.PMUe_CNTk_LO e k)) (h.pmuZero (Reg.PMUe_CYC_LO e))).putF (Reg.PMUe_CNT_CTL e) 16 8 0

/-- A register returned to its reset value. -/
def Hub.resetReg (h : Hub) (off : Nat) : Hub := h.wr off (Reg.resetValue off)

/-- The low halves of the counters of an engine, and of the sets that have high ones. -/
def pmuEngineLos (e : Nat) : List Nat := Reg.PMUe_CYC_LO e :: (List.range 8).map (Reg.PMUe_CNTk_LO e)
def pmuSetLos : PmuSet → List Nat
  | .pipe p => [Reg.PMU_SCNp_PX_EXAM_LO p, Reg.PMU_SCNp_PX_SENT_LO p, Reg.PMU_SCNp_TILES_SENT_LO p, Reg.PMU_SCNp_TILES_SKIP_LO p]
  | .port n => [Reg.PMU_NSHn_TX_BLK_LO n, Reg.PMU_NSHn_IDLE_BLK_LO n]
  | .col => [Reg.PMU_COL_GRANTS_LO, Reg.PMU_COL_ITEM_WAIT_LO, Reg.PMU_COL_ENG_WAIT_LO, Reg.PMU_COL_RETURNS_LO]

/-- The counters of a set cleared (R425). -/
def Hub.pmuClearSet (h : Hub) : PmuSet → Hub
  | .pipe p => ((pmuSetLos (.pipe p)).foldl Hub.pmuZero h).resetReg (Reg.PMU_SCNp_SLACK_MIN p)
  | .port n => ((List.range 4).foldl (fun h r => h.resetReg (Reg.PMU_NSHn_RATE_MSr n r))
      ((pmuSetLos (.port n)).foldl Hub.pmuZero h)).resetReg (Reg.PMU_NSHn_PEAK n)
  | .col => (pmuSetLos .col).foldl Hub.pmuZero h

/-- The sets of the pipes, the ports and Col. -/
def pmuSets : List PmuSet := (List.range 32).map .pipe ++ (List.range 32).map .port ++ [.col]

/-- Every counter of the non-secure world cleared (R420, R425). -/
def Hub.pmuClearAll (h : Hub) : Hub :=
  pmuSets.foldl Hub.pmuClearSet (((List.range 24).filter (fun e => !h.engineSecure e)).foldl Hub.pmuClearEngine h)

/-- The copies of the upper bits of counters, given by the offsets of their low halves, set to zero. -/
def Hub.pmuCopiesLost (h : Hub) (los : List Nat) : Hub := los.foldl (fun h off => h.wrN (off + 4) 0) h

/-- The counters of an engine, and of a set, lose their power, with the copies of their upper bits (R420, R425). -/
def Hub.pmuEngineOff (h : Hub) (e : Nat) : Hub := (h.pmuClearEngine e).pmuCopiesLost (pmuEngineLos e)
def Hub.pmuSetOff (h : Hub) (s : PmuSet) : Hub := (h.pmuClearSet s).pmuCopiesLost (pmuSetLos s)

/-- The counters of the blocks and engines whose domains are off in D3 (Table 19.2) are lost (R420, R425, R430). -/
def Hub.pmuLost (h : Hub) : Hub := pmuSets.foldl Hub.pmuSetOff ((List.range 24).foldl Hub.pmuEngineOff h)

/-- The CTL register of a set. -/
def pmuSetCtl : PmuSet → Nat
  | .pipe p => Reg.PMU_SCNp_CTL p
  | .port n => Reg.PMU_NSHn_CTL n
  | .col => Reg.PMU_COL_CTL

def execPmuFreeze (who : Requester) (freeze : Bool) (s : State) : Host.Outcome State Fault Refusal := reached who (fun s =>
    nextHub s (s.hub.tryWrite s.glob who Reg.PMU_CTL (fun h => h.putBit Reg.PMU_CTL 0 freeze))) s

/-- A write of CLR_ALL; it writes FREEZE of the same register too. -/
def execPmuClrAll (who : Requester) (freeze : Bool) (s : State) : Host.Outcome State Fault Refusal := reached who (fun s =>
    nextHub s (s.hub.tryWrite s.glob who Reg.PMU_CTL (fun h => (h.putBit Reg.PMU_CTL 0 freeze).pmuClearAll))) s

/-- A write of CLR of PMUe_CNT_CTL; it writes USER_RD of the same register too. -/
def execPmuEngineClr (who : Requester) (e : Nat) (userRd : Bool) (s : State) : Host.Outcome State Fault Refusal := reached who (fun s =>
    nextHub s (s.hub.tryWrite s.glob who (Reg.PMUe_CNT_CTL e) (fun h => (h.putBit (Reg.PMUe_CNT_CTL e) 0 userRd).pmuClearEngine e))) s

def execPmuSetClr (who : Requester) (set : PmuSet) (s : State) : Host.Outcome State Fault Refusal := reached who (fun s =>
    nextHub s (s.hub.tryWrite s.glob who (pmuSetCtl set) (fun h => h.pmuClearSet set))) s

/-- A 32-bit read of a register, with what it returns: of the low half of a counter, it copies the upper half (R39, R418). -/
def execPmuLoRead (who : Requester) (off : Nat) (s : State) : Host.Outcome State Fault Refusal := reached who (fun s =>
    let r := s.hub.bar0Read s.glob who off 4
    nextHub s (r.2.emit (.regRead who off r.1))) s

end Sys2Proof.Machine
end

