-- ==== Sys2Proof/Machine/Time.lean ====
section
/-! DEFINITION. Time bases, their servo and PTP, compare units and timed I/O (spec/04_time.md). -/

namespace Sys2Proof.Machine

/-! ## Steps, states and quality -/

/-- Event `ev` of base `t` (Table 4.5). -/
def Hub.tbEvent (h : Hub) (g : Glob) (t ev : Nat) : Hub := h.raise g (36 + t) ev

/-- The QUALITY of a base (Table 4.4). -/
def Hub.qualityOf (h : Hub) (t : Nat) : Nat :=
  let e := h.holdEst48 t
  match (h.base t).state with
  | .locked => 0
  | .holdover => if e ≤ 100 * ns48 then 1 else if e ≤ 1000 * ns48 then 2 else if e ≤ 10000 * ns48 then 3 else 4
  | .jumpHeld => 6
  | _ => 5

/-- QUALITY follows Table 4.4; each change raises event 0x06 with the new value (R96). -/
def Hub.updateQuality (h : Hub) (g : Glob) (t : Nat) : Hub :=
  if h.qualityOf t = (h.base t).quality then h
  else (h.setBase t { h.base t with quality := h.qualityOf t }).tbEvent g t (6 + h.qualityOf t * 256)

/-- What a measurement tells is held to the end of its PCLK cycle, for the step of that cycle may discard it (R100). -/
def Hub.tellLater (h : Hub) (t : Nat) (w : Told) : Hub := { h with time := { h.time with told := h.time.told ++ [(t, w)] } }

/-- QUALITY follows Table 4.4 after a measurement; event 0x06 comes at the end of the cycle. -/
def Hub.qualityLater (h : Hub) (t : Nat) : Hub :=
  if h.qualityOf t = (h.base t).quality then h
  else (h.setBase t { h.base t with quality := h.qualityOf t }).tellLater t (.event (6 + h.qualityOf t * 256))

/-- One thing that a measurement tells. -/
def Hub.tell (h : Hub) (g : Glob) (t : Nat) : Told → Hub
  | .event detail => h.tbEvent g t detail
  | .refusal offset state source => h.record g 0x0601 0x75 t (satSigned 32 offset) state source

/-- At the end of a PCLK cycle the measurements that no step of the cycle has discarded raise their events and write their records. -/
def Hub.tellMeasured (h : Hub) (g : Glob) : Hub :=
  h.time.told.foldl (fun h e => h.tell g e.1 e.2) { h with time := { h.time with told := [] } }

/-- A quarter of a nanosecond, the resolution of an output edge (R110), in 2^-48 ns. -/
def quarter48 : Nat := 2 ^ 46

/-- The base of a compare unit, and its value. -/
def Hub.cmpTb (h : Hub) (c : Nat) : Nat := h.f (Reg.TIM_CMPc_CTL c) 2 1

/-- The base on which a unit fires: its own, or, while a FUNC 3 pin names it and its committed values are not used, that of the pin (R209). -/
def Hub.cmpBase (h : Hub) (c : Nat) : Nat :=
  match (List.range 8).find? (fun p => h.pinFunc p == 3 && h.pinCmp p == c) with
  | some p => h.pinTb p
  | none => h.cmpTb c
def Hub.cmpNow (h : Hub) (c : Nat) : Nat := h.now48 (h.cmpTb c)

/-- The repeat period of a compare unit. -/
def Hub.cmpPeriod (h : Hub) (c : Nat) : Nat := h.n (Reg.TIM_CMPc_PERIOD c) * ns48

/-- The time of a compare unit, in the present 2^32 seconds of its base. Its edges are placed at the nearest step of 0.25 ns (R110). -/
def Hub.cmpTime (h : Hub) (c : Nat) : Nat :=
  time48 (secOf (h.cmpNow c) / 2 ^ 32 * 2 ^ 32 + h.n (Reg.TIM_CMPc_SEC c)) (h.f (Reg.TIM_CMPc_NS c) 29 0) (h.f (Reg.TIM_CMPc_CTL c) 31 16)

/-- The first multiple of PERIOD after TIM_CMPc time that lies after the present time (R111). -/
def Hub.cmpMultiple (h : Hub) (c : Nat) : Nat :=
  if h.cmpNow c < h.cmpTime c then h.cmpTime c
  else h.cmpTime c + ((h.cmpNow c - h.cmpTime c) / h.cmpPeriod c + 1) * h.cmpPeriod c

/-- The firing of a unit armed now: its time while that has not passed; the next multiple of PERIOD after it (R111). -/
def Hub.cmpNext (h : Hub) (c : Nat) : Option Nat :=
  if h.cmpNow c ≤ h.cmpTime c then some (h.cmpTime c)
  else if h.cmpPeriod c = 0 then none else some (h.cmpMultiple c)

/-- The firing of a unit after a step of its base: of a periodic unit, the first multiple after the new time (R111). -/
def Hub.cmpAfterStep (h : Hub) (c : Nat) : Option Nat := if h.cmpPeriod c = 0 then h.cmpNext c else some (h.cmpMultiple c)

/-- LATE set, with event 0x08 (R111). -/
def Hub.cmpLate (h : Hub) (g : Glob) (c : Nat) : Hub := (h.setCmp c { h.cmp c with late := true }).tbEvent g (h.cmpTb c) (8 + c * 65536)

/-- A unit armed by a write of its CTL at an apply: FIRED and LATE clear, and a time already passed is late (R111). -/
def Hub.cmpArm (h : Hub) (g : Glob) (c : Nat) : Hub :=
  if h.bit (Reg.TIM_CMPc_CTL c) 0 && !h.seqUnit c then
    let h1 := h.setCmp c { fired := false, late := false, next := h.cmpNext c }
    if h.cmpNow c ≤ h.cmpTime c then h1 else h1.cmpLate g c
  else h.setCmp c { fired := false, late := false, next := none }

/-- A unit whose time or period an apply changes, and CTL not, or that the sequencer gives up: FIRED and LATE stay. A one-shot unit that has not fired
and whose new time has passed is late (DESIGN CHOICE, log entry 24: R111 speaks of the enable alone). -/
def Hub.cmpRetime (h : Hub) (g : Glob) (c : Nat) : Hub :=
  if h.bit (Reg.TIM_CMPc_CTL c) 0 && !h.seqUnit c then
    let h1 := h.setCmp c { h.cmp c with next := h.cmpNext c }
    if h.cmpNext c = none && !(h.cmp c).fired && !(h.cmp c).late then h1.cmpLate g c else h1
  else h.setCmp c { h.cmp c with next := none }

/-- A unit after its base stepped from `old` (R111): firings stepped over are skipped and set LATE; a one-shot unit that has fired stays so. -/
def Hub.cmpStep (h : Hub) (g : Glob) (old : Nat) (c : Nat) : Hub :=
  let x := h.cmp c
  if !h.bit (Reg.TIM_CMPc_CTL c) 0 || h.seqUnit c then h
  else if h.cmpPeriod c = 0 && (x.fired || x.late) then h
  else match x.next with
    | none => h
    | some n =>
      let h1 := h.setCmp c { x with next := h.cmpAfterStep c }
      if old ≤ n && (n < h.cmpNow c || (h.cmpPeriod c != 0 && n == h.cmpNow c)) then h1.cmpLate g c else h1

/-- The compare units on a base. -/
def Hub.cmpsOn (h : Hub) (t : Nat) : List Nat := (List.range 16).filter (fun c => h.f (Reg.TIM_CMPc_CTL c) 2 1 == t)

/-- A group after a step of its base by `d` (R185, R187, R188): the frame in progress keeps its length in PCLK cycles, and the next begins at the first
grid instant at or after its end; in a gap, at or after the point from which the gap's end was reckoned. -/
def Hub.groupStep (h : Hub) (d : Int) (pg : Nat) : Hub :=
  let G := h.group pg
  let start := addTime G.start d
  let G1 := { G with start := start }
  h.setGroup pg (match G.phase with
    | .disabled => G
    | .gap => { G1 with next := h.gridAfter pg start }
    | _ => { G1 with stepped := true, next := h.gridAfter pg (start + h.period48 pg) })

/-- A radio after a step of its base by `d`: the interval in progress keeps its length in PCLK cycles, and the next beacon says STEPPED, of a
radio in a fault the first after it recovers (R295, R300). The schedule of a STANDBY is the ACTIVE's, in its time (R313). -/
def Hub.radioStep (h : Hub) (d : Int) (r : Nat) : Hub :=
  let x := h.odl r
  if x.phase = .off || x.phase = .standby then h
  else if x.phase = .fault then h.setOdl r { x with stepped := true }
  else h.setOdl r { x with at48 := addTime x.at48 d, stepped := true }

/-- The ports whose group counts on a base. -/
def Hub.portsOnBase (h : Hub) (t : Nat) : List Nat := (List.range 32).filter (fun n => h.groupTb (h.portGroup n) == t)

/-- A base steps to a new value, its frequency unchanged (R89): the groups, compare units and radios on it follow R188, R111 and R300; each port of a
group on it is to send TIME before its next FLIP; an active level in progress keeps its length (R110); and a measurement run in a group on it ends (R214). While the
root PLL is out of lock a base keeps the value it held (R462). -/
def Hub.stepBase (h : Hub) (g : Glob) (t new48 : Nat) : Hub :=
  if !h.power.rootLock then h else
  let old := h.now48 t
  let d : Int := (new48 : Int) - (old : Int)
  let h1 := h.setBase t { h.base t with t48 := wrap48 new48 }
  let h2 := (h.groupsOnBase t).foldl (fun h i => h.groupStep d i) h1
  let h3 := (h.cmpsOn t).foldl (fun h c => h.cmpStep g old c) h2
  let h4 := ((List.range 2).filter (fun r => h.f (Reg.ODLr_CTL r) 2 1 == t)).foldl (fun h r => h.radioStep d r) h3
  let pulses := (List.range 8).filter (fun p => h.pinTb p == t && (h.pinState p).active)
  let h5 := pulses.foldl (fun h p => h.setPin p { h.pinState p with ends := addTime (h.pinState p).ends d })
    ((h.portsOnBase t).foldl (fun h n => h.modPort n (fun p => { p with timeDue := true })) h4)
  if h.groupTb h.cal.msr.pg = t then h5.msrEnd g Status.aborted else h5

/-- An enabled group on the base has sent a FLIP whose presentation time is later than `v` (R98, R99). -/
def Hub.flipAfter (h : Hub) (t v : Nat) : Bool :=
  (h.groupsOnBase t).any (fun g => match (h.group g).lastFlip with
    | some f => decide (v < f)
    | none => false)

/-- What measurements of this PCLK cycle replaced of a base. -/
def Hub.saved (h : Hub) (t : Nat) : Option ServoSave := (Sparse.get none h.time.saves t).filter (fun x => x.clock == h.clock)

/-- What a measurement is about to replace of a base is kept, once per PCLK cycle. -/
def Hub.save (h : Hub) (t : Nat) : Hub :=
  let b := h.base t
  if (h.saved t).isSome then h
  else { h with time := { h.time with saves := Sparse.set none h.time.saves t (some
    { clock := h.clock, state := b.state, freq := b.freq, freqLog := b.freqLog, steered := b.steered, offset := b.offset, e0 := b.e0
      since := b.since, jumps := b.jumps, quality := b.quality }) } }

/-- A base without the measurements of this PCLK cycle, which the cycle of a TIME_SET or of an accepted jump discards, with all that they have to tell (R100). -/
def Hub.unmeasured (h : Hub) (t : Nat) : Hub :=
  match h.saved t with
  | none => h
  | some x => { h with time := { h.time with
      saves := Sparse.set none h.time.saves t none, told := h.time.told.filter (fun e => e.1 != t) } }.setBase t { h.base t with
      state := x.state, freq := x.freq, freqLog := x.freqLog, steered := x.steered, offset := x.offset, e0 := x.e0, since := x.since
      jumps := x.jumps, quality := x.quality }

/-- The state before, as records carry it. -/
def Hub.stateCode (h : Hub) (t : Nat) : Nat := (h.base t).state.code

/-! ## TIME_SET and TIME_ACCEPT_JUMP -/

/-- The servo after a TIME_SET (R98). -/
def TimeBase.afterSet (b : TimeBase) (clock : Nat) : TimeBase :=
  match b.state with
  | .acquire => { b with state := .locked }
  | .jumpHeld => { b with state := .locked }
  | .holdover => { b with e0 := 0, since := clock }
  | _ => b

/-- A base that has been set, or has jumped, in a PCLK cycle: a measurement of that cycle is discarded (R100). -/
def TimeBase.jumped (b : TimeBase) (clock : Nat) : TimeBase := { b with jumpedAt := some clock }

/-- TIME_SET (R98): INVALID, BUSY and LATE make no step; otherwise the base steps, a record is written and event 0x05 is raised. Where more than one of them
holds, the first in this order is the status (DESIGN CHOICE, log entry 24: R98 and R99 give no order). -/
def Hub.timeSet (h : Hub) (g : Glob) (q tag : Nat) : Hub :=
  h.servedBy g .tim q tag 0x60 fun d =>
    let t := d.op 16 1
    let new := time48 (d.op 24 6) (d.op 30 4) (d.op 34 2)
    if 1000000000 ≤ d.op 30 4 then h.complete g q tag Status.invalid []
    else if (h.base t).deferred.isSome then h.complete g q tag Status.busy []
    else if h.flipAfter t new then h.complete g q tag Status.late []
    else
      let h0 := h.unmeasured t
      let before := h0.stateCode t
      let h1 := h0.stepBase g t new
      let h2 := h1.setBase t (((h1.base t).afterSet h.clock).jumped h.clock)
      let h3 := h2.record g 0x0602 0x75 t (d.op 24 6) (d.op 30 4) before
      let h4 := h3.tbEvent g t 5
      let h5 := if before = 1 || before = 4 then h4.tbEvent g t 1 else h4
      (h5.updateQuality g t).complete g q tag Status.ok []

def execTimeSet (q tag : Nat) (s : State) : Host.Outcome State Fault Refusal := nextHub s (s.hub.timeSet s.glob q tag)

/-- A base in JUMP_HELD steps by the measurement that TBt_OFFSET holds and enters LOCKED (R99). -/
def Hub.acceptJump (h : Hub) (g : Glob) (q tag t deferred : Nat) : Hub :=
  let h := h.unmeasured t
  let step := signed 32 (satSigned 32 (h.base t).offset)
  let h1 := h.stepBase g t (addTime (h.now48 t) (step * (ns48 : Int)))
  let h2 := h1.setBase t ({ h1.base t with state := .locked, deferred := none }.jumped h.clock)
  let h3 := h2.record g 0x0603 0x75 t (unsigned 32 step) deferred 0
  ((h3.tbEvent g t 4).updateQuality g t).complete g q tag Status.ok (leBytes 8 (unsigned 64 step))

/-- TIME_ACCEPT_JUMP (R99): a backward step to before a presentation time already sent waits with DEFER set. -/
def Hub.timeAcceptJump (h : Hub) (g : Glob) (q tag : Nat) : Hub :=
  h.servedBy g .tim q tag 0x61 fun d =>
    let t := d.op 16 1
    if (h.base t).deferred.isSome then h.complete g q tag Status.busy []
    else if ((h.unmeasured t).base t).state ≠ .jumpHeld then h.complete g q tag Status.invalid []
    else
      let step := signed 32 (satSigned 32 ((h.unmeasured t).base t).offset)
      if step < 0 && h.flipAfter t (addTime (h.now48 t) (step * (ns48 : Int))) then
        (h.await q tag []).setBase t { h.base t with deferred := some (q, tag) }
      else h.acceptJump g q tag t 0

def execTimeAcceptJump (q tag : Nat) (s : State) : Host.Outcome State Fault Refusal := nextHub s (s.hub.timeAcceptJump s.glob q tag)

/-- The deferred backward step applies and only then completes (R99). -/
def Hub.deferredJumpApply (h : Hub) (g : Glob) (t : Nat) : Hub :=
  match (h.base t).deferred with
  | none => h
  | some (q, tag) => h.acceptJump g q tag t 1

def execDeferredJumpApply (t : Nat) (s : State) : Host.Outcome State Fault Refusal := nextHub s (s.hub.deferredJumpApply s.glob t)

/-- The copies of the four bases at a whole second of TB0 (R90). -/
def Hub.ppsSnapshot (h : Hub) : Hub :=
  { h with time := { h.time with snap := (List.range 4).foldl (fun m t => Sparse.set 0 m t (h.now48 t)) [] } }

def execPpsSnapshot (s : State) : Host.Outcome State Fault Refusal := nextHub s s.hub.ppsSnapshot

/-! ## The servo -/

/-- The frequencies in force in the last `span` PCLK cycles, the one in force at their start included. -/
def TimeBase.recentLog (b : TimeBase) (clock span : Nat) : List (Nat × Int) :=
  b.freqLog.takeWhile (fun e => clock < e.1 + span) ++ (b.freqLog.dropWhile (fun e => clock < e.1 + span)).take 1

/-- The PCLK cycles of one second, and the longest span of the log that any TC asks for. -/
def cyclesPerSec : Nat := 400000000
def logSpan : Nat := 2 ^ 10 * cyclesPerSec

/-- A base runs at a frequency from now on. -/
def TimeBase.runAt (b : TimeBase) (clock : Nat) (f : Int) : TimeBase :=
  { b with freq := f, freqLog := (clock, f) :: b.recentLog clock logSpan, steered := b.steered.filter (· != clock) }

/-- A base runs at a servo output from now on (R93). -/
def TimeBase.steer (b : TimeBase) (clock : Nat) (f : Int) : TimeBase :=
  let b1 := b.runAt clock f
  { b1 with steered := clock :: b1.steered.filter (fun c => b1.freqLog.any (fun e => e.1 == c)) }

/-- Over a log, newest first, and the PCLK cycles between `lo` and `hi`: the sum of each servo output times the cycles that it was in force, and those cycles. -/
def servoSum (steered : List Nat) (lo : Nat) : Nat → List (Nat × Int) → Int × Nat
  | _, [] => (0, 0)
  | hi, e :: es =>
    let r := servoSum steered lo (max e.1 lo) es
    let c := hi - max e.1 lo
    if steered.contains e.1 then (r.1 + e.2 * (c : Int), r.2 + c) else r

/-- The holdover frequency: the mean of the servo output over the last 2^TC seconds before the loss, or over what the log holds of it, rounded down (R95;
DESIGN CHOICE, log entry 24: the manual gives no rounding). A base whose servo was not in charge in that time keeps its frequency (DESIGN CHOICE, log entry
24). -/
def Hub.holdoverFreq (h : Hub) (t : Nat) : Int :=
  let b := h.base t
  let r := servoSum b.steered (h.clock - 2 ^ h.f (Reg.TBt_CTL t) 11 8 * cyclesPerSec) h.clock b.freqLog
  if r.2 = 0 then b.freq else r.1 / (r.2 : Int)

/-- The largest frequency offset, ±500 ppm, in 1/256 ppb (R88). -/
def freqMax : Int := 500000 * 256

/-- The servo output for an accepted measurement: the manual fixes only its limits, so it is a free value within SLEW_LIMIT of every frequency
that was in force in the last second and within ±500 ppm (R93). -/
def Hub.servoFreq (h : Hub) (t : Nat) : Int :=
  let b := h.base t
  let recent := b.freq :: (b.recentLog h.clock cyclesPerSec).map (·.2)
  let lim : Int := (h.f (Reg.TBt_LIMITS t) 31 20 * 256 : Nat)
  let lo := recent.foldl max (-freqMax) - lim
  let hi := recent.foldl min freqMax + lim
  clampInt (-freqMax) freqMax (clampInt lo hi (signed 32 (h.freeAt 0)))

/-- A measurement in whole ns, as TBt_OFFSET gives it: its fraction is dropped (DESIGN CHOICE, log entry 24: the manual gives no rounding). -/
def offsetNs (m : Int) : Int := m.tdiv (ns48 : Int)

/-- A measurement that the servo accepts: it acts on frequency alone (R93). -/
def Hub.servoAccept (h : Hub) (t : Nat) (m : Int) : Hub :=
  (h.setBase t { (h.base t).steer h.clock (h.servoFreq t) with state := .locked, offset := offsetNs m, e0 := m.natAbs }).drew 1

/-- The source of a base was lost in this PCLK cycle. -/
def Hub.lostNow (h : Hub) (t : Nat) : Bool := (h.base t).since == h.clock && (h.base t).jumpedAt != some h.clock

/-- A measurement beyond JUMP_LIMIT is refused: JUMP_HELD, counted, raised and recorded once (R94). In the cycle of a loss of source the base stays in
HOLDOVER (R100). -/
def Hub.servoRefuse (h : Hub) (t : Nat) (m : Int) (source : Nat) : Hub :=
  let b := h.base t
  if b.state = .jumpHeld then h.setBase t { b with offset := offsetNs m }
  else
    let lost := b.state == .holdover && h.lostNow t
    let h1 := h.setBase t { b with state := if lost then .holdover else .jumpHeld, offset := offsetNs m, since := h.clock, jumps := satInc 16 b.jumps }
    ((h1.tellLater t (.event 3)).tellLater t (.refusal (offsetNs m) b.state.code source)).qualityLater t

/-- An offset measurement, master time minus local time, in 2^-48 ns (R92 to R94, R97). In ACQUIRE with no enabled group on the base it steps the base, which is
no measurement that the servo accepts, so e0 stays (R96);
in the cycle of a TIME_SET or of an accepted jump it is discarded (R100); while DEFER is set it only updates TBt_OFFSET (R99), and a STANDBY measures
without acting (R372). -/
def Hub.measure (h : Hub) (g : Glob) (t : Nat) (m : Int) (source : Nat) : Hub :=
  let b := h.base t
  let within := decide (m.natAbs ≤ h.f (Reg.TBt_LIMITS t) 19 0 * ns48)
  if b.jumpedAt = some h.clock then h
  else if b.deferred.isSome || h.saddle.role = .standby then (h.save t).setBase t { b with offset := offsetNs m }
  else if b.state = .free then h
  else
    let h := h.save t
    match b.state with
    | .free => h
    | .acquire =>
      if (h.groupsOnBase t).isEmpty then
        let h1 := h.stepBase g t (addTime (h.now48 t) m)
        let h2 := h1.setBase t { h1.base t with state := .locked, offset := offsetNs m }
        ((h2.tellLater t (.event 5)).tellLater t (.event 1)).qualityLater t
      else if within then ((h.servoAccept t m).tellLater t (.event 1)).qualityLater t
      else h.servoRefuse t m source
    | .locked => if within then h.servoAccept t m else h.servoRefuse t m source
    | .holdover => if within then ((h.servoAccept t m).tellLater t (.event 1)).qualityLater t else h.servoRefuse t m source
    | .jumpHeld => if within then ((h.servoAccept t m).tellLater t (.event 1)).qualityLater t else h.servoRefuse t m source

/-! ## The selection of a PTP master (R101) -/

/-- One data set is better than another: the first field that differs is lower (best master clock algorithm, IEEE 1588-2019). -/
def betterSet : List Nat → List Nat → Bool
  | [], _ => false
  | _, [] => false
  | a :: as, b :: bs => if a < b then true else if b < a then false else betterSet as bs

/-- The hub's own data set, as far as its registers give it: priority1, clockClass, clockAccuracy. What follows in the comparison is open. -/
def Hub.ownSet (h : Hub) (t : Nat) : List Nat :=
  [h.f (Reg.TBt_PTP_DS t) 7 0, h.f (Reg.TBt_PTP_DS t) 23 16, h.f (Reg.TBt_PTP_DS t) 31 24]

/-- The hub, master-capable, prefers its own clock to a data set; a tie in the fields its registers give is settled by a free value. -/
def Hub.ownBetter (h : Hub) (t : Nat) (ds : List Nat) : Bool :=
  h.f (Reg.TBt_PTP t) 6 5 != 0 && (betterSet (h.ownSet t) ds || (h.ownSet t == ds.take 3 && h.freeAt 0 % 2 == 1))

/-- The best of the masters heard; of those with equal data sets, the one announced last (DESIGN CHOICE, log entry 24: IEEE 1588-2019 settles such a tie by fields
that the model does not hold). -/
def bestMaster : List PtpMaster → Option PtpMaster
  | [] => none
  | m :: ms => match bestMaster ms with
    | none => some m
    | some b => some (if betterSet b.set m.set then b else m)

/-- Two records are of one master. -/
def PtpMaster.same (a b : PtpMaster) : Bool := a.port == b.port && a.src == b.src

/-- The hub's own clock is of class 1 to 127 and may be a master: it follows none (IEEE 1588-2019). -/
def Hub.ownPrimary (h : Hub) (t : Nat) : Bool :=
  h.f (Reg.TBt_PTP t) 6 5 != 0 && decide (1 ≤ h.f (Reg.TBt_PTP_DS t) 23 16 ∧ h.f (Reg.TBt_PTP_DS t) 23 16 ≤ 127)

/-- The PCLK cycles of an Announce interval of a base: 2^LOG_ANN seconds. -/
def Hub.announceCycles (h : Hub) (t : Nat) : Nat :=
  let l := signed 4 (h.f (Reg.TBt_PTP t) 31 28)
  if l < 0 then 400000000 / 2 ^ l.natAbs else 400000000 * 2 ^ l.natAbs

/-- A master heard counts: it has qualified, and has been heard within four Announce intervals or is the one followed, whose silence is a loss of the source (R95;
PRESUMED, log entry 24: the foreign master window of IEEE 1588-2019). -/
def Hub.stillHeard (h : Hub) (t : Nat) (m : PtpMaster) : Bool :=
  m.qual && (decide (h.clock ≤ m.heard + 4 * h.announceCycles t) || (h.base t).master.any m.same)

/-- The best of the masters heard that qualify, on the ports that `here` takes. -/
def Hub.bestQualified (h : Hub) (t : Nat) (here : Nat → Bool) : Option PtpMaster :=
  bestMaster ((h.base t).rivals.filter (fun m => h.stillHeard t m && here m.port))

/-- The master that a base follows: the best of those heard, unless the hub's own clock is better. -/
def Hub.chosenMaster (h : Hub) (t : Nat) : Option PtpMaster :=
  (h.bestQualified t (fun _ => true)).filter (fun m => !h.ownPrimary t && !h.ownBetter t m.set)

/-- A port of an instance is PASSIVE (IEEE 1588-2019): another clock heard on it is better than the hub's own of class 1 to 127; or it hears, by another
path, the grandmaster of the master that the base follows, which is nearer. The first six fields of a data set name its grandmaster (PRESUMED, log entry
24). -/
def Hub.ptpPassive (h : Hub) (t n : Nat) : Bool :=
  let here := h.bestQualified t (· == n)
  if h.ownPrimary t then here.any (fun m => betterSet m.set (h.ownSet t))
  else match (h.base t).master with
    | none => false
    | some e => e.port != n && here.any (fun m => m.set.take 6 == e.set.take 6)

/-- The best master is selected; a change of master is counted and raises event 0x07. -/
def Hub.ptpSelect (h : Hub) (g : Glob) (t : Nat) : Hub :=
  let b := h.base t
  match h.chosenMaster t with
  | none => (h.setBase t { b with master := none, slaveValid := false }).drew 1
  | some m =>
    if b.master.any m.same then (h.setBase t { b with master := some m }).drew 1
    else
      ((h.setBase t { b with master := some m, slavePort := m.port, slaveValid := true, masters := satInc 15 b.masters, syncT2 := none
                             reqT3 := [] }).drew 1).tbEvent g t 7

/-- An Announce: what its sender says of itself replaces what it said before, and the selection is made anew. A sender qualifies with the second Announce
within four Announce intervals, and the master that is followed does with each (PRESUMED, log entry 24: the foreign master window and threshold of
IEEE 1588-2019). -/
def Hub.ptpAnnounce (h : Hub) (g : Glob) (t n src : Nat) (ds : List Nat) : Hub :=
  let b := h.base t
  let known (x : PtpMaster) : Bool := x.port == n && x.src == src
  let qual := b.rivals.any (fun x => known x && decide (h.clock ≤ x.heard + 4 * h.announceCycles t)) || b.master.any known
  let m : PtpMaster := { port := n, src := src, set := ds, heard := h.clock, qual := qual }
  (h.setBase t { b with rivals := m :: b.rivals.filter (fun x => !m.same x) }).ptpSelect g t

/-- A base enters HOLDOVER (R95). -/
def Hub.enterHoldover (h : Hub) (g : Glob) (t : Nat) : Hub :=
  ((h.setBase t { (h.base t).runAt h.clock (h.holdoverFreq t) with state := .holdover, since := h.clock }).tbEvent g t 2).updateQuality g t

/-- Loss of the source (R95): LOCKED and JUMP_HELD enter HOLDOVER; an accepted step that still waits is still made at its time (DESIGN CHOICE, log entry
24). A PTP master that is lost is no more among those heard, and the best of the others is selected (Table 4.6). `acts` is false where the servo's state
is not the hub's own to change. -/
def Hub.sourceLoss (h : Hub) (g : Glob) (acts : Bool) (t : Nat) : Hub :=
  let b := h.base t
  let b1 := { b with slaveValid := false, master := none, syncT2 := none, reqT3 := []
                     rivals := b.rivals.filter (fun x => !b.master.any x.same) }
  let h0 := h.setBase t b1
  let h1 := if acts && (b.state == .locked || b.state == .jumpHeld) then h0.enterHoldover g t else h0
  if b1.rivals.isEmpty then h1 else h1.ptpSelect g t

/-- On a STANDBY whose bases follow the ACTIVE's, the loss of its own source changes no servo state (R372). -/
def Hub.servoActs (h : Hub) (t : Nat) : Bool := !(h.saddle.role == .standby && h.saddle.link && h.f (Reg.TBt_CTL t) 1 0 != 0)

def execSourceLoss (t : Nat) (s : State) : Host.Outcome State Fault Refusal := nextHub s (s.hub.sourceLoss s.glob (s.hub.servoActs t) t)

def execQualityChange (t : Nat) (s : State) : Host.Outcome State Fault Refusal := nextHub s (s.hub.updateQuality s.glob t)

/-! ## PTP (R101 to R103) -/

/-- Base `t` has a PTP instance on NET port `n`, in a domain, by a transport: Ethernet frames or UDP. -/
def Hub.ptpL2 (h : Hub) (t : Nat) : Bool := h.f (Reg.TBt_PTP t) 8 7 == 1
def Hub.ptpServes (h : Hub) (t n domain : Nat) (l2 : Bool) : Bool :=
  h.f (Reg.TBt_CTL t) 1 0 == 1 && h.bit (Reg.TBt_PTP t) n && h.f (Reg.TBt_PTP t) 23 16 == domain && h.ptpL2 t == l2

/-- The instance measures the delay of each link, and not that to its master. -/
def Hub.ptpPeer (h : Hub) (t : Nat) : Bool := h.bit (Reg.TBt_PTP t) 9

/-- The measurement of a Sync exchange, in 2^-48 ns: master time with corrections and path delay, less the local stamp (R93). -/
def ptpOffset (t1 t2 : Nat) (corr delay asym : Int) : Int := (t1 : Int) + corr + delay + asym - (t2 : Int)

/-- The local ingress and egress stamps of a NET port, at a phase within the PCLK cycle, corrected (R104, R105), in 2^-48 ns. -/
def Hub.netIngress (h : Hub) (t n phase : Nat) : Nat := addTime (h.now48 t + phase) (-(h.s32 (Reg.NETn_TS_ING n) * 2 ^ 32))
def Hub.netEgress (h : Hub) (t n phase : Nat) : Nat := addTime (h.now48 t + phase) (h.s32 (Reg.NETn_TS_EGR n) * 2 ^ 32)

/-- A network time stamp as FIFO 4 holds it. -/
def stampWord (stamp : Nat) : Nat := stamp / 2 ^ 32 % 2 ^ 64

/-- delayAsymmetry of a NET port, in 2^-48 ns. -/
def Hub.netAsym (h : Hub) (n : Nat) : Int := h.s32 (Reg.NETn_TS_ASYM n) * 2 ^ 32

/-- The port of an instance acts as a master: its role allows it, it is not the port of the selected master, and it is not PASSIVE. -/
def Hub.ptpMaster (h : Hub) (t n : Nat) : Bool :=
  h.f (Reg.TBt_PTP t) 6 5 != 0 && h.saddle.role != .standby && !((h.base t).slaveValid && (h.base t).slavePort == n)
    && (h.f (Reg.TBt_PTP t) 6 5 == 2 || !(h.base t).slaveValid) && !h.ptpPassive t n

/-- The path delay of a port. -/
def Hub.pathDelay (h : Hub) (t n : Nat) : Int := Sparse.get 0 (h.base t).delays n

/-- The end of an exchange: the measurement goes to the servo. -/
def Hub.ptpMeasure (h : Hub) (g : Glob) (t n t1 t2 : Nat) (corr : Int) : Hub :=
  (h.setBase t { h.base t with lastDiff := (t2 : Int) - (t1 : Int) - corr }).measure g t
    (ptpOffset t1 t2 corr (h.pathDelay t n) (h.netAsym n)) n

/-- A PTP message of an instance leaves. -/
def Hub.ptpEmit (h : Hub) (n : Nat) (f : Q7Frame) (stamp : Nat) : Hub := h.emit (.ptp n f.t f.m f.l2 f.seq stamp)

/-- A message takes its place in Q7 of sub-port 0; a full queue refuses it (R118). -/
def Hub.q7Enter (h : Hub) (n : Nat) (f : Q7Frame) : Hub :=
  if (h.subPort n 0).q7.length < 64 then h.modSub n 0 (fun x => { x with q7 := x.q7 ++ [f] }) else h

/-- A message of Q7 leaves at a phase of the PCLK cycle. An event message is stamped as it goes, through FIFO 4: the stamp of a Sync or of a peer delay answer
follows in a message of its own, and that of a request is kept, unless the FIFO loses it (R101, R104, Table 6.7). -/
def Hub.q7Leave (h : Hub) (g : Glob) (n phase : Nat) (f : Q7Frame) : Hub :=
  let stamp := h.netEgress f.t n phase
  let lost := h.fifoLoses 4
  let h0 := h.modSub n 0 (fun x => { x with sentAt := some h.clock })
  let pushed := h0.fifoPush g 4 (stampWord stamp)
  match f.m with
  | .sync =>
    let h1 := pushed.ptpEmit n f stamp
    if lost then h1 else h1.q7Enter n { f with m := .followUp, stamp := stamp }
  | .peerResp =>
    let h1 := pushed.ptpEmit n f f.stamp
    if lost then h1 else h1.q7Enter n { f with m := .peerFollowUp, stamp := stamp }
  | .delayReq | .peerReq =>
    let h1 := pushed.ptpEmit n f stamp
    if lost then h1 else h1.setBase f.t { h1.base f.t with reqT3 := Sparse.set none (h1.base f.t).reqT3 n (some (f.seq, stamp)) }
  | _ => h0.ptpEmit n f f.stamp

/-- A message posted to Q7 of sub-port 0: it leaves at once while nothing waits there and the sub-port has sent nothing in this cycle. -/
def Hub.ptpPost (h : Hub) (g : Glob) (t n : Nat) (m : PtpOut) (seq stamp phase : Nat) : Hub :=
  let f : Q7Frame := { t := t, m := m, l2 := h.ptpL2 t, seq := seq, stamp := stamp }
  if (h.subPort n 0).q7.isEmpty && (h.subPort n 0).sentAt != some h.clock then h.q7Leave g n phase f else h.q7Enter n f

/-- A delay answer of the other end of a link: the number, this end's stamps of the request and of the answer, and the time between the two at the other
end, less corrections. Half of an odd number of 2^-48 ns is rounded down, here and for a delay answer of a master (DESIGN CHOICE, log entry 24: R101 gives no
rounding). -/
def Hub.peerDelay (h : Hub) (t n seq t4 : Nat) (turn : Int) : Hub :=
  match Sparse.get none (h.base t).reqT3 n with
  | some (sq, t3) =>
    if sq != seq then h
    else h.setBase t { h.base t with
      reqT3 := Sparse.set none (h.base t).reqT3 n none, delays := Sparse.set 0 (h.base t).delays n (((t4 : Int) - (t3 : Int) - turn) / 2) }
  | none => h

/-- A PTP message of the instance on base `t` (R101). A time stamp that FIFO 4 loses discards the exchange (Table 6.7). Only messages of the
selected master's port discipline the base. A master answers a delay request, and any port a peer delay request, by the instance's mechanism; the delay of
each link is its port's own. -/
def Hub.ptpReceive (h : Hub) (g : Glob) (t n phase : Nat) (m : PtpMsg) : Hub :=
  let b := h.base t
  let mine := b.slaveValid && b.slavePort == n
  let stamp := h.netIngress t n phase
  let lost := h.fifoLoses 4
  let pushed := h.fifoPush g 4 (stampWord stamp)
  match m with
  | .announce src ds => h.ptpAnnounce g t n src ds
  | .sync seq twoStep t1 corr =>
    if lost || !mine then pushed
    else if twoStep then pushed.setBase t { pushed.base t with syncT2 := some (seq, stamp) }
    else pushed.ptpMeasure g t n t1 stamp corr
  | .followUp seq t1 corr =>
    match b.syncT2 with
    | some (sq, t2) =>
      if mine && sq == seq then (h.setBase t { b with syncT2 := none }).ptpMeasure g t n t1 t2 corr else h
    | none => h
  | .delayResp seq t4 corr =>
    match Sparse.get none b.reqT3 n with
    | some (sq, t3) =>
      if mine && !h.ptpPeer t && sq == seq then
        h.setBase t { b with
          reqT3 := Sparse.set none b.reqT3 n none, delays := Sparse.set 0 b.delays n (((t4 : Int) - corr - (t3 : Int) + b.lastDiff) / 2) } else h
    | none => h
  | .peerResp seq turn => if lost || !h.ptpPeer t then pushed else pushed.peerDelay t n seq stamp turn
  | .peerRespTwo seq t2 corr =>
    if lost || !h.ptpPeer t then pushed
    else pushed.setBase t { pushed.base t with peerT4 := Sparse.set none (pushed.base t).peerT4 n (some (seq, stamp, t2, corr)) }
  | .peerFollowUp seq t3 corr =>
    match Sparse.get none b.peerT4 n with
    | some (sq, t4, t2, c) =>
      if sq == seq then (h.setBase t { b with peerT4 := Sparse.set none b.peerT4 n none }).peerDelay t n seq t4 ((t3 : Int) - (t2 : Int) + corr + c) else h
    | none => h
  | .delayReq seq => if lost || h.ptpPeer t || !h.ptpMaster t n then pushed else pushed.ptpPost g t n .delayResp seq stamp phase
  | .peerReq seq => if lost || !h.ptpPeer t then pushed else pushed.ptpPost g t n .peerResp seq stamp phase

/-- A PTP message received on sub-port 0 of NET port `n`, which is up (R101, R115); in the safe state the hub has left every PTP role (R26). -/
def Hub.ptpMessageReceive (h : Hub) (g : Glob) (n domain : Nat) (l2 : Bool) (phase : Nat) (m : PtpMsg) : Hub :=
  if g.safe || !h.netUp n 0 then h
  else match (List.range 3).find? (fun t => h.ptpServes t n domain l2) with
    | none => h
    | some t => h.ptpReceive g t n phase m

def execPtpMessageReceive (n domain : Nat) (l2 : Bool) (phase : Nat) (m : PtpMsg) (s : State) : Host.Outcome State Fault Refusal := wokenWhen (Hub.netHears n) 3 (fun s =>
    nextHub s (s.hub.ptpMessageReceive s.glob n domain l2 phase m)) s

/-- The data set that an Announce of the instance offers, in the order of the comparison: that of the master it follows, one step further, or its own as the
registers give it, with what they do not give free (R101; PRESUMED, log entry 24). -/
def Hub.announced (h : Hub) (t : Nat) : List Nat := match (h.base t).master with
  | some m => m.set.take 6 ++ [m.set.getD 6 0 + 1]
  | none => h.ownSet t ++ [h.freeAt 0 % 65536, h.f (Reg.TBt_PTP_DS t) 15 8, h.freeAt 1, 0]

/-- A PTP message is posted to transmit queue Q7 of sub-port 0 of a port that is up, which no received PAUSE or PFC frame holds and which goes before every
other (R103, R115, R118). Sync and Announce are a master's. -/
def Hub.ptpMessageSend (h : Hub) (g : Glob) (t n seq phase : Nat) (m : PtpSend) : Hub :=
  if g.safe || !h.netUp n 0 || !(h.f (Reg.TBt_CTL t) 1 0 == 1 && h.bit (Reg.TBt_PTP t) n) then h
  else match m with
    | .announce => if h.ptpMaster t n then (h.drew 2).ptpPost g t n (.announce (h.announced t)) seq (h.netEgress t n phase) phase else h
    | .sync => if h.ptpMaster t n then h.ptpPost g t n .sync seq 0 phase else h
    | .delayReq =>
      if h.ptpMaster t n && !h.ptpPeer t then h
      else h.ptpPost g t n (if h.ptpPeer t then .peerReq else .delayReq) seq 0 phase

def execPtpMessageSend (t n seq phase : Nat) (m : PtpSend) (s : State) : Host.Outcome State Fault Refusal :=
  nextHub s (s.hub.ptpMessageSend s.glob t n seq phase m)

/-! ## Timed I/O (R104, R109 to R111) -/

/-- The active level of a pin. -/
def Hub.pinActive (h : Hub) (p : Nat) : Bool := !h.bit (Reg.TIO_PINp_CFG p) 6

/-- Where an output edge due at a time of the pin's base is placed: earlier by the pin's delay correction, at the nearest step of 0.25 ns (R110), and half-way
between two at the later (DESIGN CHOICE, log entry 24: R110 gives no tie). -/
def Hub.placed (h : Hub) (p at48 : Nat) : Nat :=
  (addTime at48 (-(h.s32 (Reg.TIO_PINp_DLY p) * 2 ^ 32)) + quarter48 / 2) / quarter48 * quarter48

/-- A level driven on a pin, or high impedance, from a time of its base on. -/
def Hub.drive (h : Hub) (p : Nat) (level : Option Bool) (at48 : Nat) : Hub :=
  (h.setPin p { h.pinState p with drive := level, active := false }).emit (.pin p level at48)

/-- How long the active level of a pin lasts: WIDTH × 100 ns, where WIDTH 0 acts as 1 (R110). -/
def Hub.pulse48 (h : Hub) (p : Nat) : Nat := max 1 (h.f (Reg.TIO_PINp_CFG p) 31 12) * 100 * ns48

/-- A pin goes active for an edge due at a time of its base, and returns inactive WIDTH × 100 ns after it (R110). -/
def Hub.activate (h : Hub) (p at48 : Nat) : Hub :=
  (h.setPin p { h.pinState p with drive := some (h.pinActive p), active := true, ends := h.placed p at48 + h.pulse48 p }).emit
    (.pin p (some (h.pinActive p)) (h.placed p at48))

/-- The capture of an edge: the base's value, the quarter-nanosecond phase within the cycle, less the pin's delay correction (R104, R105). -/
def Hub.capture (h : Hub) (p quarter : Nat) : Nat :=
  addTime (h.now48 (h.pinTb p) + quarter * quarter48) (-(h.s32 (Reg.TIO_PINp_DLY p) * 2 ^ 32))

/-- The distance of a capture from the nearest multiple of a period, master minus local, in 2^-48 ns; half-way between two, from the earlier (DESIGN CHOICE, log
entry 24: R91 gives no tie). -/
def nearestOffset (stamp period : Nat) : Int :=
  if period = 0 then 0
  else if stamp % period * 2 ≤ period then -((stamp % period : Nat) : Int)
  else ((period - stamp % period : Nat) : Int)

/-- The genlock period of a base, in 2^-48 ns. -/
def Hub.genPeriod (h : Hub) (t : Nat) : Nat := h.n (Reg.TBt_GEN_NS t) * ns48 + h.f (Reg.TBt_GEN_FRAC t) 15 0 * 2 ^ 32

/-- What the base that names an input pin makes of a captured edge: a PPS or genlock measurement, or nothing (R93). -/
def Hub.edgeMeasure (h : Hub) (g : Glob) (p stamp : Nat) : Hub :=
  let t := h.pinTb p
  if h.f (Reg.TBt_CTL t) 4 2 ≠ p then h
  else if h.pinFunc p = 4 && h.f (Reg.TBt_CTL t) 1 0 == 2 then h.measure g t (nearestOffset stamp sec48) p
  else if h.pinFunc p = 6 && h.f (Reg.TBt_CTL t) 1 0 == 3 then h.measure g t (nearestOffset stamp (h.genPeriod t)) p
  else h

/-- The instant of an edge, in 0.25 ns from the first PCLK cycle; it follows the pin's latest captured edge within 8 ns (R466). -/
def Hub.edgeTime (h : Hub) (quarter : Nat) : Nat := 10 * h.clock + quarter
def Hub.edgeTooSoon (h : Hub) (p quarter : Nat) : Bool := (h.pinState p).edge.any (fun e => decide (h.edgeTime quarter < e + 32))

/-- An edge on a TIO pin: the pin has the new level, which a pin that is an input shows; where its input buffer is enabled (R104), an edge of the polarity
that POL selects is captured through FIFO 1, at most one in any 8 ns (R466); a capture that the FIFO loses gives no measurement. While PD_NSHW is off no input edge is captured (R18). -/
def Hub.tioEdge (h : Hub) (g : Glob) (p : Nat) (rise : Bool) (quarter : Nat) : Hub :=
  let h0 := h.setPin p { h.pinState p with sample := rise }
  if !h.serving .tio || !(h.pinFunc p == 1 || h.pinFunc p == 4 || h.pinFunc p == 6) || rise != h.pinActive p || h.edgeTooSoon p quarter then h0
  else
    let h1 := (h0.setPin p { h0.pinState p with edge := some (h.edgeTime quarter) }).fifoPush g 1 (h.capture p quarter / quarter48 % 2 ^ 64)
    if h.fifoLoses 1 then h1 else h1.edgeMeasure g p (h.capture p quarter)

def execTioInputEdge (p : Nat) (rise : Bool) (quarter : Nat) (s : State) : Host.Outcome State Fault Refusal := wokenWhen (Hub.pinHears p) 6 (fun s =>
    nextHub s (s.hub.tioEdge s.glob p rise quarter)) s

/-- The pins that a compare unit drives. -/
def Hub.cmpPins (h : Hub) (c : Nat) : List Nat :=
  (List.range 8).filter (fun p => (h.pinFunc p == 3 || h.pinFunc p == 7) && h.pinCmp p == c)

/-- A time of a compare unit in the base of a pin that it drives, by the values of both now: an output edge is measured against the pin's base (R109). -/
def Hub.pinTime (h : Hub) (p c at48 : Nat) : Nat :=
  if h.pinTb p = h.cmpBase c then at48 else addTime (h.now48 (h.pinTb p)) ((at48 : Int) - (h.now48 (h.cmpBase c) : Int))

/-- A compare unit reaches its time (R111): FIRED is set, its pins go active, and a periodic unit takes its next multiple; it raises the source of
its base (R433). The manual gives no event code for a firing, so DETAIL[7:0] is a free value. -/
def Hub.compareFire (h : Hub) (g : Glob) (c : Nat) : Hub :=
  match (h.cmp c).next with
  | none => h
  | some n =>
    let h1 := h.setCmp c { h.cmp c with fired := true, next := if h.cmpPeriod c = 0 || h.seqUnit c then none else some (n + h.cmpPeriod c) }
    let h2 := (h.cmpPins c).foldl (fun h p => h.activate p (h.pinTime p c n)) h1
    (h2.drew 1).raise g (36 + h.cmpBase c) (h.freeAt 0 % 256 + c * 65536)

def execCompareFire (c : Nat) (s : State) : Host.Outcome State Fault Refusal := nextHub s (s.hub.compareFire s.glob c)

/-- A PPS output goes active at a whole second of its base (R110). -/
def Hub.ppsOutput (h : Hub) (p : Nat) : Hub := if h.pinFunc p = 5 then h.activate p (h.now48 (h.pinTb p) / sec48 * sec48) else h

def execPpsOutput (p : Nat) (s : State) : Host.Outcome State Fault Refusal := nextHub s (s.hub.ppsOutput p)

/-- The active level of an output ends after WIDTH × 100 ns (R110). -/
def Hub.tioPulseEnd (h : Hub) (p : Nat) : Hub :=
  if (h.pinState p).active then h.drive p (some (!h.pinActive p)) (h.pinState p).ends else h

def execTioPulseEnd (p : Nat) (s : State) : Host.Outcome State Fault Refusal := nextHub s (s.hub.tioPulseEnd p)

/-! ## What an apply does here (R100, R109 to R111) -/

/-- A base without the master it followed, the masters it heard and the exchanges under way. -/
def TimeBase.unbound (b : TimeBase) : TimeBase :=
  { b with slaveValid := false, master := none, rivals := [], syncT2 := none, reqT3 := [], peerT4 := [], delays := [] }

/-- A change of SRC takes the base out of JUMP_HELD: an accepted backward step that waits is never made, and its TIME_ACCEPT_JUMP completes with INVALID,
as R99 has it for a base in another state (DESIGN CHOICE, log entry 24). -/
def Hub.deferredCut (h : Hub) (g : Glob) (t : Nat) : Hub :=
  match (h.base t).deferred with
  | none => h
  | some (q, tag) => (h.setBase t { h.base t with deferred := none }).complete g q tag Status.invalid []

/-- A base after a commit: a new source enters ACQUIRE or FREE, and FREE runs at TRIM. -/
def Hub.baseApply (h : Hub) (g : Glob) (old : Hub) (t : Nat) : Hub :=
  let sn := h.f (Reg.TBt_CTL t) 1 0
  let trimmed : Hub → Hub := fun h => h.setBase t ((h.base t).runAt h.clock (h.s32 (Reg.TBt_TRIM t)))
  if old.f (Reg.TBt_CTL t) 1 0 ≠ sn then
    let h1 := h.deferredCut g t
    let b := (h1.base t).unbound
    let h1 := { h1 with time := { h1.time with saves := Sparse.set none h1.time.saves t none } }
    if sn ≠ 0 then (h1.setBase t { b with state := .acquire }).updateQuality g t
    else (trimmed (h1.setBase t { b with state := .free })).updateQuality g t
  else if sn = 0 then trimmed h
  else h

/-- A pin after a commit: a new function starts inactive or high impedance, and a GPIO output follows TIO_GPIO.OUT in the apply cycle. -/
def Hub.pinApply (h : Hub) (old : Hub) (p : Nat) : Hub :=
  let fo := old.pinFunc p
  let fn := h.pinFunc p
  let now := h.now48 (h.pinTb p)
  if fn = 2 then
    if fo = 2 && old.bit Reg.TIO_GPIO p == h.bit Reg.TIO_GPIO p then h else h.drive p (some (h.bit Reg.TIO_GPIO p)) now
  else if fo = fn && old.pinActive p == h.pinActive p then h
  else if fn = 3 || fn = 5 || fn = 7 then h.drive p (some (!h.pinActive p)) now
  else if (h.pinState p).drive.isSome then h.drive p none now
  else h

/-- A compare unit after a commit (R111, R209): a write of its CTL arms it; a change of its time or period, or the end of the sequencer's hold on it,
sets its next firing anew; and one that a FUNC 3 pin now names fires no more outside a run. A write leaves what the sequencer has placed on a unit that such a
pin named before. -/
def Hub.cmpApply (h : Hub) (g : Glob) (old : Hub) (written : List Nat) (c : Nat) : Hub :=
  if h.seqUnit c && old.seqUnit c then
    if written.contains (Reg.TIM_CMPc_CTL c) then h.setCmp c { h.cmp c with fired := false, late := false } else h
  else if written.contains (Reg.TIM_CMPc_CTL c) then h.cmpArm g c
  else if written.any (fun o => o == Reg.TIM_CMPc_SEC c || o == Reg.TIM_CMPc_NS c || o == Reg.TIM_CMPc_PERIOD c) || h.seqUnit c != old.seqUnit c
  then h.cmpRetime g c
  else h

/-- The time bases, compare units and pins after a commit; `written` lists the offsets that the set wrote. -/
def Hub.timeApply (h : Hub) (g : Glob) (old : Hub) (written : List Nat) : Hub :=
  let h1 := (List.range 4).foldl (fun h t => h.baseApply g old t) h
  let h2 := (List.range 16).foldl (fun h c => h.cmpApply g old written c) h1
  (List.range 8).foldl (fun h p => h.pinApply old p) h2

end Sys2Proof.Machine
end

