-- ==== Sys2Proof/Machine/Cut.lean ====
section
/-! DEFINITION. Ending a descriptor before its time: by an ABORT of its ring, by a failed read of host memory, by isolation of the block that serves it,
by a HOST-region reset and by the safe state (R41, R52, R61, R78, R201, R388; Table 2.6). -/

namespace Sys2Proof.Machine

/-- Some of the first bytes of a transfer to host memory have been accepted; the manual does not say how many (R61). -/
def Hub.writePrefix (h : Hub) (d : Desc) : Hub :=
  (h.drew 1).emit (.hostWrite (d.words.headD 0) (d.data.take (h.freeAt 0 % (d.data.length + 1))))

/-- Staged writes and table bytes without those that a CFG_STAGE is still staging. -/
def Hub.unstage (h : Hub) (q tag : Nat) : Hub :=
  { h with commit := { h.commit with
    writes := h.commit.writes.filter (fun w => w.owner != some (q, tag))
    tables := h.commit.tables.filter (fun t => t.owner != some (q, tag)) } }

/-- The first `n` bytes of a flash region erased. -/
def Fwu.erase (w : Fwu) (slot n : Nat) : Fwu :=
  { w with images := Sparse.set [] w.images slot (List.replicate n 255 ++ (w.image slot).drop n) }

/-- The slot that an activation erases: the inactive one; in recovery, the one that failed (R389, R396). -/
def Fwu.target (w : Fwu) : Nat := if w.phase = .recovery then w.boot.slot else 1 - w.slot

/-- The staged image programmed into an erased slot. -/
def Fwu.program (w : Fwu) (slot : Nat) : Fwu :=
  let size := imgSize w.staging
  let round := (size + 65535) / 65536 * 65536
  let image := w.staging.take size ++ List.replicate (round - size) 255 ++ (w.image slot).drop round
  { w with images := Sparse.set [] w.images slot image }

/-- A FW_ACTIVATE ends part-way: the sectors of the inactive slot that were already erased stay erased, and the manual does not say how many. -/
def Hub.fwActivateCut (h : Hub) : Hub :=
  let sectors := ceilDiv (imgSize h.fwu.staging) 65536
  (h.drew 1).modFwu (fun w => { Fwu.erase w w.target (h.freeAt 0 % (sectors + 1) * 65536) with op := none })

/-- The ports at which a TILE_SEND still waits for room. -/
def Hub.tileSendWaits (h : Hub) (q tag : Nat) : List Nat :=
  (List.range 32).filter (fun n => (h.port n).sends.any (fun f => f.owner == .tileSend q tag))

/-- A TILE_SEND that has not been queued is withdrawn. -/
def Hub.tileSendCut (h : Hub) (q tag : Nat) : Hub :=
  (h.tileSendWaits q tag).foldl (fun h n =>
    h.modPort n (fun p => { p with sends := p.sends.filter (fun f => f.owner != .tileSend q tag) })) h

/-- A descriptor that moves data ends with a status: every write already accepted stays, and no further one is made (R61). -/
def Hub.cutMoving (h : Hub) (g : Glob) (q status : Nat) (d : Desc) : Hub :=
  let h1 := match d.opcode with
    | 0x01 => h.unstage q d.tag
    | 0x30 => h.calLoadEnd q d.tag d.calPipeOp
    | 0x04 | 0x31 | 0x40 | 0x71 => h.writePrefix d
    | 0x50 => h.fwStageCut (d.words.headD 0)
    | _ => h
  h1.complete g q d.tag status []

/-- A descriptor that waits for an event ends with a status, unless it has taken effect (R60, R348). -/
def Hub.cutWaiting (h : Hub) (g : Glob) (q status : Nat) (d : Desc) : Hub :=
  match d.opcode with
  | 0x02 => h.cancelCommit g
  | 0x32 => h.msrEnd g status
  | 0x51 => h.fwActivateCut.complete g q d.tag status []
  | 0x52 => h.complete g q d.tag status []
  | 0x61 =>
    (((List.range 4).filter (fun t => (h.base t).deferred == some (q, d.tag))).foldl (fun h t =>
      h.setBase t { h.base t with deferred := none }) h).complete g q d.tag status []
  | 0x71 =>
    ({ h with commit := { h.commit with
      censuses := h.commit.censuses.filter (fun c => !(c.sq == q && c.tag == d.tag)) } }).complete g q d.tag status []
  | 0x80 => if (h.tileSendWaits q d.tag).isEmpty then h else (h.tileSendCut q d.tag).complete g q d.tag status []
  | 0x90 =>
    ({ h with saddle := { h.saddle with reqs := h.saddle.reqs.filter (fun r => !(r.q == q && r.tag == d.tag)) } }).complete g q d.tag status []
  | _ => h

/-- A descriptor ends with a status before its time. -/
def Hub.cutDesc (h : Hub) (g : Glob) (q status : Nat) (d : Desc) : Hub :=
  match d.phase with
  | .fetched => (h.fetchedCut g d).complete g q d.tag status []
  | .moving => if d.opcode = 0x50 then (h.cutMoving g q status d).confirmsGo g else h.cutMoving g q status d
  | .waiting => if d.opcode = 0x51 then (h.cutWaiting g q status d).confirmsGo g else h.cutWaiting g q status d

/-- The descriptors of every ring that satisfy a condition end with a status. -/
def Hub.cutWhere (h : Hub) (g : Glob) (status : Nat) (p : Desc → Bool) : Hub :=
  (List.range 64).foldl (fun h q => ((h.sq q).inflight.filter p).foldl (fun h d => h.cutDesc g q status d) h) h

/-! ## A HOST-region reset (R41) -/

/-- The registers of INT return to their reset values, with the vectors and the MSI-X capability (PRESUMED, log entry 18). Doorbell writes that wait for FIFO 0 and
events that wait for FIFO 5 stay: no queue drops an entry (R11). -/
def Hub.intReset (h : Hub) : Hub :=
  let offs := (List.range 128).map Reg.INT_SRC_MAPn ++ (List.range 4).map Reg.INT_PENDk ++ (List.range 64).map Reg.INT_VEC_CTLv
  { offs.foldl (fun h o => h.resetReg o) h with rings := { h.rings with
    vecs := [], msixEn := false, fmask := false } }

/-- A descriptor in flight at a HOST-region reset: no completion is written for it, and it ends as under an ABORT of its ring. A commit that has
passed its check, a measurement run, and whatever else has taken effect run on (R41, R78, R214). -/
def Hub.hostCut (h : Hub) (g : Glob) (q : Nat) (d : Desc) : Hub :=
  let h1 := h.modDesc q d.tag (fun x => { x with silent := true })
  if d.phase = .waiting && ((d.opcode == 0x02 && h.commit.phase == .pending) || d.opcode == 0x32) then h1
  else h1.cutDesc g q Status.aborted { d with silent := true }

/-- A function-level reset, a hot reset, PERST_N, or loss of the PCIe link or its reference (R41, R463). -/
def Hub.hostReset (h : Hub) (g : Glob) : Hub :=
  let h1 := ((List.range 64).foldl (fun h n => (h.putBit (Reg.SQn_CTL n) 0 false).putBit (Reg.CQn_CTL n) 0 false) h).putBit Reg.EVQ_CTL 0 false
  let h2 := (List.range 64).foldl (fun h q => (h.sq q).inflight.foldl (fun h d => h.hostCut g q d) h) h1
  h2.intReset.linkRetrains g

def execHostRegionReset (s : State) : Host.Outcome State Fault Refusal := nextHub s (s.hub.hostReset s.glob)

end Sys2Proof.Machine
end

