-- ==== Sys2Proof/Machine/Net.lean ====
section
/-! DEFINITION. The NET ports: frames, flow control and links (spec/05_ingest.md, Port modes; Transmit queues). -/

namespace Sys2Proof.Machine

/-- Event of a NET port (R139). -/
def Hub.netEvent (h : Hub) (g : Glob) (n detail : Nat) : Hub := h.raise g (32 + n) detail

/-! ## Holds (R119) -/

/-- The queues that are no longer held can raise event 0x04 anew. -/
def Hub.netHoldsEnd (h : Hub) (n s : Nat) : Hub :=
  h.modSub n s (fun x => { x with heldSaid := x.heldSaid.filter (fun q => h.netHeld n s q) })

/-- A PAUSE frame, or the entries of a PFC frame as class and time: each time replaces the one in force, and zero ends the hold (R119). -/
def Hub.netPause (h : Hub) (n s : Nat) (pfc : Bool) (times : List (Nat × Nat)) : Hub :=
  if !h.netUp n s then h
  else
    let h1 := h.count (Reg.NETn_CNT_PAUSE n) 31
    let h2 :=
      if pfc then
        if h.bit (Reg.NETn_CTL n) 4 then
          h1.modSub n s (fun x => { x with classes := times.foldl (fun l e =>
            if e.2 = 0 then l.filter (· != e.1) else if l.contains e.1 then l else e.1 :: l) x.classes })
        else h1
      else if h.bit (Reg.NETn_CTL n) 3 then h1.modSub n s (fun x => { x with paused := decide ((times.headD (0, 0)).2 ≠ 0) })
      else h1
    h2.netHoldsEnd n s

def execPauseFrameReceive (n sub : Nat) (pfc : Bool) (times : List (Nat × Nat)) (s : State) : Host.Outcome State Fault Refusal := wokenWhen (Hub.netHears n) 3 (fun s =>
    nextHub s (s.hub.netPause n sub pfc times)) s

/-- The pause time of a PAUSE (`none`) or of a PFC class expires. -/
def Hub.netHoldExpire (h : Hub) (n s : Nat) (cls : Option Nat) : Hub :=
  (h.modSub n s (fun x => match cls with
    | none => { x with paused := false }
    | some c => { x with classes := x.classes.filter (· != c) })).netHoldsEnd n s

def execNetPauseHoldEnd (n sub : Nat) (cls : Option Nat) (s : State) : Host.Outcome State Fault Refusal :=
  nextHub s (s.hub.netHoldExpire n sub cls)

/-- A queue has been held for more than 10 ms: event 0x04, once per hold. -/
def Hub.netHoldEvent (h : Hub) (g : Glob) (n s q : Nat) : Hub :=
  if h.netHeld n s q && !(h.subPort n s).heldSaid.contains q then
    (h.modSub n s (fun x => { x with heldSaid := q :: x.heldSaid })).netEvent g n (4 + s * 256 + q * 65536)
  else h

def execNetQueueHoldEvent (n sub q : Nat) (s : State) : Host.Outcome State Fault Refusal := nextHub s (s.hub.netHoldEvent s.glob n sub q)

/-! ## Transmit queues (R118) -/

/-- A frame posted to a queue of 64; the answer says whether it was taken. -/
def Hub.netPost (h : Hub) (n s q : Nat) (frame : TxFrame) : Hub × Bool :=
  let l := Sparse.get [] (h.subPort n s).txq q
  if l.length < 64 then (h.modSub n s (fun x => { x with txq := Sparse.set [] x.txq q (l ++ [frame]) }), true) else (h, false)

/-- A frame of the control firmware goes to Q6 of a sub-port that exists; where Q6 is full, or others wait for it, it waits (DESIGN CHOICE, log
entry 25: R118 drops no frame). -/
def Hub.netFirm (h : Hub) (n s : Nat) (frame : TxFrame) : Hub :=
  if !h.hasSub n s then h
  else
    let wait := h.modSub n s (fun x => { x with firm := x.firm ++ [frame] })
    if !(h.subPort n s).firm.isEmpty then wait
    else match h.netPost n s 6 frame with
      | (h1, true) => h1
      | (_, false) => wait

/-- The first frame that waits for Q6 enters it, when there is room. -/
def Hub.netFirmEnter (h : Hub) (n s : Nat) : Hub :=
  match (h.subPort n s).firm with
  | [] => h
  | f :: fs => match h.netPost n s 6 f with
    | (h1, true) => h1.modSub n s (fun x => { x with firm := fs })
    | (_, false) => h

/-- A frame as it leaves. -/
def TxFrame.out (n s q : Nat) : TxFrame → Out
  | .posted f => .netTx n s q f
  | .answer f => .netAnswer n s f
  | .igmp a j => .igmp n s a j

/-- The highest queue of a sub-port that may send now. -/
def Hub.netNext (h : Hub) (n s : Nat) : Option Nat :=
  ((List.range 7).reverse).find? (fun q => !h.netHeld n s q && !(Sparse.get [] (h.subPort n s).txq q).isEmpty)

/-- A sub-port sends the head of its highest queue that is not held; Q7 never is (R103, R118). -/
def Hub.netSend (h : Hub) (g : Glob) (n s : Nat) : Hub :=
  if !h.netUp n s then h
  else match (h.subPort n s).q7, h.netNext n s with
    | f :: fs, _ => ((h.drew 1).modSub n s (fun x => { x with q7 := fs })).q7Leave g n (h.freeAt 0 % (5 * 2 ^ 47)) f
    | [], none => h
    | [], some q =>
      match Sparse.get [] (h.subPort n s).txq q with
      | [] => h
      | f :: fs =>
        ((h.modSub n s (fun x => { x with txq := Sparse.set [] x.txq q fs, sentAt := some h.clock })).emit (f.out n s q)).netFirmEnter n s

/-! ## Reception (R116, R117) -/

/-- A frame that the control firmware answers: any of ARP, replies among them and for whatever address, or an IPv4 ICMP echo request to whatever destination
(DESIGN CHOICE, log entry 25: R116 says that it answers ARP and ICMP echo, and not which of them). -/
def firmwareFrame (f : List Byte) : Bool :=
  beAt f 12 2 == 0x0806 || (beAt f 12 2 == 0x0800 && byteAt f 23 == 1 && byteAt f (14 + 4 * (byteAt f 14 % 16)) == 8)

/-- A frame as it arrives on a sub-port, its FCS included: discarded and counted, or taken into the receive buffer of 256 KiB, where the control
firmware answers it, or the flow, sACN or PTP that takes it finds it. A MAC control frame is consumed by the MAC (R119). -/
def Hub.netReceive (h : Hub) (g : Glob) (n s : Nat) (frame : List Byte) (fcsOk : Bool) : Hub :=
  if !h.netUp n s then h
  else if frame.length < 64 || 1522 < frame.length || !fcsOk then h.count (Reg.NETn_CNT_FCS n) 31
  else if beAt frame 12 2 = 0x8808 then h
  else if 262144 < (h.subPort n s).rx + frame.length then
    (h.count (Reg.NETn_CNT_OVR n) 31).raiseIf (h.f (Reg.NETn_CNT_OVR n) 30 0 == 0) g (32 + n) (3 + s * 256)
  else
    let h1 := h.modSub n s (fun x => { x with rx := x.rx + frame.length })
    if firmwareFrame frame && !g.safe then h1.netFirm n s (.answer frame) else h1

def execNetFrameReceive (n sub : Nat) (frame : List Byte) (fcsOk : Bool) (s : State) : Host.Outcome State Fault Refusal := wokenWhen (Hub.netHears n) 3 (fun s =>
    nextHub s (s.hub.netReceive s.glob n sub frame fcsOk)) s

/-- The receive buffer of a sub-port drains in one PCLK cycle by a free amount: the manual gives no rate (R117). -/
def Hub.netDrain (h : Hub) (n s : Nat) : Hub :=
  if (h.subPort n s).rx = 0 then h
  else (h.drew 1).modSub n s (fun x => { x with rx := x.rx - h.freeAt 0 % (x.rx + 1) })

/-! ## Links (R139) -/

def Hub.netLinkUp (h : Hub) (g : Glob) (n s : Nat) : Hub :=
  if !h.hasSub n s || (h.subPort n s).link || !h.serving (.net n) then h
  else (h.modSub n s (fun x => { x with link := true })).netEvent g n (1 + s * 256)

def execNetLinkUp (n sub : Nat) (s : State) : Host.Outcome State Fault Refusal := nextHub s (s.hub.netLinkUp s.glob n sub)

def Hub.netLinkDown (h : Hub) (g : Glob) (n s : Nat) : Hub :=
  if !(h.subPort n s).link then h
  else (h.modSub n s (fun x => { x with link := false, rx := 0, paused := false, classes := [], heldSaid := [] })).netEvent g n (2 + s * 256)

def execNetLinkDown (n sub : Nat) (s : State) : Host.Outcome State Fault Refusal := nextHub s (s.hub.netLinkDown s.glob n sub)

/-- A port after a commit: a new mode takes its sub-ports down. The frames in its transmit queues, and those that wait for them, stay (R11; DESIGN CHOICE, log
entry 25: R118 does not say what becomes of them). -/
def Hub.netPortApply (h : Hub) (g : Glob) (old : Hub) (n : Nat) : Hub :=
  if h.netMode n = old.netMode n then (List.range 4).foldl (fun h s => h.netHoldsEnd n s) h
  else (List.range 4).foldl (fun h s => h.netLinkDown g n s) h

end Sys2Proof.Machine
end

