-- ==== Sys2Proof/Machine/Ingest.lean ====
section
/-! DEFINITION. ST 2110-20 flows: merge, frames, conversion and arming (spec/05_ingest.md). -/

namespace Sys2Proof.Machine

/-- Event of a flow (R139). -/
def Hub.flowEvent (h : Hub) (g : Glob) (f ev path : Nat) : Hub := h.raise g 104 (ev + f * 256 + path * 65536)

/-- The world of ING (Table 17.1). -/
def Hub.ingSecure (h : Hub) : Bool := h.bit Reg.SEC_BLKWORLD 0

/-- The settings of a flow. -/
def Hub.flowOn (h : Hub) (f : Nat) : Bool := h.bit (Reg.ING_FLOWf_CTL f) 0
def Hub.flowDual (h : Hub) (f : Nat) : Bool := h.bit (Reg.ING_FLOWf_CTL f) 1
def Hub.flowAuto (h : Hub) (f : Nat) : Bool := h.bit (Reg.ING_FLOWf_CTL f) 2
def Hub.flowFmt (h : Hub) (f : Nat) : Nat := h.f (Reg.ING_FLOWf_CTL f) 5 4
def Hub.flowDepth (h : Hub) (f : Nat) : Nat := 8 + 2 * h.f (Reg.ING_FLOWf_CTL f) 9 8
def Hub.flowWidth (h : Hub) (f : Nat) : Nat := h.f (Reg.ING_FLOWf_GEOM f) 13 0
def Hub.flowHeight (h : Hub) (f : Nat) : Nat := h.f (Reg.ING_FLOWf_GEOM f) 29 16
def Hub.flowPkts (h : Hub) (f : Nat) : Nat := h.f (Reg.ING_FLOWf_PKT f) 19 0
def Hub.flowWindow (h : Hub) (f : Nat) : Nat := 2 ^ (8 + h.f (Reg.ING_FLOWf_JB f) 22 20)
def Hub.flowPipes (h : Hub) (f : Nat) : List Nat := (List.range 32).filter (h.bit (Reg.ING_FLOWf_PIPES f))

/-- The sub-port of a path: its NET port and sub-port. -/
def Hub.pathUdp (h : Hub) (f path : Nat) : Nat := if path = 0 then h.n (Reg.ING_FLOWf_PATHA_UDP f) else h.n (Reg.ING_FLOWf_PATHB_UDP f)
def Hub.pathUp (h : Hub) (f path : Nat) : Bool := h.netUp (fieldOf (h.pathUdp f path) 17 16) (fieldOf (h.pathUdp f path) 19 18)

/-- A flow receives on a path: it is enabled, the path is used, and ingest runs (R26, R122). -/
def Hub.flowReceives (h : Hub) (g : Glob) (f path : Nat) : Bool :=
  decide (f < 32) && h.flowOn f && (path == 0 || (path == 1 && h.flowDual f)) && h.pathUp f path && h.serving .ing &&
    !g.safe

/-! ## Conversion (R129) -/

/-- A value held between two bounds. -/
def clampRat (lo hi x : Rat) : Rat := if x < lo then lo else if hi < x then hi else x

/-- Step 1: a luma or RGB code, and a chroma code, at depth `d`. Full-range chroma is centred on one half (PRESUMED, log entry 26: R129 gives the division and no
zero point). -/
def lumaOf (narrow : Bool) (d c : Nat) : Rat :=
  if narrow then clampRat 0 1 (((c : Rat) - 16 * 2 ^ (d - 8)) / (219 * 2 ^ (d - 8))) else (c : Rat) / (2 ^ d - 1)
def chromaOf (narrow : Bool) (d c : Nat) : Rat :=
  if narrow then clampRat (-1 / 2) (1 / 2) (((c : Rat) - 128 * 2 ^ (d - 8)) / (224 * 2 ^ (d - 8)))
  else clampRat (-1 / 2) (1 / 2) ((c : Rat) / (2 ^ d - 1) - 1 / 2)

/-- Step 3: YCbCr to RGB with the BT.709 or BT.2020 equations. -/
def yccToRgb (bt2020 : Bool) (y cb cr : Rat) : List Rat :=
  let kr : Rat := if bt2020 then 2627 / 10000 else 2126 / 10000
  let kb : Rat := if bt2020 then 593 / 10000 else 722 / 10000
  let r := y + 2 * (1 - kr) * cr
  let b := y + 2 * (1 - kb) * cb
  [clampRat 0 1 r, clampRat 0 1 ((y - kr * r - kb * b) / (1 - kr - kb)), clampRat 0 1 b]

/-- Step 4: a channel of `b` bits, in exact arithmetic. -/
def quantiseRat (b : Nat) (x : Rat) : Nat := (x * (2 ^ b - 1) + 1 / 2).floor.toNat

/-- The bits of the channels of a format. -/
def fmtBits (fmt : Nat) : List Nat := if fmt = 0 then [5, 6, 5] else if fmt = 3 then [10, 10, 10] else [8, 8, 8]

/-- The stored word of a pixel (Table 6.8); the flag of P32H is that of the transfer characteristic. -/
def packPixel (fmt : Nat) (pq : Bool) (c : List Nat) : Nat :=
  let r := c.getD 0 0; let gr := c.getD 1 0; let b := c.getD 2 0
  if fmt = 0 then r * 2 ^ 11 + gr * 2 ^ 5 + b
  else if fmt = 3 then b2n pq * 2 ^ 30 + r * 2 ^ 20 + gr * 2 ^ 10 + b
  else r * 2 ^ 16 + gr * 2 ^ 8 + b

/-- The chroma of a pixel of 4:2:2 (step 2): an even pixel's own, the mean of the two neighbours of an odd one, the left one's at the end of the
row; `none` while a neighbour has not arrived. -/
def chroma422 (samples : Sparse (List Nat)) (width row x : Nat) (narrow : Bool) (d i : Nat) : Option Rat :=
  let at_ (x : Nat) : Option Rat :=
    match Sparse.get [] samples (row * 8192 + x) with
    | [] => none
    | s => some (chromaOf narrow d (s.getD i 0))
  if x % 2 = 0 then at_ x
  else if x + 1 < width then
    match at_ (x - 1), at_ (x + 1) with
    | some a, some b => some ((a + b) / 2)
    | _, _ => none
  else at_ (x - 1)

/-- The linear-free RGB of a pixel, when all that it depends on has arrived. -/
def Hub.flowRgb (h : Hub) (f : Nat) (samples : Sparse (List Nat)) (row x : Nat) : Option (List Rat) :=
  let narrow := h.bit (Reg.ING_FLOWf_CTL f) 12
  let d := h.flowDepth f
  let bt := h.bit (Reg.ING_FLOWf_CTL f) 10
  match Sparse.get [] samples (row * 8192 + x) with
  | [] => none
  | s =>
    match h.f (Reg.ING_FLOWf_CTL f) 7 6 with
    | 0 => some (s.map (lumaOf narrow d))
    | 1 => some (yccToRgb bt (lumaOf narrow d (s.getD 0 0)) (chromaOf narrow d (s.getD 1 0)) (chromaOf narrow d (s.getD 2 0)))
    | _ =>
      match chroma422 samples (h.flowWidth f) row x narrow d 1, chroma422 samples (h.flowWidth f) row x narrow d 2 with
      | some cb, some cr => some (yccToRgb bt (lumaOf narrow d (s.getD 0 0)) cb cr)
      | _, _ => none

/-- A code within one of the exact one: R129 fixes no more, so the deviation is free. -/
def nearCode (bits exact free : Nat) : Nat :=
  if free % 3 = 0 then exact else if free % 3 = 1 then min (2 ^ bits - 1) (exact + 1) else exact - 1

/-- An access of ING to DRAM leaves its violations (R144). -/
def Hub.ingLooks (h : Hub) (g : Glob) (m : Memory) (a n : Nat) : Hub := h.dramViolation g m h.ingSecure true a n 0x70

/-- One pixel converted and written, when it can be. -/
def flowPixel (g : Glob) (f : Nat) (fr : FlowFrame) (row x : Nat) (hm : Hub × Memory) : Hub × Memory :=
  let h := hm.1
  match h.flowRgb f fr.samples row x with
  | none => hm
  | some rgb =>
    let fmt := h.flowFmt f
    let codes := (List.range 3).map (fun i =>
      nearCode ((fmtBits fmt).getD i 8) (quantiseRat ((fmtBits fmt).getD i 8) (rgb.getD i 0)) (h.freeAt i))
    let a := h.flowRing f + fr.slot * h.flowSlot f + row * h.f (Reg.ING_FLOWf_PITCH f) 17 0 + x * fmtBytes fmt
    ((h.drew 3).ingLooks g hm.2 a (fmtBytes fmt), h.writeDram hm.2 h.ingSecure a (leBytes (fmtBytes fmt) (packPixel fmt (h.bit (Reg.ING_FLOWf_CTL f) 11) codes)) false)

/-- The pixels of a row that lie, in part or whole, in its DRAM block `k`. -/
def blockPixels (fb width k : Nat) : List Nat := (List.range width).filter (fun x => decide (x * fb < 64 * k + 64 ∧ 64 * k < x * fb + fb))

/-- A poisoned block of a row, all of whose pixels the frame has brought, is written whole, which clears its POISON (R147, Table 6.9; DESIGN CHOICE, log entry
26: the ingest gathers a block from its packets). -/
def flowWhole (h : Hub) (f : Nat) (fr : FlowFrame) (row : Nat) (m : Memory) (k : Nat) : Memory :=
  let a := h.flowRing f + fr.slot * h.flowSlot f + row * h.f (Reg.ING_FLOWf_PITCH f) 17 0 + 64 * k
  if (m.tagAt a).poison && (blockPixels (fmtBytes (h.flowFmt f)) (h.flowWidth f) k).all (fun x => (h.flowRgb f fr.samples row x).isSome) then
    h.writeDram m h.ingSecure a (m.dramBytes a 64) false
  else m

/-- The rows of a packet written to their place in the frame: its own pixels, and the odd pixel to its left, which may have waited. -/
def flowRow (g : Glob) (f : Nat) (fr : FlowFrame) (hm : Hub × Memory) (r : RowData) : Hub × Memory :=
  let fb := fmtBytes (hm.1.flowFmt f)
  let r1 := (List.range (r.samples.length + 1)).foldl (fun hm i =>
    if r.offset + i = 0 then hm
    else if i = 0 && (hm.1.f (Reg.ING_FLOWf_CTL f) 7 6 != 2 || (r.offset - 1) % 2 == 0) then hm
    else flowPixel g f fr r.row (r.offset + i - 1) hm) hm
  (r1.1, ((List.range ((r.offset + r.samples.length) * fb / 64 + 1)).filter (fun k => decide ((r.offset - 1) * fb / 64 ≤ k))).foldl (flowWhole r1.1 f fr r.row) r1.2)

/-- The samples of a packet joined to those of its frame. -/
def FlowFrame.take (fr : FlowFrame) (rows : List RowData) : FlowFrame :=
  { fr with samples := rows.foldl (fun s r =>
      (List.range r.samples.length).foldl (fun s i => Sparse.set [] s (r.row * 8192 + r.offset + i) (r.samples.getD i [])) s) fr.samples }

/-! ## Merge and frames (R121, R122, R125 to R127) -/

/-- The window's judgement on a sequence number. -/
inductive MergeVerdict where
  | fresh | duplicate | old
deriving DecidableEq, Repr

/-- R122: newer than the highest, or inside the window and not yet accepted, is fresh. -/
def Flow.judge (x : Flow) (window seq : Nat) : MergeVerdict :=
  match x.high with
  | none => .fresh
  | some hi =>
    let back := (hi + 2 ^ 32 - seq % 2 ^ 32) % 2 ^ 32
    if back ≠ 0 ∧ 2 ^ 31 ≤ back then .fresh
    else if window ≤ back then .old
    else if x.seen.contains (seq % 2 ^ 32) then .duplicate else .fresh

/-- The window after a packet is accepted. -/
def Flow.enter (x : Flow) (window seq : Nat) : Flow :=
  let s := seq % 2 ^ 32
  let hi := match x.high with
    | none => s
    | some h0 => if (s + 2 ^ 32 - h0) % 2 ^ 32 < 2 ^ 31 then s else h0
  { x with high := some hi, seen := s :: x.seen.filter (fun t => (hi + 2 ^ 32 - t) % 2 ^ 32 < window) }

/-- The format of a packet breaks R121, whatever the frame in progress. -/
def Hub.flowFormatBad (h : Hub) (f : Nat) (p : FlowPkt) : Bool :=
  decide (4 < p.rows.length) || p.field ||
    p.rows.any (fun r => decide (h.flowHeight f ≤ r.row) || decide (h.flowWidth f < r.offset + r.samples.length))

/-- The cells of a packet, and those of the buffer (R124). -/
def pktCells (payload : Nat) : Nat := ceilDiv (payload + 8) 64
def Hub.flowCells (h : Hub) (f : Nat) : Nat := h.f (Reg.ING_FLOWf_JB f) 7 0 * 1024

/-- A slot is held by a bound pipe: in force there, or armed and not yet in force (R127). -/
def Hub.slotHeld (h : Hub) (f i : Nat) : Bool :=
  h.flowAuto f && (h.flowPipes f).any (fun p => (h.buffersOf p).contains (h.flowRing f + i * h.flowSlot f))

/-- The slot of a new frame: the next in ring order that no bound pipe holds, from slot 0 on for the first frame of a flow (DESIGN CHOICE, log entry 26: R127 speaks
of the slots after the last one written). Where all are held, which three slots and one group never see, the
choice is free. -/
def Hub.nextSlot (h : Hub) (f : Nat) : Nat :=
  let k := h.flowSlots f
  let first := match (h.flow f).slot with
    | none => 0
    | some i => i + 1
  match ((List.range k).map (fun i => (first + i) % k)).find? (fun i => !h.slotHeld f i) with
  | some i => i
  | none => h.freeAt 0 % k

/-- The frame in progress ends (R126): a complete one waits for its last DRAM write; an incomplete one counts and raises event 0x01. -/
def Hub.flowEnd (h : Hub) (g : Glob) (f : Nat) : Hub :=
  match (h.flow f).frame with
  | none => h
  | some fr =>
    let h1 := h.modFlow f (fun x => { x with frame := none, ended := fr.rtp :: x.ended })
    if fr.count = h.flowPkts f && fr.marker then h1.modFlow f (fun x => { x with done := x.done ++ [fr] })
    else (h1.count (Reg.ING_FSTf_INC f) 31).flowEvent g f 1 0

/-- The buffer rises past HIGH sixteenths: event 0x02 (R125). -/
def Hub.flowLevel (h : Hub) (g : Glob) (f old new : Nat) : Hub :=
  let hi := h.f (Reg.ING_FLOWf_JB f) 31 28
  h.raiseIf (hi != 0 && decide (old * 16 < hi * h.flowCells f ∧ hi * h.flowCells f ≤ new * 16)) g 104 (2 + f * 256)

/-- A packet that is accepted: window, cells, frame, and its data written. -/
def flowAccept (g : Glob) (f : Nat) (p : FlowPkt) (hm : Hub × Memory) : Hub × Memory :=
  let h := hm.1
  let rtp := p.rtp % 2 ^ 32
  let h1 := match (h.flow f).frame with
    | some fr => if fr.rtp = rtp then h else h.flowEnd g f
    | none => h
  let c := (h1.flow f).cells
  let h2 := (h1.modFlow f (fun x => { x.enter (h.flowWindow f) p.seq with cells := c + pktCells p.payload })).flowLevel g f c
    (c + pktCells p.payload)
  let slot := h2.nextSlot f
  let cur := ((h2.flow f).frame).getD { slot := slot, rtp := rtp, count := 0, marker := false, samples := [] }
  let fr := { cur with count := cur.count + 1, marker := cur.marker || p.marker, cells := cur.cells + pktCells p.payload }.take p.rows
  let h3 := (if (h2.flow f).frame.isNone then h2.drew 1 else h2).modFlow f (fun x => { x with
    frame := some fr, slot := some cur.slot, slots := Sparse.erase cur.slot x.slots })
  let r := p.rows.foldl (flowRow g f fr) (h3, hm.2)
  (if p.marker then r.1.flowEnd g f else r.1, r.2)

/-- A path has carried a packet: its bit sets, with event 0x05 when it was clear, and the flow is no longer stalled (R123). -/
def Hub.pathHeard (h : Hub) (g : Glob) (f path : Nat) : Hub :=
  let x := h.flow f
  let was := if path = 0 then x.upA else x.upB
  let h1 := h.setFlow f (if path = 0 then { x with upA := true, downA := false, stalled := false }
    else { x with upB := true, downB := false, stalled := false })
  if was then h1 else h1.flowEvent g f 5 path

/-- A packet of a flow on a path (R121, R122, R125, R126). `freed` is the number of cells whose DRAM writes have ended since the flow's last
packet. Of a stopped flow (R131) the path alone is heard, and the packet is discarded uncounted (DESIGN CHOICE, log entry 26). -/
def flowPacketOf (s : State) (f path : Nat) (p : FlowPkt) (freed : Nat) : State :=
  if !s.hub.flowReceives s.glob f path then s
  else if (s.hub.flow f).aborted then { s with hub := s.hub.pathHeard s.glob f path }
  else
    let h := (s.hub.pathHeard s.glob f path).modFlow f (fun x => { x with cells := x.cells - freed })
    let x := h.flow f
    let rtp := p.rtp % 2 ^ 32
    if h.flowFormatBad f p then { s with hub := h.count (Reg.ING_FSTf_FMT f) 31 }
    else match x.judge (h.flowWindow f) p.seq with
      | .duplicate => { s with hub := h.count (Reg.ING_FSTf_DUP f) 31 }
      | .old => { s with hub := h.count (Reg.ING_FSTf_LATE f) 31 }
      | .fresh =>
        if x.ended.contains rtp then { s with hub := h.count (Reg.ING_FSTf_LATE f) 31 }
        else if x.frame.any (fun fr => fr.rtp == rtp && decide (h.flowPkts f ≤ fr.count)) then { s with hub := h.count (Reg.ING_FSTf_FMT f) 31 }
        else if h.flowCells f < x.cells + pktCells p.payload then
          let h1 := h.count (Reg.ING_FSTf_OVR f) 31
          { s with hub :=
              if x.overrun.contains rtp then h1 else (h1.modFlow f (fun x => { x with overrun := rtp :: x.overrun })).flowEvent s.glob f 3 0 }
        else
          let r := flowAccept s.glob f p (h, s.mem)
          { s with hub := r.1, mem := r.2 }

/-- `errs` are the errors that its writes meet in DRAM blocks that they do not fill, and `lines` those that the reads of the jitter buffer meet, in banks 8 to 11. -/
def execFlowPacket (f path : Nat) (pkt : FlowPkt) (freed : Nat) (errs : List (Nat × ReadError)) (lines : List (Nat × LineErr)) (s : State) :
    Host.Outcome State Fault Refusal := wokenWhen (fun h => h.pathUp f path) 3 (fun s =>
    .next (flowPacketOf ((s.reads errs).ownLines .ing 8 4 lines) f path pkt freed)) s

/-- The cells that the frames of a flow still hold when the oldest complete one has been written: those of the others that wait, and of the one in progress
(R124; DESIGN CHOICE, log entry 26: those of a frame that ended incomplete are written by then). -/
def Flow.cellsAfter (x : Flow) (rest : List FlowFrame) : Nat := min x.cells ((x.frame.toList ++ rest).map FlowFrame.cells).sum

/-- What a complete frame arms: the pipes that its flow is bound to while AUTO_ARM is 1, with the address of its slot; one that a commit has met, as before it
(R128, R130). -/
def Hub.frameArms (h : Hub) (f : Nat) (fr : FlowFrame) : List Nat × Nat := match fr.under with
  | some u => (u.pipes, u.addr)
  | none => (if h.flowAuto f then h.flowPipes f else [], h.flowRing f + fr.slot * h.flowSlot f)

/-- The last DRAM write of the oldest complete frame finishes: its cells are free, it counts, and arms the bound pipes when AUTO_ARM is 1 (R124, R126, R128). One
whose packets had all been accepted when its flow stalled counts and arms too (DESIGN CHOICE, log entry 26: R123 against R126). -/
def Hub.flowFrameComplete (h : Hub) (g : Glob) (f : Nat) : Hub :=
  match (h.flow f).done with
  | [] => h
  | fr :: rest =>
    if !h.serving .ing || g.safe then h
    else
      let h1 := ((h.modFlow f (fun x => { x with done := rest, slots := Sparse.set 0 x.slots fr.slot (fr.rtp + 1), cells := x.cellsAfter rest })).count
        (Reg.ING_FSTf_DONE f) 31).wrN (Reg.ING_FSTf_RTP f) fr.rtp
      let arms := h.frameArms f fr
      (arms.1.filter (fun p => h.reachable (.scn p))).foldl (fun h p =>
        h.armByRegister g p ingestArmRank { addr := arms.2, source := some (f, fr.rtp) }) h1

/-- In each PCLK cycle some of the cells of a flow become free, as DRAM writes of its packets end: how many is free, and one at least in each microsecond (DESIGN
CHOICE, log entry 26). A frame that a commit met, and that did not complete in the cycle of the apply, is gone with the jitter buffer (R130). -/
def Hub.flowDrain (h : Hub) (f : Nat) : Hub :=
  let x := h.flow f
  if x.cells = 0 && x.done.isEmpty then h
  else
    let k := max (h.freeAt 0 % (x.cells + 1)) (if h.clock % cyclesPerUs = 0 then 1 else 0)
    (h.setFlow f { x with cells := x.cells - k, done := x.done.filter (fun fr => fr.under.all (fun u => decide (h.clock ≤ u.clock))) }).drew 1

def execFlowFrameComplete (f : Nat) (s : State) : Host.Outcome State Fault Refusal := nextHub s (s.hub.flowFrameComplete s.glob f)

/-- A path has been silent for 10 ms: it is down, and the flow is stalled when no path it uses is left (R123). -/
def Hub.flowPathTimeout (h : Hub) (g : Glob) (f path : Nat) : Hub :=
  let x := h.flow f
  if !h.flowOn f || !(path == 0 || (path == 1 && h.flowDual f)) || (if path = 0 then x.downA else x.downB) || g.safe then h
  else
    let x1 := if path = 0 then { x with upA := false, downA := true } else { x with upB := false, downB := true }
    let st := x1.downA && (!h.flowDual f || x1.downB)
    let h1 := (h.setFlow f { x1 with stalled := st }).flowEvent g f 4 path
    if st && !x.stalled then h1.flowEvent g f 6 0 else h1

def execFlowPathTimeout (f path : Nat) (s : State) : Host.Outcome State Fault Refusal := nextHub s (s.hub.flowPathTimeout s.glob f path)

/-! ## Stopping and changes (R130, R131) -/

/-- The frame in progress and the merge window go, and the jitter buffer empties (R130). Later packets of the discarded frame start it anew (DESIGN CHOICE, log
entry 26); a frame that had ended stays so (R126). -/
def Flow.discard (x : Flow) : Flow := { x with frame := none, done := [], high := none, seen := [], overrun := [], cells := 0 }

/-- A commit writes a flow: a frame that completes in the same PCLK cycle still does, and arms under the old settings. The slots hold what they held, while the ring
lies where it did (R130). -/
def Hub.flowRewritten (h old : Hub) (f : Nat) : Hub :=
  let x := h.flow f
  let arms (fr : FlowFrame) : FlowArms :=
    fr.under.getD { clock := h.clock, pipes := (old.frameArms f fr).1, addr := (old.frameArms f fr).2 }
  let same := h.flowRing f == old.flowRing f && h.flowSlot f == old.flowSlot f && h.flowSlots f == old.flowSlots f
  h.setFlow f { x.discard with
    done := x.done.map (fun fr => { fr with under := some (arms fr) })
    slots := if same then x.slots else [] }

/-- ABORT KIND 5: the flow stops; its slots keep their contents (R131). -/
def Hub.flowStop (h : Hub) (g : Glob) (f : Nat) : Hub :=
  (h.modFlow f (fun x => { x.discard with aborted := true })).flowEvent g f 7 0

/-- The registers of a flow. -/
def flowRegs (f off : Nat) : Bool := decide (0x90000 + 0x40 * f ≤ off ∧ off < 0x90000 + 0x40 * f + 0x40)

/-- The IGMP joins and leaves of a path that a commit changes (R116). -/
def Hub.pathJoin (h : Hub) (old : Hub) (f path : Nat) : Hub :=
  let ip (h : Hub) : Nat := if path = 0 then h.n (Reg.ING_FLOWf_PATHA_IP f) else h.n (Reg.ING_FLOWf_PATHB_IP f)
  let port (h : Hub) : Nat := fieldOf (h.pathUdp f path) 17 16
  let sub (h : Hub) : Nat := fieldOf (h.pathUdp f path) 19 18
  let on (h : Hub) : Bool := h.flowOn f && (path == 0 || h.flowDual f) && ip h / 2 ^ 28 == 14 && h.hasSub (port h) (sub h)
  let same := on h == on old && ip h == ip old && port h == port old && sub h == sub old && h.netMode (port h) == old.netMode (port h)
  if same then h
  else
    let h1 := if on old then h.netFirm (port old) (sub old) (.igmp (ip old) false) else h
    if on h then h1.netFirm (port h) (sub h) (.igmp (ip h) true) else h1

/-- A flow is stalled while no path that it uses is left; the change to it raises event 0x06 (R123). A path that it uses no longer is forgotten. -/
def Hub.flowStall (h : Hub) (g : Glob) (f : Nat) : Hub :=
  let x := h.flow f
  let x1 := if h.flowDual f then x else { x with upB := false, downB := false }
  let st := h.flowOn f && x1.downA && (!h.flowDual f || x1.downB)
  (h.setFlow f { x1 with stalled := st }).raiseIf (st && !x.stalled) g 104 (6 + f * 256)

/-- A flow after a commit; `written` lists the offsets that the set wrote (R130, R131). -/
def Hub.flowApply (h : Hub) (g : Glob) (old : Hub) (written : List Nat) (f : Nat) : Hub :=
  let mine := written.any (flowRegs f)
  let h1 := if mine then h.flowRewritten old f else h
  let h2 := if written.contains (Reg.ING_FLOWf_CTL f) && h.flowOn f then h1.modFlow f (fun x => { x with aborted := false }) else h1
  let h3 := if h.flowOn f && old.flowOn f then h2
    else h2.modFlow f (fun x => { x with upA := false, upB := false, downA := false, downB := false, stalled := false })
  ((h3.flowStall g f).pathJoin old f 0).pathJoin old f 1

/-- The network and the flows after a commit. -/
def Hub.ingestApply (h : Hub) (g : Glob) (old : Hub) (written : List Nat) : Hub :=
  let h1 := (List.range 4).foldl (fun h n => h.netPortApply g old n) h
  (List.range 32).foldl (fun h f => h.flowApply g old written f) h1

end Sys2Proof.Machine
end

