-- ==== Sys2Proof/Machine/Odelle.lean ====
section
/-! DEFINITION. The Odelle MACs: beacons, association and leases, downlink (spec/12_odelle_mesh.md), and the records of the fixture patch
(Table 11.2), which name the outputs that they serve. -/

namespace Sys2Proof.Machine

/-- The outputs of a node on a radio. -/
def Hub.odlOutputs (h : Hub) (r node : Nat) : List Nat :=
  (List.range (fpOutputs h.patch)).filter (fun o =>
    outRoute (outRec h.patch o) == 1 && outPort (outRec h.patch o) == r && outNode (outRec h.patch o) == node)

/-- The fixture area and the shadow of output `o` (Table 11.1); the world of FIX. -/
def Hub.fixArea (h : Hub) : Nat := h.addr36 Reg.FIX_AREA_LO Reg.FIX_AREA_HI 26
def Hub.shadowAddr (h : Hub) (o : Nat) : Nat := h.fixArea + 0x400000 + 512 * o
def Hub.fixSecure (h : Hub) : Bool := h.bit Reg.SEC_BLKWORLD 2

/-- An access of FIX to DRAM leaves its violations (R144). -/
def Hub.fixLooks (h : Hub) (g : Glob) (m : Memory) (write : Bool) (a n : Nat) : Hub := h.dramViolation g m h.fixSecure write a n 0x76

/-- Values of an output written to its shadow, for `count` slots from slot `first`; `vals` holds them from slot 1. A poisoned block all of whose slots
are among them is written whole (R281). -/
def Hub.shadowWrite (h : Hub) (m : Memory) (o first count : Nat) (vals : List Byte) : Memory :=
  let slots := outSlots (outRec h.patch o)
  let m1 := ((List.range (ceilDiv slots 64)).filter (fun k =>
    (m.tagAt (h.shadowAddr o + 64 * k)).poison && decide (first ≤ 64 * k + 1 ∧ min (64 * k + 64) slots < first + count))).foldl (fun m k =>
      h.writeDram m h.fixSecure (h.shadowAddr o + 64 * k) (padTo 64 ((vals.take slots).drop (64 * k))) false) m
  h.writeDram m1 h.fixSecure (h.shadowAddr o + first - 1) (padTo count (vals.drop (first - 1))) false

/-- The same, with the violations of the write. -/
def shadowTakes (g : Glob) (o first count : Nat) (vals : List Byte) (hm : Hub × Memory) : Hub × Memory :=
  (hm.1.fixLooks g hm.2 true (hm.1.shadowAddr o + first - 1) count, hm.1.shadowWrite hm.2 o first count vals)

/-! ## Settings -/

/-- Event of a radio (R314). -/
def Hub.odlEvent (h : Hub) (g : Glob) (r detail : Nat) : Hub := h.raise g (40 + r) detail

/-- Fields of ODLr_CTL, as a word. -/
def ctlTb (c : Nat) : Nat := fieldOf c 2 1
def ctlBo (c : Nat) : Nat := fieldOf c 5 3
def ctlSlotLog (c : Nat) : Nat := fieldOf c 7 6
def ctlTtl (c : Nat) : Nat := fieldOf c 15 13
def ctlDown (c : Nat) : Nat := fieldOf c 20 16
def ctlOpen (c : Nat) : Bool := bitOf c 21

/-- The beacon interval, in ns (R295). -/
def odlBi (c : Nat) : Nat := 15625000 * 2 ^ ctlBo c

/-- The largest PSDU (R296). -/
def odlMax (c guard : Nat) : Nat :=
  let slots := 2 ^ (ctlSlotLog c + 2)
  min 127 ((odlBi c - 2 * fieldOf guard 11 0 * 1000 * slots) / (32000 * slots) - 6)

/-- The base of a radio. -/
def Hub.odlTb (h : Hub) (r : Nat) : Nat := ctlTb (h.n (Reg.ODLr_CTL r))

/-- The MAC takes the settings that its next beacon carries. -/
def Hub.odlLatch (h : Hub) (r : Nat) : Hub :=
  h.modOdl r (fun x => { x with
    ctl := h.n (Reg.ODLr_CTL r), guard := h.n (Reg.ODLr_GUARD r), lease := h.n (Reg.ODLr_LEASE r), rbi := h.n (Reg.ODLr_RBI r) })

/-- `k` beacon intervals begin: every address ages, and entries of the seen-cache leave (R303, R305). -/
def Odl.passed (x : Odl) (k : Nat) : Odl :=
  { x with
    table := x.table.map (fun e => (e.1, { e.2 with age := e.2.age + k }))
    seen := (x.seen.filter (fun e => decide (k < e.2.2))).map (fun e => (e.1, e.2.1, e.2.2 - k)) }

/-- How long the interval in progress has lasted, in 2^-48 ns. -/
def Hub.odlPart (h : Hub) (r : Nat) : Nat := h.now48 (h.odlTb r) - ((h.odl r).at48 - odlBi (h.odl r).ctl * ns48)

/-- The whole intervals since the latest frame of the node of an address, or since its reservation began (R305, Table 12.10). -/
def Hub.odlWholeAge (h : Hub) (r : Nat) (e : OdlAddr) : Nat := e.age - (if h.odlPart r < e.part then 1 else 0)

/-- The outputs of a radio. -/
def Hub.radioOutputs (h : Hub) (r : Nat) : List Nat :=
  (List.range (fpOutputs h.patch)).filter (fun o => outRoute (outRec h.patch o) == 1 && outPort (outRec h.patch o) == r)

/-- An output is marked dirty and whole. -/
def Hub.odlWholeMark (h : Hub) (r o : Nat) : Hub :=
  h.modOdl r (fun x => { x with
    marks := Sparse.set (0, 0) x.marks o (1, outSlots (outRec h.patch o)), wholes := if x.wholes.contains o then x.wholes else x.wholes ++ [o] })

/-- Every output of a radio is marked dirty and whole (R312, R313). -/
def Hub.odlAllWhole (h : Hub) (r : Nat) : Hub := (h.radioOutputs r).foldl (fun h o => h.odlWholeMark r o) h

/-- The MAC starts (R295): its first beacon is the first of the grid at least 10 ms ahead. On a STANDBY it holds STATE 3 (R313). The intervals that
the stop has lasted are those between the two plans of the next beacon, where they are in one base (DESIGN CHOICE, log entry 33). -/
def Hub.odlStart (h : Hub) (r : Nat) : Hub :=
  let c := h.n (Reg.ODLr_CTL r)
  let old := h.odl r
  let bi := odlBi c * ns48
  let phase := h.n (Reg.ODLr_PHASE r) * ns48
  let k := ceilDiv (h.now48 (ctlTb c) + 10000000 * ns48 - phase) bi
  let standby := h.saddle.role == .standby || h.saddle.role == .syncing
  let gap := if ctlTb old.ctl = ctlTb c then (phase + k * bi - old.at48) / (odlBi old.ctl * ns48) else 0
  (h.modOdl r (fun x => { x.passed gap with
    phase := if standby then .standby else .starting, idx := k, at48 := phase + k * bi, plan := none })).odlLatch r

/-- The MAC resumes on its existing schedule, at the first beacon at least 10 ms ahead, with every output dirty and whole (R312); on a
STANDBY it holds STATE 3 again (R313). -/
def Hub.odlResume (h : Hub) (r : Nat) : Hub :=
  let x := h.odl r
  let bi := odlBi x.ctl * ns48
  let k := ceilDiv (h.now48 (h.odlTb r) + 10000000 * ns48 - x.at48) bi
  let phase := if h.saddle.role == .standby || h.saddle.role == .syncing then OdlPhase.standby else .starting
  (h.setOdl r { x.passed k with phase := phase, idx := x.idx + k, at48 := x.at48 + k * bi, plan := none }).odlAllWhole r

/-! ## Frames (R293) -/

/-- A PSDU: header, payload and FCS. -/
def odlFrame (type ttl pan src dst seq : Nat) (payload : List Byte) : List Byte :=
  let b := leBytes 1 (type + 16) ++ leBytes 1 ttl ++ leBytes 2 pan ++ leBytes 2 src ++ leBytes 2 dst ++ leBytes 2 seq ++ payload
  b ++ leBytes 2 (crc16 b)

/-- An entry of the seen-cache of 512, which leaves at the `life`-th beacon from now (R303): when the cache is full its oldest entry leaves and is
counted. -/
def Hub.odlSee (h : Hub) (r src seq life : Nat) : Hub :=
  let x := h.odl r
  let h1 := if x.seen.length < 512 then h else h.count (Reg.ODLr_CNT_EVICT r) 31
  h1.setOdl r { x with seen := (if x.seen.length < 512 then x.seen else x.seen.drop 1) ++ [(src, seq, life)] }

/-- A frame is in the seen-cache. -/
def Hub.odlSeen (h : Hub) (r src seq : Nat) : Bool := (h.odl r).seen.any (fun e => e.1 == src && e.2.1 == seq)

/-- A frame that the hub originates leaves, and enters its seen-cache: a beacon at the start of an interval, so that it leaves at the fourth beacon
after it, and another frame within one, so that it leaves at the fifth, when four whole intervals have passed (R303; DESIGN CHOICE, log entry 33). -/
def Hub.odlSend (h : Hub) (r type dst seq : Nat) (payload : List Byte) : Hub :=
  ((h.odlSee r 0xFFFE seq (if type = 0 then 4 else 5)).emit (.odl r (odlFrame type (ctlTtl (h.odl r).ctl) (h.f (Reg.ODLr_PAN r) 15 0) 0xFFFE dst seq payload)))

/-- The next sequence number of the hub, used. -/
def Hub.odlBump (h : Hub) (r : Nat) : Hub := h.modOdl r (fun x => { x with seq := (x.seq + 1) % 65536 })

/-- The transceiver has failed: the MAC stops, with event 0x08 (R292). -/
def Hub.odlFail (h : Hub) (g : Glob) (r : Nat) : Hub := (h.modOdl r (fun x => { x with phase := .fault })).odlEvent g r 8

/-- A MAC that may act: its block serves, and the hub is not in the safe state (R26). -/
def Hub.odlRuns (h : Hub) (g : Glob) (r : Nat) : Bool := decide (r < 2) && h.serving (.odl r) && !g.safe

/-! ## Beacons (R295, R298, R300) -/

/-- No FREE address is left. -/
def Odl.full (x : Odl) : Bool := (x.table.filter (fun e => e.2.state != 0)).length == 4096

/-- The BEACON payload (Table 12.5). -/
def Odl.beacon (x : Odl) (ctl guard lease : Nat) : List Byte :=
  let bt := x.at48 + fieldOf guard 11 0 * 1000 * ns48
  leBytes 4 x.idx ++ leBytes 6 (secOf bt) ++ leBytes 4 (nsOf bt) ++ leBytes 2 (fracOf bt) ++ leBytes 4 (satSigned 32 x.prevErr) ++ zeros 4 ++
    leBytes 1 (ctlBo ctl) ++ leBytes 1 (ctlSlotLog ctl) ++ leBytes 1 (ctlDown ctl) ++ leBytes 1 (fieldOf lease 7 0) ++
    leBytes 2 (fieldOf guard 11 0) ++ leBytes 1 (fieldOf guard 19 12) ++ leBytes 1 (fieldOf lease 11 8) ++ leBytes 2 (fieldOf guard 31 20) ++
    leBytes 1 (b2n (ctlOpen ctl) + 2 * b2n x.full + 4 * b2n x.stepped) ++ [0]

/-- The beacon index advances. -/
def Odl.nextBeacon (x : Odl) (ctl : Nat) : Odl := { x with idx := x.idx + 1, at48 := x.at48 + odlBi ctl * ns48 }

/-- The instant of the transmit command of the next beacon: TX_LAT, in 10 ns, before its SFD is to come at B_k + G_BASE (R298). -/
def Hub.beaconAt (h : Hub) (r : Nat) : Nat :=
  (h.odl r).at48 + h.f (Reg.ODLr_GUARD r) 11 0 * (1000 * ns48) - h.f (Reg.ODLr_RBI r) 31 16 * (10 * ns48)

/-- The transmit command of a beacon, at its instant and not before; the interval begins, and the index advances, whatever becomes of the beacon. -/
def Hub.beaconSend (h : Hub) (g : Glob) (r : Nat) (tx : OdlTx) : Hub :=
  let x0 := h.odl r
  if !h.odlRuns g r || !(x0.phase == .starting || x0.phase == .beaconing) || h.now48 (h.odlTb r) < h.beaconAt r then h
  else
    let h1 := (h.odlLatch r).modOdl r (fun x => { x.passed 1 with phase := .beaconing })
    let x := h1.odl r
    match tx with
    | .fails => (h1.modOdl r (fun x => x.nextBeacon x.ctl)).odlFail g r
    | .busy => (h1.count (Reg.ODLr_CNT_CCA r) 31).modOdl r (fun x => { x.nextBeacon x.ctl with plan := none })
    | .sent =>
      let h2 := h1.odlSend r 0 0xFFFF (x.idx % 65536) (x.beacon x.ctl x.guard x.lease)
      h2.modOdl r (fun y => { y.nextBeacon x.ctl with
        last := x.idx % 2 ^ 32, plan := some (x.at48 + fieldOf x.guard 11 0 * 1000 * ns48), stepped := false })

def execBeaconSend (r : Nat) (tx : OdlTx) (s : State) : Host.Outcome State Fault Refusal := nextHub s (s.hub.beaconSend s.glob r tx)

/-- The SFD of the beacon is captured at TS, `quarter` quarter-nanoseconds into the cycle (R104, R105, R298); a stamp that FIFO 7 loses leaves
PREV_ERR as it was (R312). -/
def Hub.beaconCapture (h : Hub) (g : Glob) (r quarter : Nat) : Hub :=
  match (h.odl r).plan with
  | none => h
  | some plan =>
    if !h.odlRuns g r then h
    else
      let stamp := addTime (h.now48 (h.odlTb r) + quarter * 2 ^ 46) (h.s32 (Reg.TIM_ODLr_EGR r) * 2 ^ 32)
      let err : Int := ((stamp : Int) - (plan : Int)) / 2 ^ 32
      let lost := h.fifoLoses 7
      let h1 := (h.fifoPush g 7 (stamp / 2 ^ 32 % 2 ^ 64)).modOdl r (fun x => { x with plan := none })
      if lost then h1
      else
        ((h1.modOdl r (fun x => { x with prevErr := err })).wrN (Reg.ODLr_TX_ERR r) (satSigned 32 err)).raiseIf
          (decide (8000 * 65536 < err.natAbs)) g (40 + r) 6

def execBeaconSfdCapture (r quarter : Nat) (s : State) : Host.Outcome State Fault Refusal := nextHub s (s.hub.beaconCapture s.glob r quarter)

/-! ## Association and leases (R303 to R306) -/

def Hub.odlAddr (h : Hub) (r a : Nat) : OdlAddr := Sparse.get {} (h.odl r).table a
def Hub.setOdlAddr (h : Hub) (r a : Nat) (e : OdlAddr) : Hub := h.modOdl r (fun x => { x with table := Sparse.set {} x.table a e })

/-- Every output of a node is marked dirty and whole (R305). -/
def Hub.odlWhole (h : Hub) (r node : Nat) : Hub :=
  (h.odlOutputs r node).foldl (fun h o => h.odlWholeMark r o) h

/-- A frame from the node of an address: an ADRIFT one returns, with event 0x05 (R305). -/
def Hub.odlHeard (h : Hub) (g : Glob) (r a hop : Nat) : Hub :=
  let e := h.odlAddr r a
  let h1 := h.setOdlAddr r a { e with state := 1, hop := hop % 8, age := 0, part := h.odlPart r }
  if e.state = 2 then (h1.odlWhole r a).odlEvent g r (5 + a * 65536) else h1

/-- The address bound to an extended address. -/
def Hub.odlBound (h : Hub) (r ext : Nat) : Option Nat :=
  ((h.odl r).table.find? (fun e => e.2.state != 0 && e.2.ext == ext)).map (·.1)

/-- The lowest FREE address. -/
def Hub.odlFree (h : Hub) (r : Nat) : Option Nat := (List.range 4096).find? (fun a => (h.odlAddr r a).state == 0)

/-- The outcome of an ASSOC_REQ (Table 12.9): STATUS and the address granted; `none` where the request is discarded. -/
def Hub.assocOutcome (h : Hub) (r ext req : Nat) : Option (Nat × Nat) :=
  let bound := h.odlBound r ext
  if !(decide (req < 0x1000) || req == 0xFFFF) then none
  else if bound.isNone && !ctlOpen (h.odl r).ctl then some (3, 0xFFFF)
  else if req = 0xFFFF then
    match h.odlFree r with
    | some a => some (0, a)
    | none => some (2, 0xFFFF)
  else if (h.odlAddr r req).state = 0 || bound = some req then some (0, req)
  else some (1, 0xFFFF)

/-- An address granted: the one that the node held before is freed, and every output of the node becomes dirty and whole (R304, R305). -/
def Hub.odlGrant (h : Hub) (r ext a hop : Nat) : Hub :=
  let h1 := match h.odlBound r ext with
    | some b => if b = a then h else h.setOdlAddr r b {}
    | none => h
  (h1.setOdlAddr r a { state := 1, hop := hop % 8, ext := ext, part := h.odlPart r }).odlWhole r a

/-- ODLr_LAST_EXT and ODLr_LAST_ADDR record a request. -/
def Hub.odlRecord (h : Hub) (r ext addr status : Nat) : Hub :=
  ((h.wrN (Reg.ODLr_LAST_EXT_LO r) (ext % 2 ^ 32)).wrN (Reg.ODLr_LAST_EXT_HI r) (ext / 2 ^ 32 % 2 ^ 32)).wrN (Reg.ODLr_LAST_ADDR r)
    (addr % 65536 + status * 65536)

/-- A frame from a node is new to the hub: one in the seen-cache is counted and not acted on (R303). -/
def Hub.odlFresh (h : Hub) (r src seq : Nat) (k : Hub → Hub) : Hub :=
  if h.odlSeen r src seq then h.count (Reg.ODLr_CNT_DUP r) 31 else k (h.odlSee r src seq 5)

/-- The edge of the timing pin at the SFD of a received frame is captured, less the ingress correction, at a phase of the cycle that is open (R104, R105). -/
def Hub.radioStamp (h : Hub) (g : Glob) (r : Nat) : Hub :=
  let stamp := addTime (h.now48 (h.odlTb r) + h.freeAt 0 % (5 * 2 ^ 47)) (-(h.s32 (Reg.TIM_ODLr_ING r) * 2 ^ 32))
  (h.drew 1).fifoPush g 7 (stamp / 2 ^ 32 % 2 ^ 64)

/-- The MAC receives: it beacons and may act. -/
def Hub.odlReceives (h : Hub) (g : Glob) (r : Nat) : Bool := h.odlRuns g r && (h.odl r).phase == .beaconing

/-- An association request (R304 to R306). One that is discarded for its REQ_ADDR is recorded too; Table 12.9 gives it no STATUS, and that is a free
value. -/
def Hub.assocReq (h : Hub) (g : Glob) (r src seq hop ext req : Nat) : Hub :=
  if !h.odlReceives g r then h
  else (h.radioStamp g r).odlFresh r src seq (fun h =>
    let was := h.odlBound r ext
    let back := was.any (fun a => (h.odlAddr r a).state == 2)
    let h1 := match was with
      | some a => h.odlHeard g r a hop
      | none => h
    match h.assocOutcome r ext req with
    | none => ((h1.odlRecord r ext req (h1.freeAt 0 % 2 ^ 8)).drew 1).count (Reg.ODLr_CNT_FMT r) 31
    | some (0, a) =>
      let h2 := ((h1.odlGrant r ext a hop).odlRecord r ext a 0).modOdl r (fun x => { x with
        rsps := x.rsps ++ [{ dst := 0xFFFF, ext := ext, addr := a, status := 0 }] })
      if back && was = some a then h2 else h2.odlEvent g r (1 + a * 65536)
    | some (st, _) =>
      (((h1.odlRecord r ext req st).modOdl r (fun x => { x with
        rsps := x.rsps ++ [{ dst := 0xFFFF, ext := ext, addr := 0xFFFF, status := st }] })).count (Reg.ODLr_CNT_REFUSE r) 31).odlEvent g r
          (2 + st * 256 + req % 65536 * 65536))

def execAssocReq (r src seq hop ext req : Nat) (s : State) : Host.Outcome State Fault Refusal :=
  nextHub s (s.hub.assocReq s.glob r src seq hop ext req)

/-- A keepalive: its address is heard, or, when it is FREE, is answered with status 4 (R305). -/
def Hub.odlKeepalive (h : Hub) (g : Glob) (r src seq hop : Nat) : Hub :=
  if !h.odlReceives g r || 0x1000 ≤ src then h
  else (h.radioStamp g r).odlFresh r src seq (fun h =>
    if (h.odlAddr r src).state = 0 then
      h.modOdl r (fun x => { x with rsps := x.rsps ++ [{ dst := src, ext := 0, addr := 0xFFFF, status := 4 }] })
    else h.odlHeard g r src hop)

def execKeepalive (r src seq hop : Nat) (s : State) : Host.Outcome State Fault Refusal :=
  nextHub s (s.hub.odlKeepalive s.glob r src seq hop)

/-- A received frame that fails its FCS, or its format (R294). -/
def Hub.odlReject (h : Hub) (g : Glob) (r : Nat) (fcs : Bool) : Hub :=
  if !h.odlReceives g r then h else (h.radioStamp g r).count (if fcs then Reg.ODLr_CNT_FCS r else Reg.ODLr_CNT_FMT r) 31

def execOdlFrameReject (r : Nat) (fcs : Bool) (s : State) : Host.Outcome State Fault Refusal := nextHub s (s.hub.odlReject s.glob r fcs)

/-- A frame whose source and number are in the seen-cache (R303). -/
def execOdlSeenFrame (r src seq : Nat) (s : State) : Host.Outcome State Fault Refusal :=
  nextHub s (if s.hub.odlReceives s.glob r && s.hub.odlSeen r src seq then (s.hub.radioStamp s.glob r).count (Reg.ODLr_CNT_DUP r) 31 else s.hub)

/-- A node has been unheard for 2 × KA_INT + 1 intervals: ADRIFT, with event 0x03 (R305). One heard in this interval stays (R306). -/
def Hub.nodeAdrift (h : Hub) (g : Glob) (r a : Nat) : Hub :=
  if h.odlReceives g r && (h.odlAddr r a).state == 1 && decide (2 * fieldOf (h.odl r).lease 7 0 + 1 ≤ h.odlWholeAge r (h.odlAddr r a)) then
    (h.setOdlAddr r a { h.odlAddr r a with state := 2, age := 0, part := h.odlPart r }).odlEvent g r (3 + a * 65536)
  else h

def execNodeAdrift (r a : Nat) (s : State) : Host.Outcome State Fault Refusal := nextHub s (s.hub.nodeAdrift s.glob r a)

/-- The reservation of an ADRIFT address has lasted ADDR_LEASE intervals: FREE, with event 0x04 (R305). -/
def Hub.leaseEnd (h : Hub) (g : Glob) (r a : Nat) : Hub :=
  if h.odlReceives g r && (h.odlAddr r a).state == 2 && decide (fieldOf (h.odl r).lease 27 12 ≤ h.odlWholeAge r (h.odlAddr r a)) then
    (h.setOdlAddr r a {}).odlEvent g r (4 + a * 65536) else h

def execAddrLeaseEnd (r a : Nat) (s : State) : Host.Outcome State Fault Refusal := nextHub s (s.hub.leaseEnd s.glob r a)

/-- A stopped MAC tries its transceiver again (R292). -/
def Hub.odlRetry (h : Hub) (g : Glob) (r : Nat) (answers : Bool) : Hub :=
  if h.odlRuns g r && (h.odl r).phase == .fault && answers then h.odlStart r else h

def execTransceiverRetry (r : Nat) (answers : Bool) (s : State) : Host.Outcome State Fault Refusal :=
  nextHub s (s.hub.odlRetry s.glob r answers)

/-! ## Downlink (R304, R308) -/

/-- The dirty outputs of one group, in ascending order beginning after the last output served. -/
def Odl.turn (x : Odl) : List Nat :=
  let ks := (x.marks.map (·.1)).filter (fun o => (Sparse.get (0, []) x.latest o).2 != [])
  let order := ks.filter (x.served ≤ ·) ++ ks.filter (· < x.served)
  match order with
  | [] => []
  | o :: _ => order.filter (fun i => (Sparse.get (0, []) x.latest i).1 == (Sparse.get (0, []) x.latest o).1)

/-- The records of one ODATA: output, first slot and count of each, filling at most `room` bytes (fewer than 255) and `n` records (Table 12.8). -/
def odlRecords (x : Odl) : List Nat → Nat → Nat → List (Nat × Nat × Nat)
  | _, _, 0 => []
  | [], _, _ + 1 => []
  | o :: os, room, n + 1 =>
    let sp := Sparse.get (0, 0) x.marks o
    let len := sp.2 + 1 - sp.1
    if room ≤ 6 then []
    else if len ≤ room - 6 then (o, sp.1, len) :: odlRecords x os (room - 6 - len) n
    else [(o, sp.1, room - 6)]

/-- A dirty mark after `k` slots of its start were sent. -/
def Odl.markSent (x : Odl) (e : Nat × Nat × Nat) : Odl :=
  let sp := Sparse.get (0, 0) x.marks e.1
  { x with
    marks := Sparse.set (0, 0) x.marks e.1 (if sp.2 < e.2.1 + e.2.2 then (0, 0) else (e.2.1 + e.2.2, sp.2)), served := e.1 + 1
    wholes := if sp.2 < e.2.1 + e.2.2 then x.wholes.filter (· != e.1) else x.wholes }

/-- The outputs that a list of records sends whole, at last: REFRESH restarts for each (R282, R308). -/
def Odl.wholeSent (x : Odl) (recs : List (Nat × Nat × Nat)) : List Nat :=
  (recs.filter (fun e => x.wholes.contains e.1 && decide ((Sparse.get (0, 0) x.marks e.1).2 < e.2.1 + e.2.2))).map (·.1)

/-- The bytes of one record. -/
def Hub.odlRecordBytes (h : Hub) (x : Odl) (e : Nat × Nat × Nat) : List Byte :=
  leBytes 2 (outNode (outRec h.patch e.1)) ++ leBytes 1 (outOut (outRec h.patch e.1)) ++ leBytes 2 e.2.1 ++ leBytes 1 e.2.2 ++
    padTo e.2.2 ((Sparse.get (0, []) x.latest e.1).2.drop (e.2.1 - 1))

/-- The span that a record writes to the shadow: its own, and the rest of a poisoned block that it begins or ends in, whose marked slots it, or a later
record, carries (R281, R308). -/
def Hub.shadowSpan (h : Hub) (m : Memory) (o first count : Nat) : Nat × Nat :=
  let bad (i : Nat) : Bool := (m.tagAt (h.shadowAddr o + i)).poison
  let a := if bad (first - 1) then (first - 1) / 64 * 64 + 1 else first
  let e := first + count - 1
  let z := if bad (e - 1) then min (outSlots (outRec h.patch o)) ((e - 1) / 64 * 64 + 64) else e
  (a, z + 1 - a)

/-- One ODATA leaves: the shadow takes the values sent, a poisoned block whole, and the marks sent clear. -/
def sendOdata (s : State) (r : Nat) : State :=
  let h := s.hub
  let x := h.odl r
  let os := x.turn
  let recs := odlRecords x os (odlMax x.ctl x.guard - 30) 15
  match recs with
  | [] => s
  | e :: _ =>
    let pg := (Sparse.get (0, []) x.latest e.1).1
    let tick := Sparse.get (0, 0) x.ticks pg
    let pay := leBytes 4 tick.1 ++ leBytes 6 (secOf tick.2) ++ leBytes 4 (nsOf tick.2) ++ leBytes 2 (fracOf tick.2) ++
      leBytes 1 recs.length ++ leBytes 1 pg ++ (recs.map (h.odlRecordBytes x)).flatten
    let h1 := ((h.odlSend r 1 0xFFFF x.seq pay).odlBump r).modOdl r (fun x => recs.foldl Odl.markSent x)
    let h2 := { h1 with fix := { h1.fix with whole := (x.wholeSent recs).foldl (fun w o => Sparse.set 0 w o h.clock) h1.fix.whole } }
    let hm := recs.foldl (fun hm e =>
        let sp := h.shadowSpan hm.2 e.1 e.2.1 e.2.2
        shadowTakes s.glob e.1 sp.1 sp.2 (Sparse.get (0, []) x.latest e.1).2 hm)
      (h2.countIf (decide (tick.2 < h.now48 (h.odlTb r))) (Reg.ODLr_CNT_LATE r) 31, s.mem)
    { s with hub := hm.1, mem := hm.2 }

/-- The waiting ASSOC_RSPs that fit in one slot between its guards, each of 24 bytes and 6 more at 32 µs (R296). -/
def Odl.answers (x : Odl) : Nat :=
  min x.rsps.length ((odlBi x.ctl / 2 ^ (ctlSlotLog x.ctl + 2) - 2 * fieldOf x.guard 11 0 * 1000) / 960000)

/-- The first `n` ASSOC_RSPs that wait leave, in order (Table 12.7). -/
def Hub.sendRsps (h : Hub) (r n : Nat) : Hub :=
  ((h.odl r).rsps.take n).foldl (fun h e =>
    (h.odlSend r 3 e.dst (h.odl r).seq (leBytes 8 e.ext ++ leBytes 2 e.addr ++ leBytes 1 e.status ++ [0])).odlBump r)
    (h.modOdl r (fun x => { x with rsps := x.rsps.drop n }))

/-- A downlink round: the answers that wait and fit, in the first round of the interval, or else one ODATA. A busy channel prevents each of them, and
each is counted (R302). -/
def downlinkOf (s : State) (r round : Nat) (tx : OdlTx) : State :=
  let h := s.hub
  let x := h.odl r
  if !h.odlReceives s.glob r || ctlTtl x.ctl = 0 || ctlDown x.ctl ≤ round * ctlTtl x.ctl then s
  else
    let answers := if round = 0 then x.answers else 0
    if answers = 0 && x.turn.isEmpty then s
    else match tx with
      | .fails => { s with hub := h.odlFail s.glob r }
      | .busy => { s with hub := h.countBy (Reg.ODLr_CNT_CCA r) 31 (max 1 answers) }
      | .sent => if answers ≠ 0 then { s with hub := h.sendRsps r answers } else sendOdata s r

/-- `errs` are the errors that the writes of the output shadow meet in blocks that they do not fill. -/
def execDownlinkRound (r round : Nat) (tx : OdlTx) (errs : List (Nat × ReadError)) (s : State) : Host.Outcome State Fault Refusal :=
  .next (downlinkOf (s.reads errs) r round tx)

/-! ## Changes (R311, R312) -/

/-- Every address becomes FREE. -/
def Odl.freeAll (x : Odl) : Odl := { x with table := [], seen := [], rsps := [], marks := [], wholes := [], plan := none }

/-- A MAC after a commit. -/
def Hub.odlApply (h old : Hub) (r : Nat) : Hub :=
  let on (h : Hub) : Bool := h.bit (Reg.ODLr_CTL r) 0
  let key (h : Hub) : List Nat :=
    let c := h.n (Reg.ODLr_CTL r)
    [ctlTb c, ctlBo c, ctlSlotLog c, fieldOf c 12 8, h.n (Reg.ODLr_PAN r), h.n (Reg.ODLr_PHASE r)]
  if !on h then if on old then h.modOdl r (fun x => { x.freeAll with phase := .off, stepped := false }) else h
  else if !on old then h.odlStart r
  else if key h = key old then h
  else h.odlStart r

end Sys2Proof.Machine
end

