-- ==== Sys2Proof/Machine/PairOps.lean ====
section
/-! DEFINITION. What the fault manager and the pairing commands share of the Saddle link: packets, health and the health record
(spec/15_pairing.md, R367, R381). -/

namespace Sys2Proof.Machine

/-- The hub is one of a pair. -/
def Hub.paired (h : Hub) : Bool := h.saddle.role != .unpaired

/-- HEALTH (R381). -/
def Hub.health (h : Hub) (g : Glob) : Nat :=
  if g.safe then 3
  else if !h.power.isolated.isEmpty || h.muteMask != 0 || h.saddle.bistFailed || h.saddle.isolated ||
      (List.range 4).any (fun t => (h.base t).state == .holdover || (h.base t).state == .jumpHeld) then 2
  else 1

/-- The uncorrectable memory errors counted. -/
def Hub.ueTotal (h : Hub) : Nat :=
  h.n (Reg.MEMc_CNT_UE 0) + h.n (Reg.MEMc_CNT_UE 1) + h.f Reg.SRAM_UE 23 0 + h.f Reg.LCL_UE 23 0

/-- The health record (Table 15.5). -/
def Hub.healthRecord (h : Hub) (g : Glob) : List Byte :=
  let x := h.saddle
  padTo 64 (leBytes 1 1 ++ leBytes 1 x.role.code ++ leBytes 1 (h.health g) ++
    leBytes 1 (b2n x.current + 2 * b2n g.safe + 4 * b2n x.isolated) ++ leBytes 4 (h.group 0).frame ++ leBytes 4 h.commit.epoch ++
    padTo 8 h.commit.digest ++ leBytes 4 h.upMask ++ leBytes 4 h.muteMask ++ leBytes 1 g.cause ++ leBytes 1 h.isoNow ++
    ((List.range 4).map (fun t => leBytes 1 ((h.base t).state.code + 16 * (h.base t).quality))).flatten ++
    leBytes 2 (min x.bistSince 65535) ++ leBytes 4 (min (x.ueCarry + (h.ueTotal - x.ueSaid)) (2 ^ 32 - 1)) ++ leBytes 4 x.copyBytes)

/-- A paired hub sends its health record; what one would say that cannot be sent, the next says. -/
def Hub.sendHealth (h : Hub) (g : Glob) : Hub :=
  if !h.paired || !h.saddleHears then h
  else (h.saddleSend (.health (h.healthRecord g))).setSaddle
    { (h.saddleSend (.health (h.healthRecord g))).saddle with bistSince := 0, ueSaid := h.ueTotal, ueCarry := 0 }

end Sys2Proof.Machine
end

