-- ==== Sys2Proof/Machine/Faults.lean ====
section
/-! DEFINITION. Block faults, isolation, the safe state, link errors and the loss of the root clock (spec/01_architecture.md, R21 to R27, R34;
R462). -/

namespace Sys2Proof.Machine

/-! ## The safe state (R26) -/

/-- A descriptor that entry to the safe state ends: data that moves, and what waits for frames, calibration, the census or the flash (R26, R61, R401). -/
def Desc.endsInSafe (d : Desc) : Bool :=
  d.phase == .moving || (d.phase == .waiting && (d.opcode == 0x32 || d.opcode == 0x51 || d.opcode == 0x52 || d.opcode == 0x71 || d.opcode == 0x80))

/-- The snapshots of the units that ask for one at safe-state entry (Table 17.5). -/
def Hub.safeSnapshots (h : Hub) (g : Glob) (cause : Nat) : Hub :=
  ((List.range 0x83).filter (fun u => h.bit (Reg.CRN_UNITu_CTL u) 6 && (Block.ofUnit u).isSome)).foldl (fun h u => h.trigger g u 5 cause) h

/-- What stops in the safe state: the commit in progress, data transfers, frames, engines, radios and the PTP roles; every enabled port sends IDLE. -/
def Hub.safeStop (h : Hub) (g : Glob) : Hub :=
  let h1 := (h.cancelCommit g).cutWhere g Status.aborted Desc.endsInSafe
  let h2 := (List.range 32).foldl (fun h n => h.dropFrames g n Status.aborted) h1
  let h2 := (List.range 32).foldl (fun h n => if h.bit (Reg.NSHn_CTL n) 0 then h.laneIdles n else h) h2
  let h3 := (List.range 24).foldl (fun h e => h.haltEngine g e) h2
  let h4 := (List.range 2).foldl (fun h r => h.modOdl r (fun x => { x with phase := if x.phase = .off then .off else .halted, plan := none })) h3
  (List.range 4).foldl (fun h t => h.setBase t { h.base t with master := none, slaveValid := false }) h4

/-- The chip fault manager enters the safe state. A later cause overwrites nothing (R26). -/
def enterSafe (cause : Nat) (gh : Glob × Hub) : Glob × Hub :=
  if gh.1.safe then gh
  else
    let g := { gh.1 with safe := true, cause := cause, forced := cause == 7 }
    let h1 := (gh.2.safeSnapshots g cause).safeStop g
    (g, (h1.record g 0x0102 0xFFFF cause h1.isoNow 0 0).sendHealth g)

/-- The next state after a change of the chip's state and the hub. -/
abbrev nextGlob (s : State) (gh : Glob × Hub) : Host.Outcome State Fault Refusal := .next { s with glob := gh.1, hub := gh.2 }

/-- A cause of Table 1.5. -/
def chipCause (c : Nat) : Bool := decide (1 ≤ c ∧ c ≤ 7)

/-- Causes that arise in one cycle: CHIP_CAUSE takes the lowest (R26). -/
def execSafeStateEntry (causes : List Nat) (s : State) : Host.Outcome State Fault Refusal :=
  match (causes.filter chipCause).min? with
  | none => .next s
  | some c => nextGlob s (enterSafe c (s.glob, s.hub))

/-- The register takes the write of a requester; where the world refuses it, that is a violation (R8). -/
def Hub.allows (h : Hub) (g : Glob) (who : Requester) (off : Nat) : Bool := match h.accessAt g who off with
  | .ok _ _ _ => true
  | _ => false

/-- A write of 1 to GLB_FLT_CTL.FORCE_SAFE. -/
def execForceSafe (who : Requester) (s : State) : Host.Outcome State Fault Refusal := reached who (fun s =>
    if s.hub.allows s.glob who Reg.GLB_FLT_CTL then nextGlob s (enterSafe 7 (s.glob, s.hub))
    else nextHub s (s.hub.tryWrite s.glob who Reg.GLB_FLT_CTL id)) s

/-! ## Isolation (R22 to R25, Table 1.6) -/

/-- The chip cause of the isolation of a block; 0 where it stays at region level. -/
def Block.chipCause : Block → Nat
  | .mem | .memA | .memB | .qos | .sramBank _ => 4
  | .tim | .pwr | .clk | .sec | .crn | .fwu | .pmu | .dbg | .glb => 5
  | .hif | .cmt => 6
  | _ => 0

/-- The staged set writes a block (R78). -/
def Hub.setWrites (h : Hub) (b : Block) : Bool :=
  h.commit.stagedWrites.any (fun w => Block.ofOffset w.off == some b) || h.commit.stagedTables.any (fun t => tableBlock t.id == some b)

/-- A block serves a descriptor in flight (R23, R61). -/
def Block.serves (b : Block) (d : Desc) : Bool :=
  match b with
  | .cal => d.opcode == 0x30 || d.opcode == 0x31 || d.opcode == 0x32
  | .crn => d.opcode == 0x40 || d.opcode == 0x41
  | .fwu => d.opcode == 0x50 || d.opcode == 0x51 || d.opcode == 0x52
  | .cmt => d.opcode ≤ 0x04
  | .mem | .memA | .memB | .qos => d.opcode == 0x10 || d.opcode == 0x30 || d.opcode == 0x31
  | .tim => d.opcode == 0x60 || d.opcode == 0x61
  | .sdl => d.opcode == 0x90
  | _ => false

/-- The work that a block served ends with it. -/
def Hub.endServed (h : Hub) (g : Glob) (b : Block) : Hub :=
  match b with
  | .nsh n => h.dropFrames g n Status.aborted
  | .col => h.colIsolated g
  | _ => h.cutWhere g Status.aborted b.serves

/-- A region fault manager isolates a block: its fences, its snapshot, ISO_EVT, and what the isolation ends; then the chip, where Table 1.6 says so. -/
def isolate (b : Block) (gh : Glob × Hub) : Glob × Hub :=
  let h := gh.2
  let h1 := if (Block.ofUnit b.unit).isSome then h.trigger gh.1 b.unit 1 0 else h
  let h2 := { h1 with power := { h1.power with
    isolated := if h.isolatedBlock b then h1.power.isolated else b :: h1.power.isolated
    reported := h1.power.reported.filter (· != b), isoEvt := h1.power.isoEvt ||| 2 ^ b.region } }
  let h3 := if h2.setInFlight && h2.setWrites b then h2.cancelCommit gh.1 else h2
  let h4 := h3.endServed gh.1 b
  if b.chipCause = 0 then (gh.1, h4) else enterSafe b.chipCause (gh.1, h4)

def execIsolation (b : Block) (s : State) : Host.Outcome State Fault Refusal :=
  if s.hub.power.reported.contains b then nextGlob s (isolate b (s.glob, s.hub)) else .next s

/-- The isolation of a block that reported a fault is not complete within 2 µs. -/
def execIsolationTimeout (b : Block) (s : State) : Host.Outcome State Fault Refusal :=
  if s.hub.power.reported.contains b then nextGlob s (enterSafe 3 (s.glob, s.hub)) else .next s

/-- A block returns to service (R24). -/
def Hub.restoreBlock (h : Hub) (b : Block) : Hub :=
  { h with power := { h.power with isolated := h.power.isolated.filter (· != b), reported := h.power.reported.filter (· != b) } }

/-! ## Mesh links (R21, Table 1.6a) -/

/-- The region of the receiver that a counter counts for. -/
def linkRegion (x : Nat) : Nat := [1, 0, 3, 1, 7, 3, 5, 6, 2, 5, 4, 2, 6, 0, 5, 1, 2, 3, 4, 7].getD x 0

/-- A flit fails its CRC check: it is replayed, and counted; at its fourth failure the link error goes to the receiving region, whose fault manager
isolates a block that the manual does not name. -/
def Hub.flitError (h : Hub) (g : Glob) (x : Nat) (again : Bool) (b : Block) : Hub :=
  if 20 ≤ x then h else
  let k := if again then Sparse.get 0 h.power.flitTries x + 1 else 1
  if k < 4 then { h with power := { h.power with flitTries := Sparse.set 0 h.power.flitTries x k } }.count (Reg.GLB_LNK_RPLx x) 32
  else
    let h1 := { h with power := { h.power with flitTries := Sparse.set 0 h.power.flitTries x 0 } }
    if b.region = linkRegion x then h1.blockFault g b else h1

def execFlitCrcError (x : Nat) (again : Bool) (b : Block) (s : State) : Host.Outcome State Fault Refusal :=
  nextHub s (s.hub.flitError s.glob x again b)

/-- The 20 replay counters cleared. -/
def Hub.linkClear (h : Hub) : Hub := (List.range 20).foldl (fun h x => h.wr (Reg.GLB_LNK_RPLx x) 0) h

def execGlbLnkClr (who : Requester) (s : State) : Host.Outcome State Fault Refusal := reached who (fun s =>
    nextHub s (s.hub.tryWrite s.glob who Reg.GLB_LNK_CLR Hub.linkClear)) s

/-! ## The root clock (R34, R462) -/

/-- The root PLL loses lock: CCLK runs on the bypass, the bases stop, and the hub enters the safe state. -/
def Hub.lockLost (h : Hub) (ref : Bool) : Hub :=
  { h with power := { h.power with
      rootLock := false, bypass := true, refFailed := h.power.refFailed || ref
      losses := if h.power.rootLock then satInc 8 h.power.losses else h.power.losses } }

def execRootPllLockLost (s : State) : Host.Outcome State Fault Refusal :=
  nextGlob s (enterSafe 1 (s.glob, s.hub.lockLost false))

def execRefclkFailure (s : State) : Host.Outcome State Fault Refusal :=
  nextGlob s (enterSafe 1 (s.glob, s.hub.lockLost true))

end Sys2Proof.Machine
end

