-- ==== Sys2Proof/Machine/Abort.lean ====
section
/-! DEFINITION. ABORT of every kind, from the descriptor to its completion (spec/02_host_interface.md, R58 to R61, Table 2.6; R80, R131, R208, R312,
R340, R358). -/

namespace Sys2Proof.Machine

/-! ## Targets -/

/-- The number of targets of a kind. -/
def abortCount (kind : Nat) : Nat := [24, 64, 8, 32, 32, 32, 2].getD kind 0

/-- The unit of a target, for its snapshot. -/
def abortUnit (kind i : Nat) : Nat :=
  match kind with
  | 0 => 0x40 + i
  | 1 => 0x74
  | 2 => 0x72
  | 3 => i
  | 4 => 0x20 + i
  | 5 => 0x70
  | _ => 0x68 + i

/-- The block in which a target lies. -/
def abortLies (kind i : Nat) : Block :=
  match kind with
  | 0 => .spr i
  | 1 => .hif
  | 2 => .col
  | 3 => .scn i
  | 4 => .nsh i
  | 5 => .ing
  | _ => .odl i

/-- A target is a whole block, which any ABORT of it resets (R24, R80); of the others only the escalation resets the block in which they lie. -/
def abortIsBlock (kind : Nat) : Bool := kind == 0 || kind == 3 || kind == 4 || kind == 6

/-- The ABORT in flight on a target. -/
def Hub.abortOn (h : Hub) (kind i : Nat) : Option AbortOp := h.rings.aborts.find? (fun a => a.kind == kind && a.index == i)

/-- The ABORTs in flight with that of a target replaced, or ended. -/
def Hub.setAbort (h : Hub) (kind i : Nat) (a : Option AbortOp) : Hub :=
  { h with rings := { h.rings with aborts := h.rings.aborts.filter (fun x => !(x.kind == kind && x.index == i)) ++ a.toList } }

/-- The result of an ABORT (Table 2.4). -/
def abortResult (escalated : Bool) (ended units : Nat) : List Byte :=
  leBytes 1 (b2n escalated) ++ zeros 3 ++ leBytes 4 ended ++ leBytes 4 units

/-- An ABORT completes, and those that joined it right after it (R60). -/
def Hub.abortDone (h : Hub) (g : Glob) (a : AbortOp) (status : Nat) (escalated : Bool) (units : Nat) : Hub :=
  (h.setAbort a.kind a.index none).completeAll g a.descs status (abortResult escalated a.ended units)

/-- The snapshot of an aborted unit, when its ABT is 1 (Table 17.5). -/
def Hub.abortSnapshot (h : Hub) (g : Glob) (kind i tag : Nat) : Hub :=
  if h.bit (Reg.CRN_UNITu_CTL (abortUnit kind i)) 5 then h.trigger g (abortUnit kind i) 4 (tag % 2 ^ 32) else h

/-! ## The effects of quiescing and of a block reset (Table 2.6) -/

/-- The TILE_SENDs that a port holds. -/
def Hub.portSends (h : Hub) (n : Nat) : Nat :=
  if h.near n = n then
    (((h.port n).q1 ++ (h.port n).q3 ++ (h.port n).sends).filter (fun f => match f.owner with
      | .tileSend _ _ => true
      | _ => false)).length
  else 0

/-- The transmit queues of a port are flushed, its hold records cleared (R230), and what waits for an acknowledgement ends ABORTED. In the safe state its link
stays as it is (R26), so that no link goes down (R239). -/
def Hub.portFlush (h : Hub) (g : Glob) (n : Nat) : Hub :=
  let h1 := h.raiseIf ((h.port n).phase.carries && !g.safe) g n 2
  (if h.near n = n then h1.dropFrames g n Status.aborted else h1).modPort n (fun p => { p with
    q0 := [], q2 := [], q2More := [], holds := [], heldSaid := 0 })

/-- An aborted port retrains when it is enabled; in the safe state its lane sends IDLE blocks (R26, R237). -/
def Hub.portRetrain (h : Hub) (g : Glob) (n : Nat) : Hub :=
  if g.safe then (if h.bit (Reg.NSHn_CTL n) 0 then h.laneIdles n else h)
  else if h.bit (Reg.NSHn_CTL n) 0 then h.retrain n (.training true) else h.retrain n .off

/-- An aborted MAC resumes on its schedule (R312); on a STANDBY it holds STATE 3 (R313); in the safe state it stays halted (R26). -/
def Hub.radioRestart (h : Hub) (g : Glob) (r : Nat) : Hub :=
  if (h.odl r).phase = .off || g.safe then h
  else if h.saddle.role = .standby || h.saddle.role = .syncing then (h.odlResume r).modOdl r (fun x => { x with phase := .standby })
  else h.odlResume r

/-- The fetched descriptors of a ring, but for the ABORTs in `keep`, end; the unfetched ones up to the tail as it stood at the ABORT's fetch are
skipped without completion (Table 2.6, R60). The hub after it, and how many descriptors ended. -/
def Hub.ringEnd (h : Hub) (g : Glob) (i tail : Nat) (keep : List (Nat × Nat)) : Hub × Nat :=
  let size := h.ringSize (Reg.SQn_CTL i)
  let q := h.sq i
  let others (h : Hub) : List Desc := (h.sq i).inflight.filter (fun d => !keep.contains (i, d.tag))
  let h1 := h.setSq i { q with fenced := false, head := if ringDist size q.head tail ≤ ringDist size q.head q.tail then tail else q.head }
  let h2 := (others h).foldl (fun h d => h.cutDesc g i Status.aborted d) h1
  (h2, (others h).length - (others h2).length)

/-- What quiescing does to a target that must be fenced for it, and the items or descriptors that it ends. -/
def abortFence (g : Glob) (a : AbortOp) (h : Hub) : Hub × Nat :=
  let i := a.index
  match a.kind with
  | 0 => (if (h.eng i).phase = .off || (h.eng i).phase = .failed || (h.eng i).phase = .loading then h.endWork g i else h.haltEngine g i,
      h.engineItems i)
  | 1 => h.ringEnd g i a.tail a.descs
  | 2 => h.abortLevel g i
  | 3 => (h.setPipe i { h.pipe i with stopped := true }, 0)
  | 4 => ((h.portFlush g i).modPort i (fun p => { p with phase := if g.safe then p.phase else .off }), h.portSends i)
  | 5 => (h.flowStop g i, 0)
  | 6 => (h.modOdl i (fun x => { x with phase := if x.phase = .off then .off else .halted, plan := none }), 0)
  | _ => (h, 0)

/-- The reset of a target, after which it is in service again, and the items that it ends. A ring, a Col level and a flow lose no more by the reset of their
block after an escalation than by the fence before it: its registers hold the applied configuration, and no rule gives the block reset of HIF, COL or ING
another effect (R80; DEDUCED, log entry 19). -/
def abortReset (g : Glob) (kind i : Nat) (hm : Hub × Memory) : (Hub × Memory) × Nat :=
  match kind with
  | 0 => (restartEngine g i hm, hm.1.engineItems i)
  | 3 => (((hm.1.setPipe i { hm.1.pipe i with stopped := true }).calForce i, hm.2), 0)
  | 4 => (((hm.1.portFlush g i).portRetrain g i, hm.2), hm.1.portSends i)
  | 6 => ((hm.1.radioRestart g i, hm.2), 0)
  | _ => (hm, 0)

/-- What an ABORT does to a target that quiesces: all of its effect, but that the calibration of a pipe comes into force once it has quiesced
(R80, R208). -/
def abortQuiesce (g : Glob) (a : AbortOp) (hm : Hub × Memory) : (Hub × Memory) × Nat :=
  if a.kind = 0 || a.kind = 4 || a.kind = 6 then abortReset g a.kind a.index hm
  else (((abortFence g a hm.1).1, hm.2), (abortFence g a hm.1).2)

/-! ## The descriptor -/

/-- Col has reported a fault and is isolated: it returns to service only through a reset of the hub (R24, R360). -/
def Hub.colLost (h : Hub) : Bool := h.power.reported.contains .col && h.isolatedBlock .col

/-- ABORT of a kind. `hung` says that the target will not answer the quiesce request (R58). An isolated block is
reset at once, and a second ABORT of a target joins the first (R60). A stalled flow has nothing to quiesce (R131). -/
def abortOf (s : State) (q tag kind : Nat) (hung : Bool) : State :=
  match s.hub.fetched q tag 0x70 with
  | none => s
  | some d =>
    let i := d.op 18 2
    if d.op 16 1 ≠ kind then s
    else if abortCount kind ≤ i then { s with hub := s.hub.complete s.glob q tag Status.invalid [] }
    else if !s.hub.blockOn (abortLies kind i) then { s with hub := s.hub.complete s.glob q tag Status.notPresent [] }
    else if kind = 2 && s.hub.colLost then { s with hub := s.hub.complete s.glob q tag Status.aborted [] }
    else match s.hub.abortOn kind i with
      | some a => { s with hub := (s.hub.await q tag []).setAbort kind i (some { a with descs := a.descs ++ [(q, tag)] }) }
      | none =>
        let h := (s.hub.abortSnapshot s.glob kind i tag).await q tag []
        let a : AbortOp := { kind := kind, index := i, phase := .quiescing false, ended := 0, descs := [(q, tag)], tail := d.words.headD 0
                             atOnce := kind == 5 && (s.hub.flow i).stalled }
        if abortIsBlock kind && s.hub.isolatedBlock (abortLies kind i) then
          { s with hub := h.setAbort kind i (some { a with phase := .resetting false }) }
        else if hung && !a.atOnce then { s with hub := h.setAbort kind i (some { a with phase := .quiescing true }) }
        else
          let r := abortQuiesce s.glob a (h, s.mem)
          { s with mem := r.1.2, hub := r.1.1.setAbort kind i (some { a with ended := r.2 }) }

/-- ABORT KIND 0. `errs` are the errors that a reload of the engine's data section meets. -/
def execAbortEngine (q tag : Nat) (hung : Bool) (errs : List (Nat × ReadError)) (s : State) : Host.Outcome State Fault Refusal :=
  .next (abortOf (s.reads errs) q tag 0 hung)

def execAbortPipe (q tag : Nat) (hung : Bool) (s : State) : Host.Outcome State Fault Refusal := .next (abortOf s q tag 3 hung)

def execAbortPort (q tag : Nat) (hung : Bool) (s : State) : Host.Outcome State Fault Refusal := .next (abortOf s q tag 4 hung)

def execAbortFlow (q tag : Nat) (hung : Bool) (s : State) : Host.Outcome State Fault Refusal := .next (abortOf s q tag 5 hung)

def execAbortRadio (q tag : Nat) (hung : Bool) (s : State) : Host.Outcome State Fault Refusal := .next (abortOf s q tag 6 hung)

/-- ABORT KIND 1. Ring `i` lies in HIF (R58, Table 2.6). -/
def execAbortRing (q tag : Nat) (hung : Bool) (s : State) : Host.Outcome State Fault Refusal := .next (abortOf s q tag 1 hung)

/-- ABORT KIND 2 (R58, R358). -/
def execAbortColLevel (q tag : Nat) (hung : Bool) (s : State) : Host.Outcome State Fault Refusal := .next (abortOf s q tag 2 hung)

/-! ## What follows -/

/-- A target has quiesced, `units` of 0.1 µs after the request: the ABORT completes with OK and ESCALATED 0. -/
def Hub.targetQuiesced (h : Hub) (g : Glob) (kind i units : Nat) : Hub :=
  match h.abortOn kind i with
  | none => h
  | some a =>
    if a.phase ≠ .quiescing false || (if a.atOnce then 0 else 240) < units then h
    else (if kind = 3 then h.calForce i else h).abortDone g a Status.ok false units

def execTargetQuiesced (kind index units : Nat) (s : State) : Host.Outcome State Fault Refusal :=
  nextHub s (s.hub.targetQuiesced s.glob kind index units)

/-- 24 µs have passed without an answer: the hub fences the block of the target, and its block reset begins (R58, R80). The fence is not the isolation of
R78, which cancels a pending set that writes the block (DESIGN CHOICE, log entry 19: no rule says whether it is). -/
def Hub.abortEscalation (h : Hub) (g : Glob) (kind i : Nat) : Hub :=
  match h.abortOn kind i with
  | none => h
  | some a =>
    if a.phase ≠ .quiescing true then h
    else
      let h1 := (abortFence g a h).1
      let h2 := if !h1.isolatedBlock (abortLies kind i) then
          { h1 with power := { h1.power with isolated := abortLies kind i :: h1.power.isolated } } else h1
      h2.setAbort kind i (some { a with phase := .resetting true, ended := (abortFence g a h).2 })

def execAbortEscalation (kind index : Nat) (s : State) : Host.Outcome State Fault Refusal :=
  nextHub s (s.hub.abortEscalation s.glob kind index)

/-- A block reset completes, `units` of 0.1 µs after the request or, for an isolated block, after the reset began; the block is in service again. -/
def blockResetDoneOf (s : State) (kind i units : Nat) : State :=
  match s.hub.abortOn kind i with
  | none => s
  | some a =>
    match a.phase with
    | .quiescing _ => s
    | .resetting esc =>
      if (if esc then 1240 else 1000) < units then s
      else
        let r := abortReset s.glob kind i (if kind = 2 && s.hub.colLost then s.hub else s.hub.restoreBlock (abortLies kind i), s.mem)
        { s with mem := r.1.2, hub := r.1.1.abortDone s.glob (if esc then a else { a with ended := r.2 }) Status.ok esc units }

def execBlockResetDone (kind index units : Nat) (errs : List (Nat × ReadError)) (s : State) : Host.Outcome State Fault Refusal :=
  .next (blockResetDoneOf (s.reads errs) kind index units)

/-- A block reset does not complete within 100 µs: TIMEOUT, the block stays isolated, and the fault passes up. ESCALATED is 1 where the reset followed an
escalation and 0 where the block was isolated already (DESIGN CHOICE, log entry 19: R58 does not state it for TIMEOUT). -/
def execBlockResetTimeout (kind index : Nat) (s : State) : Host.Outcome State Fault Refusal :=
  match s.hub.abortOn kind index with
  | none => .next s
  | some a =>
    match a.phase with
    | .quiescing _ => .next s
    | .resetting esc =>
      nextGlob s
        (let gh := if esc then isolate (abortLies kind index) (s.glob, s.hub) else (s.glob, s.hub)
         (gh.1, gh.2.abortDone gh.1 a Status.timeout esc (if esc then 1240 else 1000)))

end Sys2Proof.Machine
end

