-- ==== Sys2Proof/Machine/Cairn.lean ====
section
/-! DEFINITION. The Cairn logs: writing, triggering, reading and clearing them (spec/17_security_cairn.md, R410 to R417). -/

namespace Sys2Proof.Machine

/-! ## Writing (R412, R413) -/

/-- A snapshot may be written: none was in the last 1 µs. -/
def Hub.snapDue (h : Hub) : Bool := h.cairn.snapAt.all (fun t => decide (t + 400 ≤ h.clock))

/-- The recorder writes the oldest waiting snapshot. -/
def Hub.writeSnapshot (h : Hub) : Hub :=
  match h.cairn.snapQ with
  | [] => h
  | e :: rest => if h.snapDue then { h with cairn := { h.cairn.appendSnap e with snapQ := rest, snapAt := some h.clock } } else h

def execSnapshotWrite (s : State) : Host.Outcome State Fault Refusal := nextHub s s.hub.writeSnapshot

def execRecordWrite (s : State) : Host.Outcome State Fault Refusal := nextHub s (s.hub.writeRecord s.glob)

/-! ## CRN_TRIG (R412, R475) -/

/-- A write of CRN_TRIG: a snapshot of the unit, or a violation where a non-secure requester names a unit of the secure world. A number that is no
unit takes none. -/
def Hub.crnTrig (h : Hub) (g : Glob) (who : Requester) (unit : Nat) : Hub :=
  if h.unitSecure unit && !h.requesterSecure g who then h.violation g 3 Reg.CRN_TRIG true who.unit
  else if (Block.ofUnit unit).isSome then h.trigger g unit 6 0 else h

def execCrnTrig (who : Requester) (unit : Nat) (s : State) : Host.Outcome State Fault Refusal := reached who (fun s =>
    nextHub s (s.hub.tryWrite s.glob who Reg.CRN_TRIG (fun h => h.crnTrig s.glob who (unit % 65536)))) s

/-! ## Clearing (R415 to R417) -/

/-- A new nonce: a free value (R417). -/
def Hub.newNonce (h : Hub) : Hub := ((h.wrN Reg.CRN_NONCE_LO (h.freeAt 0 % 2 ^ 32)).wrN Reg.CRN_NONCE_HI (h.freeAt 1 % 2 ^ 32)).drew 2

/-- The log without the entries that a clear removes: a clear of the record log keeps its CLEARED records. -/
def Cairn.cleared (c : Cairn) (log : Nat) : Cairn :=
  if log = 0 then { c with snaps := [] } else { c with recs := c.recs.filter (fun r => r.code == 0x0701) }

/-- The SEQ of the entries that a clear removes, oldest first. -/
def Cairn.removed (c : Cairn) (log : Nat) : List Nat :=
  if log = 0 then c.snaps.map (·.seq) else (c.recs.filter (fun r => r.code != 0x0701)).map (·.seq)

/-- A clear of a log takes effect: its entries go, and a CLEARED record takes the next SEQ. Where no entry was removed, the manual does not say
what P2 holds: a free value. -/
def Hub.clearLog (h : Hub) (g : Glob) (log unit : Nat) (token : Bool) : Hub :=
  let gone := h.cairn.removed log
  let rec0 : Record := { code := 0x0701, source := unit, seq := 0, seconds := h.nowSec, nanos := h.nowNs, p0 := log, p1 := b2n token,
                         p2 := gone.getLast?.getD (h.freeAt 2 % 2 ^ 32), p3 := gone.length }
  let h1 := h.newNonce.drew 1
  let bits := if unit = 0x74 then h.crnClrBits else h.crnClrBits ||| 2 ^ log
  ({ h1 with cairn := { (h.cairn.cleared log).appendRec rec0 with clearing := some (h.clock / 2, bits) } }).raise g 92 (0x0701 + h.cairn.recHead % 65536 * 65536)

/-- A write of CRN_CLR: SE0 to SE3 clear the logs whose bits are 1 (R415). While a clear runs, it starts none (R417). -/
def Hub.crnClr (h : Hub) (g : Glob) (who : Requester) (snap rec : Bool) : Hub :=
  match who with
  | .engine e =>
    if e < 4 && !h.clearRuns then
      let h1 := if snap then h.clearLog g 0 (0x40 + e) false else h
      if rec then h1.clearLog g 1 (0x40 + e) false else h1
    else h
  | _ => h

def execCrnClrSnap (who : Requester) (s : State) : Host.Outcome State Fault Refusal := reached who (fun s =>
    nextHub s (s.hub.tryWrite s.glob who Reg.CRN_CLR (fun h => h.crnClr s.glob who true false))) s

def execCrnClrRec (who : Requester) (s : State) : Host.Outcome State Fault Refusal := reached who (fun s =>
    nextHub s (s.hub.tryWrite s.glob who Reg.CRN_CLR (fun h => h.crnClr s.glob who false true))) s

/-- Why a clear token is not good (R416), in the order of the checks; 0 where it is. -/
def Hub.tokenReason (h : Hub) (g : Glob) (log : Nat) (t : List Byte) : Nat :=
  if g.otp.logKeyHash = 0 || ofBe (sha384 ((t.drop 32).take 96)) != g.otp.logKeyHash then 1
  else if !ecdsaVerify ((t.drop 32).take 96) ((t.drop 128).take 96) (t.take 128) then 2
  else if leAt t 8 8 != g.otp.uid || leAt t 16 8 != h.n Reg.CRN_NONCE_LO + h.n Reg.CRN_NONCE_HI * 2 ^ 32 then 3
  else if byteAt t 4 != log then 4
  else 0

/-- LOG_CLEAR; `token` is what lies at TOKEN_ADDR. A non-secure one with TOKEN_ADDR 0 and a TOKEN_LEN other than 224 completes with INVALID, before
DENIED is judged, and BUSY comes after both (DESIGN CHOICE, log entry 23: R53, R415 and R417 give no order). -/
def Hub.logClear (h : Hub) (g : Glob) (q tag : Nat) (token : List Byte) : Hub :=
  h.servedBy g .crn q tag 0x41 fun d =>
    let log := d.op 16 1
    if 1 < log then h.complete g q tag Status.invalid []
    else if d.secure then (if h.clearRuns then h.complete g q tag Status.busy [] else (h.clearLog g log 0x74 false).complete g q tag Status.ok [])
    else if d.op 32 4 != 224 then h.complete g q tag Status.invalid []
    else if d.op 24 8 = 0 then h.complete g q tag Status.denied []
    else if h.clearRuns then h.complete g q tag Status.busy []
    else
      let why := h.tokenReason g log (padTo 224 token)
      if why = 0 then (h.clearLog g log 0x74 true).complete g q tag Status.ok []
      else (h.record g 0x0204 0x74 log why 0 0).complete g q tag Status.denied []

def execLogClear (q tag : Nat) (token : List Byte) (s : State) : Host.Outcome State Fault Refusal :=
  nextHub s (s.hub.logClear s.glob q tag token)

/-! ## Reading (R414) -/

/-- A snapshot entry as 128 bytes (Table 17.5); `hide` gives its values as zero. -/
def Snapshot.bytes (e : Snapshot) (hide : Bool) : List Byte :=
  leBytes 4 e.seq ++ leBytes 4 e.seconds ++ leBytes 4 e.nanos ++ leBytes 2 e.unit ++ leBytes 1 e.trigger ++
    leBytes 1 (e.vals.length % 32 + 32 * b2n e.off + 64 * b2n e.secure) ++ leBytes 8 e.aux ++ leBytes 4 e.epoch ++ zeros 4 ++
    padTo 32 ((e.vals.map (fun v => leBytes 2 v.1)).flatten) ++ padTo 64 ((e.vals.map (fun v => leBytes 4 (if hide then 0 else v.2))).flatten)

/-- A record as 32 bytes (Table 17.6). -/
def Record.bytes (r : Record) : List Byte :=
  leBytes 2 r.code ++ leBytes 2 r.source ++ leBytes 4 r.seq ++ leBytes 4 r.seconds ++ leBytes 4 r.nanos ++ leBytes 4 r.p0 ++ leBytes 4 r.p1 ++
    leBytes 4 r.p2 ++ leBytes 4 r.p3

/-- A SEQ is at or after another, modulo 2^32. -/
def seqAtOrAfter (seq first : Nat) : Bool := decide ((seq + 2 ^ 32 - first % 2 ^ 32) % 2 ^ 32 < 2 ^ 31)

/-- The entries that a LOG_READ returns, each as bytes. -/
def Cairn.read (c : Cairn) (log first count : Nat) (secure : Bool) : List (List Byte) :=
  if log = 0 then ((c.snaps.dropWhile (fun e => !seqAtOrAfter e.seq first)).take count).map (fun e => e.bytes (e.secure && !secure))
  else ((c.recs.dropWhile (fun e => !seqAtOrAfter e.seq first)).take count).map Record.bytes

/-- Line `k` of the data as a read from SRAM gives it: a codeword that the decoder takes for good though it is wrong has other bytes (R151). -/
def missedLine (data : List Byte) (k : Nat) (err : LineErr) : List Byte :=
  err.missed.foldl (fun d w => (d.take (32 * k + 2 * w.codeword)) ++ ((leBytes 2 w.data.toNat).take (d.length - (32 * k + 2 * w.codeword))) ++
    d.drop (32 * k + 2 * w.codeword + 2)) data

/-- The lines of shared SRAM that a LOG_READ reads, in the order of its data. -/
def Cairn.linesRead (c : Cairn) (log first count : Nat) : List Nat :=
  if log = 0 then
    (((c.snaps.dropWhile (fun e => !seqAtOrAfter e.seq first)).take count).map (fun e => (List.range 4).map (logLine 0 e.seq))).flatten
  else ((c.recs.dropWhile (fun e => !seqAtOrAfter e.seq first)).take count).map (fun e => logLine 1 e.seq 0)

/-- LOG_READ. `lines` are the errors that its reads of shared SRAM meet, by the number of the line: what corrects is counted, and the 64-byte blocks
with a double error are delivered as zero, and counted (R52, R151);
the count stands in bytes 16 to 19, in place of the entries returned (DESIGN CHOICE, log entry 23: R52 does not say where). -/
def logReadOf (s : State) (q tag : Nat) (lines : List (Nat × LineErr)) : State :=
  match s.hub.fetched q tag 0x40 with
  | none => s
  | some d =>
    let log := d.op 16 1
    let count := d.op 24 4
    if !s.hub.serving .crn then { s with hub := s.hub.complete s.glob q tag Status.aborted [] }
    else if 1 < log || count = 0 || (if log = 0 then 8192 else 4096) < count then { s with hub := s.hub.complete s.glob q tag Status.invalid [] }
    else
      let es := s.hub.cairn.read log (d.op 20 4) count d.secure
      let r0 := logsWritten (s.hub, s.mem)
      let at_ := s.hub.cairn.linesRead log (d.op 20 4) count
      let met := ((List.range at_.length).zip at_).filter (fun l => lines.any (fun e => e.1 == l.2) || r0.2.sramBroken l.2)
      let err (l : Nat × Nat) : LineErr := ((lines.find? (fun e => e.1 == l.2)).map (·.2)).getD { cells := [] }
      let data := met.foldl (fun d l => missedLine d l.1 (err l)) es.flatten
      let r := met.foldl (fun hm l => readLine s.glob false .sram l.2 (err l) hm) r0
      let hit := ((met.filter (fun l => r.2.sramBroken l.2)).map (·.1 / 2)).eraseDups
      { s with
        mem := r.2
        hub := if hit.isEmpty then r.1.move q tag Status.ok (leBytes 4 es.length) [d.op 32 8] data
          else r.1.move q tag Status.uncorrectable (leBytes 4 hit.length) [d.op 32 8] (zeroBlocks hit data) }

def execLogRead (q tag : Nat) (lines : List (Nat × LineErr)) (s : State) : Host.Outcome State Fault Refusal := .next (logReadOf s q tag lines)

end Sys2Proof.Machine
end

