-- ==== Sys2Proof/Machine/Digest.lean ====
section
/-! DEFINITION. The digest of the applied configuration (R83). -/

namespace Sys2Proof.Machine

/-- The offsets of every instance of a register. -/
def RegDesc.offsets (d : RegDesc) : List Nat :=
  ((List.range d.count1).map (fun i => (List.range d.count2).map (fun j => d.base + i * d.stride1 + j * d.stride2))).flatten

/-- The registers of class S and D, as offset and RW fields, in ascending order of offset. -/
def digestRegs : List (Nat × Nat) :=
  ((((Reg.all.filter (fun d => d.cls == .s || d.cls == .d)).map (fun d => d.offsets.map (fun o => (o, d.rw)))).flatten).mergeSort
    (fun a b => decide (a.1 ≤ b.1)))

/-- The two parts over which the digest is taken: the registers, then the tables present. -/
def Hub.digestInput (h : Hub) : List Byte :=
  (digestRegs.map (fun r => leBytes 4 (h.n r.1 &&& r.2))).flatten ++
    (((h.commit.inForce.filter (fun t => !t.bytes.isEmpty)).mergeSort (fun a b => decide (a.id ≤ b.id))).map
      (fun t => leBytes 4 t.id ++ leBytes 4 t.bytes.length ++ t.bytes)).flatten

/-- The digest: the first 8 bytes of SHA-256. -/
def Hub.digestNow (h : Hub) : List Byte := (sha256 h.digestInput).take 8

/-- CMT_DIGEST set. -/
def Hub.setDigest (h : Hub) : Hub := { h with commit := { h.commit with digest := h.digestNow } }

end Sys2Proof.Machine
end

