-- ==== Sys2Proof/Machine/Sacn.lean ====
section
/-! DEFINITION. sACN reception: sources, merging, synchronisation and publication (spec/05_ingest.md, sACN reception). -/

namespace Sys2Proof.Machine

/-- The entry of the universe table (Table 5.4), its number, and whether it is enabled. -/
def utEntry (b : List Byte) (u : Nat) : List Byte := (b.drop (128 * u)).take 128
def utOn (b : List Byte) (u : Nat) : Bool := bitOf (byteAt (utEntry b u) 2) 0
def utNumber (b : List Byte) (u : Nat) : Nat := leAt (utEntry b u) 0 2
def utHtp (b : List Byte) (u s : Nat) : Bool := bitOf (byteAt (utEntry b u) (64 + s / 8)) (s % 8)

/-- The index of a universe in the table. -/
def Hub.univIndex (h : Hub) (number : Nat) : Option Nat :=
  (List.range 8192).find? (fun u => utOn (h.table tblUniverse) u && utNumber (h.table tblUniverse) u == number)

/-- Event of the sACN receiver (R139). -/
def Hub.sacnEvent (h : Hub) (g : Glob) (ev u : Nat) : Hub := h.raise g 105 (ev + u * 65536)

/-- The receiver takes packets of a sub-port. -/
def Hub.sacnOn (h : Hub) (g : Glob) (n s : Nat) : Bool :=
  h.bit Reg.ING_SACN_CTL 0 && h.bit Reg.ING_SACN_CTL (4 + 4 * n + s) && h.netUp n s && h.serving .ing && !g.safe

/-- The merge of a universe (R136). With no source left the merged values hold. -/
def Universe.merge (x : Universe) (tbl : List Byte) (u : Nat) : Universe :=
  if x.sources.isEmpty then x
  else
    let top := (x.sources.map (·.prio)).foldl max 0
    let srcs := x.sources.filter (fun s => s.prio == top)
    let newest := srcs.foldl (fun (a : Nat × List Byte) s => if a.1 ≤ s.last then (s.last, s.values) else a) (0, [])
    { x with merged := (List.range 512).map (fun i =>
        if utHtp tbl u i then BitVec.ofNat 8 ((srcs.map (fun s => byteAt s.values i)).foldl max 0)
        else BitVec.ofNat 8 (byteAt newest.2 i)) }

/-- A universe published into the merged image as a whole (R138, Table 11.1). -/
def publish (g : Glob) (hm : Hub × Memory) (u : Nat) : Hub × Memory :=
  let h := hm.1
  let area := h.addr36 Reg.FIX_AREA_LO Reg.FIX_AREA_HI 12
  (h.ingLooks g hm.2 (area + 512 * u) 512, h.writeDram hm.2 h.ingSecure (area + 512 * u) (padTo 512 (h.univ u).merged) false)

/-- A packet whose sequence number R135 discards. -/
def sacnOld (last seq : Nat) : Bool := let d := signed 8 (seq + 256 - last % 256); decide (-19 ≤ d ∧ d ≤ 0)

/-- A data packet of a universe of the table: a new source is admitted or refused, an old number is discarded, and an accepted packet updates its
source, or ends it (R134, R135). One that ends a source which is not tracked, and would have a place, has no effect (DESIGN CHOICE, log entry 27). The
answer says whether it was accepted. -/
def Hub.sacnSource (h : Hub) (g : Glob) (u cid prio seq : Nat) (terminated : Bool) (values : List Byte) : Hub × Bool :=
  let x := h.univ u
  match x.sources.find? (fun s => s.cid == cid) with
  | some s =>
    if sacnOld s.seq seq then (h.count Reg.ING_SACN_SEQ 31, false)
    else if terminated then
      (((h.setUniv u { x with sources := x.sources.filter (fun t => t.cid != cid) }).count Reg.ING_SACN_ACC 31).sacnEvent g 2 u, true)
    else
      let n : SacnSource := { cid := cid, prio := prio, seq := seq % 256, values := padTo 512 values, last := h.net.arrivals + 1 }
      let h1 := h.setUniv u { x with sources := x.sources.map (fun t => if t.cid = cid then n else t) }
      (({ h1 with net := { h1.net with arrivals := h1.net.arrivals + 1 } }).count Reg.ING_SACN_ACC 31, true)
  | none =>
    if x.sources.length < 4 && h.sourcesUsed < 16384 then
      if terminated then (h, false) else
      let n : SacnSource := { cid := cid, prio := prio, seq := seq % 256, values := padTo 512 values, last := h.net.arrivals + 1 }
      let h1 := h.setUniv u { x with sources := x.sources ++ [n], refused := x.refused.filter (· != cid) }
      ((({ h1 with net := { h1.net with arrivals := h1.net.arrivals + 1 } }).count Reg.ING_SACN_ACC 31).sacnEvent g 1 u, true)
    else
      let h1 := h.count Reg.ING_SACN_POOL 31
      (if x.refused.contains cid then h1 else (h1.setUniv u { x with refused := cid :: x.refused }).sacnEvent g 3 u, false)

/-- A packet enters the input queue of 4,096. The receiver takes it in the order of arrival; its effect is modelled here, and the place that it holds
is given up as the queue drains (DESIGN CHOICE, log entry 27). -/
def Hub.sacnEnter (h : Hub) : Hub := { h with net := { h.net with sacnIn := h.net.sacnIn + 1 } }
def Hub.sacnFull (h : Hub) : Bool := decide (4096 ≤ h.net.sacnIn)

/-- The input queue drains in one PCLK cycle by a free amount, and by at least one packet in every microsecond (R132). -/
def Hub.sacnDrain (h : Hub) : Hub :=
  if h.net.sacnIn = 0 then h
  else
    let k := max (h.freeAt 0 % (h.net.sacnIn + 1)) (if h.clock % 400 = 0 then 1 else 0)
    { h with net := { h.net with sacnIn := h.net.sacnIn - k } }.drew 1

/-- A packet for the sACN port (R132 to R137). -/
def sacnPacketOf (s : State) (n sub : Nat) (p : SacnPkt) : State :=
  let h := s.hub.sacnEnter
  if !s.hub.sacnOn s.glob n sub then s
  else if s.hub.sacnFull then { s with hub := s.hub.count Reg.ING_SACN_OVR 31 }
  else match p with
    | .discovery => { s with hub := h.count Reg.ING_SACN_IGN 31 }
    | .data cid number prio seq startCode sync preview terminated values =>
      match h.univIndex number with
      | none => { s with hub := h.count Reg.ING_SACN_IGN 31 }
      | some u =>
        if startCode ≠ 0 || preview || 200 < prio then { s with hub := h.count Reg.ING_SACN_IGN 31 }
        else
          let r := h.sacnSource s.glob u cid prio seq terminated values
          if !r.2 then { s with hub := r.1 }
          else
            let h1 := r.1.modUniv u (fun x => x.merge (h.table tblUniverse) u)
            if sync ≠ 0 then
              { s with hub := h1.modUniv u (fun x => { x with waiting := if x.waiting.contains sync then x.waiting else sync :: x.waiting }) }
            else if (h1.univ u).sources.isEmpty then { s with hub := h1 }
            else
              let q := publish s.glob (h1, s.mem) u
              { s with hub := q.1, mem := q.2 }

/-- `errs` and `lines` are the errors that the reads of the universe table, in DRAM, and of the source pool, in banks 12 to 15, meet; a universe table that reads
poisoned is a fault of ING (R149). -/
def execSacnPacket (n sub : Nat) (p : SacnPkt) (errs : List (Nat × ReadError)) (lines : List (Nat × LineErr)) (s : State) : Host.Outcome State Fault Refusal := wokenWhen (Hub.netHears n) 3 (fun s =>
    let t := (s.reads errs).ownLines .ing 12 4 lines
    .next (sacnPacketOf (if t.hub.sacnOn s.glob n sub then
      { t with hub := if t.hub.tableSpoilt t.mem tblUniverse then t.hub.blockFault s.glob .ing
        else t.hub.tableLook s.glob tblUniverse 0 (t.hub.table tblUniverse).length } else t) n sub p)) s

/-- The universes that wait on a synchronisation address. -/
def Hub.waitingOn (h : Hub) (addr : Nat) : List Nat := (h.net.univs.filter (fun e => e.2.waiting.contains addr)).map (·.1)

/-- Every universe that waits on an address is published, and waits no more (R137). -/
def publishWaiting (g : Glob) (addr : Nat) (hm : Hub × Memory) : Hub × Memory :=
  (hm.1.waitingOn addr).foldl (fun hm u =>
    publish g (hm.1.modUniv u (fun x => { x with waiting := x.waiting.filter (· != addr) }), hm.2) u) hm

/-- A synchronisation packet, which is accepted, or finds the input queue full (R132). -/
def sacnSyncOf (s : State) (n sub addr : Nat) : State :=
  if !s.hub.sacnOn s.glob n sub then s
  else if s.hub.sacnFull then { s with hub := s.hub.count Reg.ING_SACN_OVR 31 }
  else
    let h := s.hub.sacnEnter.count Reg.ING_SACN_ACC 31
    let r := publishWaiting s.glob addr (h, s.mem)
    { s with hub := r.1, mem := r.2 }

def execSacnSyncPacket (n sub addr : Nat) (s : State) : Host.Outcome State Fault Refusal := wokenWhen (Hub.netHears n) 3 (fun s =>
    .next (sacnSyncOf s n sub addr)) s

/-- A tracked source has been silent for SRC_TO × 100 ms: it leaves, and event 0x02 is raised (R134). -/
def Hub.sacnSourceTimeout (h : Hub) (g : Glob) (u cid : Nat) : Hub :=
  if (h.univ u).sources.any (fun s => s.cid == cid) && !g.safe then
    (h.modUniv u (fun x => { x with sources := x.sources.filter (fun s => s.cid != cid) })).sacnEvent g 2 u
  else h

def execSacnSourceTimeout (u cid : Nat) (s : State) : Host.Outcome State Fault Refusal := nextHub s (s.hub.sacnSourceTimeout s.glob u cid)

/-- No synchronisation packet came within SRC_TO × 100 ms: the universes that wait are published, each with event 0x04 (R137). -/
def sacnSyncTimeoutOf (s : State) (addr : Nat) : State :=
  if s.glob.safe || !s.hub.serving .ing then s
  else
    let h := s.hub
    let us := h.waitingOn addr
    let r := publishWaiting s.glob addr (h, s.mem)
    { s with hub := us.foldl (fun h u => h.sacnEvent s.glob 4 u) r.1, mem := r.2 }

def execSacnSyncTimeout (addr : Nat) (s : State) : Host.Outcome State Fault Refusal := .next (sacnSyncTimeoutOf s addr)

/-- The universes after a commit: an entry that names another universe, or none, keeps no source; joins and leaves follow the table (R116). -/
def Hub.sacnApply (h old : Hub) : Hub :=
  let tn := h.table tblUniverse
  let to_ := old.table tblUniverse
  let on (h : Hub) (b : List Byte) (u : Nat) : Bool := h.bit Reg.ING_SACN_CTL 0 && utOn b u
  let subs (h : Hub) : List Nat := (List.range 16).filter (fun i => h.bit Reg.ING_SACN_CTL (4 + i) && h.hasSub (i / 4) (i % 4))
  let kept (i : Nat) : Bool := (subs h).contains i && (subs old).contains i && h.netMode (i / 4) == old.netMode (i / 4)
  let addr (b : List Byte) (u : Nat) : Nat := 239 * 2 ^ 24 + 255 * 2 ^ 16 + utNumber b u
  if tn == to_ && h.n Reg.ING_SACN_CTL == old.n Reg.ING_SACN_CTL && (List.range 4).all (fun n => h.netMode n == old.netMode n) then h
  else
    (List.range (max tn.length to_.length / 128)).foldl (fun h1 u =>
      let same := on h tn u == on old to_ u && utNumber tn u == utNumber to_ u
      let h2 := if same then h1 else h1.setUniv u {}
      let gone := if on old to_ u then (subs old).filter (fun i => !(same && kept i)) else []
      let come := if on h tn u then (subs h).filter (fun i => !(same && kept i)) else []
      let h3 := gone.foldl (fun h i => h.netFirm (i / 4) (i % 4) (.igmp (addr to_ u) false)) h2
      come.foldl (fun h i => h.netFirm (i / 4) (i % 4) (.igmp (addr tn u) true)) h3) h

end Sys2Proof.Machine
end

