-- ==== Sys2Proof/Machine/Fixture.lean ====
section
/-! DEFINITION. The fade engine: patch, fades, cues, merging and output (spec/11_fixtures.md). -/

namespace Sys2Proof.Machine

def Hub.setFix (h : Hub) (x : Fix) : Hub := { h with fix := x }

/-! ## Fades (R276, R278) -/

/-- Progress in units of 2^-32, and the curve. -/
def fadeP (elapsed time : Nat) : Nat := if time = 0 then 2 ^ 32 else min (2 ^ 32) (elapsed * 2 ^ 32 / (time * 1000000 * 65536))
def fadeC (curve : Bool) (p : Nat) : Nat := if curve then (3 * p * p * 2 ^ 32 - 2 * p * p * p) / 2 ^ 64 else p

/-- The value of a fade at a time of its clock. -/
def Fade.value (f : Fade) (e : Nat) : Nat :=
  let p := fadeP ((e + 2 ^ 64 - f.start) % 2 ^ 64) f.time
  if p = 2 ^ 32 then f.target
  else ((f.origin : Int) + (2 * ((f.target : Int) - (f.origin : Int)) * (fadeC f.curve p : Int) + 2 ^ 32) / 2 ^ 33).toNat

/-- A fade has reached its end. -/
def Fade.over (f : Fade) (e : Nat) : Bool := fadeP ((e + 2 ^ 64 - f.start) % 2 ^ 64) f.time == 2 ^ 32

/-- The record of a fade in the fade table (Table 11.1). -/
def Hub.fadeAddr (h : Hub) (slot : Nat) : Nat := h.fixArea + 0x2000000 + 16 * slot

/-- A fade is written to its record: its layout is not given, and each byte is a free value. -/
def writeFade (g : Glob) (slot : Nat) (hm : Hub × Memory) : Hub × Memory :=
  ((hm.1.drew 16).fixLooks g hm.2 true (hm.1.fadeAddr slot) 16, hm.1.writeDram hm.2 hm.1.fixSecure (hm.1.fadeAddr slot) ((List.range 16).map (fun k => BitVec.ofNat 8 (hm.1.freeAt k))) false)

/-- The lowest record that no fade holds (DESIGN CHOICE, log entry 32). -/
def Hub.fadeSlot (h : Hub) : Nat :=
  ((List.range (h.fix.fades.length + 1)).find? (fun k => !h.fix.fades.any (fun f => f.slot == k))).getD 0

/-- The parameters whose fade record reads poisoned. -/
def Hub.badFades (h : Hub) (m : Memory) : List Nat :=
  (h.fix.fades.filter (fun f => (h.readDram m h.fixSecure (h.fadeAddr f.slot) 16).poison)).map (·.par)

/-- A layer value written: a read-modify-write of its line, whose read finds the line's double errors (R151). -/
def writeLayer (g : Glob) (par v : Nat) (hm : Hub × Memory) : Hub × Memory :=
  (hm.1.sramReadErrors g hm.2 (2 * par) 2, hm.2.writeSram (2 * par) (leBytes 2 v))

/-- The fades of the group advance: each writes its layer value, and those that are over end. A fade whose record reads poisoned ends (R281). -/
def tickFades (g : Glob) (pg e : Nat) (bad : List Nat) (hm : Hub × Memory) : Hub × Memory :=
  let b := hm.1.patch
  let mine := hm.1.fix.fades.filter (fun f => parGroup b f.par == pg)
  let r := (mine.filter (fun f => !bad.contains f.par)).foldl (fun hm f => writeLayer g f.par (f.value e) hm) hm
  (r.1.setFix { r.1.fix with fades := r.1.fix.fades.filter (fun f =>
    !(parGroup b f.par == pg && (f.over e || bad.contains f.par))) }, r.2)

/-! ## Cues (R277, R278) -/

/-- The list of a cue, and record `k` of it: nothing where the record is skipped. -/
def Hub.cueAddr (h : Hub) (c : Nat) : Nat := h.addr36 (Reg.FIX_CUEc_LO c) (Reg.FIX_CUEc_HI c) 4
def Hub.cueCount (h : Hub) (c : Nat) : Nat := h.f (Reg.FIX_CUEc_CNT c) 17 0
def Hub.cueGroup (h : Hub) (c : Nat) : Nat := h.f (Reg.FIX_CUEc_CNT c) 20 18

/-- A cue record that may be taken: parameter, target, time and curve. -/
def Hub.cueRecord (h : Hub) (m : Memory) (pg c k : Nat) : Option (Nat × Nat × Nat × Bool) :=
  let r := h.readDram m h.fixSecure (h.cueAddr c + 16 * k) 16
  let id := leAt r.bytes 0 4
  let key := fieldOf id 16 0 * 64 + fieldOf id 22 17
  if r.poison || fieldOf id 31 25 != 0 || 2 ≤ fieldOf id 24 23 || leAt r.bytes 8 8 != 0 || !parMapped h.patch key ||
      parGroup h.patch key != pg then none
  else some (key, leAt r.bytes 4 2, leAt r.bytes 6 2, fieldOf id 24 23 == 1)

/-- One cue read: the records taken, later ones of a parameter in place of earlier ones, with its events and the violations of the read. -/
def Hub.readCue (h : Hub) (g : Glob) (m : Memory) (pg : Nat) (acc : Sparse (Option (Nat × Nat × Bool))) (c : Nat) :
    Hub × Sparse (Option (Nat × Nat × Bool)) :=
  let rs := (List.range (h.cueCount c)).map (h.cueRecord m pg c)
  let ok := rs.filterMap id
  let skipped := rs.length - ok.length
  let h1 := ((h.fixLooks g m false (h.cueAddr c) (16 * h.cueCount c)).countBy Reg.FIX_CNT_SKIP 31 skipped).raise g 108 (1 + c * 256 + min ok.length 65535 * 65536)
  (h1.raiseIf (skipped != 0) g 108 (2 + c * 256), ok.foldl (fun a r => Sparse.set none a r.1 (some r.2)) acc)

/-- The start of one fade, or, for TIME 0, the new layer value. A fade whose parameter reads poisoned starts from a free value (DESIGN CHOICE, log entry 32: R276
starts it from the layer value, and R281 does not speak of a start). -/
def startFade (g : Glob) (e : Nat) (hm : Hub × Memory) (r : Nat × Option (Nat × Nat × Bool)) : Hub × Memory :=
  match r.2 with
  | none => hm
  | some (target, time, curve) =>
    let h := hm.1
    let rest := h.fix.fades.filter (fun f => f.par != r.1)
    let h1 := h.setFix { h.fix with fades := rest }
    if time = 0 then writeLayer g r.1 target (h1, hm.2)
    else
      let k := h1.fadeSlot
      let lost := Memory.lineBad hm.2.sramBad (2 * r.1) 2
      let h2 := h1.sramReadErrors g hm.2 (2 * r.1) 2
      let origin := if lost then h2.freeAt 0 % 65536 else hm.2.sramLe (2 * r.1) 2
      writeFade g k ((if lost then h2.drew 1 else h2).setFix { h2.fix with fades := rest ++
        [{ par := r.1, slot := k, start := e, origin := origin, target := target, time := time, curve := curve }] }, hm.2)

/-- The cues of the group that were started begin their fades. -/
def tickCues (g : Glob) (pg e : Nat) (hm : Hub × Memory) : Hub × Memory :=
  let cs := (List.range 8).filter (fun c => hm.1.fix.cues.contains c && hm.1.cueGroup c == pg)
  let r := cs.foldl (fun (a : Hub × Sparse (Option (Nat × Nat × Bool))) c => a.1.readCue g hm.2 pg a.2 c) (hm.1, [])
  let h1 := r.1.setFix { r.1.fix with cues := r.1.fix.cues.filter (fun c => !cs.contains c) }
  r.2.foldl (startFade g e) (h1, hm.2)

/-- GO of a cue (R277). -/
def Hub.cueGo (h : Hub) (c : Nat) : Hub := h.setFix { h.fix with cues := if h.fix.cues.contains c then h.fix.cues else h.fix.cues ++ [c] }

/-! ## Merge (R273, R275, R281) -/

/-- Where the merged image holds an sACN input, its previous value, and the LTP owner bit (1: the sACN input is the latest). -/
def Hub.imageAddr (h : Hub) (key : Nat) : Nat :=
  h.fixArea + 512 * fxUniv (fxRec h.patch (key / 64)) + fxSacn (fxRec h.patch (key / 64)) + parSacn (parOf h.patch key) - 1
def Hub.prevAddr (h : Hub) (key : Nat) : Nat := h.fixArea + 0x1000000 + 2 * key
def Hub.ownerAddr (h : Hub) (key : Nat) : Nat := h.fixArea + 0xC00000 + key / 8

/-- A 16-bit value from slot bytes, and the slot bytes of a value (R273). -/
def slotsToValue (w : Nat) (bs : List Byte) : Nat := if w = 1 then byteAt bs 0 * 257 else byteAt bs 0 * 256 + byteAt bs 1
def valueToSlots (w v : Nat) : List Byte := if w = 1 then leBytes 1 (v / 256) else leBytes 1 (v / 256) ++ leBytes 1 v

/-- A merged parameter: the state after its reads, and the bytes of its slots. -/
structure Merged where
  hub   : Hub
  mem   : Memory
  bytes : List Byte

/-- The poisoned reads of a parameter are counted, with event 0x01 once per tick. -/
def Hub.fixPoison (h : Hub) (g : Glob) (fx : Nat) : Hub :=
  let h1 := h.count Reg.FIX_CNT_POISON 31
  if h.fix.poisonSaid then h1 else (h1.setFix { h1.fix with poisonSaid := true }).raise g 110 (1 + fx * 256)

/-- The violations of the reads that merging a parameter makes in the fixture area. -/
def Hub.parLooks (h : Hub) (g : Glob) (m : Memory) (key : Nat) : Hub :=
  if !parFrom (parOf h.patch key) then h
  else (((h.fixLooks g m false (h.imageAddr key) (parWidth (parOf h.patch key))).fixLooks g m false (h.prevAddr key) 2).fixLooks g m false
    (h.ownerAddr key) 1)

/-- A parameter that a patch newly maps has had its first tick. -/
def Hub.notFresh (h : Hub) (key : Nat) : Hub :=
  if h.fix.fresh.contains key then h.setFix { h.fix with fresh := h.fix.fresh.filter (· != key) } else h

/-- The owner byte of a parameter with its bit set or cleared is written. -/
def Hub.ownerWritten (h : Hub) (m : Memory) (key : Nat) (own : Nat) (owned : Bool) : Memory :=
  h.writeDram m h.fixSecure (h.ownerAddr key) (leBytes 1 (putField own (key % 8) (key % 8) (b2n owned))) false

/-- One parameter merged (R275): its layer value, or with an sACN input the larger (HTP) or the latest (LTP). A poisoned read makes it keep the
value of the output shadow, and its input counts as unchanged: what could be read of this tick is what the next compares with, and a change of the layer makes the
layer the latest (R281). An input that cannot be read at a parameter's first tick leaves that tick to come. `bad` lists the parameters whose fade record reads poisoned, and `running` those under a fade at this tick. -/
def mergePar (g : Glob) (bad running : List Nat) (key : Nat) (hm : Hub × Memory) : Merged :=
  let h := hm.1.parLooks g hm.2 key
  let m := hm.2
  let b := h.patch
  let e := parOf b key
  let w := parWidth e
  let from_ := parFrom e
  let fresh := h.fix.fresh.contains key
  let layer := m.sramLe (2 * key) 2
  let layerBad := Memory.lineBad m.sramBad (2 * key) 2
  let hasIn := utOn (h.table tblUniverse) (fxUniv (fxRec b (key / 64)))
  let img := h.readDram m h.fixSecure (h.imageAddr key) w
  let prev := h.readDram m h.fixSecure (h.prevAddr key) 2
  let own := h.readDram m h.fixSecure (h.ownerAddr key) 1
  let prevIn := if fresh then 0 else ofLe prev.bytes
  let input := if hasIn then slotsToValue w img.bytes else prevIn
  let poisoned := layerBad || bad.contains key || (from_ && ((hasIn && img.poison) || (!fresh && prev.poison) || (!parHtp e && own.poison)))
  if poisoned then
    let sh := h.readDram m h.fixSecure (h.shadowAddr (fxOutput (fxRec b (key / 64))) + parSlot b key - 1) w
    let h1 := (h.fixLooks g m false (h.shadowAddr (fxOutput (fxRec b (key / 64))) + parSlot b key - 1) w).fixPoison g (key / 64)
    let seen := from_ && !(hasIn && img.poison) && !(!hasIn && !fresh && prev.poison)
    let latest := from_ && (fresh || running.contains key || (!layerBad && Sparse.get 0 h.fix.prev key != layer))
    let h2 := if seen then h1.fixLooks g m true (h.prevAddr key) 2 else h1
    let h3 := if latest then h2.fixLooks g m true (h.ownerAddr key) 1 else h2
    let h4 := if from_ && !seen then h3 else h3.notFresh key
    let m1 := if seen then h.writeDram m h.fixSecure (h.prevAddr key) (leBytes 2 input) false else m
    { hub := if layerBad then h4 else h4.setFix { h4.fix with prev := Sparse.set 0 h4.fix.prev key layer }
      mem := if latest then h.ownerWritten m1 key (ofLe own.bytes) false else m1
      bytes := if sh.poison then valueToSlots w (if layerBad then 0 else layer) else sh.bytes }
  else if !from_ then
    { hub := (h.setFix { h.fix with prev := Sparse.set 0 h.fix.prev key layer }).notFresh key, mem := m, bytes := valueToSlots w layer }
  else
    let layerChg := running.contains key || (!fresh && Sparse.get 0 h.fix.prev key != layer)
    let inChg := hasIn && !fresh && input != prevIn
    let owned := if fresh || layerChg then false else inChg || bitOf (ofLe own.bytes) (key % 8)
    let v := if parHtp e then max input layer else if owned then input else layer
    let m1 := h.writeDram m h.fixSecure (h.prevAddr key) (leBytes 2 input) false
    let h1 := (h.fixLooks g m true (h.prevAddr key) 2).fixLooks g m true (h.ownerAddr key) 1
    { hub := (h1.setFix { h1.fix with prev := Sparse.set 0 h1.fix.prev key layer }).notFresh key
      mem := h.ownerWritten m1 key (ofLe own.bytes) owned
      bytes := valueToSlots w v }

/-- The values that a tick gives to slots: output × 512 + slot − 1 and byte. -/
abbrev SlotVals := List (Nat × Byte)

/-- Every parameter of one fixture merged, its four lines read once (R269). -/
def mergeFixture (g : Glob) (bad running : List Nat) (acc : Hub × Memory × SlotVals) (f : Nat) : Hub × Memory × SlotVals :=
  let h := acc.1.sramReadErrors g acc.2.1 (128 * f) 128
  let o := fxOutput (fxRec h.patch f)
  (fxPars h.patch f).foldl (fun a key =>
    let r := mergePar g bad running key (a.1, a.2.1)
    let at_ := 512 * o + parSlot h.patch key - 1
    (r.hub, r.mem, a.2.2 ++ (List.range r.bytes.length).map (fun i => (at_ + i, r.bytes.getD i 0)))) (h, acc.2.1, acc.2.2)

/-! ## Output (R282 to R284, R308) -/

/-- The slots of an output that belong to a parameter of any enabled fixture, each with that parameter. -/
def outOwned (b : List Byte) (o : Nat) : List (Nat × Nat) :=
  (((fxEnabled b).filter (fun f => fxOutput (fxRec b f) == o)).map (fun f =>
    ((fxPars b f).map (fun k => (List.range (parWidth (parOf b k))).map (fun i => (parSlot b k + i, k)))).flatten)).flatten

/-- The span of a FIX payload: first slot and count. -/
def fixSpan (pay : List Byte) : Nat × Nat := (leAt pay 20 2, leAt pay 22 2)

/-- A FIX of an output that has not started. -/
def fixWaiting (o : Nat) (f : QFrame) : Bool := f.owner == .fix o && !f.sent && f.tries == 0

/-- The value of a slot (from 0) that an earlier tick has given and that has not been sent: of a held FIX, or of what a MAC still has to send (R283, R308). -/
def Hub.unsentSlot (h : Hub) (o i : Nat) : Option Byte :=
  let r := outRec h.patch o
  if outRoute r = 1 then
    let x := h.odl (outPort r)
    let k := Sparse.get (0, 0) x.marks o
    if (k.1 ≠ 0 && decide (k.1 ≤ i + 1 ∧ i + 1 ≤ k.2)) || x.wholes.contains o then (Sparse.get (0, []) x.latest o).2[i]? else none
  else match h.fix.held.find? (fun e => fixWaiting o e.2) with
    | none => none
    | some e =>
      let sp := fixSpan e.2.payload
      if sp.1 ≤ i + 1 && i + 1 < sp.1 + sp.2 then e.2.payload[24 + (i + 1 - sp.1)]? else none

/-- The merged values of an output: what the tick gave; for a slot of another group's fixture, what that group's tick gave and has not been sent, else the shadow,
or, where that reads poisoned, the value that merging its parameter gives now (R281; DEDUCED, log entry 32); 0 for a slot of no parameter. -/
def Hub.outValues (h : Hub) (g : Glob) (m : Memory) (bad running : List Nat) (vals : SlotVals) (o : Nat) : List Byte :=
  let owned := outOwned h.patch o
  (List.range (outSlots (outRec h.patch o))).map (fun i =>
    match vals.find? (fun e => e.1 == 512 * o + i), owned.find? (fun e => e.1 == i + 1) with
    | some e, _ => e.2
    | none, some (_, k) =>
      let r := h.readDram m h.fixSecure (h.shadowAddr o + i) 1
      match h.unsentSlot o i with
      | some v => v
      | none => if r.poison then (mergePar g bad running k (h, m)).bytes.getD (i + 1 - parSlot h.patch k) 0 else r.bytes.headD 0
    | none, none => 0)

/-- The first and last slots of an output that differ from its shadow; every slot of a poisoned block counts as differing. -/
def Hub.outDiff (h : Hub) (m : Memory) (o : Nat) (vals : List Byte) : Option (Nat × Nat) :=
  let ds := (List.range vals.length).filter (fun i =>
    let r := h.readDram m h.fixSecure (h.shadowAddr o + i) 1
    r.poison || r.bytes.headD 0 != vals.getD i 0)
  match ds with
  | [] => none
  | d :: _ => some (d + 1, ds.getLastD d + 1)

/-- An output is to be sent whole: something asked for it, or its refresh is due (R282), which a ROUTE 1 output whose whole mark still waits does not
await again (R308). -/
def Hub.outWhole (h : Hub) (o : Nat) : Bool :=
  let r := outRec h.patch o
  h.fix.dirty.contains o || (!(outRoute r == 1 && (h.odl (outPort r)).wholes.contains o) &&
    decide (Sparse.get 0 h.fix.whole o + h.f Reg.FIX_CTL 15 8 * 40000000 ≤ h.clock))

/-- The FIX payload (Table 11.4). -/
def Hub.fixPayload (h : Hub) (pg o first count : Nat) (vals : List Byte) : List Byte :=
  let G := h.group pg
  [1] ++ leBytes 1 (outOut (outRec h.patch o)) ++ leBytes 1 pg ++ [0] ++ leBytes 4 G.frame ++ leBytes 6 (secOf G.next) ++ leBytes 4 (nsOf G.next) ++
    leBytes 2 (fracOf G.next) ++ leBytes 2 first ++ leBytes 2 count ++ padTo count (vals.drop (first - 1))

/-- The union of a span with that of a waiting frame. -/
def spanUnion (a b : Nat × Nat) : Nat × Nat :=
  let first := min a.1 b.1
  (first, max (a.1 + a.2) (b.1 + b.2) - first)

/-- The union within the slots that the output has. -/
def Hub.spanIn (h : Hub) (o : Nat) (a b : Nat × Nat) : Nat × Nat :=
  let u := spanUnion a b
  (u.1, min u.2 (outSlots (outRec h.patch o) + 1 - u.1))

/-- A newer FIX replaces a waiting one in its place, and covers both spans (R283). -/
def Hub.fixReplace (h : Hub) (pg o : Nat) (sp : Nat × Nat) (vals : List Byte) (f : QFrame) : QFrame :=
  let u := h.spanIn o sp (fixSpan f.payload)
  { f with payload := h.fixPayload pg o u.1 u.2 vals, pt := some (h.groupTb pg, (h.group pg).next), dest := outNode (outRec h.patch o) }

/-- A superseded FIX is counted, with event 0x01 once per tick. -/
def Hub.fixSuper (h : Hub) (g : Glob) (j : Nat) : Hub :=
  let h1 := h.count Reg.FIX_CNT_SUPER 31
  if h.fix.superSaid then h1 else (h1.setFix { h1.fix with superSaid := true }).raise g 109 (1 + j * 256)

/-- The port of the chain on which a FIX of an output waits in a queue, with the frame. -/
def Hub.fixQueued (h : Hub) (o : Nat) : Option (Nat × QFrame) :=
  (List.range 32).findSome? (fun j => (((h.port j).q1 ++ (h.port j).sends).find? (fixWaiting o)).map (fun f => (j, f)))

/-- A FIX that waits in a queue of a port is taken out of it. -/
def Hub.fixUnqueue (h : Hub) (j o : Nat) : Hub :=
  h.modPort j (fun p => { p with q1 := p.q1.filter (fun f => !fixWaiting o f), sends := p.sends.filter (fun f => !fixWaiting o f) })

/-- A new FIX of an output for port `j`: it is queued, and the shadow takes its values, or it is held while Q1 has no room. -/
def newFix (g : Glob) (pg o j : Nat) (sp : Nat × Nat) (vals : List Byte) (hm : Hub × Memory) : Hub × Memory :=
  let h := hm.1
  let f : QFrame :=
    { type := 8, dest := outNode (outRec h.patch o), payload := h.fixPayload pg o sp.1 sp.2 vals, owner := .fix o
      pt := some (h.groupTb pg, (h.group pg).next) }
  if h.fix.held.any (fun e => e.1 == j) || !h.roomFor j 1 || !(h.port j).sends.isEmpty then
    (h.setFix { h.fix with held := h.fix.held ++ [(j, f)] }, hm.2)
  else shadowTakes g o sp.1 sp.2 vals (h.submit g j f, hm.2)

/-- The newer FIX in the place of one that waits in the queue of its port: in its payload alone, or, where the STANDBY holds a copy of the older one, as a frame with
a number of its own, which is mirrored in its turn, so that no number has two payloads (R285, R370; DEDUCED, log entry 32). -/
def fixInPlace (g : Glob) (pg o j : Nat) (f : QFrame) (sp : Nat × Nat) (vals : List Byte) (hm : Hub × Memory) : Hub × Memory :=
  let h := hm.1
  let u := h.spanIn o sp (fixSpan f.payload)
  if h.mirrors j && (h.port j).q1.any (fixWaiting o) then
    shadowTakes g o u.1 u.2 vals (((h.fixUnqueue j o).fixSuper g j).submit g j { h.fixReplace pg o sp vals f with seq := 0, due := [], todo := [] }, hm.2)
  else
    let change (l : List QFrame) : List QFrame := l.map (fun f => if fixWaiting o f then h.fixReplace pg o sp vals f else f)
    shadowTakes g o u.1 u.2 vals ((h.modPort j (fun p => { p with q1 := change p.q1, sends := change p.sends })).fixSuper g j, hm.2)

/-- The FIX of a ROUTE 0 output (R282, R283): it replaces a waiting one, is queued, or is held while the port's Q1 has no room. The shadow takes the
values when the frame is queued. A waiting frame for the node or the port that a patch has taken the output from gives way to one for its new node. -/
def sendFix (g : Glob) (pg o : Nat) (sp : Nat × Nat) (vals : List Byte) (hm : Hub × Memory) : Hub × Memory :=
  let h := hm.1
  let j := h.near (outPort (outRec h.patch o))
  match h.fixQueued o, h.fix.held.find? (fun e => fixWaiting o e.2) with
  | some (i, f), _ =>
    if i = j && f.dest = outNode (outRec h.patch o) then fixInPlace g pg o j f sp vals hm
    else newFix g pg o j (h.spanIn o sp (fixSpan f.payload)) vals ((h.fixUnqueue i o).fixSuper g j, hm.2)
  | none, some _ =>
    ((h.setFix { h.fix with held := h.fix.held.map (fun e =>
      if fixWaiting o e.2 then (j, h.fixReplace pg o sp vals e.2) else e) }).fixSuper g j, hm.2)
  | none, none => newFix g pg o j sp vals hm

/-- An instant of the group's base in the base of a radio, by the values of both now (R300). -/
def Hub.radioTime (h : Hub) (pg r at48 : Nat) : Nat :=
  if h.groupTb pg = h.odlTb r then at48 else addTime (h.now48 (h.odlTb r)) ((at48 : Int) - (h.now48 (h.groupTb pg) : Int))

/-- A ROUTE 1 output: its values and its group's tick reach its MAC, and its mark covers what differs, or all of it (R284, R308). -/
def markOdl (pg o : Nat) (whole : Bool) (sp : Option (Nat × Nat)) (vals : List Byte) (hm : Hub × Memory) : Hub × Memory :=
  let h := hm.1
  let r := outPort (outRec h.patch o)
  let old := Sparse.get (0, 0) (h.odl r).marks o
  let new := match sp with
    | none => old
    | some (a, b) => if old.1 = 0 then (a, b) else (min old.1 a, max old.2 b)
  (h.modOdl r (fun x => { x with
    latest := Sparse.set (0, []) x.latest o (pg, vals), marks := Sparse.set (0, 0) x.marks o new
    wholes := if whole && !x.wholes.contains o then x.wholes ++ [o] else x.wholes
    ticks := Sparse.set (0, 0) x.ticks pg ((h.group pg).frame, h.radioTime pg r (h.group pg).next) }), hm.2)

/-- One output of the group at its tick. The refresh of a ROUTE 0 output restarts here, when its FIX is queued, and that of a ROUTE 1 output when its
whole mark has been sent. -/
def tickOutput (g : Glob) (pg : Nat) (bad running : List Nat) (vals : SlotVals) (hm : Hub × Memory) (o : Nat) : Hub × Memory :=
  let h := hm.1.fixLooks g hm.2 false (hm.1.shadowAddr o) (outSlots (outRec hm.1.patch o))
  let r := outRec h.patch o
  let v := h.outValues g hm.2 bad running vals o
  let whole := h.outWhole o
  let sp := if whole then some (1, outSlots r) else h.outDiff hm.2 o v
  let h1 := if whole then h.setFix { h.fix with
      whole := if outRoute r = 1 then h.fix.whole else Sparse.set 0 h.fix.whole o h.clock, dirty := h.fix.dirty.filter (· != o) } else h
  if outRoute r = 1 then markOdl pg o whole sp v (h1, hm.2)
  else if !h.serving (.nsh (outPort r)) || !h.originates (h.near (outPort r)) then (h, hm.2)
  else match sp with
    | none => (h1, hm.2)
    | some (a, b) => sendFix g pg o (a, b + 1 - a) v (h1, hm.2)

/-- The outputs that fixtures of the group use, in ascending order. -/
def Hub.groupOutputs (h : Hub) (pg : Nat) : List Nat :=
  let used := ((fxEnabled h.patch).filter (fun f => fxGroup (fxRec h.patch f) == pg)).map (fun f => fxOutput (fxRec h.patch f))
  (List.range (fpOutputs h.patch)).filter used.contains

/-- The outputs of the nodes that have acknowledged a CONFIG are to be sent whole. -/
def Hub.fixAcked (h : Hub) : Hub :=
  let os := (List.range (fpOutputs h.patch)).filter (fun o =>
    let r := outRec h.patch o
    outRoute r == 0 && h.fix.acked.contains (128 * h.near (outPort r) + outNode r))
  h.setFix { h.fix with dirty := h.fix.dirty ++ os.filter (fun o => !h.fix.dirty.contains o), acked := [] }

/-- A tick may occur now (R274). -/
def Hub.tickDue (h : Hub) (g : Glob) (pg : Nat) : Bool :=
  let G := h.group pg
  h.bit Reg.FIX_CTL 0 && h.serving .fix && !g.safe && h.groupOn pg && (G.phase == .running || G.phase == .selfRefresh) &&
    G.frame % h.f (Reg.FIX_PGg_CTL pg) 4 0 == 0 && Sparse.get 0 h.fix.ticked pg != G.frame + 1

/-- A line of the fixture store as the tick reads it: what its error leaves, and the count of a correction. A double error is counted as the line of its
fixture is read. -/
def storeLineRead (g : Glob) (hm : Hub × Memory) (e : Nat × LineErr) : Hub × Memory :=
  let m := hm.2.strikeLine .sram e.1 e.2
  (if e.2.fixed && !m.lineBroken .sram e.1 then
      hm.1.countCorrected g (Reg.SRAM_CNT_CEb (32 * e.1 / 0x200000 % 24)) 44 (32 * e.1 / 0x200000 % 24)
    else hm.1, m)

/-- The tick of a group: clock, fades, cues, merge and output (R274 to R284). A patch or universe table that reads poisoned is a fault of FIX (R149). -/
def fixtureTickOf (s : State) (pg : Nat) : State :=
  let h := s.hub
  if !h.tickDue s.glob pg then s
  else if h.tableSpoilt s.mem tblPatch || h.tableSpoilt s.mem tblUniverse then { s with hub := h.blockFault s.glob .fix }
  else
    let bad := h.badFades s.mem
    let e := (Sparse.get 0 h.fix.clocks pg + h.f (Reg.FIX_PGg_CTL pg) 4 0 * (h.period48 pg / 2 ^ 32)) % 2 ^ 64
    let h1 := (h.setFix { h.fix with
      clocks := Sparse.set 0 h.fix.clocks pg e, ticked := Sparse.set 0 h.fix.ticked pg ((h.group pg).frame + 1)
      lateSaid := false, superSaid := false, poisonSaid := false }).fixAcked.tableLook s.glob tblPatch 0 h.patch.length
    let looked := (h1.fix.fades.filter (fun f => parGroup h.patch f.par == pg)).foldl (fun k f => k.fixLooks s.glob s.mem false (k.fadeAddr f.slot) 16) h1
    let r := tickCues s.glob pg e (tickFades s.glob pg e bad (looked, s.mem))
    let running := (h.fix.fades ++ r.1.fix.fades).map (·.par)
    let fs := (fxEnabled h.patch).filter (fun f => fxGroup (fxRec h.patch f) == pg)
    let a := fs.foldl (mergeFixture s.glob bad running) (r.1, r.2, [])
    let o := (h.groupOutputs pg).foldl (tickOutput s.glob pg bad running a.2.2) (a.1, a.2.1)
    { s with hub := o.1, mem := o.2 }

/-- `errs` and `lines` are the errors that the tick's reads of DRAM and of the store meet. -/
def execFixtureTick (pg : Nat) (errs : List (Nat × ReadError)) (lines : List (Nat × LineErr)) (s : State) : Host.Outcome State Fault Refusal :=
  if !s.hub.tickDue s.glob pg then .next s
  else
    let s1 := s.reads errs
    let r := lines.foldl (storeLineRead s.glob) (s1.hub, s1.mem)
    .next (fixtureTickOf { s1 with hub := r.1, mem := r.2 } pg)

/-- The held FIX frames of a port are queued while its Q1 has room (R283); the shadow takes the values of each as it is queued. -/
def releaseHeld (g : Glob) (j : Nat) : List (Nat × QFrame) → Hub × Memory → (Hub × Memory) × List (Nat × QFrame)
  | [], hm => (hm, [])
  | e :: es, hm =>
    if e.1 = j && hm.1.roomFor j 1 then
      let sp := fixSpan e.2.payload
      let o := match e.2.owner with
        | .fix o => o
        | _ => 0
      releaseHeld g j es (shadowTakes g o sp.1 sp.2 (zeros (sp.1 - 1) ++ e.2.payload.drop 24) (hm.1.submit g j e.2, hm.2))
    else
      let r := releaseHeld g j es hm
      (r.1, e :: r.2)

def fixHeldReleaseOf (s : State) (j : Nat) : State :=
  if s.glob.safe || !s.hub.serving .fix || !s.hub.serving (.nsh j) || !s.hub.originates j then s
  else
    let r := releaseHeld s.glob j s.hub.fix.held (s.hub.setFix { s.hub.fix with held := [] }, s.mem)
    { s with hub := r.1.1.setFix { r.1.1.fix with held := r.2 }, mem := r.1.2 }

/-- `errs` are the errors that the writes of the output shadow meet in blocks that they do not fill. -/
def execFixHeldRelease (n : Nat) (errs : List (Nat × ReadError)) (s : State) : Host.Outcome State Fault Refusal := .next (fixHeldReleaseOf (s.reads errs) n)

/-! ## What an apply does here (R275, R280, R282) -/

/-- What an output depends on in a patch: its record, and the fixtures and profiles on it. -/
def outDepends (b : List Byte) (o : Nat) : List Byte :=
  outRec b o ++ (((fxEnabled b).filter (fun f => fxOutput (fxRec b f) == o)).map (fun f =>
    leBytes 4 f ++ fxRec b f ++ (b.drop (64 + 256 * fxProfile (fxRec b f))).take 256)).flatten

/-- An output that a new patch leaves with the radio and the record that it had. -/
def keepsRadio (b old : List Byte) (r o : Nat) : Bool :=
  decide (o < fpOutputs b) && outRoute (outRec b o) == 1 && outPort (outRec b o) == r && outRec b o == outRec old o

/-- A MAC after a commit with a new patch: marks and values of outputs that it drops, moves or changes go (R308). -/
def Odl.repatched (x : Odl) (b old : List Byte) (r : Nat) : Odl :=
  { x with
    latest := x.latest.filter (fun e => keepsRadio b old r e.1), marks := x.marks.filter (fun e => keepsRadio b old r e.1)
    wholes := x.wholes.filter (keepsRadio b old r) }

/-- The fade engine after a commit with a new patch. -/
def Hub.fixApply (h old : Hub) : Hub :=
  let b := h.patch
  if b == old.patch then h
  else
    let new := ((fxEnabled b).map (fxPars b)).flatten
    let fresh := new.filter (fun k => parFrom (parOf b k) && !(parMapped old.patch k && parFrom (parOf old.patch k)))
    let dirty := (List.range (fpOutputs b)).filter (fun o => outDepends b o != outDepends old.patch o)
    ((h.modOdl 0 (·.repatched b old.patch 0)).modOdl 1 (·.repatched b old.patch 1)).setFix { h.fix with
      fades := h.fix.fades.filter (fun f => parMapped b f.par)
      fresh := fresh ++ h.fix.fresh.filter (fun k => parMapped b k && !fresh.contains k)
      dirty := dirty ++ h.fix.dirty.filter (fun o => !dirty.contains o) }

end Sys2Proof.Machine
end

