-- ==== Sys2Proof/Machine/Operands.lean ====
section
/-! DEFINITION. The operand form of every opcode: which bytes of a descriptor it uses, the ranges that Table 2.4 gives its operands, and where its host
address lies (R48, R49; Tables 2.3, 2.4, 2.6 and 15.2). -/

namespace Sys2Proof.Machine

/-- The operand bytes that an opcode lists, as first byte and number; `none` for an opcode that is not in Table 2.4. -/
def opFields (op : Nat) : Option (List (Nat × Nat)) :=
  match op with
  | 0x01 => some [(16, 4), (24, 8), (32, 8), (40, 4), (44, 4)]
  | 0x02 => some [(16, 3), (20, 4), (24, 12)]
  | 0x03 => some []
  | 0x04 => some [(16, 9), (32, 8)]
  | 0x10 => some [(16, 21)]
  | 0x11 => some [(16, 1), (24, 8)]
  | 0x20 => some [(16, 1), (32, 32)]
  | 0x21 => some [(16, 4)]
  | 0x30 | 0x31 => some [(16, 2), (20, 8), (32, 8)]
  | 0x32 => some [(16, 12)]
  | 0x40 => some [(16, 1), (20, 8), (32, 8)]
  | 0x41 => some [(16, 1), (24, 12)]
  | 0x50 => some [(16, 16)]
  | 0x51 | 0x52 => some []
  | 0x60 => some [(16, 1), (24, 12)]
  | 0x61 => some [(16, 1)]
  | 0x70 => some [(16, 1), (18, 2)]
  | 0x71 => some [(16, 4), (24, 8)]
  | 0x80 => some [(16, 3), (20, 2), (24, 8)]
  | 0x90 => some [(16, 1)]
  | _ => none

/-- The bytes of host addresses of an opcode. -/
def opHostAddrs (op : Nat) : List Nat :=
  match op with
  | 0x01 => [24, 32]
  | 0x04 | 0x30 | 0x31 | 0x40 => [32]
  | 0x10 | 0x32 | 0x50 => [16]
  | 0x41 | 0x71 | 0x80 => [24]
  | _ => []

/-- The targets of an ABORT of each KIND. -/
def abortTargets (kind : Nat) : Nat := [24, 64, 8, 32, 32, 32, 2].getD kind 0

/-- The operands lie within the ranges of Table 2.4. -/
def opRanges (op : Nat) (b : List Byte) : Bool :=
  match op with
  | 0x01 => decide (leAt b 16 4 ≤ 4096)
  | 0x02 => decide (byteAt b 16 ≤ 2 ∧ byteAt b 17 ≤ 1) && (byteAt b 16 != 1 || decide (byteAt b 18 ≤ 3)) &&
      (byteAt b 16 != 2 || decide (byteAt b 18 ≤ 7))
  | 0x04 => decide (1 ≤ leAt b 20 4 ∧ leAt b 20 4 ≤ 65536 ∧ byteAt b 24 ≤ 1)
  | 0x10 => decide (byteAt b 36 ≤ 3)
  | 0x11 => decide (byteAt b 16 ≤ 31)
  | 0x20 => decide (byteAt b 16 ≤ 7)
  | 0x30 | 0x31 => decide (byteAt b 16 ≤ 31 ∧ byteAt b 17 ≤ 1)
  | 0x40 | 0x41 => decide (byteAt b 16 ≤ 1)
  | 0x60 | 0x61 => decide (byteAt b 16 ≤ 3)
  | 0x70 => decide (leAt b 18 2 < abortTargets (byteAt b 16))
  | 0x80 => decide (byteAt b 16 ≤ 31 ∧ (byteAt b 17 ≤ 127 ∨ byteAt b 17 = 255) ∧
      (byteAt b 18 = 4 ∨ byteAt b 18 = 9 ∨ byteAt b 18 = 10) ∧ 1 ≤ leAt b 20 2 ∧ leAt b 20 2 ≤ 8192)
  | 0x90 => decide (byteAt b 16 ≤ 4)
  | _ => true

/-- A byte of the descriptor is listed: in the header, or among the operands. -/
def byteListed (fields : List (Nat × Nat)) (i : Nat) : Bool :=
  decide (i ≤ 1 ∨ (4 ≤ i ∧ i ≤ 9)) || fields.any (fun f => decide (f.1 ≤ i ∧ i < f.1 + f.2))

/-- A descriptor is well formed, but for its EPOCH (R48, R49). -/
def descValid (b : List Byte) : Bool :=
  match opFields (byteAt b 0) with
  | none => false
  | some fields =>
    decide (byteAt b 1 ≤ 3) && (List.range 64).all (fun i => byteListed fields i || byteAt b i == 0) && opRanges (byteAt b 0) b &&
      (opHostAddrs (byteAt b 0)).all (fun a => leAt b a 8 % 4 == 0)

/-- What a SYNCING or STANDBY hub refuses (Table 15.2). A CAL_MEASURE is judged when its sequence has been read. -/
def Hub.pairRefuses (h : Hub) (b : List Byte) : Bool :=
  (h.saddle.role == .syncing || h.saddle.role == .standby) &&
    match byteAt b 0 with
    | 0x02 | 0x03 | 0x60 | 0x61 | 0x20 | 0x21 => true
    | 0x11 | 0x80 => h.chainKind (byteAt b 16) == 1
    | 0x71 => (List.range 32).any (fun n => bitOf (leAt b 16 4) n && h.chainKind n == 1)
    | _ => false

end Sys2Proof.Machine
end

