-- ==== Sys2Proof/Machine/Pair.lean ====
section
/-! DEFINITION. The pair: roles, PAIR_CTRL, the Saddle link, arm records, mirrored frames, state copies, health, promotion and the self-tests of the
STANDBY (spec/15_pairing.md). -/

namespace Sys2Proof.Machine

/-- What only the hub that is STANDBY, or ACTIVE, does with a packet of the other. -/
def Hub.asRole (h : Hub) (r : Role) (k : Hub → Hub) : Hub :=
  if !h.saddleHears then h else if h.saddle.role = r then k h.packetIn else h.packetIn

/-! ## Roles (R362) -/

/-- The MAC of a new ACTIVE sends the next beacon of the schedule, which the state copy brought, with every output dirty and whole (R313). -/
def Hub.odlTakeover (h : Hub) (r : Nat) : Hub :=
  let x := h.odl r
  let bi := odlBi x.ctl * ns48
  let k := ceilDiv (h.now48 (h.odlTb r) + 1 - x.at48) bi
  (h.setOdl r { x.passed k with phase := .starting, idx := x.idx + k, at48 := x.at48 + k * bi, plan := none }).odlAllWhole r

/-- The MACs hold on a SYNCING or STANDBY hub, and run on another. -/
def Hub.roleRadios (h : Hub) (r : Role) : Hub :=
  (List.range 2).foldl (fun h k =>
    if r = .standby || r = .syncing then
      h.modOdl k (fun x => if x.phase = .off then x else { x with phase := .standby, plan := none })
    else if (h.odl k).phase = .standby then h.odlTakeover k else h) h

/-- A role that originates nothing on a chain of kind 1. -/
def Role.follows (r : Role) : Bool := r == .standby || r == .syncing

/-- The arms that software had pending on pipes of chains of kind 1 are never taken into force (R364). -/
def Hub.dropArms (h : Hub) : Hub :=
  (List.range 32).foldl (fun h p =>
    if h.chainKind p = 1 then h.setPipe p { h.pipe p with pend := (h.pipe p).pend.filter (·.source.isSome), fallback := none } else h) h

/-- The descriptors that were fetched before the hub became SYNCING or STANDBY, and have not begun, end as Table 15.2 has them end (R364). -/
def Hub.conflictFetched (h : Hub) (g : Glob) : Hub :=
  (List.range 64).foldl (fun h q => ((h.sq q).inflight.filter (fun d => d.phase == .fetched && h.pairRefuses d.bytes)).foldl (fun h d =>
    h.complete g q d.tag Status.conflict []) h) h

/-- A change of role: source 89, and a ROLE_CHANGE record. -/
def Hub.becomes (h : Hub) (g : Glob) (r : Role) (cause : Nat) : Hub :=
  if h.saddle.role = r then h
  else
    let h0 := (h.modSaddle (fun x => { x with role := r, misses := 0, diffs := 0 })).roleRadios r
    let ha := if r.follows then h0.conflictFetched g else if h.saddle.role.follows then h0.dropArms else h0
    let h1 := (List.range 32).foldl (fun h j => h.leaveOrigin g j) ha
    (h1.raise g 89 (r.code + cause * 256)).record g 0x0401 0x79 r.code cause h.saddle.pHealth h.commit.epoch

/-- A change of role whose cause the manual does not number. -/
def Hub.becomesFree (h : Hub) (g : Glob) (r : Role) : Hub := (h.drew 1).becomes g r (h.freeAt 0 % 256)

/-- A hub becomes ACTIVE beside a partner that will be SYNCING, and owes it a full copy of every class (R363, R374). -/
def Hub.leads (h : Hub) (g : Glob) : Hub :=
  (h.becomes g .active 5).modSaddle (fun x => { x with copied := [], segment := none, dirty := List.range 524288 })

/-- A hub enters SYNCING: it holds nothing of the partner's state yet (R374). -/
def Hub.sync (h : Hub) : Hub := h.modSaddle (fun x => { x with current := false, copied := [], segment := none, recs := [], flight := [], notice := none })

/-! ## Promotion (R376) -/

/-- Every Q1 and Q3 number of a port advances by 256. -/
def Port.jump (p : Port) : Port :=
  (List.range 128).foldl (fun p k => (p.bumpSeq 1 k 256).bumpSeq 3 k 256) ((p.bumpSeq 1 255 256).bumpSeq 3 255 256)

/-- The frames of a queue that were sent and not acknowledged are sent again from the ports of their chain. -/
def resendHeld (ends : List Nat) (l : List QFrame) : List QFrame :=
  l.map (fun f => if f.sent then { f with todo := ends, tries := max f.tries 1 } else f)

/-- The frames that a port sends again, each of which counts as a retry (R250). -/
def Port.heldFrames (p : Port) : Nat := ((p.q1 ++ p.q3).filter (fun f => f.sent && f.owner != .enum)).length

/-- The items that ran on the old ACTIVE, and not on an engine of this hub, return to the head of their levels, in slot order, with DEFERRED set. -/
def Hub.returnItems (h : Hub) : Hub :=
  let runs (i : WorkItem) : Bool := match i.place with
    | .running e => (h.eng e).item != some i.slot
    | _ => false
  h.colItems (fun l =>
    ((l.filter runs).mergeSort (fun a b => decide (a.slot ≤ b.slot))).map (fun i => { i with deferred := true, place := .waiting h.col.fclk }) ++
      l.filter (fun i => !runs i))

/-- A host-posted item of the old ACTIVE completes on the CQ bound to the same SQ number where that SQ is enabled. -/
def Hub.adoptItems (h : Hub) : Hub :=
  h.col.items.foldl (fun h i => match i.owner with
    | none => h
    | some (q, tag) =>
      if !h.bit (Reg.SQn_CTL q) 0 then h.colItems (fun l => l.map (fun x => if x.slot = i.slot then { x with owner := none } else x))
      else if (h.desc q tag).isSome then h
      else
        let d : Desc := { tag := tag, opcode := 0x20, flags := 0, bytes := [], cq := h.f (Reg.SQn_CTL q) 21 16, secure := h.levelSecure i.level,
                          phase := .waiting, status := 0, result := [], words := [], data := [], silent := false }
        h.setSq q { h.sq q with inflight := (h.sq q).inflight ++ [d] }) h

/-- The STANDBY becomes ACTIVE without a handover. A set that it was told of still applies at its instant (R378). -/
def Hub.promote (h : Hub) (g : Glob) (cause : Nat) : Hub :=
  let h1 := (h.becomes g .active cause).count Reg.SDL_CNT_PROMOTE 31
  let h2 := (List.range 32).foldl (fun h n =>
    if h.chainKind n = 1 then
      ((h.modPort n (fun p => { p.jump with q1 := resendHeld (h.ends n) p.q1, q3 := resendHeld (h.ends n) p.q3 })).countBy
        (Reg.NSHn_CNT_RETRY n) 31 (h.port n).heldFrames).pump g n
    else h.modPort n Port.jump) h1
  let h3 := h2.returnItems.adoptItems
  let h4 := (List.range 4).foldl (fun h t => if h.f (Reg.TBt_CTL t) 1 0 = 0 then h else h.sourceLoss g true t) h3
  h4.modSaddle (fun x => { x with isolated := false, flight := [], copied := [], segment := none })

/-! ## State copy (R373, Table 15.3) -/

/-- The class of a copy, and the largest size of each class in bytes. -/
def CopyData.cls : CopyData → Nat
  | .commit .. => 0 | .servo _ => 1 | .fades .. => 2 | .lines _ => 3 | .col .. => 4 | .odelle _ => 5
def copySize (c : Nat) : Nat := [40960, 256, 2097152, 2097152, 196608, 98304].getD c 0

/-- The numbers that a port uses next. -/
def Hub.portSeqs (h : Hub) (n : Nat) : List (Nat × Nat × Nat × Nat) :=
  let p := h.port n
  p.uni1.map (fun e => (n, 1, e.1, e.2)) ++ p.uni3.map (fun e => (n, 3, e.1, e.2)) ++ [(n, 1, 255, p.bc1), (n, 3, 255, p.bc3)]

/-- A line of the fixture store: the first 16 MiB of shared SRAM (Table 6.5). -/
def Memory.storeLine (m : Memory) (k : Nat) : List Byte := Memory.bytesOf m.sram (32 * k) 32

/-- The codewords of a line of the store with a double error: the copy says so of them, so that they read poisoned on both hubs (DESIGN CHOICE, log entry 39). -/
def Memory.brokenWords (m : Memory) (k : Nat) : List Nat := (List.range 16).filter (fun c => Sparse.get false m.sramBad (16 * k + c))

/-- The snapshot of the classes. -/
def Hub.snapshotCopy (h : Hub) (m : Memory) : List CopyData :=
  [.commit h.commit.epoch h.commit.digest ((List.range 32).map h.portSeqs).flatten
      ((List.range 32).map (fun n => (h.port n).holds.map (fun e => (n, e.1, e.2.1, e.2.2 - 250 * h.clock)))).flatten
      ((List.range 32).map (fun n => ((h.port n).tiles.filter (fun e => e.2.resend)).map (fun e => (n, e.1)))).flatten,
    .servo ((List.range 4).map (fun t => (t, (h.base t).state.code, (h.base t).freq, h.holdEstReg t))),
    .fades h.fix.fades h.fix.clocks,
    .lines (h.saddle.dirty.map (fun k => (k, m.storeLine k, m.brokenWords k))),
    .col h.col.items h.col.gens,
    .odelle ((List.range 2).map (fun r => (r, (h.odl r).table, (h.odl r).lease, (h.odl r).idx, (h.odl r).at48)))]

/-- The class has changed since it was last copied. -/
def Hub.copyDue (h : Hub) (c : CopyData) : Bool :=
  match c with
  | .lines l => !l.isEmpty
  | _ => !h.saddle.copied.contains c

/-- The bytes of a class: 32 to a store line; of another class a size within Table 15.3 that is not given. -/
def Hub.classBytes (h : Hub) (c : CopyData) : Nat :=
  match c with
  | .lines l => 32 * l.length
  | _ => h.freeAt 0 % (copySize c.cls + 1)

/-- The last bytes of a class go, and the class stands as copied. -/
def Hub.sendWhole (h : Hub) (c : CopyData) (bytes : Nat) : Hub :=
  (h.saddleSendLong bytes (.stateCopy c)).modSaddle (fun x => { x with
    copyBytes := x.copyBytes + bytes, copied := c :: x.copied.filter (fun y => y.cls != c.cls), segment := none })

/-- A class of which `left` bytes are to go takes what the cycle has left of its 4,194,304 bytes. One that does not end in the cycle shows in DEFER (DESIGN
CHOICE, log entry 39: the rest of it is sent in the next cycle). -/
def Hub.sendSegment (h : Hub) (c : CopyData) (left : Nat) : Hub :=
  let room := 4194304 - h.saddle.copyBytes
  if left ≤ room then h.sendWhole c left
  else (h.saddleSendLong room (.copySegment c.cls room)).modSaddle (fun x => { x with
    copyBytes := x.copyBytes + room, defer := x.defer + 2 ^ c.cls, segment := some (c, left - room) })

/-- A class is sent whole while it fits in the cycle, and deferred whole otherwise; one that no cycle holds goes in segments, and the lines of its snapshot are
then no longer to be copied (R373). -/
def Hub.sendClass (h : Hub) (c : CopyData) : Hub :=
  match h.saddle.segment.filter (fun s => s.1.cls == c.cls) with
  | some (old, left) => h.sendSegment old left
  | none =>
    if !h.copyDue c then h
    else
      let size := h.classBytes c
      let h1 := h.drew 1
      let taken (h : Hub) : Hub := if c.cls = 3 then h.modSaddle (fun x => { x with dirty := [] }) else h
      if h.saddle.copyBytes + size ≤ 4194304 then (taken h1).sendWhole c size
      else if 4194304 < size && h.saddle.segment.isNone then (taken h1).sendSegment c size
      else h1.modSaddle (fun x => { x with defer := x.defer + 2 ^ c.cls })

/-- The copy of one master cycle. -/
def Hub.sendCopy (h : Hub) (g : Glob) (m : Memory) : Hub :=
  if h.saddle.role ≠ .active || !h.saddleHears then h
  else (h.snapshotCopy m).foldl (fun h c => h.sendClass c)
    ((h.saddle.dirty.foldl (fun h k => h.sramReadErrors g m (32 * k) 32) h).modSaddle (fun x => { x with copyBytes := 0, defer := 0 }))

/-- A servo state from its code (Table 4.2). -/
def ServoState.ofCode (c : Nat) : ServoState :=
  match c with
  | 1 => .acquire | 2 => .locked | 3 => .holdover | 4 => .jumpHeld | _ => .free

/-- The numbers, holds and RESEND bits of a kind 1 port taken from the ACTIVE. -/
def Hub.takeCounters (h : Hub) (seqs : List (Nat × Nat × Nat × Nat)) (holds : List (Nat × Nat × Nat × Nat)) (resend : List (Nat × Nat)) (n : Nat) : Hub :=
  if h.chainKind n ≠ 1 then h
  else
    h.modPort n (fun p0 =>
      let p : Port := { p0 with uni1 := [], uni3 := [] }
      let p1 := (seqs.filter (fun e => e.1 == n)).foldl (fun (p : Port) e =>
        let v := e.2.2.2
        if e.2.2.1 = 255 then (if e.2.1 = 3 then { p with bc3 := v } else { p with bc1 := v })
        else if e.2.1 = 3 then { p with uni3 := Sparse.set 0 p.uni3 e.2.2.1 v } else { p with uni1 := Sparse.set 0 p.uni1 e.2.2.1 v }) p
      { p1 with
        holds := (holds.filter (fun e => e.1 == n)).foldl (fun s e => Sparse.set (0, 0) s e.2.1 (e.2.2.1, 250 * h.clock + e.2.2.2)) []
        tiles := (resend.filter (fun e => e.1 == n)).foldl (fun ts e => Sparse.set {} ts e.2 { Sparse.get {} ts e.2 with resend := true })
          (p1.tiles.filterMap (fun e => if { e.2 with resend := false } = ({} : TileRec) then none else some (e.1, { e.2 with resend := false }))) })

/-- This hub's clock of a group is up to two ticks ahead of that of a copy: it has ticked since the snapshot. A hub that enters the pair takes what it is given. -/
def Hub.tickedSince (h : Hub) (clocks : Sparse Nat) (pg : Nat) : Bool :=
  let d := (Sparse.get 0 h.fix.clocks pg + 2 ^ 64 - Sparse.get 0 clocks pg % 2 ^ 64) % 2 ^ 64
  h.saddle.role == .standby && d != 0 && decide (d ≤ 2 * h.f (Reg.FIX_PGg_CTL pg) 4 0 * (h.period48 pg / 2 ^ 32))

/-- E_g of each group after a copy. -/
def Hub.clocksTaken (h : Hub) (clocks : Sparse Nat) : Sparse Nat :=
  (List.range 8).foldl (fun m pg => if h.tickedSince clocks pg then Sparse.set 0 m pg (Sparse.get 0 h.fix.clocks pg) else m) clocks

/-- The fades after a copy. Of a group that has ticked here since, those that began at that tick stay, and those that it has ended stay ended: the two hubs hold the same
fades once both have ticked (R285, R373). -/
def Hub.fadesTaken (h : Hub) (fades : List Fade) (clocks : Sparse Nat) : List Fade :=
  let group (f : Fade) : Nat := parGroup h.patch f.par
  let begun := h.fix.fades.filter (fun f => h.tickedSince clocks (group f) && f.start == Sparse.get 0 h.fix.clocks (group f))
  fades.filter (fun f => !begun.any (fun b => b.par == f.par) && !(h.tickedSince clocks (group f) && f.over (Sparse.get 0 h.fix.clocks (group f)))) ++ begun

/-- A class takes its place. The epoch is taken where the digest agrees. -/
def applyCopy (g : Glob) (c : CopyData) (hm : Hub × Memory) : Hub × Memory :=
  let h := hm.1
  match c with
  | .commit epoch digest seqs holds resend =>
    let h1 := if digest = h.commit.digest then { h with commit := { h.commit with epoch := epoch } } else h
    ((List.range 32).foldl (fun h n => h.takeCounters seqs holds resend n) h1, hm.2)
  | .servo bases =>
    (bases.foldl (fun h b =>
      (h.setBase b.1 { (h.base b.1).runAt h.clock b.2.2.1 with state := ServoState.ofCode b.2.1, e0 := b.2.2.2 * ns48, since := h.clock }).updateQuality g b.1) h,
      hm.2)
  | .fades fades clocks =>
    let new := h.fadesTaken fades clocks
    fades.foldl (fun hm f => writeFade g f.slot hm) (h.setFix { h.fix with fades := new, clocks := h.clocksTaken clocks }, hm.2)
  | .lines lines => (h, lines.foldl (fun m l => (m.writeSram (32 * l.1) (padTo 32 l.2.1)).breakLine .sram l.1 l.2.2) hm.2)
  | .col items gens => ({ h with col := { h.col with items := items, gens := gens } }, hm.2)
  | .odelle radios =>
    (radios.foldl (fun h r => h.modOdl r.1 (fun x => { x with
      table := r.2.1, lease := r.2.2.1, idx := r.2.2.2.1, at48 := r.2.2.2.2 })) h, hm.2)

/-- The packets of a class have come. -/
def Hub.copyIn (h : Hub) (c : CopyData) : Hub := (h.drew 1).packetsIn (packetsOf (h.classBytes c))

/-- A class has fully arrived; `last` says that it is the last of its snapshot. -/
def stateCopy (g : Glob) (c : CopyData) (last : Bool) (hm : Hub × Memory) : Hub × Memory :=
  let h := hm.1
  if !h.saddleHears then hm
  else if h.saddle.role = .standby || h.saddle.role = .syncing then
    let r := applyCopy g c (h.copyIn c, hm.2)
    (r.1.modSaddle (fun x => { x with current := last }), r.2)
  else (h.copyIn c, hm.2)

/-- `errs` are the errors that the writes of fade records meet in blocks that they do not fill. -/
def execStateCopy (data : CopyData) (last : Bool) (errs : List (Nat × ReadError)) (s : State) : Host.Outcome State Fault Refusal := wokenWhen Hub.packetHears 5 (fun s =>
    .next { s with hub := (stateCopy s.glob data last ((s.reads errs).hub, (s.reads errs).mem)).1, mem := (stateCopy s.glob data last ((s.reads errs).hub, (s.reads errs).mem)).2 }) s

/-! ## PAIR_CTRL (R363, R377) -/

/-- The descriptor of a PAIR_CTRL with an ACTION. -/
def Hub.pairDesc (h : Hub) (q tag action : Nat) : Option Desc :=
  (h.fetched q tag 0x90).filter (fun d => d.op 16 1 == action)

/-- A PAIR_CTRL as the Saddle block carries it out; while that has faulted or is isolated, it ends as work of such a block does (R22, R23). -/
def Hub.pairServed (h : Hub) (g : Glob) (q tag action : Nat) (k : Hub) : Hub :=
  match h.pairDesc q tag action with
  | none => h
  | some _ => if h.serving .sdl then k else h.complete g q tag Status.aborted []

/-- A PAIR_CTRL completes; its result gives the role and the partner's health. -/
def Hub.pairDone (h : Hub) (g : Glob) (q tag status : Nat) : Hub :=
  h.complete g q tag status (leBytes 1 h.saddle.role.code ++ leBytes 1 h.saddle.pHealth)

def execPairQuery (q tag : Nat) (s : State) : Host.Outcome State Fault Refusal :=
  nextHub s (s.hub.pairServed s.glob q tag 0 (s.hub.pairDone s.glob q tag Status.ok))

/-- Enable pairing. -/
def Hub.pairEnable (h : Hub) (g : Glob) (q tag : Nat) : Hub :=
  h.pairServed g q tag 1 (
    if !h.saddle.link then h.pairDone g q tag Status.notPresent
    else if h.paired then h.pairDone g q tag Status.ok
    else
      let h1 := h.modSaddle (fun x => { x with left := false })
      let h2 := if h.saddle.pRole < 2 && !g.straps.pairId then h1.leads g else h1.sync.becomes g .syncing 5
      (h2.sendHealth g).pairDone g q tag Status.ok)

def execPairEnable (q tag : Nat) (s : State) : Host.Outcome State Fault Refusal := nextHub s (s.hub.pairEnable s.glob q tag)

/-- A request waits for a master cycle boundary, and the partner is told. -/
def Hub.pairWait (h : Hub) (q tag action : Nat) : Hub :=
  ((h.await q tag []).modSaddle (fun x => { x with reqs := x.reqs ++ [{ q := q, tag := tag, action := action }] })).saddleSend
    (.roleRequest action)

/-- Disable pairing, at the next master cycle boundary. -/
def Hub.pairDisable (h : Hub) (g : Glob) (q tag : Nat) : Hub :=
  h.pairServed g q tag 2 (if h.paired then h.pairWait q tag 2 else h.pairDone g q tag Status.ok)

def execPairDisable (q tag : Nat) (s : State) : Host.Outcome State Fault Refusal := nextHub s (s.hub.pairDisable s.glob q tag)

/-- A request for ACTIVE; `opposed` says that the partner makes the same request in this master cycle. -/
def Hub.requestActive (h : Hub) (g : Glob) (q tag : Nat) (opposed : Bool) : Hub :=
  h.pairServed g q tag 3 (
    if opposed && g.straps.pairId then h.pairDone g q tag Status.conflict
    else if h.saddle.role = .active then h.pairDone g q tag Status.ok
    else if h.saddle.role ≠ .standby || !h.saddle.current then h.pairDone g q tag Status.conflict
    else h.pairWait q tag 3)

def execRequestActive (q tag : Nat) (opposed : Bool) (s : State) : Host.Outcome State Fault Refusal :=
  nextHub s (s.hub.requestActive s.glob q tag opposed)

/-- A request for STANDBY. -/
def Hub.requestStandby (h : Hub) (g : Glob) (q tag : Nat) (opposed : Bool) : Hub :=
  h.pairServed g q tag 4 (
    if opposed && g.straps.pairId then h.pairDone g q tag Status.conflict else
    match h.saddle.role with
    | .standby | .syncing => h.pairDone g q tag Status.ok
    | .unpaired => h.pairDone g q tag Status.conflict
    | .active =>
      if h.saddle.pRole ≠ 2 || h.saddle.pHealth = 3 then h.pairDone g q tag Status.conflict else h.pairWait q tag 4)

def execRequestStandby (q tag : Nat) (opposed : Bool) (s : State) : Host.Outcome State Fault Refusal :=
  nextHub s (s.hub.requestStandby s.glob q tag opposed)

/-! ## The master cycle boundary (R363, R373 to R377) -/

/-- A planned handover: the two hubs change places, without the jump of R376. -/
def Hub.handover (h : Hub) (g : Glob) : Hub :=
  match h.saddle.role with
  | .active => (h.becomes g .standby 3).modSaddle (fun x => { x with current := true, recs := [], flight := [] })
  | .standby => ((h.becomes g .active 3).adoptItems).modSaddle (fun x => { x with isolated := false, copied := [], segment := none, flight := [] })
  | _ => h

/-- The copy of this boundary holds every class that has changed: with it the partner is current (R373, R377). -/
def Hub.copySent (h : Hub) : Bool := h.serving .sdl && h.saddle.defer == 0 && h.saddle.segment.isNone

/-- A request of this hub that has waited for the boundary: a handover waits for the STANDBY's copy to be current. -/
def Hub.pairBoundaryReq (h : Hub) (g : Glob) (r : PairReq) : Hub :=
  if r.action = 2 then
    ((h.becomesFree g .unpaired).modSaddle (fun x => { x with left := true })).pairDone g r.q r.tag Status.ok
  else if r.action = 3 then
    if h.saddle.role = .standby && (!h.saddle.current || !h.saddle.link) then h.modSaddle (fun x => { x with reqs := x.reqs ++ [r] })
    else (if h.saddle.role = .standby then h.handover g else h).pairDone g r.q r.tag Status.ok
  else if !h.saddle.link || (h.saddle.role = .active && !h.copySent) then h.modSaddle (fun x => { x with reqs := x.reqs ++ [r] })
  else (if h.saddle.role = .active then h.handover g else h).pairDone g r.q r.tag Status.ok

/-- What the partner does at the boundary; one that leaves the pair is UNPAIRED from then on. -/
def Hub.partnerActs (h : Hub) (g : Glob) (act : PartnerAct) : Hub :=
  match act with
  | .none => h
  | .handover => h.handover g
  | .leaves => (if h.saddle.role = .standby then h.promote g 4 else h).modSaddle (fun x => { x with pRole := 0 })

/-- A SYNCING hub becomes STANDBY when it is current and its digest equals the ACTIVE's (R374). -/
def Hub.synced (h : Hub) (g : Glob) : Hub :=
  if h.saddle.role = .syncing && h.saddle.current && h.commit.digest == h.saddle.pDigest then h.becomesFree g .standby else h

/-- The ports of a group that a mismatch mutes from this frame on (R380). -/
def Hub.mutePorts (h : Hub) (pg : Nat) : Hub :=
  (h.saddle.muteNext.filter (fun n => h.portGroup n == pg)).foldl (fun h n => h.modSaddle (fun x => { x with
    muteNext := x.muteNext.filter (· != n), digMuted := Sparse.set 0 x.digMuted n 1 })) h

/-- What a frame boundary of a group does to the pair; the master cycle is the frame of PG0. -/
def Hub.pairBoundary (h : Hub) (g : Glob) (m : Memory) (pg : Nat) (act : PartnerAct) : Hub :=
  let h1 := h.mutePorts pg
  if pg ≠ 0 then h1
  else
    let reqs := h1.saddle.reqs
    let h2 := (h1.sendCopy g m).modSaddle (fun x => { x with reqs := [], prbsSaid := false })
    let h3 := reqs.foldl (fun h r => h.pairBoundaryReq g r) (h2.partnerActs g act)
    (h3.synced g).sendHealth g

/-- A group can begin a frame. -/
def Hub.boundaryRuns (h : Hub) (g : Glob) (pg : Nat) : Bool := h.groupOn pg && (h.group pg).phase != .disabled && h.serving .pg && !g.safe

/-- A group begins a frame, and at PG0's boundary the pair a master cycle. -/
def Hub.boundary (h : Hub) (g : Glob) (m : Memory) (pg : Nat) (act : PartnerAct) : Hub :=
  if !h.boundaryRuns g pg then h else (h.frameBoundary g m pg).pairBoundary g m pg act

/-! ## The link (R365 to R367) -/

/-- The Saddle link goes down; a STANDBY's bases enter HOLDOVER (R372). -/
def Hub.saddleDown (h : Hub) (g : Glob) (lanes : Nat) : Hub :=
  if !h.saddle.link then h.modSaddle (fun x => { x with lanes := lanes % 16 })
  else
    let h1 := (h.modSaddle (fun x => { x with
      link := false, lanes := lanes % 16, flight := [], own := [], theirs := [], discards := 0, tx := 0, rx := 0, lost := 0, segment := none, sessionKey := [] })).raise g 88 2
    let h2 := if h.saddle.role = .standby then
        (List.range 4).foldl (fun h t => if h.f (Reg.TBt_CTL t) 1 0 = 0 || (h.base t).state == .holdover then h else h.enterHoldover g t) h1
      else h1
    (List.range 32).foldl (fun h n => h.admitWaiting g n) h2

def execSaddleLinkDown (lanes : Nat) (s : State) : Host.Outcome State Fault Refusal := nextHub s (s.hub.saddleDown s.glob (min lanes 14))

/-- Both hubs were ACTIVE: the one that was promoted later stays, the other becomes SYNCING (R378). -/
def Hub.twoActive (h : Hub) (g : Glob) (later : Bool) : Hub :=
  if h.saddle.role = .active && h.saddle.pRole = 3 && !later then h.sync.becomesFree g .syncing else h

/-- All four lanes hold block lock, and a session is negotiated: `nonce` and `role` are the partner's, `later` says that this hub was promoted
later. -/
def Hub.saddleUp (h : Hub) (g : Glob) (nonce role : Nat) (later : Bool) : Hub :=
  if h.saddle.link || !h.bit Reg.SDL_CTL 0 || !h.serving .sdl || g.safe then h
  else
    let own := h.freeAt 0 % 2 ^ 128
    let h1 := (h.drew 3).modSaddle (fun x => { x with
      link := true, lanes := 15, nonceOwn := own, nonceTheirs := nonce % 2 ^ 128, tx := 0, rx := 0, lost := 0, discards := 0
      sessionKey := Config.sessionKey h.fwu.settings.key own (nonce % 2 ^ 128), saltOut := h.freeAt 1 % 2 ^ 32, saltIn := h.freeAt 2 % 2 ^ 32
      pRole := role % 4, copied := [], segment := none, dirty := List.range 524288 })
    ((if h.bit Reg.SDL_CTL 1 then h1.emit (.prbs true) else h1).raise g 88 1).twoActive g later

def execSaddleLinkUp (nonce role : Nat) (later : Bool) (s : State) : Host.Outcome State Fault Refusal :=
  nextHub s (s.hub.saddleUp s.glob nonce role later)

def execSaddleKeepalive (s : State) : Host.Outcome State Fault Refusal := nextHub s (s.hub.saddleSend .keepalive)

def execSaddleKeepaliveReceive (s : State) : Host.Outcome State Fault Refusal := wokenWhen Hub.packetHears 5 (fun s =>
    nextHub s (if s.hub.saddleHears then s.hub.packetIn else s.hub)) s

/-- A packet comes whose tag fails, or whose counter is not greater than that of the last packet accepted, and is discarded; the 16th in a row takes the link
down (R366). One that neither is true of is not. -/
def Hub.packetDiscard (h : Hub) (g : Glob) (tagFails : Bool) (counter : Nat) : Hub :=
  if !h.saddleHears || !(tagFails || decide (counter < h.saddle.rx)) then h
  else
    let h1 := (h.count Reg.SDL_CNT_AUTH 31).modSaddle (fun x => { x with discards := x.discards + 1, lost := x.lost + b2n tagFails })
    if 16 ≤ h1.saddle.discards then h1.saddleDown g 15 else h1

def execSaddlePacketDiscard (tagFails : Bool) (counter : Nat) (s : State) : Host.Outcome State Fault Refusal := wokenWhen Hub.packetHears 5 (fun s =>
    nextHub s (s.hub.packetDiscard s.glob tagFails counter)) s

/-- A test block arrives. -/
def Hub.prbsBlock (h : Hub) (g : Glob) (bad : Bool) : Hub :=
  if !h.saddleHears || !bad then h
  else
    let h1 := h.count Reg.SDL_CNT_PRBS 31
    if h.saddle.prbsSaid then h1 else (h1.modSaddle (fun x => { x with prbsSaid := true })).raise g 88 3

def execPrbsTestBlock (bad : Bool) (s : State) : Host.Outcome State Fault Refusal := nextHub s (s.hub.prbsBlock s.glob bad)

/-! ## Arm records (R368, R369) -/

/-- The buffer that an arm of the ACTIVE names here: an address, or the slot of this hub's flow that holds the same RTP timestamp. -/
def Hub.recordBuffer (h : Hub) (a : Arm) : Option Arm :=
  match a.source with
  | none => some a
  | some (f, rtp) =>
    ((h.flow f).slots.find? (fun e => e.2 == rtp + 1)).map (fun e => { addr := h.flowRing f + e.1 * h.flowSlot f, source := some (f, rtp) })

/-- The frame that pipe `p` scans next. -/
def Hub.frameAfter (h : Hub) (p : Nat) : Nat := ((h.group (h.pipeGroup p)).frame + 1) % 2 ^ 32

/-- The buffer of a record is put in force: at once while the pipe or its group is disabled, and from its next frame otherwise. -/
def Hub.recordInForce (h : Hub) (p : Nat) (b : Arm) : Hub :=
  if h.pipeOn p && h.groupOn (h.pipeGroup p) then h.setPipe p { h.pipe p with next := some b }
  else h.setPipe p { h.pipe p with cur := b.addr, next := none }

/-- A record names the buffer of a pipe's next frame; one of frame 2^32 - 1 the buffer in force from now on, for an arm that a commit or a disabled pipe puts in
force at once (R181 to R183; DESIGN CHOICE, log entry 39: R368 gives no frame for it). -/
def Hub.armRecord (h : Hub) (p frame : Nat) (a : Arm) : Hub :=
  if h.chainKind p ≠ 1 || 31 < p then h
  else if frame = 2 ^ 32 - 1 then ((h.recordBuffer a).map (fun b => h.recordInForce p b)).getD h
  else
    let h1 := h.modSaddle (fun x => { x with recs := Sparse.set none x.recs p (some (frame, a)) })
    match h.recordBuffer a with
    | some b => if frame = h.frameAfter p then h1.setPipe p { h1.pipe p with next := some b } else h1
    | none => h1

def execArmRecord (p frame : Nat) (arm : Arm) (s : State) : Host.Outcome State Fault Refusal := wokenWhen Hub.packetHears 5 (fun s =>
    nextHub s (s.hub.asRole .standby (fun h => h.armRecord p frame arm))) s

/-- The STANDBY sends no PIX of a pipe in the next frame. -/
def Hub.noRecord (h : Hub) (g : Glob) (p : Nat) : Hub :=
  ((h.setPipe p { h.pipe p with noPixNext := true }).count Reg.SDL_CNT_NOREC 31).raise g 90 (5 + p * 256)

/-- The ingest arm of a STANDBY's own that an unpaired hub would have taken at APPLY_LINE (R180, R369). -/
def Hub.ownArm (h : Hub) (p : Nat) : Option Arm :=
  let x := h.pipe p
  match x.fallback with
  | some a => some a
  | none => x.pend.filter (fun a => a.source.isSome && x.armFrame != ((h.group (h.pipeGroup p)).frame + 2) % 2 ^ 32)

/-- APPLY_LINE plus 20 µs. -/
def Hub.recordDeadline (h : Hub) (g : Glob) (p : Nat) : Hub :=
  if h.saddle.role ≠ .standby || h.chainKind p ≠ 1 || !h.scans g p then h
  else
    let had := (Sparse.get none h.saddle.recs p).filter (fun r => r.1 == h.frameAfter p)
    let h1 := h.modSaddle (fun x => { x with recs := Sparse.set none x.recs p none })
    match had with
    | some (_, a) =>
      match h.recordBuffer a with
      | some b => h1.setPipe p { h1.pipe p with next := some b }
      | none => h1.noRecord g p
    | none =>
      if h.heard then h1.noRecord g p
      else match h.ownArm p with
        | some a => h1.setPipe p { h1.pipe p with pend := (h1.pipe p).pend.filter (· != a), next := some a, fallback := none }
        | none => h1

def execArmRecordDeadline (p : Nat) (s : State) : Host.Outcome State Fault Refusal := nextHub s (s.hub.recordDeadline s.glob p)

/-! ## Mirrored frames (R370) -/

/-- The output that a FIX frame of port `n` updates. -/
def Hub.fixOutput (h : Hub) (n : Nat) (f : MirrorFrame) : Option Nat :=
  (List.range (fpOutputs h.patch)).find? (fun o =>
    let r := outRec h.patch o
    outRoute r == 0 && h.near (outPort r) == n && outNode r == f.dest && outOut r == byteAt f.payload 1)

/-- The output shadow follows a mirrored FIX. -/
def mirrorShadow (g : Glob) (n : Nat) (f : MirrorFrame) (hm : Hub × Memory) : Hub × Memory :=
  if f.type ≠ 8 then hm else
  match hm.1.fixOutput n f with
  | none => hm
  | some o => shadowTakes g o (fixSpan f.payload).1 (fixSpan f.payload).2 (zeros ((fixSpan f.payload).1 - 1) ++ f.payload.drop 24) hm

/-- A copy of an ENUM request: it has no number (R244). A new REQ begins an enumeration, so the tiles' records start afresh (R248). -/
def Hub.mirrorEnum (h : Hub) (n : Nat) (f : MirrorFrame) : Hub :=
  let req := leAt f.payload 4 4
  let h1 := if (h.port n).enumReq = some req then h else (h.freshTiles n).modPort n (fun p => { p with req := req, enumReq := some req })
  h1.modPort n (fun p => p.withQueue 1 (p.queue 1 ++ [{ type := 5, dest := f.dest, payload := f.payload, owner := .enum, todo := h.ends n }]))

/-- The STANDBY queues a copy with the same number, and returns a receipt. -/
def Hub.mirrorIn (h : Hub) (g : Glob) (n : Nat) (f : MirrorFrame) : Hub :=
  let q := queueOf f.type
  if f.type = 5 && byteAt f.payload 0 = 0 then ((h.mirrorEnum n f).saddleSend (.receipt n)).pump g n else
  let qf : QFrame := { type := f.type, dest := f.dest, seq := f.seq, payload := f.payload, owner := if f.type = 4 && byteAt f.payload 0 = 1 then .config else .none
                       due := if f.dest = 255 then h.enumerated n else [f.dest], todo := h.ends n }
  let h1 := h.modPort n (fun p =>
    let p1 := if f.dest = 255 then (if q = 3 then { p with bc3 := (f.seq + 1) % 2 ^ 32 } else { p with bc1 := (f.seq + 1) % 2 ^ 32 })
      else if q = 3 then { p with uni3 := Sparse.set 0 p.uni3 f.dest ((f.seq + 1) % 2 ^ 32) }
      else { p with uni1 := Sparse.set 0 p.uni1 f.dest ((f.seq + 1) % 2 ^ 32) }
    p1.withQueue q (p1.queue q ++ [qf]))
  (h1.saddleSend (.receipt n)).pump g n

def mirroredFrame (g : Glob) (n : Nat) (f : MirrorFrame) (hm : Hub × Memory) : Hub × Memory :=
  let h := hm.1
  if !h.saddleHears then hm
  else if h.saddle.role ≠ .standby || h.chainKind n ≠ 1 || 31 < n then (h.packetIn, hm.2)
  else
    let r := mirrorShadow g n f (h.packetIn, hm.2)
    (r.1.mirrorIn g n f, r.2)

/-- `errs` are the errors that the write of the output shadow meets in blocks that it does not fill. -/
def execMirroredFrame (n : Nat) (f : MirrorFrame) (errs : List (Nat × ReadError)) (s : State) : Host.Outcome State Fault Refusal := wokenWhen Hub.packetHears 5 (fun s =>
    .next { s with hub := (mirroredFrame s.glob n f ((s.reads errs).hub, (s.reads errs).mem)).1, mem := (mirroredFrame s.glob n f ((s.reads errs).hub, (s.reads errs).mem)).2 }) s

/-- A receipt ends the flight of one frame; the producers that wait may go on. -/
def Hub.mirrorReceipt (h : Hub) (g : Glob) (n : Nat) : Hub :=
  (h.modSaddle (fun x => { x with flight := Sparse.set 0 x.flight n (Sparse.get 0 x.flight n - 1) })).admitWaiting g n

def execMirrorReceipt (n : Nat) (s : State) : Host.Outcome State Fault Refusal := wokenWhen Hub.packetHears 5 (fun s =>
    nextHub s (s.hub.asRole .active (fun h => if n < 32 then h.mirrorReceipt s.glob n else h))) s

/-- The ACTIVE enumerates a port for its STANDBY. -/
def execStandbyEnumRequest (n : Nat) (s : State) : Host.Outcome State Fault Refusal := wokenWhen Hub.packetHears 5 (fun s =>
    nextHub s (s.hub.asRole .active (fun h => if n < 32 && h.chainKind n == 1 && h.near n == n then h.enumStart s.glob n else h))) s

/-! ## Health (R375, R381) -/

/-- What a record tells of the partner's configuration: a difference that lasts two records in a row raises event 0x06. -/
def Hub.compareConfig (h : Hub) (g : Glob) : Hub :=
  let differs := h.saddle.pEpoch != h.commit.epoch || h.saddle.pDigest != h.commit.digest
  let k := if differs && h.paired then h.saddle.diffs + 1 else 0
  (h.modSaddle (fun x => { x with diffs := min k 3 })).raiseIf (k == 2) g 90 6

/-- What the partner's role asks of this one: a partner that enables pairing brings an unpaired hub into the pair, as does one that is ACTIVE a hub that
restarts (R363, R378), two ACTIVE hubs resolve, and a SYNCING partner gets a full copy. A host that has disabled pairing keeps its hub out of the pair that
the partner is still in. Of two hubs that are SYNCING the one with PAIR_ID 0 becomes ACTIVE. -/
def Hub.partnerRole (h : Hub) (g : Glob) (was : Nat) (later : Bool) : Hub :=
  match h.saddle.role, h.saddle.pRole with
  | .unpaired, 1 => if (was = 0 || !h.saddle.left) && !g.straps.pairId then (h.modSaddle (fun x => { x with left := false })).leads g else h
  | .syncing, 1 => if g.straps.pairId then h else h.leads g
  | .unpaired, 3 => if was = 0 || !h.saddle.left then (h.modSaddle (fun x => { x with left := false })).sync.becomes g .syncing 5 else h
  | .active, 3 => h.twoActive g later
  | .active, 1 => if was = 1 then h else h.modSaddle (fun x => { x with copied := [], segment := none, dirty := List.range 524288 })
  | _, _ => h

/-- A health record of the partner. -/
def Hub.healthIn (h : Hub) (g : Glob) (rec : List Byte) (later : Bool) : Hub :=
  let was := h.saddle.pRole
  let health := byteAt rec 2 % 4
  let h1 := h.packetIn.modSaddle (fun x => { x with
    pRole := byteAt rec 1 % 4, pHealth := health, pEpoch := leAt rec 8 4, pDigest := (rec.drop 12).take 8, misses := 0, isolated := false })
  let h2 := (h1.raiseIf (health != h.saddle.pHealth) g 90 (1 + health * 256)).compareConfig g
  let h3 := h2.partnerRole g was later
  if h3.saddle.role = .standby && health = 3 then h3.promote g 2 else h3

def execHealthRecord (rec : List Byte) (later : Bool) (s : State) : Host.Outcome State Fault Refusal := wokenWhen Hub.packetHears 5 (fun s =>
    nextHub s (if s.hub.saddleHears then s.hub.healthIn s.glob rec later else s.hub)) s

/-- No record 1 ms after a boundary. -/
def Hub.heartbeatMiss (h : Hub) (g : Glob) : Hub :=
  if h.saddle.role ≠ .standby then h
  else
    let h1 := (h.count Reg.SDL_CNT_HBMISS 31).modSaddle (fun x => { x with misses := min 15 (x.misses + 1) })
    if h1.saddle.misses < h.f Reg.SDL_CTL 7 4 then h1
    else if !h.heard then h1.promote g 1
    else if h.saddle.isolated then h1
    else (h1.modSaddle (fun x => { x with isolated := true })).raise g 90 7

/-- A STANDBY that has counted HB_MISS misses is promoted once the partner has not been heard for 1 ms (R375). -/
def Hub.tickPair (h : Hub) (g : Glob) : Hub :=
  if h.saddle.role = .standby && h.saddle.misses != 0 && decide (h.f Reg.SDL_CTL 7 4 ≤ h.saddle.misses) && !h.heard && !g.safe then h.promote g 1 else h

def execHeartbeatMiss (s : State) : Host.Outcome State Fault Refusal := nextHub s (s.hub.heartbeatMiss s.glob)

/-! ## Self-tests, digests and time (R372, R379, R380) -/

/-- A self-test of an engine of a STANDBY completes; a failure counts, raises event 0x08 and isolates the engine. -/
def engineBist (e : Nat) (fails : Bool) (gh : Glob × Hub) : Glob × Hub :=
  let h := gh.2
  if h.saddle.role ≠ .standby || !(4 ≤ e && decide (e < 24)) || h.f Reg.SDL_CTL 23 16 = 0 || !fails then gh
  else
    let h1 := ((h.count Reg.SDL_CNT_BIST 31).modSaddle (fun x => { x with bistFailed := true, bistSince := x.bistSince + 1 })).raise gh.1 90
      (8 + e * 256)
    isolate (.spr e) (gh.1, h1)

def execEngineBist (e : Nat) (fails : Bool) (s : State) : Host.Outcome State Fault Refusal := nextGlob s (engineBist e fails (s.glob, s.hub))

/-- A digest of the partner for a frame of a port. -/
def Hub.digestIn (h : Hub) (g : Glob) (n frame digest : Nat) : Hub :=
  if !(h.saddle.role == .active || h.saddle.role == .standby) || 31 < n || h.chainKind n ≠ 1 then h
  else (h.modSaddle (fun x => { x with theirs := Sparse.set (0, 0) x.theirs n (frame + 1, digest) })).digestJudge g n

def execOutputDigest (n frame digest : Nat) (s : State) : Host.Outcome State Fault Refusal := wokenWhen Hub.packetHears 5 (fun s =>
    nextHub s (if s.hub.saddleHears then s.hub.packetIn.digestIn s.glob n frame digest else s.hub)) s

/-- A base of the STANDBY is brought to the partner's, within 2 ns: a move beyond JUMP_LIMIT is a step. `off` is this base less the partner's, in
2^-16 ns. -/
def Hub.disciplineTo (h : Hub) (g : Glob) (t : Nat) (off : Int) : Hub :=
  let err : Int := (h.freeAt 0 % (4 * ns48 + 1) : Nat) - (2 * ns48 : Nat)
  let new := addTime (h.now48 t) (err - off * 2 ^ 32)
  let h1 := h.drew 1
  if !h.power.rootLock then h1
  else if off.natAbs ≤ h.f (Reg.TBt_LIMITS t) 19 0 * 65536 then h1.setBase t { h1.base t with t48 := new } else h1.stepBase g t new

/-- A two-way time transfer; `offs` are the offsets of TB0 to TB3. -/
def Hub.timeTransfer (h : Hub) (g : Glob) (offs : List Int) : Hub :=
  let h1 := h.modSaddle (fun x => { x with tofs := offs.headD 0 })
  ((List.range 4).zip offs).foldl (fun h e => if h.f (Reg.TBt_CTL e.1) 1 0 = 0 then h else h.disciplineTo g e.1 e.2) h1

def execSaddleTimeTransfer (offs : List Int) (s : State) : Host.Outcome State Fault Refusal := wokenWhen Hub.packetHears 5 (fun s =>
    nextHub s (s.hub.asRole .standby (fun h => h.timeTransfer s.glob offs))) s

end Sys2Proof.Machine
end

