-- ==== Sys2Proof/Machine/Power.lean ====
section
/-! DEFINITION. Power states, wakes, power domains and the thermal rules (spec/19_power_clocks_reset.md, R426 to R436, R443 to R445). -/

namespace Sys2Proof.Machine

/-! ## Power states (R428 to R436) -/

/-- The boundary at which a group leaves self-refresh: the first at least 60 µs after the trigger (R193). -/
def Hub.leavesAt (h : Hub) (pg at48 : Nat) : Nat :=
  let G := h.group pg
  G.next + ceilDiv (at48 + 60000 * ns48 - h.onClock pg G.next) (h.period48 pg) * h.period48 pg

/-- The known events of a group: its next boundary while it runs, that at which it leaves self-refresh, and its next fixture tick (Table 19.3). -/
def Hub.groupKnown (h : Hub) (pg : Nat) : List Nat :=
  let G := h.group pg
  let next := h.until48 (h.groupTb pg) G.next
  let div := max (h.f (Reg.FIX_PGg_CTL pg) 4 0) 1
  let tick := next + (div - 1 - G.frame % div) * h.period48 pg
  match G.phase with
  | .disabled => []
  | .selfRefresh => (G.leaveAt.toList.map (fun t => h.until48 (h.groupTb pg) (h.leavesAt pg t))) ++ (if h.bit Reg.FIX_CTL 0 then [tick] else [])
  | _ => [next]

/-- The known events of a radio: its next beacon's transmit command, and the downlink rounds to come with something queued. -/
def Hub.radioKnown (h : Hub) (r : Nat) : List Nat :=
  let x := h.odl r
  if !(x.phase == .starting || x.phase == .beaconing) then [] else
  let begun := x.at48 - odlBi x.ctl * ns48
  let slot := odlBi x.ctl * ns48 / 2 ^ (ctlSlotLog x.ctl + 2)
  let ttl := max (ctlTtl x.ctl) 1
  let rounds := if x.rsps.isEmpty && x.turn.isEmpty then [] else
    ((List.range (ctlDown x.ctl / ttl)).map (fun k => begun + (ttl + k * ttl) * slot)).filter (fun t => decide (h.now48 (h.odlTb r) ≤ t))
  (h.beaconAt r :: rounds).map (h.until48 (h.odlTb r))

/-- The known events of the block CAL: the next step of a run, and the next sample and fold of the estimator. -/
def Hub.calKnown (h : Hub) : List Nat :=
  let x := h.cal.msr
  (if x.phase ≠ .idle && decide (x.started < sqSteps x.seq) then
      [h.until48 (h.groupTb x.pg) (h.frameTime x.pg ((x.f0 + x.started * sqStride x.seq) % 2 ^ 32))] else []) ++
    (if (List.range 32).any h.statOn then [h.cal.statDue, h.cal.foldDue].map (fun c => (c - h.clock) * cycle48) else [])

/-- The instants from now, in 2^-48 ns, of every known event of Table 19.3. -/
def Hub.knownEvents (h : Hub) : List Nat :=
  ((List.range 8).map h.groupKnown).flatten ++
    h.col.items.filterMap (fun i => match i.place with
      | .parked t expiry => some (h.until48 t expiry)
      | _ => none) ++
    ((List.range 2).map h.radioKnown).flatten ++ h.commitAhead.toList ++ h.calKnown ++
    ((List.range 16).filter (fun c => h.bit (Reg.TIM_CMPc_CTL c) 0 && (h.cmpPins c).isEmpty)).filterMap (fun c =>
      (h.cmp c).next.map (h.until48 (h.f (Reg.TIM_CMPc_CTL c) 2 1)))

/-- The entry conditions that a state adds to those above it (Table 19.4). -/
def Hub.entryHolds (h : Hub) (g : Glob) (s : Nat) : Bool :=
  match s with
  | 1 =>
    (List.range 32).all (fun p => !h.scans g p || (h.group (h.pipeGroup p)).phase != .running ||
        decide (h.activeLines (h.pipeGroup p) ≤ (h.group (h.pipeGroup p)).line)) &&
      (List.range 24).all (fun e => (h.eng e).phase == .waiting || (h.eng e).phase == .halted || (h.eng e).phase == .off) &&
      (List.range 64).all (fun q => (h.sq q).inflight.all (fun d => d.phase != .moving)) && h.commit.phase != .checking &&
      (List.range 32).all (fun p => (h.calPipe p).loads.isEmpty && (h.calPipe p).phase != .slewing && (h.calPipe p).phase != .copying) &&
      (List.range 32).all (fun f => (h.flow f).cells == 0)
  | 2 =>
    (List.range 8).all (fun pg => (h.group pg).phase == .disabled || (h.group pg).phase == .selfRefresh) &&
      (List.range 32).all (fun n => (h.port n).q1.isEmpty && (h.port n).pix.isEmpty && (h.port n).q3.isEmpty) && h.cal.msr.phase == .idle &&
      h.fwu.op.isNone && (List.range 64).all (fun q => (h.sq q).inflight.isEmpty) && (h.fifo 0).isEmpty
  | _ =>
    (List.range 4).all (fun n => h.netMode n == 0) && (List.range 32).all (fun f => !h.flowOn f) &&
      (List.range 32).all (fun n => !h.bit (Reg.NSHn_CTL n) 0) && !h.bit Reg.SDL_CTL 0 &&
      (List.range 2).all (fun r => !h.bit (Reg.ODLr_CTL r) 0) && !(List.range 32).any h.statOn && h.commit.phase != .pending

/-- A state meets every condition of R432. -/
def Hub.qualifies (h : Hub) (g : Glob) (s : Nat) : Bool :=
  decide (s ≤ min (h.f Reg.PWR_CTL 2 0) 3) && (List.range s).all (fun k => h.entryHolds g (k + 1)) &&
    h.knownEvents.all (fun d => decide ((stateW s + h.f Reg.PWR_CTL 15 8) * (1000 * ns48) ≤ d ∧ stateB s * (1000 * ns48) ≤ d))

/-- The deepest state that qualifies; D0 when none does. -/
def Hub.deepest (h : Hub) (g : Glob) : Nat := if h.qualifies g 3 then 3 else if h.qualifies g 2 then 2 else if h.qualifies g 1 then 1 else 0

/-- A known event lies so near that the hub must wake for it: within the latency of its state and MARGIN (R432, R436). -/
def Hub.wakeDue (h : Hub) : Bool :=
  h.knownEvents.any (fun d => decide (d ≤ (stateW h.power.state + h.f Reg.PWR_CTL 15 8) * (1000 * ns48)))

/-- An idle hub enters the deepest state that qualifies (R432). In D3 the engine local memories are lost, and the counters of the domains that are off
(R420, R425, R430). -/
def powerEntry (s : State) : State :=
  let d := s.hub.deepest s.glob
  if s.hub.power.state ≠ 0 || d = 0 then s
  else
    let h1 := { s.hub with power := { s.hub.power with state := d, resCycles := 0 } }
    { s with
      mem := if d = 3 then (List.range 24).foldl Memory.loseLocal s.mem else s.mem
      hub := (if d = 3 then h1.pmuLost else h1).raiseIf (decide (2 ≤ d)) s.glob 94 (1 + d * 256) }

def execPowerStateEntry (s : State) : Host.Outcome State Fault Refusal := .next (powerEntry s)

/-! ## Domains (R427, R18, R312) -/

/-- The Host bits of Table 19.1. -/
def hostDomain (d : Nat) : Bool := d == 3 || (6 ≤ d && d ≤ 11)

/-- The staged set writes a register of a domain (R79); its tables do not count (DESIGN CHOICE, log entry 41). -/
def Hub.setInDomain (h : Hub) (d : Nat) : Bool :=
  h.commit.writes.any (fun w => match Block.ofOffset w.off with
    | some b => b.domain == d || (d == 8 && b.behindWest)
    | none => false)

/-- The engines of a domain. -/
def domainEngines (d : Nat) : List Nat := if d = 5 then List.range 12 else if d = 6 then (List.range 12).map (· + 12) else []

/-- The ports that a domain takes down: its own, and with PD_NSHW those behind its router. -/
def domainPorts (d : Nat) : List Nat := if d = 8 then List.range 16 else if d = 9 then (List.range 16).map (· + 16) else []

/-- The calibration of a pipe whose domain loses power: loads and a fold end, and the store and its VALID bits stay, as at a block reset (R198, R427). -/
def CalPipe.offDomain (c : CalPipe) : CalPipe :=
  { c with loads := [], phase := if c.phase = .fold then (if c.loaded then .loaded else .idle) else c.phase, changed := false, loaded := false }

/-- What ends as a domain loses power. -/
def Hub.domainEnds (h : Hub) (g : Glob) (d : Nat) : Hub :=
  match d with
  | 3 => { h with net := {} }
  | 6 => (domainEngines 6).foldl (fun h e => ((h.endWork g e).setEng e {}).pmuEngineOff e) h
  | 7 =>
    let h1 := h.msrEnd g Status.aborted
    let h2 := (List.range 32).foldl (fun h p => (h.calForce p).modCal p CalPipe.offDomain) h1
    (List.range 32).foldl (fun h p => h.pmuSetOff (.pipe p)) { h2 with scan := {}, fix := {} }
  | 8 =>
    let h1 := (domainPorts 8).foldl (fun h n => (h.portDown g n Status.notPresent).pmuSetOff (.port n)) h
    let h2 := (domainPorts 9).foldl (fun h n => h.dropFrames g n Status.notPresent) h1
    (List.range 2).foldl (fun h r => h.modOdl r (fun x => { x with phase := if x.phase = .off then .off else .halted, plan := none })) h2
  | 9 => (domainPorts 9).foldl (fun h n => (h.portDown g n Status.notPresent).pmuSetOff (.port n)) h
  | 10 =>
    let h1 := (h.saddleDown g 0).cutWhere g Status.notPresent (fun d => d.opcode == 0x90 && d.phase == .waiting)
    { (if h1.saddle.role = .unpaired then h1 else h1.becomesFree g .unpaired) with saddle := {} }
  | _ => { h with odls := [] }

/-- A domain loses power. -/
def domainOff (d : Nat) (s : State) : State :=
  if !hostDomain d || !s.hub.domainOn d then s
  else
    let h1 := s.hub.domainEnds s.glob d
    let h2 := { h1 with power := { h1.power with domains := h1.power.domains - 2 ^ d, offPending := h1.power.offPending.filter (· != d) } }
    { s with
      mem := (domainEngines d).foldl Memory.loseLocal s.mem
      hub := h2.pwrEvent s.glob (3 + d * 256) }

/-- A block of a domain. -/
def offsetInDomain (off d : Nat) : Bool := match Block.ofOffset off with
  | some b => b.domain == d
  | none => false

/-- The registers of a domain's blocks with their fields as applied and the rest at reset. -/
def Hub.domainFields (h : Hub) (d : Nat) : Hub :=
  (h.regs.filter (fun e => offsetInDomain e.1 d)).foldl (fun h e =>
    h.wrN e.1 (mergeRw (Reg.resetValue e.1).toNat (h.n e.1) (rwMask e.1))) h

/-- The registers of a domain leave reset with their fields as applied and their counters at reset, those of its router among them. -/
def Hub.domainRegs (h : Hub) (d : Nat) : Hub :=
  (((List.range 20).filter (fun x => regionRouter (linkCounted x) == d)).foldl (fun h x => h.wr (Reg.GLB_LNK_RPLx x) 0) h).domainFields d

/-- An enabled radio starts (R295). -/
def Hub.radioStarts (h : Hub) (r : Nat) : Hub := if h.bit (Reg.ODLr_CTL r) 0 then h.odlStart r else h

/-- What starts as a domain gains power. -/
def Hub.domainStarts (h : Hub) (g : Glob) (d : Nat) : Hub :=
  match d with
  | 6 => ((domainEngines 6).filter (fun e => h.bit (Reg.SPRe_CTL e) 0)).foldl (fun h e => h.modEng e (fun x => { x.kept with phase := EngPhase.allowed g .loading })) h
  | 7 =>
    let h1 := (List.range 8).foldl (fun h pg => h.groupApply g (h.putBit (Reg.PGg_CTL pg) 0 false) pg) h
    (List.range 32).foldl (fun h p => h.setPipe p { h.pipe p with lutNew := true }) h1
  | 8 =>
    let h1 := (domainPorts 8).foldl (fun h n => (h.setPort n {}).portTrains g n) h
    let h2 := if h1.domainOn 9 then (domainPorts 9).foldl (fun h n => h.portTrains g n) h1 else h1
    if h2.domainOn 11 then (List.range 2).foldl (fun h r => h.radioStarts r) h2 else h2
  | 9 => (domainPorts 9).foldl (fun h n => if h.domainOn 8 then (h.setPort n {}).portTrains g n else h.setPort n {}) h
  | 11 => if h.domainOn 8 then (List.range 2).foldl (fun h r => h.radioStarts r) h else h
  | _ => h

/-- A domain gains power: its blocks leave reset, and those that were isolated return to service (R24, R427). -/
def Hub.domainOnAgain (h : Hub) (g : Glob) (d : Nat) : Hub :=
  if !hostDomain d || h.domainOn d then { h with power := { h.power with offPending := h.power.offPending.filter (· != d) } }
  else
    let h1 := h.domainRegs d
    let h2 := { h1 with power := { h1.power with
      domains := h1.power.domains + 2 ^ d, isolated := h1.power.isolated.filter (fun b => b.domain != d)
      reported := h1.power.reported.filter (fun b => b.domain != d) } }
    (h2.domainStarts g d).pwrEvent g (3 + d * 256 + 65536)

/-- A request to power a domain off: it waits while a pending set writes the domain, and in D2 or D3 (R79, R436). -/
def domainRequestOff (d : Nat) (s : State) : State :=
  if !hostDomain d then s
  else if (s.hub.commit.phase == .pending && s.hub.setInDomain d) || decide (2 ≤ s.hub.power.state) then
    { s with hub := { s.hub with power := { s.hub.power with offPending := d :: s.hub.power.offPending.filter (· != d) } } }
  else domainOff d s

/-- The Host bits of PWR_DOM_CTL: no other takes a write. -/
def hostBits : Nat := 0xFC8

/-- A write of PWR_DOM_CTL: the Host bits that change act (R427). -/
def domCtlWrite (value : Nat) (s : State) : State :=
  let old := s.hub.n Reg.PWR_DOM_CTL
  let s1 := { s with hub := s.hub.wrN Reg.PWR_DOM_CTL (mergeRw old value hostBits) }
  (List.range 12).foldl (fun s d =>
    if !hostDomain d then s
    else if bitOf value d && !bitOf old d then domainRequestOff d s
    else if !bitOf value d && bitOf old d then { s with hub := s.hub.domainOnAgain s.glob d } else s) s1

/-- A write of one bit of PWR_DOM_CTL by a requester, the others as they stand. -/
def domBitWrite (who : Requester) (d : Nat) (on : Bool) (s : State) : State :=
  if s.hub.allows s.glob who Reg.PWR_DOM_CTL then
    domCtlWrite (putField (s.hub.n Reg.PWR_DOM_CTL) d d (b2n on)) s
  else { s with hub := s.hub.tryWrite s.glob who Reg.PWR_DOM_CTL id }

def execDomainPowerOff (who : Requester) (d : Nat) (s : State) : Host.Outcome State Fault Refusal :=
  reached who (fun s => .next (if d < 12 then domBitWrite who d true s else s)) s

def execDomainPowerOn (who : Requester) (d : Nat) (s : State) : Host.Outcome State Fault Refusal :=
  reached who (fun s => .next (if d < 12 then domBitWrite who d false s else s)) s

/-- The requests to power off that waited, and may now take effect. -/
def offPendingRun (s : State) : State :=
  s.hub.power.offPending.foldl (fun s d => domainRequestOff d { s with
    hub := { s.hub with power := { s.hub.power with offPending := s.hub.power.offPending.filter (· != d) } } }) s

/-! ## Wakes (R432, R434, R436) -/

/-- A wake source fires by itself: a known event where one is due, and any other as the sender says. -/
def execWake (code : Nat) (s : State) : Host.Outcome State Fault Refusal :=
  .next (if code = 1 && !s.hub.wakeDue then s else s.wokenBy code)

/-- Outside D0 the hub wakes as soon as a known event is near, also where a step of a base, a jump or a commit has moved it there (R432, R436); the powers-off that
waited for D0 or for a set take effect once they may (R79, R436). -/
def powerTick (s : State) : State :=
  let s1 := if s.hub.power.state != 0 && s.hub.wakeDue then s.wokenBy 1 else s
  if s1.hub.power.offPending.isEmpty then s1 else offPendingRun s1

/-- The residency counters cleared. -/
def Hub.resClear (h : Hub) : Hub := (List.range 3).foldl (fun h s => h.wr (Reg.PWR_RES_Ds s) 0) h

/-- A write of PWR_CTL; a MAXSTATE shallower than the state wakes the hub (R434, R436). -/
def pwrCtl (value : Nat) (s : State) : State :=
  let h1 := (s.hub.putF Reg.PWR_CTL 2 0 value).putF Reg.PWR_CTL 15 8 (value / 256)
  let s1 := { s with hub := if bitOf value 31 then h1.resClear else h1 }
  if min (value % 8) 3 < s.hub.power.state then wakeUp 8 s1 else s1

def execPwrCtlWrite (who : Requester) (value : Nat) (s : State) : Host.Outcome State Fault Refusal :=
  reached who (fun s => .next (if s.hub.allows s.glob who Reg.PWR_CTL then pwrCtl value s else { s with hub := s.hub.tryWrite s.glob who Reg.PWR_CTL id })) s

def execPwrResClr (who : Requester) (s : State) : Host.Outcome State Fault Refusal :=
  reached who (fun s => nextHub s (s.hub.tryWrite s.glob who Reg.PWR_CTL Hub.resClear)) s

/-! ## Thermal (R443, R444) -/

/-- The critical limit, in °C. -/
def criticalLimit (g : Glob) : Int := match g.grade with
  | .c => 105
  | .e => 115

/-- A sensor's reading is stored, and its highest since cold reset. -/
def Hub.sensor (h : Hub) (i : Nat) (t : Int) : Hub :=
  let old := signed 12 (h.f (Reg.PWR_THERMi i) 27 16)
  (h.putF (Reg.PWR_THERMi i) 11 0 (satSigned 12 t)).putF (Reg.PWR_THERMi i) 27 16 (satSigned 12 (if old < t then t else old))

/-- The hottest sensor, the lowest of several. -/
def hottest (ts : List Int) : Nat × Int :=
  ((List.range ts.length).zip ts).foldl (fun b e => if b.2 < e.2 then e else b) (0, ts.headD 0)

/-- DETAIL of a thermal event. -/
def thermDetail (ev : Nat) (x : Nat × Int) : Nat := ev + x.1 * 256 + unsigned 16 x.2 * 65536

/-- The sensors are sampled; readings are in 0.25 °C. -/
def thermalSample (temps : List Int) (gh : Glob × Hub) : Glob × Hub :=
  let ts := temps.take 8
  if ts.isEmpty then gh else
  let g := gh.1
  let h := ((List.range ts.length).zip ts).foldl (fun h e => h.sensor e.1 e.2) gh.2
  let x := hottest ts
  let hi : Int := 4 * (h.f Reg.PWR_THERM_CTL 7 0 : Int)
  let rise := !h.power.hot && decide (hi < x.2)
  let fall := h.power.hot && decide (x.2 ≤ hi - 20)
  let crit := decide (4 * criticalLimit g ≤ x.2)
  let h1 := { h with power := { h.power with hot := (h.power.hot || rise) && !fall, critical := crit } }
  let h2 := (h1.raiseIf rise g 95 (thermDetail 1 x)).raiseIf fall g 95 (thermDetail 2 x)
  if crit && !h.power.critical then enterSafe 7 (g, h2.raise g 95 (thermDetail 3 x)) else (g, h2)

/-- A sample of the sensors raises a thermal event, which is a wake source (R434, R444). -/
def thermalEvent (temps : List Int) (h : Hub) (g : Glob) : Bool :=
  let x := (hottest (temps.take 8)).2
  let hi : Int := 4 * (h.f Reg.PWR_THERM_CTL 7 0 : Int)
  !(temps.take 8).isEmpty && ((!h.power.hot && decide (hi < x)) || (h.power.hot && decide (x ≤ hi - 20)) ||
    (!h.power.critical && decide (4 * criticalLimit g ≤ x)))

def execThermalSample (temps : List Int) (s : State) : Host.Outcome State Fault Refusal :=
  let t := if thermalEvent temps s.hub s.glob then s.wokenBy 7 else s
  nextGlob t (thermalSample temps (t.glob, t.hub))

/-- The comparator of 125 °C drives THERMTRIP_N low until PORST_N falls. -/
def execThermtrip (s : State) : Host.Outcome State Fault Refusal :=
  nextHub s ({ s.hub with power := { s.hub.power with trip := true } }.emit .thermtrip)

end Sys2Proof.Machine
end

