-- ==== Sys2Proof/Machine/Boot.lean ====
section
/-! DEFINITION. Cold and warm resets, the boot sequence, the choice of the image, recovery, trials and the end of a flash operation
(spec/19_power_clocks_reset.md, R437 to R442; spec/16_firmware_update.md, R387 to R396; R404, R459, R465). -/

namespace Sys2Proof.Machine

/-! ## What a reset clears -/

/-- What the flash keeps across a reset. Staging survives only where an activation is recorded (R388). -/
def Fwu.afterReset (w : Fwu) : Fwu :=
  { size := w.size, descriptor := w.descriptor, images := w.images, staging := if w.boot.pending then w.staging else []
    boot0 := w.boot0, boot1 := w.boot1, set0 := w.set0, set1 := w.set1 }

/-- A reset during a flash operation: an erase in progress leaves what it erased (R401). -/
def Hub.flashCut (h : Hub) : Hub := match h.fwu.op with
  | some o => if o.activate then h.fwActivateCut else h
  | none => h

/-- The lanes that were not in electrical idle fall to it, and the pins that drove a level to high impedance (R442). -/
def Hub.pinsFall (h : Hub) : Hub :=
  let h1 := ((List.range 32).filter (fun n => (h.port n).phase != .off)).foldl (fun h n => h.emit (.lane n .electricalIdle)) h
  ((List.range 8).filter (fun p => (h.pinState p).drive.isSome)).foldl (fun h p => h.emit (.pin p none (h.now48 (h.pinTb p)))) h1

/-- The reset values that the fuses and the ordering code change: SEC_MWORLD where HOST_NS is blown, and PWR_THERM_CTL of an AZ3224-E. -/
def Hub.partValues (h : Hub) (g : Glob) : Hub :=
  let h1 := if g.otp.hostNs then h.wrN Reg.SEC_MWORLD 0 else h
  match g.grade with
  | .c => h1
  | .e => h1.wrN Reg.PWR_THERM_CTL 0x64

/-- A cold reset: everything but the fuses, the straps until they are sampled again, and the flash (Table 19.7). THERMTRIP_N is released, as when PORST_N falls
(R444, R459). -/
def coldClear (rstNext : Nat) (porst : Bool) (s : State) : State :=
  let h := s.hub.flashCut.pinsFall
  { s with
    glob := { s.glob with safe := false, cause := 0, forced := false }
    mem := {}
    hub := Hub.partValues
      { clock := h.clock, free := h.free, out := h.out, fwu := h.fwu.afterReset
        power := { rstNext := rstNext, porstLow := porst, trip := false } } s.glob }

/-- The base as a warm reset leaves it: FREE, counting on from where it is (R438). -/
def TimeBase.afterWarm (b : TimeBase) : TimeBase := { t48 := b.t48 }

/-- The registers that a warm reset keeps: MEM_STATUS, CRN_NONCE, which only a clear and a cold reset renew, and the highest temperatures since cold
reset. -/
def Hub.warmRegs (h : Hub) : Hub :=
  let kept := [Reg.MEM_STATUS, Reg.CRN_NONCE_LO, Reg.CRN_NONCE_HI].foldl (fun (x : Hub) o => x.wr o (h.rd o)) ({} : Hub)
  (List.range 8).foldl (fun x i => x.putF (Reg.PWR_THERMi i) 27 16 (h.f (Reg.PWR_THERMi i) 27 16)) kept

/-- A warm reset: every register, engine and link; the time-base counts, the Cairn logs, the memories, the straps and the lock of the root PLL stay
(Table 19.7). A trial's timer keeps its count (R392). -/
def Hub.warmClear (h : Hub) (g : Glob) (cause : Nat) : Hub :=
  let h1 := h.flashCut.pinsFall
  let h2 := if h.fwu.inTrial then
      h1.modFwu (fun w => w.setBoot { w.boot with used := w.boot.used + (h.clock - w.trialAt) }) else h1
  Hub.partValues
    { regs := h2.warmRegs.regs, clock := h2.clock, free := h2.free, out := h2.out, fwu := h2.fwu.afterReset
      cairn := { h2.cairn with violAt := none, violMiss := 0, snapLost := 0, snapAt := none }, commit := { baseFixed := h2.commit.baseFixed }
      time := { bases := h2.time.bases.map (fun e => (e.1, e.2.afterWarm)) }
      power := { rootLock := h.power.rootLock, bypass := h.power.bypass, refFailed := h.power.refFailed, losses := h.power.losses
                 trip := h.power.trip, ramp := h.power.ramp, rstCause := cause } } g

/-! ## The start of the firmware (Table 19.8, steps 6 and 7) -/

/-- The boot load of the SEC registers from the settings store (R404). -/
def Hub.bootLoad (h : Hub) : Hub :=
  if h.fwu.settings.valid && h.fwu.reads h.fwu.settings.format then h.fwu.settings.sec.foldl (fun h e => h.wrN e.1 (mergeRw (h.n e.1) e.2 (rwMask e.1))) h else h

/-- The control firmware starts on SE0 to SE3, the SEC registers are loaded, the digest is set and the BOOT record is written. -/
def Hub.startFirmware (h : Hub) (g : Glob) (slot : Nat) (factory : Bool) : Hub :=
  let h1 := (h.modFwu (fun w => { w with phase := .running, slot := slot, factory := factory, trialAt := h.clock, lockedWr := 0 })).bootLoad
  let h2 := ((List.range 4).foldl (fun h e => (h.putBit (Reg.SPRe_CTL e) 0 true).modEng e (fun x => x.start (h.imgEntry e) false)) h1).setDigest
  ((h2.putBit Reg.FWU_CTL 0 false).linkBringUp g).record g 0x0101 0xFFFF h2.power.rstCause slot (imgVersion h2.fwu.running) (imgSecVersion h2.fwu.running)

/-- Recovery: the boot ROM serves SQ0 and brings the PCI Express link up, and no other (R396). -/
def Hub.recover (h : Hub) (g : Glob) (cause : Nat) : Hub :=
  let h1 := (h.modFwu (fun w => { w with phase := .recovery, slot := w.boot.slot })).setDigest
  ((h1.linkBringUp g).fwuEvent g (5 + cause * 256)).record g 0x0101 0xFFFF h1.power.rstCause h1.fwu.slot 0 0

/-! ## The choice of the image (R390 to R392, R395) -/

/-- The region of the flash that holds image 0 or 1 of the slots, or 2 of the recovery region. -/
def imageRegion (slot : Nat) : FlashRegion := if slot = 2 then .recovery else .slot slot

/-- The image of a slot, or of the recovery region (2), may boot. -/
def Hub.bootable (h : Hub) (g : Glob) (slot : Nat) : Bool :=
  imgVerifies g.otp h.fwu.inUse (slot != 2) (h.fwu.image slot) && decide (imgSize (h.fwu.image slot) ≤ (imageRegion slot).size h.fwu.inUse)

/-- The active slot boots in its trial: the boot counts, and a cold reset has restarted the timer (R392). -/
def Fwu.trialBoot (w : Fwu) (cold : Bool) : Fwu :=
  if w.boot.trial then w.setBoot { w.boot with boots := w.boot.boots + 1, used := if cold then 0 else w.boot.used } else w

/-- The active slot boots where it verifies; otherwise Table 16.5 says what does. -/
def Hub.bootSlot (h : Hub) (g : Glob) (cold : Bool) : Hub :=
  let slot := h.fwu.boot.slot
  if h.bootable g slot then (h.modFwu (fun w => w.trialBoot cold)).startFirmware g slot false
  else if g.otp.failMode then h.recover g 4
  else if h.bootable g (1 - slot) then
    (h.modFwu (fun w => w.setBoot { w.boot with slot := 1 - slot, trial := false, failed := 0, boots := 0, used := 0 })).startFirmware
      g (1 - slot) false
  else if h.bootable g 2 then h.startFirmware g slot true
  else h.recover g 4

/-- The copy of R390: the staged image into the inactive slot, then active in trial; or the mark cleared where the copy does not verify. -/
def Hub.activationCopy (h : Hub) (g : Glob) : Hub :=
  if !h.fwu.boot.pending then h else
  let slot := 1 - h.fwu.boot.slot
  let w := h.fwu.program slot
  if imgVerifies g.otp w.inUse true (w.image slot) then
    h.modFwu (fun _ => { w.setBoot { w.boot with slot := slot, pending := false, trial := true, failed := 0, boots := 0, used := 0 } with
      staging := [] })
  else
    (h.modFwu (fun _ => { w.setBoot { w.boot with pending := false, outcome := 3 } with staging := [] })).fwuEvent g 6

/-- Why the trial has failed: what was recorded, or a fourth start without a confirmation; 0 where it has not. -/
def BootRec.trialFailed (b : BootRec) : Nat := if !b.trial then 0 else if b.failed != 0 then b.failed else if 3 ≤ b.boots then 1 else 0

/-- The boot ROM chooses what to boot. Event 0x04 and its record come where the previous slot verifies, so that it boots (R402). -/
def Hub.bootChoice (h : Hub) (g : Glob) (cold : Bool) : Hub :=
  let h1 := h.activationCopy g
  let why := h1.fwu.boot.trialFailed
  if why = 0 then h1.bootSlot g cold
  else if g.otp.failMode then h1.recover g why
  else
    let slot := 1 - h1.fwu.boot.slot
    let h2 := h1.modFwu (fun w => w.setBoot { w.boot with slot := slot, trial := false, failed := 0, boots := 0, used := 0, outcome := 2 })
    (if h2.bootable g slot then (h2.fwuEvent g (4 + why * 256)).record g 0x0503 0x7A why slot 0 0 else h2).bootSlot g cold

/-- The boot steps from the boot ROM on (Table 19.8). The cause that event 0x05 carries when BOOT_MODE asks for recovery is not given. -/
def Hub.bootSteps (h : Hub) (g : Glob) (cold : Bool) : Hub :=
  let mode := g.straps.bootMode % 4
  if mode = 2 && !g.otp.dbgLock then h.modFwu (fun w => { w with phase := .halted, slot := w.boot.slot })
  else if mode = 1 then (h.drew 1).recover g (h.freeAt 0 % 256)
  else if h.fwu.inUse = 0 then h.recover g 4
  else h.bootChoice g cold

/-! ## Cold reset (R437, R440, R441, R459, R465) -/

/-- PORST_N stays low for 10 µs. While the hub is held in reset, nothing changes. -/
def execPorstLow (s : State) : Host.Outcome State Fault Refusal :=
  .next (if s.hub.fwu.phase = .reset then { s with hub := { s.hub with power := { s.hub.power with porstLow := true, trip := false } } }
    else coldClear 1 true s)

/-- VDD_AON or VDD_CORE droops for more than 1 µs. -/
def execSupplyDroop (s : State) : Host.Outcome State Fault Refusal := .next (coldClear 0 false s)

/-- A density code that the boot ROM reads from the devices (MEM_STATUS.DENS). -/
def density (d : Nat) : Nat := max 1 (min d 4)

/-- The DRAM as trained: both channels at the smaller density (R140). -/
def Hub.trained (h : Hub) (a b : Nat) : Hub :=
  h.wrN Reg.MEM_STATUS (min (density a) (density b) + 8 * b2n (density a != density b) + 16 + 32)

/-- PORST_N rises, and the hub boots: the straps are sampled, the cause and RAMP recorded, the DRAM trained, and the image chosen and started. -/
def coldBoot (boot lanes : Nat) (pair ramp : Bool) (a b : Nat) (s : State) : State :=
  if s.hub.fwu.phase ≠ .reset then s
  else
    let g := { s.glob with straps := { bootMode := boot % 4, pairId := pair, pcieLanes := lanes % 4 }, safe := false, cause := 0, forced := false }
    let h1 := { s.hub with power := { s.hub.power with
      rstCause := s.hub.power.rstNext, rstNext := 0, porstLow := false, ramp := ramp, rootLock := true } }
    State.firmwareIn { s with glob := g, hub := (((h1.partValues g).newNonce.trained a b).bootSteps g true) }

def execColdReset (boot lanes : Nat) (pair ramp : Bool) (densA densB : Nat) (s : State) : Host.Outcome State Fault Refusal :=
  .next (coldBoot boot lanes pair ramp densA densB s)

/-! ## Warm reset (R438, R392, R394) -/

/-- A warm reset and the boot that follows it; the safe state is left (R27). -/
def warmReset (cause : Nat) (s : State) : State :=
  if s.hub.fwu.phase = .reset then s
  else
    let g := { s.glob with safe := false, cause := 0, forced := false }
    State.firmwareIn { s with glob := g, hub := (s.hub.warmClear g cause).bootSteps g false }

/-- A write of 1 to GLB_RST.WARM, or a warm-reset instruction of JTAG. -/
def execWarmReset (who : Requester) (s : State) : Host.Outcome State Fault Refusal := reached who (fun s =>
    .next (if who = .jtag then warmReset 4 s
      else if s.hub.allows s.glob who Reg.GLB_RST then warmReset 2 s
      else { s with hub := s.hub.tryWrite s.glob who Reg.GLB_RST id })) s

/-- The trial is marked failed in the boot record, and the hub resets. -/
def trialFails (cause : Nat) (s : State) : State :=
  warmReset 3 { s with hub := s.hub.modFwu (fun w => w.setBoot { w.boot with failed := cause }) }

/-- The trial timer reaches 600 s; before that, nothing happens (R392). -/
def execTrialTimeout (s : State) : Host.Outcome State Fault Refusal :=
  .next (if s.hub.fwu.inTrial && decide (600 * 400000000 ≤ s.hub.trialRun) then trialFails 2 s else s)

/-- Firmware in trial writes its record, with its reason, and FWU_CTL.REJECT (R394, R399). -/
def fwuReject (reason : Nat) (s : State) : State :=
  if s.hub.fwu.inTrial then
    trialFails 3 { s with
      hub := s.hub.record s.glob 0x0502 0x7A reason s.hub.fwu.settings.format (imgAux s.hub.fwu.running) 0 }
  else s

/-- Only SE0 to SE3 can write FWU_CTL.REJECT. -/
def execFwuReject (who : Requester) (reason : Nat) (s : State) : Host.Outcome State Fault Refusal := reached who (fun s =>
    .next (match who with
      | .engine e => if e < 4 then fwuReject reason s else { s with hub := s.hub.tryWrite s.glob who Reg.FWU_CTL id }
      | _ => { s with hub := s.hub.tryWrite s.glob who Reg.FWU_CTL id })) s

/-! ## The flash (R387, R389, R396) -/

/-- The last byte of a FW_STAGE is programmed. -/
def Hub.stageDone (h : Hub) (g : Glob) (o : FlashOp) : Hub :=
  match h.desc o.q o.tag with
  | none => h.modFwu (fun w => { w with op := none })
  | some d =>
    let off := d.words.headD 0
    let h1 := h.modFwu (fun w => { w with op := none, bytes := off + d.data.length, staging := w.staging.take off ++ d.data })
    h1.complete g o.q o.tag Status.ok (leBytes 4 (off + d.data.length))

/-- In recovery the staged image goes into the slot that failed. Where the copy verifies, it boots in trial at once; otherwise the hub stays in recovery, as a start with
a copy that fails stays with what it has (R390, R396; DESIGN CHOICE, log entry 12). -/
def Hub.recoveryCopy (h : Hub) (g : Glob) (w : Fwu) (slot : Nat) : Hub :=
  if imgVerifies g.otp w.inUse true (w.image slot) then
    let w1 := w.setBoot { w.boot with slot := slot, trial := true, pending := false, failed := 0, boots := 1, used := 0 }
    (h.modFwu (fun _ => { w1 with op := none, bytes := 0, staging := [] })).startFirmware g slot false
  else
    (h.modFwu (fun _ => { w.setBoot { w.boot with pending := false, outcome := 3 } with op := none, bytes := 0, staging := [] })).fwuEvent g 6

/-- The read-back and the erase of a FW_ACTIVATE end: the activation is pending; in recovery, the image is copied, verified and booted at once. -/
def Hub.activateDone (h : Hub) (g : Glob) (o : FlashOp) : Hub :=
  let w := h.fwu.erase h.fwu.target ((imgSize h.fwu.staging + 65535) / 65536 * 65536)
  if h.fwu.phase = .recovery then (h.recoveryCopy g (w.program h.fwu.target) h.fwu.target).complete g o.q o.tag Status.ok []
  else
    ((h.modFwu (fun _ => { w.setBoot { w.boot with pending := true } with op := none })).fwuEvent g 2).complete g o.q o.tag Status.ok []

/-- The flash operation in progress ends. -/
def Hub.flashDone (h : Hub) (g : Glob) : Hub :=
  match h.fwu.op with
  | none => h
  | some o => (if o.activate then h.activateDone g o else h.stageDone g o).confirmsGo g

def execFlashOperationDone (s : State) : Host.Outcome State Fault Refusal :=
  let t : State := { s with hub := s.hub.flashDone s.glob }
  .next (if s.hub.fwu.phase = .recovery then t.firmwareIn else t)

end Sys2Proof.Machine
end

