-- ==== Sys2Proof/Machine/HostIf.lean ====
section
/-! DEFINITION. Doorbells, fetching, ring control, interrupt mapping and MSI-X (spec/02_host_interface.md; R449, R450, R456). -/

namespace Sys2Proof.Machine

/-! ## Doorbells (R40, R56, R57) -/

/-- A write of SQn_TAIL. A full ring would have its tail at its head, as an empty one has, so the tail that would fill all 2^SIZE entries is refused:
at most 2^SIZE - 1 descriptors are unfetched (DESIGN CHOICE, log entry 21: R57 does not say). -/
def Hub.sqTail (h : Hub) (n value : Nat) : Hub :=
  let q := h.sq n
  let size := h.ringSize (Reg.SQn_CTL n)
  if size ≤ value || size ≤ ringDist size q.head q.tail + ringDist size q.tail value then h.setSq n { q with dbErr := satInc 8 q.dbErr }
  else h.setSq n { q with tail := value }

/-- A write of CQn_HEAD. -/
def Hub.cqHead (h : Hub) (n value : Nat) : Hub :=
  let c := h.cq n
  let size := h.ringSize (Reg.CQn_CTL n)
  let d := ringDist size c.head value
  if size ≤ value || c.used < d then h else h.setCq n { c with head := value, used := c.used - d }

/-- A write of EVQ_HEAD. -/
def Hub.evqHead (h : Hub) (value : Nat) : Hub :=
  let q := h.rings.evq
  let size := h.ringSize Reg.EVQ_CTL
  let d := ringDist size q.head value
  if size ≤ value || q.used < d then h else { h with rings := { h.rings with evq := { q with head := value, used := q.used - d } } }

/-- The ring of a doorbell is enabled. Vector numbers from 64 on spell the reserved doorbells from 0x0400 on, whose writes are ignored
(Table 2.6a). -/
def Hub.doorbellOn (h : Hub) : Doorbell → Bool
  | .sqTail n _ => decide (n < 64) && h.bit (Reg.SQn_CTL n) 0
  | .cqHead n _ => decide (n < 64) && h.bit (Reg.CQn_CTL n) 0
  | .evqHead _ => h.bit Reg.EVQ_CTL 0
  | .rearm v => decide (v < 64)

/-- The 32-bit value of a doorbell write. -/
def Doorbell.value : Doorbell → Nat
  | .sqTail _ v | .cqHead _ v | .evqHead v | .rearm v => v

/-- What a doorbell does; a write of VEC_REARM arms the vector again (R63). -/
def Hub.doorbellEffect (h : Hub) : Doorbell → Hub
  | .sqTail n v => h.sqTail n v
  | .cqHead n v => h.cqHead n v
  | .evqHead v => h.evqHead v
  | .rearm v => h.setVec v { h.vec v with armed := true }

/-- A doorbell write: one that is narrow or not aligned is rejected, at a reserved offset too (R40); one that finds FIFO 0 full waits for credit
(Table 6.7); one to a ring that is not enabled has no effect (R57). -/
def Hub.doorbell (h : Hub) (g : Glob) (whole : Bool) (d : Doorbell) : Hub :=
  if !whole then h.accError
  else if h.fifoFull 0 then { h with rings := { h.rings with doorbells := h.rings.doorbells ++ [d] } }
  else if h.doorbellOn d then (h.doorbellEffect d).fifoPush g 0 d.value else h

/-- The doorbell writes that have waited enter FIFO 0 in their order while it has room. -/
def Hub.doorbellsEnter (h : Hub) : List Doorbell → Hub
  | [] => h
  | d :: ds =>
    if h.fifoFull 0 then { h with rings := { h.rings with doorbells := d :: ds } }
    else if h.doorbellOn d then ((h.doorbellEffect d).fifoPut 0 d.value).doorbellsEnter ds
    else h.doorbellsEnter ds

def execSqTail (n value : Nat) (whole : Bool) (s : State) : Host.Outcome State Fault Refusal := woken 2 (fun s =>
    nextHub s (s.hub.doorbell s.glob whole (.sqTail n value))) s

def execCqHead (n value : Nat) (whole : Bool) (s : State) : Host.Outcome State Fault Refusal := woken 2 (fun s =>
    nextHub s (s.hub.doorbell s.glob whole (.cqHead n value))) s

def execEvqHead (value : Nat) (whole : Bool) (s : State) : Host.Outcome State Fault Refusal := woken 2 (fun s =>
    nextHub s (s.hub.doorbell s.glob whole (.evqHead value))) s

def execVecRearm (v : Nat) (whole : Bool) (s : State) : Host.Outcome State Fault Refusal := woken 2 (fun s =>
    nextHub s (s.hub.doorbell s.glob whole (.rearm v))) s

/-! ## Fetching (R43 to R45, R48, R49, R54, R364, R396) -/

/-- The entries of a completion ring that are reserved for descriptors in flight. -/
def Hub.cqReserved (h : Hub) (c : Nat) : Nat :=
  ((h.rings.sqs.map (fun e => (e.2.inflight.filter (fun d => d.cq == c && !d.silent)).length))).sum

/-- A completion ring has an entry to reserve (R43). -/
def Hub.cqRoom (h : Hub) (c : Nat) : Bool :=
  h.bit (Reg.CQn_CTL c) 0 && decide ((h.cq c).used + h.cqReserved c < h.ringSize (Reg.CQn_CTL c))

/-- The completion ring that a submission ring is bound to. -/
def Hub.boundCq (h : Hub) (n : Nat) : Nat := h.f (Reg.SQn_CTL n) 21 16

/-- A ring has a descriptor that the hub may fetch now. In recovery, the boot ROM serves SQ0 with CQ0 alone (R396). -/
def Hub.fetchable (h : Hub) (n : Nat) : Bool :=
  decide (n < 64) && (h.fwu.phase != .recovery || (n == 0 && h.boundCq 0 == 0)) && h.bit (Reg.SQn_CTL n) 0 && (h.sq n).head != (h.sq n).tail && h.cqRoom (h.boundCq n) &&
    !((h.sq n).fenced && !(h.sq n).inflight.isEmpty) && h.serving .hif && decide (h.power.state ≤ 2)

/-- The round-robin weight of a ring; 0 acts as 1. -/
def Hub.weight (h : Hub) (n : Nat) : Nat := max 1 (h.f (Reg.SQn_CTL n) 27 24)

/-- A ring that takes part in the weighted round robin now. -/
def Hub.inTurn (h : Hub) (n : Nat) : Bool := h.fetchable n && !h.bit (Reg.SQn_CTL n) 1

/-- The ring that the weighted round robin serves next: the one it is serving, up to its weight in descriptors, else the next in ring order
(R45; the form of the round robin is a DESIGN CHOICE, log entry 21). -/
def Hub.turn (h : Hub) : Option Nat :=
  if h.rings.wrrUsed < h.weight h.rings.wrrRing && h.inTurn h.rings.wrrRing then some h.rings.wrrRing
  else ((List.range 64).map (fun k => (h.rings.wrrRing + 1 + k) % 64)).find? h.inTurn

/-- Another ring stands before ring `n`: an express ring, or, for a ring that is not express, the one whose turn it is (R45). -/
def Hub.outranked (h : Hub) (n : Nat) : Bool :=
  (List.range (if h.bit (Reg.SQn_CTL n) 1 then n else 64)).any (fun k => h.bit (Reg.SQn_CTL k) 1 && h.fetchable k) ||
    (!h.bit (Reg.SQn_CTL n) 1 && h.turn != some n)

/-- The round robin has served a ring once more; an express ring takes no part in it. -/
def Hub.served (h : Hub) (n : Nat) : Hub :=
  if h.bit (Reg.SQn_CTL n) 1 then h
  else { h with rings := { h.rings with
    wrrRing := n, wrrUsed := if n = h.rings.wrrRing && h.rings.wrrUsed < h.weight n then h.rings.wrrUsed + 1 else 1 } }

/-- The descriptor as the hub holds it. An ABORT of a ring keeps that ring's tail as it is now (Table 2.6). -/
def Hub.descOf (h : Hub) (g : Glob) (n : Nat) (b : List Byte) : Desc :=
  { tag := (h.sq n).handle (leAt b 4 4), opcode := byteAt b 0, flags := byteAt b 1, bytes := b, cq := h.boundCq n, secure := h.hostSecure g
    phase := .fetched, status := 0, result := [], words := if byteAt b 0 = 0x70 ∧ byteAt b 16 = 1 then [(h.sq (leAt b 18 2)).tail] else []
    data := [], silent := false }

/-- A completion written for a descriptor that the hub does not take up. -/
def Hub.turnedAway (h : Hub) (g : Glob) (n : Nat) (d : Desc) (status orig : Nat) (result : List Byte) : Hub :=
  h.postCompletion g d.cq d.flags
    { tag := d.tag % 2 ^ 32, status := status, orig := orig, sq := n, phase := false, sqHead := (h.sq n).head, result := padTo 16 result }

/-- A fetched descriptor is completed at once, or taken up: it enters the duplicate window and waits for its own command. A malformed descriptor whose
EPOCH and TAG match an entry of the window completes with INVALID and not with DUPLICATE: R49 is judged before R54 (DESIGN CHOICE, log entry 21: the
manual gives no order). -/
def Hub.takeUp (h : Hub) (g : Glob) (n : Nat) (d : Desc) : Hub :=
  if !descValid d.bytes || leAt d.bytes 8 2 != h.f (Reg.SQn_EPOCH n) 15 0 then h.turnedAway g n d Status.invalid 0 []
  else match (h.sq n).recall d.tag with
    | some e => h.turnedAway g n d Status.duplicate (e.status.getD Status.busy) e.result
    | none =>
      let h1 := h.setSq n { h.sq n with inflight := (h.sq n).inflight ++ [d], window := windowAccept (h.sq n).window d.tag }
      if h.fwu.phase = .recovery && d.opcode != 0x50 && d.opcode != 0x51 then h1.complete g n d.tag Status.busy []
      else if h.pairRefuses d.bytes then h1.complete g n d.tag Status.conflict []
      else h1

/-- The hub fetches the next descriptor of a ring, whose 64 bytes are `bytes`. A fenced one stays unfetched until every earlier one has completed. -/
def Hub.fetch (h : Hub) (g : Glob) (n : Nat) (bytes : List Byte) : Hub :=
  if !h.fetchable n || h.outranked n then h
  else
    let b := padTo 64 bytes
    let q := h.sq n
    if bitOf (byteAt b 1) 0 && !q.inflight.isEmpty then h.setSq n { q with fenced := true }
    else (((h.setSq n { q with fenced := false, head := (q.head + 1) % h.ringSize (Reg.SQn_CTL n) }).served n).emit
      (.descRead n (h.ringAddr (Reg.SQn_BASE_LO n) (Reg.SQn_BASE_HI n) + 64 * q.head))).takeUp g n (h.descOf g n b)

/-- `lines` are the errors that the look into the duplicate window meets, in bank 17: after a double error no descriptor is fetched (R22, R149). -/
def execDescriptorFetch (n : Nat) (bytes : List Byte) (lines : List (Nat × LineErr)) (s : State) : Host.Outcome State Fault Refusal :=
  let t := s.ownLines .hif 17 1 lines
  nextHub t (t.hub.fetch s.glob n bytes)

/-! ## Direct writes refused (R65) -/

/-- A direct write of a register: class L, S and D registers refuse it and count it (R65); a class F register has a row of its own for its
writes, and this command leaves it as it is. -/
def execDirectWriteRefused (who : Requester) (off _value : Nat) (s : State) : Host.Outcome State Fault Refusal := reached who (fun s =>
    nextHub s (s.hub.tryWrite s.glob who off id)) s

/-! ## Ring control (R42, R43, R47, R54) -/

/-- The SIZE of a ring control value is one that an enable accepts. -/
def sizeOk (value : Nat) : Bool := decide (4 ≤ fieldOf value 12 8 ∧ fieldOf value 12 8 ≤ 16)

/-- The value that a ring control register takes: SIZE stays while EN is 1. -/
def Hub.ctlValue (h : Hub) (off value : Nat) : Nat :=
  let v := mergeRw (h.n off) value (rwMask off)
  if h.bit off 0 then putField v 12 8 (h.f off 12 8) else v

/-- A write of SQn_CTL. -/
def Hub.sqCtl (h : Hub) (n value : Nat) : Hub :=
  let off := Reg.SQn_CTL n
  if bitOf value 0 && !h.bit off 0 then
    if sizeOk value then
      (h.wrN off (h.ctlValue off value)).setSq n { h.sq n with head := 0, tail := 0, cfgErr := false, dbErr := 0, fenced := false }
    else h.setSq n { h.sq n with cfgErr := true }
  else h.wrN off (h.ctlValue off value)

/-- A submission ring bound to a completion ring is enabled. -/
def Hub.cqInUse (h : Hub) (n : Nat) : Bool := (List.range 64).any (fun q => h.bit (Reg.SQn_CTL q) 0 && h.boundCq q == n)

/-- A write of CQn_CTL. -/
def Hub.cqCtl (h : Hub) (n value : Nat) : Hub :=
  let off := Reg.CQn_CTL n
  if bitOf value 0 && !h.bit off 0 then
    if sizeOk value then
      (h.wrN off (h.ctlValue off value)).setCq n { tail := 0, phase := true, head := 0, used := 0, cfgErr := false }
    else h.setCq n { h.cq n with cfgErr := true }
  else if !bitOf value 0 && h.bit off 0 && h.cqInUse n then h
  else h.wrN off (h.ctlValue off value)

/-- A write of EVQ_CTL. -/
def Hub.evqCtl (h : Hub) (value : Nat) : Hub :=
  let off := Reg.EVQ_CTL
  if bitOf value 0 && !h.bit off 0 then
    if sizeOk value then
      let h1 := h.wrN off (h.ctlValue off value)
      { h1 with rings := { h1.rings with
          evq := { h1.rings.evq with tail := 0, phase := true, head := 0, used := 0, cfgErr := false, lost := 0 } } }
    else { h with rings := { h.rings with evq := { h.rings.evq with cfgErr := true } } }
  else h.wrN off (h.ctlValue off value)

/-- A write of SQn_EPOCH: without effect while the ring is enabled; a different value clears the duplicate window. -/
def Hub.sqEpoch (h : Hub) (n value : Nat) : Hub :=
  let off := Reg.SQn_EPOCH n
  if h.bit (Reg.SQn_CTL n) 0 then h
  else if value % 65536 = h.f off 15 0 then h
  else (h.putF off 15 0 value).setSq n { h.sq n with window := [] }

def execSqCtlWrite (who : Requester) (n value : Nat) (s : State) : Host.Outcome State Fault Refusal := reached who (fun s =>
    nextHub s (if n < 64 then s.hub.tryWrite s.glob who (Reg.SQn_CTL n) (fun h => h.sqCtl n value) else s.hub)) s

def execCqCtlWrite (who : Requester) (n value : Nat) (s : State) : Host.Outcome State Fault Refusal := reached who (fun s =>
    nextHub s (if n < 64 then s.hub.tryWrite s.glob who (Reg.CQn_CTL n) (fun h => h.cqCtl n value) else s.hub)) s

def execEvqCtlWrite (who : Requester) (value : Nat) (s : State) : Host.Outcome State Fault Refusal := reached who (fun s =>
    nextHub s (s.hub.tryWrite s.glob who Reg.EVQ_CTL (fun h => h.evqCtl value))) s

def execSqEpochWrite (who : Requester) (n value : Nat) (s : State) : Host.Outcome State Fault Refusal := reached who (fun s =>
    nextHub s (if n < 64 then s.hub.tryWrite s.glob who (Reg.SQn_EPOCH n) (fun h => h.sqEpoch n value) else s.hub)) s

/-! ## Interrupts (R63, R449, R450, R456) -/

/-- The RW fields of a register take a write. -/
def Hub.writeRw (h : Hub) (off value : Nat) : Hub := h.wrN off (mergeRw (h.n off) value (rwMask off))

def execIntSrcMapWrite (who : Requester) (n value : Nat) (s : State) : Host.Outcome State Fault Refusal := reached who (fun s =>
    nextHub s (if n < 128 then s.hub.tryWrite s.glob who (Reg.INT_SRC_MAPn n) (fun h => h.writeRw (Reg.INT_SRC_MAPn n) value) else s.hub)) s

/-- A vector is asserted: a source mapped to it with EN 1 has its pending bit set. -/
def Hub.asserted (h : Hub) (v : Nat) : Bool :=
  (List.range 128).any (fun n => h.f (Reg.INT_SRC_MAPn n) 5 0 == v && h.bit (Reg.INT_SRC_MAPn n) 8 && h.pending n)

/-- HOLDOFF has passed since the vector's last message. -/
def Hub.holdoffOver (h : Hub) (v : Nat) : Bool := match (h.vec v).lastMsg with
  | none => true
  | some t => decide (t + h.f (Reg.INT_VEC_CTLv v) 9 0 * cyclesPerUs ≤ h.clock)

/-- A vector sends its message, or, masked, disarms and holds it in the PBA. -/
def Hub.msixGo (h : Hub) (v : Nat) : Hub :=
  let x := h.vec v
  let due := x.armed && h.asserted v
  if 63 < v || !h.rings.msixEn || !h.holdoffOver v || !h.serving .int then h
  else if x.mask || h.rings.fmask then
    if due then h.setVec v { x with armed := false, pba := true } else h
  else if due || x.pba then
    (h.setVec v { x with armed := x.armed && !due, pba := false, lastMsg := some h.clock }).emit (.msix v x.addr x.data)
  else h

def execMsixMessage (v : Nat) (s : State) : Host.Outcome State Fault Refusal := nextHub s (s.hub.msixGo v)

/-- The MSI-X Enable and Function Mask bits change. -/
def execMsixCapabilityWrite (enable fmask : Bool) (s : State) : Host.Outcome State Fault Refusal := wokenWhen Hub.linkInL12 2 (fun s =>
    nextHub s { s.hub with rings := { s.hub.rings with msixEn := enable, fmask := fmask } }) s

/-- One 32-bit word of the MSI-X table (Table 20.2). -/
def Hub.msixWord (h : Hub) (off v : Nat) : Hub :=
  let k := off / 16
  let x := h.vec k
  if 0x400 ≤ off then h
  else match off / 4 % 4 with
    | 0 => h.setVec k { x with addr := x.addr / 2 ^ 32 * 2 ^ 32 + v / 4 * 4 }
    | 1 => h.setVec k { x with addr := x.addr % 2 ^ 32 + v * 2 ^ 32 }
    | 2 => h.setVec k { x with data := v }
    | _ => h.setVec k { x with mask := bitOf v 0 }

/-- The 32-bit writes of `k` consecutive words of BAR4, in ascending order (R39). -/
def Hub.msixWords (h : Hub) (off value : Nat) : Nat → Hub
  | 0 => h
  | k + 1 => (h.msixWord off (value % 2 ^ 32)).msixWords (off + 4) (value / 2 ^ 32) k

/-- An access of `size` bytes to BAR4 is accepted: one or two doublewords naturally aligned, or more of them, as 32-bit accesses (R39, R450). -/
def msixForm (off size : Nat) : Bool := size % 4 == 0 && size != 0 && off % (if size = 8 then 8 else 4) == 0

/-- A write of `size` bytes to BAR4. -/
def Hub.msixTable (h : Hub) (off value size : Nat) : Hub :=
  if msixForm off size then h.msixWords off value (size / 4) else h.accError

/-- One 32-bit word of BAR4 as it reads: the table, and the PBA at 0x0800, with bit v for vector v; other offsets read zero (R449, Table 20.2). -/
def Hub.msixRead (h : Hub) (off : Nat) : Nat :=
  let x := h.vec (off / 16)
  if off < 0x400 then
    match off / 4 % 4 with
    | 0 => x.addr % 2 ^ 32
    | 1 => x.addr / 2 ^ 32
    | 2 => x.data
    | _ => b2n x.mask
  else if off = 0x800 ∨ off = 0x804 then ((List.range 32).map (fun k => b2n (h.vec (8 * (off - 0x800) + k)).pba * 2 ^ k)).sum
  else 0

/-- A read of `size` bytes of BAR4: of less than a doubleword, the addressed bytes; of doublewords, consecutive ones; one that is not accepted is counted and what
it returns is left open (R39, R450). -/
def Hub.bar4Read (h : Hub) (off size : Nat) : List Byte × Hub :=
  if (size = 1 || size = 2) && off % size = 0 then ((leBytes 4 (h.msixRead (off / 4 * 4))).drop (off % 4) |>.take size, h)
  else if msixForm off size then ((List.range (size / 4)).flatMap (fun k => leBytes 4 (h.msixRead (off + 4 * k))), h)
  else ((List.range size).map (fun k => BitVec.ofNat 8 (h.freeAt k)), (h.drew size).accError)

def execMsixTableWrite (off value size : Nat) (s : State) : Host.Outcome State Fault Refusal := woken 2 (fun s =>
    nextHub s (s.hub.msixTable off value size)) s

end Sys2Proof.Machine
end

