-- ==== Sys2Proof/Machine/RegWrite.lean ====
section
/-! DEFINITION. A write of any register by any requester (R4 to R8, R39, R42, R47, R65, R66): what each register of class F does with it. -/

namespace Sys2Proof.Machine

/-- The base of a ring takes a write while the ring is not enabled (R42). -/
def Hub.ringBase (h : Hub) (ctl off value : Nat) : Hub := if h.bit ctl 0 then h else h.writeRw off value

/-- Bits of a W1C field written 1 (R5). -/
def clearBits (old value : Nat) : Nat := old - (old &&& value)

/-- Something happens where a bit of the value written is 1. -/
def whenBit (value i : Nat) (k : Hub → Hub) (h : Hub) : Hub := if bitOf value i then k h else h

/-- What a write of a class F register does within the hub. -/
def Hub.writeF (h : Hub) (g : Glob) (who : Requester) (d : RegDesc) (i off value : Nat) : Hub :=
  match d.id with
  | .GLB_FLT_STATUS => { h with power := { h.power with isoEvt := clearBits h.power.isoEvt (value % 256) } }
  | .GLB_NSH_HINT => h.hintWrite value
  | .GLB_LNK_CLR => whenBit value 0 Hub.linkClear h
  | .INT_PENDk => h.wrN off (clearBits (h.n off) (value % 2 ^ 32))
  | .HIF_ACC_ERR => whenBit value 31 (fun h => h.putF off 15 0 0) h
  | .SQn_BASE_LO | .SQn_BASE_HI => h.ringBase (Reg.SQn_CTL i) off value
  | .SQn_CTL => h.sqCtl i value
  | .SQn_EPOCH => h.sqEpoch i value
  | .CQn_BASE_LO | .CQn_BASE_HI => h.ringBase (Reg.CQn_CTL i) off value
  | .CQn_CTL => h.cqCtl i value
  | .EVQ_BASE_LO | .EVQ_BASE_HI => h.ringBase Reg.EVQ_CTL off value
  | .EVQ_CTL => h.evqCtl value
  | .EVQ_STATUS => whenBit value 17 (fun h => { h with rings := { h.rings with evq := { h.rings.evq with ovf := false } } }) h
  | .CMT_DIRECT => whenBit value 31 (fun h => h.putF off 15 0 0) h
  | .CMT_TBL_BASE_LO | .CMT_TBL_BASE_HI => if h.commit.baseFixed then h else h.writeRw off value
  | .SCNp_FB_ARM => whenBit value 0 (fun h => h.fbArmGo g i (armRank who)) (whenBit value 31 (fun h => h.fbArmClr i) h)
  | .CAL_MSR_CTL => whenBit value 0 (fun h => h.msrEnd g Status.aborted) h
  | .SPRe_CTL => h.sprCtl g i value
  | .SPRe_STERR => whenBit value 31 (fun h => h.modEng i (fun x => { x with sterr := 0, told := false })) h
  | .PMU_CTL => whenBit value 1 Hub.pmuClearAll (h.putBit off 0 (bitOf value 0))
  | .PMUe_CNT_CTL => whenBit value 1 (fun h => h.pmuClearEngine i) (h.putBit off 0 (bitOf value 0))
  | .PMU_SCNp_CTL => whenBit value 0 (fun h => h.pmuClearSet (.pipe i)) h
  | .PMU_NSHn_CTL => whenBit value 0 (fun h => h.pmuClearSet (.port i)) h
  | .PMU_COL_CTL => whenBit value 0 (fun h => h.pmuClearSet .col) h
  | .FWU_CTL => whenBit value 0 (fun h => h.putBit off 0 true) (h.tileAuto (bitOf value 2))
  | .CRN_CLR => h.crnClr g who (bitOf value 0) (bitOf value 1)
  | .CRN_STATUS => whenBit value 31 (fun h => { h with cairn := { h.cairn with snapLost := 0 } }) h
  | .CRN_TRIG => h.crnTrig g who (value % 65536)
  | _ => h.writeRw off value

/-- An engine that may write FWU_CTL.REJECT. -/
def Requester.service : Requester → Bool
  | .engine e => decide (e < 4)
  | _ => false

/-- A write of a class F register that a requester may write. The record of a REJECT by this way takes its reason from nowhere: a free value. -/
def writeClassF (who : Requester) (d : RegDesc) (i off value : Nat) (s : State) : State :=
  match d.id with
  | .GLB_RST => if bitOf value 0 then warmReset 2 s else s
  | .GLB_FLT_CTL =>
    if bitOf value 0 then { s with glob := (enterSafe 7 (s.glob, s.hub)).1, hub := (enterSafe 7 (s.glob, s.hub)).2 } else s
  | .PWR_CTL => pwrCtl value s
  | .PWR_DOM_CTL => domCtlWrite value s
  | .FWU_CTL =>
    let s1 := { s with hub := s.hub.writeF s.glob who d i off value }
    if bitOf value 1 && who.service then fwuReject (s1.hub.freeAt 0 % 2 ^ 32) { s1 with hub := s1.hub.drew 1 } else s1
  | _ => { s with hub := s.hub.writeF s.glob who d i off value }

/-- A 32-bit write of an offset by a requester: refused by world or by class, ignored where no register lies, or done (R8, R39, R65). -/
def regWrite (who : Requester) (off value : Nat) (s : State) : State :=
  match s.hub.accessAt s.glob who off with
  | .absent => s
  | .denied => { s with hub := s.hub.violation s.glob 3 off true who.unit }
  | .ok d i _ =>
    if d.cls = .f then (if d.writable then writeClassF who d i off (value % 2 ^ 32) s else s)
    else { s with hub := s.hub.directRefused s.glob off }

/-- The 32-bit writes of a longer one, in ascending address order (R39). -/
def regWrites (who : Requester) (off value : Nat) : Nat → State → State
  | 0, s => s
  | k + 1, s => regWrites who (off + 4) (value / 2 ^ 32) k (regWrite who off (value % 2 ^ 32) s)

/-- A write of `size` bytes. The host's that is narrow or not aligned is counted and has no effect; one of a
block that is off or isolated is not counted (R23, R447). That holds at an offset without a register too,
where the second and the fourth bullet of R39 both apply (DESIGN CHOICE, log entry 21). -/
def registerWrite (who : Requester) (off value size : Nat) (s : State) : State :=
  if size % 4 ≠ 0 || off % 4 ≠ 0 || size = 0 then (if who = .host && !s.hub.shutOff off then { s with hub := s.hub.accError } else s)
  else if size = 4 || who = .host then regWrites who off value (size / 4) s
  else s

def execRegisterWrite (who : Requester) (off value size : Nat) (s : State) : Host.Outcome State Fault Refusal := reached who (fun s =>
    .next (registerWrite who off value size s)) s

end Sys2Proof.Machine
end

