-- ==== Sys2Proof/Machine/Ranges.lean ====
section
/-! DEFINITION. The range of every field that can be staged (step 3 of Table 3.5; the register sections of every chapter). The conditions that R170 and
R297 give for an enabled group and MAC, and R404, are judged with the rules of step 6 (DEDUCED, log entry 15). -/

namespace Sys2Proof.Machine

/-- A field lies between two bounds. -/
def within (v hi lo a b : Nat) : Bool := decide (a ≤ fieldOf v hi lo ∧ fieldOf v hi lo ≤ b)

/-- The options of a PTP instance (Table 4.7). -/
def ptpRange (v : Nat) : Bool :=
  let sync := signed 4 (fieldOf v 27 24)
  let ann := signed 4 (fieldOf v 31 28)
  within v 6 5 0 2 && within v 8 7 0 1 && within v 15 12 2 10 && within v 23 16 0 127 &&
    (if bitOf v 4 then decide (-7 ≤ sync ∧ sync ≤ -1 ∧ -3 ≤ ann ∧ ann ≤ 1) else decide (-1 ≤ sync ∧ sync ≤ 1 ∧ 0 ≤ ann ∧ ann ≤ 4))

/-- The fields of a value staged for a register lie in their ranges. -/
def fieldRange (r : RegId) (v : Nat) : Bool :=
  match r with
  | .TBt_CTL => within v 11 8 0 10
  | .TBt_LIMITS => within v 19 0 10 1000000 && within v 31 20 1 4095
  | .TBt_TRIM => decide (-128000000 ≤ signed 32 v ∧ signed 32 v ≤ 128000000)
  | .TBt_PTP => ptpRange v
  | .TIO_PINp_CFG => within v 3 0 0 7
  | .ING_FLOWf_CTL => within v 7 6 0 2 && within v 9 8 0 2 && within v 15 14 0 2
  | .ING_FLOWf_GEOM => within v 13 0 64 8192 && within v 29 16 64 8192
  | .ING_FLOWf_PKT => within v 19 0 1 1048575 && within v 31 20 64 1460
  | .ING_FLOWf_JB => within v 7 0 0 128
  | .ING_FLOWf_RING_HI => within v 7 4 3 8
  | .ING_FLOWf_PITCH => fieldOf v 17 0 % 64 == 0
  | .ING_SACN_CTL => within v 27 20 1 255
  | .MEM_SCRUB => within v 11 1 1 1440
  | .MEM_QOS => within v 7 0 1 255
  | .MEM_FIFOi_CTL => within v 4 0 0 16
  | .SCNp_CTL => within v 6 5 0 2
  | .SCNp_SRC_GEOM => within v 13 0 1 8192 && within v 29 16 1 8192
  | .SCNp_SRC_PITCH => fieldOf v 17 0 % 64 == 0
  | .SCNp_BRIGHT => within v 16 0 0 65536
  | .CAL_STAT_TIME => within v 7 0 1 255 && within v 15 8 1 255 && within v 31 16 60 65535
  | .CAL_PGg_CTL => within v 11 2 1 1023
  | .CAL_PIPEp_CTL => within v 9 2 0 128
  | .NSHn_SHIFT => within v 5 0 1 40 && within v 15 8 1 255 && within v 23 16 1 128
  | .NSHn_PROTO => within v 7 0 1 255 && within v 12 8 1 31 && within v 23 16 1 255
  | .FIX_CTL => within v 15 8 1 255
  | .FIX_PGg_CTL => within v 4 0 1 16
  | .FIX_PGg_QUOTA => within v 20 0 0 1048576
  | .FIX_CUEc_CNT => within v 17 0 0 131072
  | .ODLr_CTL => within v 5 3 0 6 && within v 15 13 1 7
  | .ODLr_GUARD => within v 11 0 16 4095 && within v 19 12 1 255
  | .ODLr_LEASE => within v 7 0 1 255 && within v 11 8 1 15 && within v 27 12 1 65535
  | .COL_LVLl_CTL => within v 12 0 0 4096 && within v 28 16 0 4096
  | .COL_TALUSt_CTL => within v 9 0 1 1000 && within v 26 16 0 1024
  | .SDL_CTL => within v 7 4 1 15 && within v 15 8 1 255
  | .SQn_CTL | .CQn_CTL | .EVQ_CTL => within v 12 8 4 16
  | .SPRe_LEN => within v 15 0 1 32768 && within v 31 16 0 32768
  | .PMUe_EVSELk => within v 28 16 0 4096
  | .PWR_THERM_CTL => within v 7 0 0 125
  | .CRN_SETs_REGk => fieldOf v 15 0 % 4 == 0
  | _ => true

/-! ## Formats of tables (R133, R174, R175, R246, R271, R272) -/

/-- Bytes from `off`, `n` of them, are zero. -/
def zeroRun (b : List Byte) (off n : Nat) : Bool := ((b.drop off).take n).all (· == 0)

/-- A span keeps to Table 7.2. -/
def spanFormat (b : List Byte) (i : Nat) : Bool :=
  let s := rmSpan b i
  decide (s.x ≤ 8191 ∧ s.y ≤ 8191 ∧ 1 ≤ s.count ∧ s.count ≤ 8192 ∧ s.tile ≤ 127 ∧ s.flags ≤ 7) && zeroRun b (rmBase b + 16 * i + 10) 6

/-- A region map keeps to Tables 7.1 and 7.2. -/
def regionFormat (b : List Byte) : Bool :=
  decide (32 ≤ b.length) && leAt b 0 4 == 1 && zeroRun b 6 2 && zeroRun b 12 20 && b.length == rmBase b + 16 * rmSpans b &&
    (rmLines b == 0 || rmFirst b 0 == 0) &&
    (List.range (rmLines b)).all (fun l => decide (rmFirst b l ≤ rmSpans b) && (l == 0 || decide (rmFirst b (l - 1) ≤ rmFirst b l))) &&
    (List.range (rmSpans b)).all (spanFormat b)

/-- A tile record keeps to Table 10.3. -/
def tileFormat (b : List Byte) (t : Nat) : Bool :=
  let r := tmRec b t
  decide (byteAt r 0 ≤ 1) && zeroRun r 1 1 && zeroRun r 20 236 &&
    (if tmType b t = 1 then tmWidth b t == 1 && tmPixels b t == 0
     else decide (1 ≤ tmWidth b t ∧ 1 ≤ tmPixels b t ∧ tmPixels b t ≤ 65536)) &&
    (decide (tmTwStart b t < tmTwEnd b t) || (tmTwStart b t == 0 && tmTwEnd b t == 0))

/-- A tile map keeps to Tables 10.2 and 10.3. -/
def tileMapFormat (b : List Byte) : Bool :=
  leAt b 0 4 == 1 && decide (1 ≤ tmTiles b ∧ tmTiles b ≤ 128 ∧ tmChain b ≤ 2) &&
    (if tmChain b = 2 then decide (tmFar b ≤ 31) else tmFar b == 0) && b.length == 768 * (tmTiles b + 1) && zeroRun b 7 761 &&
    (List.range (tmTiles b)).all (tileFormat b)

/-- Bits [31:20] of every entry of the curves are zero (R175). -/
def lutFormat (b : List Byte) : Bool := b.length == 32768 && (List.range 8192).all (fun i => decide (leAt b (4 * i) 4 < 2 ^ 20))

/-- A parameter entry keeps to Table 11.2. -/
def parFormat (e : Nat) : Bool := decide (parWidth e ≤ 2) && !bitOf e 3 && fieldOf e 15 13 == 0 && fieldOf e 30 25 == 0

/-- A fixture record keeps to Table 11.2; of one that is not enabled, only the bits that must be zero are looked at (R272). -/
def fixtureFormat (r : List Byte) : Bool :=
  zeroRun r 12 20 && decide (byteAt r 3 ≤ 1) &&
    (!fxOn r || decide (fxGroup r ≤ 7 ∧ 1 ≤ fxDmx r ∧ fxDmx r ≤ 512 ∧ fxUniv r ≤ 8191 ∧ 1 ≤ fxSacn r ∧ fxSacn r ≤ 512))

/-- An output record keeps to Table 11.2. -/
def outputFormat (r : List Byte) : Bool :=
  decide (outRoute r ≤ 1 ∧ outOut r ≤ 15 ∧ 1 ≤ outSlots r ∧ outSlots r ≤ 512) && zeroRun r 5 1 && zeroRun r 8 8 &&
    (if outRoute r = 0 then decide (outPort r ≤ 31 ∧ outNode r ≤ 127) else decide (outPort r ≤ 1))

/-- A fixture patch keeps to Table 11.2. -/
def patchFormat (b : List Byte) : Bool :=
  decide (64 ≤ b.length) && leAt b 0 4 == 1 && decide (fpFixtures b ≤ 131072 ∧ fpProfiles b ≤ 1024 ∧ fpOutputs b ≤ 16384) && zeroRun b 12 52 &&
    b.length == 64 + 256 * fpProfiles b + 32 * fpFixtures b + 16 * fpOutputs b &&
    (List.range (fpProfiles b)).all (fun p => (List.range 64).all (fun i => parFormat (parEntry b p i))) &&
    (List.range (fpFixtures b)).all (fun f => fixtureFormat (fxRec b f)) && (List.range (fpOutputs b)).all (fun o => outputFormat (outRec b o))

/-- A universe table keeps to Table 5.4 (R133). -/
def universeFormat (b : List Byte) : Bool :=
  b.length == 1048576 && (List.range 8192).all (fun u =>
    decide (byteAt (utEntry b u) 2 ≤ 1) && zeroRun (utEntry b u) 3 61 && (!utOn b u || decide (1 ≤ utNumber b u ∧ utNumber b u ≤ 63999)))

/-- A staged table follows the format and the length of its kind (Table 3.3). -/
def tableFormat (id : Nat) (b : List Byte) : Bool :=
  match id / 2 ^ 24 with
  | 1 => regionFormat b
  | 2 => tileMapFormat b
  | 3 => lutFormat b
  | 4 => patchFormat b
  | 5 => universeFormat b
  | _ => false

/-! ## Step 3 -/

/-- A register, and a table, as a party to a rule. -/
def regP (off : Nat) : Bool × Nat := (false, off)
def tblP (id : Nat) : Bool × Nat := (true, id)

/-- A rule that a set breaks, with its parties. -/
def broken (c : Bool) (parties : Finding) : List Finding := if c then [parties] else []

/-- The flows that are enabled. -/
def Hub.flowsOn (h : Hub) : List Nat := (List.range 32).filter (fun f => h.bit (Reg.ING_FLOWf_CTL f) 0)

/-- The settings of an enabled flow that lie outside Table 5.2 and its register fields, PERIOD_NS among them (R120, R127). That an enabled flow's GEOM, PKT,
RING_HI and PITCH are judged at step 3 where the set does not write them too is the model's choice (DESIGN CHOICE, log entry 15). -/
def Hub.flowRanges (o : Hub) (f : Nat) : List Finding :=
  let ctl := regP (Reg.ING_FLOWf_CTL f)
  broken (!fieldRange .ING_FLOWf_GEOM (o.n (Reg.ING_FLOWf_GEOM f))) [regP (Reg.ING_FLOWf_GEOM f), ctl] ++
    broken (!fieldRange .ING_FLOWf_PKT (o.n (Reg.ING_FLOWf_PKT f))) [regP (Reg.ING_FLOWf_PKT f), ctl] ++
    broken (!within (o.n (Reg.ING_FLOWf_PERIOD f)) 31 0 1000000 1000000000) [regP (Reg.ING_FLOWf_PERIOD f), ctl] ++
    broken (!fieldRange .ING_FLOWf_RING_HI (o.n (Reg.ING_FLOWf_RING_HI f))) [regP (Reg.ING_FLOWf_RING_HI f), ctl] ++
    broken (!fieldRange .ING_FLOWf_PITCH (o.n (Reg.ING_FLOWf_PITCH f))) [regP (Reg.ING_FLOWf_PITCH f), ctl]

/-- The genlock period of a base that takes it (TBt_GEN_NS). -/
def Hub.genRange (o : Hub) (t : Nat) : List Finding :=
  broken (o.f (Reg.TBt_CTL t) 1 0 == 3 && !within (o.n (Reg.TBt_GEN_NS t)) 31 0 1000000 1000000000) [regP (Reg.TBt_GEN_NS t), regP (Reg.TBt_CTL t)]

/-- The ranges of the fields of a group that the set leaves disabled, of those that it writes; R170 has them judged at step 6 for an enabled group. -/
def Hub.idleGroup (o : Hub) (pg off : Nat) : Bool :=
  let period := o.n (Reg.PGg_PERIOD_NS pg) * 65536 + o.f (Reg.PGg_FRAC pg) 15 0
  let v := o.f (Reg.PGg_RASTER pg) 13 0
  let a := o.f (Reg.PGg_RASTER pg) 29 16
  let l := o.f (Reg.PGg_APPLY pg) 13 0
  (off == Reg.PGg_CTL pg && !within (o.n off) 25 16 5 1000) ||
    (off == Reg.PGg_PERIOD_NS pg && !within (o.n off) 31 0 4166666 41666666) ||
    ((off == Reg.PGg_PHASE_NS pg || off == Reg.PGg_FRAC pg) &&
      decide (period ≤ o.n (Reg.PGg_PHASE_NS pg) * 65536 + o.f (Reg.PGg_FRAC pg) 31 16)) ||
    (off == Reg.PGg_RASTER pg && !decide (16 ≤ v ∧ 1 ≤ a ∧ a + 1 ≤ v)) ||
    (off == Reg.PGg_APPLY pg && !decide (l = 0 ∨ l + 3 ≤ v))

/-- The ranges of the fields of a MAC that the set leaves disabled, of those that it writes; R297 has them judged at step 6 for an enabled MAC. -/
def Hub.idleRadio (o : Hub) (r off : Nat) : Bool :=
  let c := o.n (Reg.ODLr_CTL r)
  (off == Reg.ODLr_CTL r && (!within c 12 8 11 26 || (fieldOf c 15 13 != 0 && fieldOf c 20 16 % fieldOf c 15 13 != 0))) ||
    (off == Reg.ODLr_PAN r && o.f off 15 0 == 0xFFFF) ||
    (off == Reg.ODLr_PHASE r && decide (15625000 * 2 ^ fieldOf c 5 3 ≤ o.n off)) ||
    (off == Reg.ODLr_GUARD r && decide (o.f off 31 20 < o.f off 11 0))

/-- The offsets that the set writes with a value outside a range that only holds together with another field, of a group or MAC not enabled. -/
def Hub.idleRange (o : Hub) (off : Nat) : Bool :=
  (List.range 8).any (fun pg => !o.groupOn pg && o.idleGroup pg off) || (List.range 2).any (fun r => !o.bit (Reg.ODLr_CTL r) 0 && o.idleRadio r off)

/-- The offsets that the set writes. -/
def Hub.stagedOffs (h : Hub) : List Nat := (h.commit.stagedWrites.map (·.off)).eraseDups

/-- What fails at step 3: `o` is the configuration as it will stand after the apply. -/
def Hub.rangeFindings (h o : Hub) : List Finding :=
  (h.stagedOffs.filter (fun off => match Reg.at off, h.stagedWrite off with
    | some (d, _, _), some v => !fieldRange d.id v
    | _, _ => false)).map (fun off => [regP off]) ++
  (h.stagedOffs.filter o.idleRange).map (fun off => [regP off]) ++
  (h.stagedIds.filter (fun id => !tableFormat id (h.stagedTable id))).map (fun id => [tblP id]) ++
  (o.flowsOn.map o.flowRanges).flatten ++ ((List.range 4).map o.genRange).flatten

end Sys2Proof.Machine
end

