-- ==== Sys2Proof/Machine/Claims.lean ====
section
/-! DEFINITION. The shared resources and their claimants (R76; Tables 3.6 and 3.7). -/

namespace Sys2Proof.Machine

/-- A claim: the resource, the claimant, and the registers and tables that make it. -/
structure Claim where
  res     : Nat
  who     : Nat
  parties : Finding
deriving DecidableEq, Repr

/-- A claim that holds when a condition does. -/
def claimIf (c : Bool) (res who : Nat) (parties : Finding) : List Claim := if c then [{ res := res, who := who, parties := parties }] else []

/-- The claims of a range of DRAM: every 1 MiB unit it touches. -/
def dramClaims (a n who : Nat) (parties : Finding) : List Claim :=
  if n = 0 then [] else
  (List.range ((a + n - 1) / 2 ^ 20 + 1 - a / 2 ^ 20)).map (fun i => { res := 0x06000000 + a / 2 ^ 20 + i, who := who, parties := parties })

/-- A pin drives an edge from a compare unit: a camera trigger or an edge output that names it. -/
def Hub.pinNames (o : Hub) (p c : Nat) : Bool := (o.pinFunc p == 3 || o.pinFunc p == 7) && o.pinCmp p == c

/-- The claimant of a pin function (Table 4.9). -/
def pinClaimant (func p : Nat) : Nat := [0, 0x0600, 0x0600, 0x0400, 0x0700, 0x0800, 0x0900, 0x1200].getD func 0 + p

/-- The claims on pins and compare units (R109, R209, R433). -/
def Hub.pinClaims (o : Hub) : List Claim :=
  ((List.range 8).map (fun p =>
    claimIf (decide (1 ≤ o.pinFunc p ∧ o.pinFunc p ≤ 7)) (0x01000000 + p) (pinClaimant (o.pinFunc p) p) [regP (Reg.TIO_PINp_CFG p)] ++
    claimIf (o.pinFunc p == 3 || o.pinFunc p == 7) (0x02000000 + o.pinCmp p) (pinClaimant (o.pinFunc p) p) [regP (Reg.TIO_PINp_CFG p)])).flatten ++
  ((List.range 16).map (fun c =>
    claimIf (o.bit (Reg.TIM_CMPc_CTL c) 0 && !(List.range 8).any (fun p => o.pinNames p c)) (0x02000000 + c) 0x0B00
      (regP (Reg.TIM_CMPc_CTL c) :: (List.range 8).map (fun p => regP (Reg.TIO_PINp_CFG p))))).flatten ++
  claimIf (o.bit Reg.CAL_CTL 2) (0x02000000 + o.f Reg.CAL_CTL 17 14) 0x1100 [regP Reg.CAL_CTL]

/-- The claims on line-buffer pairs (R171, R209, R215). -/
def Hub.lineClaims (o : Hub) : List Claim :=
  ((List.range 32).map (fun p => claimIf (o.pipeOn p) (0x03000000 + p) (0x0100 + p) [regP (Reg.SCNp_CTL p)])).flatten ++
  claimIf (o.bit Reg.CAL_CTL 0) (0x03000000 + o.f Reg.CAL_CTL 8 4) 0x0500 [regP Reg.CAL_CTL] ++
  claimIf (o.bit Reg.CAL_CTL 2 && o.bit Reg.CAL_CTL 3) (0x03000000 + o.f Reg.CAL_CTL 13 9) 0x1100 [regP Reg.CAL_CTL]

/-- The claims on the chain ends of ports. -/
def Hub.chainClaims (o : Hub) : List Claim :=
  ((List.range 32).map (fun n =>
    claimIf (!(o.tileMap n).isEmpty) (0x04000000 + n) (0x0200 + n) [tblP (tblTile n)] ++
    claimIf (tmChain (o.tileMap n) == 2) (0x04000000 + tmFar (o.tileMap n)) (0x0300 + n) [tblP (tblTile n)])).flatten

/-- The lowest NET port of a PTP instance. -/
def Hub.ptpPorts (o : Hub) (t : Nat) : List Nat := (List.range 4).filter (fun n => bitOf (o.n (Reg.TBt_PTP t)) n)

/-- The claims on the discipline inputs of the bases (R91, R102). -/
def Hub.disciplineClaims (o : Hub) : List Claim :=
  ((List.range 4).map (fun t =>
    let pin := o.f (Reg.TBt_CTL t) 4 2
    match o.f (Reg.TBt_CTL t) 1 0 with
    | 1 => claimIf true (0x05000000 + t) (0x0A00 + (o.ptpPorts t).headD 0) [regP (Reg.TBt_CTL t), regP (Reg.TBt_PTP t)]
    | 2 => claimIf true (0x05000000 + t) (0x0700 + pin) [regP (Reg.TBt_CTL t)]
    | 3 => claimIf true (0x05000000 + t) (0x0900 + pin) [regP (Reg.TBt_CTL t)]
    | _ => [])).flatten

/-- The estimator's records of a pipe (R215): where they begin, and their size. -/
def Hub.statBase (o : Hub) (p : Nat) : Nat := o.f (Reg.CAL_PIPEp_STAT_LO p) 31 12 * 4096 + o.f (Reg.CAL_PIPEp_STAT_HI p) 3 0 * 2 ^ 32
def Hub.statSize (o : Hub) (p : Nat) : Nat := o.calSlots p * 2 ^ 22

/-- The registers that place a flow's ring. -/
def ringRegs (f : Nat) : Finding :=
  [Reg.ING_FLOWf_CTL f, Reg.ING_FLOWf_GEOM f, Reg.ING_FLOWf_RING_LO f, Reg.ING_FLOWf_RING_HI f, Reg.ING_FLOWf_PITCH f].map regP

/-- The claims on DRAM units (R69, R127, R195, R215). -/
def Hub.unitClaims (o : Hub) : List Claim :=
  (o.flowsOn.map (fun f => dramClaims (o.flowRing f) (o.flowSlots f * o.flowSlot f) (0x0C00 + f) (ringRegs f))).flatten ++
  ((List.range 32).map (fun p => dramClaims (o.calBase p) (2 * o.calSlots p * 557056) (0x0D00 + p)
    ([Reg.CAL_PIPEp_CTL p, Reg.CAL_PIPEp_BASE_LO p, Reg.CAL_PIPEp_BASE_HI p].map regP))).flatten ++
  (((List.range 32).filter (fun p => o.bit Reg.CAL_CTL 0 && o.bit (Reg.CAL_PIPEp_CTL p) 1)).map (fun p =>
    dramClaims (o.statBase p) (o.statSize p) 0x0500
      ([Reg.CAL_CTL, Reg.CAL_PIPEp_CTL p, Reg.CAL_PIPEp_STAT_LO p, Reg.CAL_PIPEp_STAT_HI p].map regP))).flatten ++
  dramClaims o.tableArea (2 ^ 28) 0x0E00 [regP Reg.CMT_TBL_BASE_LO, regP Reg.CMT_TBL_BASE_HI]

/-- Every claim that a configuration makes. -/
def Hub.claims (o : Hub) : List Claim := o.pinClaims ++ o.lineClaims ++ o.chainClaims ++ o.disciplineClaims ++ o.unitClaims

/-- The claimants of a resource, in ascending order. -/
def claimants (cs : List Claim) (res : Nat) : List Nat :=
  (((cs.filter (fun c => c.res == res)).map (·.who)).eraseDups).mergeSort (· ≤ ·)

/-- The resources with two or more claimants. -/
def contested (cs : List Claim) : List Nat :=
  ((cs.filter (fun c => cs.any (fun d => d.res == c.res && d.who != c.who))).map (·.res)).eraseDups

/-- A conflict: the resource, its first and second claimant, and the parties of the second claim (R73, R76). -/
structure Conflict where
  res     : Nat
  first   : Nat
  second  : Nat
  parties : Finding
deriving DecidableEq, Repr

/-- The lowest conflict between the claims after the apply (R76); `old` are the claims of the applied configuration. -/
def lowestConflict (old new : List Claim) : Option Conflict :=
  match contested new with
  | [] => none
  | r :: rs =>
    let res := rs.foldl min r
    let ids := claimants new res
    let now := ids.filter (fun w => old.any (fun c => c.res == res && c.who == w))
    let first := if now.length = 1 then now.headD 0 else ids.headD 0
    let second := (ids.filter (· != first)).headD 0
    some { res := res, first := first, second := second,
           parties := ((new.filter (fun c => c.res == res && c.who == second)).map (·.parties)).flatten }

end Sys2Proof.Machine
end

