-- ==== Sys2Proof/Machine/Rules.lean ====
section
/-! DEFINITION. The cross-setting rules of the check (step 6 of Table 3.5): each is judged on `o`, the configuration as it will stand after the apply,
and gives the registers and tables that take part in it. -/

namespace Sys2Proof.Machine

/-! ## Time (R91, R102, R111) -/

/-- The rules of base `t` and its PTP instance. -/
def Hub.baseRules (o : Hub) (t : Nat) : List Finding :=
  let ctl := regP (Reg.TBt_CTL t)
  let src := o.f (Reg.TBt_CTL t) 1 0
  let pin := o.f (Reg.TBt_CTL t) 4 2
  let ports := o.ptpPorts t
  let role := o.f (Reg.TBt_PTP t) 6 5
  broken (t == 3 && src != 0) [ctl] ++
    broken (decide (2 ≤ src) && !(o.pinFunc pin == (if src = 2 then 4 else 6) && o.pinTb pin == t)) [ctl, regP (Reg.TIO_PINp_CFG pin)] ++
    broken (src == 1 && t != 3 && (if role = 2 then decide (ports.length < 2) else ports.length != 1)) [ctl, regP (Reg.TBt_PTP t)] ++
    ((List.range t).filter (fun u => src == 1 && o.f (Reg.TBt_CTL u) 1 0 == 1 && o.f (Reg.TBt_PTP t) 23 16 == o.f (Reg.TBt_PTP u) 23 16 &&
      ports.any (fun n => (o.ptpPorts u).contains n))).map (fun u => [ctl, regP (Reg.TBt_PTP t), regP (Reg.TBt_CTL u), regP (Reg.TBt_PTP u)])

/-- The pulse of a pin is shorter than the period of the unit that drives it. -/
def Hub.pulseRules (o : Hub) (p : Nat) : List Finding :=
  let c := o.pinCmp p
  let period := o.n (Reg.TIM_CMPc_PERIOD c)
  broken (o.pinNames p c && period != 0 && decide (period ≤ 100 * max 1 (o.f (Reg.TIO_PINp_CFG p) 31 12)))
    [regP (Reg.TIO_PINp_CFG p), regP (Reg.TIM_CMPc_PERIOD c)]

def Hub.timeRules (o : Hub) : List Finding := ((List.range 4).map o.baseRules).flatten ++ ((List.range 8).map o.pulseRules).flatten

/-! ## Network and ingest (R120, R124, R127, R128) -/

/-- An enabled NET port has an address. -/
def Hub.macRules (o : Hub) (n : Nat) : List Finding :=
  broken (o.netMode n != 0 && o.n (Reg.NETn_MAC_LO n) == 0 && o.f (Reg.NETn_MAC_HI n) 15 0 == 0)
    [regP (Reg.NETn_CTL n), regP (Reg.NETn_MAC_LO n), regP (Reg.NETn_MAC_HI n)]

/-- VRX_FULL as ST 2110-21 gives it for a sender type (PRESUMED): narrow for N and NL, wide for W. -/
def Hub.vrxFull (o : Hub) (f : Nat) : Nat :=
  let wide := o.f (Reg.ING_FLOWf_CTL f) 15 14 == 2
  max (if wide then 720 else 8) (o.flowPkts f * 1000000000 / ((if wide then 300 else 27000) * max 1 (o.n (Reg.ING_FLOWf_PERIOD f))))

/-- The jitter buffer that an enabled flow needs, in bytes. -/
def Hub.jbNeed (o : Hub) (f : Nat) : Nat :=
  (o.vrxFull f + o.f (Reg.ING_FLOWf_JB f) 19 8) * (ceilDiv (o.f (Reg.ING_FLOWf_PKT f) 31 20 + 8) 64 * 64)

/-- The enabled paths of the enabled flows, each with its flow. -/
def Hub.pathsOn (o : Hub) : List (Nat × Nat) :=
  (o.flowsOn.map (fun f => if o.flowDual f then [(f, 0), (f, 1)] else [(f, 0)])).flatten

/-- What a path receives: address, port and sub-port. -/
def Hub.pathKey (o : Hub) (e : Nat × Nat) : Nat × Nat :=
  (if e.2 = 0 then o.n (Reg.ING_FLOWf_PATHA_IP e.1) else o.n (Reg.ING_FLOWf_PATHB_IP e.1), o.pathUdp e.1 e.2 % 2 ^ 20)

/-- The registers of a path. -/
def pathParties (e : Nat × Nat) : Finding :=
  [regP (Reg.ING_FLOWf_CTL e.1), regP (if e.2 = 0 then Reg.ING_FLOWf_PATHA_IP e.1 else Reg.ING_FLOWf_PATHB_IP e.1),
    regP (if e.2 = 0 then Reg.ING_FLOWf_PATHA_UDP e.1 else Reg.ING_FLOWf_PATHB_UDP e.1)]

/-- The rules of one enabled flow. -/
def Hub.flowRules (o : Hub) (f : Nat) : List Finding :=
  let ctl := regP (Reg.ING_FLOWf_CTL f)
  broken (o.f (Reg.ING_FLOWf_CTL f) 7 6 == 2 && o.flowWidth f % 2 == 1) [ctl, regP (Reg.ING_FLOWf_GEOM f)] ++
    broken (decide (o.f (Reg.ING_FLOWf_PITCH f) 17 0 < o.flowWidth f * fmtBytes (o.flowFmt f)))
      [ctl, regP (Reg.ING_FLOWf_GEOM f), regP (Reg.ING_FLOWf_PITCH f)] ++
    broken (decide (o.f (Reg.ING_FLOWf_JB f) 7 0 * 65536 < o.jbNeed f))
      [ctl, regP (Reg.ING_FLOWf_PKT f), regP (Reg.ING_FLOWf_PERIOD f), regP (Reg.ING_FLOWf_JB f)] ++
    ((o.flowPipes f).filter (fun p => o.pipeOn p && o.srcFmt p != o.flowFmt f)).map (fun p =>
      [ctl, regP (Reg.ING_FLOWf_PIPES f), regP (Reg.SCNp_CTL p)])

/-- The rules of the pipes bound to a flow (R128). -/
def Hub.bindRules (o : Hub) (f : Nat) : List Finding :=
  let ps := o.flowPipes f
  broken (ps.any (fun p => o.pipeGroup p != o.pipeGroup (ps.headD 0))) (regP (Reg.ING_FLOWf_PIPES f) :: ps.map (fun p => regP (Reg.SCNp_CTL p))) ++
    ((List.range f).filter (fun k => ps.any (fun p => (o.flowPipes k).contains p))).map (fun k =>
      [regP (Reg.ING_FLOWf_PIPES k), regP (Reg.ING_FLOWf_PIPES f)])

def Hub.ingestRules (o : Hub) : List Finding :=
  ((List.range 4).map o.macRules).flatten ++ (o.flowsOn.map o.flowRules).flatten ++ ((List.range 32).map o.bindRules).flatten ++
    broken (decide (128 < (o.flowsOn.map (fun f => o.f (Reg.ING_FLOWf_JB f) 7 0)).sum))
      ((o.flowsOn.map (fun f => [regP (Reg.ING_FLOWf_CTL f), regP (Reg.ING_FLOWf_JB f)])).flatten) ++
    (o.pathsOn.filter (fun e => o.pathsOn.any (fun d => d != e && o.pathKey d == o.pathKey e))).map pathParties ++
    (o.pathsOn.filter (fun e => !o.hasSub (fieldOf (o.pathUdp e.1 e.2) 17 16) (fieldOf (o.pathUdp e.1 e.2) 19 18))).map (fun e =>
      regP (Reg.NETn_CTL (fieldOf (o.pathUdp e.1 e.2) 17 16)) :: pathParties e)

/-- Two enabled entries of the universe table name one universe (R133). -/
def Hub.universeRules (o : Hub) : List Finding :=
  let t := o.table tblUniverse
  broken (!distinctNats (((List.range 8192).filter (utOn t)).map (utNumber t))) [tblP tblUniverse]

/-! ## Groups and pipes (R28, R170, R174, R191, R229) -/

/-- PERIOD and PHASE of a group in units of 2^-16 ns. -/
def Hub.period16 (o : Hub) (pg : Nat) : Nat := o.n (Reg.PGg_PERIOD_NS pg) * 65536 + o.f (Reg.PGg_FRAC pg) 15 0
def Hub.phase16 (o : Hub) (pg : Nat) : Nat := o.n (Reg.PGg_PHASE_NS pg) * 65536 + o.f (Reg.PGg_FRAC pg) 31 16

/-- The registers of a group. -/
def groupParties (pg : Nat) : Finding :=
  [Reg.PGg_CTL pg, Reg.PGg_PERIOD_NS pg, Reg.PGg_FRAC pg, Reg.PGg_PHASE_NS pg, Reg.PGg_RASTER pg, Reg.PGg_APPLY pg].map regP

/-- The rules of an enabled group's timing and raster (R170). -/
def Hub.groupRules (o : Hub) (pg : Nat) : List Finding :=
  let p := o.period16 pg
  let v := o.vTotal pg
  let a := o.activeLines pg
  let apply := o.f (Reg.PGg_APPLY pg) 13 0
  let lead := o.f (Reg.PGg_CTL pg) 25 16
  broken (!(within (o.n (Reg.PGg_PERIOD_NS pg)) 31 0 4166666 41666666 && decide (o.phase16 pg < p) && decide (16 ≤ v ∧ v ≤ 16383) &&
      decide (1 ≤ a ∧ a + 1 ≤ v) && decide (60000 * 65536 * v ≤ (v - a) * p) && decide (apply = 0 ∨ apply + 3 ≤ v) &&
      decide (60000 * 65536 * v ≤ (v - o.applyLineOf pg) * p) && decide (5 ≤ lead ∧ lead ≤ 1000) &&
      decide (lead * 1000 * 65536 * v < (v - a) * p))) (groupParties pg)

/-- LINE_CAP of a group (R170). -/
def Hub.lineCap (o : Hub) (pg : Nat) : Nat := 9 * o.period16 pg / (25 * 65536 * max 1 (o.vTotal pg))

/-- The PIX cost of a line of a pipe's map, in units of 0.01 ns at the slowest RATE_MAX of the ports that carry it: both ends of a self-looped chain (R229, R242). -/
def Hub.lineCost (o : Hub) (p l : Nat) : Nat :=
  ((rmBlocks (o.regionMap p) l).map (fun b => blockCost (pixLen (o.bit (Reg.SCNp_CTL p) 4) b.length))).sum *
    ((o.ends p).map (fun n => blockTime (o.f (Reg.NSHn_CTL n) 2 1))).foldl max 0

/-- The pixels that a map sends in a frame. -/
def rmAllPixels (b : List Byte) : List WalkPx := ((List.range (rmLines b)).map (rmPixels b)).flatten

/-- A destination pixel as one number. -/
def WalkPx.key (px : WalkPx) : Nat := px.tile * 65536 + px.dst

/-- A list in ascending order with equal neighbours. -/
def hasTwins : List Nat → Bool
  | a :: b :: l => a == b || hasTwins (b :: l)
  | _ => false

/-- No number stands twice in a list. -/
def repeats (l : List Nat) : Bool := hasTwins (l.mergeSort (· ≤ ·))

/-- The rules of the region map of an enabled pipe (R170, R174, R229). -/
def Hub.mapRules (o : Hub) (p : Nat) : List Finding :=
  let b := o.regionMap p
  let tm := o.tileMap p
  let pg := o.pipeGroup p
  let ctl := regP (Reg.SCNp_CTL p)
  let map := tblP (tblRegion p)
  let lines := List.range (rmLines b)
  let px := rmAllPixels b
  if b.isEmpty then [[ctl, map]] else
  broken (rmLines b != o.activeLines pg) [ctl, map, regP (Reg.PGg_RASTER pg)] ++
    broken (!px.all (fun x => decide (x.x < o.f (Reg.SCNp_SRC_GEOM p) 13 0 ∧ x.y < o.f (Reg.SCNp_SRC_GEOM p) 29 16)) ||
        !((List.range (rmSpans b)).all (fun i => let s := rmSpan b i; (s.dir != 1 || decide (s.count ≤ s.x + 1)) &&
          (s.dir != 3 || decide (s.count ≤ s.y + 1))))) [ctl, map, regP (Reg.SCNp_SRC_GEOM p)] ++
    broken (!px.all (fun x => decide (x.tile < tmTiles tm ∧ x.dst < tmPixels tm x.tile))) [ctl, map, tblP (tblTile p)] ++
    broken (repeats (px.map WalkPx.key)) [ctl, map] ++
    broken (decide (65536 < (lines.map (fun l => (rmBlocks b l).length)).sum)) [ctl, map] ++
    broken (o.groupOn pg && lines.any (fun l => decide (o.lineCap pg < (rmPixels b l).length))) ([ctl, map] ++ groupParties pg) ++
    broken (lines.any (fun l => decide (80 * o.period16 pg < o.lineCost p l * 65536 * o.vTotal pg)))
      ([ctl, map] ++ (o.ends p).map (fun n => regP (Reg.NSHn_CTL n)) ++ groupParties pg)

/-- The pitch of an enabled pipe's buffers. -/
def Hub.pitchRules (o : Hub) (p : Nat) : List Finding :=
  broken (decide (o.f (Reg.SCNp_SRC_PITCH p) 17 0 < o.f (Reg.SCNp_SRC_GEOM p) 13 0 * fmtBytes (o.srcFmt p)))
    [regP (Reg.SCNp_CTL p), regP (Reg.SCNp_SRC_GEOM p), regP (Reg.SCNp_SRC_PITCH p)]

/-- The total presented pixel rate is at most 2.88 Gpx/s (R28): the pixels of each enabled pipe's map over the PERIOD of its group. -/
def Hub.rateRules (o : Hub) : List Finding :=
  let ps := (List.range 32).filter o.pipeOn
  let rate : Rat := (ps.map (fun p => ((rmAllPixels (o.regionMap p)).length : Rat) * 65536000000000 / (max 1 (o.period16 (o.pipeGroup p)) : Nat))).foldl (· + ·) 0
  broken (decide (2880000000 < rate)) ((ps.map (fun p =>
    [regP (Reg.SCNp_CTL p), regP (Reg.PGg_PERIOD_NS (o.pipeGroup p)), regP (Reg.PGg_FRAC (o.pipeGroup p)), tblP (tblRegion p)])).flatten)

def Hub.scanRules (o : Hub) : List Finding :=
  (((List.range 8).filter o.groupOn).map o.groupRules).flatten ++
  (((List.range 32).filter o.pipeOn).map (fun p => o.mapRules p ++ o.pitchRules p)).flatten ++ o.rateRules ++
  ((List.range 32).filter (fun p => o.f (Reg.SCNp_CTL p) 6 5 == 2 && o.bit (Reg.PGg_CTL (o.pipeGroup p)) 3)).map (fun p =>
    [regP (Reg.SCNp_CTL p), regP (Reg.PGg_CTL (o.pipeGroup p))])

/-! ## Naush ports (R242, R246, NSHn_CTL) -/

/-- The rules of a port and its tile map. -/
def Hub.portRules (o : Hub) (n : Nat) : List Finding :=
  let b := o.tileMap n
  let tm := tblP (tblTile n)
  let far := tmFar b
  let pg := o.pipeGroup n
  let written := (rmAllPixels (o.regionMap n)).map WalkPx.key
  let wanted := ((tmPixelTiles b).map (fun t => (List.range (tmPixels b t)).map (fun d => t * 65536 + d))).flatten
  broken (decide (o.f (Reg.NSHn_CTL n) 4 3 < o.f (Reg.NSHn_CTL n) 2 1)) [regP (Reg.NSHn_CTL n)] ++
    broken (tmChain b == 2 && (o.pipeOn far || !o.bit (Reg.NSHn_CTL far) 0 || far == n)) [tm, regP (Reg.SCNp_CTL far), regP (Reg.NSHn_CTL far)] ++
    broken (!b.isEmpty && o.bit (Reg.NSHn_CTL n) 0 && o.pipeOn n && !(o.regionMap n).isEmpty &&
        (written.filter (fun k => tmType b (k / 65536) == 0)).mergeSort (· ≤ ·) != wanted.mergeSort (· ≤ ·))
      [tm, tblP (tblRegion n), regP (Reg.SCNp_CTL n), regP (Reg.NSHn_CTL n)] ++
    broken ((tmAll b).any (fun t => decide (o.period16 pg ≤ tmTwEnd b t * 65536)))
      [tm, regP (Reg.SCNp_CTL n), regP (Reg.PGg_PERIOD_NS pg), regP (Reg.PGg_FRAC pg)] ++
    broken (decide (1048576 < ((tmPixelTiles b).map (tmPixels b)).sum)) [tm]

def Hub.nshRules (o : Hub) : List Finding := ((List.range 32).map o.portRules).flatten

/-! ## Calibration (R195, R215, R372, CAL_PIPEp_CTL) -/

/-- The rules of the store and the records of a pipe. -/
def Hub.calRules (o : Hub) (p : Nat) : List Finding :=
  let ctl := regP (Reg.CAL_PIPEp_CTL p)
  let slots := o.calSlots p
  let stat := o.bit (Reg.CAL_PIPEp_CTL p) 1
  broken (slots != 0 && decide (o.usable < o.calBase p + 2 * slots * 557056))
      [ctl, regP (Reg.CAL_PIPEp_BASE_LO p), regP (Reg.CAL_PIPEp_BASE_HI p)] ++
    broken (o.bit (Reg.CAL_PIPEp_CTL p) 0 && (List.range (rmSpans (o.regionMap p))).any (fun i => decide (slots ≤ (rmSpan (o.regionMap p) i).tile)))
      [ctl, tblP (tblRegion p)] ++
    broken (stat && !(o.bit Reg.CAL_CTL 0 && o.bit (Reg.CAL_PIPEp_CTL p) 0)) [regP Reg.CAL_CTL, ctl] ++
    broken (stat && decide (o.usable < o.statBase p + o.statSize p)) [ctl, regP (Reg.CAL_PIPEp_STAT_LO p), regP (Reg.CAL_PIPEp_STAT_HI p)] ++
    broken (stat && o.paired && o.chainKind p == 1) [ctl, tblP (tblTile p)]

/-! ## Fixtures (R270, R272, R279, R287, R310) -/

/-- The period of a group's ticks, in units of 2^-16 ns. -/
def Hub.tick16 (o : Hub) (pg : Nat) : Nat := o.f (Reg.FIX_PGg_CTL pg) 4 0 * o.period16 pg

/-- The registers that give the evaluations of the fades. -/
def quotaParties : Finding :=
  ((List.range 8).map (fun pg => [Reg.FIX_PGg_QUOTA pg, Reg.FIX_PGg_CTL pg, Reg.PGg_PERIOD_NS pg, Reg.PGg_FRAC pg].map regP)).flatten

/-- A cue that the set starts. -/
def Hub.cueStarted (h : Hub) (c : Nat) : Bool := match h.stagedWrite (Reg.FIX_CUEc_CNT c) with
  | some v => bitOf v 31
  | none => false

/-- The fixture area and the quotas: `h` is the applied configuration with its set. -/
def Hub.fixRules (h o : Hub) : List Finding :=
  let area := [regP Reg.FIX_CTL, regP Reg.FIX_AREA_LO, regP Reg.FIX_AREA_HI]
  let quota (pg : Nat) : Nat := o.f (Reg.FIX_PGg_QUOTA pg) 20 0
  let evals : Rat := ((List.range 8).map (fun pg => (quota pg : Rat) * 65536000000000 / (max 1 (o.tick16 pg) : Nat))).foldl (· + ·) 0
  let cues := (List.range 8).filter h.cueStarted
  let hit := o.unitClaims.filter (fun c => decide (0x06000000 + o.fixArea / 2 ^ 20 ≤ c.res ∧ c.res < 0x06000000 + o.fixArea / 2 ^ 20 + 64))
  broken (o.bit Reg.FIX_CTL 0 && !hit.isEmpty) (area ++ (hit.map (·.parties)).flatten) ++
    broken (decide (o.usable < o.fixArea + 2 ^ 26)) area ++
    broken (decide (1048576 < ((List.range 8).map quota).sum)) ((List.range 8).map (fun pg => regP (Reg.FIX_PGg_QUOTA pg))) ++
    broken (decide (67108864 < evals)) quotaParties ++
    broken (decide (131072 < (cues.map o.cueCount).sum)) (cues.map (fun c => regP (Reg.FIX_CUEc_CNT c))) ++
    (cues.filter (fun c => decide (o.usable < o.cueAddr c + 16 * o.cueCount c))).map (fun c =>
      [regP (Reg.FIX_CUEc_LO c), regP (Reg.FIX_CUEc_HI c), regP (Reg.FIX_CUEc_CNT c)])

/-- The quota of a group holds the fades that run on it and those that the set starts (R279). A fade whose parameter the set's patch moves to another
group counts there (R280); one that it drops counts where it runs at the start of the check. -/
def Hub.quotaRules (h o : Hub) (pg : Nat) : List Finding :=
  let cues := (List.range 8).filter (fun c => h.cueStarted c && o.cueGroup c == pg)
  let run := (o.fix.fades.filter (fun f => parGroup (if parMapped o.patch f.par then o.patch else h.patch) f.par == pg)).length
  broken (decide (o.f (Reg.FIX_PGg_QUOTA pg) 20 0 < run + (cues.map o.cueCount).sum))
    (regP (Reg.FIX_PGg_QUOTA pg) :: tblP tblPatch :: cues.map (fun c => regP (Reg.FIX_CUEc_CNT c)))

/-- The slots of a parameter on its output, and on its universe. -/
def parSlots (b : List Byte) (k : Nat) : List Nat := (List.range (parWidth (parOf b k))).map (parSlot b k + ·)
def parInputs (b : List Byte) (k : Nat) : List Nat := (List.range (parWidth (parOf b k))).map (fxSacn (fxRec b (k / 64)) + parSacn (parOf b k) + ·)

/-- The parameter takes an input that the universe table merges otherwise (R272). -/
def htpDiffers (ut b : List Byte) (k : Nat) : Bool :=
  parFrom (parOf b k) && utOn ut (fxUniv (fxRec b (k / 64))) &&
    (parInputs b k).any (fun s => utHtp ut (fxUniv (fxRec b (k / 64))) (s - 1) != parHtp (parOf b k))

/-- DMX_TIME of an output, in units of 2^-16 ns (R287). -/
def dmxTime16 (slots : Nat) : Nat := (3240000 + 44000 * (slots + 1)) * 65536

/-- The rules of an enabled fixture (R272, R287). -/
def Hub.fixtureRules (o : Hub) (f : Nat) : List Finding :=
  let b := o.patch
  let r := fxRec b f
  let out := outRec b (fxOutput r)
  let ut := o.table tblUniverse
  let tm := o.tileMap (outPort out)
  if !(decide (fxProfile r < fpProfiles b ∧ fxOutput r < fpOutputs b)) then [[tblP tblPatch]] else
  broken ((fxPars b f).any (fun k => (parSlots b k).any (fun s => decide (outSlots out < s)) ||
      (parFrom (parOf b k) && (parInputs b k).any (fun s => decide (512 < s))))) [tblP tblPatch] ++
    broken (outRoute out == 0 && !(decide (outNode out < tmTiles tm) && tmType tm (outNode out) == 1)) [tblP (tblTile (outPort out)), tblP tblPatch] ++
    broken ((fxPars b f).any (htpDiffers ut b)) [tblP tblPatch, tblP tblUniverse] ++
    broken (decide (o.tick16 (fxGroup r) < dmxTime16 (outSlots out)))
      [regP (Reg.FIX_PGg_CTL (fxGroup r)), regP (Reg.PGg_PERIOD_NS (fxGroup r)), regP (Reg.PGg_FRAC (fxGroup r)), tblP tblPatch]

/-- The rules of the patch as a whole (R272, R310). -/
def Hub.patchRules (o : Hub) : List Finding :=
  let b := o.patch
  let keys := ((fxEnabled b).map (fun f => ((fxPars b f).map (fun k => (parSlots b k).map (fun s => fxOutput (fxRec b f) * 1024 + s))).flatten)).flatten
  ((fxEnabled b).map o.fixtureRules).flatten ++ broken (repeats keys) [tblP tblPatch] ++
    ((List.range (fpOutputs b)).filter (fun i => outRoute (outRec b i) == 1 &&
      (!o.bit (Reg.ODLr_CTL (outPort (outRec b i))) 0 || decide (0x0FFF < outNode (outRec b i))))).map (fun i =>
        [regP (Reg.ODLr_CTL (outPort (outRec b i))), tblP tblPatch])

/-! ## Radios, Col, the pair and security (R297, R354, R371, R404) -/

/-- The rules of an enabled MAC (R297). -/
def Hub.radioRules (o : Hub) (r : Nat) : List Finding :=
  let c := o.n (Reg.ODLr_CTL r)
  let down := ctlDown c
  let ttl := ctlTtl c
  let slots := 2 ^ (ctlSlotLog c + 2)
  broken (o.bit (Reg.ODLr_CTL r) 0 &&
      (decide (odlMax c (o.n (Reg.ODLr_GUARD r)) < 48) || (ttl != 0 && down % ttl != 0) || decide (slots < ttl + down + 1) ||
        decide (odlBi c ≤ o.n (Reg.ODLr_PHASE r)) || !within c 12 8 11 26 || o.f (Reg.ODLr_PAN r) 15 0 == 0xFFFF ||
        decide (o.f (Reg.ODLr_GUARD r) 31 20 < o.f (Reg.ODLr_GUARD r) 11 0)))
    ([Reg.ODLr_CTL r, Reg.ODLr_PAN r, Reg.ODLr_PHASE r, Reg.ODLr_GUARD r].map regP)

/-- The limits of the levels, and the entries of the lists. -/
def Hub.colRules (o : Hub) : List Finding :=
  broken (decide (4096 < ((List.range 8).map (fun l => o.f (Reg.COL_LVLl_CTL l) 12 0)).sum)) ((List.range 8).map (fun l => regP (Reg.COL_LVLl_CTL l))) ++
    broken (decide (1024 < ((List.range 4).map (fun t => o.f (Reg.COL_TALUSt_CTL t) 26 16)).sum)) ((List.range 4).map (fun t => regP (Reg.COL_TALUSt_CTL t)))

/-- A paired hub keeps PG0 enabled. -/
def Hub.pairRules (o : Hub) : List Finding := broken (o.paired && !o.groupOn 0) [regP (Reg.PGg_CTL 0)]

/-- A DRAM or SRAM descriptor: BASE above LIMIT where it is enabled, or an SRAM descriptor, enabled or not, on banks 16 to 18. -/
def Hub.descriptorRules (o : Hub) : List Finding :=
  ((List.range 16).filter (fun n => o.bit (Reg.SEC_DRDn_CTL n) 0 && decide (o.f (Reg.SEC_DRDn_LIMIT n) 19 0 < o.f (Reg.SEC_DRDn_BASE n) 19 0))).map
    (fun n => [Reg.SEC_DRDn_BASE n, Reg.SEC_DRDn_LIMIT n, Reg.SEC_DRDn_CTL n].map regP) ++
  ((List.range 8).filter (fun n =>
    let base := o.f (Reg.SEC_SRDn_BASE n) 13 0
    let limit := o.f (Reg.SEC_SRDn_LIMIT n) 13 0
    (o.bit (Reg.SEC_SRDn_CTL n) 0 && decide (limit < base)) || decide (base ≤ limit ∧ base ≤ 9727 ∧ 8192 ≤ limit))).map
    (fun n => [Reg.SEC_SRDn_BASE n, Reg.SEC_SRDn_LIMIT n, Reg.SEC_SRDn_CTL n].map regP)

/-- The worlds: `h` is the applied configuration with its set. -/
def Hub.worldRules (h : Hub) (g : Glob) (o : Hub) : List Finding :=
  broken ((List.range 24).any (fun e => decide (4 ≤ e) && h.bit (Reg.SPRe_CTL e) 0 && h.bit Reg.SEC_MWORLD e != o.bit Reg.SEC_MWORLD e))
      [regP Reg.SEC_MWORLD] ++
    broken (g.otp.hostNs && (match h.stagedWrite Reg.SEC_MWORLD with
      | some v => bitOf v 0
      | none => false)) [regP Reg.SEC_MWORLD] ++
    ((List.range 32).filter (fun f => o.bit Reg.SEC_BLKWORLD 0 != o.bit Reg.SEC_BLKWORLD 1 && !(o.flowPipes f).isEmpty)).map (fun f =>
      [regP (Reg.ING_FLOWf_PIPES f), regP Reg.SEC_BLKWORLD])

/-- The rules that speak of the start of the check (R204, R279, R354). -/
def Hub.startRules (h o : Hub) : List Finding :=
  ((List.range 32).filter (fun p => h.f (Reg.CAL_PIPEp_APPLY p) 15 0 != o.f (Reg.CAL_PIPEp_APPLY p) 15 0 &&
    !(((h.calPipe p).phase == .idle || (h.calPipe p).phase == .loaded) && (h.calPipe p).loads.isEmpty))).map (fun p => [regP (Reg.CAL_PIPEp_APPLY p)]) ++
  ((List.range 8).map (h.quotaRules o)).flatten ++
  ((List.range 4).filter (fun t => (h.stagedWrite (Reg.COL_TALUSt_CTL t)).isSome && decide (o.f (Reg.COL_TALUSt_CTL t) 26 16 < h.talusParked t))).map
    (fun t => [regP (Reg.COL_TALUSt_CTL t)])

/-- Every cross-setting rule that fails, but for those of the start of the check. -/
def Hub.crossRules (h : Hub) (g : Glob) (o : Hub) : List Finding :=
  o.timeRules ++ o.ingestRules ++ o.universeRules ++ o.scanRules ++ o.nshRules ++ ((List.range 32).map o.calRules).flatten ++ h.fixRules o ++
    o.patchRules ++ ((List.range 2).map o.radioRules).flatten ++ o.colRules ++ o.pairRules ++ o.descriptorRules ++ h.worldRules g o

end Sys2Proof.Machine
end

