-- ==== Sys2Proof/Machine/Commit.lean ====
section
/-! DEFINITION. Summit commit: staging, the check, its outcome, and reading registers back (spec/03_summit_commit.md, R64 to R76, R81; R371). -/

namespace Sys2Proof.Machine

/-! ## Staging (R66 to R70) -/

/-- An offset that a set may write: a register with a field that takes a write. -/
def stageable (off : Nat) : Bool := match Reg.at off with
  | some (d, _, _) => d.writable
  | none => false

/-- The maximum size of a table; none where TABLE_ID names no table (Table 3.3). -/
def tableMax (id : Nat) : Option Nat :=
  let i := id % 2 ^ 24
  match id / 2 ^ 24 with
  | 1 => if i < 32 then some (2 ^ 21) else none
  | 2 => if i < 32 then some (2 ^ 17) else none
  | 3 => if i < 32 then some (2 ^ 15) else none
  | 4 => if i = 0 then some (2 ^ 23) else none
  | 5 => if i = 0 then some (2 ^ 20) else none
  | _ => none

/-- The bytes that the bank holds or is taking: of one table, or of all. -/
def Commit.tableBytes (c : Commit) (p : Nat → Bool) : Nat := ((c.tables.filter (fun t => p t.id)).map (·.bytes.length)).sum

/-- Table bytes that may not be staged: no such table, or one that would exceed its maximum. -/
def Commit.tableBad (c : Commit) (id len : Nat) : Bool := match tableMax id with
  | some m => decide (m < c.tableBytes (· == id) + len)
  | none => true

/-- CFG_STAGE (R66, R70): everything or nothing enters the bank; the entries belong to the descriptor until it completes. TABLE_ID is judged only where
TABLE_LEN is not zero (DESIGN CHOICE, log entry 16: R66 does not say). -/
def Hub.cfgStage (h : Hub) (g : Glob) (q tag : Nat) (writes : List (Nat × Nat)) (table : List Byte) : Hub :=
  h.servedBy g .cmt q tag 0x01 fun d =>
    let ws := (List.range (d.op 16 4)).map (fun i => writes.getD i (0, 0))
    let len := d.op 40 4
    let id := d.op 44 4
    if h.setInFlight then h.complete g q tag Status.busy []
    else if !ws.all (fun w => stageable w.1) || (len != 0 && h.commit.tableBad id len) then h.complete g q tag Status.invalid []
    else if 65536 < h.commit.writes.length + ws.length || 2 ^ 26 < h.commit.tableBytes (fun _ => true) + len then
      h.complete g q tag Status.refused []
    else
      let add : List StagedWrite := ws.map (fun w => { off := w.1, value := w.2 % 2 ^ 32, owner := some (q, tag) })
      let part : List StagedTable := if len = 0 then [] else [{ id := id, bytes := padTo len table, owner := some (q, tag) }]
      ({ h with commit := { h.commit with writes := h.commit.writes ++ add, tables := h.commit.tables ++ part } }).move q tag Status.ok [] [] []

/-- `lines` are the errors that writes of parts of the lines of its list meet, in bank 18 (R151). -/
def execCfgStage (q tag : Nat) (writes : List (Nat × Nat)) (table : List Byte) (lines : List (Nat × LineErr)) (s : State) :
    Host.Outcome State Fault Refusal :=
  let t := s.ownLines .cmt 18 1 lines
  nextHub t (t.hub.cfgStage s.glob q tag writes table)

/-- The entries of a CFG_STAGE are staged; table data fixes the table area (R69). -/
def Hub.cfgStaged (h : Hub) (q tag : Nat) (d : Desc) : Hub :=
  { h with commit := { h.commit with
      writes := h.commit.writes.map (fun w => if w.owner = some (q, tag) then { w with owner := none } else w)
      tables := h.commit.tables.map (fun t => if t.owner = some (q, tag) then { t with owner := none } else t)
      baseFixed := h.commit.baseFixed || d.op 40 4 != 0 } }

/-- The place that the table bytes of a CFG_STAGE are written to, and the bytes. -/
def Hub.stagePlace (h : Hub) (q tag : Nat) : Nat × List Byte :=
  match h.commit.tables.find? (fun t => t.owner == some (q, tag)) with
  | none => (0, [])
  | some t =>
    let before := ((h.commit.tables.takeWhile (fun x => x.owner != some (q, tag))).filter (fun x => x.id == t.id)).map (·.bytes.length)
    (h.tableArea + tablePlace t.id (h.commit.freeSlot t.id) + before.sum, t.bytes)

/-- The table bytes of a CFG_STAGE written to the slot of the table that is not in force, after those that the bank holds of it already; they count as
table memory (R69). -/
def Hub.stageToDram (h : Hub) (m : Memory) (q tag : Nat) (d : Desc) : Memory :=
  if (h.stagePlace q tag).2.isEmpty then m else h.writeDram m d.secure (h.stagePlace q tag).1 (h.stagePlace q tag).2 false

/-- The violations that staging a table leaves (R144). -/
def Hub.stageLooks (h : Hub) (g : Glob) (m : Memory) (q tag : Nat) (d : Desc) : Hub :=
  if (h.stagePlace q tag).2.isEmpty then h
  else h.dramViolation g m d.secure true (h.stagePlace q tag).1 (h.stagePlace q tag).2.length (Requester.host).unit

/-- What CFG_STAGE returns: the writes and the table bytes now staged. -/
def Hub.stagedResult (h : Hub) : List Byte :=
  leBytes 4 h.commit.stagedWrites.length ++ leBytes 4 ((h.commit.stagedTables.map (·.bytes.length)).sum)

/-- The bank without the set; what a CFG_STAGE is still staging stays. -/
def Commit.emptied (c : Commit) : Commit :=
  { c with writes := c.writes.filter (fun w => w.owner.isSome), tables := c.tables.filter (fun t => t.owner.isSome) }

/-- CFG_DISCARD (R70). -/
def Hub.cfgDiscard (h : Hub) (g : Glob) (q tag : Nat) : Hub :=
  h.servedBy g .cmt q tag 0x03 fun _ =>
    if h.setInFlight then h.complete g q tag Status.busy []
    else ({ h with commit := h.commit.emptied }).complete g q tag Status.ok []

def execCfgDiscard (q tag : Nat) (s : State) : Host.Outcome State Fault Refusal := nextHub s (s.hub.cfgDiscard s.glob q tag)

/-! ## The groups that a set touches (R73, R185) -/

/-- The groups of a pipe, after the apply and before it. -/
def Hub.pipeGroups (h o : Hub) (p : Nat) : List Nat := [o.pipeGroup p, h.pipeGroup p]

/-- The groups that a write of an offset touches. -/
def Hub.writeTouches (h o : Hub) (off : Nat) : List Nat :=
  match Reg.at off, Block.ofOffset off with
  | some (d, i, _), some b =>
    if d.cls ≠ .d then [] else
    match b with
    | .scn p => h.pipeGroups o p
    | .pg => [i]
    | .cal => if d.id = .CAL_PGg_CTL then [i] else if Reg.CAL_PIPEp_CTL 0 ≤ d.base then h.pipeGroups o i else []
    | _ => []
  | _, _ => []

/-- The groups that a table touches. -/
def Hub.tableTouches (h o : Hub) (id : Nat) : List Nat :=
  match id / 2 ^ 24 with
  | 1 | 3 => h.pipeGroups o (id % 2 ^ 24)
  | 2 => [o.portGroup (id % 2 ^ 24), h.portGroup (id % 2 ^ 24)]
  | _ => []

/-- The groups that the set touches, of those enabled before the apply, ascending. -/
def Hub.touchedGroups (h o : Hub) : List Nat :=
  (List.range 8).filter (fun g => h.groupOn g &&
    (h.stagedOffs.any (fun off => (h.writeTouches o off).contains g) || h.stagedIds.any (fun id => (h.tableTouches o id).contains g)))

/-! ## The instant (R71, R72, R187) -/

/-- The lead that an instant needs: 2 ms, and one current period more where the set changes the timing of an enabled group. -/
def Hub.commitLead (h o : Hub) : Nat :=
  2000000 * ns48 + (((List.range 8).filter (fun g => h.groupOn g && o.groupOn g && h.timingOf g != o.timingOf g)).map h.period48).foldl max 0

/-- The instant of a CFG_COMMIT: the status with which step 2 fails, or the instant in force. -/
def Hub.commitInstant (h o : Hub) (d : Desc) : Nat ⊕ Instant :=
  let possible := bitOf (d.op 17 1) 0
  match d.op 16 1 with
  | 1 =>
    let t := d.op 18 1
    let at48 := time48 (d.op 24 6) (d.op 30 4) (d.op 34 2)
    if possible then (if at48 < h.now48 t + 2000000 * ns48 then .inr .immediate else .inr (.time t at48))
    else if at48 < h.now48 t + h.commitLead o then .inl Status.late else .inr (.time t at48)
  | 2 =>
    let pg := d.op 18 1
    let need := h.groupNow pg + h.commitLead o
    if !h.groupOn pg then .inl Status.invalid
    else
      let first := ceilDiv (need - (h.group pg).next) (h.period48 pg)
      match h.framesTo pg (d.op 20 4) with
      | some k =>
        if need ≤ h.boundaryAt pg k then .inr (.frame pg (d.op 20 4))
        else if possible then .inr (.frame pg ((h.nextNumber pg + max k first) % 2 ^ 32))
        else .inl Status.late
      | none => if possible then .inr (.frame pg ((h.nextNumber pg + first) % 2 ^ 32)) else .inl Status.late
  | _ => .inr .immediate

/-! ## The check (R75; Table 3.5) -/

/-- A failure of the check: the rule code, the status, what takes part, and what the completion returns. -/
structure CheckFail where
  rule    : Nat
  status  : Nat
  parties : Finding
  result  : List Byte
deriving DecidableEq, Repr

/-- The failure of a step whose findings are these; none where there is none. -/
def failOf (rule status : Nat) (fs : List Finding) : Option CheckFail :=
  if fs.isEmpty then none else some { rule := rule, status := status, parties := fs.flatten, result := [] }

/-- The failure of a step with a conflict. -/
def conflictOf (rule : Nat) (c : Option Conflict) : Option CheckFail :=
  c.map (fun c => { rule := rule, status := Status.conflict, parties := c.parties
                    result := leBytes 4 c.res ++ leBytes 2 c.first ++ leBytes 2 c.second })

/-- Step 4: staged writes to powered-off domains. -/
def Hub.poweredOff (h : Hub) : List Finding :=
  (h.stagedOffs.filter (fun off => match Block.ofOffset off with
    | some b => !h.blockOn b
    | none => false)).map (fun off => [regP off])

/-- Step 5: staged registers that the world of HIF may not write. -/
def Hub.worldDenied (h : Hub) (secure : Bool) : List Finding :=
  (h.stagedOffs.filter (fun off => match Reg.at off with
    | some (d, i, _) => !secure && h.regSecure d i
    | none => false)).map (fun off => [regP off])

/-- A boundary of group `b` falls in the PCLK cycle that lies `ahead` from now. -/
def Hub.boundaryMeets (h : Hub) (b ahead : Nat) : Bool :=
  let first := (h.group b).next - h.now48 (h.groupTb b)
  let k := (ahead - first) / max (h.period48 b) 1
  [k, k + 1].any (fun j => ceilDiv (first + j * h.period48 b) cycle48 == ceilDiv ahead cycle48)

/-- Step 7: the lowest group that breaks the display rule (R73). -/
def Hub.displayBreaks (h o : Hub) (i : Instant) : Option Nat :=
  match i with
  | .frame pg n =>
    let ahead := h.boundaryAt pg ((h.framesTo pg n).getD 0) - h.now48 (h.groupTb pg)
    (h.touchedGroups o).find? (fun b => b != pg && !h.boundaryMeets b ahead)
  | _ => (h.touchedGroups o).head?

/-- The staged writes and tables that touch a group. -/
def Hub.touching (h o : Hub) (b : Nat) : Finding :=
  (h.stagedOffs.filter (fun off => (h.writeTouches o off).contains b)).map regP ++
    (h.stagedIds.filter (fun id => (h.tableTouches o id).contains b)).map tblP

/-- The first of steps 3 to 8 that fails. -/
def Hub.checkVerdict (h : Hub) (g : Glob) (secure : Bool) (i : Instant) : Option CheckFail :=
  let o := h.overlay
  (failOf 2 Status.invalid (h.rangeFindings o)).orElse fun _ =>
  (failOf 3 Status.notPresent h.poweredOff).orElse fun _ =>
  (failOf 4 Status.denied (h.worldDenied secure)).orElse fun _ =>
  (failOf 5 Status.invalid (h.commit.atStart ++ h.crossRules g o)).orElse fun _ =>
  (conflictOf 6 ((h.displayBreaks o i).map (fun b =>
    { res := 0x07000000 + b, first := 0x0F00, second := 0x1000 + b, parties := h.touching o b }))).orElse fun _ =>
  conflictOf 7 (lowestConflict h.claims o.claims)

/-- CMT_CHK_FAIL and TBL: the first staged write, else the first staged table, of those that take part (R75). -/
def Hub.firstStaged (h : Hub) (ps : Finding) : Nat × Bool :=
  let offs := (ps.filter (fun p => !p.1 && h.stagedOffs.contains p.2)).map (·.2)
  let ids := (ps.filter (fun p => p.1 && h.stagedIds.contains p.2)).map (·.2)
  match offs, ids with
  | o :: os, _ => (os.foldl min o, false)
  | [], i :: is => (is.foldl min i, true)
  | [], [] => (0, false)

/-- A check ends with a failure: its registers, the completion, source 47; the bank stays as it is. -/
def Hub.checkFails (h : Hub) (g : Glob) (q tag : Nat) (x : CheckFail) : Hub :=
  let w := h.firstStaged x.parties
  (({ h with commit := { h.commit with
      phase := .idle, owner := none, atStart := [], chkFail := w.1, chkTbl := w.2, chkRule := x.rule, chkStatus := x.status } }).complete
    g q tag x.status x.result).raise g 47 (x.status + x.rule * 256)

/-- CFG_COMMIT: steps 1 and 2 (R71, R72, R75, R78). Each group that the set touches leaves self-refresh (R193). -/
def Hub.cfgCommit (h : Hub) (g : Glob) (q tag : Nat) : Hub :=
  h.servedBy g .cmt q tag 0x02 fun d =>
    if g.safe then h.complete g q tag Status.aborted []
    else if h.setInFlight then (h.complete g q tag Status.busy []).raise g 47 Status.busy
    else
      let o := h.overlay
      let h1 := (h.touchedGroups o).foldl Hub.groupTrigger h
      match h.commitInstant o d with
      | .inl status => h1.checkFails g q tag { rule := 1, status := status, parties := [], result := [] }
      | .inr i =>
        ({ h1 with commit := { h1.commit with
            phase := .checking, owner := some (q, tag), instant := i, next := bitOf (d.op 17 1) 0, kind := d.op 16 1
            atStart := h.startRules o } }).await q tag []

def execCfgCommit (q tag : Nat) (s : State) : Host.Outcome State Fault Refusal := nextHub s (s.hub.cfgCommit s.glob q tag)

/-! ## The end of the check -/

/-- The epoch after one more apply (R82). -/
def nextEpoch (e : Nat) : Nat := if e + 1 < 2 ^ 32 then e + 1 else 1

/-- The set holds neither a write nor a table. -/
def Hub.setEmpty (h : Hub) : Bool := h.commit.stagedWrites.isEmpty && h.commit.stagedTables.isEmpty

/-- The digest that the set will give. -/
def Hub.digestAfter (h : Hub) : List Byte := if h.setEmpty then h.commit.digest else h.overlay.digestNow

/-- The check ends: it fails, or the set is pending and the ACTIVE tells the STANDBY (R371). -/
def Hub.checkDone (h : Hub) (g : Glob) : Hub :=
  if !h.serving .cmt then h else
  match h.commit.phase, h.commit.owner with
  | .checking, some (q, tag) =>
    match h.checkVerdict g (((h.desc q tag).map (·.secure)).getD false) h.commit.instant with
    | some x => h.checkFails g q tag x
    | none =>
      let h1 := { h with commit := { h.commit with phase := .pending, atStart := [] } }
      if h.saddle.role = .active then h1.saddleSend (.commitNotice h.commit.instant (nextEpoch h.commit.epoch) h.digestAfter) else h1
  | _, _ => h

/-- A staged table of which some part reads poisoned. -/
def Hub.stagedSpoilt (h : Hub) (m : Memory) : Bool :=
  m.anyPoison && h.stagedIds.any (fun id => m.poisoned (h.tableArea + tablePlace id (h.commit.freeSlot id)) (h.stagedTable id).length)

/-- The commit engine reads its bank: `errs` and `lines` are the errors that its reads of staged tables in DRAM and of the staging list in bank 18 meet. What it
cannot read is a fault of CMT, and it checks no further (R22, R149). -/
def State.bankRead (s : State) (errs : List (Nat × ReadError)) (lines : List (Nat × LineErr)) : State :=
  let t := (s.ownLines .cmt 18 1 lines).reads errs
  { t with hub := if t.hub.stagedSpoilt t.mem then t.hub.blockFault s.glob .cmt else t.hub }

def execCommitCheckDone (errs : List (Nat × ReadError)) (lines : List (Nat × LineErr)) (s : State) : Host.Outcome State Fault Refusal :=
  let t := s.bankRead errs lines
  nextHub t (t.hub.checkDone s.glob)

/-- The frame that a group begins next is frame `n`, or lies beyond it (DESIGN CHOICE, log entry 17: a group enabled anew whose first frame lies beyond N begins
no frame N, and that frame stands for it). -/
def Hub.frameReached (h : Hub) (pg n : Nat) : Bool := decide ((h.nextNumber pg + 2 ^ 32 - n % 2 ^ 32) % 2 ^ 32 < 2 ^ 31)

/-- The instant of a set has come (R74): a KIND 1 instant when its base stands at it or after it, however it came there; a KIND 2 instant when the
group is to begin frame N now. -/
def Hub.instantCome (h : Hub) : Instant → Bool
  | .immediate => true
  | .time t at48 => decide (at48 ≤ h.now48 t)
  | .frame pg n => h.frameReached pg n && h.groupOn pg && decide ((h.group pg).next ≤ h.now48 (h.groupTb pg))

/-- KIND of an instant (Table 3.4). -/
def Instant.kind : Instant → Nat
  | .immediate => 0 | .time _ _ => 1 | .frame _ _ => 2

/-- The group that an instant names is enabled. -/
def Hub.instantPossible (h : Hub) : Instant → Bool
  | .frame pg _ => h.groupOn pg
  | _ => true

/-- The STANDBY checks its own bank against the ACTIVE's instant and digest; it will apply it, or mute from the instant on (R371).
A set of an earlier notice that is still pending is one that the ACTIVE has cancelled, and is cancelled here too; while a set of its own is in flight it agrees to none (DEDUCED, log entry 39). -/
def Hub.commitNotice (h : Hub) (g : Glob) (i : Instant) (epoch : Nat) (digest : List Byte) : Hub :=
  if !h.saddleHears then h
  else if h.saddle.role ≠ .standby then h.packetIn
  else
    let h := if h.setInFlight && h.commit.owner.isNone then h.packetIn.cancelCommit g else h.packetIn
    let o := h.overlay
    let hc : Hub := { h with commit := { h.commit with atStart := h.startRules o } }
    let agrees := !h.setInFlight && h.serving .cmt && h.instantPossible i && (hc.checkVerdict g (h.hostSecure g) i).isNone && h.digestAfter == padTo 8 digest
    let h1 := h.setSaddle { h.saddle with notice := some { instant := i, epoch := epoch % 2 ^ 32, agrees := agrees } }
    if agrees then { h1 with commit := { h1.commit with phase := .pending, owner := none, instant := i, next := false, kind := i.kind } }
    else h1.raise g 90 6

/-- `errs` and `lines` are the errors that the check's reads meet, where the notice is heard. -/
def execCommitNotice (at_ : Instant) (epoch : Nat) (digest : List Byte) (errs : List (Nat × ReadError)) (lines : List (Nat × LineErr)) (s : State) :
    Host.Outcome State Fault Refusal := wokenWhen Hub.packetHears 5 (fun s =>
    let t := if s.hub.saddleHears && s.hub.saddle.role == .standby then s.bankRead errs lines else s
    nextHub t (t.hub.commitNotice s.glob at_ epoch digest)) s

/-! ## Reading registers back (R81) -/

/-- One register as CFG_READ returns it; `staged` asks for the value that the set writes, which the bank holds also for a block that is off or isolated. -/
def Hub.cfgReadOne (h : Hub) (g : Glob) (secure staged : Bool) (off : Nat) : Nat × Hub :=
  match Block.ofOffset off, Reg.at off with
  | some b, some (d, i, _) =>
    let set_ := (h.stagedWrite off).filter (fun _ => staged)
    if b == .dbg || (!h.reachable b && set_.isNone) then (0, h)
    else if h.regSecure d i && !secure then (0, h.violation g 3 off false (Requester.host).unit)
    else match set_ with
      | some v => (mergeRw (if h.reachable b then h.view g off else 0) v (rwMask off), h)
      | none => (h.view g off, h.afterRead d off)
  | _, _ => (0, h)

/-- Consecutive registers, in ascending order. -/
def Hub.cfgReadMany (h : Hub) (g : Glob) (secure staged : Bool) (off : Nat) : Nat → List Byte × Hub
  | 0 => ([], h)
  | k + 1 =>
    let r := h.cfgReadOne g secure staged off
    let rest := r.2.cfgReadMany g secure staged (off + 4) k
    (leBytes 4 r.1 ++ rest.1, rest.2)

/-- CFG_READ. -/
def Hub.cfgRead (h : Hub) (g : Glob) (q tag : Nat) : Hub :=
  h.servedBy g .cmt q tag 0x04 fun d =>
    let off := d.op 16 4
    let count := d.op 20 4
    if off % 4 ≠ 0 || 2 ^ 24 < off + 4 * count then h.complete g q tag Status.invalid []
    else
      let r := h.cfgReadMany g d.secure (bitOf (d.op 24 1) 0) off count
      r.2.move q tag Status.ok (leBytes 4 h.commit.epoch) [d.op 32 8] r.1

def execCfgRead (q tag : Nat) (s : State) : Host.Outcome State Fault Refusal := nextHub s (s.hub.cfgRead s.glob q tag)

end Sys2Proof.Machine
end

