-- ==== Sys2Proof/Machine/Apply.lean ====
section
/-! DEFINITION. The apply of a set: every staged write and table in one step, and what each block does at it (spec/03_summit_commit.md, R67, R68,
R77, R82, R83; R237, R259, R371), and the end of a descriptor's transfer (R184). -/

namespace Sys2Proof.Machine

/-! ## The writes of a set -/

/-- The set as one write to each offset, the last staged, in ascending order of offset (R67). -/
def Hub.setOf (h : Hub) : List (Nat × Nat) := (h.stagedOffs.mergeSort (· ≤ ·)).map (fun off => (off, (h.stagedWrite off).getD 0))

/-- A write goes to a register of class F. -/
def freeClass (off : Nat) : Bool := match Reg.at off with
  | some (d, _, _) => d.cls == .f
  | none => false

/-- Registers set to zero in their counting field. -/
def Hub.clearCounts (h : Hub) (hi lo : Nat) (offs : List Nat) : Hub := offs.foldl (fun h o => h.putF o hi lo 0) h

/-- The counters that MEM_CNT_CLR clears; what they held that no health record has told is kept for the next (R381). -/
def Hub.memClear (h : Hub) (v : Nat) : Hub :=
  let carry := h.ueTotal - h.saddle.ueSaid
  let c (b : Bool) (hi : Nat) (offs : List Nat) (h : Hub) : Hub := if b then h.clearCounts hi 0 offs else h
  let h1 := c (bitOf v 0) 31 [Reg.MEMc_CNT_CE 0, Reg.MEMc_CNT_CE 1, Reg.MEMc_CNT_UE 0, Reg.MEMc_CNT_UE 1] h
  let h2 := c (bitOf v 1) 23 [Reg.SRAM_UE] (c (bitOf v 1) 31 ((List.range 24).map Reg.SRAM_CNT_CEb) h1)
  let h3 := c (bitOf v 2) 23 [Reg.LCL_UE] (c (bitOf v 2) 31 ((List.range 24).map Reg.LCL_CNT_CEe) h2)
  let h4 := if bitOf v 3 then h3.clearCounts 31 8 ((List.range 8).map Reg.MEM_FIFOi_STATUS) else h3
  let h5 := c (bitOf v 4) 23 [Reg.MEM_DL_MISS] h4
  h5.modSaddle (fun x => { x with ueCarry := x.ueCarry + carry, ueSaid := h5.ueTotal })

/-- What the WO fields of a register of class L, S or D do at the apply of a write. -/
def Hub.clearOnApply (h : Hub) (w : Nat × Nat) : Hub :=
  match Reg.at w.1 with
  | none => h
  | some (d, i, _) =>
    let clr := bitOf w.2 31
    match d.id with
    | .TBt_COUNTS => if clr then h.setBase i { h.base i with jumps := 0, masters := 0 } else h
    | .PGg_HELD => if clr then h.setGroup i { h.group i with held := 0, srEntries := 0 } else h
    | .CAL_PIPEp_CTL => if clr then h.wr (Reg.CAL_PIPEp_CLAMP i) 0 else h
    | .ING_SACN_CTL =>
      if clr then h.clearCounts 30 0 [Reg.ING_SACN_IGN, Reg.ING_SACN_OVR, Reg.ING_SACN_POOL, Reg.ING_SACN_SEQ, Reg.ING_SACN_ACC] else h
    | .ING_CNT_CLR =>
      ((List.range 32).filter (bitOf w.2)).foldl (fun h f => h.clearCounts 30 0
        [Reg.ING_FSTf_DUP f, Reg.ING_FSTf_LATE f, Reg.ING_FSTf_OVR f, Reg.ING_FSTf_FMT f, Reg.ING_FSTf_DONE f, Reg.ING_FSTf_INC f]) h
    | .MEM_CNT_CLR => h.memClear w.2
    | .FIX_CUEc_CNT => if clr then h.cueGo i else h
    | _ => if clr && d.wo == 2 ^ 31 && d.ro == 2 ^ 31 - 1 then h.putF w.1 30 0 0 else h

/-! ## What the ports do -/

/-- A tile whose CONFIG a commit changes: it is compared with its record anew, by the identity that it answered, and gets the CONFIG when it matched before or
matches now (R244, R259; DEDUCED, log entry 31: a record that the commit corrects no longer leaves the tile a mismatch). -/
def Hub.reconfigure (h : Hub) (g : Glob) (m : Memory) (n k : Nat) : Hub :=
  let t := h.tile n k
  if h.idMatches n k t.answer then (h.modTile n k (fun t => { t with ok := true, mismatch := false })).configOrMark g m n k
  else if t.ok then h.configOrMark g m n k
  else h

/-- A port after a commit: disabled, its lane falls silent; enabled, it trains; with a new tile map, every tile is sent in full; and each tile whose
settings changed gets a CONFIG, unless its record reads poisoned (R149, R190, R237, R259, R476). At RATE_MIN no downshift is asked for any more (R235). -/
def Hub.portApply (h0 : Hub) (g : Glob) (m : Memory) (old : Hub) (n : Nat) : Hub :=
  let h := h0.modPort n (fun p => { p with wantDown := p.wantDown && decide (p.rate < h0.f (Reg.NSHn_CTL n) 4 3) })
  let was := old.bit (Reg.NSHn_CTL n) 0
  let is := h.bit (Reg.NSHn_CTL n) 0
  if was && !is then h.portDown g n Status.aborted
  else if !was && is then (if h.reachable (.nsh n) then h.retrain n (.training true) else h)
  else
    let h1 := if h.tileMap n = old.tileMap n then h
      else
        let r := h.resendAll n
        (if (r.port n).tiles.isEmpty then r else (r.ends n).foldl (fun h m => h.askUp m) r).groupTrigger (h.portGroup n)
    if h1.near n = n && (h1.ends n).any (fun m => (h1.port m).phase.carries) then
      ((h1.enumerated n).filter (fun k => h1.configPayload n k != old.configPayload n k)).foldl (fun h k =>
        h.reconfigure g m n k) h1
    else h1

/-- The Saddle link after a commit that disables it, or that starts or ends its test blocks (R367). -/
def Hub.saddleApply (h : Hub) (g : Glob) (old : Hub) : Hub :=
  if old.bit Reg.SDL_CTL 0 && !h.bit Reg.SDL_CTL 0 then h.saddleDown g 0
  else if h.saddle.link && old.bit Reg.SDL_CTL 1 != h.bit Reg.SDL_CTL 1 then h.emit (.prbs (h.bit Reg.SDL_CTL 1))
  else h

/-! ## The apply -/

/-- The pipe that a staged write or table configures. -/
def pipeOfWrite (off : Nat) : List Nat := match Reg.at off, Block.ofOffset off with
  | some (d, i, _), some b =>
    if d.cls ≠ .d then [] else
    match b with
    | .scn p => [p]
    | .cal => if Reg.CAL_PIPEp_CTL 0 ≤ d.base then [i] else []
    | _ => []
  | _, _ => []
def pipeOfTable (id : Nat) : List Nat := if id / 2 ^ 24 = 1 || id / 2 ^ 24 = 2 || id / 2 ^ 24 = 3 then [id % 2 ^ 24] else []

/-- What every block does when a set of class L, S and D writes and tables has taken effect; `old` is the hub before it. -/
def Hub.hooks (h : Hub) (g : Glob) (m : Memory) (old : Hub) (offs ids : List Nat) : Hub :=
  let pipes := ((offs.map pipeOfWrite).flatten ++ (ids.map pipeOfTable).flatten).eraseDups
  let luts := (ids.filter (fun id => id / 2 ^ 24 = 3)).map (· % 2 ^ 24)
  let h1 := ((h.timeApply g old offs).scanApply g old pipes luts).calApply old
  let h2 := ((h1.ingestApply g old offs).sacnApply old).fixApply old
  let h3 := (h2.odlApply old 0).odlApply old 1
  ((List.range 32).foldl (fun h n => h.portApply g m old n) h3).saddleApply g old

/-- The record of a change of worlds (Table 17.6). -/
def Hub.worldChange (h : Hub) (g : Glob) (old : Hub) : Hub :=
  if h.n Reg.SEC_MWORLD = old.n Reg.SEC_MWORLD && h.n Reg.SEC_BLKWORLD = old.n Reg.SEC_BLKWORLD then h
  else h.record g 0x0203 Block.sec.unit (old.n Reg.SEC_MWORLD) (h.n Reg.SEC_MWORLD) (old.n Reg.SEC_BLKWORLD) (h.n Reg.SEC_BLKWORLD)

/-- A change of HIF's world governs the descriptors that start after the apply: those fetched and not begun (R404). -/
def Hub.descWorlds (h : Hub) (g : Glob) : Hub :=
  { h with rings := { h.rings with sqs := h.rings.sqs.map (fun e => (e.1, { e.2 with
      inflight := e.2.inflight.map (fun d => if d.phase = .fetched then { d with secure := h.hostSecure g } else d) })) } }

/-- The pending set is the bank of a STANDBY that agreed with the ACTIVE's notice (R371). -/
def Hub.asNoticed (h : Hub) : Bool := h.commit.owner.isNone && h.saddle.notice.any (·.agrees)

/-- The epoch that the apply gives: one more, or, on a STANDBY told of it, the ACTIVE's (R82, R371). -/
def Hub.epochGiven (h : Hub) : Nat := if h.asNoticed then ((h.saddle.notice.map (·.epoch)).getD 0) else nextEpoch h.commit.epoch

/-- The class L, S and D writes of the set. -/
def Hub.heldSet (h : Hub) : List (Nat × Nat) := h.setOf.filter (fun w => !freeClass w.1)

/-- The writes and tables of the set stand, with its epoch and digest, and what its writes clear is clear. -/
def Hub.setWritten (h : Hub) : Hub :=
  let h1 := h.heldSet.foldl Hub.clearOnApply (h.mergeWrites h.heldSet).switchTables
  let h2 : Hub := { h1 with commit := { h1.commit.emptied with phase := .idle, owner := none, epoch := h.epochGiven } }
  if h.setEmpty then h2 else h2.setDigest

/-- What follows in every block, with completion, source 46 and records (R77); `h` is the hub before the set, and `h3` that in which it stands. A STANDBY's ports
are unmuted by a set whose digest agreed (R371). -/
def Hub.setActs (h h3 : Hub) (g : Glob) (m : Memory) : Hub :=
  let epoch := h.epochGiven
  let h4 := (h3.hooks g m h (h.heldSet.map (·.1)) h.stagedIds).modSaddle (fun x =>
    if h.asNoticed then { x with notice := none, cmtMuted := false } else x)
  let h5 := match h.commit.owner with
    | some (q, tag) => h4.complete g q tag Status.ok (leBytes 4 epoch ++ padTo 8 h4.commit.digest)
    | none => h4
  let h6 := ((h5.raise g 46 epoch).worldChange g h).descWorlds g
  if h6.bit Reg.CRN_CTL 0 then
    h6.record g 0x0301 Block.cmt.unit epoch (leAt h6.commit.digest 0 4) (leAt h6.commit.digest 4 4) h.commit.kind
  else h6

/-- The staged writes of class F act as host writes of BAR0 would; one that resets the hub is the last. -/
def applyFree (ws : List (Nat × Nat)) (s : State) : State :=
  ws.foldl (fun t w => match Reg.at w.1 with
    | some (d, i, _) => if t.hub.commit.epoch = s.hub.commit.epoch then writeClassF .host d i w.1 w.2 t else t
    | none => t) s

/-- A write of a class F register that clears: a W1C field, a count by a CLR bit, or the count of lost events by the enable of the event ring, with the
base that goes before it. -/
def clearsFirst (off : Nat) : Bool := match Reg.at off with
  | some (d, _, _) => match d.id with
    | .GLB_FLT_STATUS | .INT_PENDk | .HIF_ACC_ERR | .EVQ_STATUS | .EVQ_CTL | .EVQ_BASE_LO | .EVQ_BASE_HI | .CMT_DIRECT | .SPRe_STERR | .CRN_STATUS | .PMU_CTL | .PMUe_CNT_CTL
    | .PMU_SCNp_CTL | .PMU_NSHn_CTL | .PMU_COL_CTL => true
    | _ => false
  | none => false

/-- The set takes effect but for its class F writes: registers, tables, epoch, digest, blocks, completion, source 46 and records (R77). `errs` are the errors that
the reads of the blocks meet. What the set clears is clear before those reads set and count anything (R6, R10). -/
def setTakesEffect (errs : List (Nat × ReadError)) (s : State) : State :=
  let t := State.reads { s with hub := s.hub.setWritten } errs
  { t with hub := s.hub.setActs (t.hub.viewTables t.mem) t.glob t.mem }

/-- A pending set takes effect. In that cycle a clear by a staged write of class F comes before what the apply itself sets and counts (R6, R10), and
the other staged writes of class F after it. Powers-off that waited for the set go ahead (R79). -/
def setApplies (errs : List (Nat × ReadError)) (s : State) : State :=
  let set_ := s.hub.setOf
  let s1 := applyFree (set_.filter (fun w => freeClass w.1 && clearsFirst w.1)) s
  offPendingRun (applyFree (set_.filter (fun w => freeClass w.1 && !clearsFirst w.1)) (setTakesEffect errs s1))

/-- A STANDBY whose bank did not agree with the ACTIVE's notice mutes its ports from its instant on (R371). -/
def Hub.noticeMutes (h : Hub) (come : Instant → Bool) : Hub :=
  if h.saddle.notice.any (fun n => !n.agrees && come n.instant) then h.modSaddle (fun x => { x with notice := none, cmtMuted := true }) else h

/-- A pending set whose instant `come` finds come takes effect. `errs` are the errors that reads of this cycle meet. -/
def applyWhere (come : Instant → Bool) (errs : List (Nat × ReadError)) (s : State) : State :=
  let t := { s with hub := s.hub.noticeMutes come }
  if s.hub.commit.phase = .pending ∧ come s.hub.commit.instant then setApplies errs t else t.reads errs

/-- The instant of a pending set; before it has come, nothing happens (R74). -/
def commitApply (errs : List (Nat × ReadError)) (s : State) : State := applyWhere s.hub.instantCome errs s

/-- `errs` are the errors that the reads of tile-map records meet. -/
def execCommitApply (errs : List (Nat × ReadError)) (s : State) : Host.Outcome State Fault Refusal := .next (commitApply errs s)

/-! ## Frame boundaries (R74, R84, R187) -/

/-- The instant is the begin of the frame that a group begins now. -/
def Hub.beginsNow (h : Hub) (pg : Nat) : Instant → Bool
  | .frame g n => g == pg && h.frameReached pg n
  | _ => false

/-- A timing change has left the group in a gap: its next frame begins later (R187). -/
def Hub.leftGap (h old : Hub) (pg : Nat) : Bool := h.timingOf pg != old.timingOf pg && decide ((h.group pg).start < (h.group pg).next)

/-- A group begins a frame: the set that waits for that frame applies in the same cycle, and governs it (R74, R84); after a timing change the frame begins at the
next grid instant, which may be now (R187). -/
def frameBegins (pg : Nat) (errs : List (Nat × ReadError)) (act : PartnerAct) (s : State) : State :=
  if !s.hub.boundaryRuns s.glob pg then s.reads errs
  else
    let t := applyWhere (s.hub.beginsNow pg) errs s
    if t.hub.leftGap s.hub pg then t else { t with hub := t.hub.boundary t.glob t.mem pg act }

/-- `errs` are the errors that the reads of curves, calibration and tile-map records meet. -/
def execFrameBoundary (pg : Nat) (errs : List (Nat × ReadError)) (act : PartnerAct) (s : State) : Host.Outcome State Fault Refusal :=
  .next (frameBegins pg errs act s)

/-! ## The end of a transfer -/

/-- A descriptor whose data has moved completes: a CFG_STAGE has staged, unless a commit is checking or pending by then (R70), a FRAME_POST or CAL_LOAD has written its last byte, and a read back stands
in host memory. A FW_STAGE still has its flash to program. -/
def dmaDone (q tag : Nat) (s : State) : State :=
  match s.hub.desc q tag with
  | none => s
  | some d =>
    if d.phase ≠ .moving then s
    else match d.opcode with
      | 0x01 =>
        if s.hub.setInFlight then { s with hub := (s.hub.unstage q tag).complete s.glob q tag Status.busy [] }
        else
          let h1 := (s.hub.stageLooks s.glob s.mem q tag d).cfgStaged q tag d
          { s with mem := s.hub.stageToDram s.mem q tag d, hub := h1.complete s.glob q tag Status.ok h1.stagedResult }
      | 0x10 =>
        { s with
          mem := s.hub.writeDram s.mem d.secure (d.words.headD 0) d.data false
          hub := (s.hub.dramViolation s.glob s.mem d.secure true (d.words.headD 0) d.data.length (Requester.host).unit).complete s.glob q tag Status.ok [] }
      | 0x30 => calLoadDone s q tag d
      | 0x50 => s
      | _ => { s with hub := (s.hub.emit (.hostWrite (d.words.headD 0) d.data)).complete s.glob q tag d.status d.result }

def execDmaTransferDone (q tag : Nat) (errs : List (Nat × ReadError)) (s : State) : Host.Outcome State Fault Refusal := .next (dmaDone q tag (s.reads errs))

/-! ## A read of host memory fails (R52) -/

/-- The descriptor needs a read of host memory: its lists, its data or its token; of fetched descriptors only the next of its ring has begun to. -/
def Hub.readsHost (h : Hub) (q : Nat) (d : Desc) : Bool :=
  match d.phase with
  | .waiting => false
  | .fetched => (h.fetched q d.tag d.opcode).isSome && (d.opcode == 0x01 || d.opcode == 0x10 || d.opcode == 0x30 || d.opcode == 0x32 ||
      d.opcode == 0x50 || d.opcode == 0x80 || (d.opcode == 0x41 && d.op 24 8 != 0))
  | .moving => d.opcode == 0x01 || d.opcode == 0x10 || d.opcode == 0x30 || d.opcode == 0x50

/-- Why a descriptor ends before its data is read. -/
def Hub.refusedFirst (h : Hub) (g : Glob) (d : Desc) : Option Nat :=
  match d.opcode with
  | 0x01 => if h.setInFlight then some Status.busy else none
  | 0x10 => h.framePostStatus d
  | 0x30 => h.calLoadStatus d
  | 0x50 => h.fwStageStatus g d
  | _ => none

/-- Where the poisoned data of a FRAME_POST goes, and how much of it. -/
def Desc.poisonTo (d : Desc) (bs : List Byte) : Nat × List Byte :=
  match d.phase with
  | .moving => (d.words.headD 0, bs.take d.data.length)
  | _ => (d.postDest, bs.take d.postLen)

/-- The violations of that write (R144). -/
def Hub.poisonLooks (h : Hub) (g : Glob) (m : Memory) (d : Desc) (bs : List Byte) : Hub :=
  if d.opcode ≠ 0x10 then h
  else h.dramViolation g m d.secure true (d.poisonTo bs).1 (d.poisonTo bs).2.length (Requester.host).unit

/-- The poisoned data of a FRAME_POST is written with POISON set, from where its transfer stands (R147). -/
def Hub.storePoisoned (h : Hub) (m : Memory) (d : Desc) (bs : List Byte) : Memory :=
  if d.opcode ≠ 0x10 then m else h.writeDram m d.secure (d.poisonTo bs).1 (d.poisonTo bs).2 true

/-- The descriptor ends with UNCORRECTABLE; a CAL_LOAD leaves its pipe LOADED, of which none of its entries may have been written (R201). -/
def Hub.readFails (h : Hub) (g : Glob) (q : Nat) (d : Desc) : Hub :=
  if d.opcode = 0x30 && d.phase = .fetched then (h.calLoadEnd q d.tag d.calPipeOp).complete g q d.tag Status.uncorrectable []
  else h.cutDesc g q Status.uncorrectable d

/-- A read of host memory fails, takes more than 50 ms, or brings a poisoned TLP, whose data `poisoned` is: the descriptor completes with UNCORRECTABLE. -/
def dmaTimeout (q tag : Nat) (poisoned : List Byte) (s : State) : State :=
  match s.hub.desc q tag with
  | none => s
  | some d =>
    if !s.hub.readsHost q d then s
    else match (if d.phase = .fetched then s.hub.refusedFirst s.glob d else none) with
      | some status => { s with hub := s.hub.complete s.glob q tag status [] }
      | none => { s with mem := s.hub.storePoisoned s.mem d poisoned, hub := (s.hub.poisonLooks s.glob s.mem d poisoned).readFails s.glob q d }

/-- `errs` are the errors that the reads of blocks that the data does not fill meet (R147). -/
def execDmaReadTimeout (q tag : Nat) (poisoned : List Byte) (errs : List (Nat × ReadError)) (s : State) : Host.Outcome State Fault Refusal :=
  .next (dmaTimeout q tag poisoned (s.reads errs))

end Sys2Proof.Machine
end

