-- ==== Sys2Proof/Machine/Engine.lean ====
section
/-! DEFINITION. Executing an instruction on a Spur engine: what every instruction shares, and the scalar, branch, system and counter
instructions (spec/13_spur_engines.md, R316 to R318, R322 to R325, R330, R332, R334, R336, R337). -/

namespace Sys2Proof.Machine

/-! ## What every instruction shares -/

/-- An outstanding load that will raise an exception: no later instruction has an effect (R336). -/
def LoadData.faults : LoadData → Bool
  | .error => true
  | .poisoned _ => true
  | _ => false

/-- The name of a vector register among the destinations of loads; a scalar register is its own number. -/
def vecReg (v : Nat) : Nat := 32 + v % 16

/-- An instruction that reads or writes these registers waits for an outstanding load (R323). -/
def Engine.waitsFor (x : Engine) (regs : List Nat) : Bool :=
  x.loads.any (fun l => l.data.faults || (l.dest != 0 && regs.contains l.dest))

/-- An engine executes instructions: all may in D0, and SE0 to SE3 in D2 (Table 19.2). -/
def Hub.executes (h : Hub) (g : Glob) (e : Nat) : Bool :=
  decide (e < 24) && (h.eng e).phase == .running && h.serving (.spr e) && !g.safe && (h.power.state == 0 || (h.power.state == 2 && decide (e < 4)))

/-- An exception of the current instruction. -/
def engTrap (e cause eaddr : Nat) (s : State) : State := { s with hub := s.hub.exception s.glob e cause eaddr }

/-- The current instruction retires, and the engine goes on at the next. -/
def engDone (e : Nat) (vector : Bool) (f : Engine → Engine) (s : State) : State :=
  { s with hub := (s.hub.engRetired e vector).modEng e (fun x => (f x).next) }

/-- The line of instruction memory at the PC has a double error (R337). -/
def State.fetchBad (s : State) (e : Nat) : Bool := Memory.lineBad s.mem.imemBad (Memory.localBase e + (s.hub.eng e).pc) 4

/-- The fetch of an instruction, for an engine that executes: a codeword that it corrects counts its line, and a double error that it finds is marked
(R152); what becomes of the instruction is told by its step. -/
def fetchLine (e : Nat) (err : LineErr) (s : State) : State :=
  if err.cells.isEmpty || !s.hub.executes s.glob e then s
  else
    let line := (s.hub.eng e).pc / 32
    let m := s.mem.strikeLine (.imem e) line err
    { s with
      mem := m
      hub := if err.fixed && !m.lineBroken (.imem e) line then s.hub.countCorrected s.glob (Reg.LCL_CNT_CEe e) 45 e else s.hub }

/-- An instruction of an engine: it waits, its fetch is found poisoned, or it does what `k` says. `regs` are the registers it reads or
writes. -/
def engStep (e : Nat) (regs : List Nat) (k : State → State) (s : State) : State :=
  if !s.hub.executes s.glob e || (s.hub.eng e).waitsFor regs then s
  else if s.fetchBad e then
    engTrap e 7 (s.hub.eng e).pc { s with hub := s.hub.localDouble s.glob e true false }
  else k s

/-- A privileged instruction: in U mode it raises a privilege exception (R317). -/
def engKernel (e : Nat) (k : State → State) (s : State) : State := if (s.hub.eng e).kmode then k s else engTrap e 2 0 s

/-- An instruction that takes effect only after every earlier load has completed (R333). -/
def engOrdered (e : Nat) (k : State → State) (s : State) : State := if (s.hub.eng e).loads.isEmpty then k s else s

/-- A scalar result, or one that the manual does not state: a free value. -/
def engResult (e rd : Nat) (v : Option Word) (s : State) : State :=
  match v with
  | some w => engDone e false (fun x => x.setReg rd w) s
  | none => engDone e false (fun x => x.setReg rd (BitVec.ofNat 32 (s.hub.freeAt 0))) { s with hub := s.hub.drew 1 }

/-! ## Scalar arithmetic (R324) -/

/-- The number of leading zeros. -/
def leadingZeros (w : Word) : Nat := (((List.range 32).map (fun i => w.getLsbD (31 - i))).takeWhile (! ·)).length

/-- The number of ones. -/
def onesIn (w : Word) : Nat := ((List.range 32).filter (fun i => w.getLsbD i)).length

/-- A shift; by the full width or more its result is not stated. -/
def shifted (f : Word → Nat → Word) (a : Word) (n : Nat) : Option Word := if n < 32 then some (f a n) else none

/-- A quotient or remainder of exact integers, where every way of rounding agrees on it: the division is exact, or neither operand is negative.
The manual does not state it elsewhere. -/
def agreed (f : Int → Int → Int) (a b : Int) : Option Int := if a % b = 0 ∨ (0 ≤ a ∧ 0 < b) then some (f a b) else none

/-- A signed quotient; that of the most negative number by -1 does not fit. -/
def divWord (a b : Word) : Option Word :=
  if b = 0 then some (BitVec.allOnes 32)
  else match agreed Int.tdiv a.toInt b.toInt with
    | some q => if q < 2 ^ 31 then some (BitVec.ofInt 32 q) else none
    | none => none
def remWord (a b : Word) : Option Word :=
  if b = 0 then some a else (agreed Int.tmod a.toInt b.toInt).map (BitVec.ofInt 32)

/-- The result of a register-register operation (Table 13.5). -/
def aluResult (op : AluOp) (a b : Word) : Option Word :=
  match op with
  | .add => some (a + b)
  | .sub => some (a - b)
  | .and => some (a &&& b)
  | .or => some (a ||| b)
  | .xor => some (a ^^^ b)
  | .sll => shifted BitVec.shiftLeft a b.toNat
  | .srl => shifted BitVec.ushiftRight a b.toNat
  | .sra => shifted BitVec.sshiftRight a b.toNat
  | .slt => some (BitVec.ofNat 32 (b2n (decide (a.toInt < b.toInt))))
  | .sltu => some (BitVec.ofNat 32 (b2n (decide (a.toNat < b.toNat))))
  | .min => some (if a.toInt ≤ b.toInt then a else b)
  | .max => some (if a.toInt ≤ b.toInt then b else a)
  | .minu => some (if a.toNat ≤ b.toNat then a else b)
  | .maxu => some (if a.toNat ≤ b.toNat then b else a)
  | .clz => some (BitVec.ofNat 32 (leadingZeros a))
  | .popc => some (BitVec.ofNat 32 (onesIn a))
  | .mul => some (a * b)
  | .mulh => some (BitVec.ofInt 32 (a.toInt * b.toInt / 2 ^ 32))
  | .mulhu => some (BitVec.ofNat 32 (a.toNat * b.toNat / 2 ^ 32))
  | .div => divWord a b
  | .divu => some (if b = 0 then BitVec.allOnes 32 else a / b)
  | .rem => remWord a b
  | .remu => some (if b = 0 then a else a % b)

/-- A 16-bit immediate, sign-extended. -/
def immWord (imm : Nat) : Word := BitVec.ofInt 32 (signed 16 imm)

/-- The result of an immediate operation (Table 13.5). -/
def immResult (op : ImmOp) (a : Word) (imm : Nat) : Option Word :=
  match op with
  | .addi => aluResult .add a (immWord imm)
  | .andi => aluResult .and a (immWord imm)
  | .ori => aluResult .or a (immWord imm)
  | .xori => aluResult .xor a (immWord imm)
  | .slti => aluResult .slt a (immWord imm)
  | .sltiu => aluResult .sltu a (immWord imm)
  | .slli => aluResult .sll a (immWord imm)
  | .srli => aluResult .srl a (immWord imm)
  | .srai => aluResult .sra a (immWord imm)
  | .lui => some (BitVec.ofNat 32 (imm % 65536 * 65536))

/-- An operation that has one source. -/
def AluOp.unary : AluOp → Bool
  | .clz => true
  | .popc => true
  | _ => false

/-- A field that the instruction does not use is not zero (R322). -/
def ScalarInstr.illegal : ScalarInstr → Bool
  | .rr op _ _ rs2 => op.unary && rs2 % 32 != 0
  | .ri .lui _ rs1 _ => rs1 % 32 != 0
  | .ri _ _ _ _ => false

/-- A scalar instruction. -/
def scalarOf (e : Nat) (i : ScalarInstr) : State → State :=
  let regs := match i with
    | .rr _ rd rs1 rs2 => [rd % 32, rs1 % 32, rs2 % 32]
    | .ri _ rd rs1 _ => [rd % 32, rs1 % 32]
  engStep e regs (fun s =>
    let x := s.hub.eng e
    if i.illegal then engTrap e 1 0 s
    else match i with
      | .rr op rd rs1 rs2 => engResult e rd (aluResult op (x.reg rs1) (x.reg rs2)) s
      | .ri op rd rs1 imm => engResult e rd (immResult op (x.reg rs1) imm) s)

def execScalarAlu (e : Nat) (i : ScalarInstr) (fetch : LineErr) (s : State) : Host.Outcome State Fault Refusal := .next (scalarOf e i (fetchLine e fetch s))

/-! ## Branches and jumps (R323) -/

/-- A condition on two registers. -/
def BranchCond.holds (c : BranchCond) (a b : Word) : Bool :=
  match c with
  | .eq => a == b
  | .ne => a != b
  | .lt => decide (a.toInt < b.toInt)
  | .ge => decide (b.toInt ≤ a.toInt)
  | .ltu => decide (a.toNat < b.toNat)
  | .geu => decide (b.toNat ≤ a.toNat)

/-- An address of instruction memory: 17 bits, a multiple of 4 (Table 13.2). -/
def pcOf (a : Int) : Nat := (a % 2 ^ 17).toNat / 4 * 4

/-- The target of a word offset, from the instruction's own address. -/
def Engine.target (x : Engine) (off : Nat) : Nat := pcOf ((x.pc : Int) + 4 * signed 16 off)

/-- A control transfer retires. -/
def engJump (e to_ : Nat) (f : Engine → Engine) (s : State) : State :=
  { s with hub := (s.hub.engRetired e false).modEng e (fun x => { f x with pc := to_ }) }

/-- A branch or jump. A backward branch not taken and a forward one taken are mispredicted, at a penalty of 4 cycles of two slots (R323, Table 18.2). -/
def branchOf (e : Nat) (i : BranchInstr) : State → State :=
  let regs := match i with
    | .cond _ rs1 rs2 _ => [rs1 % 32, rs2 % 32]
    | .jal rs1 _ => [rs1 % 32]
    | .jalr rd rs1 _ => [rd % 32, rs1 % 32]
  engStep e regs (fun s =>
    let x := s.hub.eng e
    let link (r : Nat) (x : Engine) : Engine := x.setReg r (BitVec.ofNat 32 (x.pc + 4))
    match i with
    | .cond c rs1 rs2 off =>
      let taken := c.holds (x.reg rs1) (x.reg rs2)
      let s1 := if taken == decide (signed 16 off < 0) then s
        else { s with hub := (s.hub.pmuEng e 0x13 1).slotsUsed e 0x02 8 }
      if taken then engJump e (x.target off) id s1 else engDone e false id s1
    | .jal rs1 off => engJump e (x.target off) (link rs1) s
    | .jalr rd rs1 imm => engJump e (pcOf ((x.n rs1 : Int) + signed 16 imm)) (link rd) s)

def execBranch (e : Nat) (i : BranchInstr) (fetch : LineErr) (s : State) : Host.Outcome State Fault Refusal := .next (branchOf e i (fetchLine e fetch s))

/-! ## CSRs, exceptions and returns (R316, R317, R332; Table 13.7) -/

/-- STATUS. -/
def Hub.engStatus (h : Hub) (e : Nat) : Nat :=
  let x := h.eng e
  Hub.statusBits [(b2n x.kmode, 0), (b2n x.pmode, 1), (b2n x.exc, 2), (b2n (h.engineSecure e), 3), (b2n x.restart, 4)]

/-- The value of a CSR; none where there is no such CSR. -/
def Hub.csr (h : Hub) (e csr : Nat) : Option Nat :=
  let x := h.eng e
  match csr with
  | 0 => some (h.engStatus e)
  | 1 => some x.epc
  | 2 => some x.ecause
  | 3 => some (x.eaddr % 2 ^ 32)
  | 4 => some (x.eaddr / 2 ^ 32 % 256)
  | 5 => some x.kvec
  | 6 => some e
  | 7 => some (x.item.getD 0xFFFFFFFF)
  | _ => none

/-- CSRR. -/
def csrrOf (e rd csr : Nat) : State → State := engStep e [rd % 32] (fun s =>
  match s.hub.csr e csr with
  | none => engTrap e 1 0 s
  | some v =>
    if !(s.hub.eng e).kmode && csr != 6 && csr != 7 then engTrap e 2 0 s else engResult e rd (some (BitVec.ofNat 32 v)) s)

def execCsrr (e rd csr : Nat) (fetch : LineErr) (s : State) : Host.Outcome State Fault Refusal := .next (csrrOf e rd csr (fetchLine e fetch s))

/-- A CSR written; its RO fields keep their values. -/
def Engine.setCsr (x : Engine) (csr v : Nat) : Engine :=
  match csr with
  | 0 => { x with pmode := bitOf v 1, exc := bitOf v 2, restart := x.restart && bitOf v 4 }
  | 1 => { x with epc := fieldOf v 16 2 * 4 }
  | 5 => { x with kvec := fieldOf v 16 2 * 4 }
  | _ => x

/-- CSRW. -/
def csrwOf (e csr rs1 : Nat) : State → State := engStep e [rs1 % 32] (fun s =>
  if (s.hub.csr e csr).isNone then engTrap e 1 0 s
  else engKernel e (fun s => engDone e false (fun x => x.setCsr csr (x.n rs1)) s) s)

def execCsrw (e csr rs1 : Nat) (fetch : LineErr) (s : State) : Host.Outcome State Fault Refusal := .next (csrwOf e csr rs1 (fetchLine e fetch s))

/-- ERET: the mode of STATUS.PMODE, EXC cleared, and on at EPC. -/
def eretOf (e : Nat) : State → State := engStep e [] (engKernel e (fun s =>
  engJump e (s.hub.eng e).epc (fun x => { x with kmode := x.pmode, exc := false }) s))

def execEret (e : Nat) (fetch : LineErr) (s : State) : Host.Outcome State Fault Refusal := .next (eretOf e (fetchLine e fetch s))

/-- TRAP: ECAUSE 0x09 with the 10-bit code in EADDR_LO. -/
def execTrap (e code : Nat) (fetch : LineErr) (s : State) : Host.Outcome State Fault Refusal :=
  .next (engStep e [] (engTrap e 9 (code % 1024)) (fetchLine e fetch s))

/-- BKPT. -/
def execBkpt (e : Nat) (fetch : LineErr) (s : State) : Host.Outcome State Fault Refusal := .next (engStep e [] (engTrap e 10 0) (fetchLine e fetch s))

/-- A word that matches no entry of the tables, or with a non-zero field that its instruction does not use. -/
def execIllegalInstruction (e word : Nat) (fetch : LineErr) (s : State) : Host.Outcome State Fault Refusal :=
  .next (if wordLegal word then s else engStep e [] (engTrap e 1 0) (fetchLine e fetch s))

/-! ## Counters, fences and signals (R330, R332, R334) -/

/-- Counter `n` of an engine: the cycle counter, or a programmable one. -/
def Hub.engCounter (h : Hub) (e n : Nat) : Nat :=
  Sparse.get 0 h.pmu (if n = 0 then Reg.PMUe_CYC_LO e else Reg.PMUe_CNTk_LO e (n - 1))

/-- CNTRD: the low half copies the upper half into the shadow, which the high half returns. -/
def cntrdOf (e rd n : Nat) (high : Bool) : State → State := engStep e [rd % 32] (fun s =>
  let x := s.hub.eng e
  if 8 < n then engTrap e 1 0 s
  else if !x.kmode && !s.hub.bit (Reg.PMUe_CNT_CTL e) 0 then engTrap e 2 0 s
  else if high then engResult e rd (some x.shadow) s
  else
    let v := s.hub.engCounter e n
    engDone e false (fun x => ({ x with shadow := BitVec.ofNat 32 (v / 2 ^ 32) } : Engine).setReg rd (BitVec.ofNat 32 v)) s)

def execCntrd (e rd n : Nat) (high : Bool) (fetch : LineErr) (s : State) : Host.Outcome State Fault Refusal := .next (cntrdOf e rd n high (fetchLine e fetch s))

/-- The bit of a FENCE set for the window of an address (R334). -/
def fenceBit (a : Nat) : Nat :=
  if a < 0x40000 then 0 else if a < 0x80000000 then 1 else if 0x1000000000 ≤ a then 2 else 3

/-- FENCE: it waits for the outstanding loads of the windows in its set. -/
def fenceOf (e set : Nat) : State → State := engStep e [] (fun s =>
  if (s.hub.eng e).loads.any (fun l => set % 32 == 0 || bitOf set (fenceBit l.addr)) then s else engDone e false id s)

def execFence (e set : Nat) (fetch : LineErr) (s : State) : Host.Outcome State Fault Refusal := .next (fenceOf e set (fetchLine e fetch s))

/-- SIGNAL. -/
def signalOf (e rs1 : Nat) : State → State := engStep e [rs1 % 32] (engOrdered e (fun s =>
  engDone e false id { s with hub := s.hub.engEvent s.glob e (0x10 + (s.hub.eng e).n rs1 % 2 ^ 24 * 256) }))

def execSignal (e rs1 : Nat) (fetch : LineErr) (s : State) : Host.Outcome State Fault Refusal := .next (signalOf e rs1 (fetchLine e fetch s))

end Sys2Proof.Machine
end

