-- ==== Sys2Proof/Machine/EngMem.lean ====
section
/-! DEFINITION. Loads, stores and atomics of a Spur engine (spec/13_spur_engines.md, R317, R319 to R321, R324, R333, R335 to R337; R22, R23, R151,
R406). -/

namespace Sys2Proof.Machine

/-! ## Windows (Table 13.3) -/

/-- The window of an address, with the offset in it. -/
inductive Window where
  | imem (off : Nat) | dmem (off : Nat) | sram (off : Nat) | reg (off : Nat) | dram (off : Nat) | none
deriving DecidableEq, Repr

/-- Where `n` bytes from `a` lie; they lie in one window or in none. -/
def Hub.window (h : Hub) (a n : Nat) : Window :=
  if a + n ≤ 0x20000 then .imem a
  else if 0x20000 ≤ a && a + n ≤ 0x40000 then .dmem (a - 0x20000)
  else if 0x40000000 ≤ a && a + n ≤ 0x43000000 then .sram (a - 0x40000000)
  else if 0x80000000 ≤ a && a + n ≤ 0x81000000 then .reg (a - 0x80000000)
  else if 0x1000000000 ≤ a && h.inDram (a - 0x1000000000) n then .dram (a - 0x1000000000)
  else .none

/-- A window that U mode may not access (R317). -/
def Window.isReg : Window → Bool
  | .reg _ => true
  | _ => false
def Window.kernelOnly : Window → Bool
  | .imem _ => true
  | .reg _ => true
  | _ => false

/-- A local memory, where 64-byte accesses need no alignment (Table 13.5). -/
def Window.isLocal : Window → Bool
  | .imem _ => true
  | .dmem _ => true
  | _ => false

/-- An access address: 40 bits, of which `hi` gives the upper eight. -/
def Engine.addr (x : Engine) (rb off hi : Nat) : Nat :=
  (((hi % 256 * 2 ^ 32 + x.n rb : Nat) : Int) + signed 16 off) % 2 ^ 40 |>.toNat

/-! ## Lines (R151, R152) -/

/-- The lines that a range touches are read, in order; `lines` are the errors that they meet. -/
def readLines (g : Glob) (w : LineMem) (a n : Nat) (lines : List LineErr) (hm : Hub × Memory) : Hub × Memory :=
  (List.range ((a + n - 1) / 32 + 1 - a / 32)).foldl (fun hm i => readLine g false w (a / 32 + i) (lines.getD i ⟨[], []⟩) hm) hm

/-- A write of part of a line reads the line first. -/
def readPartLines (g : Glob) (w : LineMem) (a n : Nat) (lines : List LineErr) (hm : Hub × Memory) : Hub × Memory :=
  (List.range ((a + n - 1) / 32 + 1 - a / 32)).foldl (fun hm i =>
    if a ≤ 32 * (a / 32 + i) && 32 * (a / 32 + i) + 32 ≤ a + n then hm
    else readLine g false w (a / 32 + i) (lines.getD i ⟨[], []⟩) hm) hm

/-- A range of an engine local memory or of shared SRAM reads poisoned. -/
def Memory.rangeBad (m : Memory) (w : LineMem) (a n : Nat) : Bool :=
  (List.range ((a + n - 1) / 32 + 1 - a / 32)).any (fun i => m.lineBroken w (a / 32 + i))

/-- The first 64-byte block of a range, by offset, whose read is poisoned. -/
def firstBlock (a n : Nat) (p : Nat → Bool) : Nat := 64 * ((Memory.blocksOf a n).find? p).getD (a / 64)

/-! ## Blocks that answer with an error (R22, R23) -/

/-- The bank of shared SRAM, or the channel of DRAM, refuses requests. -/
def Hub.sramRefuses (h : Hub) (off : Nat) : Bool := !h.serving (.sramBank (off / 0x200000)) || !h.serving .mem
def Hub.dramRefuses (h : Hub) (off : Nat) : Bool := !h.serving (if channelOf (off / 64) = 0 then .memA else .memB) || !h.serving .mem

/-! ## Loads -/

def LoadOp.size : LoadOp → Nat
  | .lb => 1 | .lbu => 1 | .lh => 2 | .lhu => 2 | .lw => 4 | .vld => 64

/-- The destination of a load. -/
def LoadOp.dest (op : LoadOp) (rt : Nat) : Nat := match op with
  | .vld => vecReg rt
  | _ => rt % 32

/-- What a load brings back from these bytes. -/
def LoadOp.value (op : LoadOp) (bs : List Byte) : LoadData :=
  match op with
  | .lb => .scalar (BitVec.ofInt 32 (signed 8 (ofLe bs)))
  | .lh => .scalar (BitVec.ofInt 32 (signed 16 (ofLe bs)))
  | .vld => .vector (BitVec.ofNat 512 (ofLe bs))
  | _ => .scalar (BitVec.ofNat 32 (ofLe bs))

/-- The checks made when an access of `n` bytes issues: the exception it raises (R319 to R321). `word` says that a register access of this kind is
allowed. -/
def Hub.accessCheck (h : Hub) (e a n : Nat) (word : Bool) : Option Nat :=
  let w := h.window a n
  match w with
  | .none => some 4
  | _ =>
    if w.kernelOnly && !(h.eng e).kmode then some 2
    else match w with
      | .reg _ => if !word then some 4 else if a % 4 ≠ 0 then some 3 else none
      | _ => if a % n ≠ 0 && !(n == 64 && w.isLocal) then some 3 else none

/-- A load issues: it joins the outstanding ones, and the engine goes on. -/
def engIssue (e addr dest ev : Nat) (data : LoadData) (s : State) : State :=
  { s with hub := (if ev = 0 then s.hub else s.hub.pmuEng e ev 1).modEng e (fun x =>
      ({ x with loads := x.loads ++ [{ pc := x.pc, addr := addr, dest := dest, data := data }] } : Engine).next) }

/-- A load of a line memory: `unit` is where its window begins. -/
def loadLines (e a n unit off dest ev : Nat) (w : LineMem) (lines : List LineErr) (bytes : Memory → List Byte) (f : List Byte → LoadData)
    (s : State) : State :=
  let r := readLines s.glob w off n lines (s.hub, s.mem)
  let bad := r.2.rangeBad w off n
  let block := unit + firstBlock off n (fun b => [2 * b, 2 * b + 1].any (fun l => decide (off / 32 ≤ l ∧ l ≤ (off + n - 1) / 32) && r.2.lineBroken w l))
  engIssue e a dest ev (if bad then .poisoned block else f (bytes r.2)) { s with hub := r.1, mem := r.2 }

/-- A load of DRAM. -/
def loadDram (e a off n dest : Nat) (errs : List (Nat × ReadError)) (f : List Byte → LoadData) (s : State) : State :=
  let secure := s.hub.engineSecure e
  if s.hub.dramRefuses off then engIssue e a dest 0x16 .error s
  else if (s.hub.dramRefused s.mem secure false off n).isSome then
    engTrap e 4 a { s with hub := s.hub.dramViolation s.glob s.mem secure false off n (0x40 + e) }
  else
    let r := dramErrors s.glob false errs (s.hub, s.mem)
    let data := if r.2.poisoned off n then .poisoned (0x1000000000 + firstBlock off n (fun b => (r.2.tagAt (64 * b)).poison))
      else f (r.2.dramBytes off n)
    engIssue e a dest 0x16 data { s with hub := r.1, mem := r.2 }

/-- A load: its checks, then its issue. What it brings back is what its window holds as it issues; it arrives with its response. -/
def loadOf (e : Nat) (op : LoadOp) (rt rb off hi : Nat) (errs : List (Nat × ReadError)) (lines : List LineErr) : State → State :=
  engStep e [op.dest rt, rb % 32] (fun s =>
    let x := s.hub.eng e
    let n := op.size
    let a := x.addr rb off hi
    match s.hub.accessCheck e a n (op == .lw) with
    | some cause => engTrap e cause (if cause = 2 then 0 else a) s
    | none =>
      if 16 ≤ x.loads.length then s
      else match s.hub.window a n with
        | .none => s
        | .imem o => loadLines e a n 0 o (op.dest rt) 0x14 (.imem e) lines (fun m => Memory.bytesOf m.imem (Memory.localBase e + o) n) op.value s
        | .dmem o => loadLines e a n 0x20000 o (op.dest rt) 0x14 (.dmem e) lines (fun m => Memory.bytesOf m.dmem (Memory.localBase e + o) n) op.value s
        | .sram o =>
          if s.hub.sramRefuses o then engIssue e a (op.dest rt) 0x15 .error s
          else if s.hub.sramRefused (s.hub.engineSecure e) false o n then
            engTrap e 4 a { s with hub := s.hub.violation s.glob 2 a false (0x40 + e) }
          else loadLines e a n 0x40000000 o (op.dest rt) 0x15 .sram lines (fun m => s.hub.sramSeen m o n) op.value { s with hub := s.hub.sramDrew o n }
        | .reg o =>
          if s.hub.answersError (.engine e) o then engIssue e a (op.dest rt) 0 .error s
          else
            let r := s.hub.tryRead s.glob (.engine e) o
            engIssue e a (op.dest rt) 0 (.scalar (BitVec.ofNat 32 r.1)) { s with hub := r.2 }
        | .dram o => loadDram e a o n (op.dest rt) errs op.value s)

def execLoad (e : Nat) (op : LoadOp) (rt rb off hi : Nat) (errs : List (Nat × ReadError)) (lines : List LineErr) (fetch : LineErr) (s : State) :
    Host.Outcome State Fault Refusal := .next (loadOf e op rt rb off hi errs lines (fetchLine e fetch s))

/-- A vector register, and the same register written. -/
def Engine.vec (x : Engine) (v : Nat) : BitVec 512 := Sparse.get 0 x.v (v % 16)
def Engine.setVec (x : Engine) (v : Nat) (w : BitVec 512) : Engine := { x with v := Sparse.set 0 x.v (v % 16) w }

/-- An outstanding load answers, in any order: its register is written, or it raises its exception at its own address (R320, R337). -/
def loadAnswer (e k : Nat) (s : State) : State :=
  if !(decide (e < 24) && (s.hub.eng e).phase == .running && s.hub.serving (.spr e) && !s.glob.safe) then s
  else match (s.hub.eng e).loads[k]? with
    | none => s
    | some l =>
      let h := s.hub.modEng e (fun x => { x with loads := x.loads.eraseIdx k })
      { s with hub := match l.data with
          | .scalar w => (h.engRetired e false).modEng e (fun x => x.setReg l.dest w)
          | .vector w => (h.engRetired e true).modEng e (fun x => x.setVec (l.dest - 32) w)
          | .error => h.exceptionAt s.glob e l.pc 5 l.addr
          | .poisoned block => h.exceptionAt s.glob e l.pc 6 block }

def execLoadResponse (e k : Nat) (s : State) : Host.Outcome State Fault Refusal := .next (loadAnswer e k s)

/-! ## Stores -/

def StoreOp.size : StoreOp → Nat
  | .sb => 1 | .sh => 2 | .sw => 4 | .vst => 64

/-- The register that a store reads, as loads name it. -/
def StoreOp.source (op : StoreOp) (rt : Nat) : Nat := match op with
  | .vst => vecReg rt
  | _ => rt % 32

/-- The bytes that a store writes. -/
def StoreOp.bytes (op : StoreOp) (x : Engine) (rt : Nat) : List Byte := match op with
  | .vst => leBytes 64 (x.vec rt).toNat
  | _ => leBytes op.size (x.n rt)

/-- A store issues: it is counted, and the engine goes on. -/
def engStored (e : Nat) (vector : Bool) (s : State) : State := engDone e vector id { s with hub := s.hub.pmuEng e 0x17 1 }

/-- A store whose target answers with an error is lost (R320). -/
def engLost (e : Nat) (s : State) : State := { s with hub := s.hub.modEng e (fun x => { x with lost := x.lost + 1 }) }

/-- Fixture store lines written by an engine of a paired hub are copied to the partner (R373). -/
def Hub.linesWritten (h : Hub) (off n : Nat) : Hub :=
  if h.saddle.role = .unpaired || 0x1000000 ≤ off then h
  else
    let ls := (List.range ((off + n - 1) / 32 + 1 - off / 32)).map (· + off / 32)
    h.setSaddle { h.saddle with dirty := h.saddle.dirty.filter (fun l => !ls.contains l) ++ ls }

/-- The register that a store writes, refused with an error response while its block has reported a fault. -/
def storeReg (e off value : Nat) (s : State) : State :=
  if s.hub.answersError (.engine e) off then engLost e s
  else regWrite (.engine e) off value s

/-- A store. A store to the register window waits for the earlier loads (R333), and acts as a BAR0 write (R321). -/
def storeOf (e : Nat) (op : StoreOp) (rt rb off hi : Nat) (errs : List (Nat × ReadError)) (lines : List LineErr) : State → State :=
  engStep e [op.source rt, rb % 32] (fun s =>
    let x := s.hub.eng e
    let n := op.size
    let a := x.addr rb off hi
    let bs := op.bytes x rt
    let vector := op == .vst
    match s.hub.accessCheck e a n (op == .sw) with
    | some cause => engTrap e cause (if cause = 2 then 0 else a) s
    | none =>
      match s.hub.window a n with
      | .none => s
      | .imem o =>
        let r := readPartLines s.glob (.imem e) o n lines (s.hub, s.mem)
        engStored e vector { s with hub := r.1, mem := r.2.writeImem e o bs }
      | .dmem o =>
        let r := readPartLines s.glob (.dmem e) o n lines (s.hub, s.mem)
        engStored e vector { s with hub := r.1, mem := r.2.writeDmem e o bs }
      | .sram o =>
        if s.hub.sramRefuses o then engLost e (engStored e vector s)
        else if s.hub.sramRefused (s.hub.engineSecure e) true o n then
          engTrap e 4 a { s with hub := s.hub.violation s.glob 2 a true (0x40 + e) }
        else
          let r := readPartLines s.glob .sram o n lines (s.hub, s.mem)
          engStored e vector { s with hub := (r.1.linesWritten o n).itemsStored (r.2.writeSram o bs) o n, mem := r.2.writeSram o bs }
      | .reg o => if x.loads.isEmpty then storeReg e o (x.n rt) (engStored e false s) else s
      | .dram o =>
        let secure := s.hub.engineSecure e
        if s.hub.dramRefuses o then engLost e (engStored e vector s)
        else if (s.hub.dramRefused s.mem secure true o n).isSome then
          engTrap e 4 a { s with hub := s.hub.dramViolation s.glob s.mem secure true o n (0x40 + e) }
        else
          let r := dramErrors s.glob false errs (s.hub, s.mem)
          engStored e vector { s with hub := r.1, mem := r.1.writeDram r.2 secure o bs false })

def execStore (e : Nat) (op : StoreOp) (rt rb off hi : Nat) (errs : List (Nat × ReadError)) (lines : List LineErr) (fetch : LineErr) (s : State) :
    Host.Outcome State Fault Refusal := .next (storeOf e op rt rb off hi errs lines (fetchLine e fetch s))

/-- The error response of a lost store: counted, and event 0x03 once until the count is cleared (R320). -/
def Hub.storeError (h : Hub) (g : Glob) (e : Nat) : Hub :=
  let x := h.eng e
  if x.lost = 0 then h
  else (h.setEng e { x with lost := x.lost - 1, sterr := satInc 16 x.sterr, told := true }).raiseIf (!x.told) g (64 + e) 3

def execStoreErrorResponse (e : Nat) (s : State) : Host.Outcome State Fault Refusal := nextHub s (s.hub.storeError s.glob e)

/-! ## Atomics (R335) -/

/-- The word that an atomic stores; `none` leaves the word as it is. `old` is the word, `src` rs2 and `swap` the source value of rd. -/
def AmoOp.store (op : AmoOp) (old src swap : Word) : Option Word :=
  match op with
  | .add => some (old + src)
  | .swap => some src
  | .and => some (old &&& src)
  | .or => some (old ||| src)
  | .min => some (if old.toInt ≤ src.toInt then old else src)
  | .max => some (if old.toInt ≤ src.toInt then src else old)
  | .cas => if old = src then some swap else none

/-- An atomic of shared SRAM: the old value goes to rd, and the word is rewritten, in one step. -/
def atomicOf (e : Nat) (op : AmoOp) (rd rs1 rs2 hi : Nat) (lines : List LineErr) : State → State :=
  engStep e [rd % 32, rs1 % 32, rs2 % 32] (fun s =>
    let x := s.hub.eng e
    let a := x.addr rs1 0 hi
    let w := s.hub.window a 4
    if w.isReg && !x.kmode then engTrap e 2 0 s
    else match w with
      | .sram o =>
        if a % 4 ≠ 0 then engTrap e 3 a s
        else if s.hub.sramRefused (s.hub.engineSecure e) true o 4 || s.hub.sramRefused (s.hub.engineSecure e) false o 4 then
          engTrap e 4 a { s with hub := s.hub.violation s.glob 2 a true (0x40 + e) }
        else if s.hub.sramRefuses o then engTrap e 6 (a / 64 * 64) { s with hub := s.hub.pmuEng e 0x18 1 }
        else
          let r := readLines s.glob .sram o 4 lines (s.hub.pmuEng e 0x18 1, s.mem)
          let s1 : State := { s with hub := r.1.sramDrew o 4, mem := r.2 }
          if r.2.rangeBad .sram o 4 then engTrap e 6 (a / 64 * 64) s1
          else
            let old := BitVec.ofNat 32 (ofLe (s.hub.sramSeen r.2 o 4))
            match op.store old (x.reg rs2) (x.reg rd) with
            | some new => engDone e false (fun x => x.setReg rd old) { s1 with
                hub := (s1.hub.linesWritten o 4).itemsStored (r.2.writeSram o (leBytes 4 new.toNat)) o 4, mem := r.2.writeSram o (leBytes 4 new.toNat) }
            | none => engDone e false (fun x => x.setReg rd old) s1
      | _ => engTrap e 4 a s)

def execAtomic (e : Nat) (op : AmoOp) (rd rs1 rs2 hi : Nat) (lines : List LineErr) (fetch : LineErr) (s : State) : Host.Outcome State Fault Refusal :=
  .next (atomicOf e op rd rs1 rs2 hi lines (fetchLine e fetch s))

/-! ## The JTAG port (R448) -/

/-- The line of shared SRAM that a JTAG access reads first: all of it for a read, and for a write of four bytes the line that they lie in (R151). -/
def jtagLine (a : Nat) (line : LineErr) (s : State) : State :=
  let r := readLines s.glob .sram a 4 [line] (s.hub, s.mem)
  { s with hub := r.1, mem := r.2 }

/-- A 32-bit access through the JTAG port; a read returns its value. Where DBG_LOCK is blown, what is secure reads zero and takes no write. `errs` and `line`
are the errors that its read, or the read of its read-modify-write, meets (R145, R147, R151). A poisoned read returns a free value: the manual does not say what
the port shows. -/
def jtagAccess (target : JtagTarget) (write : Option Nat) (errs : List (Nat × ReadError)) (line : LineErr) (s : State) : State :=
  let secure := s.hub.requesterSecure s.glob .jtag
  let answer (v : Nat) (s : State) : State := { s with hub := s.hub.emit (.jtagRead v) }
  match target, write with
  | .reg off, some v => regWrite .jtag off (v % 2 ^ 32) s
  | .reg off, none => answer (s.hub.tryRead s.glob .jtag off).1 { s with hub := (s.hub.tryRead s.glob .jtag off).2 }
  | .dram a, some v =>
    let s1 := s.reads errs
    { s1 with hub := s1.hub.dramViolation s.glob s1.mem secure true a 4 (Requester.jtag).unit
              mem := s1.hub.writeDram s1.mem secure a (leBytes 4 v) false }
  | .dram a, none =>
    let s1 := s.reads errs
    let r := s1.hub.readDram s1.mem secure a 4
    let h := s1.hub.dramViolation s.glob s1.mem secure false a 4 (Requester.jtag).unit
    answer (if r.poison then h.freeAt 0 % 2 ^ 32 else ofLe r.bytes) { s1 with hub := if r.poison then h.drew 1 else h }
  | .sram a, some v =>
    if 0x3000000 < a + 4 then s
    else if s.hub.sramRefused secure true a 4 then { s with hub := s.hub.violation s.glob 2 (0x40000000 + a) true (Requester.jtag).unit }
    else
      let s1 := jtagLine a line s
      { s1 with mem := s1.mem.writeSram a (leBytes 4 v), hub := s1.hub.itemsStored (s1.mem.writeSram a (leBytes 4 v)) a 4 }
  | .sram a, none =>
    if 0x3000000 < a + 4 then s
    else if s.hub.sramRefused secure false a 4 then
      answer 0 { s with hub := s.hub.violation s.glob 2 (0x40000000 + a) false (Requester.jtag).unit }
    else
      let s1 := jtagLine a line s
      if s1.mem.rangeBad .sram a 4 then answer (s1.hub.freeAt 0 % 2 ^ 32) { s1 with hub := s1.hub.drew 1 }
      else answer (ofLe (s1.hub.sramSeen s1.mem a 4)) { s1 with hub := s1.hub.sramDrew a 4 }

def execJtagAccess (target : JtagTarget) (write : Option Nat) (errs : List (Nat × ReadError)) (line : LineErr) (s : State) :
    Host.Outcome State Fault Refusal := .next (jtagAccess target write errs line s)

end Sys2Proof.Machine
end

