-- ==== Sys2Proof/Machine/EngSched.lean ====
section
/-! DEFINITION. The scheduler instructions of a Spur engine, and NPOST (spec/13_spur_engines.md, R326 to R329, R331, R333, R337). -/

namespace Sys2Proof.Machine

/-- What a refused WPOST, WDEFER or NPOST returns, counted as an engine event. -/
def engRefused (e rd status : Nat) (s : State) : State :=
  engResult e rd (some (BitVec.ofNat 32 (0x80000000 + status))) { s with hub := s.hub.pmuEng e 0x1B 1 }

/-- A 32-byte descriptor lies in local data memory: the exception that its address raises. -/
def Hub.descriptorTrap (h : Hub) (a : Nat) : Option Nat :=
  match h.window a 32 with
  | .dmem _ => if a % 32 ≠ 0 then some 3 else none
  | _ => if 0x20000 ≤ a ∧ a < 0x40000 then some 3 else some 4

/-- WGET: the engine waits for an item. -/
def wgetOf (e rd rs1 rs2 : Nat) : State → State := engStep e [rd % 32, rs1 % 32, rs2 % 32] (engKernel e (fun s =>
  let x := s.hub.eng e
  if x.item.isSome then engTrap e 8 (x.n rs1) s
  else match s.hub.descriptorTrap (x.n rs1) with
    | some cause => engTrap e cause (x.n rs1) s
    | none =>
      { s with hub := { s.hub.modEng e (fun x => { x with phase := .waiting }) with
          col := { s.hub.col with waiters := s.hub.col.waiters ++
            [{ engine := e, mask := x.n rs2 % 256, addr := x.n rs1 - 0x20000, rd := rd % 32, since := s.hub.clock }] } } }))

def execWget (e rd rs1 rs2 : Nat) (fetch : LineErr) (s : State) : Host.Outcome State Fault Refusal := .next (wgetOf e rd rs1 rs2 (fetchLine e fetch s))

/-- Col makes a grant, one of those that the PCLK cycle has. -/
def Hub.granting (h : Hub) : Hub :=
  let h1 := h.colEvent rankGrant true
  { h1 with col := { h1.col with grants := onceMore h1.clock h1.col.grants } }

/-- The grant of a cycle. `line` is the error that the read of the descriptor in its slot meets, in bank 18 (R151). -/
def colGrant (g : Glob) (line : LineErr) (hm : Hub × Memory) : Hub × Memory :=
  let h0 := hm.1
  if g.safe || !h0.serving .col || h0.power.state != 0 || hadBoth h0.clock h0.col.grants then hm else
  match h0.grantLevel with
  | none => hm
  | some l =>
    match h0.col.items.find? (fun i => i.level == l && i.isWaiting), h0.col.waiters.find? (fun w => h0.accepts w l) with
    | some i, some w =>
      let r := readLine g false .sram (itemLine i.slot) line (h0.granting, hm.2)
      let h := r.1
      if r.2.sramBroken (itemLine i.slot) then
        ((h.count Reg.COL_CNT_POISON 31).endItem g i Status.uncorrectable |>.levelEvent g l
          (3 + i.slot * 65536), r.2)
      else
        let wait := match i.place with
          | .waiting since => 2 * (h.col.fclk - since)
          | _ => 0
        let h1 := (h.pmuAdd Reg.PMU_COL_GRANTS_LO 1).pmuAdd Reg.PMU_COL_ITEM_WAIT_LO wait
        let h2 := { h1 with col := { h1.col with waiters := h1.col.waiters.erase w } }
        (((h2.moveItem i { i with place := .running w.engine }).engRetired w.engine false).modEng w.engine (fun x =>
            (({ x with phase := .running, item := some (h.itemId i.slot) } : Engine).setReg w.rd (BitVec.ofNat 32 (h.itemId i.slot))).next),
         r.2.writeDmem w.engine w.addr i.delivered)
    | _, _ => hm

def execColGrant (line : LineErr) (s : State) : Host.Outcome State Fault Refusal :=
  .next { s with hub := (colGrant s.glob line (s.hub, s.mem)).1, mem := (colGrant s.glob line (s.hub, s.mem)).2 }

/-- The status of WDONE: one of Table 0.5 but DUPLICATE, else INVALID (R327). -/
def doneStatus (v : Nat) : Nat := if v % 256 < 0x0C && v % 256 != Status.duplicate then v % 256 else Status.invalid

/-- WDONE: the held item ends; FIFO 6 takes its completion, and while it is full the engine stalls. -/
def wdoneOf (e rs1 rs2 : Nat) : State → State := engStep e [rs1 % 32, rs2 % 32] (engKernel e (engOrdered e (fun s =>
  let x := s.hub.eng e
  if x.item ≠ some (x.n rs1) then engTrap e 8 (x.n rs1) s
  else if 16 ≤ (s.hub.fifo 6).length then s
  else
    let h0 := s.hub.colEvent rankDone false
    let h1 := match h0.runningItem e with
      | some i => h0.endItem s.glob i (doneStatus (x.n rs2))
      | none => h0
    engDone e false (fun x => { x with item := none }) { s with hub := (h1.fifoPush s.glob 6 (x.n rs1)).pmuEng e 0x1A 1 })))

def execWdone (e rs1 rs2 : Nat) (fetch : LineErr) (s : State) : Host.Outcome State Fault Refusal := .next (wdoneOf e rs1 rs2 (fetchLine e fetch s))

/-- WPOST. -/
def wpostOf (e rd rs1 rs2 : Nat) (lines : List LineErr) : State → State := engStep e [rd % 32, rs1 % 32, rs2 % 32] (engOrdered e (fun s =>
  let x := s.hub.eng e
  let a := x.n rs1
  match s.hub.descriptorTrap a with
  | some cause => engTrap e cause a s
  | none =>
    let o := a - 0x20000
    let r := readLines s.glob (.dmem e) o 32 lines (s.hub, s.mem)
    let s1 : State := { s with hub := r.1, mem := r.2 }
    if r.2.rangeBad (.dmem e) o 32 then engTrap e 6 (a / 64 * 64) s1
    else if !s1.hub.serving .col then engRefused e rd Status.aborted s1
    else if 8 ≤ x.n rs2 then engRefused e rd Status.invalid s1
    else
      let p := s1.hub.colPost s.glob (s.hub.engineSecure e) true e (x.n rs2) (Memory.bytesOf r.2.dmem (Memory.localBase e + o) 32) none
      if p.2 = Status.ok then
        engResult e rd (some (BitVec.ofNat 32 (p.1.lastId))) { s1 with hub := p.1, mem := p.1.lastRenewed s1.mem }
      else engRefused e rd p.2 { s1 with hub := p.1 }))

def execWpost (e rd rs1 rs2 : Nat) (lines : List LineErr) (fetch : LineErr) (s : State) : Host.Outcome State Fault Refusal :=
  .next (wpostOf e rd rs1 rs2 lines (fetchLine e fetch s))

/-- WDEFER. -/
def wdeferOf (e rd rs1 rs2 : Nat) : State → State := engStep e [rd % 32, rs1 % 32, rs2 % 32] (engKernel e (engOrdered e (fun s =>
  let x := s.hub.eng e
  if x.item ≠ some (x.n rs1) then engTrap e 8 (x.n rs1) s
  else match s.hub.runningItem e with
    | none => engRefused e rd Status.invalid s
    | some i =>
      let r := s.hub.colDefer s.glob e i (fieldOf (x.n rs2) 31 30) (fieldOf (x.n rs2) 29 0)
      let s1 : State := { s with hub := r.1 }
      if r.2 = Status.ok then
        engResult e rd (some 0) { s1 with hub := s1.hub.modEng e (fun x => { x with item := none }) }
      else engRefused e rd r.2 s1)))

def execWdefer (e rd rs1 rs2 : Nat) (fetch : LineErr) (s : State) : Host.Outcome State Fault Refusal := .next (wdeferOf e rd rs1 rs2 (fetchLine e fetch s))

/-! ## NPOST (R331; Table 13.8) -/

/-- The fields of Table 13.8 in range. -/
def npostFields (v : Nat) : Bool :=
  decide (60 ≤ fieldOf v 10 0 ∧ fieldOf v 10 0 ≤ 1518) && decide (fieldOf v 17 15 ≤ 5) && fieldOf v 31 18 == 0

/-- Why a frame is not queued; none where the queue takes it. -/
def Hub.npostStatus (h : Hub) (v : Nat) : Option Nat :=
  let n := fieldOf v 12 11
  let sub := fieldOf v 14 13
  if !npostFields v then some Status.invalid
  else if !h.serving (.net n) then some Status.notPresent
  else if !h.hasSub n sub then some Status.invalid
  else if 64 ≤ (Sparse.get [] (h.subPort n sub).txq (fieldOf v 17 15)).length then some Status.refused
  else none

/-- The frame copied from shared SRAM or DRAM: the state after the read, and the frame, or the exception and its address. -/
def npostCopy (e a n : Nat) (errs : List (Nat × ReadError)) (lines : List LineErr) (s : State) : State × (List Byte ⊕ Nat × Nat) :=
  let secure := s.hub.engineSecure e
  match s.hub.window a n with
  | .sram o =>
    if s.hub.sramRefuses o then (s, .inr (6, a))
    else if s.hub.sramRefused secure false o n then
      ({ s with hub := s.hub.violation s.glob 2 a false (0x40 + e) }, .inr (4, a))
    else
      let r := readLines s.glob .sram o n lines (s.hub, s.mem)
      let block := firstBlock o n (fun b => r.2.lineBroken .sram (2 * b) || r.2.lineBroken .sram (2 * b + 1))
      ({ s with hub := r.1.sramDrew o n, mem := r.2 },
        if r.2.rangeBad .sram o n then .inr (6, 0x40000000 + block) else .inl (s.hub.sramSeen r.2 o n))
  | .dram o =>
    if s.hub.dramRefuses o then (s, .inr (6, a))
    else if (s.hub.dramRefused s.mem secure false o n).isSome then
      ({ s with hub := s.hub.dramViolation s.glob s.mem secure false o n (0x40 + e) }, .inr (4, a))
    else
      let r := dramErrors s.glob false errs (s.hub, s.mem)
      ({ s with hub := r.1, mem := r.2 },
        if r.2.poisoned o n then .inr (6, 0x1000000000 + firstBlock o n (fun b => (r.2.tagAt (64 * b)).poison)) else .inl (r.2.dramBytes o n))
  | _ => (s, .inr (4, a))

/-- NPOST. -/
def npostOf (e rd rs1 rs2 hi : Nat) (errs : List (Nat × ReadError)) (lines : List LineErr) : State → State :=
  engStep e [rd % 32, rs1 % 32, rs2 % 32] (engKernel e (engOrdered e (fun s =>
    let x := s.hub.eng e
    let v := x.n rs2
    let a := x.addr rs1 0 hi
    let ok := match s.hub.window a 1 with
      | .sram _ => true
      | .dram _ => true
      | _ => false
    if !ok then engTrap e 4 a s
    else if a % 64 ≠ 0 then engTrap e 3 a s
    else match s.hub.npostStatus v with
      | some status => engRefused e rd status s
      | none =>
        let r := npostCopy e a (fieldOf v 10 0) errs lines s
        match r.2 with
        | .inr (cause, ea) => engTrap e cause ea r.1
        | .inl frame =>
          engResult e rd (some 0) { r.1 with hub := (r.1.hub.netPost (fieldOf v 12 11) (fieldOf v 14 13) (fieldOf v 17 15) (.posted frame)).1 })))

def execNpost (e rd rs1 rs2 hi : Nat) (errs : List (Nat × ReadError)) (lines : List LineErr) (fetch : LineErr) (s : State) : Host.Outcome State Fault Refusal :=
  .next (npostOf e rd rs1 rs2 hi errs lines (fetchLine e fetch s))

/-! ## Starting and stopping an engine (R338, R339) -/

def execEngineStart (who : Requester) (e : Nat) (reload : Bool) (s : State) : Host.Outcome State Fault Refusal := reached who (fun s =>
    nextHub s (s.hub.tryWrite s.glob who (Reg.SPRe_CTL e) (fun h => h.sprCtl s.glob e (1 + 2 * b2n reload)))) s

def execEngineStop (who : Requester) (e : Nat) (reload : Bool) (s : State) : Host.Outcome State Fault Refusal := reached who (fun s =>
    nextHub s (s.hub.tryWrite s.glob who (Reg.SPRe_CTL e) (fun h => h.sprCtl s.glob e (2 * b2n reload)))) s

def execEngineImageLoaded (e : Nat) (errs : List (Nat × ReadError)) (s : State) : Host.Outcome State Fault Refusal :=
  .next { s with hub := (imageLoaded s.glob e errs (s.hub, s.mem)).1, mem := (imageLoaded s.glob e errs (s.hub, s.mem)).2 }

end Sys2Proof.Machine
end

