-- ==== Sys2Proof/Machine/EngVec.lean ====
section
/-! DEFINITION. The V-format instructions of a Spur engine (spec/13_spur_engines.md, R318, R322, R324). Where the manual names an operation and
does not state its result, the elements written are free values. -/

namespace Sys2Proof.Machine

/-! ## Elements -/

/-- The width of an element, in bits, and the number of elements (R322). -/
def VecInstr.width (i : VecInstr) : Nat := 8 * 2 ^ i.ew
def VecInstr.count (i : VecInstr) : Nat := 64 / 2 ^ i.ew

/-- Element `i` of a vector. -/
def elemOf (w : Nat) (v : BitVec 512) (i : Nat) : Nat := v.toNat / 2 ^ (w * i) % 2 ^ w

/-- The vector with these elements. -/
def vecOf (w : Nat) (es : List Nat) : BitVec 512 := BitVec.ofNat 512 (es.foldr (fun x acc => x % 2 ^ w + 2 ^ w * acc) 0)

/-- A mask, and the same mask written. -/
def Engine.mask (x : Engine) (k : Nat) : Nat := (Sparse.get 0 x.k (k % 4)).toNat
def Engine.setMask (x : Engine) (k v : Nat) : Engine := { x with k := Sparse.set 0 x.k (k % 4) (BitVec.ofNat 64 v) }

/-- Element `j` of the second operand: of a vector, or of a broadcast scalar. -/
def VecInstr.second (i : VecInstr) (x : Engine) (j : Nat) : Nat :=
  if i.s then x.n i.r2 % 2 ^ i.width else elemOf i.width (x.vec i.r2) j

/-- The instruction writes element `j` (R318). -/
def VecInstr.writes (i : VecInstr) (x : Engine) (j : Nat) : Bool := !i.p || bitOf (x.mask i.k) j

/-! ## Element operations -/

/-- A sum or difference that saturates. Where neither the signed nor the unsigned range is left, it is exact; elsewhere the manual does not
say which range bounds it. -/
def saturated (w : Nat) (exactU exactS : Int) : Option Nat :=
  if 0 ≤ exactU ∧ exactU < 2 ^ w ∧ -(2 ^ (w - 1) : Int) ≤ exactS ∧ exactS < 2 ^ (w - 1) then some (unsigned w exactU) else none

/-- An element shift; by the full width or more its result is not stated. -/
def elemShift (w n : Nat) (v : Int) : Option Nat := if n < w then some (unsigned w v) else none

/-- The product of two s2.13 elements, rounded; none where the rounding or the range decides, or where the elements are not of 16 bits. -/
def q13 (w : Nat) (a b : Int) : Option Int :=
  let r := (a * b + 4096) / 8192
  if w = 16 ∧ (a * b) % 8192 ≠ 4096 ∧ -32768 ≤ r ∧ r < 32768 then some r else none

/-- One element of an integer or multiply operation: `a` and `b` are the operands, `d` the destination's old element. -/
def elemResult (op : VecOp) (w a b d : Nat) : Option Nat :=
  let sa := signed w a
  let sb := signed w b
  match op with
  | .vadd => some (unsigned w (a + b))
  | .vsub => some (unsigned w ((a : Int) - b))
  | .vadds => saturated w ((a : Int) + b) (sa + sb)
  | .vsubs => saturated w ((a : Int) - b) (sa - sb)
  | .vand => some (a &&& b)
  | .vor => some (a ||| b)
  | .vxor => some (a ^^^ b)
  | .vsll => elemShift w b (a * 2 ^ b)
  | .vsrl => elemShift w b (a / 2 ^ b : Nat)
  | .vsra => elemShift w b (sa / 2 ^ b)
  | .vmin => some (if sa ≤ sb then a else b)
  | .vmax => some (if sa ≤ sb then b else a)
  | .vminu => some (min a b)
  | .vmaxu => some (max a b)
  | .vmov => some b
  | .vmul => some (unsigned w ((a : Int) * b))
  | .vmulh => some (unsigned w (sa * sb / 2 ^ w))
  | .vmulq13 => (q13 w sa sb).map (unsigned w)
  | .vmac => some (unsigned w ((d : Int) + (a : Int) * b))
  | .vmacq13 => match q13 w sa sb with
    | some r => let t := signed w d + r
      if -32768 ≤ t ∧ t < 32768 then some (unsigned w t) else none
    | none => none
  | _ => none

/-- A reduction of the elements of the first operand; the larger and the smaller are of signed values, as of VMAX and VMIN. -/
def VecInstr.reduced (i : VecInstr) (x : Engine) : Option Nat :=
  let es := (List.range i.count).map (elemOf i.width (x.vec i.vs1))
  let pick (f : Int → Int → Bool) : Option Nat := match es with
    | [] => none
    | a :: as => some (as.foldl (fun a b => if f (signed i.width a) (signed i.width b) then a else b) a)
  match i.op with
  | .vredadd => some (es.sum % 2 ^ i.width)
  | .vredmax => pick (fun a b => decide (b ≤ a))
  | .vredmin => pick (fun a b => decide (a ≤ b))
  | _ => none

/-- The second operand as a vector. -/
def VecInstr.secondVec (i : VecInstr) (x : Engine) : BitVec 512 := vecOf i.width ((List.range i.count).map (i.second x))

/-- Element `j` of VCRC64: each 64-bit lane of the destination is a CRC-64 of ECMA-182, which takes in more bytes (R189). -/
def VecInstr.crcElem (i : VecInstr) (x : Engine) (j : Nat) : Nat :=
  let lane := i.width * j / 64
  crc64More (elemOf 64 (x.vec i.vd) lane) (Config.crcBytes (x.vec i.vs1) (i.secondVec x) lane) / 2 ^ (i.width * j % 64) % 2 ^ i.width

/-- The local data address from which VLUT takes element `j`: the entry of the 12-bit index that the first operand's element gives, of the element's size. -/
def VecInstr.lutAddr (i : VecInstr) (x : Engine) (j : Nat) : Nat :=
  Config.lutPlace (i.second x j) (elemOf i.width (x.vec i.vs1) j % 4096) % (0x20000 / 2 ^ i.ew) * 2 ^ i.ew

/-- The bits of a pixel, and the low bit and the length of its R, G and B (Table 6.8, R252). -/
def PixFmt.bits : PixFmt → Nat
  | .p16 => 16
  | .p24 => 24
  | .p32a => 32
  | .p32h => 32
  | .l48 => 48
  | .l36 => 36
def PixFmt.fields : PixFmt → List (Nat × Nat)
  | .p16 => [(11, 5), (5, 6), (0, 5)]
  | .p24 => [(16, 8), (8, 8), (0, 8)]
  | .p32a => [(16, 8), (8, 8), (0, 8)]
  | .p32h => [(20, 10), (10, 10), (0, 10)]
  | .l48 => [(0, 16), (16, 16), (32, 16)]
  | .l36 => [(0, 12), (12, 12), (24, 12)]

/-- The whole pixels in 64 bytes. -/
def PixFmt.count (f : PixFmt) : Nat := 512 / f.bits

/-- Channel `c` of pixel `p` of packed pixels. -/
def PixFmt.channel (f : PixFmt) (v : BitVec 512) (p c : Nat) : Nat :=
  let (lo, len) := f.fields.getD c (0, 0)
  v.toNat / 2 ^ (f.bits * p + lo) % 2 ^ len

/-- A code of a channel as a 16-bit element, and such an element as a code (DESIGN CHOICE, log entry 36: one of 16 bits is taken as it is, and how another is
scaled is left open). -/
def widen (bits code : Nat) : Nat := if bits = 16 then code else Config.widened bits code % 2 ^ 16
def narrow (bits x : Nat) : Nat := if bits = 16 then x else Config.narrowed bits x % 2 ^ bits

/-- The 16-bit element `j` that VUNPK makes: one channel of one pixel of the first operand. -/
def VecInstr.unpacked (i : VecInstr) (x : Engine) (f : PixFmt) (j : Nat) : Nat :=
  let n := Config.unpackPlace f.bits (i.second x 0) j % (3 * f.count)
  widen (f.fields.getD (n % 3) (0, 0)).2 (f.channel (x.vec i.vs1) (n / 3) (n % 3))

/-- The channel `c` of pixel `p` that VPACK makes, from a 16-bit element of its two operands. -/
def VecInstr.packed (i : VecInstr) (x : Engine) (f : PixFmt) (p c : Nat) : Nat :=
  let n := Config.packPlace f.bits (3 * p + c) % 64
  narrow (f.fields.getD c (0, 0)).2 (elemOf 16 (if n < 32 then x.vec i.vs1 else i.secondVec x) (n % 32))

/-- The result of VPACK: its pixels in ascending address order, and what no channel gives. -/
def VecInstr.packedVec (i : VecInstr) (x : Engine) (f : PixFmt) : BitVec 512 :=
  let taken := (f.fields.map (·.2)).sum
  let rest := Config.packRest (x.vec i.vs1) (i.secondVec x)
  let pixel (p : Nat) : Nat :=
    ((List.range 3).map (fun c => i.packed x f p c * 2 ^ (f.fields.getD c (0, 0)).1)).sum + rest p % 2 ^ (f.bits - taken) * 2 ^ taken
  BitVec.ofNat 512 (((List.range f.count).map (fun p => pixel p * 2 ^ (f.bits * p))).sum
    + rest f.count % 2 ^ (512 - f.bits * f.count) * 2 ^ (f.bits * f.count))

/-- Element `j` where it does not come from the two operands' elements `j` alone: a reduction in element 0, a gather from local data memory, a CRC, pixels unpacked or
packed (DESIGN CHOICE, log entry 36: where a reduction stands, what a CRC takes in, and where channels stand, the manual does not say). -/
def VecInstr.wideElem (i : VecInstr) (x : Engine) (e : Nat) (m : Memory) (j : Nat) : Option Nat :=
  match i.op with
  | .vcrc64 => some (i.crcElem x j)
  | .vlut => some (ofLe (Memory.bytesOf m.dmem (Memory.localBase e + i.lutAddr x j) (2 ^ i.ew)))
  | .vunpk f => some (elemOf i.width (vecOf 16 ((List.range 32).map (i.unpacked x f))) j)
  | .vpack f => some (elemOf i.width (i.packedVec x f) j)
  | _ => if j = 0 then i.reduced x else none

/-- A comparison of two elements; none where the operation is not one. -/
def compareResult (op : VecOp) (w a b : Nat) : Option Bool :=
  match op with
  | .vcmpeq => some (a == b)
  | .vcmplt => some (decide (signed w a < signed w b))
  | .vcmpltu => some (decide (a < b))
  | _ => none

/-- An operation that writes a mask (R322). -/
def VecOp.writesMask : VecOp → Bool
  | .vcmpeq => true
  | .vcmplt => true
  | .vcmpltu => true
  | .kand => true
  | .kor => true
  | .kxor => true
  | .knot => true
  | .stok => true
  | _ => false

/-- The bits of a mask operation on whole masks; `j` is the bit. -/
def maskResult (i : VecInstr) (x : Engine) (j : Nat) : Option Bool :=
  match i.op with
  | .kand => some (bitOf (x.mask i.vs1) j && bitOf (x.mask i.r2) j)
  | .kor => some (bitOf (x.mask i.vs1) j || bitOf (x.mask i.r2) j)
  | .kxor => some (bitOf (x.mask i.vs1) j != bitOf (x.mask i.r2) j)
  | .knot => some (!bitOf (x.mask i.vs1) j)
  | .stok => if j < 32 then some (bitOf (x.n i.r2) j) else none
  | op => if j < i.count then compareResult op i.width (elemOf i.width (x.vec i.vs1) j) (i.second x j) else none

/-! ## Execution -/

/-- The fields that an operation of Table 13.5 does not use: its first operand, its second, and the high bits of a mask operand. -/
def VecInstr.unused (i : VecInstr) : Bool :=
  match i.op with
  | .vmov | .stok => i.vs1 % 16 != 0
  | .knot | .ktos => decide (4 ≤ i.vs1 % 16) || i.r2 % 32 != 0 || i.s
  | .kand | .kor | .kxor => decide (4 ≤ i.vs1 % 16) || decide (4 ≤ i.r2 % 32) || i.s
  | .vredadd | .vredmax | .vredmin => i.r2 % 32 != 0 || i.s
  | _ => false

/-- A field that the format does not allow, or that the instruction does not use, is not zero (R322). -/
def VecInstr.illegal (i : VecInstr) : Bool :=
  decide (3 ≤ i.ew) || (!i.s && decide (16 ≤ i.r2)) || (!i.p && i.k != 0) || (i.op.writesMask && decide (4 ≤ i.vd % 16)) || i.unused

/-- The registers that the instruction reads or writes. -/
def VecInstr.regs (i : VecInstr) : List Nat :=
  [vecReg i.vd, vecReg i.vs1, if i.s then i.r2 % 32 else vecReg i.r2] ++ (if i.op == .ktos || i.op == .stok then [i.vd % 32, i.r2 % 32] else [])

/-- A mask destination: each bit that the predicate enables takes its result or a free value. -/
def Hub.maskValue (h : Hub) (i : VecInstr) (x : Engine) : Nat :=
  maskOf 64 (fun j => if i.writes x j then (maskResult i x j).getD (bitOf (h.freeAt j) 0) else bitOf (x.mask i.vd) j)

/-- A vector destination: each element that the predicate enables takes its result or a free value. -/
def Hub.vectorValue (h : Hub) (m : Memory) (e : Nat) (i : VecInstr) (x : Engine) : BitVec 512 :=
  vecOf i.width ((List.range i.count).map (fun j =>
    let d := elemOf i.width (x.vec i.vd) j
    if i.writes x j then
      (match elemResult i.op i.width (elemOf i.width (x.vec i.vs1) j) (i.second x j) d with
        | some v => v
        | none => (i.wideElem x e m j).getD (h.freeAt j))
    else d))

/-- The first entry that VLUT reads in a line with a double error (R152, R337). -/
def VecInstr.lutBad (i : VecInstr) (x : Engine) (e : Nat) (m : Memory) : Option Nat :=
  if i.op != .vlut || m.dmemBad.isEmpty then none
  else (((List.range i.count).filter (i.writes x)).map (i.lutAddr x)).find? (fun a => m.lineBroken (.dmem e) (a / 32))

/-- KTOS: the low 32 bits of a mask go to a scalar register; those of 64 elements do not fit, and the manual does not say what results. -/
def Hub.ktosValue (h : Hub) (i : VecInstr) (x : Engine) : Word :=
  if i.ew = 0 then BitVec.ofNat 32 (h.freeAt 0) else BitVec.ofNat 32 (x.mask i.vs1)

/-- A V-format instruction. -/
def vectorOf (e : Nat) (i : VecInstr) : State → State := engStep e i.regs (fun s =>
  let x := s.hub.eng e
  let s1 : State := { s with hub := s.hub.drew 64 }
  if i.illegal then engTrap e 1 0 s
  else match i.lutBad x e s.mem with
  | some a => engTrap e 6 ((0x20000 + a) / 64 * 64) { s with hub := s.hub.localDouble s.glob e false false }
  | none =>
    if i.op.writesMask then engDone e true (fun x' => x'.setMask i.vd (s.hub.maskValue i x)) s1
    else if i.op = .ktos then engDone e true (fun x' => x'.setReg i.vd (s.hub.ktosValue i x)) s1
    else engDone e true (fun x' => x'.setVec i.vd (s.hub.vectorValue s.mem e i x)) s1)

def execVectorOp (e : Nat) (i : VecInstr) (fetch : LineErr) (s : State) : Host.Outcome State Fault Refusal := .next (vectorOf e i (fetchLine e fetch s))

end Sys2Proof.Machine
end

