-- ==== Sys2Proof/Machine/Dispatch.lean ====
section
/-! DEFINITION. One arm for each command: a direct call of its meaning. -/

namespace Sys2Proof.Machine

/-- What a command does to the state; its queue is left as it is. -/
def exec (i : Instr) (s : State) : Host.Outcome State Fault Refusal :=
  match i with
  | .cfgStage q tag writes table lines => Sys2Proof.Machine.execCfgStage q tag writes table lines s
  | .cfgCommit q tag => Sys2Proof.Machine.execCfgCommit q tag s
  | .commitCheckDone errs lines => Sys2Proof.Machine.execCommitCheckDone errs lines s
  | .commitApply errs => Sys2Proof.Machine.execCommitApply errs s
  | .cfgDiscard q tag => Sys2Proof.Machine.execCfgDiscard q tag s
  | .cfgRead q tag => Sys2Proof.Machine.execCfgRead q tag s
  | .directWriteRefused who off value => Sys2Proof.Machine.execDirectWriteRefused who off value s
  | .census q tag => Sys2Proof.Machine.execCensus q tag s
  | .censusWaitEnd q tag bad => Sys2Proof.Machine.execCensusWaitEnd q tag bad s
  | .framePost q tag data errs => Sys2Proof.Machine.execFramePost q tag data errs s
  | .frameArm q tag => Sys2Proof.Machine.execFrameArm q tag s
  | .workPost q tag => Sys2Proof.Machine.execWorkPost q tag s
  | .workCancel q tag => Sys2Proof.Machine.execWorkCancel q tag s
  | .calLoad q tag data errs => Sys2Proof.Machine.execCalLoad q tag data errs s
  | .calRead q tag errs => Sys2Proof.Machine.execCalRead q tag errs s
  | .calMeasure q tag seq errs => Sys2Proof.Machine.execCalMeasure q tag seq errs s
  | .logRead q tag lines => Sys2Proof.Machine.execLogRead q tag lines s
  | .logClear q tag token => Sys2Proof.Machine.execLogClear q tag token s
  | .fwStage q tag data => Sys2Proof.Machine.execFwStage q tag data s
  | .fwActivate q tag => Sys2Proof.Machine.execFwActivate q tag s
  | .fwConfirm q tag => Sys2Proof.Machine.execFwConfirm q tag s
  | .timeSet q tag => Sys2Proof.Machine.execTimeSet q tag s
  | .timeAcceptJump q tag => Sys2Proof.Machine.execTimeAcceptJump q tag s
  | .deferredJumpApply t => Sys2Proof.Machine.execDeferredJumpApply t s
  | .abortEngine q tag hung errs => Sys2Proof.Machine.execAbortEngine q tag hung errs s
  | .abortRing q tag hung => Sys2Proof.Machine.execAbortRing q tag hung s
  | .abortColLevel q tag hung => Sys2Proof.Machine.execAbortColLevel q tag hung s
  | .abortPipe q tag hung => Sys2Proof.Machine.execAbortPipe q tag hung s
  | .abortPort q tag hung => Sys2Proof.Machine.execAbortPort q tag hung s
  | .abortFlow q tag hung => Sys2Proof.Machine.execAbortFlow q tag hung s
  | .abortRadio q tag hung => Sys2Proof.Machine.execAbortRadio q tag hung s
  | .targetQuiesced kind index units => Sys2Proof.Machine.execTargetQuiesced kind index units s
  | .abortEscalation kind index => Sys2Proof.Machine.execAbortEscalation kind index s
  | .blockResetDone kind index units errs => Sys2Proof.Machine.execBlockResetDone kind index units errs s
  | .blockResetTimeout kind index => Sys2Proof.Machine.execBlockResetTimeout kind index s
  | .tileSend q tag payload => Sys2Proof.Machine.execTileSend q tag payload s
  | .pairQuery q tag => Sys2Proof.Machine.execPairQuery q tag s
  | .pairEnable q tag => Sys2Proof.Machine.execPairEnable q tag s
  | .pairDisable q tag => Sys2Proof.Machine.execPairDisable q tag s
  | .requestActive q tag opposed => Sys2Proof.Machine.execRequestActive q tag opposed s
  | .requestStandby q tag opposed => Sys2Proof.Machine.execRequestStandby q tag opposed s
  | .sqTail n value whole => Sys2Proof.Machine.execSqTail n value whole s
  | .cqHead n value whole => Sys2Proof.Machine.execCqHead n value whole s
  | .evqHead value whole => Sys2Proof.Machine.execEvqHead value whole s
  | .vecRearm v whole => Sys2Proof.Machine.execVecRearm v whole s
  | .descriptorFetch n bytes lines => Sys2Proof.Machine.execDescriptorFetch n bytes lines s
  | .dmaReadTimeout q tag poisoned errs => Sys2Proof.Machine.execDmaReadTimeout q tag poisoned errs s
  | .hostRegionReset => Sys2Proof.Machine.execHostRegionReset s
  | .sqCtlWrite who n value => Sys2Proof.Machine.execSqCtlWrite who n value s
  | .cqCtlWrite who n value => Sys2Proof.Machine.execCqCtlWrite who n value s
  | .evqCtlWrite who value => Sys2Proof.Machine.execEvqCtlWrite who value s
  | .sqEpochWrite who n value => Sys2Proof.Machine.execSqEpochWrite who n value s
  | .intSrcMapWrite who n value => Sys2Proof.Machine.execIntSrcMapWrite who n value s
  | .msixMessage v => Sys2Proof.Machine.execMsixMessage v s
  | .msixCapabilityWrite enable fmask => Sys2Proof.Machine.execMsixCapabilityWrite enable fmask s
  | .msixTableWrite off value size => Sys2Proof.Machine.execMsixTableWrite off value size s
  | .registerWrite who off value size => Sys2Proof.Machine.execRegisterWrite who off value size s
  | .forceSafe who => Sys2Proof.Machine.execForceSafe who s
  | .glbLnkClr who => Sys2Proof.Machine.execGlbLnkClr who s
  | .flitCrcError x again b => Sys2Proof.Machine.execFlitCrcError x again b s
  | .isolation b => Sys2Proof.Machine.execIsolation b s
  | .isolationTimeout b => Sys2Proof.Machine.execIsolationTimeout b s
  | .safeStateEntry causes => Sys2Proof.Machine.execSafeStateEntry causes s
  | .rootPllLockLost => Sys2Proof.Machine.execRootPllLockLost s
  | .refclkFailure => Sys2Proof.Machine.execRefclkFailure s
  | .ppsSnapshot => Sys2Proof.Machine.execPpsSnapshot s
  | .ptpMessageReceive n domain l2 phase m => Sys2Proof.Machine.execPtpMessageReceive n domain l2 phase m s
  | .sourceLoss t => Sys2Proof.Machine.execSourceLoss t s
  | .qualityChange t => Sys2Proof.Machine.execQualityChange t s
  | .tioInputEdge p rise quarter => Sys2Proof.Machine.execTioInputEdge p rise quarter s
  | .compareFire c => Sys2Proof.Machine.execCompareFire c s
  | .ppsOutput p => Sys2Proof.Machine.execPpsOutput p s
  | .tioPulseEnd p => Sys2Proof.Machine.execTioPulseEnd p s
  | .roundTripMeasurement n => Sys2Proof.Machine.execRoundTripMeasurement n s
  | .timeBaseSend n => Sys2Proof.Machine.execTimeBaseSend n s
  | .netFrameReceive n sub frame fcsOk => Sys2Proof.Machine.execNetFrameReceive n sub frame fcsOk s
  | .netLinkUp n sub => Sys2Proof.Machine.execNetLinkUp n sub s
  | .netLinkDown n sub => Sys2Proof.Machine.execNetLinkDown n sub s
  | .pauseFrameReceive n sub pfc times => Sys2Proof.Machine.execPauseFrameReceive n sub pfc times s
  | .netPauseHoldEnd n sub cls => Sys2Proof.Machine.execNetPauseHoldEnd n sub cls s
  | .netQueueHoldEvent n sub q => Sys2Proof.Machine.execNetQueueHoldEvent n sub q s
  | .flowPacket f path pkt freed errs lines => Sys2Proof.Machine.execFlowPacket f path pkt freed errs lines s
  | .flowFrameComplete f => Sys2Proof.Machine.execFlowFrameComplete f s
  | .flowPathTimeout f path => Sys2Proof.Machine.execFlowPathTimeout f path s
  | .sacnPacket n sub p errs lines => Sys2Proof.Machine.execSacnPacket n sub p errs lines s
  | .sacnSyncPacket n sub addr => Sys2Proof.Machine.execSacnSyncPacket n sub addr s
  | .sacnSourceTimeout u cid => Sys2Proof.Machine.execSacnSourceTimeout u cid s
  | .sacnSyncTimeout addr => Sys2Proof.Machine.execSacnSyncTimeout addr s
  | .sramScrub w line err => Sys2Proof.Machine.execSramScrub w line err s
  | .dramPatrolScrub block err => Sys2Proof.Machine.execDramPatrolScrub block err s
  | .frameBoundary pg errs act => Sys2Proof.Machine.execFrameBoundary pg errs act s
  | .virtualLine pg bad errs => Sys2Proof.Machine.execVirtualLine pg bad errs s
  | .applyLine pg => Sys2Proof.Machine.execApplyLine pg s
  | .flipSend p => Sys2Proof.Machine.execFlipSend p s
  | .fbArmGo who p => Sys2Proof.Machine.execFbArmGo who p s
  | .fbArmClr who p => Sys2Proof.Machine.execFbArmClr who p s
  | .calCopyDone p errs => Sys2Proof.Machine.execCalCopyDone p errs s
  | .statInitDone p errs => Sys2Proof.Machine.execStatInitDone p errs s
  | .statSample errs => Sys2Proof.Machine.execStatSample errs s
  | .statFold p errs => Sys2Proof.Machine.execStatFold p errs s
  | .msrStep errs => Sys2Proof.Machine.execMsrStep errs s
  | .msrRunEnd => Sys2Proof.Machine.execMsrRunEnd s
  | .msrStop who => Sys2Proof.Machine.execMsrStop who s
  | .trainingStart n => Sys2Proof.Machine.execTrainingStart n s
  | .trainingAttemptTimeout n => Sys2Proof.Machine.execTrainingAttemptTimeout n s
  | .trainingWaitEnd n => Sys2Proof.Machine.execTrainingWaitEnd n s
  | .nshLinkUp n => Sys2Proof.Machine.execNshLinkUp n s
  | .enumWaitEnd n errs => Sys2Proof.Machine.execEnumWaitEnd n errs s
  | .blockLockLoss n => Sys2Proof.Machine.execBlockLockLoss n s
  | .lockLossTimeout n => Sys2Proof.Machine.execLockLossTimeout n s
  | .nshFrameReject n why => Sys2Proof.Machine.execNshFrameReject n why s
  | .ackReceive n k queue seq unsupported => Sys2Proof.Machine.execAckReceive n k queue seq unsupported s
  | .tilePause n k mask time => Sys2Proof.Machine.execTilePause n k mask time s
  | .tilePauseHoldEnd n k => Sys2Proof.Machine.execTilePauseHoldEnd n k s
  | .tileHoldEvent n q => Sys2Proof.Machine.execTileHoldEvent n q s
  | .identityAnswer n k seq answer errs => Sys2Proof.Machine.execIdentityAnswer n k seq answer errs s
  | .digestAnswer n k seq answer => Sys2Proof.Machine.execDigestAnswer n k seq answer s
  | .faultReport n k seq report => Sys2Proof.Machine.execFaultReport n k seq report s
  | .frameReport n k report => Sys2Proof.Machine.execFrameReport n k report s
  | .measurementAnswer n k phase answer => Sys2Proof.Machine.execMeasurementAnswer n k phase answer s
  | .retryTimeout n queue dest seq => Sys2Proof.Machine.execRetryTimeout n queue dest seq s
  | .rateShift n => Sys2Proof.Machine.execRateShift n s
  | .rateShiftComplete n => Sys2Proof.Machine.execRateShiftComplete n s
  | .shiftLockTimeout n => Sys2Proof.Machine.execShiftLockTimeout n s
  | .glbNshHint who value => Sys2Proof.Machine.execGlbNshHint who value s
  | .fixtureTick pg errs lines => Sys2Proof.Machine.execFixtureTick pg errs lines s
  | .fixHeldRelease n errs => Sys2Proof.Machine.execFixHeldRelease n errs s
  | .downlinkRound r round tx errs => Sys2Proof.Machine.execDownlinkRound r round tx errs s
  | .beaconSend r tx => Sys2Proof.Machine.execBeaconSend r tx s
  | .beaconSfdCapture r quarter => Sys2Proof.Machine.execBeaconSfdCapture r quarter s
  | .assocReq r src seq hop ext req => Sys2Proof.Machine.execAssocReq r src seq hop ext req s
  | .keepalive r src seq hop => Sys2Proof.Machine.execKeepalive r src seq hop s
  | .odlFrameReject r fcs => Sys2Proof.Machine.execOdlFrameReject r fcs s
  | .nodeAdrift r a => Sys2Proof.Machine.execNodeAdrift r a s
  | .addrLeaseEnd r a => Sys2Proof.Machine.execAddrLeaseEnd r a s
  | .transceiverRetry r answers => Sys2Proof.Machine.execTransceiverRetry r answers s
  | .scalarAlu e ins fetch => Sys2Proof.Machine.execScalarAlu e ins fetch s
  | .branch e ins fetch => Sys2Proof.Machine.execBranch e ins fetch s
  | .load e op rt rb off hi errs lines fetch => Sys2Proof.Machine.execLoad e op rt rb off hi errs lines fetch s
  | .loadResponse e k => Sys2Proof.Machine.execLoadResponse e k s
  | .store e op rt rb off hi errs lines fetch => Sys2Proof.Machine.execStore e op rt rb off hi errs lines fetch s
  | .storeErrorResponse e => Sys2Proof.Machine.execStoreErrorResponse e s
  | .atomic e op rd rs1 rs2 hi lines fetch => Sys2Proof.Machine.execAtomic e op rd rs1 rs2 hi lines fetch s
  | .vectorOp e ins fetch => Sys2Proof.Machine.execVectorOp e ins fetch s
  | .wget e rd rs1 rs2 fetch => Sys2Proof.Machine.execWget e rd rs1 rs2 fetch s
  | .wdone e rs1 rs2 fetch => Sys2Proof.Machine.execWdone e rs1 rs2 fetch s
  | .wpost e rd rs1 rs2 lines fetch => Sys2Proof.Machine.execWpost e rd rs1 rs2 lines fetch s
  | .wdefer e rd rs1 rs2 fetch => Sys2Proof.Machine.execWdefer e rd rs1 rs2 fetch s
  | .cntrd e rd n high fetch => Sys2Proof.Machine.execCntrd e rd n high fetch s
  | .fence e set fetch => Sys2Proof.Machine.execFence e set fetch s
  | .csrr e rd csr fetch => Sys2Proof.Machine.execCsrr e rd csr fetch s
  | .csrw e csr rs1 fetch => Sys2Proof.Machine.execCsrw e csr rs1 fetch s
  | .eret e fetch => Sys2Proof.Machine.execEret e fetch s
  | .trap e code fetch => Sys2Proof.Machine.execTrap e code fetch s
  | .npost e rd rs1 rs2 hi errs lines fetch => Sys2Proof.Machine.execNpost e rd rs1 rs2 hi errs lines fetch s
  | .signal e rs1 fetch => Sys2Proof.Machine.execSignal e rs1 fetch s
  | .bkpt e fetch => Sys2Proof.Machine.execBkpt e fetch s
  | .engineStart who e reload => Sys2Proof.Machine.execEngineStart who e reload s
  | .engineStop who e reload => Sys2Proof.Machine.execEngineStop who e reload s
  | .engineImageLoaded e errs => Sys2Proof.Machine.execEngineImageLoaded e errs s
  | .colGrant line => Sys2Proof.Machine.execColGrant line s
  | .talusExpiry lines => Sys2Proof.Machine.execTalusExpiry lines s
  | .saddleLinkUp nonce role later => Sys2Proof.Machine.execSaddleLinkUp nonce role later s
  | .saddleLinkDown lanes => Sys2Proof.Machine.execSaddleLinkDown lanes s
  | .saddleKeepalive => Sys2Proof.Machine.execSaddleKeepalive s
  | .armRecord p frame arm => Sys2Proof.Machine.execArmRecord p frame arm s
  | .armRecordDeadline p => Sys2Proof.Machine.execArmRecordDeadline p s
  | .mirroredFrame n f errs => Sys2Proof.Machine.execMirroredFrame n f errs s
  | .mirrorReceipt n => Sys2Proof.Machine.execMirrorReceipt n s
  | .commitNotice at_ epoch digest errs lines => Sys2Proof.Machine.execCommitNotice at_ epoch digest errs lines s
  | .stateCopy data last errs => Sys2Proof.Machine.execStateCopy data last errs s
  | .healthRecord rec later => Sys2Proof.Machine.execHealthRecord rec later s
  | .heartbeatMiss => Sys2Proof.Machine.execHeartbeatMiss s
  | .outputDigest n frame digest => Sys2Proof.Machine.execOutputDigest n frame digest s
  | .saddleTimeTransfer offs => Sys2Proof.Machine.execSaddleTimeTransfer offs s
  | .trialTimeout => Sys2Proof.Machine.execTrialTimeout s
  | .fwuReady who tileAuto => Sys2Proof.Machine.execFwuReady who tileAuto s
  | .fwuReject who reason => Sys2Proof.Machine.execFwuReject who reason s
  | .setPairingKey e errs => Sys2Proof.Machine.execSetPairingKey e errs s
  | .saveSecRegisters e => Sys2Proof.Machine.execSaveSecRegisters e s
  | .revokeKey e => Sys2Proof.Machine.execRevokeKey e s
  | .crnTrig who unit => Sys2Proof.Machine.execCrnTrig who unit s
  | .crnClrSnap who => Sys2Proof.Machine.execCrnClrSnap who s
  | .crnClrRec who => Sys2Proof.Machine.execCrnClrRec who s
  | .snapshotWrite => Sys2Proof.Machine.execSnapshotWrite s
  | .recordWrite => Sys2Proof.Machine.execRecordWrite s
  | .pmuFreeze who freeze => Sys2Proof.Machine.execPmuFreeze who freeze s
  | .pmuClrAll who freeze => Sys2Proof.Machine.execPmuClrAll who freeze s
  | .pmuEngineClr who e userRd => Sys2Proof.Machine.execPmuEngineClr who e userRd s
  | .pmuSetClr who set => Sys2Proof.Machine.execPmuSetClr who set s
  | .pmuLoRead who off => Sys2Proof.Machine.execPmuLoRead who off s
  | .powerStateEntry => Sys2Proof.Machine.execPowerStateEntry s
  | .wake code => Sys2Proof.Machine.execWake code s
  | .domainPowerOff who d => Sys2Proof.Machine.execDomainPowerOff who d s
  | .domainPowerOn who d => Sys2Proof.Machine.execDomainPowerOn who d s
  | .pwrCtlWrite who value => Sys2Proof.Machine.execPwrCtlWrite who value s
  | .pwrResClr who => Sys2Proof.Machine.execPwrResClr who s
  | .thermalSample temps => Sys2Proof.Machine.execThermalSample temps s
  | .thermtrip => Sys2Proof.Machine.execThermtrip s
  | .coldReset boot lanes pair ramp densA densB => Sys2Proof.Machine.execColdReset boot lanes pair ramp densA densB s
  | .porstLow => Sys2Proof.Machine.execPorstLow s
  | .supplyDroop => Sys2Proof.Machine.execSupplyDroop s
  | .warmReset who => Sys2Proof.Machine.execWarmReset who s
  | .ptpMessageSend t n seq phase m => Sys2Proof.Machine.execPtpMessageSend t n seq phase m s
  | .illegalInstruction e word fetch => Sys2Proof.Machine.execIllegalInstruction e word fetch s
  | .dmaTransferDone q tag errs => Sys2Proof.Machine.execDmaTransferDone q tag errs s
  | .flashOperationDone => Sys2Proof.Machine.execFlashOperationDone s
  | .engineBist e fails => Sys2Proof.Machine.execEngineBist e fails s
  | .prbsTestBlock bad => Sys2Proof.Machine.execPrbsTestBlock bad s
  | .saddleKeepaliveReceive => Sys2Proof.Machine.execSaddleKeepaliveReceive s
  | .saddlePacketDiscard tagFails counter => Sys2Proof.Machine.execSaddlePacketDiscard tagFails counter s
  | .standbyEnumRequest n => Sys2Proof.Machine.execStandbyEnumRequest n s
  | .shiftReceive n rate => Sys2Proof.Machine.execShiftReceive n rate s
  | .odlSeenFrame r src seq => Sys2Proof.Machine.execOdlSeenFrame r src seq s
  | .jtagAccess target write errs line => Sys2Proof.Machine.execJtagAccess target write errs line s

end Sys2Proof.Machine
end

