-- ==== Sys2Proof/Machine/Idle.lean ====
section
/-! DEFINITION. What one PCLK cycle of 2.5 ns does by itself: the clock, the time bases (R88), the counters of R419 to R423, R425 and R428, the
fall-through FIFOs (R158), the transmit queues (R118) and the tile bundles (R400). Every other event of the hub is a command of its own. -/

namespace Sys2Proof.Machine

/-- What a base adds in one PCLK cycle, in units of 2^-48 ns: 2.5 ns × (1 + f), with f in 1/256 ppb (R88). -/
def baseStep (f : Int) : Int := 5 * 2 ^ 47 + 5 * 2 ^ 47 * f / 256000000000

/-- The four bases advance; while the root PLL is out of lock they stop (R462). -/
def Hub.tickBases (h : Hub) : Hub :=
  if h.power.rootLock then
    (List.range 4).foldl (fun h t => h.setBase t { h.base t with t48 := addTime (h.base t).t48 (baseStep (h.base t).freq) }) h
  else h

/-! ## Engine counters (R419 to R423): three ECLK cycles to a PCLK cycle -/

/-- The slots of three ECLK cycles that nothing has used (R422). -/
def Hub.slotsLeft (h : Hub) (e : Nat) : Nat := 6 - min 6 (Sparse.get 0 h.slots e)

/-- The slots of three ECLK cycles that an event counts: of an engine that waits in WGET all are of class 3; of one that runs those in which nothing issued are of
classes 4, 5 and 6, and how many of each the manual's time for an instruction leaves open: free values (DESIGN CHOICE, log entry 38). -/
def Hub.slotCount (h : Hub) (e ev : Nat) : Nat :=
  let rest := h.slotsLeft e
  let fetch := h.freeAt 0 % (rest + 1)
  let mem := h.freeAt 1 % (rest - fetch + 1)
  match (h.eng e).phase, ev with
  | .waiting, 0x04 | .waiting, 0x07 | .running, 0x07 => rest
  | .running, 0x03 => fetch
  | .running, 0x05 => mem
  | .running, 0x06 => rest - fetch - mem
  | _, _ => 0

/-- The clock of SE4 to SE23 is gated in D2 (Table 19.2). -/
def Hub.engGated (h : Hub) (e : Nat) : Bool := h.power.state == 2 && decide (4 ≤ e)

/-- What another event counts in three ECLK cycles: those in which both slots issue, at most one to two slots used, and those with the clock gated, which the
hardware may do to an engine that does not run (free values, log entry 38). -/
def Hub.cycleCount (h : Hub) (e ev : Nat) : Nat :=
  match ev with
  | 0x12 => h.freeAt 2 % (min 6 (Sparse.get 0 h.slots e) / 2 + 1)
  | 0x1C => if h.engGated e then 3 else if (h.eng e).phase == .running then 0 else h.freeAt 3 % 4
  | _ => h.slotCount e ev

/-- The value of an occupancy event, where the code is one (Table 18.1). How long a store stays in the buffer of 32 is free. -/
def Hub.occupancy (h : Hub) (e k ev : Nat) : Option Nat :=
  if ev = 0x40 then some (h.eng e).loads.length
  else if ev = 0x41 then some (h.freeAt (4 + k) % 33)
  else if 0x48 ≤ ev && ev < 0x50 then some (h.levelWaiting (ev - 0x48))
  else none

/-- What counter `k` of an engine adds in one PCLK cycle for the slots and cycles that no command has counted. -/
def Hub.tickCount (h : Hub) (e k : Nat) : Nat :=
  let ev := h.f (Reg.PMUe_EVSELk e k) 7 0
  if !h.countsEvent e k ev then 0
  else match h.occupancy e k ev with
    | some o =>
      if h.bit (Reg.PMUe_EVSELk e k) 11 then (if h.f (Reg.PMUe_EVSELk e k) 28 16 < o then 3 else 0) else 3 * o
    | none => if h.bit (Reg.PMUe_EVSELk e k) 11 then 0 else h.cycleCount e ev

/-- The clock tree of the engines runs: in D0, and in D2, in which those of SE4 to SE23 are gated (Table 19.2). -/
def Hub.eclkRuns (h : Hub) : Bool := h.power.state == 0 || h.power.state == 2

/-- The counters of an engine in one PCLK cycle: the cycle counter in STATE 1 to 4, and the programmable ones. -/
def Hub.tickEngine (h : Hub) (e : Nat) : Hub :=
  if !h.eclkRuns then h
  else
    let h1 := if h.pmuFrozen e || (h.eng e).phase == .off || (h.eng e).phase == .failed then h
      else ((List.range 8).foldl (fun h' k => h'.pmuEngAdd e k (h.tickCount e k)) (h.pmuEngAdd e 8 3)).drew 12
    if Sparse.get 0 h.slots e = 0 then h1 else { h1 with slots := Sparse.mod 0 h1.slots e (· - 6) }

/-! ## Block counters (R425, R428) -/

/-- The lane of a port: the frame in transmission goes on, also while the port shifts; in STATE 2 the time not carried by frames becomes IDLE_BLK, and each
millisecond counts at its rate. -/
def Hub.tickLane (h : Hub) (n : Nat) : Hub :=
  let idle := (h.port n).idle + 250
  if (h.port n).phase ≠ .up then (if (h.port n).quiet then h else h.modPort n (fun p => { p with idle := min idle 0 })) else
  let blk := blockTime (h.port n).rate
  let blocks := idle.toNat / blk
  let h1 := (h.modPort n (fun p => { p with idle := idle - (blocks * blk : Nat) })).pmuAdd (Reg.PMU_NSHn_IDLE_BLK_LO n) blocks
  if h.clock % cyclesPerMs = 0 && !h.bit Reg.PMU_CTL 0 then h1.count (Reg.PMU_NSHn_RATE_MSr n (h.port n).rate) 32 else h1

/-- A port has a frame to send, of its own or for its chain. -/
def Hub.portWaits (h : Hub) (n : Nat) : Bool :=
  let p := h.port (h.near n)
  !(h.port n).q0.isEmpty || !p.q2.isEmpty || (p.q1 ++ p.q3).any (fun f => f.todo.contains n)

/-- A port whose lane is free sends what comes next (R227). -/
def Hub.tickPort (h : Hub) (g : Glob) (n : Nat) : Hub :=
  let h1 := h.tickLane n
  (if h1.laneFree g n && h1.portWaits n then h1.pump g (h1.near n) else h1).digestGo g n

/-- ENG_WAIT: two FCLK cycles to a PCLK cycle, each adding the engines that wait in WGET; FCLK stops from D1 on. -/
def Hub.tickCol (h : Hub) : Hub :=
  if h.power.state = 0 then
    { h with col := { h.col with fclk := h.col.fclk + 1 } }.pmuAdd Reg.PMU_COL_ENG_WAIT_LO (2 * h.col.waiters.length)
  else h

/-- The milliseconds spent in the power state. -/
def Hub.tickPower (h : Hub) : Hub :=
  if h.power.state = 0 then h else
  let c := h.power.resCycles + 1
  if c < cyclesPerMs then { h with power := { h.power with resCycles := c } }
  else { h with power := { h.power with resCycles := 0 } }.count (Reg.PWR_RES_Ds (h.power.state - 1)) 32

/-! ## Queues -/

/-- The events that waited for FIFO 5 pass it in their order while it has room. -/
def Hub.eventsEnter (h : Hub) : List Event → Hub
  | [] => h
  | e :: es =>
    if h.fifoFull 5 then { h with rings := { h.rings with evq := { h.rings.evq with held := e :: es } } }
    else (h.eventStream e).eventsEnter es

/-- Every FIFO gives up its oldest word, and what waited for room in FIFOs 0 and 5 enters them. A push in the same cycle, which lasts until the
next idle step, takes the place of what the FIFO gave up and crosses no level (R159). -/
def Hub.tickFifos (h : Hub) (g : Glob) : Hub :=
  let h1 := (List.range 8).foldl (fun h i => h.fifoPop g i) { h with popped := [] }
  let ds := h1.rings.doorbells
  let es := h1.rings.evq.held
  (({ h1 with rings := { h1.rings with doorbells := [], evq := { h1.rings.evq with held := [] } } }.doorbellsEnter ds).eventsEnter es)

/-- Frames end on their bases (R188), and ports that shift go on at their new rate (R233). -/
def Hub.tickScan (h : Hub) (g : Glob) : Hub :=
  (List.range 32).foldl (fun h n => h.shiftResumes g n) ((List.range 8).foldl (fun h pg => h.frameEnds g pg) h)

/-- Every NET sub-port sends a frame, if it may, and its receive buffer drains; so do the jitter buffers, and the input queue of the sACN receiver. -/
def Hub.tickNet (h : Hub) (g : Glob) : Hub :=
  ((List.range 32).foldl Hub.flowDrain
    ((List.range 16).foldl (fun h i => (h.netSend g (i / 4) (i % 4)).netDrain (i / 4) (i % 4)) h)).sacnDrain

/-! ## The cycle -/

/-- One PCLK cycle without a command. -/
def Hub.tick (h : Hub) (g : Glob) : Hub :=
  let h0 := h.tellMeasured g
  let h1 := { h0 with clock := h0.clock + 1 }.tickBases
  let h2 := (List.range 24).foldl (fun h e => h.tickEngine e) h1
  let h3 := ((List.range 32).foldl (fun h n => h.tickPort g n) h2).tickCol.tickPower
  (((h3.tickFifos g).tickScan g).tickNet g).bundleStep g |>.tickPair g

/-- What the hub does while no command waits: one PCLK cycle. What blocks may read of their tables follows the tags and descriptors from cycle to cycle. -/
def idleStep (s : State) : State := powerTick { s with hub := (s.hub.tick s.glob).viewTables s.mem }

end Sys2Proof.Machine
end

