-- ==== Sys2Proof/WellFormed.lean ====
section
/-! DEFINITION. Which commands the hub can be sent: every instance number, register number and field lies in the range that the manual gives it. -/

namespace Sys2Proof

open Machine

/-- An engine number is below 24 (Table 1.1). -/
def Machine.Requester.wf : Requester → Bool
  | .engine e => decide (e < 24)
  | .host | .jtag | .firmware => true

/-- The instances of Table 1.1. -/
def Machine.Block.wf : Block → Bool
  | .net n => decide (n < 4)
  | .sramBank b => decide (b < 24)
  | .scn p => decide (p < 32)
  | .nsh n => decide (n < 32)
  | .odl r => decide (r < 2)
  | .spr e => decide (e < 24)
  | .glb | .clk | .pwr | .int | .hif | .cmt | .tim | .ing | .mem | .memA | .memB | .qos | .scrubber | .pg | .cal | .fix | .col | .pmu | .sdl
  | .fwu | .crn | .sec | .tio | .dbg => true

/-- There are 32 pipes and 32 ports. -/
def Machine.PmuSet.wf : PmuSet → Bool
  | .pipe p => decide (p < 32)
  | .port n => decide (n < 32)
  | .col => true

/-- There are 24 engines. -/
def Machine.LineMem.wf : LineMem → Bool
  | .imem e | .dmem e => decide (e < 24)
  | .sram => true

/-- A block has 64 data bytes, and the codeword of it 72 symbols (R143); its tag holds a TYPE of four bits (Table 6.2). -/
def Machine.Beyond.wf : Beyond → Bool
  | .detected => true
  | .wrong _ data tag => data.length == 64 && decide (tag.type < 16)
def Machine.ReadError.wf (e : ReadError) : Bool := e.symbols.all (fun k => decide (k < 72)) && e.beyond.wf

/-- Reads of DRAM meet errors in blocks of the 36-bit offset (R141). -/
def Machine.errsWf (errs : List (Nat × ReadError)) : Bool := errs.all (fun e => decide (e.1 < 2 ^ 30) && e.2.wf)

/-- A line has 352 bit cells in sixteen codewords (R151). -/
def Machine.LineErr.wf (l : LineErr) : Bool :=
  l.cells.all (fun c => decide (c < 352)) && l.wrong.all (fun w => decide (w.codeword < 16))

/-- Four bases and eight groups (Table 3.4). -/
def Machine.Instant.wf : Instant → Bool
  | .immediate => true
  | .time tb _ => decide (tb < 4)
  | .frame pg _ => decide (pg < 8)

/-- Formats A and I (Table 13.4). -/
def Machine.ScalarInstr.wf : ScalarInstr → Bool
  | .rr _ rd rs1 rs2 => decide (rd < 32) && decide (rs1 < 32) && decide (rs2 < 32)
  | .ri _ rd rs1 imm => decide (rd < 32) && decide (rs1 < 32) && decide (imm < 65536)

/-- Format B, and format I of JAL and JALR (Table 13.4). -/
def Machine.BranchInstr.wf : BranchInstr → Bool
  | .cond _ rs1 rs2 off => decide (rs1 < 32) && decide (rs2 < 32) && decide (off < 65536)
  | .jal rs1 off => decide (rs1 < 32) && decide (off < 65536)
  | .jalr rd rs1 imm => decide (rd < 32) && decide (rs1 < 32) && decide (imm < 65536)

/-- Format V (Table 13.4). -/
def Machine.VecInstr.wf (i : VecInstr) : Bool :=
  decide (i.vd < 16) && decide (i.vs1 < 16) && decide (i.r2 < 32) && decide (i.k < 4) && decide (i.ew < 4)

/-- A destination and a frame type of Naush (Table 9.3). -/
def Machine.MirrorFrame.wf (f : MirrorFrame) : Bool := decide (f.type < 16) && decide (f.dest < 256)

/-- A register value is 32 bits; the usable DRAM is at most 28 GiB (R140) and shared SRAM is 48 MiB (R150). -/
def Machine.JtagTarget.wf : JtagTarget → Bool
  | .reg off => decide (off < 2 ^ 32)
  | .dram a => decide (a < 28 * 2 ^ 30)
  | .sram a => decide (a < 48 * 2 ^ 20)

/-- A command as it can be sent. -/
def Instr.wf : Instr → Bool
  | .cfgStage q tag writes _ lines => decide (q < 64) && decide (tag < 2 ^ 64) && writes.all (fun w => decide (w.1 < 2 ^ 32 ∧ w.2 < 2 ^ 32)) &&
      lines.all (fun e => e.2.wf)
  | .cfgCommit q tag => decide (q < 64) && decide (tag < 2 ^ 64)
  | .commitCheckDone errs lines => errsWf errs && lines.all (fun e => e.2.wf)
  | .commitApply errs => errsWf errs
  | .cfgDiscard q tag => decide (q < 64) && decide (tag < 2 ^ 64)
  | .cfgRead q tag => decide (q < 64) && decide (tag < 2 ^ 64)
  | .directWriteRefused who off value => who.wf && decide (off < 2 ^ 32) && decide (value < 2 ^ 32)
  | .census q tag => decide (q < 64) && decide (tag < 2 ^ 64)
  | .censusWaitEnd q tag _ => decide (q < 64) && decide (tag < 2 ^ 64)
  | .framePost q tag _ errs => decide (q < 64) && decide (tag < 2 ^ 64) && errsWf errs
  | .frameArm q tag => decide (q < 64) && decide (tag < 2 ^ 64)
  | .workPost q tag => decide (q < 64) && decide (tag < 2 ^ 64)
  | .workCancel q tag => decide (q < 64) && decide (tag < 2 ^ 64)
  | .calLoad q tag _ errs => decide (q < 64) && decide (tag < 2 ^ 64) && errsWf errs
  | .calRead q tag errs => decide (q < 64) && decide (tag < 2 ^ 64) && errsWf errs
  | .calMeasure q tag _ errs => decide (q < 64) && decide (tag < 2 ^ 64) && errsWf errs
  | .logRead q tag lines => decide (q < 64) && decide (tag < 2 ^ 64) && lines.all (fun e => e.2.wf)
  | .logClear q tag _ => decide (q < 64) && decide (tag < 2 ^ 64)
  | .fwStage q tag _ => decide (q < 64) && decide (tag < 2 ^ 64)
  | .fwActivate q tag => decide (q < 64) && decide (tag < 2 ^ 64)
  | .fwConfirm q tag => decide (q < 64) && decide (tag < 2 ^ 64)
  | .timeSet q tag => decide (q < 64) && decide (tag < 2 ^ 64)
  | .timeAcceptJump q tag => decide (q < 64) && decide (tag < 2 ^ 64)
  | .deferredJumpApply t => decide (t < 4)
  | .abortEngine q tag _ errs => decide (q < 64) && decide (tag < 2 ^ 64) && errsWf errs
  | .abortRing q tag _ => decide (q < 64) && decide (tag < 2 ^ 64)
  | .abortColLevel q tag _ => decide (q < 64) && decide (tag < 2 ^ 64)
  | .abortPipe q tag _ => decide (q < 64) && decide (tag < 2 ^ 64)
  | .abortPort q tag _ => decide (q < 64) && decide (tag < 2 ^ 64)
  | .abortFlow q tag _ => decide (q < 64) && decide (tag < 2 ^ 64)
  | .abortRadio q tag _ => decide (q < 64) && decide (tag < 2 ^ 64)
  | .targetQuiesced kind _ _ => decide (kind < 7)
  | .abortEscalation kind _ => decide (kind < 7)
  | .blockResetDone kind _ _ errs => decide (kind < 7) && errsWf errs
  | .blockResetTimeout kind _ => decide (kind < 7)
  | .tileSend q tag payload => decide (q < 64) && decide (tag < 2 ^ 64) && decide (payload.length < 65536)
  | .pairQuery q tag => decide (q < 64) && decide (tag < 2 ^ 64)
  | .pairEnable q tag => decide (q < 64) && decide (tag < 2 ^ 64)
  | .pairDisable q tag => decide (q < 64) && decide (tag < 2 ^ 64)
  | .requestActive q tag _ => decide (q < 64) && decide (tag < 2 ^ 64)
  | .requestStandby q tag _ => decide (q < 64) && decide (tag < 2 ^ 64)
  | .sqTail n value _ => decide (n < 64) && decide (value < 2 ^ 32)
  | .cqHead n value _ => decide (n < 64) && decide (value < 2 ^ 32)
  | .evqHead value _ => decide (value < 2 ^ 32)
  | .vecRearm v _ => decide (v < 16192)
  | .descriptorFetch n bytes lines => decide (n < 64) && decide (bytes.length = 64) && lines.all (fun e => e.2.wf)
  | .dmaReadTimeout q tag _ errs => decide (q < 64) && decide (tag < 2 ^ 64) && errsWf errs
  | .hostRegionReset => true
  | .sqCtlWrite who n value => who.wf && decide (n < 64) && decide (value < 2 ^ 32)
  | .cqCtlWrite who n value => who.wf && decide (n < 64) && decide (value < 2 ^ 32)
  | .evqCtlWrite who value => who.wf && decide (value < 2 ^ 32)
  | .sqEpochWrite who n value => who.wf && decide (n < 64) && decide (value < 2 ^ 32)
  | .intSrcMapWrite who n value => who.wf && decide (n < 128) && decide (value < 2 ^ 32)
  | .msixMessage v => decide (v < 64)
  | .msixCapabilityWrite _ _ => true
  | .msixTableWrite off value size => decide (off < 2 ^ 32) && decide (value < 2 ^ (8 * size))
  | .registerWrite who off value size => who.wf && decide (off < 2 ^ 32) && decide (value < 2 ^ (8 * size))
  | .forceSafe who => who.wf
  | .glbLnkClr who => who.wf
  | .flitCrcError x _ b => decide (x < 20) && b.wf
  | .isolation b => b.wf
  | .isolationTimeout b => b.wf
  | .safeStateEntry causes => causes.all (fun c => decide (1 ≤ c ∧ c ≤ 15))
  | .rootPllLockLost => true
  | .refclkFailure => true
  | .ppsSnapshot => true
  | .ptpMessageReceive n _ _ phase _ => decide (n < 4) && decide (phase < 5 * 2 ^ 47)
  | .sourceLoss t => decide (t < 4)
  | .qualityChange t => decide (t < 4)
  | .tioInputEdge p _ quarter => decide (p < 8) && decide (quarter < 10)
  | .compareFire c => decide (c < 16)
  | .ppsOutput p => decide (p < 8)
  | .tioPulseEnd p => decide (p < 8)
  | .roundTripMeasurement n => decide (n < 32)
  | .timeBaseSend n => decide (n < 32)
  | .netFrameReceive n sub _ _ => decide (n < 4) && decide (sub < 4)
  | .netLinkUp n sub => decide (n < 4) && decide (sub < 4)
  | .netLinkDown n sub => decide (n < 4) && decide (sub < 4)
  | .pauseFrameReceive n sub _ _ => decide (n < 4) && decide (sub < 4)
  | .netPauseHoldEnd n sub cls => decide (n < 4) && decide (sub < 4) && (cls.all (fun c => decide (c < 8)))
  | .netQueueHoldEvent n sub q => decide (n < 4) && decide (sub < 4) && decide (q < 8)
  | .flowPacket f path _ _ errs lines => decide (f < 32) && decide (path < 2) && errsWf errs && lines.all (fun e => e.2.wf)
  | .flowFrameComplete f => decide (f < 32)
  | .flowPathTimeout f path => decide (f < 32) && decide (path < 2)
  | .sacnPacket n sub _ errs lines => decide (n < 4) && decide (sub < 4) && errsWf errs && lines.all (fun e => e.2.wf)
  | .sacnSyncPacket n sub _ => decide (n < 4) && decide (sub < 4)
  | .sacnSourceTimeout u _ => decide (u < 8192)
  | .sacnSyncTimeout _ => true
  | .sramScrub w _ err => w.wf && err.wf
  | .dramPatrolScrub block err => decide (block < 2 ^ 30) && err.all ReadError.wf
  | .frameBoundary pg errs _ => decide (pg < 8) && errsWf errs
  | .virtualLine pg _ errs => decide (pg < 8) && errsWf errs
  | .applyLine pg => decide (pg < 8)
  | .flipSend p => decide (p < 32)
  | .fbArmGo who p => who.wf && decide (p < 32)
  | .fbArmClr who p => who.wf && decide (p < 32)
  | .calCopyDone p errs => decide (p < 32) && errsWf errs
  | .statInitDone p errs => decide (p < 32) && errsWf errs
  | .statSample errs => errsWf errs
  | .statFold p errs => decide (p < 32) && errsWf errs
  | .msrStep errs => errsWf errs
  | .msrRunEnd => true
  | .msrStop who => who.wf
  | .trainingStart n => decide (n < 32)
  | .trainingAttemptTimeout n => decide (n < 32)
  | .trainingWaitEnd n => decide (n < 32)
  | .nshLinkUp n => decide (n < 32)
  | .enumWaitEnd n errs => decide (n < 32) && errsWf errs
  | .blockLockLoss n => decide (n < 32)
  | .lockLossTimeout n => decide (n < 32)
  | .nshFrameReject n _ => decide (n < 32)
  | .ackReceive n k queue _ _ => decide (n < 32) && decide (k < 128) && decide (queue < 4)
  | .tilePause n k mask _ => decide (n < 32) && decide (k < 128) && decide (mask < 16)
  | .tilePauseHoldEnd n k => decide (n < 32) && decide (k < 128)
  | .tileHoldEvent n q => decide (n < 32) && decide (q < 4)
  | .identityAnswer n k _ _ errs => decide (n < 32) && decide (k < 128) && errsWf errs
  | .digestAnswer n k _ _ => decide (n < 32) && decide (k < 128)
  | .faultReport n k _ _ => decide (n < 32) && decide (k < 128)
  | .frameReport n k _ => decide (n < 32) && decide (k < 128)
  | .measurementAnswer n k _ _ => decide (n < 32) && decide (k < 128)
  | .retryTimeout n queue dest _ => decide (n < 32) && decide (queue < 4) && decide (dest < 256)
  | .rateShift n => decide (n < 32)
  | .rateShiftComplete n => decide (n < 32)
  | .shiftLockTimeout n => decide (n < 32)
  | .glbNshHint who value => who.wf && decide (value < 2 ^ 32)
  | .fixtureTick pg errs lines => decide (pg < 8) && errsWf errs && lines.all (fun e => e.2.wf)
  | .fixHeldRelease n errs => decide (n < 32) && errsWf errs
  | .downlinkRound r _ _ errs => decide (r < 2) && errsWf errs
  | .beaconSend r _ => decide (r < 2)
  | .beaconSfdCapture r quarter => decide (r < 2) && decide (quarter < 10)
  | .assocReq r _ _ _ _ _ => decide (r < 2)
  | .keepalive r _ _ _ => decide (r < 2)
  | .odlFrameReject r _ => decide (r < 2)
  | .nodeAdrift r a => decide (r < 2) && decide (a < 65536)
  | .addrLeaseEnd r a => decide (r < 2) && decide (a < 65536)
  | .transceiverRetry r _ => decide (r < 2)
  | .scalarAlu e ins fetch => decide (e < 24) && ins.wf && fetch.wf
  | .branch e ins fetch => decide (e < 24) && ins.wf && fetch.wf
  | .load e _ rt rb off hi errs lines fetch => decide (e < 24) && decide (rt < 32) && decide (rb < 32) && decide (off < 65536) && decide (hi < 256) && lines.all LineErr.wf && fetch.wf && errsWf errs
  | .loadResponse e k => decide (e < 24) && decide (k < 16)
  | .store e _ rt rb off hi errs lines fetch => decide (e < 24) && decide (rt < 32) && decide (rb < 32) && decide (off < 65536) && decide (hi < 256) && lines.all LineErr.wf && fetch.wf && errsWf errs
  | .storeErrorResponse e => decide (e < 24)
  | .atomic e _ rd rs1 rs2 hi lines fetch => decide (e < 24) && decide (rd < 32) && decide (rs1 < 32) && decide (rs2 < 32) && decide (hi < 256) && lines.all LineErr.wf && fetch.wf
  | .vectorOp e ins fetch => decide (e < 24) && ins.wf && fetch.wf
  | .wget e rd rs1 rs2 fetch => decide (e < 24) && decide (rd < 32) && decide (rs1 < 32) && decide (rs2 < 32) && fetch.wf
  | .wdone e rs1 rs2 fetch => decide (e < 24) && decide (rs1 < 32) && decide (rs2 < 32) && fetch.wf
  | .wpost e rd rs1 rs2 lines fetch => decide (e < 24) && decide (rd < 32) && decide (rs1 < 32) && decide (rs2 < 32) && lines.all LineErr.wf && fetch.wf
  | .wdefer e rd rs1 rs2 fetch => decide (e < 24) && decide (rd < 32) && decide (rs1 < 32) && decide (rs2 < 32) && fetch.wf
  | .cntrd e rd n _ fetch => decide (e < 24) && decide (rd < 32) && decide (n ≤ 8) && fetch.wf
  | .fence e set fetch => decide (e < 24) && decide (set < 65536) && fetch.wf
  | .csrr e rd csr fetch => decide (e < 24) && decide (rd < 32) && decide (csr < 65536) && fetch.wf
  | .csrw e csr rs1 fetch => decide (e < 24) && decide (csr < 65536) && decide (rs1 < 32) && fetch.wf
  | .eret e fetch => decide (e < 24) && fetch.wf
  | .trap e code fetch => decide (e < 24) && decide (code < 65536) && fetch.wf
  | .npost e rd rs1 rs2 hi errs lines fetch => decide (e < 24) && decide (rd < 32) && decide (rs1 < 32) && decide (rs2 < 32) && decide (hi < 256) && lines.all LineErr.wf && fetch.wf && errsWf errs
  | .signal e rs1 fetch => decide (e < 24) && decide (rs1 < 32) && fetch.wf
  | .bkpt e fetch => decide (e < 24) && fetch.wf
  | .engineStart who e _ => who.wf && decide (e < 24)
  | .engineStop who e _ => who.wf && decide (e < 24)
  | .engineImageLoaded e errs => decide (e < 24) && errsWf errs
  | .colGrant line => line.wf
  | .talusExpiry lines => lines.all (fun e => e.2.wf)
  | .saddleLinkUp _ role _ => decide (role < 4)
  | .saddleLinkDown lanes => decide (lanes < 5)
  | .saddleKeepalive => true
  | .armRecord p _ _ => decide (p < 32)
  | .armRecordDeadline p => decide (p < 32)
  | .mirroredFrame n f errs => decide (n < 32) && f.wf && errsWf errs
  | .mirrorReceipt n => decide (n < 32)
  | .commitNotice at_ _ digest errs lines => at_.wf && decide (digest.length = 8) && errsWf errs && lines.all (fun e => e.2.wf)
  | .stateCopy _ _ errs => errsWf errs
  | .healthRecord _ _ => true
  | .heartbeatMiss => true
  | .outputDigest n _ _ => decide (n < 32)
  | .saddleTimeTransfer offs => decide (offs.length ≤ 4)
  | .trialTimeout => true
  | .fwuReady who _ => who.wf
  | .fwuReject who reason => who.wf && decide (reason < 256)
  | .setPairingKey e errs => decide (e < 24) && errsWf errs
  | .saveSecRegisters e => decide (e < 24)
  | .revokeKey e => decide (e < 24)
  | .crnTrig who unit => who.wf && decide (unit < 65536)
  | .crnClrSnap who => who.wf
  | .crnClrRec who => who.wf
  | .snapshotWrite => true
  | .recordWrite => true
  | .pmuFreeze who _ => who.wf
  | .pmuClrAll who _ => who.wf
  | .pmuEngineClr who e _ => who.wf && decide (e < 24)
  | .pmuSetClr who set => who.wf && set.wf
  | .pmuLoRead who off => who.wf && decide (off < 2 ^ 32)
  | .powerStateEntry => true
  | .wake code => decide (code < 16)
  | .domainPowerOff who d => who.wf && decide (d < 12)
  | .domainPowerOn who d => who.wf && decide (d < 12)
  | .pwrCtlWrite who value => who.wf && decide (value < 2 ^ 32)
  | .pwrResClr who => who.wf
  | .thermalSample temps => decide (temps.length = 8)
  | .thermtrip => true
  | .coldReset boot _ _ _ _ _ => decide (boot < 4)
  | .porstLow => true
  | .supplyDroop => true
  | .warmReset who => who.wf
  | .ptpMessageSend t n _ phase _ => decide (t < 4) && decide (n < 4) && decide (phase < 5 * 2 ^ 47)
  | .illegalInstruction e word fetch => decide (e < 24) && decide (word < 2 ^ 32) && fetch.wf
  | .dmaTransferDone q tag errs => decide (q < 64) && decide (tag < 2 ^ 64) && errsWf errs
  | .flashOperationDone => true
  | .engineBist e _ => decide (e < 24)
  | .prbsTestBlock _ => true
  | .saddleKeepaliveReceive => true
  | .saddlePacketDiscard _ _ => true
  | .standbyEnumRequest n => decide (n < 32)
  | .shiftReceive n rate => decide (n < 32) && decide (rate < 4)
  | .odlSeenFrame r _ _ => decide (r < 2)
  | .jtagAccess target write errs line => target.wf && (write.all (fun v => decide (v < 2 ^ 32))) && errsWf errs && line.wf

end Sys2Proof
end

