-- ==== Sys2Proof/Safety.lean ====
section
/-! DEFINITION. What a safe run of the hub keeps: its memories in their one canonical form, the safe state until a reset ends it (R27), and the
fuses, which are never unblown (R408). -/

namespace Sys2Proof.Machine


/-- The memories hold their canonical form. -/
abbrev MemoryCanonical (s : State) : Prop := s.mem.wf = true

/-- The safe state holds. -/
abbrev InSafeState (s : State) : Prop := s.glob.safe = true

/-- The commands that reset the hub, and so may end the safe state (R27, R394, R465). -/
def resets : Instr → Bool
  | .coldReset .. | .warmReset .. | .porstLow | .supplyDroop | .trialTimeout | .fwuReject .. => true
  | _ => false

/-- Fuses only go from unblown to blown: key hashes, identity and failure mode stay, revoked keys stay revoked, and the floor never falls. -/
structure FusesKept (a b : Otp) : Prop where
  keys   : b.keyHash0 = a.keyHash0 ∧ b.keyHash1 = a.keyHash1 ∧ b.keyHash2 = a.keyHash2 ∧ b.keyHash3 = a.keyHash3 ∧ b.logKeyHash = a.logKeyHash
  fixed  : b.uid = a.uid ∧ b.failMode = a.failMode ∧ b.hostNs = a.hostNs ∧ b.dbgLock = a.dbgLock
  revoke : ∀ k, a.keyRevoke.testBit k = true → b.keyRevoke.testBit k = true
  floor  : a.svFloor ≤ b.svFloor

/-- The pending registers, which raising a source writes (R62). -/
def pendRegs : List Nat := [Reg.INT_PENDk 0, Reg.INT_PENDk 1, Reg.INT_PENDk 2, Reg.INT_PENDk 3]

/-- The registers that count and keep a security violation (R407). -/
def violationRegs : List Nat := [Reg.SEC_VIOL_CNT, Reg.SEC_VIOL_LAST_LO, Reg.SEC_VIOL_LAST_HI]

/-- Every register but those listed holds what it held. -/
def RegsKeptBut (l : List Nat) (h h' : Hub) : Prop := ∀ off, off ∉ l → h'.rd off = h.rd off

/-- The hub changes, and nothing around it: the queue, the fuses and the safe state, and every byte and tag of memory are as they were. -/
def HubOnly (s t : State) : Prop := t.pending = s.pending ∧ t.glob = s.glob ∧ t.mem = s.mem

/-- What reporting may change: pending bits are set and none is cleared, entries leave the hub, the rings and FIFO 5 and the Cairn queues move on;
nothing else of the hub changes. -/
structure Reports (h h' : Hub) : Prop where
  shape   : h' = { h with
    regs := h'.regs, fifos := h'.fifos, popped := h'.popped, cairn := h'.cairn, out := h'.out
    rings := { h.rings with sqs := h'.rings.sqs, cqs := h'.rings.cqs, evq := h'.rings.evq } }
  regs    : RegsKeptBut pendRegs h h'
  pending : ∀ src, h.pending src = true → h'.pending src = true
  out     : ∃ l, h'.out = l ++ h.out

/-- A descriptor has been completed: it has left its ring, and its completion entry, with its status and result, has been written where its
completion ring is enabled (R46, R53). -/
def Answered (q tag status : Nat) (result : List Byte) (h h' : Hub) : Prop :=
  ∃ d, h.desc q tag = some d ∧ (h'.sq q).inflight = (h.sq q).inflight.erase d ∧
    (d.silent = false → h.bit (Reg.CQn_CTL d.cq) 0 = true →
      ∃ slot c, Out.completion d.cq slot (h.ringAddr (Reg.CQn_BASE_LO d.cq) (Reg.CQn_BASE_HI d.cq) + 32 * slot) c ∈ h'.out ∧ c.tag = tag % 2 ^ 32 ∧ c.status = status ∧ c.sq = q ∧ c.result = padTo 16 result)

/-- The descriptor that a ring starts next, in ring order, has a tag and an opcode, and no other that the ring holds has its tag (R44, R55). -/
def Fetched (s : State) (q tag op : Nat) (d : Desc) : Prop :=
  s.hub.desc q tag = some d ∧ s.hub.nextFetched q = some d ∧ d.opcode = op ∧ d.phase = .fetched

/-- The command completes, the hub becomes `h` but for what it reports, and nothing around the hub changes. -/
def Becomes (c : Instr) (s : State) (h : Hub) : Prop := ∃ t, exec c s = .next t ∧ HubOnly s t ∧ Reports h t.hub

/-- As `Becomes`, and the source is then pending. -/
def BecomesRaising (c : Instr) (s : State) (h : Hub) (src : Nat) : Prop :=
  ∃ t, exec c s = .next t ∧ HubOnly s t ∧ Reports h t.hub ∧ t.hub.pending src = true

/-- As `Becomes`, for a command that completes the descriptor of a ring with a tag. -/
def BecomesAnswering (c : Instr) (s : State) (h : Hub) (q tag status : Nat) (result : List Byte) : Prop :=
  ∃ t, exec c s = .next t ∧ HubOnly s t ∧ Reports h t.hub ∧ Answered q tag status result s.hub t.hub

/-- A doorbell write whose own effect leaves the hub as `h` has gone through FIFO 0, which holds its value as the newest word: without the level event of FIFO 0,
nothing else changes; with it, source 96 is pending, and of the rings and the FIFOs only the event ring and FIFO 5 move on (R56, R159). -/
def Rung (value : Nat) (h : Hub) (s t : State) : Prop :=
  HubOnly s t ∧ Reports (h.fifoIn 0 value) t.hub ∧ (s.hub.fifoCrosses 0 = false → t.hub = h.fifoIn 0 value) ∧
    (s.hub.fifoCrosses 0 = true → t.hub.pending 96 = true) ∧ t.hub.rings.sqs = h.rings.sqs ∧ t.hub.rings.cqs = h.rings.cqs ∧
    t.hub.rings.evq.head = h.rings.evq.head ∧ t.hub.fifo 0 = s.hub.fifo 0 ++ [value] ∧ ∀ i, i ≠ 0 → i ≠ 5 → t.hub.fifo i = s.hub.fifo i

/-- The class F registers of which a write does nothing but replace the RW fields (R5). -/
def plainF : List RegId :=
  [.PWR_THERM_CTL, .INT_SRC_MAPn, .INT_VEC_CTLv, .SCNp_FB_ADDR_LO, .SCNp_FB_ADDR_HI, .SPRe_IMG_LO, .SPRe_IMG_HI, .SPRe_LEN, .SPRe_ENTRY,
    .PMUe_EVSELk, .CRN_CTL, .CRN_UNITu_CTL, .CRN_SETs_REGk]

/-- Of a register the bits of a mask are replaced by those of a value, and no other bit and no other register changes. -/
def FieldsWritten (off mask value : Nat) (h h' : Hub) : Prop :=
  RegsKeptBut [off] h h' ∧ ∀ k, k < 32 → (h'.n off).testBit k = (if mask.testBit k then value.testBit k else (h.n off).testBit k)

/-- A machine that stops is not running safely; this one never stops (every command has an effect). -/
abbrev Completes (i : Instr) (s : State) : Prop := ∃ t, exec i s = .next t

/-- The safe state entered with a cause: the chip says so, every engine halts, no commit is in progress, and nothing outside the hub and the
chip's own state changes. -/
def Entered (cause : Nat) (s t : State) : Prop :=
  t.glob = { s.glob with safe := true, cause := cause, forced := cause == 7 } ∧ t.mem = s.mem ∧ t.pending = s.pending ∧
    ∀ e, e < 24 → (t.hub.eng e).phase = .halted ∧ (t.hub.eng e).loads = []

/-- No measurement run is under way, so a step of a base ends none. -/
def NoRun (s : State) : Prop := s.hub.cal.msr.phase = .idle

/-- A base steps to a value, its frequency unchanged, the other bases keep their values, and source 36 + t is raised. -/
def Stepped (t new : Nat) (s u : State) : Prop :=
  u.hub.now48 t = new ∧ (u.hub.base t).freq = (s.hub.base t).freq ∧ (∀ b, b ≠ t → u.hub.now48 b = s.hub.now48 b) ∧
    u.hub.pending (36 + t) = true ∧ RegsKeptBut pendRegs s.hub u.hub

/-- Every byte of DRAM outside a range, and every other memory, is as it was. -/
def DramKeptBut (lo n : Nat) (m m' : Memory) : Prop :=
  (∀ a, a < lo ∨ lo + n ≤ a → m'.dramByte a = m.dramByte a) ∧ m'.sram = m.sram ∧ m'.sramBad = m.sramBad ∧ m'.imem = m.imem ∧
    m'.imemBad = m.imemBad ∧ m'.dmem = m.dmem ∧ m'.dmemBad = m.dmemBad ∧ m'.stored = m.stored

/-- Of the memories a boot writes only the local memories of SE0 to SE3, where the control firmware goes (R315, R338), and the blocks of DRAM that hold its copy
(R440). -/
def FirmwareOnly (s t : State) : Prop :=
  (∀ a, a / 64 * 64 + 64 ≤ t.hub.firmwarePlace ∨ t.hub.firmwarePlace + t.hub.fwu.controlPart.length ≤ a / 64 * 64 →
    t.mem.dramByte a = s.mem.dramByte a ∧ t.mem.tagAt a = s.mem.tagAt a) ∧ t.mem.sram = s.mem.sram ∧ t.mem.sramBad = s.mem.sramBad ∧
    ∀ e k, 4 ≤ e → e < 24 → k < 0x20000 →
      Sparse.get Memory.blank t.mem.imem (Memory.localBase e + k) = Sparse.get Memory.blank s.mem.imem (Memory.localBase e + k) ∧
        Sparse.get Memory.blank t.mem.dmem (Memory.localBase e + k) = Sparse.get Memory.blank s.mem.dmem (Memory.localBase e + k)

/-- A table in force reads without poison and without a refused block (R144, R149, R405). -/
def TableReadable (s : State) (id : Nat) : Prop :=
  s.hub.tableSpoilt s.mem id = false ∧ ∀ v, s.hub.commit.seen.find? (fun v => v.id == id) = some v → v.shut = []

/-- A command whose reads of DRAM meet errors does what it does on the state that those reads leave (R145, R146). -/
def ReadsFirst (s : State) (i : List (Nat × ReadError) → Instr) : Prop := ∀ errs, exec (i errs) s = exec (i []) (s.reads errs)

/-- A fetch of an instruction that meets no error. -/
abbrev cleanFetch : LineErr := { cells := [] }

/-- An instruction whose fetch meets an error does what it does on the state that the fetch leaves. -/
def FetchedFirst (e : Nat) (s : State) (i : LineErr → Instr) : Prop :=
  ∀ fetch, exec (i fetch) s = exec (i cleanFetch) (fetchLine e fetch s)

/-- The lines of the logs that the recorder has written have their fresh check bits (R151). -/
def State.logsRenewed (s : State) : State := { s with hub := (logsWritten (s.hub, s.mem)).1, mem := (logsWritten (s.hub, s.mem)).2 }

/-- The state as a read of shared SRAM finds it: as it is, or with the log lines renewed. -/
def AsRead (s u : State) : Prop := u = s ∨ u = s.logsRenewed

/-- An instruction of an engine acts now: the engine executes, waits for no load, and its fetch is sound. -/
def Ready (s : State) (e : Nat) (regs : List Nat) : Prop :=
  s.hub.executes s.glob e = true ∧ (s.hub.eng e).waitsFor regs = false ∧ s.fetchBad e = false

/-- Of the hub an instruction changes its own engine, that engine's counters, their SAT bits and its used issue slots, and draws free values; nothing else. -/
def EngineHub (e : Nat) (s t : State) : Prop :=
  t.pending = s.pending ∧ t.glob = s.glob ∧
    t.hub = { s.hub with regs := t.hub.regs, engines := t.hub.engines, pmu := t.hub.pmu, slots := t.hub.slots, free := t.hub.free } ∧
    (∀ j, j ≠ e → t.hub.eng j = s.hub.eng j ∧ Sparse.get 0 t.hub.slots j = Sparse.get 0 s.hub.slots j) ∧ RegsKeptBut [Reg.PMUe_CNT_CTL e] s.hub t.hub

/-- As `EngineHub`, with memory as it was. -/
def EngineOnly (e : Nat) (s t : State) : Prop := EngineHub e s t ∧ t.mem = s.mem

/-- A scalar result is written (a write of s0 is discarded, and s0 reads zero), and the engine goes on at the next instruction. -/
def Wrote (rd : Nat) (w : Word) (x x' : Engine) : Prop :=
  x' = { x with s := x'.s, pc := (x.pc + 4) % 2 ^ 17 } ∧ x'.reg rd = (if rd % 32 = 0 then 0 else w) ∧
    ∀ r, r % 32 ≠ rd % 32 → x'.reg r = x.reg r

/-- The instruction at an address has taken an exception with a cause and an EADDR; it has no other effect. -/
def Trapped (e pc cause eaddr : Nat) (s t : State) : Prop :=
  EngineOnly e s t ∧
    t.hub.eng e = { s.hub.eng e with
      excPc := pc, excCause := cause, epc := pc, pmode := (s.hub.eng e).kmode, kmode := true, exc := true, pc := (s.hub.eng e).kvec
      ecause := cause, eaddr := eaddr }

/-- Bytes are written to a run of cells, and no other cell changes. -/
def CellsWritten (a : Nat) (bs : List Byte) (c c' : List Host.Cell) : Prop :=
  (∀ i, i < bs.length → Sparse.get Memory.blank c' (a + i) = bs.getD i 0) ∧
    ∀ k, (k < a ∨ a + bs.length ≤ k) → Sparse.get Memory.blank c' k = Sparse.get Memory.blank c k

/-- What a window of an engine holds in a range, where a read of it meets no error and no refusal. -/
def State.windowHolds (s : State) (e n : Nat) : Window → Option (List Byte)
  | .imem o => if s.mem.rangeBad (.imem e) o n then none else some (Memory.bytesOf s.mem.imem (Memory.localBase e + o) n)
  | .dmem o => if s.mem.rangeBad (.dmem e) o n then none else some (Memory.bytesOf s.mem.dmem (Memory.localBase e + o) n)
  | .sram o =>
    if s.mem.rangeBad .sram o n || s.hub.sramRefuses o || s.hub.sramRefused (s.hub.engineSecure e) false o n then none
    else some (s.hub.sramSeen s.mem o n)
  | .dram o =>
    if s.mem.poisoned o n || s.hub.dramRefuses o || (s.hub.dramRefused s.mem (s.hub.engineSecure e) false o n).isSome then none
    else some (s.mem.dramBytes o n)
  | _ => none

/-- A load is issued: it is the youngest outstanding one, and the engine goes on at the next instruction. -/
def Issued (addr dest : Nat) (data : LoadData) (x x' : Engine) : Prop :=
  x' = { x with loads := x.loads ++ [{ pc := x.pc, addr := addr, dest := dest, data := data }], pc := (x.pc + 4) % 2 ^ 17 }

/-- A service of the control firmware has completed its item: the engine holds none, the item has left Col, its descriptor, if the hub holds it, is
answered with the status, and of the registers only pending bits change. -/
def Served (e : Nat) (i : WorkItem) (status : Nat) (s t : State) : Prop :=
  t.pending = s.pending ∧ t.hub.eng e = { s.hub.eng e with item := none } ∧ (∀ j, j ≠ e → t.hub.eng j = s.hub.eng j) ∧
    t.hub.col.items = s.hub.col.items.filter (fun x => x.slot != i.slot) ∧ RegsKeptBut pendRegs s.hub t.hub ∧
    ∀ q tag, i.owner = some (q, tag) → (s.hub.desc q tag).isSome = true →
      Answered q tag status (leBytes 4 (s.hub.itemId i.slot)) s.hub t.hub

/-- The value of a performance counter, by the offset of its low half. -/
abbrev Hub.pmuOf (h : Hub) (off : Nat) : Nat := Sparse.get 0 h.pmu off

/-- A link fault of a port with a cause (R238): it is counted, source n is raised, the port keeps no frame of its own queues, and it retrains, after
cause 0x04 from WAIT. -/
def LinkFaulted (n cause : Nat) (s t : State) : Prop :=
  HubOnly s t ∧ (t.hub.port n).cause = cause ∧ (t.hub.port n).phase = (if cause = 4 then .wait else .training true) ∧
    t.hub.f (Reg.NSHn_CNT_FAULT n) 30 0 = satInc 31 (s.hub.f (Reg.NSHn_CNT_FAULT n) 30 0) ∧ t.hub.pending n = true ∧
    (s.hub.near n = n → (t.hub.port n).q1 = [] ∧ (t.hub.port n).q3 = []) ∧ Out.lane n .electricalIdle ∈ t.hub.out ∧
    RegsKeptBut ([Reg.NSHn_CNT_FAULT n, Reg.GLB_NSH_HINT] ++ pendRegs) s.hub t.hub

/-- The wake code of a command that arrives at the hub as a wake source of Table 19.5 (R434, R435): an access of the host through a BAR, and a frame, a packet or an
edge where the interface hears it. -/
def arrivalCode (h : Hub) : Instr → Option Nat
  | .sqTail .. | .cqHead .. | .evqHead .. | .vecRearm .. | .msixTableWrite .. => some 2
  | .msixCapabilityWrite .. => if h.linkInL12 then some 2 else none
  | .registerWrite who .. | .directWriteRefused who .. | .sqCtlWrite who .. | .cqCtlWrite who .. | .evqCtlWrite who .. | .sqEpochWrite who ..
  | .intSrcMapWrite who .. | .warmReset who | .fwuReject who .. | .fwuReady who .. | .crnTrig who .. | .crnClrSnap who | .crnClrRec who
  | .msrStop who .. | .engineStart who .. | .engineStop who .. | .forceSafe who | .glbLnkClr who | .glbNshHint who .. | .fbArmGo who ..
  | .fbArmClr who .. | .pmuFreeze who .. | .pmuClrAll who .. | .pmuEngineClr who .. | .pmuSetClr who .. | .pmuLoRead who .. | .pwrCtlWrite who ..
  | .pwrResClr who .. | .domainPowerOff who .. | .domainPowerOn who .. => if who = .host then some 2 else none
  | .pauseFrameReceive n .. | .netFrameReceive n .. | .sacnPacket n .. | .sacnSyncPacket n .. | .ptpMessageReceive n .. =>
    if h.netHears n then some 3 else none
  | .blockLockLoss n | .lockLossTimeout n | .nshFrameReject n .. | .tilePause n .. | .shiftReceive n .. | .identityAnswer n .. | .ackReceive n ..
  | .faultReport n .. | .frameReport n .. | .measurementAnswer n .. | .digestAnswer n .. => if h.naushHears n then some 4 else none
  | .commitNotice .. | .stateCopy .. | .saddleKeepaliveReceive | .saddlePacketDiscard .. | .armRecord .. | .mirroredFrame .. | .mirrorReceipt ..
  | .standbyEnumRequest .. | .healthRecord .. | .outputDigest .. | .saddleTimeTransfer .. => if h.packetHears then some 5 else none
  | .tioInputEdge p .. => if h.pinHears p then some 6 else none
  | _ => none

/-- A port that takes upstream frames of a tile now, and can answer them; nothing waits in its Q0, and the hub does not wake by a frame. -/
def HearsTile (s : State) (n k : Nat) : Prop :=
  n < 32 ∧ k < 128 ∧ (s.hub.port n).phase = .up ∧ s.hub.serving (.nsh n) = true ∧ s.hub.near n = n ∧ s.hub.takesQ0 s.glob n = true ∧
    (s.hub.port n).q0 = [] ∧ s.hub.awake 4 = true

/-- The port has acknowledged a frame of a tile in Q0 (R249, Table 10.7): the ACK has left, or it waits until the port may send it; where Q0 is open, it has left. -/
def Acked (n k seq flags : Nat) (s t : State) : Prop :=
  ∃ f, f = { type := 3, addr := k, queue := 0, seq := seq, flags := 4 * s.hub.endOf s.glob n, epoch := s.hub.commit.epoch
             payload := [1] ++ leBytes 1 flags ++ zeros 2 : NFrame } ∧
    (Out.naush n f ∈ t.hub.out ∨ f ∈ (t.hub.port n).q0) ∧
    (s.hub.queueOpen s.glob n 0 4 = true → s.hub.power.state ≠ 2 → Out.naush n f ∈ t.hub.out)

end Sys2Proof.Machine
end

