-- ==== Sys2Proof/Certificates/Slice0/Obligations.lean ====
section
/-! DEFINITION. The statements about the hub, in the order of the spec's files. -/

open Sys2Proof Sys2Proof.Machine

/-! ## Statements about every step -/

/-- A step with a command at the front of the queue is that command on the state with the queue's rest. -/
def Obligations.StepRunsTheFrontCommand : Prop :=
  ∀ (s : State) (i : Instr) (rest : List Instr), s.pending = i :: rest → step s = exec i { s with pending := rest }

/-- With no command waiting, one PCLK cycle passes (DESIGN CHOICE, log entry 1): each base adds 2.5 ns × (1 + f), held to 2^-48 ns, while the root PLL
is in lock, and none does out of lock (R88, R462); fuses, the commit engine and the queue stay as they are, and the memories too, but where a wake from D3 loads
the control firmware. A step of the promotion of a STANDBY and a power-off that waited are out of this statement. -/
def Obligations.IdleCycleAdvancesTheBases : Prop :=
  ∀ s : State, s.pending = [] → s.hub.power.offPending = [] →
    ∃ t, step s = .next t ∧ t.pending = [] ∧ t.glob = s.glob ∧ (s.hub.power.state ≠ 3 → t.mem = s.mem) ∧ t.hub.clock = s.hub.clock + 1 ∧
      t.hub.commit = { s.hub.commit with seen := t.hub.commit.seen } ∧
      (s.hub.saddle.misses = 0 → ∀ b, (t.hub.base b).freq = (s.hub.base b).freq ∧ (t.hub.base b).state = (s.hub.base b).state) ∧
      (s.hub.power.rootLock = true → ∀ b, b < 4 → t.hub.now48 b = addTime (s.hub.now48 b) (baseStep (s.hub.base b).freq)) ∧
      (s.hub.power.rootLock = false → ∀ b, t.hub.now48 b = s.hub.now48 b)

/-- Every array of the memory is empty at reset, which is its canonical form. -/
def Obligations.ResetMemoryIsCanonical : Prop :=
  MemoryCanonical State.reset

/-- Every step keeps the memories in their canonical form, so equal memories are equal data. -/
def Obligations.StepsKeepMemoryCanonical : Prop :=
  ∀ s t : State, MemoryCanonical s → step s = .next t → MemoryCanonical t

/-- R408: a fuse once blown stays blown. No command unblows a fuse, changes a key hash, the identity or a mode fuse, or lowers the floor. -/
def Obligations.FusesOnceBlownStayBlown : Prop :=
  ∀ (c : Instr) (s t : State), exec c s = .next t → FusesKept s.glob.otp t.glob.otp

/-- R26, R27: once the safe state holds, no command but a reset ends it or overwrites its cause: not a register write but of the registers that reset
the hub, and not the apply of a commit unless its set writes GLB_RST. -/
def Obligations.OnlyResetsLeaveTheSafeState : Prop :=
  ∀ (c : Instr) (s t : State), InSafeState s → exec c s = .next t → resets c = false →
    ((∃ errs, c = .commitApply errs) ∨ (∃ pg errs act, c = .frameBoundary pg errs act) → s.hub.commit.phase = .pending →
      ∀ w ∈ s.hub.commit.writes, w.off / 4 ≠ Reg.GLB_RST / 4) →
    (∀ who off value size, c = .registerWrite who off value size → ∀ k, 4 * k < size → off + 4 * k ≠ Reg.GLB_RST ∧ off + 4 * k ≠ Reg.FWU_CTL) →
    (∀ off value errs line, c = .jtagAccess (.reg off) (some value) errs line → off ≠ Reg.GLB_RST ∧ off ≠ Reg.FWU_CTL) →
    InSafeState t ∧ t.glob.cause = s.glob.cause

/-- A command acts on everything but the queue of those that wait. -/
def Obligations.CommandsLeaveTheQueue : Prop :=
  ∀ (c : Instr) (s t : State), exec c s = .next t → t.pending = s.pending

/-- R453: sources 106, 107 and 111 are never raised, so no command sets their pending bits; their map registers hold what is written. -/
def Obligations.ReservedSourcesAreNeverRaised : Prop :=
  (∀ (c : Instr) (s t : State), c.wf = true → exec c s = .next t → (∀ src, sourceReserved src = true → src < 128 → s.hub.pending src = false) →
    ∀ src, sourceReserved src = true → src < 128 → t.hub.pending src = false) ∧
  (∀ (h : Hub) (g : Glob) (src detail : Nat), sourceReserved src = true → h.raise g src detail = h) ∧
  (∀ src, src < 128 → (sourceReserved src = true ↔ src = 106 ∨ src = 107 ∨ src = 111)) ∧
  (∀ (s : State) (who : Requester) (n value : Nat), n < 128 → sourceReserved n = true → s.hub.quietTo who = true →
    s.hub.allows s.glob who (Reg.INT_SRC_MAPn n) = true →
    ∃ t, exec (.intSrcMapWrite who n value) s = .next t ∧ HubOnly s t ∧ RegsKeptBut [Reg.INT_SRC_MAPn n] s.hub t.hub ∧
      t.hub.f (Reg.INT_SRC_MAPn n) 5 0 = value % 64 ∧ t.hub.bit (Reg.INT_SRC_MAPn n) 8 = bitOf value 8 ∧
      t.hub.bit (Reg.INT_SRC_MAPn n) 9 = bitOf value 9)

/-! ## Faults, isolation and the safe state (spec/01_architecture.md) -/

/-- R26, Table 1.5: each cause enters the safe state with its code, and of coincident causes the lowest. R26: a later cause does not overwrite
CHIP_CAUSE. -/
def Obligations.SafeStateKeepsItsFirstCause : Prop :=
  (∀ s : State, s.glob.safe = false →
      (∀ causes c, c ∈ causes → chipCause c = true → (∀ d, d ∈ causes → chipCause d = true → c ≤ d) →
        ∃ t, exec (.safeStateEntry causes) s = .next t ∧ Entered c s t) ∧
      (∀ who, s.hub.quietTo who = true → s.hub.allows s.glob who Reg.GLB_FLT_CTL = true → ∃ t, exec (.forceSafe who) s = .next t ∧ Entered 7 s t) ∧
      (∃ t, exec .rootPllLockLost s = .next t ∧ Entered 1 s t ∧ t.hub.power.rootLock = false ∧ t.hub.power.bypass = true) ∧
      (∃ t, exec .refclkFailure s = .next t ∧ Entered 1 s t ∧ t.hub.power.rootLock = false ∧ t.hub.power.refFailed = true) ∧
      (∀ b, s.hub.power.reported.contains b = true → ∃ t, exec (.isolationTimeout b) s = .next t ∧ Entered 3 s t)) ∧
  (∀ s : State, s.glob.safe = true →
      (∀ causes, exec (.safeStateEntry causes) s = .next s) ∧
      (∀ who, s.hub.quietTo who = true → s.hub.allows s.glob who Reg.GLB_FLT_CTL = true → exec (.forceSafe who) s = .next s) ∧
      (∀ b, exec (.isolationTimeout b) s = .next s) ∧
      (∃ t, exec .rootPllLockLost s = .next t ∧ t.glob = s.glob) ∧
      (∃ t, exec .refclkFailure s = .next t ∧ t.glob = s.glob) ∧
      (∀ b, ∃ t, exec (.isolation b) s = .next t ∧ t.glob = s.glob))

/-- R23 and Table 1.6: a block that reported is isolated, its region's bit of ISO_EVT is set, and the chip enters the safe state exactly where the
table names a cause. -/
def Obligations.IsolationFencesAndEscalates : Prop :=
  ∀ (s : State) (b : Block), s.hub.power.reported.contains b = true → s.glob.safe = false →
    ∃ t, exec (.isolation b) s = .next t ∧ t.hub.isolatedBlock b = true ∧ t.hub.power.reported.contains b = false ∧
      t.hub.power.isoEvt = s.hub.power.isoEvt ||| 2 ^ b.region ∧
      (b.chipCause = 0 → t.glob = s.glob) ∧
      (b.chipCause ≠ 0 → t.glob = { s.glob with safe := true, cause := b.chipCause, forced := false }) ∧
      t.mem = s.mem ∧ t.pending = s.pending

/-- R21, R22: a flit is replayed and counted at most three times; its fourth failure is a link error of the receiving region, which a block of that region
reports, raising its interrupt source where it has one; and GLB_LNK_CLR clears the 20 counters. -/
def Obligations.MeshLinksReplayAndCount : Prop :=
  (∀ (s : State) (x : Nat) (again : Bool) (b : Block), x < 20 → (again = true → Sparse.get 0 s.hub.power.flitTries x < 3) →
    ∃ t, exec (.flitCrcError x again b) s = .next t ∧ HubOnly s t ∧
      t.hub.n (Reg.GLB_LNK_RPLx x) = satInc 32 (s.hub.n (Reg.GLB_LNK_RPLx x)) ∧ RegsKeptBut [Reg.GLB_LNK_RPLx x] s.hub t.hub ∧
      t.hub.power.reported = s.hub.power.reported) ∧
  (∀ (s : State) (x : Nat) (b : Block), x < 20 → Sparse.get 0 s.hub.power.flitTries x = 3 → b.region = linkRegion x →
    s.hub.isolatedBlock b = false →
    ∃ t, exec (.flitCrcError x true b) s = .next t ∧ HubOnly s t ∧ t.hub.power.reported.contains b = true ∧ RegsKeptBut pendRegs s.hub t.hub ∧
      (∀ src, b.source = some src → src < 106 → s.hub.power.reported.contains b = false → t.hub.pending src = true)) ∧
  (∀ (s : State) (who : Requester), s.hub.quietTo who = true → s.hub.allows s.glob who Reg.GLB_LNK_CLR = true →
    ∃ t, exec (.glbLnkClr who) s = .next t ∧ HubOnly s t ∧ (∀ x, x < 20 → t.hub.n (Reg.GLB_LNK_RPLx x) = 0) ∧
      RegsKeptBut ((List.range 20).map Reg.GLB_LNK_RPLx) s.hub t.hub)

/-! ## The host interface (spec/02_host_interface.md) -/

/-- R56, R57: every doorbell write completes, in D0 or where it wakes nothing. One of an enabled ring moves the tail or the head by at most what the ring holds; a tail beyond it is refused and
counted in DB_ERR, and a head beyond it moves nothing; a re-arm arms its vector. Each passes through FIFO 0, and nothing but the ring, FIFO 0 and its
level event changes; one that finds FIFO 0 full waits for it. R40: a doorbell write that is narrow or not aligned changes nothing but HIF_ACC_ERR.CNT, and
(R57) one to a ring that is not enabled changes nothing.
(That the tail may not meet the head, so that a ring holds at most 2^SIZE - 1 unfetched descriptors, is the model's choice, log entry 21.) -/
def Obligations.DoorbellsMoveTheirRingOrAreRejected : Prop :=
  ((∀ (s : State) (n value : Nat), s.hub.awake 2 = true → n < 64 → s.hub.fifoFull 0 = false → s.hub.bit (Reg.SQn_CTL n) 0 = true →
      ∃ t, exec (.sqTail n value true) s = .next t ∧
        Rung value (s.hub.setSq n (if value < s.hub.ringSize (Reg.SQn_CTL n) ∧
            ringDist (s.hub.ringSize (Reg.SQn_CTL n)) (s.hub.sq n).head (s.hub.sq n).tail +
              ringDist (s.hub.ringSize (Reg.SQn_CTL n)) (s.hub.sq n).tail value < s.hub.ringSize (Reg.SQn_CTL n)
           then { s.hub.sq n with tail := value } else { s.hub.sq n with dbErr := satInc 8 (s.hub.sq n).dbErr })) s t) ∧
    (∀ (s : State) (n value : Nat), s.hub.awake 2 = true → n < 64 → s.hub.fifoFull 0 = false → s.hub.bit (Reg.CQn_CTL n) 0 = true →
      ∃ t, exec (.cqHead n value true) s = .next t ∧
        (if value < s.hub.ringSize (Reg.CQn_CTL n) ∧ ringDist (s.hub.ringSize (Reg.CQn_CTL n)) (s.hub.cq n).head value ≤ (s.hub.cq n).used
          then Rung value (s.hub.setCq n { s.hub.cq n with
            head := value, used := (s.hub.cq n).used - ringDist (s.hub.ringSize (Reg.CQn_CTL n)) (s.hub.cq n).head value }) s t
          else Rung value s.hub s t)) ∧
    (∀ (s : State) (value : Nat), s.hub.awake 2 = true → s.hub.fifoFull 0 = false → s.hub.bit Reg.EVQ_CTL 0 = true →
      ∃ t, exec (.evqHead value true) s = .next t ∧
        (if value < s.hub.ringSize Reg.EVQ_CTL ∧ ringDist (s.hub.ringSize Reg.EVQ_CTL) s.hub.rings.evq.head value ≤ s.hub.rings.evq.used
          then Rung value { s.hub with rings := { s.hub.rings with evq := { s.hub.rings.evq with
            head := value, used := s.hub.rings.evq.used - ringDist (s.hub.ringSize Reg.EVQ_CTL) s.hub.rings.evq.head value } } } s t
          else Rung value s.hub s t)) ∧
    (∀ (s : State) (v : Nat), s.hub.awake 2 = true → v < 64 → s.hub.fifoFull 0 = false →
      ∃ t, exec (.vecRearm v true) s = .next t ∧ Rung v (s.hub.setVec v { s.hub.vec v with armed := true }) s t)) ∧
  ((∀ (s : State) (c : Instr), s.hub.awake 2 = true → (∃ n v, c = .sqTail n v false ∨ c = .cqHead n v false ∨ c = .evqHead v false ∨ c = .vecRearm v false) →
      exec c s = .next { s with hub := s.hub.count Reg.HIF_ACC_ERR 16 }) ∧
    (∀ s : State, s.hub.awake 2 = true → s.hub.fifoFull 0 = false →
      (∀ n v, s.hub.bit (Reg.SQn_CTL n) 0 = false → exec (.sqTail n v true) s = .next s) ∧
      (∀ n v, s.hub.bit (Reg.CQn_CTL n) 0 = false → exec (.cqHead n v true) s = .next s) ∧
      (∀ v, s.hub.bit Reg.EVQ_CTL 0 = false → exec (.evqHead v true) s = .next s)) ∧
    (∀ (s : State) (c : Instr) (d : Doorbell), s.hub.awake 2 = true → s.hub.fifoFull 0 = true →
      (∃ n v, c = .sqTail n v true ∧ d = .sqTail n v ∨ c = .cqHead n v true ∧ d = .cqHead n v ∨ c = .evqHead v true ∧ d = .evqHead v ∨
        c = .vecRearm v true ∧ d = .rearm v) →
      exec c s = .next { s with hub := { s.hub with rings := { s.hub.rings with doorbells := s.hub.rings.doorbells ++ [d] } } }))

/-- R42, R43, R44, R49, R54: the hub fetches the next descriptor of a ring that may be fetched from; a valid one of the ring's epoch, whose tag is not
in the window, is taken up and waits; an invalid one is completed with INVALID, and one whose tag the window recalls with DUPLICATE, and neither enters
anything; a fenced one stays unfetched until the ring holds none. An error in a line of the windows is counted first, and one that cannot be corrected is a
block fault of HIF and fetches nothing. R52, R147, R388: one whose read of host memory fails completes with UNCORRECTABLE, a FRAME_POST leaves the
poisoned data in its range, and a FW_STAGE leaves BYTES at its OFFSET rounded down to 64 KiB.
(The form of the round robin by which a ring is outranked, and the handle of a descriptor, are the model's choice, log entry 21; that a double error of a
line of the windows is a fault of HIF is its reading of R149, log entry 28.) -/
def Obligations.FetchTakesUpTheNextDescriptor : Prop :=
  (∀ (s : State) (n : Nat) (bytes : List Byte), bytes.length = 64 →
    (s.hub.fetchable n = false ∨ s.hub.outranked n = true → exec (.descriptorFetch n bytes []) s = .next s) ∧
    (s.hub.fetchable n = true → s.hub.outranked n = false → bitOf (byteAt bytes 1) 0 = true → (s.hub.sq n).inflight ≠ [] →
      exec (.descriptorFetch n bytes []) s = .next { s with hub := s.hub.setSq n { s.hub.sq n with fenced := true } }) ∧
    (s.hub.fetchable n = true → s.hub.outranked n = false → bitOf (byteAt bytes 1) 0 = false →
      (descValid bytes = true → leAt bytes 8 2 = s.hub.f (Reg.SQn_EPOCH n) 15 0 → (s.hub.sq n).recall (leAt bytes 4 4) = none →
        s.hub.fwu.phase ≠ .recovery → s.hub.saddle.role = .unpaired →
        ∃ t, exec (.descriptorFetch n bytes []) s = .next t ∧ HubOnly s t ∧ RegsKeptBut [] s.hub t.hub ∧
          t.hub.sq n = { s.hub.sq n with
            fenced := false
            head := ((s.hub.sq n).head + 1) % s.hub.ringSize (Reg.SQn_CTL n)
            inflight := (s.hub.sq n).inflight ++ [s.hub.descOf s.glob n bytes]
            window := windowAccept (s.hub.sq n).window (s.hub.descOf s.glob n bytes).tag } ∧
          (s.hub.descOf s.glob n bytes).tag % 2 ^ 32 = leAt bytes 4 4 ∧ (∀ j, j ≠ n → t.hub.sq j = s.hub.sq j) ∧
          t.hub.out = .descRead n (s.hub.ringAddr (Reg.SQn_BASE_LO n) (Reg.SQn_BASE_HI n) + 64 * (s.hub.sq n).head) :: s.hub.out) ∧
      (∀ status, (status = Status.invalid ∧ (descValid bytes = false ∨ leAt bytes 8 2 ≠ s.hub.f (Reg.SQn_EPOCH n) 15 0) ∨
          status = Status.duplicate ∧ descValid bytes = true ∧ leAt bytes 8 2 = s.hub.f (Reg.SQn_EPOCH n) 15 0 ∧
            (s.hub.sq n).recall (leAt bytes 4 4) ≠ none) →
        ∃ t, exec (.descriptorFetch n bytes []) s = .next t ∧ HubOnly s t ∧ (t.hub.sq n).inflight = (s.hub.sq n).inflight ∧
          (t.hub.sq n).window = (s.hub.sq n).window ∧
          Reports ((s.hub.setSq n { s.hub.sq n with
            fenced := false, head := ((s.hub.sq n).head + 1) % s.hub.ringSize (Reg.SQn_CTL n) }).served n) t.hub ∧
          ∃ slot addr c, Out.completion (s.hub.boundCq n) slot addr c ∈ t.hub.out ∧ c.tag = leAt bytes 4 4 ∧ c.status = status ∧ c.sq = n ∧
            ∀ e, status = Status.duplicate → (s.hub.sq n).recall (leAt bytes 4 4) = some e →
              c.orig = e.status.getD Status.busy ∧ c.result = padTo 16 e.result))) ∧
  (∀ (s : State) (n : Nat) (bytes : List Byte) (lines : List (Nat × LineErr)),
    exec (.descriptorFetch n bytes lines) s = exec (.descriptorFetch n bytes []) (s.ownLines .hif 17 1 lines) ∧
    ((∃ l ∈ lines, 65536 * 17 ≤ l.1 ∧ l.1 < 65536 * 18 ∧ (s.ownLines .hif 17 1 lines).mem.sramBroken l.1 = true) →
      exec (.descriptorFetch n bytes lines) s = .next (s.ownLines .hif 17 1 lines))) ∧
  (∀ (s : State) (q tag : Nat) (d : Desc) (poisoned : List Byte),
    (∀ errs, exec (.dmaReadTimeout q tag poisoned errs) s = exec (.dmaReadTimeout q tag poisoned []) (s.reads errs)) ∧
    (∀ op, Fetched s q tag op d → (op = 0x32 ∨ op = 0x80) →
      BecomesAnswering (.dmaReadTimeout q tag poisoned []) s s.hub q tag Status.uncorrectable []) ∧
    (Fetched s q tag 0x50 d →
      (∀ status, s.hub.fwStageStatus s.glob d = some status → BecomesAnswering (.dmaReadTimeout q tag poisoned []) s s.hub q tag status []) ∧
      (s.hub.fwStageStatus s.glob d = none → s.hub.fwu.boot.pending = false →
        BecomesAnswering (.dmaReadTimeout q tag poisoned []) s { s.hub with fwu := { s.hub.fwu with
          bytes := d.op 28 4 / 65536 * 65536, staging := s.hub.fwu.staging.take (d.op 28 4 / 65536 * 65536) } } q tag Status.uncorrectable [])) ∧
    (Fetched s q tag 0x10 d →
      (∀ status, s.hub.framePostStatus d = some status → BecomesAnswering (.dmaReadTimeout q tag poisoned []) s s.hub q tag status []) ∧
      (s.hub.framePostStatus d = none → s.hub.dramRefused s.mem d.secure true d.postDest (poisoned.take d.postLen).length = none →
        ∃ t, exec (.dmaReadTimeout q tag poisoned []) s = .next t ∧ t.glob = s.glob ∧ t.pending = s.pending ∧ Reports s.hub t.hub ∧
          t.mem = s.hub.writeDram s.mem d.secure d.postDest (poisoned.take d.postLen) true ∧ DramKeptBut d.postDest d.postLen s.mem t.mem ∧
          Answered q tag Status.uncorrectable [] s.hub t.hub)))

/-- R5, R39: a 32-bit write of a class F register of RW fields alone, by a requester that may write it, replaces its RW fields and nothing else; a host write that
is narrow or not aligned has no effect, and is counted where its block is neither off nor isolated. R42, R47, R54: every write of a ring's control completes: an enable with a valid SIZE restarts the
indices of the ring, one without sets its configuration error, and any other write takes its fields, but that of a completion ring in use that would disable it;
a changed epoch of a ring that is not enabled clears its duplicate window; and the INT source map takes what is written.
(That a narrow or misaligned write of an offset without a register is counted is the model's choice, log entry 21.) -/
def Obligations.RegisterWritesReachTheirFields : Prop :=
  ((∀ (s : State) (who : Requester) (off value i j : Nat) (d : RegDesc), s.hub.quietTo who = true →
      s.hub.accessAt s.glob who off = .ok d i j → d.cls = .f → d.id ∈ plainF → off % 4 = 0 →
      ∃ t, exec (.registerWrite who off value 4) s = .next t ∧ HubOnly s t ∧ t.hub = { s.hub with regs := t.hub.regs } ∧
        FieldsWritten off d.rw value s.hub t.hub) ∧
    (∀ (s : State) (off value size : Nat), s.hub.awake 2 = true → (size % 4 ≠ 0 ∨ off % 4 ≠ 0) →
      exec (.registerWrite .host off value size) s =
        .next (if s.hub.shutOff off then s else { s with hub := s.hub.count Reg.HIF_ACC_ERR 16 }))) ∧
  ((∀ (s : State) (who : Requester) (n value : Nat), s.hub.quietTo who = true → n < 64 → s.hub.allows s.glob who (Reg.SQn_CTL n) = true →
      ∃ t, exec (.sqCtlWrite who n value) s = .next t ∧ HubOnly s t ∧
        (if s.hub.bit (Reg.SQn_CTL n) 0 = false ∧ bitOf value 0 = true then
          (if sizeOk value = true then
            t.hub = { s.hub.setSq n { s.hub.sq n with head := 0, tail := 0, cfgErr := false, dbErr := 0, fenced := false } with regs := t.hub.regs } ∧
              FieldsWritten (Reg.SQn_CTL n) (rwMask (Reg.SQn_CTL n)) value s.hub t.hub
          else t.hub = s.hub.setSq n { s.hub.sq n with cfgErr := true })
        else
          t.hub = { s.hub with regs := t.hub.regs } ∧
            FieldsWritten (Reg.SQn_CTL n) (rwMask (Reg.SQn_CTL n) - (if s.hub.bit (Reg.SQn_CTL n) 0 then 0x1F00 else 0)) value s.hub t.hub)) ∧
    (∀ (s : State) (who : Requester) (n value : Nat), s.hub.quietTo who = true → n < 64 → s.hub.allows s.glob who (Reg.CQn_CTL n) = true →
      ∃ t, exec (.cqCtlWrite who n value) s = .next t ∧ HubOnly s t ∧
        (if s.hub.bit (Reg.CQn_CTL n) 0 = false ∧ bitOf value 0 = true then
          (if sizeOk value = true then
            t.hub = { s.hub.setCq n { tail := 0, phase := true, head := 0, used := 0, cfgErr := false } with regs := t.hub.regs } ∧
              FieldsWritten (Reg.CQn_CTL n) (rwMask (Reg.CQn_CTL n)) value s.hub t.hub
          else t.hub = s.hub.setCq n { s.hub.cq n with cfgErr := true })
        else if s.hub.bit (Reg.CQn_CTL n) 0 = true ∧ bitOf value 0 = false ∧ s.hub.cqInUse n = true then t.hub = s.hub
        else
          t.hub = { s.hub with regs := t.hub.regs } ∧
            FieldsWritten (Reg.CQn_CTL n) (rwMask (Reg.CQn_CTL n) - (if s.hub.bit (Reg.CQn_CTL n) 0 then 0x1F00 else 0)) value s.hub t.hub)) ∧
    (∀ (s : State) (who : Requester) (value : Nat), s.hub.quietTo who = true → s.hub.allows s.glob who Reg.EVQ_CTL = true →
      ∃ t, exec (.evqCtlWrite who value) s = .next t ∧ HubOnly s t ∧
        (if s.hub.bit Reg.EVQ_CTL 0 = false ∧ bitOf value 0 = true then
          (if sizeOk value = true then
            t.hub = { s.hub with
              regs := t.hub.regs
              rings := { s.hub.rings with evq := { s.hub.rings.evq with
                tail := 0, phase := true, head := 0, used := 0, cfgErr := false, lost := 0 } } } ∧
              FieldsWritten Reg.EVQ_CTL (rwMask Reg.EVQ_CTL) value s.hub t.hub
          else t.hub = { s.hub with rings := { s.hub.rings with evq := { s.hub.rings.evq with cfgErr := true } } })
        else
          t.hub = { s.hub with regs := t.hub.regs } ∧
            FieldsWritten Reg.EVQ_CTL (rwMask Reg.EVQ_CTL - (if s.hub.bit Reg.EVQ_CTL 0 then 0x1F00 else 0)) value s.hub t.hub)) ∧
    (∀ (s : State) (who : Requester) (n value : Nat), s.hub.quietTo who = true → n < 64 → s.hub.allows s.glob who (Reg.SQn_EPOCH n) = true →
      (s.hub.bit (Reg.SQn_CTL n) 0 = true ∨ value % 65536 = s.hub.f (Reg.SQn_EPOCH n) 15 0 → exec (.sqEpochWrite who n value) s = .next s) ∧
      (s.hub.bit (Reg.SQn_CTL n) 0 = false → value % 65536 ≠ s.hub.f (Reg.SQn_EPOCH n) 15 0 →
        ∃ t, exec (.sqEpochWrite who n value) s = .next t ∧ HubOnly s t ∧
          t.hub = { s.hub.setSq n { s.hub.sq n with window := [] } with regs := t.hub.regs } ∧
          FieldsWritten (Reg.SQn_EPOCH n) 0xFFFF value s.hub t.hub)) ∧
    (∀ (s : State) (who : Requester) (n value : Nat), s.hub.quietTo who = true → n < 128 → s.hub.allows s.glob who (Reg.INT_SRC_MAPn n) = true →
      ∃ t, exec (.intSrcMapWrite who n value) s = .next t ∧ HubOnly s t ∧ t.hub = { s.hub with regs := t.hub.regs } ∧
        FieldsWritten (Reg.INT_SRC_MAPn n) 0x33F value s.hub t.hub))

/-- R63, R449, R450: with MSI-X enabled and its HOLDOFF passed, an armed and asserted vector, or one whose message is held, sends its message and disarms while
neither its entry nor the function is masked; masked, it disarms and its message is held; nothing else makes a message. The capability bits take what is
written; each word of a table entry takes what is written to it, singly or as 64 bits, and the rest of the entry and every other entry stay; the PBA is
read-only. (That bits [1:0] of a message address are stored as 0 is the model's choice, log entry 21, and so no statement is made of them.) -/
def Obligations.VectorsSendTheirMessage : Prop :=
  (∀ (s : State) (v : Nat), v < 64 → s.hub.serving .int = true → s.hub.rings.msixEn = true → s.hub.holdoffOver v = true →
    ((s.hub.rings.fmask = false → (s.hub.vec v).mask = false →
        ((s.hub.vec v).armed = true ∧ s.hub.asserted v = true) ∨ (s.hub.vec v).pba = true →
        exec (.msixMessage v) s = .next { s with hub := (s.hub.setVec v { s.hub.vec v with
          armed := (s.hub.vec v).armed && !s.hub.asserted v, pba := false, lastMsg := some s.hub.clock }).emit (.msix v (s.hub.vec v).addr (s.hub.vec v).data) }) ∧
      (s.hub.rings.fmask = true ∨ (s.hub.vec v).mask = true → (s.hub.vec v).armed = true → s.hub.asserted v = true →
        exec (.msixMessage v) s = .next { s with hub := s.hub.setVec v { s.hub.vec v with armed := false, pba := true } }))) ∧
  (∀ (s : State) (v : Nat), (s.hub.rings.msixEn = false ∨ s.hub.serving .int = false ∨ s.hub.holdoffOver v = false ∨
      ((s.hub.vec v).armed = false ∨ s.hub.asserted v = false) ∧
        ((s.hub.vec v).pba = false ∨ s.hub.rings.fmask = true ∨ (s.hub.vec v).mask = true)) →
    exec (.msixMessage v) s = .next s) ∧
  (∀ (s : State) (en fm : Bool), s.hub.linkInL12 = false →
    exec (.msixCapabilityWrite en fm) s = .next { s with hub := { s.hub with rings := { s.hub.rings with msixEn := en, fmask := fm } } }) ∧
  (∀ (s : State) (v word high : Nat), s.hub.awake 2 = true → v < 64 → word < 2 ^ 32 → high < 2 ^ 32 →
    (word % 4 = 0 → (s.hub.vec v).addr < 2 ^ 64 →
      exec (.msixTableWrite (16 * v) word 4) s = .next { s with hub := s.hub.setVec v { s.hub.vec v with
        addr := (s.hub.vec v).addr / 2 ^ 32 * 2 ^ 32 + word } } ∧
      exec (.msixTableWrite (16 * v) (word + high * 2 ^ 32) 8) s = .next { s with hub := s.hub.setVec v { s.hub.vec v with
        addr := word + high * 2 ^ 32 } }) ∧
    exec (.msixTableWrite (16 * v + 4) word 4) s = .next { s with hub := s.hub.setVec v { s.hub.vec v with
      addr := (s.hub.vec v).addr % 2 ^ 32 + word * 2 ^ 32 } } ∧
    exec (.msixTableWrite (16 * v + 8) word 4) s = .next { s with hub := s.hub.setVec v { s.hub.vec v with data := word } } ∧
    exec (.msixTableWrite (16 * v + 12) word 4) s = .next { s with hub := s.hub.setVec v { s.hub.vec v with mask := bitOf word 0 } } ∧
    exec (.msixTableWrite (16 * v + 8) (word + high * 2 ^ 32) 8) s = .next { s with hub := s.hub.setVec v { s.hub.vec v with
      data := word, mask := bitOf high 0 } } ∧
    exec (.msixTableWrite 0x800 word 4) s = .next s ∧ exec (.msixTableWrite 0x804 word 4) s = .next s)

/-- R41: a HOST-region reset completes in every state. It disables every ring and returns every INT register, the vectors and the MSI-X capability to reset; the
epochs, the TAGs of the duplicate windows, the entries staged, a commit that has passed its check, the applied configuration, the memories, the time bases,
the state of the Naush links and the radios, the flows, the pipes' buffers and the role stay as they were. R463: the host link, where it had come up, has
trained anew. (To what width and generation is left open, log entry 44; that the vectors and the MSI-X capability return to reset is PRESUMED, log entry 18.) -/
def Obligations.HostRegionResetKeepsTheShow : Prop :=
  ∀ s : State, ∃ t, exec .hostRegionReset s = .next t ∧ t.glob = s.glob ∧ t.mem = s.mem ∧ t.pending = s.pending ∧
    (∀ n, n < 64 → t.hub.bit (Reg.SQn_CTL n) 0 = false ∧ t.hub.bit (Reg.CQn_CTL n) 0 = false ∧
      t.hub.rd (Reg.SQn_EPOCH n) = s.hub.rd (Reg.SQn_EPOCH n) ∧
      (t.hub.sq n).window.map (fun e => e.tag) = (s.hub.sq n).window.map (fun e => e.tag)) ∧
    t.hub.bit Reg.EVQ_CTL 0 = false ∧
    (∀ k, k < 4 → t.hub.n (Reg.INT_PENDk k) = 0) ∧ (∀ n, n < 128 → t.hub.rd (Reg.INT_SRC_MAPn n) = Reg.resetValue (Reg.INT_SRC_MAPn n)) ∧
    (∀ v, v < 64 → t.hub.rd (Reg.INT_VEC_CTLv v) = Reg.resetValue (Reg.INT_VEC_CTLv v) ∧ t.hub.vec v = {}) ∧
    t.hub.rings.msixEn = false ∧ t.hub.rings.fmask = false ∧
    t.hub.commit.inForce = s.hub.commit.inForce ∧ t.hub.commit.slots = s.hub.commit.slots ∧ t.hub.commit.epoch = s.hub.commit.epoch ∧
    t.hub.commit.digest = s.hub.commit.digest ∧ t.hub.commit.stagedWrites = s.hub.commit.stagedWrites ∧
    (s.hub.commit.phase = .pending → t.hub.commit.phase = .pending ∧ t.hub.commit.instant = s.hub.commit.instant) ∧
    (∀ b, b < 4 → t.hub.now48 b = s.hub.now48 b ∧ (t.hub.base b).freq = (s.hub.base b).freq ∧ (t.hub.base b).state = (s.hub.base b).state) ∧
    (∀ n, n < 32 → (t.hub.port n).phase = (s.hub.port n).phase ∧ (t.hub.flow n) = (s.hub.flow n) ∧
      (t.hub.pipe n).cur = (s.hub.pipe n).cur ∧ (t.hub.pipe n).pend = (s.hub.pipe n).pend) ∧
    t.hub.odls = s.hub.odls ∧ t.hub.saddle.role = s.hub.saddle.role ∧ t.hub.rings.link.ready = s.hub.rings.link.ready ∧
    t.hub.rings.doorbells = s.hub.rings.doorbells

/-- R58, Table 2.6: an ABORT of a target that quiesces ends the target's work at once and is in flight until it has quiesced. R58, R60: the ABORT
completes with OK when its target has quiesced; a target that does not answer is fenced and reset after 24 µs and the ABORT completes with OK and
ESCALATED 1; a reset that does not complete ends it with TIMEOUT and leaves the block isolated. Table 2.6: an ABORT of a ring skips what was unfetched
at the ABORT's fetch, and one of a Col level leaves no item waiting in it.
(The ESCALATED bit beside TIMEOUT is the model's choice, log entry 19.) -/
def Obligations.AbortEndsItsTarget : Prop :=
  (∀ (s : State) (q tag i : Nat) (d : Desc), Fetched s q tag 0x70 d → d.op 18 2 = i →
      (d.op 16 1 = 0 → s.glob.safe = false → i < 24 → s.hub.blockOn (.spr i) = true → s.hub.isolatedBlock (.spr i) = false →
        s.hub.abortOn 0 i = none → ((s.hub.eng i).phase = .running ∨ (s.hub.eng i).phase = .waiting ∨ (s.hub.eng i).phase = .halted) →
        s.hub.bit (Reg.SPRe_CTL i) 1 = false →
        ∃ t, exec (.abortEngine q tag false []) s = .next t ∧ HubOnly s t ∧ (t.hub.abortOn 0 i).isSome = true ∧
          t.hub.eng i = { (s.hub.eng i).start (s.hub.imgEntry i) true with restarts := satInc 16 (s.hub.eng i).restarts } ∧
          t.hub.pending (64 + i) = true) ∧
      (d.op 16 1 = 3 → i < 32 → s.hub.blockOn (.scn i) = true → s.hub.isolatedBlock (.scn i) = false → s.hub.abortOn 3 i = none →
        ∃ t, exec (.abortPipe q tag false) s = .next t ∧ HubOnly s t ∧ (t.hub.abortOn 3 i).isSome = true ∧
          t.hub.pipe i = { s.hub.pipe i with stopped := true } ∧ t.hub.scan.groups = s.hub.scan.groups ∧ t.hub.ports = s.hub.ports) ∧
      (d.op 16 1 = 4 → s.glob.safe = false → i < 32 → s.hub.blockOn (.nsh i) = true → s.hub.isolatedBlock (.nsh i) = false → s.hub.abortOn 4 i = none →
        s.hub.bit (Reg.NSHn_CTL i) 0 = true →
        ∃ t, exec (.abortPort q tag false) s = .next t ∧ HubOnly s t ∧ (t.hub.abortOn 4 i).isSome = true ∧
          (t.hub.port i).phase = .training true) ∧
      (d.op 16 1 = 5 → i < 32 → s.hub.blockOn .ing = true → s.hub.abortOn 5 i = none →
        ∃ t, exec (.abortFlow q tag false) s = .next t ∧ HubOnly s t ∧ (t.hub.abortOn 5 i).isSome = true ∧ (t.hub.flow i).aborted = true ∧
          (t.hub.flow i).frame = none) ∧
      (d.op 16 1 = 6 → s.glob.safe = false → i < 2 → s.hub.blockOn (.odl i) = true → s.hub.isolatedBlock (.odl i) = false → s.hub.abortOn 6 i = none →
        (s.hub.odl i).phase ≠ .off → s.hub.saddle.role = .standby →
        ∃ t, exec (.abortRadio q tag false) s = .next t ∧ HubOnly s t ∧ (t.hub.abortOn 6 i).isSome = true ∧ (t.hub.odl i).phase = .standby)) ∧
  (∀ (s : State) (kind i units q tag : Nat) (a : AbortOp), s.hub.abortOn kind i = some a → a.descs = [(q, tag)] → a.kind = kind → a.index = i →
      (s.hub.desc q tag).isSome = true →
      (a.phase = .quiescing false → units ≤ 240 → (a.atOnce = true → units = 0) → kind ≠ 3 →
        ∃ t, exec (.targetQuiesced kind i units) s = .next t ∧ HubOnly s t ∧ t.hub.abortOn kind i = none ∧
          Reports (s.hub.setAbort kind i none) t.hub ∧ Answered q tag Status.ok (abortResult false a.ended units) s.hub t.hub) ∧
      (a.phase = .quiescing true →
        ∃ t, exec (.abortEscalation kind i) s = .next t ∧ HubOnly s t ∧ t.hub.isolatedBlock (abortLies kind i) = true ∧
          (∃ b, t.hub.abortOn kind i = some b ∧ b.phase = .resetting true)) ∧
      (a.phase = .resetting true → kind = 3 → units ≤ 1240 →
        ∃ t, exec (.blockResetDone kind i units []) s = .next t ∧ HubOnly s t ∧ t.hub.abortOn kind i = none ∧
          t.hub.isolatedBlock (abortLies kind i) = false ∧ Answered q tag Status.ok (abortResult true a.ended units) s.hub t.hub) ∧
      (a.phase = .resetting false →
        ∃ t, exec (.blockResetTimeout kind i) s = .next t ∧ HubOnly s t ∧ t.hub.abortOn kind i = none ∧
          t.hub.power.isolated = s.hub.power.isolated ∧ Answered q tag Status.timeout (abortResult false a.ended 1000) s.hub t.hub)) ∧
  ((∀ (s : State) (q tag i tail : Nat) (d : Desc), Fetched s q tag 0x70 d → d.op 16 1 = 1 → d.op 18 2 = i → i < 64 → i ≠ q →
      s.hub.blockOn .hif = true → s.hub.abortOn 1 i = none → (s.hub.sq i).inflight = [] → d.words = [tail] →
      ringDist (s.hub.ringSize (Reg.SQn_CTL i)) (s.hub.sq i).head tail ≤
        ringDist (s.hub.ringSize (Reg.SQn_CTL i)) (s.hub.sq i).head (s.hub.sq i).tail →
      ∃ t, exec (.abortRing q tag false) s = .next t ∧ HubOnly s t ∧ (t.hub.sq i).head = tail ∧ (t.hub.sq i).tail = (s.hub.sq i).tail ∧
        (t.hub.sq i).inflight = [] ∧ (t.hub.abortOn 1 i).isSome = true ∧ (∃ d', t.hub.desc q tag = some d' ∧ d'.phase = .waiting) ∧
        RegsKeptBut [] s.hub t.hub) ∧
    (∀ (s : State) (q tag i : Nat) (d : Desc), Fetched s q tag 0x70 d → d.op 16 1 = 2 → d.op 18 2 = i → i < 8 →
      s.hub.blockOn .col = true → s.hub.abortOn 2 i = none →
      ∃ t, exec (.abortColLevel q tag false) s = .next t ∧ HubOnly s t ∧ t.hub.levelWaiting i = 0 ∧ (t.hub.abortOn 2 i).isSome = true))

/-! ## Summit (spec/03_summit_commit.md) -/

/-- R66, R70: a CFG_STAGE puts all of its entries into the bank or none: INVALID where a register or a table may not be written, REFUSED where the
bank would be full, BUSY during a commit. CFG_DISCARD empties the bank, and the end of the transfer makes the entries staged. Errors in the lines of the list
are counted first.
(That BUSY is judged before INVALID and INVALID before REFUSED, and a TABLE_ID only with table data, is the model's choice, log entry 16, and that entries still moving are no part of the set is its reading,
log entry 15; where in DRAM table bytes go is left open, log entry 16.) -/
def Obligations.StagingTakesAllOrNothing : Prop :=
  ∀ (s : State) (q tag : Nat) (d : Desc), s.hub.serving .cmt = true →
    (∀ writes table lines, exec (.cfgStage q tag writes table lines) s = exec (.cfgStage q tag writes table []) (s.ownLines .cmt 18 1 lines)) ∧
    (∀ writes table, Fetched s q tag 0x01 d → s.hub.commit.phase = .idle → writes.length = d.op 16 4 →
      (∀ w ∈ writes, stageable w.1 = true) → (d.op 40 4 ≠ 0 → s.hub.commit.tableBad (d.op 44 4) (d.op 40 4) = false) →
      s.hub.commit.writes.length + writes.length ≤ 65536 → s.hub.commit.tableBytes (fun _ => true) + d.op 40 4 ≤ 2 ^ 26 →
      ∃ t, exec (.cfgStage q tag writes table []) s = .next t ∧ HubOnly s t ∧ RegsKeptBut [] s.hub t.hub ∧
        (∃ d', t.hub.desc q tag = some d' ∧ d'.phase = .moving) ∧
        t.hub.commit = { s.hub.commit with
          writes := s.hub.commit.writes ++ writes.map (fun w => { off := w.1, value := w.2 % 2 ^ 32, owner := some (q, tag) })
          tables := s.hub.commit.tables ++ (if d.op 40 4 = 0 then [] else
            [{ id := d.op 44 4, bytes := padTo (d.op 40 4) table, owner := some (q, tag) }]) }) ∧
    (∀ writes table, Fetched s q tag 0x01 d → s.hub.commit.phase = .idle → writes.length = d.op 16 4 →
      ((∃ w ∈ writes, stageable w.1 = false) ∨ (d.op 40 4 ≠ 0 ∧ s.hub.commit.tableBad (d.op 44 4) (d.op 40 4) = true)) →
      BecomesAnswering (.cfgStage q tag writes table []) s s.hub q tag Status.invalid []) ∧
    (∀ writes table, Fetched s q tag 0x01 d → s.hub.commit.phase = .idle → writes.length = d.op 16 4 →
      (∀ w ∈ writes, stageable w.1 = true) → d.op 40 4 = 0 → 65536 < s.hub.commit.writes.length + writes.length →
      BecomesAnswering (.cfgStage q tag writes table []) s s.hub q tag Status.refused []) ∧
    (∀ writes table, Fetched s q tag 0x01 d → s.hub.commit.phase ≠ .idle →
      BecomesAnswering (.cfgStage q tag writes table []) s s.hub q tag Status.busy []) ∧
    (Fetched s q tag 0x03 d → s.hub.commit.phase = .idle →
      BecomesAnswering (.cfgDiscard q tag) s { s.hub with commit := s.hub.commit.emptied } q tag Status.ok []) ∧
    (Fetched s q tag 0x03 d → s.hub.commit.phase ≠ .idle →
      BecomesAnswering (.cfgDiscard q tag) s s.hub q tag Status.busy []) ∧
    (s.hub.desc q tag = some d → d.opcode = 0x01 → d.phase = .moving →
      (s.hub.commit.phase = .idle →
        s.hub.dramRefused s.mem d.secure true (s.hub.stagePlace q tag).1 (s.hub.stagePlace q tag).2.length = none →
        ∃ t, exec (.dmaTransferDone q tag []) s = .next t ∧ t.glob = s.glob ∧ t.pending = s.pending ∧
          Reports (s.hub.cfgStaged q tag d) t.hub ∧ Answered q tag Status.ok (s.hub.cfgStaged q tag d).stagedResult s.hub t.hub ∧
          t.mem = s.hub.stageToDram s.mem q tag d ∧ ((∀ x ∈ s.hub.commit.tables, x.owner ≠ some (q, tag)) → t.mem = s.mem)) ∧
      (s.hub.commit.phase ≠ .idle →
        BecomesAnswering (.dmaTransferDone q tag []) s (s.hub.unstage q tag) q tag Status.busy []))

/-- R71, R72, R75: a CFG_COMMIT of the idle engine goes into the check with its instant in force, or completes LATE; the check ends with the set
pending, or with the failure's status and source 47 and the bank as it was; and of steps 3 to 5 the first that finds something decides: a field out of its range
INVALID, a powered-off domain NOT_PRESENT, a register of the other world DENIED. Errors in the staged tables and the list are counted first, and
what cannot be read of the tables is a fault of CMT.
(That step 2 is judged at the command and steps 3 to 8 when the check ends is the model's reading of R75, log entry 15; that a poisoned table is a fault of CMT is its
reading of R149, log entry 28.) -/
def Obligations.CommitIsCheckedThenPending : Prop :=
  ∀ (s : State) (q tag : Nat) (d : Desc), s.hub.serving .cmt = true →
    (∀ errs lines u, u = (s.ownLines .cmt 18 1 lines).reads errs →
      (u.hub.stagedSpoilt u.mem = false → exec (.commitCheckDone errs lines) s = exec (.commitCheckDone [] []) u) ∧
      (u.hub.stagedSpoilt u.mem = true → s.hub.isolatedBlock .cmt = false →
        ∃ t, exec (.commitCheckDone errs lines) s = .next t ∧ t.hub.power.reported.contains .cmt = true ∧ t.hub.commit = s.hub.commit)) ∧
    (Fetched s q tag 0x02 d → s.glob.safe = false → s.hub.commit.phase = .idle → d.op 16 1 = 0 →
      ∃ t, exec (.cfgCommit q tag) s = .next t ∧ HubOnly s t ∧ RegsKeptBut [] s.hub t.hub ∧
        t.hub.commit = { s.hub.commit with
          phase := .checking, owner := some (q, tag), instant := .immediate, next := bitOf (d.op 17 1) 0, kind := 0
          atStart := s.hub.startRules s.hub.overlay }) ∧
    (Fetched s q tag 0x02 d → s.glob.safe = false → s.hub.commit.phase = .idle → d.op 16 1 = 1 → bitOf (d.op 17 1) 0 = false →
      s.hub.now48 (d.op 18 1) + s.hub.commitLead s.hub.overlay ≤ time48 (d.op 24 6) (d.op 30 4) (d.op 34 2) →
      ∃ t, exec (.cfgCommit q tag) s = .next t ∧ HubOnly s t ∧ RegsKeptBut [] s.hub t.hub ∧ t.hub.commit.phase = .checking ∧
        t.hub.commit.owner = some (q, tag) ∧
        t.hub.commit.instant = .time (d.op 18 1) (time48 (d.op 24 6) (d.op 30 4) (d.op 34 2))) ∧
    (Fetched s q tag 0x02 d → s.glob.safe = false → s.hub.commit.phase = .idle → d.op 16 1 = 1 → bitOf (d.op 17 1) 0 = false →
      time48 (d.op 24 6) (d.op 30 4) (d.op 34 2) < s.hub.now48 (d.op 18 1) + s.hub.commitLead s.hub.overlay →
      ∃ t, exec (.cfgCommit q tag) s = .next t ∧ HubOnly s t ∧ RegsKeptBut pendRegs s.hub t.hub ∧ Answered q tag Status.late [] s.hub t.hub ∧
        t.hub.pending 47 = true ∧ t.hub.commit.phase = .idle ∧ t.hub.commit.writes = s.hub.commit.writes ∧
        t.hub.commit.tables = s.hub.commit.tables ∧ t.hub.commit.chkStatus = Status.late ∧ t.hub.commit.chkRule = 1) ∧
    (s.hub.commit.phase = .checking → s.hub.commit.owner = some (q, tag) → s.hub.desc q tag = some d →
      s.hub.stagedSpoilt s.mem = false → s.hub.checkVerdict s.glob d.secure s.hub.commit.instant = none →
      ∃ t, exec (.commitCheckDone [] []) s = .next t ∧ HubOnly s t ∧ RegsKeptBut [] s.hub t.hub ∧
        t.hub.commit = { s.hub.commit with phase := .pending, atStart := [] } ∧ t.hub.rings = s.hub.rings) ∧
    (∀ x, s.hub.commit.phase = .checking → s.hub.commit.owner = some (q, tag) → s.hub.desc q tag = some d →
      s.hub.stagedSpoilt s.mem = false → s.hub.checkVerdict s.glob d.secure s.hub.commit.instant = some x →
      ∃ t, exec (.commitCheckDone [] []) s = .next t ∧ HubOnly s t ∧ RegsKeptBut pendRegs s.hub t.hub ∧
        Answered q tag x.status x.result s.hub t.hub ∧ t.hub.pending 47 = true ∧ t.hub.commit.phase = .idle ∧
        t.hub.commit.writes = s.hub.commit.writes ∧ t.hub.commit.tables = s.hub.commit.tables ∧
        t.hub.commit.chkStatus = x.status ∧ t.hub.commit.chkRule = x.rule) ∧
    (∀ secure i, s.hub.rangeFindings s.hub.overlay ≠ [] →
      ∃ x, s.hub.checkVerdict s.glob secure i = some x ∧ x.status = Status.invalid ∧ x.rule = 2) ∧
    (∀ secure i, s.hub.rangeFindings s.hub.overlay = [] → s.hub.poweredOff ≠ [] →
      ∃ x, s.hub.checkVerdict s.glob secure i = some x ∧ x.status = Status.notPresent ∧ x.rule = 3) ∧
    (∀ i, s.hub.rangeFindings s.hub.overlay = [] → s.hub.poweredOff = [] → s.hub.worldDenied false ≠ [] →
      ∃ x, s.hub.checkVerdict s.glob false i = some x ∧ x.status = Status.denied ∧ x.rule = 4)

/-- R67, R74, R77, R82: before the instant of a pending set nothing happens; at it, where the set is without class F writes, every register holds the RW fields last staged for it, the staged tables are
in force, the bank is empty, the epoch is the next one, source 46 is raised, and fuses, memories and queue stay as they were. (R69: the base of a table area
that holds table data is not moved.) -/
def Obligations.PendingSetTakesEffectWhole : Prop :=
  ∀ s : State, s.hub.commit.phase = .pending →
    (s.hub.instantCome s.hub.commit.instant = false → s.hub.saddle.notice = none → exec (.commitApply []) s = .next s) ∧
    (s.hub.instantCome s.hub.commit.instant = true → s.hub.saddle.notice = none → s.hub.power.offPending = [] →
    (∀ w ∈ s.hub.commit.stagedWrites, freeClass w.off = false ∧ w.value < 2 ^ 32) →
    ∃ t, exec (.commitApply []) s = .next t ∧ HubOnly s t ∧
      (∀ off v, s.hub.baseStands off = false → s.hub.stagedWrite off = some v → t.hub.n off &&& rwMask off = v &&& rwMask off) ∧
      (∀ id ∈ s.hub.stagedIds, s.hub.stagedTable id ≠ [] → { id := id, bytes := s.hub.stagedTable id } ∈ t.hub.commit.inForce) ∧
      t.hub.commit.phase = .idle ∧ t.hub.commit.owner = none ∧ t.hub.commit.writes = s.hub.commit.emptied.writes ∧
      t.hub.commit.tables = s.hub.commit.emptied.tables ∧
      t.hub.commit.epoch = (if s.hub.commit.epoch + 1 < 2 ^ 32 then s.hub.commit.epoch + 1 else 1) ∧ t.hub.pending 46 = true)

/-- R65, R81, R85, R86: a direct write of a committed register changes nothing but CMT_DIRECT and raises source 47; a CFG_READ returns what a read of
each register returns, of the registers that the world of its descriptor may read; a census asks every enumerated tile, and its report goes to host memory
when the wait ends. -/
def Obligations.CommittedRegistersAreReadAndGuarded : Prop :=
  ∀ s : State,
    (∀ who off v d i j, s.hub.quietTo who = true → s.hub.accessAt s.glob who off = .ok d i j → d.cls ≠ .f → who ≠ .firmware →
      BecomesRaising (.directWriteRefused who off v) s
        ((s.hub.putF Reg.CMT_DIRECT 15 0 (satInc 16 (s.hub.f Reg.CMT_DIRECT 15 0))).wrN Reg.CMT_DIRECT_LAST (off % 2 ^ 24)) 47) ∧
    (∀ q tag d, s.hub.serving .cmt = true → Fetched s q tag 0x04 d → d.op 16 4 % 4 = 0 → d.op 16 4 + 4 * d.op 20 4 ≤ 2 ^ 24 →
      bitOf (d.op 24 1) 0 = false →
      (∀ k, k < d.op 20 4 → ∃ b rd i j, Block.ofOffset (d.op 16 4 + 4 * k) = some b ∧ b ≠ .dbg ∧ s.hub.reachable b = true ∧
        Reg.at (d.op 16 4 + 4 * k) = some (rd, i, j) ∧ rd.id.counterLo = false ∧ (d.secure = true ∨ s.hub.regSecure rd i = false)) →
      ∃ t, exec (.cfgRead q tag) s = .next t ∧ HubOnly s t ∧ RegsKeptBut [] s.hub t.hub ∧
        t.hub.desc q tag = some { d with
          phase := .moving, status := Status.ok, result := leBytes 4 s.hub.commit.epoch, words := [d.op 32 8]
          data := ((List.range (d.op 20 4)).map (fun k => leBytes 4 (s.hub.view s.glob (d.op 16 4 + 4 * k)))).flatten }) ∧
    (∀ q tag d, s.hub.desc q tag = some d → d.phase = .moving → (d.opcode = 0x04 ∨ d.opcode = 0x31 ∨ d.opcode = 0x40 ∨ d.opcode = 0x71) →
      ∃ t, exec (.dmaTransferDone q tag []) s = .next t ∧ HubOnly s t ∧ Reports s.hub t.hub ∧ Answered q tag d.status d.result s.hub t.hub ∧
        Out.hostWrite (d.words.headD 0) d.data ∈ t.hub.out) ∧
    (∀ q tag d, s.hub.serving .cmt = true → Fetched s q tag 0x71 d → (∀ n ∈ maskPorts (d.op 16 4), s.hub.blockOn (.nsh n) = true) →
      (∀ n ∈ maskPorts (d.op 16 4), (s.hub.port n).phase.carries = false) →
      ∃ t, exec (.census q tag) s = .next t ∧ HubOnly s t ∧ RegsKeptBut [] s.hub t.hub ∧
        t.hub.commit = { s.hub.commit with censuses := s.hub.commit.censuses ++ [{
          sq := q, tag := tag, mask := d.op 16 4, dest := d.op 24 8, epoch := s.hub.commit.epoch, seconds := s.hub.nowSec, nanos := s.hub.nowNs
          down := maskPorts (d.op 16 4), tiles := [], answers := [], endEpoch := s.hub.commit.epoch, endDigest := s.hub.commit.digest }] }) ∧
    (∀ q tag d n, s.hub.serving .cmt = true → Fetched s q tag 0x71 d → n < 32 → d.op 16 4 = 2 ^ n → s.hub.blockOn (.nsh n) = true →
      (s.hub.port n).phase.carries = true → s.hub.originates n = true →
      ∃ t c, exec (.census q tag) s = .next t ∧ HubOnly s t ∧ t.hub.commit.censuses = s.hub.commit.censuses ++ [c] ∧ c.down = [] ∧
        c.tiles = (s.hub.enumerated n).map (fun k => (n, k)) ∧ (t.hub.port n).req = ((s.hub.port n).req + 1) % 2 ^ 32) ∧
    (∀ q tag d c, s.hub.desc q tag = some d → s.hub.commit.censuses.find? (fun c => c.sq == q && c.tag == tag) = some c →
      c.answers.length ≠ c.tiles.length →
      ∃ t, exec (.censusWaitEnd q tag []) s = .next t ∧ HubOnly s t ∧ RegsKeptBut [] s.hub t.hub ∧
        t.hub.commit = { s.hub.commit with censuses := s.hub.commit.censuses.erase c } ∧
        t.hub.desc q tag = some { d with
          phase := .moving, status := Status.timeout, result := leBytes 4 c.answers.length, words := [c.dest]
          data := c.report s.hub.commit.epoch s.hub.commit.digest })

/-! ## Time (spec/04_time.md) -/

/-- R89, R98, R99: TIME_SET and an accepted jump step their base and complete OK; a TIME_SET that is INVALID, BUSY or LATE makes no step, and a
backward step over a FLIP already sent waits, while the root PLL is in lock and no measurement of the PCLK cycle is to be discarded. (R100, for such a
measurement, is ServoSteersWithinItsLimits.)
(That a TIME_SET that meets more than one of INVALID, BUSY and LATE takes the first of them is the model's choice, log entry 24.) -/
def Obligations.TimeStepsOnlyAsAsked : Prop :=
  ∀ (s : State) (q tag t : Nat) (d : Desc), NoRun s → t < 4 → s.hub.serving .tim = true → s.hub.power.rootLock = true → s.hub.saved t = none →
    (Fetched s q tag 0x60 d → d.op 16 1 = t → d.op 30 4 < 1000000000 → (s.hub.base t).deferred = none →
      s.hub.flipAfter t (time48 (d.op 24 6) (d.op 30 4) (d.op 34 2)) = false →
      ∃ u, exec (.timeSet q tag) s = .next u ∧ HubOnly s u ∧ Stepped t (time48 (d.op 24 6) (d.op 30 4) (d.op 34 2)) s u ∧
        Answered q tag Status.ok [] s.hub u.hub ∧
        (u.hub.base t).state = (match (s.hub.base t).state with | .acquire | .jumpHeld => .locked | x => x)) ∧
    (Fetched s q tag 0x60 d → 1000000000 ≤ d.op 30 4 → BecomesAnswering (.timeSet q tag) s s.hub q tag Status.invalid []) ∧
    (Fetched s q tag 0x60 d → d.op 16 1 = t → d.op 30 4 < 1000000000 → (s.hub.base t).deferred ≠ none →
      BecomesAnswering (.timeSet q tag) s s.hub q tag Status.busy []) ∧
    (Fetched s q tag 0x60 d → d.op 16 1 = t → d.op 30 4 < 1000000000 → (s.hub.base t).deferred = none →
      s.hub.flipAfter t (time48 (d.op 24 6) (d.op 30 4) (d.op 34 2)) = true →
      BecomesAnswering (.timeSet q tag) s s.hub q tag Status.late []) ∧
    (∀ step, Fetched s q tag 0x61 d → d.op 16 1 = t → (s.hub.base t).state = .jumpHeld → (s.hub.base t).deferred = none →
      (s.hub.base t).offset = step → -(2 ^ 31 : Int) ≤ step → step < 2 ^ 31 →
      (0 ≤ step ∨ s.hub.flipAfter t (addTime (s.hub.now48 t) (step * (2 ^ 48 : Nat))) = false) →
      ∃ u, exec (.timeAcceptJump q tag) s = .next u ∧ HubOnly s u ∧ Stepped t (addTime (s.hub.now48 t) (step * (2 ^ 48 : Nat))) s u ∧
        (u.hub.base t).state = .locked ∧ Answered q tag Status.ok (leBytes 8 (unsigned 64 step)) s.hub u.hub) ∧
    (∀ step, Fetched s q tag 0x61 d → d.op 16 1 = t → (s.hub.base t).state = .jumpHeld → (s.hub.base t).deferred = none →
      (s.hub.base t).offset = step → -(2 ^ 31 : Int) ≤ step → step < 0 →
      s.hub.flipAfter t (addTime (s.hub.now48 t) (step * (2 ^ 48 : Nat))) = true →
      ∃ u, exec (.timeAcceptJump q tag) s = .next u ∧ HubOnly s u ∧ RegsKeptBut [] s.hub u.hub ∧
        u.hub.base t = { s.hub.base t with deferred := some (q, tag) } ∧ (∃ d', u.hub.desc q tag = some d' ∧ d'.phase = .waiting)) ∧
    (∀ step, s.hub.desc q tag = some d → (s.hub.base t).deferred = some (q, tag) → (s.hub.base t).offset = step →
      -(2 ^ 31 : Int) ≤ step → step < 2 ^ 31 →
      ∃ u, exec (.deferredJumpApply t) s = .next u ∧ HubOnly s u ∧ Stepped t (addTime (s.hub.now48 t) (step * (2 ^ 48 : Nat))) s u ∧
        (u.hub.base t).state = .locked ∧ (u.hub.base t).deferred = none ∧
        Answered q tag Status.ok (leBytes 8 (unsigned 64 step)) s.hub u.hub)

/-- R93, R94: a measurement of a LOCKED base by its PPS pin is accepted up to JUMP_LIMIT and steers frequency alone, within ±500 ppm and within SLEW_LIMIT
of what was in force in the last second; beyond JUMP_LIMIT it is refused and counted. R95, R96: a lost source gives HOLDOVER, and a changed quality raises
event 0x06. R100: in the PCLK cycle of a step it is discarded, before the step or after it, and all that it has to tell with it, which it otherwise tells when
the cycle ends. R466: an edge within 8 ns of the one before gives none.
(That TBt_OFFSET drops the fraction, and that a measurement tells at the end of its cycle, is the model's choice, log entry 24.) -/
def Obligations.ServoSteersWithinItsLimits : Prop :=
  (∀ (s : State) (p quarter : Nat) (rise : Bool), s.hub.edgeTooSoon p quarter = true → s.hub.awake 6 = true →
    exec (.tioInputEdge p rise quarter) s = .next { s with hub := s.hub.setPin p { s.hub.pinState p with sample := rise } }) ∧
  ∀ (s : State) (p t quarter : Nat) (m : Int),
    s.hub.serving .tio = true → s.hub.pinFunc p = 4 → s.hub.pinTb p = t → s.hub.fifoLoses 1 = false → s.hub.f (Reg.TBt_CTL t) 1 0 = 2 →
    s.hub.f (Reg.TBt_CTL t) 4 2 = p → s.hub.saddle.role ≠ .standby → (s.hub.base t).deferred = none →
    nearestOffset (s.hub.capture p quarter) sec48 = m → s.hub.edgeTooSoon p quarter = false → s.hub.awake 6 = true →
    ((s.hub.base t).state = .locked → (s.hub.base t).jumpedAt ≠ some s.hub.clock →
      m.natAbs ≤ s.hub.f (Reg.TBt_LIMITS t) 19 0 * ns48 →
      ∃ u, exec (.tioInputEdge p (s.hub.pinActive p) quarter) s = .next u ∧ HubOnly s u ∧ u.hub.now48 t = s.hub.now48 t ∧
        (u.hub.base t).state = .locked ∧ (u.hub.base t).offset = offsetNs m ∧ (u.hub.base t).e0 = m.natAbs ∧
        -freqMax ≤ (u.hub.base t).freq ∧ (u.hub.base t).freq ≤ freqMax ∧
        ∀ recent : List Int, recent = (s.hub.base t).freq :: ((s.hub.base t).recentLog s.hub.clock 400000000).map Prod.snd →
          (∀ x ∈ recent, -freqMax ≤ x ∧ x ≤ freqMax) →
          (∀ x ∈ recent, ∀ y ∈ recent, (x - y).natAbs ≤ s.hub.f (Reg.TBt_LIMITS t) 31 20 * 256) →
          ∀ x ∈ recent, ((u.hub.base t).freq - x).natAbs ≤ s.hub.f (Reg.TBt_LIMITS t) 31 20 * 256) ∧
    ((s.hub.base t).state = .locked → (s.hub.base t).jumpedAt ≠ some s.hub.clock →
      s.hub.f (Reg.TBt_LIMITS t) 19 0 * ns48 < m.natAbs →
      ∃ u, exec (.tioInputEdge p (s.hub.pinActive p) quarter) s = .next u ∧ HubOnly s u ∧ u.hub.now48 t = s.hub.now48 t ∧
        (u.hub.base t).state = .jumpHeld ∧ (u.hub.base t).offset = offsetNs m ∧ (u.hub.base t).freq = (s.hub.base t).freq ∧
        (u.hub.base t).jumps = satInc 16 (s.hub.base t).jumps ∧ (t, .event 3) ∈ u.hub.time.told ∧
        (t, .refusal (offsetNs m) 2 p) ∈ u.hub.time.told) ∧
    ((s.hub.base t).state = .jumpHeld → (s.hub.base t).jumpedAt ≠ some s.hub.clock →
      s.hub.f (Reg.TBt_LIMITS t) 19 0 * ns48 < m.natAbs →
      ∃ u, exec (.tioInputEdge p (s.hub.pinActive p) quarter) s = .next u ∧ HubOnly s u ∧
        u.hub.base t = { s.hub.base t with offset := offsetNs m } ∧ u.hub.cairn.recQ = s.hub.cairn.recQ ∧ u.hub.time.told = s.hub.time.told) ∧
    ((s.hub.base t).jumpedAt = some s.hub.clock →
      ∃ u, exec (.tioInputEdge p (s.hub.pinActive p) quarter) s = .next u ∧ HubOnly s u ∧ u.hub.time.bases = s.hub.time.bases) ∧
    (∀ detail, (t, .event detail) ∈ s.hub.time.told → t < 4 →
      (s.hub.tellMeasured s.glob).pending (36 + t) = true ∧ (s.hub.tellMeasured s.glob).time.told = []) ∧
    (∀ q tag d x, Fetched s q tag 0x60 d → s.hub.serving .tim = true → d.op 16 1 = t → d.op 30 4 < 1000000000 → s.hub.saved t = some x →
      s.hub.flipAfter t (time48 (d.op 24 6) (d.op 30 4) (d.op 34 2)) = false →
      ∃ u, exec (.timeSet q tag) s = .next u ∧ (u.hub.base t).freq = x.freq ∧ (u.hub.base t).offset = x.offset ∧
        (u.hub.base t).jumps = x.jumps ∧ ∀ w, (t, w) ∉ u.hub.time.told) ∧
    ((s.hub.base t).state = .locked →
      ∃ u, exec (.sourceLoss t) s = .next u ∧ HubOnly s u ∧ u.hub.now48 t = s.hub.now48 t ∧ (u.hub.base t).state = .holdover ∧
        (u.hub.base t).freq = s.hub.holdoverFreq t ∧ ((s.hub.base t).rivals = [] → (u.hub.base t).slaveValid = false) ∧
        u.hub.pending (36 + t) = true) ∧
    (s.hub.qualityOf t ≠ (s.hub.base t).quality →
      BecomesRaising (.qualityChange t) s (s.hub.setBase t { s.hub.base t with quality := s.hub.qualityOf t }) (36 + t))

/-- R101, R103, R105: a sender that a slave-only instance has heard within four Announce intervals is selected as its master by its next Announce, and one
heard for the first time is not yet (the model's reading of IEEE 1588-2019, log entry 24); a one-step Sync of that master's port measures; a master port
sends Sync, its egress stamp in the Follow_Up, and Announce with the data set of the master that the base follows or of its own clock, and answers a delay request with its ingress stamp; a slave port keeps the egress stamp of its
delay request. R118: a message waits in Q7 while another is there, and a full Q7 refuses it. R115: nothing is received or sent where sub-port 0 carries no
frames. (The order of a data set's fields, and what an Announce says of a followed master, are PRESUMED, log entry 24.) -/
def Obligations.PtpSelectsAndMeasures : Prop :=
  (∀ (s : State) (n domain t phase : Nat) (l2 : Bool), s.hub.awake 3 = true → s.glob.safe = false → s.hub.netUp n 0 = true →
    (List.range 3).find? (fun t => s.hub.ptpServes t n domain l2) = some t →
    (∀ src ds, s.hub.f (Reg.TBt_PTP t) 6 5 = 0 → (s.hub.base t).master = none → (s.hub.base t).rivals = [] →
      ∃ u, exec (.ptpMessageReceive n domain l2 phase (.announce src ds)) s = .next u ∧ HubOnly s u ∧ RegsKeptBut [] s.hub u.hub ∧
        u.hub.base t = { s.hub.base t with
          rivals := [{ port := n, src := src, set := ds, heard := s.hub.clock, qual := false }], slaveValid := false }) ∧
    (∀ src ds before, s.hub.f (Reg.TBt_PTP t) 6 5 = 0 → (s.hub.base t).master = none → (s.hub.base t).rivals = [before] →
      before.port = n → before.src = src → s.hub.clock ≤ before.heard + 4 * s.hub.announceCycles t →
      ∃ u, exec (.ptpMessageReceive n domain l2 phase (.announce src ds)) s = .next u ∧ HubOnly s u ∧ u.hub.pending (36 + t) = true ∧
        u.hub.base t = { s.hub.base t with
          rivals := [{ port := n, src := src, set := ds, heard := s.hub.clock, qual := true }]
          master := some { port := n, src := src, set := ds, heard := s.hub.clock, qual := true }, slavePort := n
          slaveValid := true, masters := satInc 15 (s.hub.base t).masters, syncT2 := none, reqT3 := [] }) ∧
    (∀ seq t1 corr, s.hub.fifoLoses 4 = false → (s.hub.base t).slaveValid = true → (s.hub.base t).slavePort = n →
      (s.hub.base t).deferred = none → s.hub.saddle.role ≠ .standby → (s.hub.base t).state = .locked →
      (s.hub.base t).jumpedAt ≠ some s.hub.clock →
      ∃ u, exec (.ptpMessageReceive n domain l2 phase (.sync seq false t1 corr)) s = .next u ∧ HubOnly s u ∧
        u.hub.now48 t = s.hub.now48 t ∧
        (u.hub.base t).offset = offsetNs (ptpOffset t1 (s.hub.netIngress t n phase) corr (s.hub.pathDelay t n) (s.hub.netAsym n))) ∧
    (∀ seq, s.hub.fifoLoses 4 = false → s.hub.ptpPeer t = false → s.hub.ptpMaster t n = true →
      (s.hub.subPort n 0).q7 = [] → (s.hub.subPort n 0).sentAt ≠ some s.hub.clock →
      ∃ u, exec (.ptpMessageReceive n domain l2 phase (.delayReq seq)) s = .next u ∧ HubOnly s u ∧ u.hub.time = s.hub.time ∧
        Out.ptp n t .delayResp (s.hub.ptpL2 t) seq (s.hub.netIngress t n phase) ∈ u.hub.out)) ∧
  (∀ (s : State) (n t phase seq : Nat), s.glob.safe = false → s.hub.netUp n 0 = true → t < 3 → s.hub.f (Reg.TBt_CTL t) 1 0 = 1 →
    s.hub.bit (Reg.TBt_PTP t) n = true → s.hub.fifoLoses 4 = false →
    ((s.hub.subPort n 0).q7 = [] → (s.hub.subPort n 0).sentAt ≠ some s.hub.clock → s.hub.ptpMaster t n = true →
      (∃ u, exec (.ptpMessageSend t n seq phase .sync) s = .next u ∧ HubOnly s u ∧ u.hub.time = s.hub.time ∧
        Out.ptp n t .sync (s.hub.ptpL2 t) seq (s.hub.netEgress t n phase) ∈ u.hub.out ∧
        (u.hub.subPort n 0).q7 =
          [{ t := t, m := .followUp, l2 := s.hub.ptpL2 t, seq := seq, stamp := s.hub.netEgress t n phase }]) ∧
      exec (.ptpMessageSend t n seq phase .announce) s =
        .next { s with hub := ((s.hub.drew 2).setSub n 0 { s.hub.subPort n 0 with sentAt := some s.hub.clock }).emit (
          .ptp n t (.announce (s.hub.announced t)) (s.hub.ptpL2 t) seq (s.hub.netEgress t n phase)) } ∧
      (∀ x, (s.hub.base t).master = some x → s.hub.announced t = x.set.take 6 ++ [x.set.getD 6 0 + 1]) ∧
      ((s.hub.base t).master = none → (s.hub.announced t).take 3 =
          [s.hub.f (Reg.TBt_PTP_DS t) 7 0, s.hub.f (Reg.TBt_PTP_DS t) 23 16, s.hub.f (Reg.TBt_PTP_DS t) 31 24] ∧
        (s.hub.announced t).getD 4 0 = s.hub.f (Reg.TBt_PTP_DS t) 15 8)) ∧
    ((s.hub.subPort n 0).q7 = [] → (s.hub.subPort n 0).sentAt ≠ some s.hub.clock → s.hub.ptpMaster t n = false → s.hub.ptpPeer t = false →
      ∃ u, exec (.ptpMessageSend t n seq phase .delayReq) s = .next u ∧ HubOnly s u ∧
        u.hub.base t = { s.hub.base t with reqT3 := Sparse.set none (s.hub.base t).reqT3 n (some (seq, s.hub.netEgress t n phase)) } ∧
        Out.ptp n t .delayReq (s.hub.ptpL2 t) seq (s.hub.netEgress t n phase) ∈ u.hub.out) ∧
    (s.hub.ptpMaster t n = true → (s.hub.subPort n 0).q7 ≠ [] → (s.hub.subPort n 0).q7.length < 64 →
      exec (.ptpMessageSend t n seq phase .sync) s =
        .next { s with hub := s.hub.setSub n 0 { s.hub.subPort n 0 with
          q7 := (s.hub.subPort n 0).q7 ++ [{ t := t, m := .sync, l2 := s.hub.ptpL2 t, seq := seq, stamp := 0 }] } }) ∧
    (∀ m, (s.hub.subPort n 0).q7.length = 64 → exec (.ptpMessageSend t n seq phase m) s =
      .next { s with hub := if m = .announce ∧ s.hub.ptpMaster t n = true then s.hub.drew 2 else s.hub })) ∧
  (∀ (s : State) (n : Nat) (w : Q7Frame) (ws : List Q7Frame), s.hub.netUp n 0 = true → (s.hub.subPort n 0).q7 = w :: ws →
    w.m = .followUp →
    ((s.hub.netSend s.glob n 0).subPort n 0).q7 = ws ∧ ((s.hub.netSend s.glob n 0).subPort n 0).txq = (s.hub.subPort n 0).txq ∧
      Out.ptp n w.t .followUp w.l2 w.seq w.stamp ∈ (s.hub.netSend s.glob n 0).out) ∧
  (∀ (s : State) (n : Nat), s.hub.netUp n 0 = false →
    (s.hub.awake 3 = true → ∀ domain l2 phase m, exec (.ptpMessageReceive n domain l2 phase m) s = .next s) ∧
    ∀ t seq phase m, exec (.ptpMessageSend t n seq phase m) s = .next s)

/-- R90, R109 to R111: a whole second of TB0 copies the four bases; a compare unit that reaches its time is FIRED, drives its pins and, if periodic,
takes its next multiple, and R433 raises the source of its base; a PPS output goes active at its second, its edge placed by the pin's delay correction to the nearest 0.25 ns, and every output goes
inactive WIDTH × 100 ns after it went active.
(That every compare unit raises source 36 + t is the model's reading of R433, log entry 20, and its DETAIL is left open; that an edge half-way between two steps is
placed at the later is its choice, log entry 24.) -/
def Obligations.TimedOutputsFollowTheirBase : Prop :=
  ∀ s : State,
    (∃ u, exec .ppsSnapshot s = .next u ∧ HubOnly s u ∧ RegsKeptBut [] s.hub u.hub ∧ u.hub.time.bases = s.hub.time.bases ∧
      ∀ t, t < 4 → Sparse.get 0 u.hub.time.snap t = s.hub.now48 t) ∧
    (∀ c n, (s.hub.cmp c).next = some n → s.hub.seqUnit c = false →
      ∃ u, exec (.compareFire c) s = .next u ∧ HubOnly s u ∧ RegsKeptBut pendRegs s.hub u.hub ∧
        u.hub.pending (36 + s.hub.f (Reg.TIM_CMPc_CTL c) 2 1) = true ∧
        u.hub.cmp c = { s.hub.cmp c with
          fired := true
          next := if s.hub.n (Reg.TIM_CMPc_PERIOD c) = 0 then none else some (n + s.hub.n (Reg.TIM_CMPc_PERIOD c) * 2 ^ 48) } ∧
        (∀ p ∈ s.hub.cmpPins c, (u.hub.pinState p).drive = some (s.hub.pinActive p) ∧ (u.hub.pinState p).active = true) ∧
        (∀ p, p ∉ s.hub.cmpPins c → u.hub.pinState p = s.hub.pinState p)) ∧
    (∀ p edge, s.hub.pinFunc p = 5 →
      edge = (addTime (s.hub.now48 (s.hub.pinTb p) / sec48 * sec48) (-(s.hub.s32 (Reg.TIO_PINp_DLY p) * 2 ^ 32)) + 2 ^ 45) / 2 ^ 46 * 2 ^ 46 →
      exec (.ppsOutput p) s = .next { s with hub := (s.hub.setPin p { s.hub.pinState p with
        drive := some (s.hub.pinActive p), active := true
        ends := edge + max 1 (s.hub.f (Reg.TIO_PINp_CFG p) 31 12) * 100 * 2 ^ 48 }).emit (.pin p (some (s.hub.pinActive p)) edge) }) ∧
    (∀ p, (s.hub.pinState p).active = true →
      exec (.tioPulseEnd p) s = .next { s with hub := (s.hub.setPin p { s.hub.pinState p with
        drive := some (!s.hub.pinActive p), active := false }).emit (.pin p (some (!s.hub.pinActive p)) (s.hub.pinState p).ends) })

/-! ## Ingest (spec/05_ingest.md) -/

/-- R116 to R119, R139: a frame that is too short, too long or fails its FCS is counted and discarded; one that the receive buffer of 256 KiB has no room
for counts an overrun; any other takes its bytes of the buffer, and the answer to ARP and ICMP echo enters Q6; links raise their events; a PAUSE holds Q0
to Q6 and never Q7, and its end releases them. That the FCS counts among a frame's bytes, and that a MAC control frame takes none, are the model's choice
(log entry 25). -/
def Obligations.NetPortsCountHoldAndReport : Prop :=
  ∀ (s : State) (n sub : Nat),
    (s.hub.awake 3 = true → s.hub.netUp n sub = true →
      (∀ frame ok, (frame.length < 64 ∨ 1522 < frame.length ∨ ok = false) →
        exec (.netFrameReceive n sub frame ok) s = .next { s with hub := s.hub.count (Reg.NETn_CNT_FCS n) 31 }) ∧
      (∀ frame, 64 ≤ frame.length → frame.length ≤ 1522 → beAt frame 12 2 = 0x8808 → exec (.netFrameReceive n sub frame true) s = .next s) ∧
      (∀ frame, 64 ≤ frame.length → frame.length ≤ 1522 → beAt frame 12 2 ≠ 0x8808 → 262144 < (s.hub.subPort n sub).rx + frame.length →
        Becomes (.netFrameReceive n sub frame true) s (s.hub.count (Reg.NETn_CNT_OVR n) 31)) ∧
      (∀ frame, 64 ≤ frame.length → frame.length ≤ 1522 → beAt frame 12 2 ≠ 0x8808 → (s.hub.subPort n sub).rx + frame.length ≤ 262144 →
        ∃ t, exec (.netFrameReceive n sub frame true) s = .next t ∧ HubOnly s t ∧ RegsKeptBut [] s.hub t.hub ∧ t.hub.out = s.hub.out ∧
          (t.hub.subPort n sub).rx = (s.hub.subPort n sub).rx + frame.length ∧
          (firmwareFrame frame = false → (t.hub.subPort n sub).txq = (s.hub.subPort n sub).txq) ∧
          (firmwareFrame frame = true → s.glob.safe = false → (s.hub.subPort n sub).firm = [] →
            (Sparse.get [] (s.hub.subPort n sub).txq 6).length < 64 →
            Sparse.get [] (t.hub.subPort n sub).txq 6 = Sparse.get [] (s.hub.subPort n sub).txq 6 ++ [.answer frame])) ∧
      (∀ c time, s.hub.bit (Reg.NETn_CTL n) 3 = true →
        ∃ t, exec (.pauseFrameReceive n sub false [(c, time)]) s = .next t ∧ HubOnly s t ∧ RegsKeptBut [Reg.NETn_CNT_PAUSE n] s.hub t.hub ∧
          (t.hub.subPort n sub).paused = decide (time ≠ 0) ∧ (t.hub.subPort n sub).txq = (s.hub.subPort n sub).txq ∧
          t.hub.netHeld n sub 7 = false ∧ (time ≠ 0 → ∀ q, q < 7 → t.hub.netHeld n sub q = true))) ∧
    (s.hub.hasSub n sub = true → (s.hub.subPort n sub).link = false → s.hub.serving (.net n) = true →
      BecomesRaising (.netLinkUp n sub) s (s.hub.setSub n sub { s.hub.subPort n sub with link := true }) (32 + n)) ∧
    (n < 4 → (s.hub.subPort n sub).link = true →
      BecomesRaising (.netLinkDown n sub) s (s.hub.setSub n sub { s.hub.subPort n sub with
        link := false, rx := 0, paused := false, classes := [], heldSaid := [] }) (32 + n)) ∧
    (∃ t, exec (.netPauseHoldEnd n sub none) s = .next t ∧ HubOnly s t ∧ RegsKeptBut [] s.hub t.hub ∧
      (t.hub.subPort n sub).paused = false ∧ (t.hub.subPort n sub).classes = (s.hub.subPort n sub).classes) ∧
    (∀ q, n < 4 → s.hub.netHeld n sub q = true → q ∉ (s.hub.subPort n sub).heldSaid →
      BecomesRaising (.netQueueHoldEvent n sub q) s
        (s.hub.setSub n sub { s.hub.subPort n sub with heldSaid := q :: (s.hub.subPort n sub).heldSaid }) (32 + n))

/-- R122, R123, R126, R128: a duplicate and a number behind the window are counted and discarded; a fresh packet of the frame in progress is accepted,
writing no byte outside the frame's slot; a complete frame counts and arms its pipes; and a silent path is down. -/
def Obligations.FlowsMergeAndComplete : Prop :=
  ∀ (s : State) (f : Nat) (p : FlowPkt) (freed : Nat), s.hub.flowReceives s.glob f 0 = true → (s.hub.flow f).upA = true →
    (s.hub.flow f).aborted = false →
    (s.hub.awake 3 = true → s.hub.flowFormatBad f p = false → (s.hub.flow f).judge (s.hub.flowWindow f) p.seq = .duplicate →
      exec (.flowPacket f 0 p freed [] []) s = .next { s with hub := (s.hub.setFlow f { s.hub.flow f with
        downA := false, stalled := false, cells := (s.hub.flow f).cells - freed }).count (Reg.ING_FSTf_DUP f) 31 }) ∧
    (s.hub.awake 3 = true → s.hub.flowFormatBad f p = false → (s.hub.flow f).judge (s.hub.flowWindow f) p.seq = .old →
      exec (.flowPacket f 0 p freed [] []) s = .next { s with hub := (s.hub.setFlow f { s.hub.flow f with
        downA := false, stalled := false, cells := (s.hub.flow f).cells - freed }).count (Reg.ING_FSTf_LATE f) 31 }) ∧
    (∀ fr, s.hub.awake 3 = true → s.hub.flowFormatBad f p = false → (s.hub.flow f).judge (s.hub.flowWindow f) p.seq = .fresh →
      (s.hub.flow f).frame = some fr → fr.rtp = p.rtp % 2 ^ 32 → fr.rtp ∉ (s.hub.flow f).ended → fr.count < s.hub.flowPkts f →
      p.marker = false → (s.hub.flow f).cells - freed + pktCells p.payload ≤ s.hub.flowCells f →
      s.hub.flowWidth f * fmtBytes (s.hub.flowFmt f) ≤ s.hub.f (Reg.ING_FLOWf_PITCH f) 17 0 →
      ∃ t, exec (.flowPacket f 0 p freed [] []) s = .next t ∧ t.glob = s.glob ∧ t.pending = s.pending ∧
        (t.hub.flow f).frame = some ({ fr with count := fr.count + 1, cells := fr.cells + pktCells p.payload }.take p.rows) ∧ p.seq % 2 ^ 32 ∈ (t.hub.flow f).seen ∧
        (t.hub.flow f).cells = (s.hub.flow f).cells - freed + pktCells p.payload ∧
        RegsKeptBut (violationRegs ++ pendRegs) s.hub t.hub ∧
        DramKeptBut (s.hub.flowRing f + fr.slot * s.hub.flowSlot f) (s.hub.flowSlot f) s.mem t.mem) ∧
    (∀ fr rest, (s.hub.flow f).done = fr :: rest → fr.rtp < 2 ^ 32 → (s.hub.frameArms f fr).1 = [] →
      ∃ t, exec (.flowFrameComplete f) s = .next t ∧ HubOnly s t ∧ (t.hub.flow f).done = rest ∧
        (t.hub.flow f).cells = min (s.hub.flow f).cells (((s.hub.flow f).frame.toList ++ rest).map FlowFrame.cells).sum ∧
        t.hub.n (Reg.ING_FSTf_RTP f) = fr.rtp ∧
        t.hub.f (Reg.ING_FSTf_DONE f) 30 0 = satInc 31 (s.hub.f (Reg.ING_FSTf_DONE f) 30 0) ∧
        RegsKeptBut [Reg.ING_FSTf_RTP f, Reg.ING_FSTf_DONE f] s.hub t.hub) ∧
    (∀ fr rest i, (s.hub.flow f).done = fr :: rest → fr.under = none → s.hub.flowAuto f = true → i ∈ s.hub.flowPipes f → s.hub.reachable (.scn i) = true → s.hub.pipeOn i = true →
      s.hub.groupOn (s.hub.pipeGroup i) = true → s.hub.bufOk i (s.hub.flowRing f + fr.slot * s.hub.flowSlot f) = true →
      ((s.hub.pipe i).pend = none ∨ (s.hub.pipe i).pendAt.1 ≠ s.hub.clock) →
      ∃ t, exec (.flowFrameComplete f) s = .next t ∧ HubOnly s t ∧
        (t.hub.pipe i).pend = some { addr := s.hub.flowRing f + fr.slot * s.hub.flowSlot f, source := some (f, fr.rtp) }) ∧
    ((s.hub.flow f).downA = false →
      BecomesRaising (.flowPathTimeout f 0) s (s.hub.setFlow f { s.hub.flow f with
        upA := false, downA := true, stalled := !s.hub.flowDual f || (s.hub.flow f).downB }) 104)

/-- R132 to R137: the first source of a universe is tracked, its values are the merged ones and they are published to their place and nowhere else; an
old number is counted and changes nothing; a synchronisation packet, or its timeout, publishes every universe that waits; and a silent source
leaves. R149: a universe table that reads poisoned is a fault of ING. -/
def Obligations.SacnMergesAndPublishes : Prop :=
  ∀ (s : State) (n sub : Nat), s.hub.awake 3 = true → s.hub.sacnOn s.glob n sub = true →
    (s.hub.tableSpoilt s.mem tblUniverse = true → ∀ pkt,
      exec (.sacnPacket n sub pkt [] []) s = .next { s with hub := s.hub.blockFault s.glob .ing }) ∧
    (s.hub.sacnFull = true → ∀ pkt addr,
      (TableReadable s tblUniverse → exec (.sacnPacket n sub pkt [] []) s = .next { s with hub := s.hub.count Reg.ING_SACN_OVR 31 }) ∧
        exec (.sacnSyncPacket n sub addr) s = .next { s with hub := s.hub.count Reg.ING_SACN_OVR 31 }) ∧
    (∀ cid number u prio seq values, TableReadable s tblUniverse → s.hub.univIndex number = some u → prio ≤ 200 → (s.hub.univ u).sources = [] → s.hub.sourcesUsed < 16384 →
      s.hub.sacnFull = false →
      ∃ t, exec (.sacnPacket n sub (.data cid number prio seq 0 0 false false values) [] []) s = .next t ∧ t.glob = s.glob ∧
        t.pending = s.pending ∧ t.hub.pending 105 = true ∧ (t.hub.univ u).merged = padTo 512 values ∧
        (t.hub.univ u).sources = [{ cid := cid, prio := prio, seq := seq % 256, values := padTo 512 values, last := s.hub.net.arrivals + 1 }] ∧
        t.mem = s.hub.writeDram s.mem s.hub.ingSecure (s.hub.addr36 Reg.FIX_AREA_LO Reg.FIX_AREA_HI 12 + 512 * u) (padTo 512 values) false ∧
        DramKeptBut (s.hub.addr36 Reg.FIX_AREA_LO Reg.FIX_AREA_HI 12 + 512 * u) 512 s.mem t.mem) ∧
    (∀ cid number u prio seq sync term values src, TableReadable s tblUniverse → s.hub.univIndex number = some u → prio ≤ 200 →
      (s.hub.univ u).sources.find? (fun x => x.cid == cid) = some src → sacnOld src.seq seq = true →
      s.hub.sacnFull = false →
      exec (.sacnPacket n sub (.data cid number prio seq 0 sync false term values) [] []) s =
        .next { s with hub := s.hub.sacnEnter.count Reg.ING_SACN_SEQ 31 }) ∧
    (TableReadable s tblUniverse → s.hub.sacnFull = false → exec (.sacnPacket n sub .discovery [] []) s = .next { s with hub := s.hub.sacnEnter.count Reg.ING_SACN_IGN 31 }) ∧
    (∀ addr, s.hub.sacnFull = false →
      ∃ t, exec (.sacnSyncPacket n sub addr) s = .next t ∧ t.glob = s.glob ∧ t.pending = s.pending ∧
      t.hub.f Reg.ING_SACN_ACC 30 0 = satInc 31 (s.hub.f Reg.ING_SACN_ACC 30 0) ∧
      RegsKeptBut ([Reg.ING_SACN_ACC] ++ violationRegs ++ pendRegs) s.hub t.hub ∧
      (∀ u, addr ∉ (t.hub.univ u).waiting) ∧ (∀ u, (t.hub.univ u).merged = (s.hub.univ u).merged)) ∧
    (∀ addr u, s.hub.waitingOn addr = [u] →
      ∃ t, exec (.sacnSyncTimeout addr) s = .next t ∧ t.glob = s.glob ∧ t.pending = s.pending ∧
        RegsKeptBut (violationRegs ++ pendRegs) s.hub t.hub ∧
        t.hub.pending 105 = true ∧ addr ∉ (t.hub.univ u).waiting ∧
        t.mem = s.hub.writeDram s.mem s.hub.ingSecure (s.hub.addr36 Reg.FIX_AREA_LO Reg.FIX_AREA_HI 12 + 512 * u)
          (padTo 512 (s.hub.univ u).merged) false) ∧
    (∀ u cid, (s.hub.univ u).sources.any (fun x => x.cid == cid) = true →
      BecomesRaising (.sacnSourceTimeout u cid) s (s.hub.setUniv u { s.hub.univ u with
        sources := (s.hub.univ u).sources.filter (fun x => x.cid != cid) }) 105)

/-! ## Memory (spec/06_memory.md) -/

/-- R145, R146, R151 to R154, R161: a scrubber that finds a double error in a line counts it, raises event 0x03 of its source and takes a snapshot of
the line's address, and writes no byte; a corrected line counts once; an uncorrectable DRAM block is counted, its place stored and its POISON set,
and is not counted again. R431: engine local memories are not swept in D3, and DRAM is not patrolled in D2 or D3. A command whose reads of DRAM, or of the
hub's own banks of shared SRAM, meet errors does what it does on the state that those reads leave; that of a pending set is not among them, for what it clears is
clear before its reads count anything (R6, R10). -/
def Obligations.ScrubbersFindCountAndPoison : Prop :=
  (∀ (s : State) (q tag n k e f : Nat) (data : List Byte) (b : Bool) (p : FlowPkt) (l : List (Nat × LineErr)) (bad : List BadRead)
      (ans : List Byte) (act : PartnerAct) (tx : OdlTx) (c : CopyData) (m : MirrorFrame) (sp : SacnPkt)
      (errs : List (Nat × ReadError)),
    (s.hub.commit.phase ≠ .pending → s.hub.saddle.notice = none →
      ReadsFirst s .commitApply ∧ ReadsFirst s (fun errs => .frameBoundary n errs act)) ∧ ReadsFirst s (.framePost q tag data) ∧ ReadsFirst s (.calLoad q tag data) ∧ ReadsFirst s (.calRead q tag) ∧
      ReadsFirst s (.calMeasure q tag data) ∧ ReadsFirst s (.abortEngine q tag b) ∧ ReadsFirst s (.blockResetDone n k e) ∧
      ReadsFirst s (.dmaReadTimeout q tag data) ∧ ReadsFirst s (.dmaTransferDone q tag) ∧
      (s.hub.awake 3 = true →
        ReadsFirst s (fun errs => .flowPacket f n p k errs []) ∧ ReadsFirst s (fun errs => .sacnPacket n k sp errs []) ∧
        exec (.flowPacket f n p k [] l) s = exec (.flowPacket f n p k [] []) (s.ownLines .ing 8 4 l) ∧
        exec (.sacnPacket n k sp [] l) s = exec (.sacnPacket n k sp [] []) (s.ownLines .ing 12 4 l)) ∧
      exec (.talusExpiry l) s = exec (.talusExpiry []) (s.ownLines .col 18 1 l) ∧
      exec (.commitCheckDone errs l) s = exec (.commitCheckDone [] []) ((s.ownLines .cmt 18 1 l).reads errs) ∧
      ReadsFirst s (fun errs => .virtualLine n bad errs) ∧
      ReadsFirst s (.calCopyDone n) ∧ ReadsFirst s (.statInitDone n) ∧ ReadsFirst s .statSample ∧ ReadsFirst s (.statFold n) ∧
      ReadsFirst s .msrStep ∧ ReadsFirst s (.enumWaitEnd n) ∧ ReadsFirst s (.fixHeldRelease n) ∧ ReadsFirst s (.downlinkRound n k tx) ∧
      (s.hub.awake 4 = true → ReadsFirst s (.identityAnswer n k e ans)) ∧
      (s.hub.awake 5 = true → ReadsFirst s (.stateCopy c b) ∧ ReadsFirst s (.mirroredFrame n m))) ∧
  ∀ s : State, s.hub.serving .scrubber = true →
    (∀ line c err, LineMem.has .sram line = true → c ∈ err.broken → err.missed = [] → s.hub.cairn.snapQ.length < 60 →
      ∃ t, exec (.sramScrub .sram line err) s = .next t ∧ t.glob = s.glob ∧ t.pending = s.pending ∧
        t.mem = { s.mem with sramBad := t.mem.sramBad } ∧ t.mem.lineBroken .sram line = true ∧ t.hub.pending 44 = true ∧
        t.hub.f Reg.SRAM_UE 23 0 = satInc 24 (s.hub.f Reg.SRAM_UE 23 0) ∧ RegsKeptBut (Reg.SRAM_UE :: pendRegs) s.hub t.hub ∧
        ∃ x ∈ t.hub.cairn.snapQ, x.unit = 0x71 ∧ x.trigger = 2 ∧ x.aux = 0x40000000 + 32 * line + 255 * 2 ^ 40) ∧
    (∀ w e line c err, s.hub.power.state ≠ 3 → (w = .imem e ∨ w = .dmem e) → LineMem.has w line = true → c ∈ err.broken → err.missed = [] →
      s.hub.cairn.snapQ.length < 60 →
      ∃ t, exec (.sramScrub w line err) s = .next t ∧ t.glob = s.glob ∧ t.pending = s.pending ∧
        t.mem.dram = s.mem.dram ∧ t.mem.imem = s.mem.imem ∧ t.mem.dmem = s.mem.dmem ∧ t.mem.lineBroken w line = true ∧
        t.hub.pending 45 = true ∧ t.hub.f Reg.LCL_UE 23 0 = satInc 24 (s.hub.f Reg.LCL_UE 23 0) ∧
        RegsKeptBut (Reg.LCL_UE :: pendRegs) s.hub t.hub ∧ ∃ x ∈ t.hub.cairn.snapQ, x.trigger = 2 ∧ x.aux = w.address line) ∧
    (∀ line err, LineMem.has .sram line = true → s.mem.lineBroken .sram line = false → s.hub.cairn.fresh = [] → err.broken = [] → err.missed = [] → err.fixed = true →
      Becomes (.sramScrub .sram line err) s
        (s.hub.wrN (Reg.SRAM_CNT_CEb (32 * line / 0x200000)) (satInc 32 (s.hub.n (Reg.SRAM_CNT_CEb (32 * line / 0x200000)))))) ∧
    (∀ block err, s.hub.power.state < 2 → s.hub.bit Reg.MEM_SCRUB 0 = true → (s.mem.tagAt (64 * block)).poison = false → s.hub.inDram (64 * block) 64 = true →
      err.decode = .uncorrectable →
      ∃ t, exec (.dramPatrolScrub block (some err)) s = .next t ∧ t.glob = s.glob ∧ t.pending = s.pending ∧
        t.mem = { s.mem with tags := t.mem.tags } ∧ (t.mem.tagAt (64 * block)).poison = true ∧
        t.hub.n (Reg.MEMc_CNT_UE (channelOf block)) = satInc 32 (s.hub.n (Reg.MEMc_CNT_UE (channelOf block))) ∧
        t.hub.n (Reg.MEMc_UE_ADDR_LO (channelOf block)) = 64 * block % 2 ^ 32 ∧ t.hub.pending (42 + channelOf block) = true) ∧
    (∀ w line err, s.hub.power.state = 3 → w ≠ .sram → exec (.sramScrub w line err) s = .next s) ∧
    (∀ block err, 2 ≤ s.hub.power.state ∨ (s.mem.tagAt (64 * block)).poison = true → exec (.dramPatrolScrub block err) s = .next s)

/-! ## Scan-out (spec/07_scanout.md) -/

/-- R179 to R183: an arm that lands before APPLY_LINE shows in the next frame, one that lands from there on in the frame after it; it supersedes a
pending one; an arm that breaks R182 has no effect; an arm to a disabled pipe is in force at once; and the pending arm takes effect at APPLY_LINE.
R184: a FRAME_POST is INVALID for a range it may not take and BUSY over a buffer in force or pending; an accepted one writes its bytes to its
range and nowhere else, the last of them when the transfer is done, and then completes OK. -/
def Obligations.BuffersArriveAndArm : Prop :=
  (∀ (s : State) (p : Nat), p < 32 →
      (∀ q tag d, Fetched s q tag 0x11 d → d.op 16 1 = p → s.hub.bufOk p (d.op 24 8) = true → s.hub.domainOn 7 = true →
        s.hub.serving (.scn p) = true → s.hub.pipeOn p = true → s.hub.groupOn (s.hub.pipeGroup p) = true →
        (s.hub.group (s.hub.pipeGroup p)).phase = .running → ((s.hub.pipe p).pend = none ∨ (s.hub.pipe p).pendAt.1 ≠ s.hub.clock) →
        (s.hub.applyBegun (s.hub.pipeGroup p) = true → (s.hub.pipe p).pend = none) →
        ∃ t n, exec (.frameArm q tag) s = .next t ∧ HubOnly s t ∧ RegsKeptBut pendRegs s.hub t.hub ∧
          n = ((s.hub.group (s.hub.pipeGroup p)).frame + (if s.hub.applyBegun (s.hub.pipeGroup p) then 2 else 1)) % 2 ^ 32 ∧
          t.hub.pipe p = { s.hub.pipe p with
            pend := some { addr := d.op 24 8 }, pendAt := (s.hub.clock, 0), moved := false, armFrame := n
            armsIn := [0], hadOld := (s.hub.pipe p).pend.isSome
            superseded := if (s.hub.pipe p).pend.isSome then satInc 16 (s.hub.pipe p).superseded else (s.hub.pipe p).superseded } ∧
          Answered q tag Status.ok (leBytes 4 n ++ leBytes 1 (b2n (s.hub.pipe p).pend.isSome)) s.hub t.hub) ∧
      (∀ q tag d, Fetched s q tag 0x11 d → d.op 16 1 = p → s.hub.bufOk p (d.op 24 8) = true → s.hub.domainOn 7 = true →
        s.hub.serving (.scn p) = true → s.hub.pipeOn p = false →
        ∃ t, exec (.frameArm q tag) s = .next t ∧ HubOnly s t ∧ (t.hub.pipe p).cur = d.op 24 8 ∧
          Answered q tag Status.ok (leBytes 4 (2 ^ 32 - 1) ++ leBytes 1 0) s.hub t.hub) ∧
      (∀ q tag d, Fetched s q tag 0x11 d → d.op 16 1 = p → s.hub.bufOk p (d.op 24 8) = false →
        BecomesAnswering (.frameArm q tag) s s.hub q tag Status.invalid []) ∧
      (∀ q tag d, Fetched s q tag 0x11 d → d.op 16 1 = p → s.hub.bufOk p (d.op 24 8) = true → s.hub.domainOn 7 = false →
        BecomesAnswering (.frameArm q tag) s s.hub q tag Status.notPresent []) ∧
      (∀ who, s.hub.quietTo who = true → s.hub.allows s.glob who (Reg.SCNp_FB_ARM p) = true → s.hub.bufOk p (s.hub.shadow p) = true → s.hub.pipeOn p = true →
        s.hub.groupOn (s.hub.pipeGroup p) = true → ((s.hub.pipe p).pend = none ∨ (s.hub.pipe p).pendAt.1 ≠ s.hub.clock) →
        ∃ t, exec (.fbArmGo who p) s = .next t ∧ HubOnly s t ∧ RegsKeptBut [] s.hub t.hub ∧
          (t.hub.pipe p).pend = some { addr := s.hub.shadow p } ∧ (∀ i, i ≠ p → t.hub.pipe i = s.hub.pipe i)) ∧
      (∀ who, s.hub.quietTo who = true → s.hub.allows s.glob who (Reg.SCNp_FB_ARM p) = true → s.hub.bufOk p (s.hub.shadow p) = false →
        BecomesRaising (.fbArmGo who p) s (s.hub.setPipe p { s.hub.pipe p with armErr := satInc 8 (s.hub.pipe p).armErr })
          (48 + s.hub.pipeGroup p)) ∧
      (∀ who, s.hub.quietTo who = true → s.hub.allows s.glob who (Reg.SCNp_FB_ARM p) = true →
        ∃ t, exec (.fbArmClr who p) s = .next t ∧ HubOnly s t ∧ t.hub.pipe p = { s.hub.pipe p with armErr := 0, superseded := 0 } ∧
          t.hub.n (Reg.SCNp_SUBST p) = 0 ∧ t.hub.n (Reg.SCNp_LATE p) = 0 ∧ t.hub.n (Reg.SCNp_FLAG_ERR p) = 0 ∧
          RegsKeptBut [Reg.SCNp_SUBST p, Reg.SCNp_LATE p, Reg.SCNp_FLAG_ERR p] s.hub t.hub) ∧
      (∀ pg a, s.hub.groupOn pg = true → (s.hub.group pg).phase = .running → (s.hub.group pg).applied = false →
        (s.hub.group pg).begun = true → s.hub.applyLineOf pg ≤ (s.hub.group pg).line → p ∈ s.hub.pipesOf pg → s.hub.originates p = true → (s.hub.pipe p).pend = some a →
        ∃ t, exec (.applyLine pg) s = .next t ∧ HubOnly s t ∧ RegsKeptBut pendRegs s.hub t.hub ∧ (t.hub.group pg).applied = true ∧
          (t.hub.pipe p).pend = none ∧ (t.hub.pipe p).next = some a ∧ (t.hub.pipe p).cur = (s.hub.pipe p).cur)) ∧
  (∀ (s : State) (q tag dst len : Nat) (d : Desc) (data : List Byte), d.op 24 8 = dst → d.op 32 4 = len →
      (Fetched s q tag 0x10 d → (dst % 64 ≠ 0 ∨ len % fmtBytes (d.op 36 1) ≠ 0 ∨ s.hub.inDram dst len = false) →
        BecomesAnswering (.framePost q tag data []) s s.hub q tag Status.invalid []) ∧
      (∀ p b, Fetched s q tag 0x10 d → dst % 64 = 0 → len % fmtBytes (d.op 36 1) = 0 → s.hub.inDram dst len = true → p < 32 →
        b ∈ s.hub.buffersOf p → overlaps dst len b (s.hub.bufSize p) = true →
        BecomesAnswering (.framePost q tag data []) s s.hub q tag Status.busy []) ∧
      (Fetched s q tag 0x10 d → dst % 64 = 0 → len % fmtBytes (d.op 36 1) = 0 → s.hub.inDram dst len = true → data.length = len →
        (∀ p b, p < 32 → b ∈ s.hub.buffersOf p → overlaps dst len b (s.hub.bufSize p) = false) →
        ∃ t k, exec (.framePost q tag data []) s = .next t ∧ t.glob = s.glob ∧ t.pending = s.pending ∧ k ≤ len ∧
          t.mem = s.hub.writeDram s.mem d.secure dst (data.take k) false ∧ DramKeptBut dst len s.mem t.mem ∧
          t.hub.desc q tag = some { d with
            phase := .moving, status := Status.ok, result := [], words := [dst + k], data := data.drop k } ∧ t.hub.scan = s.hub.scan) ∧
      (∀ k, s.hub.desc q tag = some d → d.opcode = 0x10 → d.phase = .moving → d.words = [dst + k] → k ≤ len → d.data.length = len - k →
        ∃ t, exec (.dmaTransferDone q tag []) s = .next t ∧ t.glob = s.glob ∧ t.pending = s.pending ∧
          t.mem = s.hub.writeDram s.mem d.secure (dst + k) d.data false ∧ DramKeptBut dst len s.mem t.mem ∧
          RegsKeptBut (violationRegs ++ pendRegs) s.hub t.hub ∧
          (s.hub.dramRefused s.mem d.secure true (dst + k) d.data.length = none → Reports s.hub t.hub) ∧ Answered q tag Status.ok [] s.hub t.hub))

/-- R163 to R166, R168: a running group begins its next frame at the end of the one before, with the next number; its pipes take the buffers that took
effect; each line of the raster is processed once; and in blanking a port sends the FLIP of the frame with its presentation time, before which goes the TIME that a step of its base has made due (R89). (That a set
which waits for the frame applies first is PendingSetTakesEffectWhole.) -/
def Obligations.FramesBeginOnTheGrid : Prop :=
  ∀ (s : State) (pg : Nat), s.glob.safe = false → s.hub.groupOn pg = true → s.hub.saddle.role = .unpaired → s.hub.saddle.reqs = [] →
    (∀ act, s.hub.commit.phase ≠ .pending → (s.hub.group pg).phase = .running → (s.hub.group pg).stepped = false → (s.hub.group pg).first = false →
      s.hub.f (Reg.PGg_CTL pg) 15 8 = 0 → s.hub.serving .pg = true →
      ∃ t, exec (.frameBoundary pg [] act) s = .next t ∧ HubOnly s t ∧ (t.hub.group pg).phase = .running ∧
        (t.hub.group pg).frame = ((s.hub.group pg).frame + 1) % 2 ^ 32 ∧ (t.hub.group pg).start = (s.hub.group pg).next ∧
        (t.hub.group pg).next = (s.hub.group pg).next + s.hub.period48 pg ∧ (t.hub.group pg).line = 0 ∧
        (t.hub.group pg).applied = false ∧ (t.hub.group pg).epoch = s.hub.commit.epoch ∧
        (∀ p a, p ∈ s.hub.pipesOf pg → s.hub.serving (.scn p) = true → (s.hub.pipe p).next = some a →
          (t.hub.pipe p).cur = a.addr ∧ (t.hub.pipe p).next = none)) ∧
    (∀ p, (s.hub.group pg).phase = .running → (s.hub.group pg).begun = true → (s.hub.group pg).line + 1 < s.hub.activeLines pg →
      (s.hub.group pg).line + 1 < s.hub.vTotal pg → p ∈ s.hub.pipesOf pg → s.hub.scans s.glob p = true → s.hub.bit Reg.PMU_CTL 0 = false →
      ∃ t, exec (.virtualLine pg [] []) s = .next t ∧ HubOnly s t ∧ (t.hub.group pg).line = (s.hub.group pg).line + 1 ∧
        (t.hub.group pg).frame = (s.hub.group pg).frame ∧
        Sparse.get 0 t.hub.pmu (Reg.PMU_SCNp_PX_EXAM_LO p) = satAdd 48 (Sparse.get 0 s.hub.pmu (Reg.PMU_SCNp_PX_EXAM_LO p))
          (rmPixels (s.hub.regionMap p) ((s.hub.group pg).line + 1)).length) ∧
    (∀ bad, s.hub.vTotal pg ≤ (s.hub.group pg).line + 1 → (s.hub.group pg).begun = true →
      exec (.virtualLine pg bad []) s = .next s) ∧
    (∀ p, s.hub.scans s.glob p = true → s.hub.pipeGroup p = pg → (s.hub.group pg).phase = .running →
      s.hub.activeLines pg ≤ (s.hub.group pg).line → (s.hub.pipe p).flipped = false → s.hub.chainKind p = 0 → s.hub.ends p = [p] →
      s.hub.laneFree s.glob p = true → (s.hub.port p).measured = true → (s.hub.port p).pix = [] → (s.hub.port p).q0 = [] →
      ∃ t, exec (.flipSend p) s = .next t ∧ HubOnly s t ∧ (t.hub.pipe p).flipped = true ∧
        (t.hub.group pg).lastFlip = some (s.hub.group pg).next ∧
        ((s.hub.port p).timeDue = false → (t.hub.port p).q0 = [] ∧
          Out.naush p { type := 1, addr := 255, queue := 0, seq := (s.hub.group pg).frame, flags := 0, epoch := s.hub.commit.epoch
                        payload := s.hub.flipPayload pg p } ∈ t.hub.out) ∧
        ((s.hub.port p).timeDue = true → (t.hub.port p).timeDue = false ∧
          (t.hub.port p).q0 = [s.hub.q0Frame s.glob p 1 255 (s.hub.group pg).frame (s.hub.flipPayload pg p)] ∧
          ∃ f, Out.naush p f ∈ t.hub.out ∧ f.type = 0 ∧ f.payload = s.hub.timePayload p))


/-! ## Calibration (spec/08_calibration.md) -/

/-- R198, R201, R202, R207: a CAL_LOAD is INVALID, BUSY or NOT_PRESENT as R201 says, else it writes within the target bank of its pipe alone, and at
its end the pipe is LOADED; CAL_READ returns the entries of the target bank; and the end of the copy leaves the banks equal. R210 to R214: a
CAL_MEASURE whose sequence passes waits for its first sub-field under the next run number; each step starts once; the run completes OK with no
miss and TIMEOUT with one, and STOP ends it ABORTED.
(The order of the statuses of CAL_LOAD and CAL_MEASURE, where a load that a page refuses stops, and that a run ends at a commit, are the model's, log entry 30; that a
block that has faulted or is isolated ends its work ABORTED is, log entry 20; what an entry that was never loaded returns is left open, log entry 3.) -/
def Obligations.CalibrationIsStoredAndMeasured : Prop :=
  (∀ (s : State) (q tag p : Nat) (d : Desc), d.calPipeOp = p → p < 32 →
      (∀ data, Fetched s q tag 0x30 d → s.hub.calRangeBad d = true → BecomesAnswering (.calLoad q tag data []) s s.hub q tag Status.invalid []) ∧
      (∀ data, Fetched s q tag 0x30 d → s.hub.calRangeBad d = false →
        ((s.hub.calPipe p).phase = .slewing ∨ (s.hub.calPipe p).phase = .copying ∨ (s.hub.calPipe p).phase = .fold ∨
          s.hub.applyInFlight p = true) → BecomesAnswering (.calLoad q tag data []) s s.hub q tag Status.busy []) ∧
      (∀ data, Fetched s q tag 0x30 d → s.hub.calRangeBad d = false → (s.hub.calPipe p).phase = .idle → s.hub.applyInFlight p = false →
        s.hub.statOn p = false → s.hub.domainOn 7 = false → BecomesAnswering (.calLoad q tag data []) s s.hub q tag Status.notPresent []) ∧
      (∀ data, Fetched s q tag 0x30 d → s.hub.calRangeBad d = false → (s.hub.calPipe p).phase = .idle → s.hub.applyInFlight p = false →
        s.hub.statOn p = false → s.hub.domainOn 7 = true → s.hub.serving .cal = true →
        ∃ t, exec (.calLoad q tag data []) s = .next t ∧ t.glob = s.glob ∧ t.pending = s.pending ∧
          (t.hub.calPipe p).loads = (s.hub.calPipe p).loads ++ [(q, tag)] ∧ (t.hub.calPipe p).gTarget = (s.hub.calPipe p).gTarget ∧
          (∃ d', t.hub.desc q tag = some d' ∧ d'.phase = .moving) ∧
          DramKeptBut (s.hub.bankBase p (1 - (s.hub.calPipe p).bank)) (s.hub.calSlots p * 557056) s.mem t.mem) ∧
      (s.hub.desc q tag = some d → d.opcode = 0x30 → d.phase = .moving → s.hub.calRangeBad d = false → (s.hub.calPipe p).phase = .idle →
        s.hub.statOn p = false → d.words.headD 0 ≤ d.calCount →
        ∃ t, exec (.dmaTransferDone q tag []) s = .next t ∧ t.glob = s.glob ∧ t.pending = s.pending ∧ (t.hub.calPipe p).phase = .loaded ∧
          (t.hub.calPipe p).loads = (s.hub.calPipe p).loads.filter (· != (q, tag)) ∧ Answered q tag Status.ok [] s.hub t.hub ∧
          DramKeptBut (s.hub.bankBase p (1 - (s.hub.calPipe p).bank)) (s.hub.calSlots p * 557056) s.mem t.mem) ∧
      (Fetched s q tag 0x31 d → s.hub.calRangeBad d = false → s.hub.domainOn 7 = true → s.hub.serving .cal = true →
        (s.hub.calEntries s.mem d).2 = [] →
        ∃ t, exec (.calRead q tag []) s = .next t ∧ HubOnly s t ∧ t.hub.cal = s.hub.cal ∧
          RegsKeptBut (violationRegs ++ pendRegs) s.hub t.hub ∧
          t.hub.desc q tag = some { d with
            phase := .moving, status := Status.ok, result := leBytes 4 0, words := [d.op 32 8], data := (s.hub.calEntries s.mem d).1 }) ∧
      ((s.hub.calPipe p).phase = .copying → (s.hub.calPipe p).bank ≤ 1 →
        ∃ t, exec (.calCopyDone p []) s = .next t ∧ t.glob = s.glob ∧ t.pending = s.pending ∧ RegsKeptBut [] s.hub t.hub ∧
          t.hub.calPipe p = { s.hub.calPipe p with
            phase := .idle, dg := 0, dm := 0, gTarget := (s.hub.calPipe p).gForce, mTarget := (s.hub.calPipe p).mForce } ∧
          (∀ i, i < s.hub.calSlots p * 557056 → t.mem.dramByte (s.hub.bankBase p (1 - (s.hub.calPipe p).bank) + i) =
            s.mem.dramByte (s.hub.bankBase p (s.hub.calPipe p).bank + i)) ∧
          DramKeptBut (s.hub.bankBase p (1 - (s.hub.calPipe p).bank)) (s.hub.calSlots p * 557056) s.mem t.mem)) ∧
  ((∀ (s : State) (q tag : Nat) (d : Desc) (b : List Byte), Fetched s q tag 0x32 d → d.op 24 4 = b.length → sqHeaderOk b = true →
      s.hub.groupOn (sqPg b) = true → s.hub.bit Reg.CAL_CTL 2 = true →
      (∀ k, k < sqSteps b → sqStepOk (sqStep b k) = true ∧ s.hub.stepAllowed b (sqStep b k) = true ∧
        ∀ n ∈ stPorts (sqStep b k), s.hub.originates n = true ∧ s.hub.blockOn (.nsh n) = true ∧ (s.hub.port n).phase.carries = true) →
      bitOf (byteAt b 5) 0 = false →
      s.hub.groupNow (sqPg b) + 2000000 * 2 ^ 48 ≤ s.hub.subField (sqPg b) (sqStart b) (sqWin b) → s.hub.cal.msr.phase = .idle →
      s.hub.serving .cal = true →
      ∃ t, exec (.calMeasure q tag b []) s = .next t ∧ HubOnly s t ∧ t.hub.cal.msr.phase = .waiting ∧ t.hub.cal.msr.owner = some (q, tag) ∧
        t.hub.cal.msr.f0 = sqStart b ∧ t.hub.cal.msr.started = 0 ∧ t.hub.cal.msr.missed = 0 ∧
        t.hub.cal.msr.run = (if s.hub.cal.msr.run + 1 < 2 ^ 32 then s.hub.cal.msr.run + 1 else 1)) ∧
    (∀ (s : State) (q tag : Nat) (d : Desc) (b : List Byte), Fetched s q tag 0x32 d → d.op 24 4 = b.length → sqHeaderOk b = false →
      BecomesAnswering (.calMeasure q tag b []) s s.hub q tag Status.invalid []) ∧
    (∀ s : State, s.hub.cal.msr.phase ≠ .idle → s.hub.cal.msr.started < sqSteps s.hub.cal.msr.seq → s.hub.serving .cal = true →
      ∃ t, exec (.msrStep []) s = .next t ∧ HubOnly s t ∧ t.hub.cal.msr.phase = .running ∧
        t.hub.cal.msr.started = s.hub.cal.msr.started + 1 ∧ t.hub.cal.msr.run = s.hub.cal.msr.run ∧
        t.hub.cal.msr.missed = satAdd 16 s.hub.cal.msr.missed s.hub.cal.msr.due.length ∧
        (∀ p, p ∈ stPins (sqStep s.hub.cal.msr.seq s.hub.cal.msr.started) → s.hub.pinFunc p = 3 →
          (t.hub.cmp (s.hub.pinCmp p)).next =
            some (s.hub.subField s.hub.cal.msr.pg
              ((s.hub.cal.msr.f0 + s.hub.cal.msr.started * sqStride s.hub.cal.msr.seq) % 2 ^ 32) (sqWin s.hub.cal.msr.seq) +
              stTrig (sqStep s.hub.cal.msr.seq s.hub.cal.msr.started) * 2 ^ 48))) ∧
    (∀ (s : State) (q tag : Nat), s.hub.cal.msr.phase = .running → s.hub.cal.msr.started = sqSteps s.hub.cal.msr.seq →
      s.hub.cal.msr.owner = some (q, tag) → (s.hub.desc q tag).isSome = true →
      ∃ t, exec .msrRunEnd s = .next t ∧ HubOnly s t ∧ t.hub.cal.msr.phase = .idle ∧ RegsKeptBut pendRegs s.hub t.hub ∧
        Answered q tag (if s.hub.cal.msr.missed = 0 then Status.ok else Status.timeout) (leBytes 4 s.hub.cal.msr.run) s.hub t.hub) ∧
    (∀ (s : State) (who : Requester) (q tag : Nat), s.hub.quietTo who = true → s.hub.allows s.glob who Reg.CAL_MSR_CTL = true → s.hub.cal.msr.phase ≠ .idle →
      s.hub.cal.msr.owner = some (q, tag) → (s.hub.desc q tag).isSome = true →
      ∃ t, exec (.msrStop who) s = .next t ∧ HubOnly s t ∧ t.hub.cal.msr.phase = .idle ∧
        Answered q tag Status.aborted (leBytes 4 s.hub.cal.msr.run) s.hub t.hub))

/-- R215 to R218: the estimator makes a covered pipe ready once its records are initialised; when a sample is due it samples the next covered pipe in ascending
order and remembers it; and it folds a pipe only when its fold is due and the pipe is IDLE, leaving it IDLE, or LOADED with a SLEW transition to come at a boundary
60 µs later or by a load that ended meanwhile. R149: where what it reads is poisoned, CAL reports a fault, and no more of this follows. (When the first sample and
round are due, and in which order a round takes its pipes, are the model's choices, log entry 30; so is it that a fold sets no VALID bit and that a load which
ends during a fold leaves the pipe LOADED.) -/
def Obligations.EstimatorSamplesInTurn : Prop :=
  ∀ s : State, s.glob.safe = false → s.hub.serving .cal = true →
    (∀ p, (s.hub.calPipe p).statInit = true → s.hub.statOn p = true →
      ∃ t, exec (.statInitDone p []) s = .next t ∧ t.glob = s.glob ∧ t.pending = s.pending ∧ RegsKeptBut (violationRegs ++ pendRegs) s.hub t.hub ∧
        (t.hub.serving .cal = true → t.hub.calPipe p = { s.hub.calPipe p with statInit := false, statReady := true, sampled := none }) ∧
        (t.hub.serving .cal = false → t.hub.calPipe p = s.hub.calPipe p) ∧
        DramKeptBut (s.hub.statAddr p 0 0) (64 * 65536 * s.hub.calSlots p) s.mem t.mem) ∧
    (∀ p, s.hub.cal.statDue ≤ s.hub.clock → s.hub.nextSample = some p →
      ∃ t, exec (.statSample []) s = .next t ∧ t.glob = s.glob ∧ t.pending = s.pending ∧ RegsKeptBut (violationRegs ++ pendRegs) s.hub t.hub ∧
        t.hub.cal.last = p ∧ (t.hub.calPipe p).sampled = some s.hub.clock ∧
        t.hub.cal.statDue = s.hub.cal.statDue + s.hub.f Reg.CAL_STAT_TIME 7 0 * 4000000 ∧ t.mem.sram = s.mem.sram ∧ t.mem.dmem = s.mem.dmem) ∧
    (s.hub.clock < s.hub.cal.statDue → exec (.statSample []) s = .next s) ∧
    (s.hub.nextSample = none → ∃ t, exec (.statSample []) s = .next t ∧ t = { s with hub := { s.hub with cal := { s.hub.cal with statDue := t.hub.cal.statDue } } }) ∧
    (∀ p, (s.hub.calPipe p).phase ≠ .fold → s.hub.foldMayStart p = true →
      ∃ t, exec (.statFold p []) s = .next t ∧ HubOnly s t ∧ RegsKeptBut [] s.hub t.hub ∧
        t.hub.calPipe p = { s.hub.calPipe p with phase := .fold, changed := false, loaded := false } ∧
        ((∀ k, k < 32 → s.hub.statOn k = true → k = p ∨ bitOf s.hub.cal.folded k = true) →
          t.hub.cal.folded = 0 ∧ t.hub.cal.foldDue = s.hub.cal.foldDue + s.hub.f Reg.CAL_STAT_TIME 31 16 * 400000000)) ∧
    (∀ p, s.hub.clock < s.hub.cal.foldDue → (s.hub.calPipe p).phase ≠ .fold → exec (.statFold p []) s = .next s) ∧
    (∀ p, (s.hub.calPipe p).phase ≠ .fold → (s.hub.calPipe p).phase ≠ .idle → exec (.statFold p []) s = .next s) ∧
    (∀ p, (s.hub.calPipe p).phase = .fold →
      ∃ t, exec (.statFold p []) s = .next t ∧ t.glob = s.glob ∧ t.pending = s.pending ∧
        (t.hub.serving .cal = true → (t.hub.calPipe p).phase = (if (s.hub.calPipe p).loaded then .loaded else .idle) ∨
          ((t.hub.calPipe p).phase = .loaded ∧ (t.hub.calPipe p).start = true ∧ (t.hub.calPipe p).slewOnly = true ∧
            (t.hub.calPipe p).foldAt = s.hub.presentNow (s.hub.pipeGroup p) + 60000 * 2 ^ 48)))

/-! ## Naush links (spec/09_naush_link.md) -/

/-- R190, R231, R232, R237, R238: training starts with TRAIN at RATE_MAX and every RESEND bit of the port set, steps down to RATE_MIN and then faults; a
port that comes up runs at the rate it trained at and enumerates; lock lost for at most 1 ms is counted, and for longer it is a link fault. In the safe
state, and while the port's block does not serve, the port's logic does none of this. -/
def Obligations.TrainingComesUpOrFaults : Prop :=
  ∀ (s : State) (n : Nat), n < 32 →
    (s.hub.awake 4 = true → (s.hub.port n).phase.carries = true → s.hub.serving (.nsh n) = true →
      exec (.blockLockLoss n) s = .next { s with hub := s.hub.count (Reg.NSHn_CNT_LOCK n) 31 }) ∧
    (s.hub.laneActs s.glob n = false →
      exec (.trainingStart n) s = .next s ∧ exec (.trainingAttemptTimeout n) s = .next s ∧ exec (.trainingWaitEnd n) s = .next s ∧
        exec (.nshLinkUp n) s = .next s ∧ (s.hub.awake 4 = true → exec (.lockLossTimeout n) s = .next s) ∧ exec (.shiftLockTimeout n) s = .next s) ∧
    (s.hub.laneActs s.glob n = true →
    ((s.hub.port n).phase = .training true →
      ∃ t, exec (.trainingStart n) s = .next t ∧ HubOnly s t ∧ RegsKeptBut [] s.hub t.hub ∧ (t.hub.port n).phase = .training false ∧
        (t.hub.port n).tryRate = s.hub.f (Reg.NSHn_CTL n) 2 1 ∧ Out.lane n (.train (s.hub.f (Reg.NSHn_CTL n) 2 1)) ∈ t.hub.out ∧
        (∀ e ∈ (t.hub.port (s.hub.near n)).tiles, e.2.resend = true) ∧
        (∀ k ∈ tmAll (s.hub.tileMap (s.hub.near n)), (t.hub.tile (s.hub.near n) k).resend = true)) ∧
    ((s.hub.port n).phase = .training false → (s.hub.port n).tryRate < s.hub.f (Reg.NSHn_CTL n) 4 3 →
      exec (.trainingAttemptTimeout n) s = .next { s with hub :=
        (s.hub.setPort n { s.hub.port n with tryRate := (s.hub.port n).tryRate + 1 }).emit (.lane n (.train ((s.hub.port n).tryRate + 1))) }) ∧
    ((s.hub.port n).phase = .training false → s.hub.f (Reg.NSHn_CTL n) 4 3 ≤ (s.hub.port n).tryRate →
      ∃ t, exec (.trainingAttemptTimeout n) s = .next t ∧ LinkFaulted n 4 s t) ∧
    ((s.hub.port n).phase = .wait →
      ∃ t, exec (.trainingWaitEnd n) s = .next t ∧ HubOnly s t ∧ (t.hub.port n).phase = .training true ∧
        (t.hub.port n).tryRate = s.hub.f (Reg.NSHn_CTL n) 2 1 ∧ RegsKeptBut [Reg.GLB_NSH_HINT] s.hub t.hub) ∧
    ((s.hub.port n).phase = .training false →
      ∃ t, exec (.nshLinkUp n) s = .next t ∧ HubOnly s t ∧ RegsKeptBut pendRegs s.hub t.hub ∧ (t.hub.port n).phase = .up ∧
        (t.hub.port n).rate = (s.hub.port n).tryRate ∧ t.hub.pending n = true ∧
        (s.hub.near n = n → s.hub.originates n = true →
          (t.hub.port n).enumTry = 1 ∧ (t.hub.port n).req = ((s.hub.port n).req + 1) % 2 ^ 32)) ∧
    (s.hub.awake 4 = true → (s.hub.port n).phase.carries = true → ∃ t, exec (.lockLossTimeout n) s = .next t ∧ LinkFaulted n 1 s t) ∧
    ((s.hub.port n).phase = .shifting → (s.hub.port n).shiftAt + cyclesPerMs ≤ s.hub.clock →
      ∃ t, exec (.shiftLockTimeout n) s = .next t ∧ LinkFaulted n 5 s t) ∧
    (∀ c, (s.hub.port n).followAt = some c → (s.hub.port n).phase = .up → c + cyclesPerMs ≤ s.hub.clock →
      ∃ t, exec (.shiftLockTimeout n) s = .next t ∧ LinkFaulted n 5 s t) ∧
    ((s.hub.port n).phase = .shifting → s.hub.clock < (s.hub.port n).shiftAt + cyclesPerMs →
      (∀ c, (s.hub.port n).followAt = some c → s.hub.clock < c + cyclesPerMs) → exec (.shiftLockTimeout n) s = .next s))

/-- R226, R230: a received frame that fails is discarded and counted alone; a PAUSE replaces its tile's record whole, never holds Q0, is counted, and
ends at its time; a queue held past HOLD_EVT raises event 0x06. -/
def Obligations.TilePauseHoldsQ1ToQ3 : Prop :=
  ∀ (s : State) (n k : Nat), n < 32 →
    (s.hub.awake 4 = true → (s.hub.port n).phase.carries = true → s.hub.serving (.nsh n) = true →
      exec (.nshFrameReject n .crc) s = .next { s with hub := s.hub.count (Reg.NSHn_CNT_CRC n) 31 } ∧
      exec (.nshFrameReject n .format) s = .next { s with hub := s.hub.count (Reg.NSHn_CNT_FMT n) 31 } ∧
      exec (.nshFrameReject n .bufferFull) s = .next { s with hub := s.hub.count (Reg.NSHn_CNT_RXOVR n) 31 } ∧
      (s.hub.chainKind n ≠ 1 → exec (.nshFrameReject n .farEnd) s = .next { s with hub := s.hub.count (Reg.NSHn_CNT_FAR n) 31 })) ∧
    (∀ mask time, s.hub.awake 4 = true → (s.hub.port n).phase.carries = true → s.hub.serving (.nsh n) = true → (127 < k ∨ 15 < mask) →
      exec (.tilePause n k mask time) s = .next { s with hub := s.hub.count (Reg.NSHn_CNT_FMT n) 31 }) ∧
    (∀ mask time, s.hub.awake 4 = true → (s.hub.port n).phase.carries = true → s.hub.serving (.nsh n) = true → k < 128 → mask < 16 →
      ∃ t, exec (.tilePause n k mask time) s = .next t ∧ HubOnly s t ∧
        Sparse.get (0, 0) (t.hub.port n).holds k = (if time = 0 ∨ mask &&& 0xE = 0 then (0, 0) else
          (mask &&& 0xE, 250 * s.hub.clock + (-(s.hub.port n).idle).toNat + 6400 * time)) ∧
        (∀ j, j ≠ k → Sparse.get (0, 0) (t.hub.port n).holds j = Sparse.get (0, 0) (s.hub.port n).holds j) ∧
        t.hub.f (Reg.NSHn_CNT_PAUSE n) 30 0 = satInc 31 (s.hub.f (Reg.NSHn_CNT_PAUSE n) 30 0) ∧ (t.hub.port n).phase = (s.hub.port n).phase) ∧
    (250 * s.hub.clock < (Sparse.get (0, 0) (s.hub.port n).holds k).2 → exec (.tilePauseHoldEnd n k) s = .next s) ∧
    ((Sparse.get (0, 0) (s.hub.port n).holds k).2 ≤ 250 * s.hub.clock →
      ∃ t, exec (.tilePauseHoldEnd n k) s = .next t ∧ HubOnly s t ∧ Sparse.get (0, 0) (t.hub.port n).holds k = (0, 0) ∧
        ∀ j, j ≠ k → Sparse.get (0, 0) (t.hub.port n).holds j = Sparse.get (0, 0) (s.hub.port n).holds j) ∧
    (∀ q, s.hub.serving (.nsh n) = true → s.hub.heldQ n q = true → bitOf (s.hub.port n).heldSaid q = false → s.hub.f (Reg.NSHn_PAUSE n) 7 0 ≠ 0 →
      BecomesRaising (.tileHoldEvent n q) s
        (s.hub.setPort n { s.hub.port n with heldSaid := (s.hub.port n).heldSaid ||| 2 ^ q }) n)

/-- R233 to R236: a shift that is wanted and allowed stops the port's frames until it completes at the new rate, when it is counted and raises event
0x05; an upshift that answers a hint clears the hint's bit; and the far end of a chain follows the shift it receives. R106 to R108: a measurement
sends sixteen MEASURE frames, and its end writes the delay of each tile with eight valid rounds; the third attempt that fails is a link fault; and
in blanking the port broadcasts the time of its group's base at the frame's own start.
(The model's choices: a RATE_MIN raised above CEIL is shifted to, log entry 31; a delay that does not divide by the rounds is rounded either way, a negative one is
written modulo 2^32, and TIME carries the base's time without NSHn_EGR_ASYM, log entry 24.) -/
def Obligations.PortsShiftRateAndKeepTime : Prop :=
  (∀ (s : State) (n : Nat), n < 32 →
      (∀ r, s.hub.laneFree s.glob n = true → s.hub.shiftTarget n = some r → s.hub.shiftAllowed n r = true →
        ∃ t c, exec (.rateShift n) s = .next t ∧ HubOnly s t ∧ RegsKeptBut [] s.hub t.hub ∧ (t.hub.port n).phase = .shifting ∧
          (t.hub.port n).shiftTo = r ∧ (t.hub.port n).rate = (s.hub.port n).rate ∧ Out.lane n (.shift r c) ∈ t.hub.out ∧ c < 65536) ∧
      (∀ r, s.hub.laneFree s.glob n = true → s.hub.shiftTarget n = some r → s.hub.shiftAllowed n r = false →
        exec (.rateShift n) s = .next s) ∧
      (∀ r, s.hub.interval n = .active → s.hub.shiftAllowed n r = false) ∧
      (s.hub.serving (.nsh n) = true → (s.hub.port n).phase = .shifting → s.hub.clock < (s.hub.port n).shiftAt + 40 * cyclesPerUs →
        exec (.rateShiftComplete n) s = .next s) ∧
      (s.hub.serving (.nsh n) = true → (s.hub.port n).phase = .shifting → (s.hub.port n).shiftAt + 40 * cyclesPerUs ≤ s.hub.clock →
        ∃ t, exec (.rateShiftComplete n) s = .next t ∧ HubOnly s t ∧ (t.hub.port n).phase = .up ∧
          (t.hub.port n).rate = (s.hub.port n).shiftTo ∧ t.hub.pending n = true ∧
          t.hub.f (Reg.NSHn_CNT_SHIFT n) 30 0 = satInc 31 (s.hub.f (Reg.NSHn_CNT_SHIFT n) 30 0) ∧
          ((s.hub.port n).shiftTo = s.hub.topRate n → t.hub.bit Reg.GLB_NSH_HINT n = false)) ∧
      (∀ rate, s.hub.awake 4 = true → s.hub.chainKind n ≠ 0 → s.hub.serving (.nsh n) = true → (s.hub.port n).phase.carries = true →
        exec (.shiftReceive n rate) s = .next { s with hub := s.hub.setPort n { s.hub.port n with
          rxRate := rate % 4, followAt := some s.hub.clock } }) ∧
      (∀ who, s.hub.quietTo who = true → s.hub.allows s.glob who Reg.GLB_NSH_HINT = true → (s.hub.port n).phase = .up → (s.hub.port n).rate ≠ s.hub.topRate n →
        ∃ t, exec (.glbNshHint who (2 ^ n)) s = .next t ∧ HubOnly s t ∧ RegsKeptBut [Reg.GLB_NSH_HINT] s.hub t.hub ∧
          t.hub.bit Reg.GLB_NSH_HINT n = true ∧ (t.hub.port n).wantUp = true ∧ (∀ j, j ≠ n → t.hub.port j = s.hub.port j))) ∧
  (∀ (s : State) (n : Nat), n < 32 → s.hub.laneFree s.glob n = true → (s.hub.port n).q0 = [] →
      ((s.hub.port n).measuring = false → (s.hub.port n).measured = false →
        ∃ t, exec (.roundTripMeasurement n) s = .next t ∧ HubOnly s t ∧
          RegsKeptBut (Reg.MEM_FIFOi_STATUS (stampFifo n) :: pendRegs) s.hub t.hub ∧ (t.hub.port n).measuring = true ∧
          (t.hub.port n).rounds = [] ∧
          ∀ i f, i < 16 → f = { type := 0, addr := 255, queue := 0, seq := 0, flags := 4 * s.hub.endOf s.glob n
                                epoch := s.hub.commit.epoch, payload := [1] ++ leBytes 1 i ++ zeros 30 } →
            (Out.naush n f ∈ t.hub.out ∨ f ∈ (t.hub.port n).q0) ∧
              (i = 0 → s.hub.interval n = .free → s.hub.power.state ≠ 2 → s.hub.queueOpen s.glob n 0 32 = true → Out.naush n f ∈ t.hub.out)) ∧
      (∀ k, (s.hub.port n).measuring = true → s.hub.enumerated (s.hub.near n) = [k] → k < 128 → 8 ≤ ((s.hub.port n).roundTrips k).length →
        ∃ t, exec (.roundTripMeasurement n) s = .next t ∧ HubOnly s t ∧ (t.hub.port n).measuring = false ∧ (t.hub.port n).measured = true ∧
          t.hub.n (Reg.TIM_NDLYn_k n k) = s.hub.tileDelay n ((s.hub.port n).roundTrips k) ∧
          RegsKeptBut [Reg.TIM_NDLYn_k n k] s.hub t.hub) ∧
      (∀ k, (s.hub.port n).measuring = true → s.hub.enumerated (s.hub.near n) = [k] → ((s.hub.port n).roundTrips k).length < 8 →
        (s.hub.port n).rtFails = 2 → ∃ t, exec (.roundTripMeasurement n) s = .next t ∧ LinkFaulted n 3 s t) ∧
      (s.hub.groupOn (s.hub.portGroup n) = true → (s.hub.group (s.hub.portGroup n)).phase = .running →
        s.hub.activeLines (s.hub.portGroup n) ≤ (s.hub.group (s.hub.portGroup n)).line → s.hub.queueOpen s.glob n 0 32 = true →
        ∃ t f, exec (.timeBaseSend n) s = .next t ∧ HubOnly s t ∧ RegsKeptBut [] s.hub t.hub ∧ (t.hub.port n).timeSent = true ∧
          Out.naush n f ∈ t.hub.out ∧ f.type = 0 ∧ f.addr = 255 ∧
          f.payload = [0] ++ leBytes 1 (s.hub.portGroup n) ++ leBytes 1 (s.hub.groupTb (s.hub.portGroup n)) ++ [0] ++
            leBytes 6 (secOf (s.hub.now48 (s.hub.groupTb (s.hub.portGroup n)) + s.hub.lanePhase * 2 ^ 32)) ++
            leBytes 4 (nsOf (s.hub.now48 (s.hub.groupTb (s.hub.portGroup n)) + s.hub.lanePhase * 2 ^ 32)) ++
            leBytes 2 (fracOf (s.hub.now48 (s.hub.groupTb (s.hub.portGroup n)) + s.hub.lanePhase * 2 ^ 32)) ++ zeros 16))

/-! ## The tile protocol (spec/10_tile_protocol.md) -/

/-- R244, R248, R249: an identity answer of the right layout is accepted once, recorded against the tile map and acknowledged, and matches nothing in a record that
reads poisoned (log entry 28, the model's choice); a duplicate is counted
and acknowledged as one; and the end of the wait repeats the request, at most twice, or ends the enumeration with its count and event 0x10. -/
def Obligations.EnumerationRecordsTiles : Prop :=
  ∀ (s : State) (n k : Nat), HearsTile s n k →
    (∀ seq a ok, identityLayout a = true → (s.hub.tile n k).upSeq = none → (s.hub.port n).enumTry ≠ 0 →
      ok = (s.hub.idMatches n k a && !s.hub.tableBad s.mem (tblTile n) (768 * (k + 1)) 768) →
      ∃ t, exec (.identityAnswer n k seq a []) s = .next t ∧ HubOnly s t ∧ RegsKeptBut (violationRegs ++ pendRegs) s.hub t.hub ∧
        (t.hub.tile n k).present = true ∧ (t.hub.tile n k).ok = ok ∧ (t.hub.tile n k).mismatch = !ok ∧
        (t.hub.tile n k).upSeq = some (seq % 2 ^ 32) ∧ (∀ j, j ≠ k → t.hub.tile n j = s.hub.tile n j) ∧ Acked n k seq 0 s t) ∧
    (∀ seq a, identityLayout a = true → s.hub.originates n = true → (s.hub.tile n k).upSeq = some (seq % 2 ^ 32) →
      ∃ t, exec (.identityAnswer n k seq a []) s = .next t ∧ HubOnly s t ∧ (∀ j, t.hub.tile n j = s.hub.tile n j) ∧ Acked n k seq 1 s t ∧
        t.hub.f (Reg.NSHn_CNT_UDUP n) 30 0 = satInc 31 (s.hub.f (Reg.NSHn_CNT_UDUP n) 30 0) ∧
        RegsKeptBut [Reg.NSHn_CNT_UDUP n] s.hub t.hub) ∧
    (∀ seq a, identityLayout a = false →
      exec (.identityAnswer n k seq a []) s = .next { s with hub := s.hub.count (Reg.NSHn_CNT_FMT n) 31 }) ∧
    (0 < (s.hub.port n).enumTry → (s.hub.port n).enumTry < 3 → (∃ i ∈ tmAll (s.hub.tileMap n), (s.hub.tile n i).present = false) →
      (∀ f ∈ (s.hub.port n).q1 ++ (s.hub.port n).sends, f.owner ≠ .enum) →
      ∃ t, exec (.enumWaitEnd n []) s = .next t ∧ HubOnly s t ∧ RegsKeptBut [] s.hub t.hub ∧
        (t.hub.port n).enumTry = (s.hub.port n).enumTry + 1 ∧ (t.hub.port n).tiles = (s.hub.port n).tiles) ∧
    ((s.hub.port n).enumTry = 3 → (∀ f ∈ (s.hub.port n).q1 ++ (s.hub.port n).sends, f.owner ≠ .enum) →
      ∃ t, exec (.enumWaitEnd n []) s = .next t ∧ HubOnly s t ∧ (t.hub.port n).enumTry = 0 ∧ (t.hub.port n).enumDone = true ∧
        (t.hub.port n).enumCnt = (s.hub.enumerated n).length ∧ t.hub.pending n = true)

/-- R249, R250, R260: a TILE_SEND is INVALID or NOT_PRESENT as R260 says, else its frame takes the next number of its queue; it completes OK when its
tile acknowledges it; an unacknowledged frame is sent again, up to RETRY_LIMIT times, and then the link faults. R85, R106, R255, R263: an accepted
digest answer joins every census that asked its tile; a fault report adds its pixel to the map of the port and raises event 0x13; a LATE frame
report counts and sets RESEND, and a whole frame presented clears it; a MEASURE answer gives its round.
(The model's choices: a TILE_SEND to a port that has faulted or is isolated ends ABORTED, log entry 20; a broadcast that no tile awaits completes NOT_PRESENT, and the
REQ of a digest answer is not compared, log entry 31.) -/
def Obligations.TilesAreSentToAndReport : Prop :=
  (∀ (s : State) (n k q tag : Nat) (d : Desc), HearsTile s n k →
      (∀ payload, Fetched s q tag 0x80 d → d.op 16 1 = n → d.op 17 1 = k → d.op 18 1 = 4 → payload.length = d.op 20 2 → 0 < d.op 20 2 →
        d.op 20 2 ≤ 8192 → 0x40 ≤ byteAt payload 0 → s.hub.blockOn (.nsh n) = true → k < tmTiles (s.hub.tileMap n) →
        (s.hub.tile n k).present = true → (s.hub.port n).sends = [] → s.hub.roomFor n 1 = true →
        ∃ t f, exec (.tileSend q tag payload) s = .next t ∧ HubOnly s t ∧ f ∈ (t.hub.port n).q1 ∧ f.type = 4 ∧ f.dest = k ∧ f.payload = payload ∧
          f.seq = Sparse.get 0 (s.hub.port n).uni1 k ∧ f.owner = .tileSend q tag ∧
          Sparse.get 0 (t.hub.port n).uni1 k = (Sparse.get 0 (s.hub.port n).uni1 k + 1) % 2 ^ 32 ∧
          (t.hub.port n).q3.map (·.seq) = (s.hub.port n).q3.map (·.seq)) ∧
      (∀ payload, Fetched s q tag 0x80 d → d.op 16 1 = n → d.op 17 1 = k → d.op 18 1 = 9 → payload.length = d.op 20 2 → 0 < d.op 20 2 →
        d.op 20 2 ≤ 8192 → byteAt payload 0 < 0x80 → BecomesAnswering (.tileSend q tag payload) s s.hub q tag Status.invalid []) ∧
      (∀ payload, Fetched s q tag 0x80 d → d.op 16 1 = n → d.op 17 1 = k → d.op 18 1 = 10 → payload.length = d.op 20 2 → 0 < d.op 20 2 →
        d.op 20 2 ≤ 8192 → (s.hub.tile n k).present = false → BecomesAnswering (.tileSend q tag payload) s s.hub q tag Status.notPresent []) ∧
      (∀ f unsup, (s.hub.desc q tag).isSome = true → (s.hub.port n).q1 = [f] → f.sent = true → f.dest = k → f.due = [k] → f.owner = .tileSend q tag →
        f.unsup = false → (s.hub.port n).sends = [] →
        ∃ t, exec (.ackReceive n k 1 f.seq unsup) s = .next t ∧ HubOnly s t ∧
          (t.hub.port n).q1 = [] ∧
          Answered q tag Status.ok (leBytes 4 f.seq ++ leBytes 1 (b2n unsup)) s.hub t.hub) ∧
      (∀ f, (s.hub.port n).q1 = [f] → f.sent = true → f.todo = [] → f.owner ≠ .enum → f.dest = k → s.hub.heldQ n 1 = false → s.hub.power.state < 2 → f.tries < s.hub.f (Reg.NSHn_PROTO n) 12 8 →
        ∃ t g, exec (.retryTimeout n 1 k f.seq) s = .next t ∧ HubOnly s t ∧ (t.hub.port n).q1 = [g] ∧ g.tries = f.tries + 1 ∧ g.seq = f.seq ∧
          g.payload = f.payload ∧
          t.hub.f (Reg.NSHn_CNT_RETRY n) 30 0 = satInc 31 (s.hub.f (Reg.NSHn_CNT_RETRY n) 30 0)) ∧
      (∀ f, (s.hub.port n).q1 = [f] → f.sent = true → f.todo = [] → f.owner ≠ .enum → f.dest = k → s.hub.heldQ n 1 = false → s.hub.power.state < 2 → s.hub.f (Reg.NSHn_PROTO n) 12 8 ≤ f.tries →
        ∃ t, exec (.retryTimeout n 1 k f.seq) s = .next t ∧ HubOnly s t ∧ (t.hub.port n).cause = 2 ∧ (t.hub.port n).phase = .training true ∧
          (t.hub.port n).q1 = [] ∧ t.hub.pending n = true)) ∧
  (∀ (s : State) (n k : Nat), HearsTile s n k →
      (∀ seq a, digestLayout a = true → (s.hub.tile n k).upSeq = none →
        ∃ t, exec (.digestAnswer n k seq a) s = .next t ∧ HubOnly s t ∧ RegsKeptBut [] s.hub t.hub ∧ Acked n k seq 0 s t ∧
          t.hub.commit.censuses = s.hub.commit.censuses.map (fun c => c.answer
            { port := n, tile := k, epoch := leAt a 16 4, digest := (a.drop 8).take 8, differs := leAt a 16 4 != s.hub.commit.epoch
              seconds := s.hub.nowSec, nanos := s.hub.nowNs } s.hub.commit.epoch s.hub.commit.digest)) ∧
      (∀ seq r, faultLayout r = true → byteAt r 0 = 1 → byteAt r 11 = 1 → (s.hub.tile n k).upSeq = none → (s.hub.port n).fmap.length < 512 →
        (∀ e ∈ (s.hub.port n).fmap, e.tile = k → e.pixel ≠ leAt r 8 2) →
        ∃ t, exec (.faultReport n k seq r) s = .next t ∧ HubOnly s t ∧ t.hub.pending n = true ∧ Acked n k seq 0 s t ∧
          (t.hub.port n).fmap = (s.hub.port n).fmap ++
            [{ pixel := leAt r 8 2, tile := k, ch := byteAt r 10 &&& 7, short := false, since := s.hub.portNow n }]) ∧
      (∀ r fl, reportLayout r = true → (s.hub.port n).flips.find? (fun f => f.frame == leAt r 4 4) = some fl → byteAt r 1 = 1 →
        ∃ t, exec (.frameReport n k r) s = .next t ∧ HubOnly s t ∧ (t.hub.tile n k).resend = true ∧ (t.hub.tile n k).last = 1 ∧
          t.hub.f (Reg.NSHn_CNT_LATE n) 30 0 = satInc 31 (s.hub.f (Reg.NSHn_CNT_LATE n) 30 0)) ∧
      (∀ r fl, reportLayout r = true → (s.hub.port n).flips.find? (fun f => f.frame == leAt r 4 4) = some fl → byteAt r 1 = 0 → k ∈ fl.whole →
        ∃ t, exec (.frameReport n k r) s = .next t ∧ HubOnly s t ∧ RegsKeptBut [] s.hub t.hub ∧ (t.hub.tile n k).resend = false ∧
          (t.hub.tile n k).last = 0 ∧ (t.hub.tile n k).frame = leAt r 4 4 % 65536) ∧
      (∀ phase t1 a, s.hub.fifoLoses (stampFifo n) = false → (s.hub.port n).measuring = true → echoLayout a = true →
        byteAt a 2 = s.hub.endOf s.glob n → (s.hub.port n).stamped.find? (fun e => e.1 == byteAt a 1) = some (byteAt a 1, t1) →
        (∀ e ∈ Sparse.get [] (s.hub.port n).rounds k, e.1 ≠ byteAt a 1) →
        ∃ t, exec (.measurementAnswer n k phase a) s = .next t ∧ HubOnly s t ∧
          Sparse.get [] (t.hub.port n).rounds k =
            (byteAt a 1, ((163840 * s.hub.clock + phase % 163840 : Nat) : Int) - (t1 : Int) - signed 64 (unsigned 64 (((leAt a 16 8 : Int) + signed 64 (leAt a 24 8)) - (leAt a 8 8 : Int)))) ::
              Sparse.get [] (s.hub.port n).rounds k ∧
          RegsKeptBut pendRegs s.hub t.hub))

/-! ## Fixtures (spec/11_fixtures.md) -/

/-- R274 to R277, R282, R283: a tick that is not due does nothing; one that is advances the clock of its group alone, writes the value of each of the
group's fades to its parameter and nowhere else, ends the fades that are over, begins those of its cues, and queues the FIX of an output that is
to be sent whole; a held FIX leaves when its port has room. R149: a patch or universe table that reads poisoned is a fault of FIX.
(The model's choices, log entry 32: which record of the fade table a fade takes and what stands in it, the S-curve rounded down, what a poisoned read leaves a parameter,
and that a newer FIX of which the STANDBY holds the older copy takes a number of its own.) -/
def Obligations.FixturesTickOnTheGrid : Prop :=
  ∀ (s : State) (pg e : Nat) (bad : List Nat), bad = s.hub.badFades s.mem →
    e = (Sparse.get 0 s.hub.fix.clocks pg + s.hub.f (Reg.FIX_PGg_CTL pg) 4 0 * (s.hub.period48 pg / 2 ^ 32)) % 2 ^ 64 →
    (∀ errs lines, s.hub.tickDue s.glob pg = false → exec (.fixtureTick pg errs lines) s = .next s) ∧
    (s.hub.tickDue s.glob pg = true → (s.hub.tableSpoilt s.mem tblPatch = true ∨ s.hub.tableSpoilt s.mem tblUniverse = true) →
      exec (.fixtureTick pg [] []) s = .next { s with hub := s.hub.blockFault s.glob .fix }) ∧
    (s.hub.tableSpoilt s.mem tblPatch = false → s.hub.tableSpoilt s.mem tblUniverse = false →
    (s.hub.tickDue s.glob pg = true → (∀ c ∈ s.hub.fix.cues, c < 8 → s.hub.cueGroup c ≠ pg) →
      ∃ t, exec (.fixtureTick pg [] []) s = .next t ∧ t.glob = s.glob ∧ t.pending = s.pending ∧ t.mem.imem = s.mem.imem ∧
        t.mem.dmem = s.mem.dmem ∧ t.hub.fix.cues = s.hub.fix.cues ∧ Sparse.get 0 t.hub.fix.clocks pg = e ∧
        Sparse.get 0 t.hub.fix.ticked pg = (s.hub.group pg).frame + 1 ∧
        (∀ j, j ≠ pg → Sparse.get 0 t.hub.fix.clocks j = Sparse.get 0 s.hub.fix.clocks j ∧
          Sparse.get 0 t.hub.fix.ticked j = Sparse.get 0 s.hub.fix.ticked j) ∧
        t.hub.fix.fades = s.hub.fix.fades.filter (fun f => !(parGroup s.hub.patch f.par == pg && (f.over e || bad.contains f.par))) ∧
        (∀ f ∈ s.hub.fix.fades, parGroup s.hub.patch f.par = pg → f.par ∉ bad → (∀ x ∈ s.hub.fix.fades, x.par = f.par → x = f) →
          t.mem.sramLe (2 * f.par) 2 = f.value e % 65536) ∧
        (∀ a, (∀ f ∈ s.hub.fix.fades, parGroup s.hub.patch f.par = pg → a / 2 ≠ f.par) →
          Sparse.get Memory.blank t.mem.sram a = Sparse.get Memory.blank s.mem.sram a)) ∧
    (∀ c key target time curve, s.hub.tickDue s.glob pg = true → s.hub.fix.cues = [c] → c < 8 → s.hub.cueGroup c = pg → s.hub.fix.fades = [] →
      s.hub.cueCount c = 1 → s.hub.cueRecord s.mem pg c 0 = some (key, target, time, curve) →
      ∃ t, exec (.fixtureTick pg [] []) s = .next t ∧ t.glob = s.glob ∧ t.pending = s.pending ∧ t.hub.pending 108 = true ∧
        t.hub.fix.cues = [] ∧
        (time = 0 → t.hub.fix.fades = [] ∧ t.mem.sramLe (2 * key) 2 = target % 65536) ∧
        (time ≠ 0 → t.mem.sram = s.mem.sram ∧ t.hub.fix.fades =
          [{ par := key, slot := 0, start := e, origin := s.mem.sramLe (2 * key) 2, target := target, time := time, curve := curve }])) ∧
    (∀ o r, s.hub.tickDue s.glob pg = true → (∀ c ∈ s.hub.fix.cues, c < 8 → s.hub.cueGroup c ≠ pg) → s.hub.groupOutputs pg = [o] →
      r = outRec s.hub.patch o → outRoute r = 0 → outNode r < 128 → s.hub.near (outPort r) = outPort r → s.hub.blockOn (.nsh (outPort r)) = true →
      s.hub.originates (outPort r) = true → s.hub.outWhole o = true → s.hub.fix.held = [] → s.hub.fix.acked = [] →
      (s.hub.port (outPort r)).sends = [] → s.hub.roomFor (outPort r) 1 = true →
      (∀ f ∈ (s.hub.port (outPort r)).q1, fixWaiting o f = false) →
      ∃ t f, exec (.fixtureTick pg [] []) s = .next t ∧ f ∈ (t.hub.port (outPort r)).q1 ∧ f.type = 8 ∧ f.dest = outNode r ∧ f.owner = .fix o ∧
        f.payload.length = 24 + outSlots r ∧
        f.payload.take 24 = [1] ++ leBytes 1 (outOut r) ++ leBytes 1 pg ++ [0] ++ leBytes 4 (s.hub.group pg).frame ++
          leBytes 6 (secOf (s.hub.group pg).next) ++ leBytes 4 (nsOf (s.hub.group pg).next) ++ leBytes 2 (fracOf (s.hub.group pg).next) ++
          leBytes 2 1 ++ leBytes 2 (outSlots r))) ∧
    (∀ n f o, s.glob.safe = false → s.hub.serving .fix = true → s.hub.serving (.nsh n) = true → s.hub.originates n = true →
      s.hub.fix.held = [(n, f)] → f.owner = .fix o → f.type = 8 → f.dest < 128 →
      (s.hub.port n).sends = [] → s.hub.roomFor n 1 = true →
      ∃ t g, exec (.fixHeldRelease n []) s = .next t ∧ t.glob = s.glob ∧ t.pending = s.pending ∧ t.hub.fix.held = [] ∧ g ∈ (t.hub.port n).q1 ∧
        g.payload = f.payload ∧ g.dest = f.dest ∧ g.seq = Sparse.get 0 (s.hub.port n).uni1 f.dest ∧
        ((∀ k, k < ceilDiv (outSlots (outRec s.hub.patch o)) 64 → (s.mem.tagAt (s.hub.shadowAddr o + 64 * k)).poison = false) →
          DramKeptBut (s.hub.shadowAddr o + leAt f.payload 20 2 - 1) (leAt f.payload 22 2) s.mem t.mem) ∧
        (0 < leAt f.payload 20 2 →
          DramKeptBut (s.hub.shadowAddr o) (max (64 * ceilDiv (outSlots (outRec s.hub.patch o)) 64) (leAt f.payload 20 2 - 1 + leAt f.payload 22 2))
            s.mem t.mem)) ∧
    (∀ n, (∀ x ∈ s.hub.fix.held, x.1 ≠ n) → exec (.fixHeldRelease n []) s = .next s)

/-! ## Odelle mesh (spec/12_odelle_mesh.md) -/

/-- R292, R295, R298, R300, R312: the transmit command of a beacon comes TX_LAT before its planned SFD and not earlier; the beacon carries its index and the time of the next interval, and the grid advances by one
beacon interval, whether the channel was free or busy; its captured SFD gives PREV_ERR and ODLr_TX_ERR, with event 0x06 beyond 8 µs; a transceiver
that answers again starts the MAC at the first beacon of the grid at least 10 ms ahead.
(That a beacon on a busy channel advances the grid, and how many intervals a stopped MAC has missed, are the model's, log entry 33.) -/
def Obligations.BeaconsKeepTheGrid : Prop :=
  ∀ (s : State) (r : Nat), s.hub.odlRuns s.glob r = true →
    (∀ tx, s.hub.now48 (s.hub.odlTb r) < (s.hub.odl r).at48 + s.hub.f (Reg.ODLr_GUARD r) 11 0 * (1000 * ns48) - s.hub.f (Reg.ODLr_RBI r) 31 16 * (10 * ns48) →
      exec (.beaconSend r tx) s = .next s) ∧
    ((s.hub.odl r).phase = .starting ∨ (s.hub.odl r).phase = .beaconing →
      (s.hub.odl r).at48 + s.hub.f (Reg.ODLr_GUARD r) 11 0 * (1000 * ns48) - s.hub.f (Reg.ODLr_RBI r) 31 16 * (10 * ns48) ≤ s.hub.now48 (s.hub.odlTb r) →
      (∃ t, exec (.beaconSend r .sent) s = .next t ∧ HubOnly s t ∧ RegsKeptBut [Reg.ODLr_CNT_EVICT r] s.hub t.hub ∧
        (t.hub.odl r).phase = .beaconing ∧ (t.hub.odl r).idx = (s.hub.odl r).idx + 1 ∧
        (t.hub.odl r).at48 = (s.hub.odl r).at48 + odlBi (s.hub.n (Reg.ODLr_CTL r)) * ns48 ∧
        (t.hub.odl r).last = (s.hub.odl r).idx % 2 ^ 32 ∧
        (t.hub.odl r).plan = some ((s.hub.odl r).at48 + s.hub.f (Reg.ODLr_GUARD r) 11 0 * 1000 * ns48) ∧
        (t.hub.odl r).table = (s.hub.odl r).table.map (fun x => (x.1, { x.2 with age := x.2.age + 1 })) ∧
        Out.odl r (odlFrame 0 (s.hub.f (Reg.ODLr_CTL r) 15 13) (s.hub.f (Reg.ODLr_PAN r) 15 0) 0xFFFE 0xFFFF ((s.hub.odl r).idx % 65536)
          ((s.hub.odl r).beacon (s.hub.n (Reg.ODLr_CTL r)) (s.hub.n (Reg.ODLr_GUARD r)) (s.hub.n (Reg.ODLr_LEASE r)))) ∈ t.hub.out) ∧
      (∃ t, exec (.beaconSend r .busy) s = .next t ∧ HubOnly s t ∧ RegsKeptBut [Reg.ODLr_CNT_CCA r] s.hub t.hub ∧ t.hub.out = s.hub.out ∧
        t.hub.f (Reg.ODLr_CNT_CCA r) 30 0 = satInc 31 (s.hub.f (Reg.ODLr_CNT_CCA r) 30 0) ∧ (t.hub.odl r).plan = none ∧
        (t.hub.odl r).idx = (s.hub.odl r).idx + 1 ∧
        (t.hub.odl r).at48 = (s.hub.odl r).at48 + odlBi (s.hub.n (Reg.ODLr_CTL r)) * ns48) ∧
      (∃ t, exec (.beaconSend r .fails) s = .next t ∧ HubOnly s t ∧ RegsKeptBut pendRegs s.hub t.hub ∧ (t.hub.odl r).phase = .fault ∧
        t.hub.pending (40 + r) = true)) ∧
    (∀ quarter plan stamp err, (s.hub.odl r).plan = some plan →
      stamp = addTime (s.hub.now48 (s.hub.odlTb r) + quarter * 2 ^ 46) (s.hub.s32 (Reg.TIM_ODLr_EGR r) * 2 ^ 32) →
      err = ((stamp : Int) - (plan : Int)) / 2 ^ 32 →
      (s.hub.fifoLoses 7 = false →
        ∃ t, exec (.beaconSfdCapture r quarter) s = .next t ∧ HubOnly s t ∧ RegsKeptBut (Reg.ODLr_TX_ERR r :: pendRegs) s.hub t.hub ∧
          (t.hub.odl r).plan = none ∧ (t.hub.odl r).prevErr = err ∧ t.hub.n (Reg.ODLr_TX_ERR r) = satSigned 32 err ∧
          (8000 * 65536 < err.natAbs → t.hub.pending (40 + r) = true)) ∧
      (s.hub.fifoLoses 7 = true →
        ∃ t, exec (.beaconSfdCapture r quarter) s = .next t ∧ HubOnly s t ∧
          RegsKeptBut (Reg.MEM_FIFOi_STATUS 7 :: pendRegs) s.hub t.hub ∧ (t.hub.odl r).plan = none ∧
          (t.hub.odl r).prevErr = (s.hub.odl r).prevErr)) ∧
    ((s.hub.odl r).phase = .fault → s.hub.saddle.role ≠ .standby → s.hub.saddle.role ≠ .syncing →
      s.hub.n (Reg.ODLr_PHASE r) * ns48 ≤ s.hub.now48 (s.hub.odlTb r) + 10000000 * ns48 →
      ∃ t, exec (.transceiverRetry r true) s = .next t ∧ HubOnly s t ∧ RegsKeptBut [] s.hub t.hub ∧ (t.hub.odl r).phase = .starting ∧
        (t.hub.odl r).at48 = s.hub.n (Reg.ODLr_PHASE r) * ns48 + (t.hub.odl r).idx * (odlBi (s.hub.n (Reg.ODLr_CTL r)) * ns48) ∧
        s.hub.now48 (s.hub.odlTb r) + 10000000 * ns48 ≤ (t.hub.odl r).at48 ∧
        (t.hub.odl r).at48 < s.hub.now48 (s.hub.odlTb r) + 10000000 * ns48 + odlBi (s.hub.n (Reg.ODLr_CTL r)) * ns48 ∧
        ∃ k, (t.hub.odl r).table = (s.hub.odl r).table.map (fun x => (x.1, { x.2 with age := x.2.age + k }))) ∧
    exec (.transceiverRetry r false) s = .next s

/-- R303 to R305: a frame already seen is counted and not acted on; a request is granted the lowest free address or the free one it names, refused
with its status, or discarded; a keepalive is heard, brings an ADRIFT node back, or is answered with status 4; and silence makes a node ADRIFT and
then frees its address, neither before whole intervals have passed; of each received frame the SFD is captured (R104). R281, R304, R308: the first round of an interval sends the answers that wait and fit, each with the next
number; another sends the slots of the dirty outputs in one ODATA, which clears their marks and writes their shadow; on a busy channel a round only
counts.
(The model's choices, log entry 33: CLOSED is judged before any other state, the seen-cache holds 512 entries and when they leave it, the order of the answers that
wait, and STATUS of a request discarded for its address; the phase of a captured SFD is left open, log entry 24.) -/
def Obligations.NodesJoinAndAreSentTheirData : Prop :=
  (∀ (s : State) (r : Nat), s.hub.odlReceives s.glob r = true →
      (∀ fcs, exec (.odlFrameReject r fcs) s =
        .next { s with hub := (s.hub.radioStamp s.glob r).count (if fcs then Reg.ODLr_CNT_FCS r else Reg.ODLr_CNT_FMT r) 31 }) ∧
      (∀ src seq hop ext req, s.hub.odlSeen r src seq = true →
        exec (.odlSeenFrame r src seq) s = .next { s with hub := (s.hub.radioStamp s.glob r).count (Reg.ODLr_CNT_DUP r) 31 } ∧
        exec (.assocReq r src seq hop ext req) s = .next { s with hub := (s.hub.radioStamp s.glob r).count (Reg.ODLr_CNT_DUP r) 31 } ∧
        (src < 0x1000 → exec (.keepalive r src seq hop) s = .next { s with hub := (s.hub.radioStamp s.glob r).count (Reg.ODLr_CNT_DUP r) 31 })) ∧
      (∀ src seq hop ext req, s.hub.odlSeen r src seq = false → s.hub.odlBound r ext = none →
        (∀ a, ctlOpen (s.hub.odl r).ctl = true →
          (req = 0xFFFF ∧ s.hub.odlFree r = some a ∨ req < 0x1000 ∧ (s.hub.odlAddr r req).state = 0 ∧ a = req) →
          ∃ t, exec (.assocReq r src seq hop ext req) s = .next t ∧ HubOnly s t ∧
            RegsKeptBut ([Reg.MEM_FIFOi_STATUS 7, Reg.ODLr_CNT_EVICT r, Reg.ODLr_LAST_EXT_LO r, Reg.ODLr_LAST_EXT_HI r, Reg.ODLr_LAST_ADDR r] ++ pendRegs) s.hub t.hub ∧
            t.hub.odlAddr r a = { state := 1, hop := hop % 8, ext := ext, part := s.hub.odlPart r } ∧ (∀ b, b ≠ a → t.hub.odlAddr r b = s.hub.odlAddr r b) ∧
            (t.hub.odl r).rsps = (s.hub.odl r).rsps ++ [{ dst := 0xFFFF, ext := ext, addr := a, status := 0 }] ∧
            t.hub.n (Reg.ODLr_LAST_EXT_LO r) = ext % 2 ^ 32 ∧ t.hub.n (Reg.ODLr_LAST_ADDR r) = a % 65536 ∧
            t.hub.pending (40 + r) = true) ∧
        (ctlOpen (s.hub.odl r).ctl = false → (req < 0x1000 ∨ req = 0xFFFF) →
          ∃ t, exec (.assocReq r src seq hop ext req) s = .next t ∧ HubOnly s t ∧
            RegsKeptBut ([Reg.MEM_FIFOi_STATUS 7, Reg.ODLr_CNT_EVICT r, Reg.ODLr_LAST_EXT_LO r, Reg.ODLr_LAST_EXT_HI r, Reg.ODLr_LAST_ADDR r, Reg.ODLr_CNT_REFUSE r] ++
              pendRegs) s.hub t.hub ∧
            (t.hub.odl r).table = (s.hub.odl r).table ∧
            (t.hub.odl r).rsps = (s.hub.odl r).rsps ++ [{ dst := 0xFFFF, ext := ext, addr := 0xFFFF, status := 3 }] ∧
            t.hub.n (Reg.ODLr_LAST_ADDR r) = req + 3 * 65536 ∧
            t.hub.f (Reg.ODLr_CNT_REFUSE r) 30 0 = satInc 31 (s.hub.f (Reg.ODLr_CNT_REFUSE r) 30 0) ∧ t.hub.pending (40 + r) = true) ∧
        (0x1000 ≤ req → req ≠ 0xFFFF →
          ∃ t, exec (.assocReq r src seq hop ext req) s = .next t ∧ HubOnly s t ∧
            RegsKeptBut ([Reg.MEM_FIFOi_STATUS 7, Reg.ODLr_CNT_EVICT r, Reg.ODLr_CNT_FMT r, Reg.ODLr_LAST_EXT_LO r, Reg.ODLr_LAST_EXT_HI r,
                Reg.ODLr_LAST_ADDR r] ++ pendRegs)
              s.hub t.hub ∧ (t.hub.odl r).table = (s.hub.odl r).table ∧ (t.hub.odl r).rsps = (s.hub.odl r).rsps ∧
            t.hub.n (Reg.ODLr_LAST_EXT_LO r) = ext % 2 ^ 32 ∧ t.hub.n (Reg.ODLr_LAST_ADDR r) % 65536 = req % 65536 ∧
            t.hub.f (Reg.ODLr_CNT_FMT r) 30 0 = satInc 31 (s.hub.f (Reg.ODLr_CNT_FMT r) 30 0))) ∧
      (∀ src seq hop, src < 0x1000 → s.hub.odlSeen r src seq = false →
        ∃ t, exec (.keepalive r src seq hop) s = .next t ∧ HubOnly s t ∧ RegsKeptBut (Reg.MEM_FIFOi_STATUS 7 :: Reg.ODLr_CNT_EVICT r :: pendRegs) s.hub t.hub ∧
          (∀ b, b ≠ src → t.hub.odlAddr r b = s.hub.odlAddr r b) ∧
          ((s.hub.odlAddr r src).state = 0 → t.hub.odlAddr r src = s.hub.odlAddr r src ∧
            (t.hub.odl r).rsps = (s.hub.odl r).rsps ++ [{ dst := src, ext := 0, addr := 0xFFFF, status := 4 }]) ∧
          ((s.hub.odlAddr r src).state ≠ 0 → t.hub.odlAddr r src = { s.hub.odlAddr r src with state := 1, hop := hop % 8, age := 0, part := s.hub.odlPart r } ∧
            (t.hub.odl r).rsps = (s.hub.odl r).rsps) ∧
          ((s.hub.odlAddr r src).state = 2 → t.hub.pending (40 + r) = true)) ∧
      (∀ a, (s.hub.odlAddr r a).state = 1 → 2 * fieldOf (s.hub.odl r).lease 7 0 + 1 ≤ s.hub.odlWholeAge r (s.hub.odlAddr r a) →
        BecomesRaising (.nodeAdrift r a) s (s.hub.setOdlAddr r a { s.hub.odlAddr r a with state := 2, age := 0, part := s.hub.odlPart r }) (40 + r)) ∧
      (∀ a, (s.hub.odlAddr r a).state = 2 → fieldOf (s.hub.odl r).lease 27 12 ≤ s.hub.odlWholeAge r (s.hub.odlAddr r a) →
        BecomesRaising (.addrLeaseEnd r a) s (s.hub.setOdlAddr r a {}) (40 + r)) ∧
      (∀ a, s.hub.odlWholeAge r (s.hub.odlAddr r a) < 2 * fieldOf (s.hub.odl r).lease 7 0 + 1 → exec (.nodeAdrift r a) s = .next s) ∧
      (∀ a, s.hub.odlWholeAge r (s.hub.odlAddr r a) < fieldOf (s.hub.odl r).lease 27 12 → exec (.addrLeaseEnd r a) s = .next s)) ∧
  (∀ (s : State) (r : Nat), s.hub.odlReceives s.glob r = true → 0 < ctlTtl (s.hub.odl r).ctl →
      (∀ a, 0 < ctlDown (s.hub.odl r).ctl → (s.hub.odl r).rsps = [a] → (s.hub.odl r).answers = 1 →
        ∃ t, exec (.downlinkRound r 0 .sent []) s = .next t ∧ HubOnly s t ∧ RegsKeptBut [Reg.ODLr_CNT_EVICT r] s.hub t.hub ∧
          (t.hub.odl r).rsps = [] ∧ (t.hub.odl r).seq = ((s.hub.odl r).seq + 1) % 65536 ∧ (t.hub.odl r).marks = (s.hub.odl r).marks ∧
          Out.odl r (odlFrame 3 (ctlTtl (s.hub.odl r).ctl) (s.hub.f (Reg.ODLr_PAN r) 15 0) 0xFFFE a.dst (s.hub.odl r).seq
            (leBytes 8 a.ext ++ leBytes 2 a.addr ++ leBytes 1 a.status ++ [0])) ∈ t.hub.out) ∧
      (∀ round o pg vals first last room, round * ctlTtl (s.hub.odl r).ctl < ctlDown (s.hub.odl r).ctl →
        (round ≠ 0 ∨ (s.hub.odl r).answers = 0) → (s.hub.odl r).turn = [o] → Sparse.get (0, []) (s.hub.odl r).latest o = (pg, vals) →
        Sparse.get (0, 0) (s.hub.odl r).marks o = (first, last) → room = odlMax (s.hub.odl r).ctl (s.hub.odl r).guard - 30 →
        6 < room → last + 1 - first ≤ room - 6 →
        ∃ t, exec (.downlinkRound r round .sent []) s = .next t ∧ t.glob = s.glob ∧ t.pending = s.pending ∧
          RegsKeptBut ([Reg.ODLr_CNT_EVICT r, Reg.ODLr_CNT_LATE r] ++ violationRegs ++ pendRegs)
            s.hub t.hub ∧
          Sparse.get (0, 0) (t.hub.odl r).marks o = (0, 0) ∧ (t.hub.odl r).served = o + 1 ∧
          (∀ j, j ≠ o → Sparse.get (0, 0) (t.hub.odl r).marks j = Sparse.get (0, 0) (s.hub.odl r).marks j) ∧
          Out.odl r (odlFrame 1 (ctlTtl (s.hub.odl r).ctl) (s.hub.f (Reg.ODLr_PAN r) 15 0) 0xFFFE 0xFFFF (s.hub.odl r).seq
            (leBytes 4 (Sparse.get (0, 0) (s.hub.odl r).ticks pg).1 ++ leBytes 6 (secOf (Sparse.get (0, 0) (s.hub.odl r).ticks pg).2) ++
              leBytes 4 (nsOf (Sparse.get (0, 0) (s.hub.odl r).ticks pg).2) ++ leBytes 2 (fracOf (Sparse.get (0, 0) (s.hub.odl r).ticks pg).2) ++
              leBytes 1 1 ++ leBytes 1 pg ++ leBytes 2 (outNode (outRec s.hub.patch o)) ++ leBytes 1 (outOut (outRec s.hub.patch o)) ++
              leBytes 2 first ++ leBytes 1 (last + 1 - first) ++ padTo (last + 1 - first) (vals.drop (first - 1)))) ∈ t.hub.out ∧
          ((∀ k, k < ceilDiv (outSlots (outRec s.hub.patch o)) 64 → (s.mem.tagAt (s.hub.shadowAddr o + 64 * k)).poison = false) →
            DramKeptBut (s.hub.shadowAddr o + first - 1) (last + 1 - first) s.mem t.mem) ∧
          (0 < first → DramKeptBut (s.hub.shadowAddr o)
            (max (64 * ceilDiv (outSlots (outRec s.hub.patch o)) 64) (first - 1 + (last + 1 - first))) s.mem t.mem)) ∧
      (∀ round n, round * ctlTtl (s.hub.odl r).ctl < ctlDown (s.hub.odl r).ctl → n = (if round = 0 then (s.hub.odl r).answers else 0) →
        (0 < n ∨ (s.hub.odl r).turn ≠ []) →
        exec (.downlinkRound r round .busy []) s = .next { s with hub := s.hub.countBy (Reg.ODLr_CNT_CCA r) 31 (max 1 n) }) ∧
      (∀ round, (s.hub.odl r).rsps = [] → (s.hub.odl r).turn = [] → ∀ tx, exec (.downlinkRound r round tx []) s = .next s))

/-! ## Spur engines (spec/13_spur_engines.md) -/

/-- R317, R322 to R325, R330, Tables 13.5 and 13.7: a scalar operation writes its result, or, where the manual states none, some value; a division by
zero gives all ones and the dividend; a CSR and a counter are read, the low half of a counter leaving its upper half in the shadow. -/
def Obligations.ScalarInstructionsWriteTheirResult : Prop :=
  ∀ (s : State) (e : Nat),
    (∀ op rd rs1 rs2, Ready s e [rd % 32, rs1 % 32, rs2 % 32] → (op.unary = true → rs2 % 32 = 0) →
      ∃ t w, exec (.scalarAlu e (.rr op rd rs1 rs2) cleanFetch) s = .next t ∧ EngineOnly e s t ∧ Wrote rd w (s.hub.eng e) (t.hub.eng e) ∧
        (∀ v, aluResult op ((s.hub.eng e).reg rs1) ((s.hub.eng e).reg rs2) = some v → w = v)) ∧
    (∀ op rd rs1 imm, Ready s e [rd % 32, rs1 % 32] → (op = .lui → rs1 % 32 = 0) →
      ∃ t w, exec (.scalarAlu e (.ri op rd rs1 imm) cleanFetch) s = .next t ∧ EngineOnly e s t ∧ Wrote rd w (s.hub.eng e) (t.hub.eng e) ∧
        (∀ v, immResult op ((s.hub.eng e).reg rs1) imm = some v → w = v)) ∧
    (∀ (op : AluOp) rd rs1 rs2, (op = .div ∨ op = .divu ∨ op = .rem ∨ op = .remu) → Ready s e [rd % 32, rs1 % 32, rs2 % 32] →
      (s.hub.eng e).reg rs2 = 0 →
      ∃ t, exec (.scalarAlu e (.rr op rd rs1 rs2) cleanFetch) s = .next t ∧ EngineOnly e s t ∧
        Wrote rd (if op = .div ∨ op = .divu then BitVec.allOnes 32 else (s.hub.eng e).reg rs1) (s.hub.eng e) (t.hub.eng e)) ∧
    (∀ rd csr v, Ready s e [rd % 32] → s.hub.csr e csr = some v → ((s.hub.eng e).kmode = true ∨ csr = 6 ∨ csr = 7) →
      ∃ t, exec (.csrr e rd csr cleanFetch) s = .next t ∧ EngineOnly e s t ∧ Wrote rd (BitVec.ofNat 32 v) (s.hub.eng e) (t.hub.eng e)) ∧
    (∀ rd n, Ready s e [rd % 32] → n ≤ 8 → ((s.hub.eng e).kmode = true ∨ s.hub.bit (Reg.PMUe_CNT_CTL e) 0 = true) →
      (∃ t, exec (.cntrd e rd n false cleanFetch) s = .next t ∧ EngineOnly e s t ∧
        (t.hub.eng e).shadow = BitVec.ofNat 32 (s.hub.engCounter e n / 2 ^ 32) ∧
        Wrote rd (BitVec.ofNat 32 (s.hub.engCounter e n)) { s.hub.eng e with shadow := BitVec.ofNat 32 (s.hub.engCounter e n / 2 ^ 32) }
          (t.hub.eng e)) ∧
      (∃ t, exec (.cntrd e rd n true cleanFetch) s = .next t ∧ EngineOnly e s t ∧ Wrote rd (s.hub.eng e).shadow (s.hub.eng e) (t.hub.eng e)))

/-- R316, R323, R325, R332, R334: a branch goes to its target when its condition holds and on otherwise; a jump leaves the address after it in its
link register; ERET enters the mode of PMODE at EPC with EXC cleared; a CSR is written but for its RO fields; FENCE goes on when the loads of its
windows have completed; and SIGNAL raises the engine's source.
(The model's, log entry 34: a branch target counts from the branch itself, a link register holds pc + 4, a jump target is masked to 17 bits and a multiple of 4, and a
write of a read-only CSR has no effect.) -/
def Obligations.ControlTransfersMoveThePc : Prop :=
  ∀ (s : State) (e : Nat),
    (∀ c rs1 rs2 off, Ready s e [rs1 % 32, rs2 % 32] →
      ∃ t, exec (.branch e (.cond c rs1 rs2 off) cleanFetch) s = .next t ∧ EngineOnly e s t ∧
        t.hub.eng e = { s.hub.eng e with
          pc := if c.holds ((s.hub.eng e).reg rs1) ((s.hub.eng e).reg rs2) then (s.hub.eng e).target off
            else ((s.hub.eng e).pc + 4) % 2 ^ 17 }) ∧
    (∀ link off, Ready s e [link % 32] →
      ∃ t, exec (.branch e (.jal link off) cleanFetch) s = .next t ∧ EngineOnly e s t ∧
        t.hub.eng e = { (s.hub.eng e).setReg link (BitVec.ofNat 32 ((s.hub.eng e).pc + 4)) with pc := (s.hub.eng e).target off }) ∧
    (∀ rd rs1 imm, Ready s e [rd % 32, rs1 % 32] →
      ∃ t, exec (.branch e (.jalr rd rs1 imm) cleanFetch) s = .next t ∧ EngineOnly e s t ∧
        t.hub.eng e = { (s.hub.eng e).setReg rd (BitVec.ofNat 32 ((s.hub.eng e).pc + 4)) with
          pc := pcOf (((s.hub.eng e).n rs1 : Int) + signed 16 imm) }) ∧
    (Ready s e [] → (s.hub.eng e).kmode = true →
      ∃ t, exec (.eret e cleanFetch) s = .next t ∧ EngineOnly e s t ∧
        t.hub.eng e = { s.hub.eng e with kmode := (s.hub.eng e).pmode, exc := false, pc := (s.hub.eng e).epc }) ∧
    (∀ csr rs1, Ready s e [rs1 % 32] → (s.hub.eng e).kmode = true → csr < 8 →
      ∃ t, exec (.csrw e csr rs1 cleanFetch) s = .next t ∧ EngineOnly e s t ∧
        (t.hub.eng e).pc = ((s.hub.eng e).pc + 4) % 2 ^ 17 ∧ (t.hub.eng e).kmode = true ∧
        (t.hub.eng e).kvec = (if csr = 5 then fieldOf ((s.hub.eng e).n rs1) 16 2 * 4 else (s.hub.eng e).kvec) ∧
        (t.hub.eng e).epc = (if csr = 1 then fieldOf ((s.hub.eng e).n rs1) 16 2 * 4 else (s.hub.eng e).epc) ∧
        (t.hub.eng e).pmode = (if csr = 0 then bitOf ((s.hub.eng e).n rs1) 1 else (s.hub.eng e).pmode) ∧
        (t.hub.eng e).exc = (if csr = 0 then bitOf ((s.hub.eng e).n rs1) 2 else (s.hub.eng e).exc) ∧
        (t.hub.eng e).ecause = (s.hub.eng e).ecause ∧ (t.hub.eng e).s = (s.hub.eng e).s) ∧
    (∀ set, Ready s e [] →
      ((∀ l ∈ (s.hub.eng e).loads, set % 32 ≠ 0 ∧ bitOf set (fenceBit l.addr) = false) →
        ∃ t, exec (.fence e set cleanFetch) s = .next t ∧ EngineOnly e s t ∧
          t.hub.eng e = { s.hub.eng e with pc := ((s.hub.eng e).pc + 4) % 2 ^ 17 }) ∧
      ((∃ l ∈ (s.hub.eng e).loads, set % 32 = 0 ∨ bitOf set (fenceBit l.addr) = true) → exec (.fence e set cleanFetch) s = .next s)) ∧
    (∀ rs1, Ready s e [rs1 % 32] → (s.hub.eng e).loads = [] →
      ∃ t, exec (.signal e rs1 cleanFetch) s = .next t ∧ HubOnly s t ∧ t.hub.pending (64 + e) = true ∧
        t.hub.eng e = { s.hub.eng e with pc := ((s.hub.eng e).pc + 4) % 2 ^ 17 } ∧ (∀ j, j ≠ e → t.hub.eng j = s.hub.eng j) ∧
        RegsKeptBut (Reg.PMUe_CNT_CTL e :: pendRegs) s.hub t.hub)

/-- R152, R316, R317, R332, R336, R337: TRAP, BKPT and an illegal instruction enter the handler at KVEC in K mode with their cause, as a privileged
instruction does in U mode and a poisoned fetch everywhere; a second exception inside the handler halts the engine and reports a block fault. A fetch that
finds a double error marks its line, one that is corrected counts, and every instruction then acts on what its fetch leaves.
(That an illegal CSR is judged before its privilege, and that an engine command carries the decoded instruction, are the model's, log entry 34; which words
ILLEGAL_INSTRUCTION takes as legal, log entry 36.) -/
def Obligations.ExceptionsEnterTheHandler : Prop :=
  ∀ (s : State) (e : Nat),
    ((s.hub.eng e).exc = false →
      (Ready s e [] → ∀ code,
        (∃ t, exec (.trap e code cleanFetch) s = .next t ∧ Trapped e (s.hub.eng e).pc 9 (code % 1024) s t) ∧
        (∃ t, exec (.bkpt e cleanFetch) s = .next t ∧ Trapped e (s.hub.eng e).pc 10 0 s t) ∧
        (∀ word, (wordLegal word = false →
            ∃ t, exec (.illegalInstruction e word cleanFetch) s = .next t ∧ Trapped e (s.hub.eng e).pc 1 0 s t) ∧
          (wordLegal word = true → exec (.illegalInstruction e word cleanFetch) s = .next s)) ∧
        ((s.hub.eng e).kmode = false → ∃ t, exec (.eret e cleanFetch) s = .next t ∧ Trapped e (s.hub.eng e).pc 2 0 s t)) ∧
      (∀ rd rs1 rs2, Ready s e [rd % 32, rs1 % 32, rs2 % 32] → (s.hub.eng e).kmode = false →
        (∃ t, exec (.wget e rd rs1 rs2 cleanFetch) s = .next t ∧ Trapped e (s.hub.eng e).pc 2 0 s t) ∧
        (∃ t, exec (.wdefer e rd rs1 rs2 cleanFetch) s = .next t ∧ Trapped e (s.hub.eng e).pc 2 0 s t) ∧
        (∀ hi errs lines, ∃ t, exec (.npost e rd rs1 rs2 hi errs lines cleanFetch) s = .next t ∧ Trapped e (s.hub.eng e).pc 2 0 s t)) ∧
      (∀ rd csr, Ready s e [rd % 32] →
        (8 ≤ csr → ∃ t, exec (.csrr e rd csr cleanFetch) s = .next t ∧ Trapped e (s.hub.eng e).pc 1 0 s t) ∧
        (csr < 6 → (s.hub.eng e).kmode = false → ∃ t, exec (.csrr e rd csr cleanFetch) s = .next t ∧ Trapped e (s.hub.eng e).pc 2 0 s t))) ∧
    (∀ code, (s.hub.eng e).exc = true → Ready s e [] →
      ∃ t, exec (.trap e code cleanFetch) s = .next t ∧ HubOnly s t ∧ (t.hub.eng e).phase = .halted ∧ (t.hub.eng e).excCause = 9 ∧
        (t.hub.eng e).excPc = (s.hub.eng e).pc ∧ t.hub.pending (64 + e) = true ∧
        (s.hub.isolatedBlock (.spr e) = false → Block.spr e ∈ t.hub.power.reported) ∧ (∀ j, j ≠ e → t.hub.eng j = s.hub.eng j) ∧
        RegsKeptBut pendRegs s.hub t.hub) ∧
    (∀ code, s.hub.executes s.glob e = true → (s.hub.eng e).waitsFor [] = false → s.fetchBad e = true → (s.hub.eng e).exc = false →
      ∃ t, exec (.trap e code cleanFetch) s = .next t ∧ HubOnly s t ∧ t.hub.pending 45 = true ∧ (t.hub.eng e).ecause = 7 ∧
        (t.hub.eng e).eaddr = (s.hub.eng e).pc ∧ (t.hub.eng e).epc = (s.hub.eng e).pc ∧ (t.hub.eng e).pc = (s.hub.eng e).kvec ∧
        RegsKeptBut ([Reg.LCL_UE, Reg.PMUe_CNT_CTL e] ++ pendRegs) s.hub t.hub) ∧
    (∀ code fetch c, s.hub.executes s.glob e = true → (s.hub.eng e).waitsFor [] = false → (s.hub.eng e).exc = false → c ∈ fetch.broken →
      fetch.missed = [] →
      ∃ t, exec (.trap e code fetch) s = .next t ∧ t.pending = s.pending ∧ t.glob = s.glob ∧
        t.mem = { s.mem with imemBad := t.mem.imemBad } ∧ t.mem.lineBroken (.imem e) ((s.hub.eng e).pc / 32) = true ∧
        t.hub.pending 45 = true ∧ (t.hub.eng e).ecause = 7 ∧ (t.hub.eng e).eaddr = (s.hub.eng e).pc) ∧
    (∀ code fetch, Ready s e [] → (s.hub.eng e).exc = false → fetch.broken = [] → fetch.missed = [] → fetch.fixed = true →
      ∃ t, exec (.trap e code fetch) s = .next t ∧ HubOnly s t ∧ (t.hub.eng e).ecause = 9 ∧
        t.hub.n (Reg.LCL_CNT_CEe e) = satInc 32 (s.hub.n (Reg.LCL_CNT_CEe e))) ∧
    (∀ x b v rd rs1 rs2 n hi op1 op2 op3 errs lines high code word,
      FetchedFirst e s (.scalarAlu e x) ∧ FetchedFirst e s (.branch e b) ∧ FetchedFirst e s (.vectorOp e v) ∧
        FetchedFirst e s (.load e op1 rd rs1 n hi errs lines) ∧ FetchedFirst e s (.store e op2 rd rs1 n hi errs lines) ∧
        FetchedFirst e s (.atomic e op3 rd rs1 rs2 hi lines) ∧ FetchedFirst e s (.wget e rd rs1 rs2) ∧ FetchedFirst e s (.wdone e rs1 rs2) ∧
        FetchedFirst e s (.wpost e rd rs1 rs2 lines) ∧ FetchedFirst e s (.wdefer e rd rs1 rs2) ∧ FetchedFirst e s (.cntrd e rd n high) ∧
        FetchedFirst e s (.fence e n) ∧ FetchedFirst e s (.csrr e rd n) ∧ FetchedFirst e s (.csrw e n rs1) ∧ FetchedFirst e s (.eret e) ∧
        FetchedFirst e s (.trap e code) ∧ FetchedFirst e s (.npost e rd rs1 rs2 hi errs lines) ∧ FetchedFirst e s (.signal e rs1) ∧
        FetchedFirst e s (.bkpt e) ∧ (wordLegal word = false → FetchedFirst e s (.illegalInstruction e word)))

/-- R319 to R321, R333, R337: a load of a local memory, shared SRAM or DRAM issues with what its window holds, one of the register window with what
the register reads; its response writes the register it names or raises its exception at its own address; a store writes exactly its bytes. -/
def Obligations.LoadsAndStoresMoveTheirBytes : Prop :=
  ∀ (s : State) (e : Nat),
    (∀ op rt rb off hi bs, Ready s e [LoadOp.dest op rt, rb % 32] → (s.hub.eng e).loads.length < 16 →
      s.hub.accessCheck e ((s.hub.eng e).addr rb off hi) op.size (op == .lw) = none →
      s.windowHolds e op.size (s.hub.window ((s.hub.eng e).addr rb off hi) op.size) = some bs →
      ∃ t u, AsRead s u ∧ exec (.load e op rt rb off hi [] [] cleanFetch) s = .next t ∧ EngineOnly e u t ∧
        Issued ((s.hub.eng e).addr rb off hi) (LoadOp.dest op rt) (op.value bs) (s.hub.eng e) (t.hub.eng e)) ∧
    (∀ rt rb off hi o d i j, Ready s e [rt % 32, rb % 32] → (s.hub.eng e).loads.length < 16 → (s.hub.eng e).kmode = true →
      s.hub.window ((s.hub.eng e).addr rb off hi) 4 = .reg o → (s.hub.eng e).addr rb off hi % 4 = 0 →
      s.hub.accessAt s.glob (.engine e) o = .ok d i j → (∀ b, Block.ofOffset o = some b → b ∉ s.hub.power.reported) →
      ∃ t, exec (.load e .lw rt rb off hi [] [] cleanFetch) s = .next t ∧ HubOnly s t ∧
        Issued ((s.hub.eng e).addr rb off hi) (rt % 32) (.scalar (BitVec.ofNat 32 (s.hub.view s.glob o))) (s.hub.eng e) (t.hub.eng e)) ∧
    (∀ k l, s.hub.executes s.glob e = true → (s.hub.eng e).loads[k]? = some l →
      ∃ t, exec (.loadResponse e k) s = .next t ∧ (∀ j, j ≠ e → t.hub.eng j = s.hub.eng j) ∧ t.mem = s.mem ∧
        (∀ w, l.data = .scalar w → EngineOnly e s t ∧
          t.hub.eng e = ({ s.hub.eng e with loads := (s.hub.eng e).loads.eraseIdx k } : Engine).setReg l.dest w) ∧
        (∀ w, l.data = .vector w → EngineOnly e s t ∧ (t.hub.eng e).vec (l.dest - 32) = w ∧ (t.hub.eng e).s = (s.hub.eng e).s ∧
          (t.hub.eng e).pc = (s.hub.eng e).pc ∧ (t.hub.eng e).loads = (s.hub.eng e).loads.eraseIdx k) ∧
        ((s.hub.eng e).exc = false →
          (l.data = .error → (t.hub.eng e).ecause = 5 ∧ (t.hub.eng e).eaddr = l.addr ∧ (t.hub.eng e).epc = l.pc ∧
            (t.hub.eng e).s = (s.hub.eng e).s ∧ (t.hub.eng e).pc = (s.hub.eng e).kvec) ∧
          (∀ b, l.data = .poisoned b → (t.hub.eng e).ecause = 6 ∧ (t.hub.eng e).eaddr = b ∧ (t.hub.eng e).epc = l.pc ∧
            (t.hub.eng e).s = (s.hub.eng e).s ∧ (t.hub.eng e).pc = (s.hub.eng e).kvec))) ∧
    (∀ op rt rb off hi bs, Ready s e [StoreOp.source op rt, rb % 32] → bs = op.bytes (s.hub.eng e) rt →
      s.hub.accessCheck e ((s.hub.eng e).addr rb off hi) op.size (op == .sw) = none →
      (∀ o, s.hub.window ((s.hub.eng e).addr rb off hi) op.size = .dmem o → s.mem.rangeBad (.dmem e) o op.size = false →
        ∃ t, exec (.store e op rt rb off hi [] [] cleanFetch) s = .next t ∧ EngineHub e s t ∧
          t.hub.eng e = { s.hub.eng e with pc := ((s.hub.eng e).pc + 4) % 2 ^ 17 } ∧
          CellsWritten (Memory.localBase e + o) bs s.mem.dmem t.mem.dmem ∧ t.mem = { s.mem with dmem := t.mem.dmem, dmemBad := t.mem.dmemBad }) ∧
      (∀ o, s.hub.window ((s.hub.eng e).addr rb off hi) op.size = .imem o → s.mem.rangeBad (.imem e) o op.size = false →
        ∃ t, exec (.store e op rt rb off hi [] [] cleanFetch) s = .next t ∧ EngineHub e s t ∧
          t.hub.eng e = { s.hub.eng e with pc := ((s.hub.eng e).pc + 4) % 2 ^ 17 } ∧
          CellsWritten (Memory.localBase e + o) bs s.mem.imem t.mem.imem ∧ t.mem = { s.mem with imem := t.mem.imem, imemBad := t.mem.imemBad }) ∧
      (∀ o, s.hub.window ((s.hub.eng e).addr rb off hi) op.size = .sram o → s.mem.rangeBad .sram o op.size = false → s.hub.sramRefuses o = false →
        s.hub.sramRefused (s.hub.engineSecure e) true o op.size = false →
        ∃ t u, AsRead s u ∧ exec (.store e op rt rb off hi [] [] cleanFetch) s = .next t ∧
          EngineHub e { u with hub := (u.hub.linesWritten o op.size).itemsStored t.mem o op.size } t ∧
          t.hub.eng e = { s.hub.eng e with pc := ((s.hub.eng e).pc + 4) % 2 ^ 17 } ∧
          CellsWritten o bs s.mem.sram t.mem.sram ∧
          t.mem = { s.mem with sram := t.mem.sram, sramBad := t.mem.sramBad, stored := t.mem.stored }) ∧
      (∀ o, s.hub.window ((s.hub.eng e).addr rb off hi) op.size = .dram o → s.hub.dramRefuses o = false →
        s.hub.dramRefused s.mem (s.hub.engineSecure e) true o op.size = none →
        ∃ t, exec (.store e op rt rb off hi [] [] cleanFetch) s = .next t ∧ EngineHub e s t ∧
          t.hub.eng e = { s.hub.eng e with pc := ((s.hub.eng e).pc + 4) % 2 ^ 17 } ∧
          CellsWritten o bs s.mem.dram t.mem.dram ∧ t.mem = { s.mem with dram := t.mem.dram, tags := t.mem.tags }) ∧
      (∀ o, s.hub.window ((s.hub.eng e).addr rb off hi) op.size = .dram o → s.hub.dramRefuses o = true →
        ∃ t, exec (.store e op rt rb off hi [] [] cleanFetch) s = .next t ∧ EngineOnly e s t ∧ (t.hub.eng e).lost = (s.hub.eng e).lost + 1)) ∧
    (e < 24 → 0 < (s.hub.eng e).lost →
      ∃ t, exec (.storeErrorResponse e) s = .next t ∧ HubOnly s t ∧ RegsKeptBut pendRegs s.hub t.hub ∧
        (t.hub.eng e).sterr = satInc 16 (s.hub.eng e).sterr ∧ (t.hub.eng e).told = true ∧ (t.hub.eng e).lost = (s.hub.eng e).lost - 1 ∧
        ((s.hub.eng e).told = false → t.hub.pending (64 + e) = true))

/-- R335: an atomic on shared SRAM gives the old word to rd and leaves the new one in its place, in one step; a CAS that finds another word writes
nothing; one that is not aligned raises ECAUSE 0x03, and one to another window ECAUSE 0x04.
(That an atomic in U mode to the register window raises ECAUSE 0x02, and that an error answer of the SRAM raises ECAUSE 0x06, are the model's reading, log entry 36.) -/
def Obligations.AtomicsActInOneStep : Prop :=
  (∀ (s : State) (e : Nat) (op : AmoOp) (rd rs1 rs2 hi o : Nat) (old : Word), Ready s e [rd % 32, rs1 % 32, rs2 % 32] →
    s.hub.window ((s.hub.eng e).addr rs1 0 hi) 4 = .sram o → old = BitVec.ofNat 32 (ofLe (s.hub.sramSeen s.mem o 4)) →
    ((s.hub.eng e).addr rs1 0 hi % 4 = 0 → s.hub.sramRefused (s.hub.engineSecure e) true o 4 = false →
      s.hub.sramRefused (s.hub.engineSecure e) false o 4 = false → s.hub.sramRefuses o = false → s.mem.rangeBad .sram o 4 = false →
      (∀ new, op.store old ((s.hub.eng e).reg rs2) ((s.hub.eng e).reg rd) = some new →
        ∃ t u, AsRead s u ∧ exec (.atomic e op rd rs1 rs2 hi [] cleanFetch) s = .next t ∧
          EngineHub e { u with hub := (u.hub.linesWritten o 4).itemsStored t.mem o 4 } t ∧
          Wrote rd old (s.hub.eng e) (t.hub.eng e) ∧ CellsWritten o (leBytes 4 new.toNat) s.mem.sram t.mem.sram ∧
          t.mem = { s.mem with sram := t.mem.sram, sramBad := t.mem.sramBad, stored := t.mem.stored }) ∧
      (op.store old ((s.hub.eng e).reg rs2) ((s.hub.eng e).reg rd) = none →
        ∃ t u, AsRead s u ∧ exec (.atomic e op rd rs1 rs2 hi [] cleanFetch) s = .next t ∧ EngineOnly e u t ∧ Wrote rd old (s.hub.eng e) (t.hub.eng e))) ∧
    ((s.hub.eng e).addr rs1 0 hi % 4 ≠ 0 → (s.hub.eng e).exc = false →
      ∃ t, exec (.atomic e op rd rs1 rs2 hi [] cleanFetch) s = .next t ∧
        Trapped e (s.hub.eng e).pc 3 ((s.hub.eng e).addr rs1 0 hi) s t)) ∧
  (∀ (s : State) (e : Nat) (op : AmoOp) (rd rs1 rs2 hi : Nat) (w : Window), Ready s e [rd % 32, rs1 % 32, rs2 % 32] →
    w = s.hub.window ((s.hub.eng e).addr rs1 0 hi) 4 → (∀ o, w ≠ .sram o) → (w.kernelOnly = false ∨ (s.hub.eng e).kmode = true) →
    (s.hub.eng e).exc = false →
    ∃ t, exec (.atomic e op rd rs1 rs2 hi [] cleanFetch) s = .next t ∧ Trapped e (s.hub.eng e).pc 4 ((s.hub.eng e).addr rs1 0 hi) s t) ∧
  (∀ x y, AmoOp.store .add x y 0 = some (x + y) ∧ AmoOp.store .swap x y 0 = some y ∧ AmoOp.store .and x y 0 = some (x &&& y) ∧
    AmoOp.store .or x y 0 = some (x ||| y) ∧ (∀ z, AmoOp.store .cas x x z = some z) ∧ (∀ z, x ≠ y → AmoOp.store .cas x y z = none))

/-- R318, R322, R324: a vector operation writes the elements that its predicate enables, each with its result or, where the manual states none, some
value, and leaves the others; an operation on masks writes a mask alone, and an illegal field raises ECAUSE 0x01. A VLUT whose entries lie in a line with a
double error raises ECAUSE 0x06 (R337). (Where a reduction stands, what a CRC takes in, and where and how VUNPK and VPACK place and scale channels are the
model's choices, log entry 36.) -/
def Obligations.VectorOperationsWriteEnabledElements : Prop :=
  ∀ (s : State) (e : Nat) (i : VecInstr), Ready s e i.regs →
    (i.illegal = false → i.op.writesMask = false → i.op ≠ .ktos → i.lutBad (s.hub.eng e) e s.mem = none →
      ∃ t, exec (.vectorOp e i cleanFetch) s = .next t ∧ EngineOnly e s t ∧ (t.hub.eng e).pc = ((s.hub.eng e).pc + 4) % 2 ^ 17 ∧
        (t.hub.eng e).s = (s.hub.eng e).s ∧ (t.hub.eng e).k = (s.hub.eng e).k ∧
        (∀ r, r % 16 ≠ i.vd % 16 → (t.hub.eng e).vec r = (s.hub.eng e).vec r) ∧
        (∀ j, j < i.count → i.writes (s.hub.eng e) j = false →
          elemOf i.width ((t.hub.eng e).vec i.vd) j = elemOf i.width ((s.hub.eng e).vec i.vd) j) ∧
        (∀ j v, j < i.count → i.writes (s.hub.eng e) j = true →
          elemResult i.op i.width (elemOf i.width ((s.hub.eng e).vec i.vs1) j) (i.second (s.hub.eng e) j)
            (elemOf i.width ((s.hub.eng e).vec i.vd) j) = some v →
          elemOf i.width ((t.hub.eng e).vec i.vd) j = v % 2 ^ i.width) ∧
        (∀ j v, j < i.count → i.writes (s.hub.eng e) j = true →
          elemResult i.op i.width (elemOf i.width ((s.hub.eng e).vec i.vs1) j) (i.second (s.hub.eng e) j)
            (elemOf i.width ((s.hub.eng e).vec i.vd) j) = none → i.wideElem (s.hub.eng e) e s.mem j = some v →
          elemOf i.width ((t.hub.eng e).vec i.vd) j = v % 2 ^ i.width)) ∧
    (∀ a, i.illegal = false → i.lutBad (s.hub.eng e) e s.mem = some a → (s.hub.eng e).exc = false →
      ∃ t, exec (.vectorOp e i cleanFetch) s = .next t ∧ HubOnly s t ∧ (t.hub.eng e).ecause = 6 ∧ (t.hub.eng e).eaddr = (0x20000 + a) / 64 * 64 ∧
        (t.hub.eng e).v = (s.hub.eng e).v ∧ t.hub.pending 45 = true) ∧
    (i.illegal = false → i.op.writesMask = true →
      ∃ t, exec (.vectorOp e i cleanFetch) s = .next t ∧ EngineOnly e s t ∧ (t.hub.eng e).pc = ((s.hub.eng e).pc + 4) % 2 ^ 17 ∧
        (t.hub.eng e).s = (s.hub.eng e).s ∧ (t.hub.eng e).v = (s.hub.eng e).v ∧
        (∀ r, r % 4 ≠ i.vd % 4 → (t.hub.eng e).mask r = (s.hub.eng e).mask r) ∧
        (∀ j, j < 64 → i.writes (s.hub.eng e) j = false → bitOf ((t.hub.eng e).mask i.vd) j = bitOf ((s.hub.eng e).mask i.vd) j) ∧
        (∀ j v, j < 64 → i.writes (s.hub.eng e) j = true → maskResult i (s.hub.eng e) j = some v →
          bitOf ((t.hub.eng e).mask i.vd) j = v)) ∧
    (i.illegal = false → i.op = .ktos → i.ew ≠ 0 →
      ∃ t, exec (.vectorOp e i cleanFetch) s = .next t ∧ EngineOnly e s t ∧
        Wrote i.vd (BitVec.ofNat 32 ((s.hub.eng e).mask i.vs1)) (s.hub.eng e) (t.hub.eng e)) ∧
    (i.illegal = true → (s.hub.eng e).exc = false →
      ∃ t, exec (.vectorOp e i cleanFetch) s = .next t ∧ Trapped e (s.hub.eng e).pc 1 0 s t)

/-- R326, R327, R329: WGET waits for an item; WDONE ends the held item, which leaves Col and completes its WORK_POST with the status; WDEFER parks it,
or returns why it did not; and a wrong item ID raises ECAUSE 0x08. R328, R331, R345: WPOST adds its descriptor to the level as an item whose ID it
returns, and NPOST its frame to the transmit queue; each returns 0x8000_0000 + status where it is refused, and then posts nothing. -/
def Obligations.EnginesTakeReturnAndPostItems : Prop :=
  (∀ (s : State) (e : Nat), (s.hub.eng e).kmode = true →
      (∀ rd rs1 rs2, Ready s e [rd % 32, rs1 % 32, rs2 % 32] →
        ((s.hub.eng e).item = none → s.hub.descriptorTrap ((s.hub.eng e).n rs1) = none →
          exec (.wget e rd rs1 rs2 cleanFetch) s = .next { s with hub := { s.hub.setEng e { s.hub.eng e with phase := .waiting } with
            col := { s.hub.col with waiters := s.hub.col.waiters ++
              [{ engine := e, mask := (s.hub.eng e).n rs2 % 256, addr := (s.hub.eng e).n rs1 - 0x20000, rd := rd % 32
                 since := s.hub.clock }] } } }) ∧
        ((s.hub.eng e).item.isSome = true → (s.hub.eng e).exc = false →
          ∃ t, exec (.wget e rd rs1 rs2 cleanFetch) s = .next t ∧ Trapped e (s.hub.eng e).pc 8 ((s.hub.eng e).n rs1) s t)) ∧
      (∀ rs1 rs2 i, Ready s e [rs1 % 32, rs2 % 32] → (s.hub.eng e).loads = [] →
        ((s.hub.eng e).item = some ((s.hub.eng e).n rs1) → (s.hub.fifo 6).length < 16 → s.hub.runningItem e = some i →
          ∃ t, exec (.wdone e rs1 rs2 cleanFetch) s = .next t ∧ t.pending = s.pending ∧ t.glob = s.glob ∧ t.mem = s.mem ∧
            t.hub.eng e = { s.hub.eng e with item := none, pc := ((s.hub.eng e).pc + 4) % 2 ^ 17 } ∧
            (∀ j, j ≠ e → t.hub.eng j = s.hub.eng j) ∧ t.hub.col.items = s.hub.col.items.filter (fun x => x.slot != i.slot) ∧
            (∀ q tag, i.owner = some (q, tag) → (s.hub.desc q tag).isSome = true →
              Answered q tag (doneStatus ((s.hub.eng e).n rs2)) (leBytes 4 (s.hub.itemId i.slot)) s.hub t.hub)) ∧
        ((s.hub.eng e).item ≠ some ((s.hub.eng e).n rs1) → (s.hub.eng e).exc = false →
          ∃ t, exec (.wdone e rs1 rs2 cleanFetch) s = .next t ∧ Trapped e (s.hub.eng e).pc 8 ((s.hub.eng e).n rs1) s t)) ∧
      (∀ v, v < 12 → v ≠ 10 → doneStatus v = v) ∧ doneStatus 10 = Status.invalid ∧ (∀ v, 12 ≤ v → v < 256 → doneStatus v = Status.invalid) ∧
      (∀ rd rs1 rs2 i, Ready s e [rd % 32, rs1 % 32, rs2 % 32] → (s.hub.eng e).loads = [] → s.hub.runningItem e = some i →
        (s.hub.eng e).item = some ((s.hub.eng e).n rs1) → s.hub.serving .col = true →
        (∀ l d, l = fieldOf ((s.hub.eng e).n rs2) 31 30 → d = fieldOf ((s.hub.eng e).n rs2) 29 0 → 0 < d → d ≤ 16777215 →
          s.hub.talusParked l < s.hub.f (Reg.COL_TALUSt_CTL l) 26 16 →
          ∃ t, exec (.wdefer e rd rs1 rs2 cleanFetch) s = .next t ∧ HubOnly s t ∧ RegsKeptBut [Reg.PMUe_CNT_CTL e] s.hub t.hub ∧
            Wrote rd 0 { s.hub.eng e with item := none } (t.hub.eng e) ∧
            t.hub.col.items = s.hub.col.items.filter (fun x => x.slot != i.slot) ++ [{ i with place := .parked l (s.hub.talusExpiry l d) }]) ∧
        (fieldOf ((s.hub.eng e).n rs2) 29 0 = 0 →
          ∃ t, exec (.wdefer e rd rs1 rs2 cleanFetch) s = .next t ∧ EngineOnly e s t ∧
            Wrote rd (BitVec.ofNat 32 (0x80000000 + Status.invalid)) (s.hub.eng e) (t.hub.eng e)))) ∧
  (∀ (s : State) (e rd rs1 rs2 : Nat), Ready s e [rd % 32, rs1 % 32, rs2 % 32] → (s.hub.eng e).loads = [] →
      (∀ o l body, s.hub.descriptorTrap ((s.hub.eng e).n rs1) = none → o = (s.hub.eng e).n rs1 - 0x20000 →
        s.mem.rangeBad (.dmem e) o 32 = false → body = Memory.bytesOf s.mem.dmem (Memory.localBase e + o) 32 → l = (s.hub.eng e).n rs2 →
        (8 ≤ l → s.hub.serving .col = true → ∃ t, exec (.wpost e rd rs1 rs2 [] cleanFetch) s = .next t ∧ EngineOnly e s t ∧
          Wrote rd (BitVec.ofNat 32 (0x80000000 + Status.invalid)) (s.hub.eng e) (t.hub.eng e)) ∧
        (s.hub.serving .col = false → ∃ t, exec (.wpost e rd rs1 rs2 [] cleanFetch) s = .next t ∧ EngineOnly e s t ∧
          Wrote rd (BitVec.ofNat 32 (0x80000000 + Status.aborted)) (s.hub.eng e) (t.hub.eng e)) ∧
        (l < 8 → s.hub.serving .col = true → itemValid body = false →
          ∃ t, exec (.wpost e rd rs1 rs2 [] cleanFetch) s = .next t ∧ HubOnly s t ∧ t.hub.col.items = s.hub.col.items ∧
            RegsKeptBut [Reg.PMUe_CNT_CTL e] s.hub t.hub ∧
            Wrote rd (BitVec.ofNat 32 (0x80000000 + Status.invalid)) (s.hub.eng e) (t.hub.eng e)) ∧
        (∀ h, h = s.hub.colEvent (rankPost true e) false → l < 8 → s.hub.serving .col = true → itemValid body = true → (s.hub.levelSecure l && !s.hub.engineSecure e) = false →
          (h.postRefused l = true →
            ∃ t, exec (.wpost e rd rs1 rs2 [] cleanFetch) s = .next t ∧ HubOnly s t ∧ t.hub.col.items = s.hub.col.items ∧
              Wrote rd (BitVec.ofNat 32 (0x80000000 + Status.refused)) (s.hub.eng e) (t.hub.eng e) ∧
              t.hub.f (Reg.COL_LVLl_CNT_REFUSE l) 30 0 = satInc 31 (s.hub.f (Reg.COL_LVLl_CNT_REFUSE l) 30 0) ∧
              RegsKeptBut ([Reg.COL_LVLl_CNT_REFUSE l, Reg.PMUe_CNT_CTL e] ++ pendRegs) s.hub t.hub) ∧
          (h.postRefused l = false →
            ∃ t i, exec (.wpost e rd rs1 rs2 [] cleanFetch) s = .next t ∧ t.pending = s.pending ∧ t.glob = s.glob ∧
              t.mem = { s.mem with sramBad := t.mem.sramBad } ∧ t.hub.col.items = s.hub.col.items ++ [i] ∧
              i.level = l ∧ i.body = body ∧ i.engine = true ∧ i.source = e ∧ i.place = .waiting s.hub.col.fclk ∧ i.owner = none ∧
              (∀ x ∈ s.hub.col.items, x.slot ≠ i.slot) ∧ i.slot < 4096 ∧
              Wrote rd (BitVec.ofNat 32 (s.hub.itemId i.slot)) (s.hub.eng e) (t.hub.eng e) ∧
              t.hub.f (Reg.COL_LVLl_CNT_POST l) 30 0 = satInc 31 (s.hub.f (Reg.COL_LVLl_CNT_POST l) 30 0) ∧
              RegsKeptBut ([Reg.COL_LVLl_CNT_POST l, Reg.PMUe_CNT_CTL e] ++ pendRegs) s.hub t.hub))) ∧
      (∀ hi a v n sub q, (s.hub.eng e).kmode = true → a = (s.hub.eng e).addr rs1 0 hi → a % 64 = 0 → v = (s.hub.eng e).n rs2 → n = fieldOf v 12 11 →
        sub = fieldOf v 14 13 → q = fieldOf v 17 15 → (∃ o, s.hub.window a 1 = .sram o ∨ s.hub.window a 1 = .dram o) → npostFields v = true →
        s.hub.serving (.net n) = true → s.hub.hasSub n sub = true →
        ((Sparse.get [] (s.hub.subPort n sub).txq q).length < 64 → ∀ frame,
          s.windowHolds e (fieldOf v 10 0) (s.hub.window a (fieldOf v 10 0)) = some frame →
          ∃ t u, AsRead s u ∧ exec (.npost e rd rs1 rs2 hi [] [] cleanFetch) s = .next t ∧ HubOnly u t ∧ RegsKeptBut [Reg.PMUe_CNT_CTL e] s.hub t.hub ∧
            Sparse.get [] (t.hub.subPort n sub).txq q = Sparse.get [] (s.hub.subPort n sub).txq q ++ [.posted frame] ∧
            (∀ j, j ≠ q → Sparse.get [] (t.hub.subPort n sub).txq j = Sparse.get [] (s.hub.subPort n sub).txq j) ∧
            Wrote rd 0 (s.hub.eng e) (t.hub.eng e)) ∧
        (64 ≤ (Sparse.get [] (s.hub.subPort n sub).txq q).length →
          ∃ t, exec (.npost e rd rs1 rs2 hi [] [] cleanFetch) s = .next t ∧ EngineOnly e s t ∧
            Wrote rd (BitVec.ofNat 32 (0x80000000 + Status.refused)) (s.hub.eng e) (t.hub.eng e))))

/-- R318, R338, R339, R379: EN going to 1 loads the image, which then starts at ENTRY in K mode or fails with its event; EN going to 0 ends the
engine's work and keeps its memories; a failed self-test of a STANDBY isolates the engine. -/
def Obligations.EnginesStartStopAndLoad : Prop :=
  ∀ (s : State) (e : Nat), e < 24 →
    (∀ who reload d i j, s.hub.quietTo who = true → 4 ≤ e → s.hub.accessAt s.glob who (Reg.SPRe_CTL e) = .ok d i j → d.cls = .f →
      (s.hub.bit (Reg.SPRe_CTL e) 0 = false →
        ∃ t, exec (.engineStart who e reload) s = .next t ∧ HubOnly s t ∧ RegsKeptBut [Reg.SPRe_CTL e] s.hub t.hub ∧
          t.hub.bit (Reg.SPRe_CTL e) 0 = true ∧ t.hub.bit (Reg.SPRe_CTL e) 1 = reload ∧
          t.hub.eng e = { (s.hub.eng e).kept with phase := EngPhase.allowed s.glob .loading } ∧ (∀ k, k ≠ e → t.hub.eng k = s.hub.eng k)) ∧
      (s.hub.bit (Reg.SPRe_CTL e) 0 = true →
        ∃ t, exec (.engineStop who e reload) s = .next t ∧ t.pending = s.pending ∧ t.glob = s.glob ∧ t.mem = s.mem ∧
          t.hub.bit (Reg.SPRe_CTL e) 0 = false ∧ t.hub.eng e = { (s.hub.eng e).kept with phase := EngPhase.allowed s.glob .off } ∧ (∀ k, k ≠ e → t.hub.eng k = s.hub.eng k) ∧
          (∀ w ∈ t.hub.col.waiters, w.engine ≠ e) ∧
          (∀ x, s.hub.runningItem e = some x → t.hub.col.items = s.hub.col.items.filter (fun y => y.slot != x.slot)) ∧
          RegsKeptBut (Reg.SPRe_CTL e :: pendRegs) s.hub t.hub)) ∧
    ((s.hub.eng e).phase = .loading → s.glob.safe = false → s.hub.serving (.spr e) = true →
      (s.hub.imgRange e = true →
        ∃ t, exec (.engineImageLoaded e []) s = .next t ∧ HubOnly s t ∧ (t.hub.eng e).phase = .failed ∧ t.hub.pending (64 + e) = true ∧
          RegsKeptBut pendRegs s.hub t.hub) ∧
      (∀ code data, s.hub.imgRange e = false →
        s.hub.dramRefused s.mem (s.hub.engineSecure e) false (s.hub.imgAddr e) (s.hub.imgCode e) = none →
        s.hub.dramRefused s.mem (s.hub.engineSecure e) false (s.hub.imgDataAddr e) (s.hub.imgData e) = none →
        s.mem.poisoned (s.hub.imgAddr e) (s.hub.imgCode e) = false → s.mem.poisoned (s.hub.imgDataAddr e) (s.hub.imgData e) = false →
        code = s.mem.dramBytes (s.hub.imgAddr e) (s.hub.imgCode e) → data = s.mem.dramBytes (s.hub.imgDataAddr e) (s.hub.imgData e) →
        ∃ t, exec (.engineImageLoaded e []) s = .next t ∧ t.pending = s.pending ∧ t.glob = s.glob ∧ RegsKeptBut [] s.hub t.hub ∧
          (t.hub.eng e).phase = .running ∧ (t.hub.eng e).pc = s.hub.imgEntry e ∧ (t.hub.eng e).kvec = s.hub.imgEntry e ∧
          (t.hub.eng e).kmode = true ∧ (∀ r, (t.hub.eng e).reg r = 0) ∧ (t.hub.eng e).restart = false ∧
          (∀ a, a < s.hub.imgCode e → Sparse.get Memory.blank t.mem.imem (Memory.localBase e + a) = code.getD a 0) ∧
          (∀ a, a < 0x20000 → Sparse.get Memory.blank t.mem.dmem (Memory.localBase e + a) = data.getD a 0) ∧
          t.mem.dram = s.mem.dram ∧ t.mem.sram = s.mem.sram)) ∧
    (s.hub.saddle.role = .standby → s.hub.f Reg.SDL_CTL 23 16 ≠ 0 → 4 ≤ e →
      exec (.engineBist e false) s = .next s ∧
      ∃ t, exec (.engineBist e true) s = .next t ∧ t.mem = s.mem ∧ t.pending = s.pending ∧ t.glob = s.glob ∧ t.hub.pending 90 = true ∧
        Block.spr e ∈ t.hub.power.isolated ∧ t.hub.saddle.bistFailed = true ∧
        t.hub.f Reg.SDL_CNT_BIST 30 0 = satInc 31 (s.hub.f Reg.SDL_CNT_BIST 30 0))

/-! ## Col (spec/14_col_dispatcher.md) -/

/-- R342, R344, R345, R348, R349, R355, R357: a host's post joins its level as an item in a free slot and its descriptor waits, or it is refused with
its status; a cancelled queued item leaves and its WORK_POST completes ABORTED; a grant gives the oldest item of the level to the engine that has
waited longest, with its descriptor; and an expired item goes to the tail of its level.
(The model's, log entry 38: which free slot a post takes is open, WORK_POST returns the ID with every status, WORK_CANCEL answers DENIED before NOT_PRESENT, the item
longest overdue expires first, and the commands' order is that of the events of an FCLK cycle.) -/
def Obligations.ItemsArePostedGrantedAndReturned : Prop :=
  ∀ (s : State), s.hub.serving .col = true →
    (∀ q tag d l body, Fetched s q tag 0x20 d → l = d.op 16 1 → body = (d.bytes.drop 32).take 32 →
      (7 < l → BecomesAnswering (.workPost q tag) s s.hub q tag Status.invalid []) ∧
      (l ≤ 7 → itemValid body = false → BecomesAnswering (.workPost q tag) s (s.hub.colEvent (rankPost false q) false) q tag Status.invalid []) ∧
      (l ≤ 7 → itemValid body = true → s.hub.levelSecure l = true → d.secure = false →
        BecomesAnswering (.workPost q tag) s ((s.hub.colEvent (rankPost false q) false).count (Reg.COL_LVLl_CNT_REFUSE l) 31) q tag Status.denied []) ∧
      (l ≤ 7 → itemValid body = true → (s.hub.levelSecure l = true → d.secure = true) → (s.hub.colEvent (rankPost false q) false).postRefused l = true →
        ∃ t, exec (.workPost q tag) s = .next t ∧ HubOnly s t ∧ Answered q tag Status.refused [] s.hub t.hub ∧
          t.hub.col.items = s.hub.col.items ∧ RegsKeptBut (Reg.COL_LVLl_CNT_REFUSE l :: pendRegs) s.hub t.hub ∧
          t.hub.f (Reg.COL_LVLl_CNT_REFUSE l) 30 0 = satInc 31 (s.hub.f (Reg.COL_LVLl_CNT_REFUSE l) 30 0)) ∧
      (l ≤ 7 → itemValid body = true → (s.hub.levelSecure l = true → d.secure = true) → (s.hub.colEvent (rankPost false q) false).postRefused l = false →
        ∃ t i, exec (.workPost q tag) s = .next t ∧ t.pending = s.pending ∧ t.glob = s.glob ∧ t.mem = { s.mem with sramBad := t.mem.sramBad } ∧ RegsKeptBut (Reg.COL_LVLl_CNT_POST l :: pendRegs) s.hub t.hub ∧
          t.hub.f (Reg.COL_LVLl_CNT_POST l) 30 0 = satInc 31 (s.hub.f (Reg.COL_LVLl_CNT_POST l) 30 0) ∧
          t.hub.col.items = s.hub.col.items ++ [i] ∧ i.level = l ∧ i.body = body ∧ i.engine = false ∧ i.source = q ∧
          i.owner = some (q, tag) ∧ i.place = .waiting s.hub.col.fclk ∧ i.slot < 4096 ∧ (∀ x ∈ s.hub.col.items, x.slot ≠ i.slot) ∧
          (∃ d', t.hub.desc q tag = some d' ∧ d'.phase = .waiting) ∧ t.hub.col.gens = s.hub.col.gens)) ∧
    (∀ q tag d, Fetched s q tag 0x21 d →
      (s.hub.itemOf (d.op 16 4) = none → BecomesAnswering (.workCancel q tag) s (s.hub.colEvent rankCancel false) q tag Status.notPresent []) ∧
      (∀ i, s.hub.itemOf (d.op 16 4) = some i → s.hub.levelSecure i.level = true → d.secure = false →
        BecomesAnswering (.workCancel q tag) s (s.hub.colEvent rankCancel false) q tag Status.denied []) ∧
      (∀ i e, s.hub.itemOf (d.op 16 4) = some i → (s.hub.levelSecure i.level = true → d.secure = true) → i.place = .running e →
        BecomesAnswering (.workCancel q tag) s (s.hub.colEvent rankCancel false) q tag Status.notPresent []) ∧
      (∀ i, s.hub.itemOf (d.op 16 4) = some i → (s.hub.levelSecure i.level = true → d.secure = true) → i.queued = true → i.owner = none →
        ∃ t, exec (.workCancel q tag) s = .next t ∧ HubOnly s t ∧ Answered q tag Status.ok [] s.hub t.hub ∧
          t.hub.col.items = s.hub.col.items.filter (fun x => x.slot != i.slot) ∧
          Sparse.get 0 t.hub.col.gens i.slot = (Sparse.get 0 s.hub.col.gens i.slot + 1) % 2 ^ 19 ∧
          t.hub.f Reg.COL_CNT_CANCEL 30 0 = satInc 31 (s.hub.f Reg.COL_CNT_CANCEL 30 0) ∧
          RegsKeptBut (Reg.COL_CNT_CANCEL :: pendRegs) s.hub t.hub) ∧
      (∀ i q' tag', s.hub.itemOf (d.op 16 4) = some i → (s.hub.levelSecure i.level = true → d.secure = true) → i.queued = true →
        i.owner = some (q', tag') → q' ≠ q → (s.hub.desc q' tag').isSome = true →
        ∃ t, exec (.workCancel q tag) s = .next t ∧ HubOnly s t ∧ Answered q tag Status.ok [] s.hub t.hub ∧
          Answered q' tag' Status.aborted (leBytes 4 (s.hub.itemId i.slot)) s.hub t.hub ∧
          t.hub.col.items = s.hub.col.items.filter (fun x => x.slot != i.slot))) ∧
    (∀ l i w, s.glob.safe = false → s.hub.power.state = 0 → hadBoth s.hub.clock s.hub.col.grants = false → s.hub.grantLevel = some l → s.hub.col.items.find? (fun i => i.level == l && i.isWaiting) = some i →
      s.hub.col.waiters.find? (fun w => s.hub.accepts w l) = some w → w.engine < 24 →
      (s.mem.sramBroken (itemLine i.slot) = false → s.mem.lineBroken .sram (itemLine i.slot) = false → ∃ t, exec (.colGrant cleanFetch) s = .next t ∧ t.pending = s.pending ∧ t.glob = s.glob ∧
        RegsKeptBut [Reg.PMUe_CNT_CTL w.engine] s.hub t.hub ∧
        t.hub.col.items = s.hub.col.items.filter (fun x => x.slot != i.slot) ++ [{ i with place := .running w.engine }] ∧
        t.hub.col.waiters = s.hub.col.waiters.erase w ∧ (t.hub.eng w.engine).phase = .running ∧
        (t.hub.eng w.engine).item = some (s.hub.itemId i.slot) ∧ (∀ j, j ≠ w.engine → t.hub.eng j = s.hub.eng j) ∧
        Wrote w.rd (BitVec.ofNat 32 (s.hub.itemId i.slot))
          { s.hub.eng w.engine with phase := .running, item := some (s.hub.itemId i.slot) } (t.hub.eng w.engine) ∧
        t.mem = { s.mem.writeDmem w.engine w.addr i.delivered with sramBad := t.mem.sramBad } ∧ t.mem.dram = s.mem.dram ∧ t.mem.sram = s.mem.sram ∧
        t.mem.imem = s.mem.imem) ∧
      (∀ err c, c ∈ err.broken → err.missed = [] → ∃ t, exec (.colGrant err) s = .next t ∧ t.pending = s.pending ∧ t.glob = s.glob ∧
        t.mem = { s.mem with sramBad := t.mem.sramBad } ∧ t.mem.sramBroken (itemLine i.slot) = true ∧ t.hub.col.items = s.hub.col.items.filter (fun x => x.slot != i.slot) ∧
        t.hub.col.waiters = s.hub.col.waiters ∧ t.hub.f Reg.COL_CNT_POISON 30 0 = satInc 31 (s.hub.f Reg.COL_CNT_POISON 30 0) ∧
        t.hub.pending 44 = true ∧ t.hub.pending (56 + l) = true ∧
        (∀ q tag, i.owner = some (q, tag) → (s.hub.desc q tag).isSome = true →
          Answered q tag Status.uncorrectable (leBytes 4 (s.hub.itemId i.slot)) s.hub t.hub) ∧
        RegsKeptBut ([Reg.SRAM_UE, Reg.COL_CNT_POISON] ++ pendRegs) s.hub t.hub)) ∧
    ((s.hub.grantLevel = none ∨ s.hub.power.state ≠ 0 ∨ hadBoth s.hub.clock s.hub.col.grants = true) → ∀ line, exec (.colGrant line) s = .next s) ∧
    (∀ i, s.hub.power.state = 0 → hadBoth s.hub.clock s.hub.col.returns = false → s.hub.nextReturn = some i →
      ∃ t, exec (.talusExpiry []) s = .next t ∧ HubOnly s t ∧ RegsKeptBut [] s.hub t.hub ∧
        t.hub.col.items = s.hub.col.items.filter (fun x => x.slot != i.slot) ++ [{ i with deferred := true, place := .waiting s.hub.col.fclk }] ∧
        t.hub.col.waiters = s.hub.col.waiters ∧ t.hub.col.gens = s.hub.col.gens) ∧
    ((s.hub.nextReturn = none ∨ s.hub.power.state ≠ 0 ∨ hadBoth s.hub.clock s.hub.col.returns = true) → exec (.talusExpiry []) s = .next s)

/-! ## Pairing (spec/15_pairing.md) -/

/-- R363, R377: QUERY answers role and health; enabling needs the link and, on an unpaired hub whose partner is not one of a pair, makes PAIR_ID 0
ACTIVE, which then owes a full copy of every class, and PAIR_ID 1 SYNCING; disabling and an allowed request wait for the boundary, and another request is a
CONFLICT. While the Saddle block has faulted or is isolated each ends ABORTED. (That a request waits for the boundary as a descriptor and is told to the
partner at once, and that PAIR_CTRL is work of the Saddle block, are the model's reading, log entry 39, and so are the statuses of REQUEST
in each role, and SYNCING beside a partner that is STANDBY; ABORTED of a faulted block is its choice, log entry 20.) -/
def Obligations.PairControlAnswersOrWaits : Prop :=
  ∀ (s : State) (q tag action : Nat) (d : Desc) (res : List Byte), Fetched s q tag 0x90 d → d.op 16 1 = action →
    res = leBytes 1 s.hub.saddle.role.code ++ leBytes 1 s.hub.saddle.pHealth →
    (s.hub.serving .sdl = false → ∀ c opposed, (action = 0 ∧ c = Instr.pairQuery q tag ∨ action = 1 ∧ c = Instr.pairEnable q tag ∨
        action = 2 ∧ c = Instr.pairDisable q tag ∨ action = 3 ∧ c = Instr.requestActive q tag opposed ∨
        action = 4 ∧ c = Instr.requestStandby q tag opposed) → BecomesAnswering c s s.hub q tag Status.aborted []) ∧
    (s.hub.serving .sdl = true →
    (action = 0 → BecomesAnswering (.pairQuery q tag) s s.hub q tag Status.ok res) ∧
    (action = 1 → s.hub.saddle.link = false → BecomesAnswering (.pairEnable q tag) s s.hub q tag Status.notPresent res) ∧
    (action = 1 → s.hub.saddle.link = true → s.hub.saddle.role ≠ .unpaired →
      BecomesAnswering (.pairEnable q tag) s s.hub q tag Status.ok res) ∧
    (∀ r, action = 1 → s.hub.saddle.link = true → s.hub.saddle.role = .unpaired →
      (s.hub.saddle.pRole < 2 ∧ s.glob.straps.pairId = false ∧ r = .active ∨
        (2 ≤ s.hub.saddle.pRole ∨ s.glob.straps.pairId = true) ∧ r = .syncing) →
      (r = .syncing → ∀ x ∈ (s.hub.sq q).inflight, x.phase = .fetched → x = d) →
      ∃ t, exec (.pairEnable q tag) s = .next t ∧ HubOnly s t ∧ RegsKeptBut pendRegs s.hub t.hub ∧ t.hub.saddle.role = r ∧
        t.hub.saddle.left = false ∧ t.hub.pending 89 = true ∧ (r = .active → t.hub.saddle.dirty = List.range 524288 ∧ t.hub.saddle.copied = []) ∧
        Answered q tag Status.ok (leBytes 1 r.code ++ leBytes 1 s.hub.saddle.pHealth) s.hub t.hub) ∧
    (action = 2 → s.hub.saddle.role = .unpaired → BecomesAnswering (.pairDisable q tag) s s.hub q tag Status.ok res) ∧
    (∀ c opposed, (action = 2 ∧ s.hub.saddle.role ≠ .unpaired ∧ c = Instr.pairDisable q tag ∨
        action = 3 ∧ s.hub.saddle.role = .standby ∧ s.hub.saddle.current = true ∧ (opposed && s.glob.straps.pairId) = false ∧
          c = Instr.requestActive q tag opposed ∨
        action = 4 ∧ s.hub.saddle.role = .active ∧ s.hub.saddle.pRole = 2 ∧ s.hub.saddle.pHealth ≠ 3 ∧
          (opposed && s.glob.straps.pairId) = false ∧ c = Instr.requestStandby q tag opposed) →
      ∃ t, exec c s = .next t ∧ HubOnly s t ∧ RegsKeptBut [] s.hub t.hub ∧ t.hub.saddle.role = s.hub.saddle.role ∧
        t.hub.saddle.reqs = s.hub.saddle.reqs ++ [{ q := q, tag := tag, action := action }] ∧
        (∃ d', t.hub.desc q tag = some d' ∧ d'.phase = .waiting) ∧
        (s.hub.saddle.link = true → Out.roleRequest action ∈ t.hub.out)) ∧
    (∀ opposed, (action = 3 → s.hub.saddle.role = .active → (opposed && s.glob.straps.pairId) = false →
        BecomesAnswering (.requestActive q tag opposed) s s.hub q tag Status.ok res) ∧
      (action = 4 → (s.hub.saddle.role = .standby ∨ s.hub.saddle.role = .syncing) → (opposed && s.glob.straps.pairId) = false →
        BecomesAnswering (.requestStandby q tag opposed) s s.hub q tag Status.ok res) ∧
      (action = 3 → s.hub.saddle.role ≠ .active → (s.hub.saddle.role ≠ .standby ∨ s.hub.saddle.current = false) →
        BecomesAnswering (.requestActive q tag opposed) s s.hub q tag Status.conflict res) ∧
      (action = 4 → (s.hub.saddle.role = .unpaired ∨ s.hub.saddle.role = .active ∧ (s.hub.saddle.pRole ≠ 2 ∨ s.hub.saddle.pHealth = 3)) →
        BecomesAnswering (.requestStandby q tag opposed) s s.hub q tag Status.conflict res)) ∧
    (s.glob.straps.pairId = true → (action = 3 → BecomesAnswering (.requestActive q tag true) s s.hub q tag Status.conflict res) ∧
      (action = 4 → BecomesAnswering (.requestStandby q tag true) s s.hub q tag Status.conflict res)))

/-- R365 to R367, R378: a negotiated link starts a session with fresh counters and raises source 88; of two ACTIVE hubs the one not promoted later
becomes SYNCING; packets are counted and heard, and a sixteenth discarded in a row takes the link down. While the link is down, and while the Saddle block has
faulted or is isolated, no packet is sent or taken (R22, R23). A packet accepted has the number after those of the packets before it, of which each whose tag
failed took one (DEDUCED, log entry 39). -/
def Obligations.SaddleLinkCarriesItsSession : Prop :=
  ∀ (s : State),
    (∀ nonce role later, s.hub.saddle.link = false → s.hub.bit Reg.SDL_CTL 0 = true → s.hub.serving .sdl = true → s.glob.safe = false →
      ∃ t, exec (.saddleLinkUp nonce role later) s = .next t ∧ HubOnly s t ∧ RegsKeptBut pendRegs s.hub t.hub ∧
        t.hub.saddle.link = true ∧ t.hub.saddle.lanes = 15 ∧ t.hub.saddle.tx = 0 ∧ t.hub.saddle.rx = 0 ∧
        t.hub.saddle.nonceTheirs = nonce % 2 ^ 128 ∧ t.hub.saddle.pRole = role % 4 ∧ t.hub.pending 88 = true ∧
        t.hub.saddle.role = (if s.hub.saddle.role = .active ∧ role % 4 = 3 ∧ later = false then .syncing else s.hub.saddle.role)) ∧
    (∀ lanes, s.hub.saddle.link = true →
      ∃ t, exec (.saddleLinkDown lanes) s = .next t ∧ HubOnly s t ∧ t.hub.saddle.link = false ∧ t.hub.saddle.lanes = min lanes 14 ∧
        t.hub.saddle.flight = [] ∧ t.hub.saddle.role = s.hub.saddle.role ∧ t.hub.pending 88 = true) ∧
    (∀ lanes, s.hub.saddle.link = false →
      exec (.saddleLinkDown lanes) s = .next { s with hub := s.hub.setSaddle { s.hub.saddle with lanes := min lanes 14 } }) ∧
    (s.hub.saddle.link = true → s.hub.serving .sdl = true →
      exec .saddleKeepalive s = .next { s with hub := (s.hub.setSaddle { s.hub.saddle with tx := s.hub.saddle.tx + 1 }).emit .keepalive } ∧
      (s.hub.awake 5 = true →
        exec .saddleKeepaliveReceive s = .next { s with hub := s.hub.setSaddle { s.hub.saddle with
          heardAt := some s.hub.clock, rx := s.hub.saddle.rx + s.hub.saddle.lost + 1, lost := 0, discards := 0 } } ∧
        (∀ fails counter, (fails = true ∨ counter < s.hub.saddle.rx) → s.hub.saddle.discards < 15 →
          exec (.saddlePacketDiscard fails counter) s = .next { s with
            hub := (s.hub.count Reg.SDL_CNT_AUTH 31).setSaddle { s.hub.saddle with
              discards := s.hub.saddle.discards + 1, lost := s.hub.saddle.lost + b2n fails } }) ∧
        (∀ counter, s.hub.saddle.rx ≤ counter → exec (.saddlePacketDiscard false counter) s = .next s) ∧
        (∀ fails counter, (fails = true ∨ counter < s.hub.saddle.rx) → 15 ≤ s.hub.saddle.discards →
          ∃ t, exec (.saddlePacketDiscard fails counter) s = .next t ∧ HubOnly s t ∧ t.hub.saddle.link = false ∧ t.hub.pending 88 = true ∧
            t.hub.f Reg.SDL_CNT_AUTH 30 0 = satInc 31 (s.hub.f Reg.SDL_CNT_AUTH 30 0))) ∧
      exec (.prbsTestBlock false) s = .next s ∧
      (s.hub.saddle.prbsSaid = true → exec (.prbsTestBlock true) s = .next { s with hub := s.hub.count Reg.SDL_CNT_PRBS 31 }) ∧
      (s.hub.saddle.prbsSaid = false → BecomesRaising (.prbsTestBlock true) s
        ((s.hub.count Reg.SDL_CNT_PRBS 31).setSaddle { s.hub.saddle with prbsSaid := true }) 88)) ∧
    (∀ c fails counter p frame arm n f data last rec later dig offs i epoch digest bad,
      s.hub.saddle.link = false ∨ s.hub.serving .sdl = false ∧ s.hub.awake 5 = true →
      c ∈ [Instr.saddleKeepalive, .saddleKeepaliveReceive, .saddlePacketDiscard fails counter, .prbsTestBlock bad, .armRecord p frame arm,
        .mirroredFrame n f [], .mirrorReceipt n, .standbyEnumRequest n, .stateCopy data last [], .healthRecord rec later,
        .outputDigest n frame dig, .saddleTimeTransfer offs, .commitNotice i epoch digest [] []] → exec c s = .next s)

/-- R368 to R371, R373: the STANDBY arms the buffer that a record names, or sends no PIX; it queues a mirrored frame under its number and receipts it;
it prepares the apply of a notice that it agrees with, and raises its event otherwise; a copied class takes its place; the ACTIVE takes the
receipt and enumerates for its partner. R363, R372, R375, R376, R380, R381: a health record is taken, raises its event when the partner's health
changes, and makes a STANDBY ACTIVE when the partner is in the safe state; missed records isolate or promote a STANDBY; differing digests are
counted and raise their event; and a transfer brings the bases of a STANDBY to within 2 ns while the root clock runs.
(The model's choices here, log entry 39: the partner's acts are operands; the cause of an unnumbered role change is open; a notice that the hub still holds is cancelled by the next one, and a set of the STANDBY's own makes it agree to none;
a record of frame 2^32 - 1 names the buffer in force; a fades copy leaves a group that has ticked since its snapshot at its own clock; which arm of
its own an unheard partner's STANDBY takes.) -/
def Obligations.StandbyFollowsAndIsGoverned : Prop :=
  (∀ (s : State), s.hub.saddle.link = true → s.hub.serving .sdl = true → s.hub.awake 5 = true →
      (s.hub.saddle.role = .standby →
        (∀ p frame arm, p < 32 → s.hub.chainKind p = 1 → frame ≠ 2 ^ 32 - 1 →
          ∃ t, exec (.armRecord p frame arm) s = .next t ∧ HubOnly s t ∧ RegsKeptBut [] s.hub t.hub ∧
            Sparse.get none t.hub.saddle.recs p = some (frame, arm) ∧ t.hub.saddle.heardAt = some s.hub.clock ∧
            (arm.source = none → frame = s.hub.frameAfter p → t.hub.pipe p = { s.hub.pipe p with next := some arm }) ∧
            (∀ j, j ≠ p → t.hub.pipe j = s.hub.pipe j)) ∧
        (∀ p addr, p < 32 → s.hub.chainKind p = 1 → s.hub.pipeOn p = false →
          ∃ t, exec (.armRecord p (2 ^ 32 - 1) { addr := addr, source := none }) s = .next t ∧ HubOnly s t ∧ RegsKeptBut [] s.hub t.hub ∧
            t.hub.pipe p = { s.hub.pipe p with cur := addr, next := none } ∧ (∀ j, j ≠ p → t.hub.pipe j = s.hub.pipe j)) ∧
        (∀ p, s.hub.chainKind p = 1 → s.hub.scans s.glob p = true →
          (∀ arm, Sparse.get none s.hub.saddle.recs p = some (s.hub.frameAfter p, arm) → arm.source = none →
            ∃ t, exec (.armRecordDeadline p) s = .next t ∧ HubOnly s t ∧ RegsKeptBut [] s.hub t.hub ∧
              t.hub.pipe p = { s.hub.pipe p with next := some arm } ∧ Sparse.get none t.hub.saddle.recs p = none) ∧
          (Sparse.get none s.hub.saddle.recs p = none → s.hub.heard = true →
            ∃ t, exec (.armRecordDeadline p) s = .next t ∧ HubOnly s t ∧ RegsKeptBut (Reg.SDL_CNT_NOREC :: pendRegs) s.hub t.hub ∧
              t.hub.pipe p = { s.hub.pipe p with noPixNext := true } ∧ t.hub.pending 90 = true ∧
              t.hub.f Reg.SDL_CNT_NOREC 30 0 = satInc 31 (s.hub.f Reg.SDL_CNT_NOREC 30 0)) ∧
          (∀ a, Sparse.get none s.hub.saddle.recs p = none → s.hub.heard = false → s.hub.ownArm p = some a →
            ∃ t, exec (.armRecordDeadline p) s = .next t ∧ HubOnly s t ∧ RegsKeptBut [] s.hub t.hub ∧
              (t.hub.pipe p).next = some a ∧ (t.hub.pipe p).fallback = none ∧ (t.hub.pipe p).cur = (s.hub.pipe p).cur)) ∧
        (∀ n f, n < 32 → s.hub.chainKind n = 1 → (f.type ≠ 5 ∨ byteAt f.payload 0 ≠ 0) →
          ∃ t x, exec (.mirroredFrame n f []) s = .next t ∧ t.pending = s.pending ∧ t.glob = s.glob ∧
            x ∈ (t.hub.port n).queue (queueOf f.type) ∧ x.seq = f.seq ∧ x.payload = f.payload ∧ x.dest = f.dest ∧ x.type = f.type ∧
            (t.hub.port n).nextSeq (queueOf f.type) f.dest = (f.seq + 1) % 2 ^ 32 ∧
            Out.receipt n ∈ t.hub.out ∧
            (f.type ≠ 8 → t.mem = s.mem) ∧
            (∀ o, f.type = 8 → s.hub.fixOutput n f = some o →
              ((∀ k, k < ceilDiv (outSlots (outRec s.hub.patch o)) 64 → (s.mem.tagAt (s.hub.shadowAddr o + 64 * k)).poison = false) →
                DramKeptBut (s.hub.shadowAddr o + (fixSpan f.payload).1 - 1) (fixSpan f.payload).2 s.mem t.mem) ∧
              (0 < (fixSpan f.payload).1 → DramKeptBut (s.hub.shadowAddr o)
                (max (64 * ceilDiv (outSlots (outRec s.hub.patch o)) 64) ((fixSpan f.payload).1 - 1 + (fixSpan f.payload).2)) s.mem t.mem))) ∧
        (∀ errs lines i epoch digest, ((s.ownLines .cmt 18 1 lines).reads errs).hub.stagedSpoilt ((s.ownLines .cmt 18 1 lines).reads errs).mem = false →
          ((s.ownLines .cmt 18 1 lines).reads errs).hub.saddle = s.hub.saddle →
          ((s.ownLines .cmt 18 1 lines).reads errs).hub.serving .sdl = true → ((s.ownLines .cmt 18 1 lines).reads errs).hub.awake 5 = true →
          exec (.commitNotice i epoch digest errs lines) s = exec (.commitNotice i epoch digest [] []) ((s.ownLines .cmt 18 1 lines).reads errs)) ∧
        (∀ i epoch digest, s.hub.setInFlight = false → s.hub.stagedSpoilt s.mem = false →
          ∃ t x, exec (.commitNotice i epoch digest [] []) s = .next t ∧ HubOnly s t ∧ RegsKeptBut pendRegs s.hub t.hub ∧
            t.hub.saddle.notice = some x ∧ x.instant = i ∧ x.epoch = epoch % 2 ^ 32 ∧
            (x.agrees = true → t.hub.commit.phase = .pending ∧ t.hub.commit.instant = i ∧ s.hub.digestAfter = padTo 8 digest) ∧
            (x.agrees = false → t.hub.commit = s.hub.commit ∧ t.hub.pending 90 = true)) ∧
        (∀ i epoch digest, s.hub.setInFlight = true → s.hub.commit.owner = none → s.hub.stagedSpoilt s.mem = false →
          ∃ t x, exec (.commitNotice i epoch digest [] []) s = .next t ∧ HubOnly s t ∧ RegsKeptBut pendRegs s.hub t.hub ∧
            t.hub.saddle.notice = some x ∧ x.instant = i ∧ x.epoch = epoch % 2 ^ 32 ∧ t.hub.pending 47 = true ∧
            (x.agrees = true → t.hub.commit.phase = .pending ∧ t.hub.commit.instant = i) ∧
            (x.agrees = false → t.hub.commit.phase = .idle ∧ t.hub.pending 90 = true)) ∧
        (∀ i epoch digest, s.hub.setInFlight = true → s.hub.commit.owner ≠ none → s.hub.stagedSpoilt s.mem = false →
          ∃ t x, exec (.commitNotice i epoch digest [] []) s = .next t ∧ HubOnly s t ∧ RegsKeptBut pendRegs s.hub t.hub ∧
            t.hub.saddle.notice = some x ∧ x.agrees = false ∧ t.hub.commit = s.hub.commit ∧ t.hub.pending 90 = true)) ∧
      (s.hub.saddle.role = .standby ∨ s.hub.saddle.role = .syncing → ∀ last,
        (∀ fades clocks, ∃ t, exec (.stateCopy (.fades fades clocks) last []) s = .next t ∧ t.pending = s.pending ∧ t.glob = s.glob ∧
          RegsKeptBut (violationRegs ++ pendRegs) s.hub t.hub ∧ t.hub.saddle.current = last ∧ t.hub.fix = { s.hub.fix with fades := t.hub.fix.fades, clocks := t.hub.fix.clocks } ∧
          ((∀ pg, s.hub.tickedSince clocks pg = false) → t.hub.fix.fades = fades ∧ t.hub.fix.clocks = clocks) ∧
          (∀ pg, pg < 8 → s.hub.tickedSince clocks pg = true → Sparse.get 0 t.hub.fix.clocks pg = Sparse.get 0 s.hub.fix.clocks pg ∧
            ∀ f ∈ s.hub.fix.fades, parGroup s.hub.patch f.par = pg → f.start = Sparse.get 0 s.hub.fix.clocks pg → f ∈ t.hub.fix.fades) ∧
          t.mem = { s.mem with dram := t.mem.dram, tags := t.mem.tags } ∧ (fades = [] → t.mem = s.mem) ∧
          (∀ a, (∀ f ∈ fades, a < s.hub.fadeAddr f.slot ∨ s.hub.fadeAddr f.slot + 16 ≤ a) → t.mem.dramByte a = s.mem.dramByte a)) ∧
        (∀ items gens, ∃ t, exec (.stateCopy (.col items gens) last []) s = .next t ∧ HubOnly s t ∧ RegsKeptBut [] s.hub t.hub ∧
          t.hub.saddle.current = last ∧ t.hub.col = { s.hub.col with items := items, gens := gens }) ∧
        (∀ k bytes words, bytes.length = 32 → k < 524288 →
          ∃ t, exec (.stateCopy (.lines [(k, bytes, words)]) last []) s = .next t ∧ t.pending = s.pending ∧ t.glob = s.glob ∧ RegsKeptBut [] s.hub t.hub ∧
            t.hub.saddle.current = last ∧ CellsWritten (32 * k) bytes s.mem.sram t.mem.sram ∧
            t.mem = { s.mem with sram := t.mem.sram, sramBad := t.mem.sramBad } ∧ (words = [] → t.mem.lineBroken .sram k = false) ∧
            (∀ j, j / 16 ≠ k → Sparse.get false t.mem.sramBad j = Sparse.get false s.mem.sramBad j)) ∧
        (∀ epoch digest seqs holds resend,
          ∃ t, exec (.stateCopy (.commit epoch digest seqs holds resend) last []) s = .next t ∧ HubOnly s t ∧ RegsKeptBut [] s.hub t.hub ∧
            t.hub.saddle.current = last ∧ t.hub.commit.epoch = (if digest = s.hub.commit.digest then epoch else s.hub.commit.epoch))) ∧
      (s.hub.saddle.role = .active → ∀ n, n < 32 →
        ((s.hub.port n).sends = [] →
          ∃ t, exec (.mirrorReceipt n) s = .next t ∧ HubOnly s t ∧
            Sparse.get 0 t.hub.saddle.flight n = Sparse.get 0 s.hub.saddle.flight n - 1 ∧
            (∀ j, j ≠ n → Sparse.get 0 t.hub.saddle.flight j = Sparse.get 0 s.hub.saddle.flight j)) ∧
        (s.hub.chainKind n = 1 → s.hub.near n = n →
          ∃ t, exec (.standbyEnumRequest n) s = .next t ∧ HubOnly s t ∧ RegsKeptBut [] s.hub t.hub ∧ (t.hub.port n).enumTry = 1 ∧
            (t.hub.port n).req = ((s.hub.port n).req + 1) % 2 ^ 32 ∧ ∀ k, (t.hub.tile n k).present = false))) ∧
  (∀ (s : State),
      (∀ rec later, s.hub.saddle.link = true → s.hub.serving .sdl = true → s.hub.awake 5 = true → byteAt rec 1 % 4 ≠ 3 →
        ∃ t, exec (.healthRecord rec later) s = .next t ∧ HubOnly s t ∧ t.hub.saddle.pRole = byteAt rec 1 % 4 ∧
          t.hub.saddle.pHealth = byteAt rec 2 % 4 ∧ t.hub.saddle.pEpoch = leAt rec 8 4 ∧ t.hub.saddle.pDigest = (rec.drop 12).take 8 ∧
          t.hub.saddle.misses = 0 ∧ t.hub.saddle.isolated = false ∧ t.hub.saddle.heardAt = some s.hub.clock ∧
          (byteAt rec 2 % 4 ≠ s.hub.saddle.pHealth → t.hub.pending 90 = true) ∧
          (s.hub.saddle.role = .standby → byteAt rec 2 % 4 ≠ 3 → t.hub.saddle.role = .standby) ∧
          (s.hub.saddle.role = .standby → byteAt rec 2 % 4 = 3 → t.hub.saddle.role = .active ∧ t.hub.pending 89 = true ∧
            t.hub.f Reg.SDL_CNT_PROMOTE 30 0 = satInc 31 (s.hub.f Reg.SDL_CNT_PROMOTE 30 0)) ∧
          (s.hub.saddle.role = .unpaired → byteAt rec 1 % 4 = 1 → s.hub.saddle.left = false → s.glob.straps.pairId = false →
            t.hub.saddle.role = .active) ∧
          (s.hub.saddle.role = .syncing → byteAt rec 1 % 4 = 1 → s.glob.straps.pairId = false → t.hub.saddle.role = .active)) ∧
      (s.hub.saddle.role ≠ .standby → exec .heartbeatMiss s = .next s) ∧
      (s.hub.saddle.role = .standby →
        (min 15 (s.hub.saddle.misses + 1) < s.hub.f Reg.SDL_CTL 7 4 →
          exec .heartbeatMiss s = .next { s with hub := (s.hub.count Reg.SDL_CNT_HBMISS 31).setSaddle { s.hub.saddle with
            misses := min 15 (s.hub.saddle.misses + 1) } }) ∧
        (s.hub.f Reg.SDL_CTL 7 4 ≤ min 15 (s.hub.saddle.misses + 1) → s.hub.heard = false →
          ∃ t, exec .heartbeatMiss s = .next t ∧ HubOnly s t ∧ t.hub.saddle.role = .active ∧ t.hub.pending 89 = true ∧
            t.hub.f Reg.SDL_CNT_HBMISS 30 0 = satInc 31 (s.hub.f Reg.SDL_CNT_HBMISS 30 0) ∧
            t.hub.f Reg.SDL_CNT_PROMOTE 30 0 = satInc 31 (s.hub.f Reg.SDL_CNT_PROMOTE 30 0)) ∧
        (s.hub.f Reg.SDL_CTL 7 4 ≤ min 15 (s.hub.saddle.misses + 1) → s.hub.heard = true → s.hub.saddle.isolated = false →
          BecomesRaising .heartbeatMiss s ((s.hub.count Reg.SDL_CNT_HBMISS 31).setSaddle { s.hub.saddle with
            misses := min 15 (s.hub.saddle.misses + 1), isolated := true }) 90)) ∧
      (∀ n frame dig mine, s.hub.saddle.link = true → s.hub.serving .sdl = true → s.hub.awake 5 = true → s.hub.saddle.role = .active → n < 32 → s.hub.chainKind n = 1 →
        Sparse.get (0, 0) s.hub.saddle.own n = (frame + 1, mine) →
        (dig = mine → ∃ t, exec (.outputDigest n frame dig) s = .next t ∧ HubOnly s t ∧ RegsKeptBut [] s.hub t.hub ∧
          Sparse.get (0, 0) t.hub.saddle.theirs n = (0, 0)) ∧
        (dig ≠ mine → ∃ t, exec (.outputDigest n frame dig) s = .next t ∧ HubOnly s t ∧ t.hub.pending 90 = true ∧
          t.hub.f Reg.SDL_CNT_DIGEST 30 0 = satInc 31 (s.hub.f Reg.SDL_CNT_DIGEST 30 0) ∧
          RegsKeptBut (Reg.SDL_CNT_DIGEST :: pendRegs) s.hub t.hub)) ∧
      (∀ off, NoRun s → s.hub.saddle.link = true → s.hub.serving .sdl = true → s.hub.awake 5 = true → s.hub.saddle.role = .standby →
        (s.hub.f (Reg.TBt_CTL 0) 1 0 = 0 → ∃ t, exec (.saddleTimeTransfer [off]) s = .next t ∧ HubOnly s t ∧ RegsKeptBut [] s.hub t.hub ∧
          t.hub.saddle.tofs = off ∧ ∀ b, t.hub.base b = s.hub.base b) ∧
        (s.hub.power.rootLock = false → ∃ t, exec (.saddleTimeTransfer [off]) s = .next t ∧ HubOnly s t ∧ RegsKeptBut [] s.hub t.hub ∧
          t.hub.saddle.tofs = off ∧ ∀ b, t.hub.base b = s.hub.base b) ∧
        (s.hub.f (Reg.TBt_CTL 0) 1 0 ≠ 0 → s.hub.power.rootLock = true →
          ∃ t err, exec (.saddleTimeTransfer [off]) s = .next t ∧ HubOnly s t ∧ t.hub.saddle.tofs = off ∧
            -(2 * ns48 : Int) ≤ err ∧ err ≤ 2 * ns48 ∧ t.hub.now48 0 = addTime (s.hub.now48 0) (err - off * 2 ^ 32) ∧
            (t.hub.base 0).freq = (s.hub.base 0).freq ∧ (∀ b, b ≠ 0 → t.hub.now48 b = s.hub.now48 b) ∧ RegsKeptBut pendRegs s.hub t.hub)))

/-! ## Firmware (spec/16_firmware_update.md) -/

/-- R386 to R389, R401: FW_STAGE checks its header, and stages its bytes from OFFSET 0 on in order; FW_ACTIVATE verifies the staged image and makes it
pending once its slot is erased; each completes when its flash operation ends, and only one operation runs.
(The model's, log entry 14: a staged image that fails its second check is discarded, and a FW_CONFIRM waits for the operation that runs; log entry 12: a FW_ACTIVATE in
recovery copies the image into the slot that failed; log entry 20: work of a block that has faulted ends ABORTED.) -/
def Obligations.FlashStagesAndActivates : Prop :=
  ∀ (s : State) (q tag : Nat) (d : Desc), s.glob.safe = false →
    (s.hub.serving .fwu = false →
      (Fetched s q tag 0x50 d → ∀ data, BecomesAnswering (.fwStage q tag data) s s.hub q tag Status.aborted []) ∧
      (Fetched s q tag 0x51 d → BecomesAnswering (.fwActivate q tag) s s.hub q tag Status.aborted [])) ∧
    (∀ data bytes len off, Fetched s q tag 0x50 d → s.hub.serving .fwu = true → len = d.op 24 4 → off = d.op 28 4 → bytes = padTo len data →
      (off = 0 → len < 2048 → BecomesAnswering (.fwStage q tag data) s s.hub q tag Status.invalid []) ∧
      ((off ≠ 0 ∨ 2048 ≤ len) → (s.hub.fwu.op.isSome = true ∨ s.hub.fwu.inTrial = true) →
        BecomesAnswering (.fwStage q tag data) s s.hub q tag Status.busy []) ∧
      (s.hub.fwu.op = none → s.hub.fwu.inTrial = false →
        (∀ why, off = 0 → 2048 ≤ len → why = imgReason s.glob.otp s.hub.fwu.inUse true bytes → why ≠ 0 →
          ∃ t, exec (.fwStage q tag data) s = .next t ∧ HubOnly s t ∧ RegsKeptBut pendRegs s.hub t.hub ∧
            t.hub.fwu = { s.hub.fwu with reason := why } ∧ t.hub.pending 91 = true ∧ Answered q tag Status.refused [] s.hub t.hub) ∧
        (off = 0 → 2048 ≤ len → imgReason s.glob.otp s.hub.fwu.inUse true bytes = 0 → len ≤ imgSize bytes →
          ∃ t d', exec (.fwStage q tag data) s = .next t ∧ HubOnly s t ∧ RegsKeptBut [] s.hub t.hub ∧ t.hub.fwu.bytes = 0 ∧
            t.hub.fwu.staging = [] ∧ t.hub.fwu.boot.pending = false ∧ t.hub.fwu.op = some { q := q, tag := tag, activate := false } ∧
            t.hub.fwu.images = s.hub.fwu.images ∧ t.hub.desc q tag = some d' ∧ d'.phase = .moving ∧ d'.data = bytes ∧ d'.words = [0]) ∧
        (off ≠ 0 → off = s.hub.fwu.bytes → s.hub.fwu.boot.pending = false → off + len ≤ imgSize s.hub.fwu.staging →
          ∃ t d', exec (.fwStage q tag data) s = .next t ∧ HubOnly s t ∧ RegsKeptBut [] s.hub t.hub ∧
            t.hub.fwu = { s.hub.fwu with op := some { q := q, tag := tag, activate := false } } ∧ t.hub.desc q tag = some d' ∧
            d'.phase = .moving ∧ d'.data = bytes ∧ d'.words = [off]) ∧
        (off ≠ 0 → off ≠ s.hub.fwu.bytes → s.hub.fwu.boot.pending = false →
          BecomesAnswering (.fwStage q tag data) s s.hub q tag Status.invalid []))) ∧
    (Fetched s q tag 0x51 d → s.hub.serving .fwu = true →
      (s.hub.fwu.op.isSome = true → BecomesAnswering (.fwActivate q tag) s s.hub q tag Status.busy []) ∧
      (s.hub.fwu.op = none → s.hub.fwu.boot.pending = true → s.hub.fwu.phase ≠ .recovery →
        BecomesAnswering (.fwActivate q tag) s s.hub q tag Status.ok []) ∧
      (s.hub.fwu.op = none → s.hub.fwu.boot.pending = true → s.hub.fwu.phase = .recovery →
        ∃ t d', exec (.fwActivate q tag) s = .next t ∧ HubOnly s t ∧ RegsKeptBut [] s.hub t.hub ∧
          t.hub.fwu = { s.hub.fwu with op := some { q := q, tag := tag, activate := true } } ∧ t.hub.desc q tag = some d' ∧
          d'.phase = .waiting) ∧
      (s.hub.fwu.op = none → s.hub.fwu.boot.pending = false → s.hub.fwu.staged = false →
        BecomesAnswering (.fwActivate q tag) s s.hub q tag Status.invalid []) ∧
      (s.hub.fwu.op = none → s.hub.fwu.staged = true → imgReason s.glob.otp s.hub.fwu.inUse true s.hub.fwu.staging ≠ 0 →
        BecomesAnswering (.fwActivate q tag) s { s.hub with fwu := { s.hub.fwu with
          reason := imgReason s.glob.otp s.hub.fwu.inUse true s.hub.fwu.staging, bytes := 0, staging := [] } } q tag Status.invalid []) ∧
      (s.hub.fwu.op = none → s.hub.fwu.staged = true → imgReason s.glob.otp s.hub.fwu.inUse true s.hub.fwu.staging = 0 →
        imgPartsOk s.hub.fwu.staging = false →
        BecomesAnswering (.fwActivate q tag) s { s.hub with fwu := { s.hub.fwu with reason := 8, bytes := 0, staging := [] } }
          q tag Status.invalid []) ∧
      (s.hub.fwu.op = none → s.hub.fwu.staged = true → imgVerifies s.glob.otp s.hub.fwu.inUse true s.hub.fwu.staging = true →
        ∃ t d', exec (.fwActivate q tag) s = .next t ∧ HubOnly s t ∧ RegsKeptBut [] s.hub t.hub ∧
          t.hub.fwu = { s.hub.fwu with op := some { q := q, tag := tag, activate := true } } ∧ t.hub.desc q tag = some d' ∧
          d'.phase = .waiting)) ∧
    (∀ off, s.hub.fwu.op = some { q := q, tag := tag, activate := false } → s.hub.desc q tag = some d → d.words = [off] →
      ∃ t, exec .flashOperationDone s = .next t ∧ HubOnly s t ∧ RegsKeptBut pendRegs s.hub t.hub ∧
        t.hub.fwu = { s.hub.fwu with op := none, bytes := off + d.data.length, staging := s.hub.fwu.staging.take off ++ d.data } ∧
        Answered q tag Status.ok (leBytes 4 (off + d.data.length)) s.hub t.hub) ∧
    (s.hub.fwu.op = some { q := q, tag := tag, activate := true } → s.hub.desc q tag = some d → s.hub.fwu.phase = .running →
      ∃ t, exec .flashOperationDone s = .next t ∧ HubOnly s t ∧ RegsKeptBut pendRegs s.hub t.hub ∧ t.hub.fwu.op = none ∧
        t.hub.fwu.boot.pending = true ∧ t.hub.fwu.staging = s.hub.fwu.staging ∧ t.hub.pending 91 = true ∧
        (∀ k, k ≠ 1 - s.hub.fwu.slot → t.hub.fwu.image k = s.hub.fwu.image k) ∧
        (∀ i, i < imgSize s.hub.fwu.staging → (t.hub.fwu.image (1 - s.hub.fwu.slot)).getD i 0 = 255) ∧
        Answered q tag Status.ok [] s.hub t.hub) ∧
    (s.hub.fwu.op = none → exec .flashOperationDone s = .next s)

/-- R392 to R394, R398: READY written and a trial confirmed ends the trial and raises the floor to the image's version; a trial that times out or is
rejected resets the hub with cause 3 and returns to the other slot where it verifies, or, with FAIL_MODE, to recovery.
(The model's: the record of a trial that fails, and a trial that fails where the previous slot does not verify, log entries 12 and 14; the reason of a REJECT by a register
write, log entry 13; what the tests of a boot find is an operand, log entry 2.) -/
def Obligations.TrialsAreConfirmedOrFail : Prop :=
  ∀ (s : State),
    (∀ who tileAuto d i j, s.hub.quietTo who = true → s.hub.accessAt s.glob who Reg.FWU_CTL = .ok d i j → d.cls = .f →
      ∃ t, exec (.fwuReady who tileAuto) s = .next t ∧ HubOnly s t ∧ RegsKeptBut [Reg.FWU_CTL] s.hub t.hub ∧
        t.hub.bit Reg.FWU_CTL 0 = true ∧ t.hub.bit Reg.FWU_CTL 2 = tileAuto) ∧
    (∀ q tag d, Fetched s q tag 0x52 d → (s.glob.safe = true ∨ s.hub.serving .fwu = false) →
      BecomesAnswering (.fwConfirm q tag) s s.hub q tag Status.aborted []) ∧
    (∀ q tag d, Fetched s q tag 0x52 d → s.glob.safe = false → s.hub.serving .fwu = true → s.hub.fwu.op.isSome = true →
      ∃ t d', exec (.fwConfirm q tag) s = .next t ∧ HubOnly s t ∧ RegsKeptBut [] s.hub t.hub ∧ t.hub.fwu = s.hub.fwu ∧
        t.hub.desc q tag = some d' ∧ d'.phase = .waiting) ∧
    (∀ q tag d, Fetched s q tag 0x52 d → s.glob.safe = false → s.hub.serving .fwu = true → s.hub.fwu.op = none →
      (s.hub.bit Reg.FWU_CTL 0 = false → BecomesAnswering (.fwConfirm q tag) s s.hub q tag Status.busy []) ∧
      (s.hub.bit Reg.FWU_CTL 0 = true → s.hub.fwu.inTrial = false → BecomesAnswering (.fwConfirm q tag) s s.hub q tag Status.ok []) ∧
      (s.hub.bit Reg.FWU_CTL 0 = true → s.hub.fwu.inTrial = true → s.hub.bit Reg.FWU_CTL 2 = false → s.hub.fwu.bundlePorts = [] →
        ∃ t, exec (.fwConfirm q tag) s = .next t ∧ t.mem = s.mem ∧ t.pending = s.pending ∧ RegsKeptBut pendRegs s.hub t.hub ∧
          t.glob = { s.glob with otp := { s.glob.otp with
            svFloor := max s.glob.otp.svFloor (min 64 (imgSecVersion s.hub.fwu.running)) } } ∧
          t.hub.fwu.inTrial = false ∧ t.hub.fwu.boot.outcome = 1 ∧ t.hub.fwu.boot.slot = s.hub.fwu.boot.slot ∧
          t.hub.fwu.images = s.hub.fwu.images ∧ t.hub.pending 91 = true ∧ Answered q tag Status.ok [] s.hub t.hub)) ∧
    ((s.hub.fwu.inTrial = false ∨ s.hub.trialRun < 600 * 400000000) → exec .trialTimeout s = .next s) ∧
    (∀ c cause, (c = Instr.trialTimeout ∧ cause = 2 ∧ 600 * 400000000 ≤ s.hub.trialRun ∨ ∃ e reason, e < 4 ∧ c = Instr.fwuReject (.engine e) reason ∧ cause = 3) →
      s.hub.fwu.inTrial = true → s.hub.fwu.op = none → s.hub.fwu.boot.pending = false → s.glob.straps.bootMode % 4 = 0 →
      s.hub.fwu.inUse ≠ 0 →
      (s.glob.otp.failMode = true →
        ∃ t, exec c s = .next t ∧ t.mem = s.mem ∧ t.pending = s.pending ∧ t.glob = { s.glob with safe := false, cause := 0, forced := false } ∧
          t.hub.power.rstCause = 3 ∧ t.hub.fwu.phase = .recovery ∧ t.hub.fwu.boot.failed = cause ∧ t.hub.pending 91 = true) ∧
      (s.glob.otp.failMode = false →
        imgVerifies s.glob.otp s.hub.fwu.inUse true (s.hub.fwu.image (1 - s.hub.fwu.boot.slot)) = true →
        ∃ t, exec c s = .next t ∧ FirmwareOnly s t ∧ t.pending = s.pending ∧
          t.glob = { s.glob with safe := false, cause := 0, forced := false } ∧ t.hub.power.rstCause = 3 ∧ t.hub.fwu.phase = .running ∧ t.hub.fwu.slot = 1 - s.hub.fwu.boot.slot ∧
          t.hub.fwu.boot.slot = 1 - s.hub.fwu.boot.slot ∧ t.hub.fwu.boot.trial = false ∧ t.hub.fwu.boot.outcome = 2 ∧
          t.hub.fwu.images = s.hub.fwu.images ∧ t.hub.pending 91 = true))

/-! ## Security and Cairn (spec/17_security_cairn.md) -/

/-- R410 to R413: a waiting snapshot joins its log and a waiting record its log, each with the next SEQ; a record raises source 92; CRN_TRIG takes a
snapshot of a unit, or, where a non-secure requester names a secure unit, is a violation. R414 to R417: LOG_READ delivers entries in SEQ order; a
clear empties its log but for the CLEARED records and leaves one, with a new nonce; a non-secure clear needs a good token; SE0 to SE3 clear by
CRN_CLR. At most one snapshot is written in 1 µs. A line with a double error makes a LOG_READ UNCORRECTABLE (R52, R151). (The order of INVALID, DENIED and BUSY of
a LOG_CLEAR, and that a log entry's lines lie where Config.logLine says, are the model's choices, log entries 23 and 28.) -/
def Obligations.CairnWritesReadsAndClearsItsLogs : Prop :=
  (∀ s : State,
      (∀ e rest, s.hub.cairn.snapQ = e :: rest → s.hub.cairn.snaps.length < 8192 → s.hub.snapDue = true →
        ∃ t, exec .snapshotWrite s = .next t ∧ t = { s with hub := { s.hub with cairn := { s.hub.cairn with
          snapQ := rest, snaps := s.hub.cairn.snaps ++ [{ e with seq := s.hub.cairn.snapHead }]
          snapHead := (s.hub.cairn.snapHead + 1) % 2 ^ 32, snapAt := some s.hub.clock, fresh := t.hub.cairn.fresh } } }) ∧
      (∀ e rest, s.hub.cairn.snapQ = e :: rest → s.hub.cairn.snaps.length = 8192 → s.hub.snapDue = true →
        ∃ t, exec .snapshotWrite s = .next t ∧ t = { s with hub := { s.hub with cairn := { s.hub.cairn with
          snapQ := rest, snaps := s.hub.cairn.snaps.drop 1 ++ [{ e with seq := s.hub.cairn.snapHead }]
          snapHead := (s.hub.cairn.snapHead + 1) % 2 ^ 32, snapAt := some s.hub.clock, fresh := t.hub.cairn.fresh } } }) ∧
      ((s.hub.cairn.snapQ = [] ∨ s.hub.snapDue = false) → exec .snapshotWrite s = .next s) ∧
      (∀ r rest, s.hub.cairn.recQ = r :: rest → s.hub.cairn.recs.length < 4096 →
        ∃ t, exec .recordWrite s = .next t ∧ HubOnly s t ∧ Reports s.hub t.hub ∧ t.hub.pending 92 = true ∧ t.hub.cairn.recQ = rest ∧
          t.hub.cairn.recs = s.hub.cairn.recs ++ [{ r with seq := s.hub.cairn.recHead }] ∧
          t.hub.cairn.recHead = (s.hub.cairn.recHead + 1) % 2 ^ 32 ∧ t.hub.cairn.snaps = s.hub.cairn.snaps) ∧
      (∀ r rest c, s.hub.cairn.recQ = r :: rest → s.hub.cairn.recs.length = 4096 → c ∈ s.hub.cairn.recs → c.seq ∈ s.hub.cairn.keptClears →
        (∃ x ∈ s.hub.cairn.recs, x.seq ∉ s.hub.cairn.keptClears) →
        ∃ t, exec .recordWrite s = .next t ∧ HubOnly s t ∧ t.hub.cairn.recs.length = 4096 ∧ c ∈ t.hub.cairn.recs) ∧
      (s.hub.cairn.recQ = [] → exec .recordWrite s = .next s) ∧
      (∀ who unit d i j b, s.hub.quietTo who = true → s.hub.accessAt s.glob who Reg.CRN_TRIG = .ok d i j → d.cls = .f → unit < 65536 → Block.ofUnit unit = some b →
        (s.hub.unitSecure unit = false ∨ s.hub.requesterSecure s.glob who = true) →
        (s.hub.cairn.snapQ.length < 64 →
          ∃ e, exec (.crnTrig who unit) s = .next { s with hub := { s.hub with cairn := { s.hub.cairn with
              snapQ := s.hub.cairn.snapQ ++ [e] } } } ∧
            e.unit = unit ∧ e.trigger = 6 ∧ e.aux = 0 ∧ e.seconds = s.hub.nowSec ∧ e.nanos = s.hub.nowNs ∧ e.epoch = s.hub.commit.epoch ∧
            e.off = !s.hub.blockOn b.1 ∧ e.vals.map Prod.fst = s.hub.snapOffsets unit ∧
            ∀ p ∈ e.vals, p.2 = if s.hub.blockOn b.1 then s.hub.view s.glob (b.2 + p.1) else 0) ∧
        (64 ≤ s.hub.cairn.snapQ.length →
          exec (.crnTrig who unit) s = .next { s with hub := { s.hub with cairn := { s.hub.cairn with
            snapLost := satInc 16 s.hub.cairn.snapLost } } })) ∧
      (∀ who unit d i j, s.hub.quietTo who = true → s.hub.accessAt s.glob who Reg.CRN_TRIG = .ok d i j → d.cls = .f → unit < 65536 →
        s.hub.unitSecure unit = true → s.hub.requesterSecure s.glob who = false →
        ∃ t, exec (.crnTrig who unit) s = .next t ∧ HubOnly s t ∧
          RegsKeptBut (violationRegs ++ pendRegs) s.hub t.hub ∧
          t.hub.f Reg.SEC_VIOL_CNT 30 0 = satInc 31 (s.hub.f Reg.SEC_VIOL_CNT 30 0) ∧ t.hub.n Reg.SEC_VIOL_LAST_LO = Reg.CRN_TRIG ∧
          t.hub.n Reg.SEC_VIOL_LAST_HI = 256 + 512 * 3 + 65536 * (who.unit % 65536) ∧
          (s.hub.violationDue = true → s.hub.recsNow = 0 → t.hub.pending 93 = true ∧ ∃ r, t.hub.cairn.recQ.getLast? = some r ∧ r.code = 0x0201 ∧
            r.source = who.unit ∧ r.p0 = Reg.CRN_TRIG ∧ r.p1 = 1) ∧
          (s.hub.violationDue = false → t.hub.cairn.recQ = s.hub.cairn.recQ))) ∧
  (∀ (s : State) (q tag : Nat) (d : Desc), s.hub.serving .crn = false →
      (Fetched s q tag 0x40 d → ∀ lines, BecomesAnswering (.logRead q tag lines) s s.hub q tag Status.aborted []) ∧
      (Fetched s q tag 0x41 d → ∀ token, BecomesAnswering (.logClear q tag token) s s.hub q tag Status.aborted [])) ∧
  (∀ s : State, s.hub.serving .crn = true →
      (∀ q tag bad d log count, Fetched s q tag 0x40 d → log = d.op 16 1 → count = d.op 24 4 →
        ((1 < log ∨ count = 0 ∨ log = 0 ∧ 8192 < count ∨ log = 1 ∧ 4096 < count) →
          BecomesAnswering (.logRead q tag bad) s s.hub q tag Status.invalid []) ∧
        (log = 1 → 0 < count → count ≤ 4096 → (∀ k ∈ s.hub.cairn.linesRead log (d.op 20 4) count, s.mem.sramBroken k = false) →
          ∃ t es, exec (.logRead q tag []) s = .next t ∧ t.pending = s.pending ∧ t.glob = s.glob ∧ t.mem = { s.mem with sramBad := t.mem.sramBad } ∧
            RegsKeptBut [] s.hub t.hub ∧ t.hub.cairn = { s.hub.cairn with fresh := [] } ∧
            es = (s.hub.cairn.recs.dropWhile (fun r => !seqAtOrAfter r.seq (d.op 20 4))).take count ∧
            t.hub.desc q tag = some { d with
              phase := .moving, status := Status.ok, result := leBytes 4 es.length, words := [d.op 32 8]
              data := (es.map Record.bytes).flatten }) ∧
        (∀ k err c, k ∈ s.hub.cairn.linesRead log (d.op 20 4) count → c ∈ err.broken → err.missed = [] → log ≤ 1 → 0 < count → count ≤ 4096 →
          ∃ t d', exec (.logRead q tag [(k, err)]) s = .next t ∧ t.hub.desc q tag = some d' ∧ d'.phase = .moving ∧
            d'.status = Status.uncorrectable ∧ d'.words = [d.op 32 8]) ∧
        (log = 0 → 0 < count → count ≤ 8192 → (∀ k ∈ s.hub.cairn.linesRead log (d.op 20 4) count, s.mem.sramBroken k = false) →
          ∃ t es, exec (.logRead q tag []) s = .next t ∧ t.pending = s.pending ∧ t.glob = s.glob ∧ t.mem = { s.mem with sramBad := t.mem.sramBad } ∧
            RegsKeptBut [] s.hub t.hub ∧ t.hub.cairn = { s.hub.cairn with fresh := [] } ∧
            es = (s.hub.cairn.snaps.dropWhile (fun e => !seqAtOrAfter e.seq (d.op 20 4))).take count ∧
            t.hub.desc q tag = some { d with
              phase := .moving, status := Status.ok, result := leBytes 4 es.length, words := [d.op 32 8]
              data := (es.map (fun e => e.bytes (e.secure && !d.secure))).flatten })) ∧
      (∀ q tag token d log, Fetched s q tag 0x41 d → log = d.op 16 1 →
        (1 < log → BecomesAnswering (.logClear q tag token) s s.hub q tag Status.invalid []) ∧
        (log ≤ 1 → d.secure = false → d.op 32 4 ≠ 224 → BecomesAnswering (.logClear q tag token) s s.hub q tag Status.invalid []) ∧
        (log ≤ 1 → d.secure = false → d.op 32 4 = 224 → d.op 24 8 = 0 →
          BecomesAnswering (.logClear q tag token) s s.hub q tag Status.denied []) ∧
        (log ≤ 1 → (d.secure = true ∨ d.op 32 4 = 224 ∧ d.op 24 8 ≠ 0) → s.hub.clearRuns = true →
          BecomesAnswering (.logClear q tag token) s s.hub q tag Status.busy []) ∧
        (∀ why, log ≤ 1 → d.secure = false → d.op 32 4 = 224 → d.op 24 8 ≠ 0 → s.hub.clearRuns = false → s.hub.recsNow = 0 → why = s.hub.tokenReason s.glob log (padTo 224 token) → why ≠ 0 →
          ∃ t, exec (.logClear q tag token) s = .next t ∧ HubOnly s t ∧ Reports s.hub t.hub ∧ Answered q tag Status.denied [] s.hub t.hub ∧
            t.hub.cairn.snaps = s.hub.cairn.snaps ∧ (s.hub.cairn.recQ.length < 16 → t.hub.cairn.recs = s.hub.cairn.recs) ∧
            ∃ r, t.hub.cairn.recQ.getLast? = some r ∧ r.code = 0x0204 ∧ r.source = 0x74 ∧ r.p0 = log ∧ r.p1 = why) ∧
        (log ≤ 1 → s.hub.clearRuns = false →
          (d.secure = true ∨ d.op 32 4 = 224 ∧ d.op 24 8 ≠ 0 ∧ s.hub.tokenReason s.glob log (padTo 224 token) = 0) →
          ∃ t, exec (.logClear q tag token) s = .next t ∧ HubOnly s t ∧
            RegsKeptBut ([Reg.CRN_NONCE_LO, Reg.CRN_NONCE_HI] ++ pendRegs) s.hub t.hub ∧ Answered q tag Status.ok [] s.hub t.hub ∧
            t.hub.pending 92 = true ∧ t.hub.cairn.recHead = (s.hub.cairn.recHead + 1) % 2 ^ 32 ∧
            (log = 0 → t.hub.cairn.snaps = []) ∧ (log = 1 → t.hub.cairn.snaps = s.hub.cairn.snaps) ∧
            ∃ r, r.code = 0x0701 ∧ r.source = 0x74 ∧ r.seq = s.hub.cairn.recHead ∧ r.p0 = log ∧ r.p1 = b2n (!d.secure) ∧
              (log = 0 → r.p3 = s.hub.cairn.snaps.length ∧ (∀ e, s.hub.cairn.snaps.getLast? = some e → r.p2 = e.seq) ∧
                (s.hub.cairn.recs.length < 4096 → t.hub.cairn.recs = s.hub.cairn.recs ++ [r])) ∧
              (log = 1 → s.hub.cairn.recs.length < 4096 →
                t.hub.cairn.recs = s.hub.cairn.recs.filter (fun x => x.code == 0x0701) ++ [r]))) ∧
      (∀ e d i j, s.hub.accessAt s.glob (.engine e) Reg.CRN_CLR = .ok d i j → d.cls = .f → s.hub.clearRuns = true →
        exec (.crnClrSnap (.engine e)) s = .next s ∧ exec (.crnClrRec (.engine e)) s = .next s) ∧
      (∀ e d i j, e < 4 → s.hub.accessAt s.glob (.engine e) Reg.CRN_CLR = .ok d i j → d.cls = .f → s.hub.clearRuns = false →
        s.hub.cairn.recs.length < 4096 →
        (∃ t r, exec (.crnClrSnap (.engine e)) s = .next t ∧ HubOnly s t ∧
          RegsKeptBut ([Reg.CRN_NONCE_LO, Reg.CRN_NONCE_HI] ++ pendRegs) s.hub t.hub ∧ t.hub.pending 92 = true ∧ t.hub.cairn.snaps = [] ∧
          t.hub.cairn.recs = s.hub.cairn.recs ++ [r] ∧ r.code = 0x0701 ∧ r.source = 0x40 + e ∧ r.seq = s.hub.cairn.recHead ∧ r.p0 = 0 ∧
          r.p1 = 0 ∧ r.p3 = s.hub.cairn.snaps.length) ∧
        (∃ t r, exec (.crnClrRec (.engine e)) s = .next t ∧ HubOnly s t ∧
          RegsKeptBut ([Reg.CRN_NONCE_LO, Reg.CRN_NONCE_HI] ++ pendRegs) s.hub t.hub ∧ t.hub.pending 92 = true ∧
          t.hub.cairn.snaps = s.hub.cairn.snaps ∧ t.hub.cairn.recs = s.hub.cairn.recs.filter (fun x => x.code == 0x0701) ++ [r] ∧
          r.code = 0x0701 ∧ r.source = 0x40 + e ∧ r.seq = s.hub.cairn.recHead ∧ r.p0 = 1 ∧ r.p1 = 0 ∧
          r.p3 = (s.hub.cairn.recs.filter (fun x => x.code != 0x0701)).length)))

/-- R409: the services on SE0 to SE3. A new pairing key is read from DRAM and its argument overwritten with zeros; the applied SEC registers are
saved; a key is revoked unless it is the running image's or the last. Settings are not written in a trial, and each service done with OK is
recorded. R448: the JTAG port reads and writes registers and memories. (The layout of the services' items and of the settings is the model's choice, log entry 14.) -/
def Obligations.ServicesAndJtagReachSecureState : Prop :=
  (∀ (s : State) (e : Nat) (i : WorkItem),
    (s.hub.serviceItem e 0xA1 = some i →
      (s.hub.fwu.inTrial = true →
        ∃ t, exec (.setPairingKey e []) s = .next t ∧ t.mem = s.mem ∧ t.glob = s.glob ∧ Served e i Status.busy s t ∧
          t.hub.fwu = { s.hub.fwu with lockedWr := satInc 8 s.hub.fwu.lockedWr }) ∧
      (∀ a, s.hub.fwu.inTrial = false → a = leAt i.body 8 8 → s.hub.inDram a 32 = true →
        ∃ t, exec (.setPairingKey e []) s = .next t ∧ t.glob = s.glob ∧ DramKeptBut a 32 s.mem t.mem ∧ t.mem.dramBytes a 32 = zeros 32 ∧
          (s.mem.poisoned a 32 = true → Served e i Status.uncorrectable s t ∧ t.hub.fwu = s.hub.fwu) ∧
          (s.mem.poisoned a 32 = false → Served e i Status.ok s t ∧ t.hub.fwu.settings.key = s.mem.dramBytes a 32 ∧
            t.hub.fwu.settings.sec = s.hub.fwu.settings.sec ∧
            (s.hub.fwu.newest.valid = true → t.hub.fwu.set0 = s.hub.fwu.newest ∨ t.hub.fwu.set1 = s.hub.fwu.newest) ∧
            (s.hub.recsNow = 0 → ∃ r, t.hub.cairn.recQ.getLast? = some r ∧ r.code = 0x0205 ∧ r.source = 0x40 + e ∧ r.p0 = 0xA1 ∧
              r.p1 = byteAt i.body 16)))) ∧
    (s.hub.serviceItem e 0xA2 = some i →
      (s.hub.fwu.inTrial = true →
        ∃ t, exec (.saveSecRegisters e) s = .next t ∧ t.mem = s.mem ∧ t.glob = s.glob ∧ Served e i Status.busy s t ∧
          t.hub.fwu = { s.hub.fwu with lockedWr := satInc 8 s.hub.fwu.lockedWr }) ∧
      (s.hub.fwu.inTrial = false →
        ∃ t, exec (.saveSecRegisters e) s = .next t ∧ t.mem = s.mem ∧ t.glob = s.glob ∧ Served e i Status.ok s t ∧
          t.hub.fwu.settings.sec = secOffsets.map (fun o => (o, s.hub.n o)) ∧ t.hub.fwu.settings.key = s.hub.fwu.settings.key)) ∧
    (∀ n, s.hub.serviceItem e 0xA3 = some i → n = byteAt i.body 16 →
      ((3 < n ∨ n = imgKey s.hub.fwu.running ∧ s.hub.fwu.running ≠ [] ∨ s.glob.otp.goodKeys = [n]) →
        ∃ t, exec (.revokeKey e) s = .next t ∧ t.mem = s.mem ∧ t.glob = s.glob ∧ Served e i Status.invalid s t ∧ t.hub.fwu = s.hub.fwu) ∧
      (n ≤ 3 → n ≠ imgKey s.hub.fwu.running → s.glob.otp.goodKeys ≠ [n] →
        ∃ t, exec (.revokeKey e) s = .next t ∧ t.mem = s.mem ∧
          t.glob = { s.glob with otp := { s.glob.otp with keyRevoke := t.glob.otp.keyRevoke } } ∧ t.glob.otp.keyRevoke.testBit n = true ∧
          (∀ k, k ≠ n → t.glob.otp.keyRevoke.testBit k = s.glob.otp.keyRevoke.testBit k) ∧ Served e i Status.ok s t ∧
          t.hub.fwu = s.hub.fwu))) ∧
  (∀ (s : State) (secure : Bool), secure = s.hub.requesterSecure s.glob .jtag →
    (∀ off d i j, s.hub.accessAt s.glob .jtag off = .ok d i j → d.id.counterLo = false →
      exec (.jtagAccess (.reg off) none [] cleanFetch) s = .next { s with hub := s.hub.emit (.jtagRead (s.hub.view s.glob off)) }) ∧
    (∀ off, s.hub.accessAt s.glob .jtag off = .absent →
      exec (.jtagAccess (.reg off) none [] cleanFetch) s = .next { s with hub := s.hub.emit (.jtagRead 0) } ∧
      ∀ v, exec (.jtagAccess (.reg off) (some v) [] cleanFetch) s = .next s) ∧
    (∀ v value, v < 64 → s.hub.allows s.glob .jtag (Reg.INT_VEC_CTLv v) = true →
      ∃ t, exec (.jtagAccess (.reg (Reg.INT_VEC_CTLv v)) (some value) [] cleanFetch) s = .next t ∧ HubOnly s t ∧
        t.hub.f (Reg.INT_VEC_CTLv v) 9 0 = value % 1024 ∧ RegsKeptBut [Reg.INT_VEC_CTLv v] s.hub t.hub) ∧
    (∀ a, s.hub.inDram a 4 = true → s.hub.dramRefused s.mem secure false a 4 = none → s.mem.poisoned a 4 = false →
      exec (.jtagAccess (.dram a) none [] cleanFetch) s = .next { s with hub := s.hub.emit (.jtagRead (s.mem.dramLe a 4)) }) ∧
    (∀ a v, s.hub.inDram a 4 = true → s.hub.dramRefused s.mem secure true a 4 = none →
      ∃ t, exec (.jtagAccess (.dram a) (some v) [] cleanFetch) s = .next t ∧ t.hub = s.hub ∧ t.glob = s.glob ∧ t.pending = s.pending ∧
        t.mem.dramBytes a 4 = leBytes 4 v ∧ DramKeptBut a 4 s.mem t.mem) ∧
    (∀ a v, (s.hub.dramRefused s.mem secure true a 4).isSome = true →
      ∃ t, exec (.jtagAccess (.dram a) (some v) [] cleanFetch) s = .next t ∧ t.pending = s.pending ∧ t.glob = s.glob ∧
        DramKeptBut a 4 s.mem t.mem ∧ (s.hub.blocksOpen s.mem secure true a 4 = [] → t.mem = s.mem) ∧
        (a / 64 = (a + 3) / 64 → t.hub.f Reg.SEC_VIOL_CNT 30 0 = satInc 31 (s.hub.f Reg.SEC_VIOL_CNT 30 0))) ∧
    (∀ a errs, s.hub.inDram a 4 = false → errs = [] →
      ∃ t v, exec (.jtagAccess (.dram a) none errs cleanFetch) s = .next t ∧ t.mem = s.mem ∧ Out.jtagRead v ∈ t.hub.out ∧ v < 2 ^ 32) ∧
    (∀ a, 0x3000000 < a + 4 → ∀ write line, exec (.jtagAccess (.sram a) write [] line) s = .next s) ∧
    (∀ a, a + 4 ≤ 0x3000000 → s.hub.sramRefused secure false a 4 = false → sramHeld a 4 = false → s.mem.rangeBad .sram a 4 = false →
      ∃ u, AsRead s u ∧
        exec (.jtagAccess (.sram a) none [] cleanFetch) s = .next { u with hub := u.hub.emit (.jtagRead (s.mem.sramLe a 4)) }) ∧
    (∀ a v, a + 4 ≤ 0x3000000 → s.hub.sramRefused secure true a 4 = false → s.mem.rangeBad .sram a 4 = false →
      ∃ t u, AsRead s u ∧ exec (.jtagAccess (.sram a) (some v) [] cleanFetch) s = .next t ∧ t.hub = u.hub.itemsStored t.mem a 4 ∧ t.glob = s.glob ∧
        t.pending = s.pending ∧ CellsWritten a (leBytes 4 v) s.mem.sram t.mem.sram ∧ t.mem.dram = s.mem.dram ∧ t.mem.tags = s.mem.tags ∧
        t.mem.imem = s.mem.imem ∧ t.mem.dmem = s.mem.dmem))

/-- R418 to R420, R425: FREEZE is written; CLR_ALL clears the counters of the non-secure world and no other; CLR of an engine or of a set clears that
engine or set only, and leaves the copies of the upper halves; and a read of a low half latches the upper half. -/
def Obligations.CountersFreezeClearAndLatch : Prop :=
  ∀ (s : State) (who : Requester), s.hub.quietTo who = true →
    (∀ freeze d i j, s.hub.accessAt s.glob who Reg.PMU_CTL = .ok d i j → d.cls = .f →
      (∃ t, exec (.pmuFreeze who freeze) s = .next t ∧ HubOnly s t ∧ t.hub.bit Reg.PMU_CTL 0 = freeze ∧
        RegsKeptBut [Reg.PMU_CTL] s.hub t.hub ∧ t.hub.pmu = s.hub.pmu) ∧
      ∃ t, exec (.pmuClrAll who freeze) s = .next t ∧ HubOnly s t ∧ t.hub.bit Reg.PMU_CTL 0 = freeze ∧
        (∀ off, off / 0x10000 ≠ 0x16 → t.hub.rd off = s.hub.rd off) ∧
        (∀ e, e < 24 → s.hub.engineSecure e = false → t.hub.pmuOf (Reg.PMUe_CYC_LO e) = 0 ∧ t.hub.f (Reg.PMUe_CNT_CTL e) 16 8 = 0 ∧
          ∀ k, k < 8 → t.hub.pmuOf (Reg.PMUe_CNTk_LO e k) = 0) ∧
        (∀ e, e < 24 → s.hub.engineSecure e = true → t.hub.pmuOf (Reg.PMUe_CYC_LO e) = s.hub.pmuOf (Reg.PMUe_CYC_LO e) ∧
          t.hub.rd (Reg.PMUe_CNT_CTL e) = s.hub.rd (Reg.PMUe_CNT_CTL e) ∧
          ∀ k, k < 8 → t.hub.pmuOf (Reg.PMUe_CNTk_LO e k) = s.hub.pmuOf (Reg.PMUe_CNTk_LO e k)) ∧
        (∀ p, p < 32 → t.hub.n (Reg.PMU_SCNp_SLACK_MIN p) = 0xFFFFFF ∧ ∀ k, k < 4 → t.hub.pmuOf (Reg.PMU_SCNp_PX_EXAM_LO p + 8 * k) = 0) ∧
        (∀ n, n < 32 → t.hub.pmuOf (Reg.PMU_NSHn_TX_BLK_LO n) = 0 ∧ t.hub.pmuOf (Reg.PMU_NSHn_IDLE_BLK_LO n) = 0 ∧
          t.hub.n (Reg.PMU_NSHn_PEAK n) = 0 ∧ ∀ r, r < 4 → t.hub.n (Reg.PMU_NSHn_RATE_MSr n r) = 0) ∧
        ∀ k, k < 4 → t.hub.pmuOf (Reg.PMU_COL_GRANTS_LO + 8 * k) = 0) ∧
    (∀ e userRd d i j, e < 24 → s.hub.accessAt s.glob who (Reg.PMUe_CNT_CTL e) = .ok d i j → d.cls = .f →
      ∃ t, exec (.pmuEngineClr who e userRd) s = .next t ∧ HubOnly s t ∧ t.hub.bit (Reg.PMUe_CNT_CTL e) 0 = userRd ∧
        t.hub.f (Reg.PMUe_CNT_CTL e) 16 8 = 0 ∧ t.hub.pmuOf (Reg.PMUe_CYC_LO e) = 0 ∧ (∀ k, k < 8 → t.hub.pmuOf (Reg.PMUe_CNTk_LO e k) = 0) ∧
        t.hub.rd (Reg.PMUe_CYC_LO e + 4) = s.hub.rd (Reg.PMUe_CYC_LO e + 4) ∧ (∀ k, k < 8 → t.hub.rd (Reg.PMUe_CNTk_LO e k + 4) = s.hub.rd (Reg.PMUe_CNTk_LO e k + 4)) ∧
        (∀ off, (off < Reg.PMUe_CYC_LO e ∨ Reg.PMUe_CYC_LO e + 72 ≤ off) → t.hub.pmuOf off = s.hub.pmuOf off) ∧
        ∀ off, (off < Reg.PMUe_CYC_LO e ∨ Reg.PMUe_CYC_LO e + 72 ≤ off) → off ≠ Reg.PMUe_CNT_CTL e → t.hub.rd off = s.hub.rd off) ∧
    (∀ p d i j, p < 32 → s.hub.accessAt s.glob who (Reg.PMU_SCNp_CTL p) = .ok d i j → d.cls = .f →
      ∃ t, exec (.pmuSetClr who (.pipe p)) s = .next t ∧ HubOnly s t ∧ t.hub.n (Reg.PMU_SCNp_SLACK_MIN p) = 0xFFFFFF ∧
        (∀ k, k < 4 → t.hub.pmuOf (Reg.PMU_SCNp_PX_EXAM_LO p + 8 * k) = 0) ∧
        ∀ off, (off < Reg.PMU_SCNp_PX_EXAM_LO p ∨ Reg.PMU_SCNp_CTL p ≤ off) → t.hub.pmuOf off = s.hub.pmuOf off ∧ t.hub.rd off = s.hub.rd off) ∧
    (∀ n d i j, n < 32 → s.hub.accessAt s.glob who (Reg.PMU_NSHn_CTL n) = .ok d i j → d.cls = .f →
      ∃ t, exec (.pmuSetClr who (.port n)) s = .next t ∧ HubOnly s t ∧ t.hub.pmuOf (Reg.PMU_NSHn_TX_BLK_LO n) = 0 ∧
        t.hub.pmuOf (Reg.PMU_NSHn_IDLE_BLK_LO n) = 0 ∧ t.hub.n (Reg.PMU_NSHn_PEAK n) = 0 ∧
        (∀ r, r < 4 → t.hub.n (Reg.PMU_NSHn_RATE_MSr n r) = 0) ∧
        ∀ off, (off < Reg.PMU_NSHn_TX_BLK_LO n ∨ Reg.PMU_NSHn_CTL n ≤ off) → t.hub.pmuOf off = s.hub.pmuOf off ∧ t.hub.rd off = s.hub.rd off) ∧
    (∀ d i j, s.hub.accessAt s.glob who Reg.PMU_COL_CTL = .ok d i j → d.cls = .f →
      ∃ t, exec (.pmuSetClr who .col) s = .next t ∧ HubOnly s t ∧ (∀ k, k < 4 → t.hub.pmuOf (Reg.PMU_COL_GRANTS_LO + 8 * k) = 0) ∧
        ∀ off, (off < Reg.PMU_COL_GRANTS_LO ∨ Reg.PMU_COL_CTL ≤ off) → t.hub.pmuOf off = s.hub.pmuOf off ∧ t.hub.rd off = s.hub.rd off) ∧
    (∀ off d i j, s.hub.accessAt s.glob who off = .ok d i j →
      (d.id.counterLo = true → ∃ t, exec (.pmuLoRead who off) s = .next t ∧ HubOnly s t ∧ RegsKeptBut [off + 4] s.hub t.hub ∧
        Out.regRead who off (leBytes 4 (s.hub.view s.glob off)) ∈ t.hub.out ∧
        t.hub.n (off + 4) = s.hub.pmuOf off / 2 ^ 32 % 2 ^ 32 ∧ t.hub.pmu = s.hub.pmu) ∧
      (d.id.counterLo = false →
        exec (.pmuLoRead who off) s = .next { s with hub := s.hub.emit (.regRead who off (leBytes 4 (s.hub.view s.glob off))) }))

/-! ## Power, heat and reset (spec/19_power_clocks_reset.md) -/

/-- R428, R430, R432, R434, R436, R445: an idle hub enters the deepest state that qualifies; a wake source returns it to D0 with its code; and
MAXSTATE bounds the states, so a shallower one wakes the hub. R427: a Host bit of PWR_DOM_CTL powers its domain off, or the request waits, and on
again. R443, R444: the sensors' readings and their highest are kept; crossing THERM_HI raises source 95, and the critical limit enters the safe
state with cause 0x7; the comparator of 125 °C drives THERMTRIP_N. R434, R435: a command that arrives as a wake source acts as it does in D0, where it has
brought the hub with its code; of two causes in one AON cycle the lower stands; outside D0 a known event that is near wakes the hub in the next cycle. (When in the
cycle the hub sees that, that a set's tables hold no domain on, and the code 8 of a MAXSTATE written by another than the host are the model's choices, log
entries 9 and 41.) -/
def Obligations.PowerAndHeatFollowTheirRules : Prop :=
  ((∀ s : State,
      (∀ k, k ≤ 3 → s.hub.deepest s.glob < k → s.hub.qualifies s.glob k = false) ∧
      (s.hub.deepest s.glob ≠ 0 → s.hub.qualifies s.glob (s.hub.deepest s.glob) = true) ∧
      (∀ k, s.hub.qualifies s.glob k = true → k ≤ s.hub.f Reg.PWR_CTL 2 0) ∧
      ((s.hub.power.state ≠ 0 ∨ s.hub.deepest s.glob = 0) → exec .powerStateEntry s = .next s) ∧
      (s.hub.power.state = 0 → s.hub.deepest s.glob ≠ 0 →
        ∃ t, exec .powerStateEntry s = .next t ∧ t.glob = s.glob ∧ t.pending = s.pending ∧ (s.hub.deepest s.glob ≠ 3 → RegsKeptBut pendRegs s.hub t.hub) ∧
          (∀ off, off / 0x10000 ≠ 0x16 → off ∉ pendRegs → t.hub.rd off = s.hub.rd off) ∧
          (s.hub.deepest s.glob = 3 → ∀ e, e < 24 → t.hub.pmuOf (Reg.PMUe_CYC_LO e) = 0 ∧ ∀ k, k < 8 → t.hub.pmuOf (Reg.PMUe_CNTk_LO e k) = 0) ∧
          t.hub.power = { s.hub.power with state := s.hub.deepest s.glob, resCycles := 0 } ∧ t.hub.commit = s.hub.commit ∧
          (s.hub.deepest s.glob ≠ 3 → t.mem = s.mem) ∧ t.mem.dram = s.mem.dram ∧ t.mem.tags = s.mem.tags ∧ t.mem.sram = s.mem.sram ∧
          (s.hub.deepest s.glob = 3 → ∀ e k, e < 24 → k < 0x20000 →
            Sparse.get Memory.blank t.mem.imem (Memory.localBase e + k) = Memory.blank ∧
            Sparse.get Memory.blank t.mem.dmem (Memory.localBase e + k) = Memory.blank) ∧
          (2 ≤ s.hub.deepest s.glob → t.hub.pending 94 = true)) ∧
      (∀ code, wakesFrom code s.hub.power.state = true → s.hub.power.state ≠ 0 → (code = 1 → s.hub.wakeDue = true) →
        ∃ t, exec (.wake code) s = .next t ∧ t.pending = s.pending ∧ t.glob = s.glob ∧ FirmwareOnly s t ∧ t.mem.dram = s.mem.dram ∧
          t.mem.tags = s.mem.tags ∧ (s.hub.power.state ≠ 3 → t.mem = s.mem) ∧ RegsKeptBut (Reg.GLB_NSH_HINT :: pendRegs) s.hub t.hub ∧
          t.hub.power = { s.hub.power with state := 0, wake := code, wokeAt := some s.hub.clock } ∧
          (s.hub.power.state ≠ 3 → t.hub.engines = s.hub.engines ∧ t.hub.ports = s.hub.ports) ∧
          (s.hub.power.state = 3 → ∀ e, e < 24 → s.hub.bit (Reg.SPRe_CTL e) 0 = true →
            (t.hub.eng e).phase = EngPhase.allowed s.glob (if e < 4 then .running else .loading)) ∧
          (s.hub.power.state = 3 → s.glob.safe = false → ∀ n, n < 32 → s.hub.bit (Reg.NSHn_CTL n) 0 = true →
            (t.hub.port n).phase = .training true) ∧
          (2 ≤ s.hub.power.state → t.hub.pending 94 = true)) ∧
      (∀ code, (s.hub.awake code = true ∨ code = 1 ∧ s.hub.wakeDue = false) → exec (.wake code) s = .next s) ∧
      (∀ code t0, 1 ≤ code → code ≤ 8 → (code = 1 → s.hub.wakeDue = true) → s.hub.power.state = 0 → s.hub.power.wokeAt = some t0 →
        sameAon s.hub.clock t0 = true → code < s.hub.power.wake →
        exec (.wake code) s = .next { s with hub := { s.hub with power := { s.hub.power with wake := code } } }) ∧
      (∀ c code, arrivalCode s.hub c = some code → exec c s = exec c (s.wokenBy code)) ∧
      (∀ temps, thermalEvent temps s.hub s.glob = true → exec (.thermalSample temps) s = exec (.thermalSample temps) (s.wokenBy 7)) ∧
      (s.hub.power.state ≠ 0 → s.hub.wakeDue = true → (powerTick s).hub.power.state = 0 ∧ (powerTick s).hub.power.wake = 1) ∧
      (∀ who value, s.hub.quietTo who = true → s.hub.allows s.glob who Reg.PWR_CTL = true →
        ∃ t, exec (.pwrCtlWrite who value) s = .next t ∧ t.pending = s.pending ∧ t.glob = s.glob ∧ FirmwareOnly s t ∧
          (s.hub.power.state ≠ 3 → t.mem = s.mem) ∧ RegsKeptBut (Reg.PWR_CTL :: Reg.GLB_NSH_HINT ::
            (if bitOf value 31 then [Reg.PWR_RES_Ds 0, Reg.PWR_RES_Ds 1, Reg.PWR_RES_Ds 2] else []) ++ pendRegs) s.hub t.hub ∧
          t.hub.f Reg.PWR_CTL 2 0 = value % 8 ∧ t.hub.f Reg.PWR_CTL 15 8 = value / 256 % 256 ∧
          (bitOf value 31 = true → ∀ k, k < 3 → t.hub.n (Reg.PWR_RES_Ds k) = 0) ∧
          (s.hub.power.state ≤ min (value % 8) 3 → t.hub.power = s.hub.power) ∧
          (min (value % 8) 3 < s.hub.power.state → t.hub.power = { s.hub.power with state := 0, wake := 8, wokeAt := some s.hub.clock })) ∧
      (∀ value, s.hub.power.state ≠ 0 → s.hub.power.state ≤ 3 → (s.wokenBy 2).hub.allows s.glob .host Reg.PWR_CTL = true →
        ∃ t, exec (.pwrCtlWrite .host value) s = .next t ∧ t.hub.power.state = 0 ∧ t.hub.power.wake = 2 ∧ t.hub.f Reg.PWR_CTL 2 0 = value % 8) ∧
      (∀ who d i j, s.hub.quietTo who = true → s.hub.accessAt s.glob who Reg.PWR_CTL = .ok d i j → d.cls = .f →
        ∃ t, exec (.pwrResClr who) s = .next t ∧ HubOnly s t ∧ (∀ k, k < 3 → t.hub.n (Reg.PWR_RES_Ds k) = 0) ∧
          RegsKeptBut [Reg.PWR_RES_Ds 0, Reg.PWR_RES_Ds 1, Reg.PWR_RES_Ds 2] s.hub t.hub)) ∧
    (∀ (s : State) (who : Requester) (d : Nat), s.hub.quietTo who = true → hostDomain d = true → s.hub.allows s.glob who Reg.PWR_DOM_CTL = true →
      (s.hub.bit Reg.PWR_DOM_CTL d = false → s.hub.domainOn d = true →
        ((s.hub.commit.phase = .pending ∧ s.hub.setInDomain d = true ∨ 2 ≤ s.hub.power.state) →
          ∃ t, exec (.domainPowerOff who d) s = .next t ∧ HubOnly s t ∧ RegsKeptBut [Reg.PWR_DOM_CTL] s.hub t.hub ∧
            t.hub.bit Reg.PWR_DOM_CTL d = true ∧ t.hub.power.domains = s.hub.power.domains ∧ d ∈ t.hub.power.offPending) ∧
        (s.hub.commit.phase ≠ .pending → s.hub.power.state < 2 →
          ∃ t, exec (.domainPowerOff who d) s = .next t ∧ t.pending = s.pending ∧ t.glob = s.glob ∧ t.mem.dram = s.mem.dram ∧
            t.mem.tags = s.mem.tags ∧ t.mem.sram = s.mem.sram ∧ (d ≠ 6 → t.mem = s.mem) ∧ t.hub.bit Reg.PWR_DOM_CTL d = true ∧
            t.hub.domainOn d = false ∧ (∀ k, k ≠ d → t.hub.domainOn k = s.hub.domainOn k) ∧ t.hub.pending 94 = true ∧
            (d = 3 ∨ d = 10 ∨ d = 11 → RegsKeptBut (Reg.PWR_DOM_CTL :: pendRegs) s.hub t.hub))) ∧
      (s.hub.bit Reg.PWR_DOM_CTL d = true → s.hub.domainOn d = false →
        ∃ t, exec (.domainPowerOn who d) s = .next t ∧ HubOnly s t ∧ t.hub.bit Reg.PWR_DOM_CTL d = false ∧ t.hub.domainOn d = true ∧
          (∀ k, k ≠ d → t.hub.domainOn k = s.hub.domainOn k) ∧ (∀ b, b.domain = d → t.hub.isolatedBlock b = false) ∧
          t.hub.pending 94 = true ∧
          (d = 3 ∨ d = 10 → ∀ off, (offsetInDomain off d = true → t.hub.n off &&& rwMask off = s.hub.n off &&& rwMask off) ∧
            (offsetInDomain off d = false → off ∉ Reg.PWR_DOM_CTL :: (List.range 20).map Reg.GLB_LNK_RPLx ++ pendRegs →
              t.hub.rd off = s.hub.rd off)) ∧
          ∀ x, x < 20 → regionRouter (linkCounted x) = d → t.hub.rd (Reg.GLB_LNK_RPLx x) = 0))) ∧
  (∀ s : State,
      (∀ temps : List Int, temps ≠ [] → temps.length ≤ 8 → s.glob.safe = false → s.hub.awake 7 = true →
        (((hottest temps).2 < 4 * criticalLimit s.glob ∨ s.hub.power.critical = true) →
          ∃ t, exec (.thermalSample temps) s = .next t ∧ HubOnly s t ∧
            RegsKeptBut ((List.range 8).map (fun i => Reg.PWR_THERMi i) ++ pendRegs) s.hub t.hub ∧
            (∀ i v, temps[i]? = some v → t.hub.f (Reg.PWR_THERMi i) 11 0 = satSigned 12 v ∧
              t.hub.f (Reg.PWR_THERMi i) 27 16 = satSigned 12 (max (signed 12 (s.hub.f (Reg.PWR_THERMi i) 27 16)) v)) ∧
            (s.hub.power.hot = false → 4 * (s.hub.f Reg.PWR_THERM_CTL 7 0 : Int) < (hottest temps).2 →
              t.hub.pending 95 = true ∧ t.hub.power.hot = true) ∧
            (s.hub.power.hot = true → (hottest temps).2 ≤ 4 * (s.hub.f Reg.PWR_THERM_CTL 7 0 : Int) - 20 →
              t.hub.pending 95 = true ∧ t.hub.power.hot = false)) ∧
        (4 * criticalLimit s.glob ≤ (hottest temps).2 → s.hub.power.critical = false →
          ∃ t, exec (.thermalSample temps) s = .next t ∧ Entered 7 s t ∧ t.hub.pending 95 = true)) ∧
      (∀ temps : List Int, temps ≠ [] → (∀ v ∈ temps, v ≤ (hottest temps).2) ∧ temps[(hottest temps).1]? = some (hottest temps).2) ∧
      exec .thermtrip s = .next { s with hub := { s.hub with
        power := { s.hub.power with trip := true }, out := .thermtrip :: s.hub.out } })

/-- R27, R410, R437, R438, R440, R459, R465: PORST_N low or a droop clears everything but the fuses, the straps and the flash; its end boots the hub;
a warm reset keeps the memories, the time bases' counts and the logs, and leaves the safe state. Nothing but a rise of PORST_N ends a reset. R37, R38:
from link bring-up on the link stands at a width that the strap allows, and the configuration space is read; before it no request is answered. (The
revision that it reports is the model's choice, log entry 44; what a warm reset keeps beside what Table 19.7 names is its reading, log entry 11; the values of a cold
reset that the manual does not give are its choice, log entry 4; the corners of the boot are log entry 12.) -/
def Obligations.ResetsClearAndBootTheHub : Prop :=
  (∀ (s : State) (c : Instr) (next : Nat), (c = .porstLow ∧ next = 1 ∨ c = .supplyDroop ∧ next = 0) →
    ((c = .supplyDroop ∨ s.hub.fwu.phase ≠ .reset) →
      ∃ t, exec c s = .next t ∧ t.pending = s.pending ∧ t.glob = { s.glob with safe := false, cause := 0, forced := false } ∧ t.mem = {} ∧
        (∀ off, off ≠ Reg.SEC_MWORLD → off ≠ Reg.PWR_THERM_CTL → t.hub.rd off = Reg.resetValue off) ∧
        (s.glob.otp.hostNs = true → t.hub.n Reg.SEC_MWORLD = 0) ∧ t.hub.fwu.phase = .reset ∧ t.hub.power.rstNext = next ∧
        t.hub.power.trip = false ∧ t.hub.cairn = {} ∧ t.hub.rings = {} ∧ t.hub.commit = {} ∧ t.hub.time = {} ∧ t.hub.engines = [] ∧ t.hub.col = {} ∧
        (s.hub.fwu.op = none → t.hub.fwu.images = s.hub.fwu.images) ∧ t.hub.fwu.boot0 = s.hub.fwu.boot0 ∧
        t.hub.fwu.boot1 = s.hub.fwu.boot1)) ∧
  (∀ s : State, s.hub.fwu.phase = .reset →
    exec .porstLow s = .next { s with hub := { s.hub with power := { s.hub.power with porstLow := true, trip := false } } }) ∧
  (∀ (s : State) (boot lanes da db : Nat) (pair ramp : Bool),
    (s.hub.fwu.phase ≠ .reset → exec (.coldReset boot lanes pair ramp da db) s = .next s) ∧
    (s.hub.fwu.phase = .reset →
      (boot % 4 = 1 ∨ boot % 4 ≠ 2 ∧ s.hub.fwu.inUse = 0 →
        ∃ t, exec (.coldReset boot lanes pair ramp da db) s = .next t ∧ t.mem = s.mem ∧ t.pending = s.pending ∧
          t.glob.straps = { bootMode := boot % 4, pairId := pair, pcieLanes := lanes % 4 } ∧ t.glob.otp = s.glob.otp ∧
          t.hub.fwu.phase = .recovery ∧ t.hub.pending 91 = true ∧ t.hub.power.rstCause = s.hub.power.rstNext ∧ t.hub.power.rootLock = true ∧
          t.hub.rings.link.ready = true) ∧
      (boot % 4 = 2 → s.glob.otp.dbgLock = false →
        ∃ t, exec (.coldReset boot lanes pair ramp da db) s = .next t ∧ t.hub.fwu.phase = .halted ∧ t.mem = s.mem ∧ t.pending = s.pending ∧
          t.hub.rings.link = s.hub.rings.link) ∧
      (boot % 4 = 0 ∨ boot % 4 = 3 → s.hub.fwu.inUse ≠ 0 → s.hub.fwu.boot.pending = false → s.hub.fwu.boot.trial = false → s.hub.fwu.boot.slot < 2 →
        imgVerifies s.glob.otp s.hub.fwu.inUse true (s.hub.fwu.image s.hub.fwu.boot.slot) = true → s.hub.cairn.recQ = [] →
        ∃ t r, exec (.coldReset boot lanes pair ramp da db) s = .next t ∧ FirmwareOnly s t ∧ t.pending = s.pending ∧
          t.glob.otp = s.glob.otp ∧ t.hub.fwu.phase = .running ∧ t.hub.fwu.slot = s.hub.fwu.boot.slot ∧ t.hub.fwu.images = s.hub.fwu.images ∧
          t.hub.power.rstCause = s.hub.power.rstNext ∧ t.hub.power.ramp = ramp ∧
          t.hub.n Reg.MEM_STATUS = min (density da) (density db) + 8 * b2n (density da != density db) + 48 ∧
          (∀ e, e < 4 → (t.hub.eng e).phase = .running ∧ (t.hub.eng e).pc = 0 ∧ (t.hub.eng e).kmode = true ∧
            t.hub.bit (Reg.SPRe_CTL e) 0 = true) ∧
          t.hub.cairn.recQ = [r] ∧ r.code = 0x0101 ∧ r.source = 0xFFFF ∧ r.p0 = s.hub.power.rstNext % 2 ^ 32 ∧
          r.p1 = s.hub.fwu.boot.slot % 2 ^ 32 ∧ (∀ item, t.hub.configAnswer t.glob item = some (item.value t.glob)) ∧
          (s.hub.rings.link.ready = false → t.hub.rings.link.width ∈ t.glob.straps.widths ∧ 1 ≤ t.hub.rings.link.gen ∧
            t.hub.rings.link.gen ≤ 5)))) ∧
  (∀ (h : Hub) (g : Glob) (item : ConfigItem), h.rings.link.ready = false → h.configAnswer g item = none) ∧
  (∀ (s : State) (who : Requester) (cause : Nat), s.hub.quietTo who = true →
    (who = .jtag ∧ cause = 4 ∨ who ≠ .jtag ∧ s.hub.allows s.glob who Reg.GLB_RST = true ∧ cause = 2) →
    (s.hub.fwu.phase = .reset → exec (.warmReset who) s = .next s) ∧
    (s.hub.fwu.phase ≠ .reset →
      ∃ t, exec (.warmReset who) s = .next t ∧ FirmwareOnly s t ∧ (t.hub.fwu.phase ≠ .running → t.mem = s.mem) ∧ t.pending = s.pending ∧
        t.glob = { s.glob with safe := false, cause := 0, forced := false } ∧ t.hub.power.rstCause = cause ∧ t.hub.fwu.phase ≠ .reset ∧
        (∀ b, t.hub.now48 b = s.hub.now48 b ∧ (t.hub.base b).state = .free ∧ (t.hub.base b).freq = 0) ∧ t.hub.saddle.role = .unpaired ∧
        t.hub.cairn.snaps = s.hub.cairn.snaps ∧ t.hub.cairn.snapLost = 0 ∧ (s.hub.cairn.recQ.length < 14 → t.hub.cairn.recs = s.hub.cairn.recs) ∧
        t.hub.n Reg.MEM_STATUS = s.hub.n Reg.MEM_STATUS ∧ t.hub.commit.epoch = 0 ∧
        (s.hub.fwu.op = none → s.hub.fwu.boot.pending = false → t.hub.fwu.images = s.hub.fwu.images)))
end

