-- ==== Sys2Proof/Laws/Flash.lean ====
section
/-! SUPPORT. The two copies of the boot record and of the settings store: what is written is what is then in force. -/

namespace Sys2Proof.Machine

@[simp] theorem BootRec.sealed_valid (r : BootRec) : r.sealed.valid = true := by simp [BootRec.sealed, BootRec.valid, BootRec.bytes]

@[simp] theorem Settings.sealed_valid (s : Settings) : s.sealed.valid = true := by
  simp [Settings.sealed, Settings.valid, Settings.bytes, Settings.data]

@[simp] theorem BootRec.sealed_frame (r : BootRec) :
    r.sealed.seq = r.seq ∧ r.sealed.slot = r.slot ∧ r.sealed.pending = r.pending ∧ r.sealed.trial = r.trial ∧ r.sealed.failed = r.failed ∧
    r.sealed.boots = r.boots ∧ r.sealed.used = r.used ∧ r.sealed.outcome = r.outcome := ⟨rfl, rfl, rfl, rfl, rfl, rfl, rfl, rfl⟩

@[simp] theorem Settings.sealed_frame (s : Settings) :
    s.sealed.format = s.format ∧ s.sealed.seq = s.seq ∧ s.sealed.key = s.key ∧ s.sealed.sec = s.sec := ⟨rfl, rfl, rfl, rfl⟩

/-- The copy written with the next number is the newer one, whichever of the two it is. -/
theorem secondNewer_next (v : Bool) (q : Nat) : secondNewer v true q ((q + 1) % 2 ^ 32) = true := by
  unfold secondNewer
  simp only [Bool.true_and, Bool.or_eq_true, Bool.not_eq_true', decide_eq_true_eq]
  right; omega

theorem secondNewer_prev (v : Bool) (q : Nat) : secondNewer true v ((q + 1) % 2 ^ 32) q = false := by
  unfold secondNewer
  simp only [Bool.not_true, Bool.false_or, Bool.and_eq_false_iff, decide_eq_false_iff_not]
  right; omega

theorem secondNewer_lone (q : Nat) (r : Nat) : secondNewer false true q r = true := by simp [secondNewer]

/-- The boot record written is the one in force from then on (R391). -/
theorem Fwu.boot_setBoot (w : Fwu) (r : BootRec) : (w.setBoot r).boot = BootRec.sealed { r with seq := (w.boot.seq + 1) % 2 ^ 32 } := by
  have hq : (BootRec.sealed { r with seq := (w.boot.seq + 1) % 2 ^ 32 }).seq = (w.boot.seq + 1) % 2 ^ 32 := rfl
  cases h1 : w.boot1Newer
  · have hs : w.setBoot r = { w with boot1 := BootRec.sealed { r with seq := (w.boot.seq + 1) % 2 ^ 32 } } := by simp [Fwu.setBoot, h1]
    have h2 : (w.setBoot r).boot1Newer = true := by
      rw [hs, Fwu.boot1Newer, BootRec.sealed_valid, hq]
      cases hv : w.boot0.valid
      · exact secondNewer_lone _ _
      · rw [show w.boot = w.boot0 by simp [Fwu.boot, h1, hv]]; exact secondNewer_next _ _
    rw [Fwu.boot, if_pos h2, hs]
  · have hs : w.setBoot r = { w with boot0 := BootRec.sealed { r with seq := (w.boot.seq + 1) % 2 ^ 32 } } := by simp [Fwu.setBoot, h1]
    have h2 : (w.setBoot r).boot1Newer = false := by
      rw [hs, Fwu.boot1Newer, BootRec.sealed_valid, hq, show w.boot = w.boot1 by simp [Fwu.boot, h1]]
      exact secondNewer_prev _ _
    rw [Fwu.boot, if_neg (by simp [h2]), hs, if_pos (BootRec.sealed_valid _)]

/-- The settings written are the newest copy from then on (R397). -/
theorem Fwu.newest_setSettings (w : Fwu) (s : Settings) : (w.setSettings s).newest = Settings.sealed { s with seq := (w.newest.seq + 1) % 2 ^ 32, format := imgAux w.running } := by
  have hq : (Settings.sealed { s with seq := (w.newest.seq + 1) % 2 ^ 32, format := imgAux w.running }).seq = (w.newest.seq + 1) % 2 ^ 32 := rfl
  cases h1 : w.set1Newer
  · have hs : w.setSettings s = { w with set1 := Settings.sealed { s with seq := (w.newest.seq + 1) % 2 ^ 32, format := imgAux w.running } } := by simp [Fwu.setSettings, h1]
    have h2 : (w.setSettings s).set1Newer = true := by
      rw [hs, Fwu.set1Newer, Settings.sealed_valid, hq]
      cases hv : w.set0.valid
      · exact secondNewer_lone _ _
      · rw [show w.newest = w.set0 by simp [Fwu.newest, h1, hv]]; exact secondNewer_next _ _
    rw [Fwu.newest, if_pos h2, hs]
  · have hs : w.setSettings s = { w with set0 := Settings.sealed { s with seq := (w.newest.seq + 1) % 2 ^ 32, format := imgAux w.running } } := by simp [Fwu.setSettings, h1]
    have h2 : (w.setSettings s).set1Newer = false := by
      rw [hs, Fwu.set1Newer, Settings.sealed_valid, hq, show w.newest = w.set1 by simp [Fwu.newest, h1]]
      exact secondNewer_prev _ _
    rw [Fwu.newest, if_neg (by simp [h2]), hs, if_pos (Settings.sealed_valid _)]

/-- The firmware reads what it has written, because its own format is one that it can read (R399). -/
theorem Fwu.settings_setSettings (w : Fwu) (s : Settings) : (w.setSettings s).settings = (w.setSettings s).newest := by
  have hr : (w.setSettings s).running = w.running := by unfold Fwu.setSettings; split <;> rfl
  simp [Fwu.settings, Fwu.newest_setSettings, Settings.sealed, Fwu.reads, hr]

end Sys2Proof.Machine
end

