-- ==== Sys2Proof/Laws/Store.lean ====
section
/-! SUPPORT. Sparse arrays: reading after a write, and the canonical form that every operation keeps. -/

namespace Sys2Proof.Machine

variable {α : Type}

@[simp] theorem Sparse.get_nil (d : α) (k : Nat) : Sparse.get d [] k = d := rfl

theorem Sparse.get_insert (d : α) (k : Nat) (a : α) (m : Sparse α) (j : Nat) (h : ∀ e ∈ m, e.1 ≠ k) :
    Sparse.get d (Sparse.insert k a m) j = if k = j then a else Sparse.get d m j := by
  induction m with
  | nil => simp [Sparse.insert, Sparse.get]
  | cons e m ih =>
    obtain ⟨i, b⟩ := e
    have hk : i ≠ k := h (i, b) (by simp)
    have ih' := ih (fun e he => h e (by simp [he]))
    unfold Sparse.insert
    split
    · simp [Sparse.get]
    · simp only [Sparse.get, ih']
      by_cases hij : i = j
      · subst hij; simp [Ne.symm hk]
      · simp [hij]

theorem Sparse.get_erase (d : α) (k : Nat) (m : Sparse α) (j : Nat) :
    Sparse.get d (Sparse.erase k m) j = if k = j then d else Sparse.get d m j := by
  induction m with
  | nil => simp [Sparse.erase, Sparse.get]
  | cons e m ih =>
    obtain ⟨i, b⟩ := e
    unfold Sparse.erase at ih ⊢
    by_cases hik : i = k
    · subst hik; rw [List.filter_cons_of_neg (by simp), ih]
      by_cases hij : i = j <;> simp [hij, Sparse.get]
    · rw [List.filter_cons_of_pos (by simp [hik])]
      simp only [Sparse.get, ih]
      by_cases hij : i = j
      · subst hij; simp [Ne.symm hik]
      · simp [hij]

theorem Sparse.erase_keys (k : Nat) (m : Sparse α) : ∀ e ∈ Sparse.erase k m, e.1 ≠ k := by
  intro e he; simp [Sparse.erase] at he; exact he.2

/-- A read after a write: the value written at its key, and what was there at every other key. -/
theorem Sparse.get_set [DecidableEq α] (d : α) (m : Sparse α) (k : Nat) (a : α) (j : Nat) :
    Sparse.get d (Sparse.set d m k a) j = if k = j then a else Sparse.get d m j := by
  unfold Sparse.set
  split
  · rename_i h; rw [Sparse.get_erase]; by_cases hk : k = j <;> simp [hk, h]
  · rw [Sparse.get_insert _ _ _ _ _ (Sparse.erase_keys k m), Sparse.get_erase]
    by_cases hk : k = j <;> simp [hk]

@[simp] theorem Sparse.get_set_same [DecidableEq α] (d : α) (m : Sparse α) (k : Nat) (a : α) :
    Sparse.get d (Sparse.set d m k a) k = a := by simp [Sparse.get_set]

theorem Sparse.get_set_ne [DecidableEq α] (d : α) (m : Sparse α) (k j : Nat) (a : α) (h : k ≠ j) :
    Sparse.get d (Sparse.set d m k a) j = Sparse.get d m j := by simp [Sparse.get_set, h]

/-- The default that the write of one key uses does not matter to the read of another. -/
theorem Sparse.get_set_other [DecidableEq α] (d d' : α) (m : Sparse α) (k j : Nat) (a : α) (h : k ≠ j) :
    Sparse.get d' (Sparse.set d m k a) j = Sparse.get d' m j := by
  unfold Sparse.set
  split
  · rw [Sparse.get_erase]; simp [h]
  · rw [Sparse.get_insert _ _ _ _ _ (Sparse.erase_keys k m), Sparse.get_erase]; simp [h]

theorem Sparse.erase_insert (k : Nat) (a : α) (m : Sparse α) (h : ∀ e ∈ m, e.1 ≠ k) : Sparse.erase k (Sparse.insert k a m) = m := by
  induction m with
  | nil => simp [Sparse.insert, Sparse.erase]
  | cons f m ih =>
    obtain ⟨j, b⟩ := f
    have hj : j ≠ k := h (j, b) (by simp)
    have hm : m.filter (fun e => e.1 != k) = m := List.filter_eq_self.2 (fun e he => by simpa using h e (by simp [he]))
    unfold Sparse.insert
    split
    · simp [Sparse.erase, hj, hm]
    · have := ih (fun e he => h e (by simp [he]))
      unfold Sparse.erase at this ⊢
      rw [List.filter_cons_of_pos (by simpa using hj), this]

theorem Sparse.erase_erase (k : Nat) (m : Sparse α) : Sparse.erase k (Sparse.erase k m) = Sparse.erase k m := by
  simp [Sparse.erase, List.filter_filter]

/-- Of two writes of one key the later stands. -/
theorem Sparse.set_set [DecidableEq α] (d : α) (m : Sparse α) (k : Nat) (a b : α) :
    Sparse.set d (Sparse.set d m k a) k b = Sparse.set d m k b := by
  have he : Sparse.erase k (Sparse.set d m k a) = Sparse.erase k m := by
    unfold Sparse.set; split
    · exact Sparse.erase_erase k m
    · exact Sparse.erase_insert _ _ _ (Sparse.erase_keys k m)
  show (if b = d then _ else _) = (if b = d then _ else _)
  rw [he]

/-! ## The canonical form -/

theorem Sparse.rising_iff (m : Sparse α) : Sparse.rising m = true ↔ m.Pairwise (fun a b => a.1 < b.1) := by
  induction m with
  | nil => simp [Sparse.rising]
  | cons e m ih =>
    cases m with
    | nil => simp [Sparse.rising]
    | cons f m =>
      obtain ⟨i, a⟩ := e; obtain ⟨j, b⟩ := f
      simp only [Sparse.rising, Bool.and_eq_true, decide_eq_true_eq, ih, List.pairwise_cons, List.mem_cons, forall_eq_or_imp]
      constructor
      · rintro ⟨h1, h2, h3⟩; exact ⟨⟨h1, fun e he => lt_trans h1 (h2 e he)⟩, h2, h3⟩
      · rintro ⟨⟨h1, _⟩, h2, h3⟩; exact ⟨h1, h2, h3⟩

theorem Sparse.wf_iff [DecidableEq α] (d : α) (m : Sparse α) :
    Sparse.wf d m = true ↔ m.Pairwise (fun a b => a.1 < b.1) ∧ ∀ e ∈ m, e.2 ≠ d := by
  simp [Sparse.wf, Sparse.rising_iff]

theorem Sparse.mem_insert (k : Nat) (a : α) (m : Sparse α) (e : Nat × α) :
    e ∈ Sparse.insert k a m ↔ e = (k, a) ∨ e ∈ m := by
  induction m with
  | nil => simp [Sparse.insert]
  | cons f m ih =>
    obtain ⟨j, b⟩ := f
    unfold Sparse.insert
    split
    · simp
    · simp only [List.mem_cons, ih]; tauto

theorem Sparse.pairwise_insert (k : Nat) (a : α) (m : Sparse α) (hm : m.Pairwise (fun a b => a.1 < b.1)) (hk : ∀ e ∈ m, e.1 ≠ k) :
    (Sparse.insert k a m).Pairwise (fun a b => a.1 < b.1) := by
  induction m with
  | nil => simp [Sparse.insert]
  | cons f m ih =>
    obtain ⟨j, b⟩ := f
    rw [List.pairwise_cons] at hm
    unfold Sparse.insert
    split
    · rename_i h
      rw [List.pairwise_cons]
      refine ⟨?_, List.pairwise_cons.2 hm⟩
      intro e he
      rcases List.mem_cons.1 he with rfl | he
      · exact h
      · exact lt_trans h (hm.1 e he)
    · rename_i h
      have hjk : j < k := lt_of_le_of_ne (not_lt.1 h) (hk (j, b) (by simp))
      rw [List.pairwise_cons]
      refine ⟨?_, ih hm.2 (fun e he => hk e (by simp [he]))⟩
      intro e he
      rcases (Sparse.mem_insert k a m e).1 he with rfl | he
      · exact hjk
      · exact hm.1 e he

theorem Sparse.wf_filter [DecidableEq α] (d : α) (m : Sparse α) (p : Nat × α → Bool) (h : Sparse.wf d m = true) :
    Sparse.wf d (m.filter p) = true := by
  rw [Sparse.wf_iff] at h ⊢
  exact ⟨h.1.filter _, fun e he => h.2 e (List.mem_of_mem_filter he)⟩

theorem Sparse.wf_set [DecidableEq α] (d : α) (m : Sparse α) (k : Nat) (a : α) (h : Sparse.wf d m = true) :
    Sparse.wf d (Sparse.set d m k a) = true := by
  unfold Sparse.set
  split
  · exact Sparse.wf_filter d m _ h
  · rename_i ha
    have h' := Sparse.wf_filter d m (fun e => e.1 != k) h
    rw [Sparse.wf_iff] at h' ⊢
    refine ⟨Sparse.pairwise_insert k a _ h'.1 (Sparse.erase_keys k m), fun e he => ?_⟩
    rcases (Sparse.mem_insert k a _ e).1 he with rfl | he
    · exact ha
    · exact h'.2 e he

theorem Sparse.wf_foldl_set [DecidableEq α] {β : Type} (d : α) (l : List β) (k : β → Nat) (f : Sparse α → β → α) (m : Sparse α)
    (h : Sparse.wf d m = true) : Sparse.wf d (l.foldl (fun m b => Sparse.set d m (k b) (f m b)) m) = true := by
  induction l generalizing m with
  | nil => exact h
  | cons b l ih => exact ih _ (Sparse.wf_set d m _ _ h)

/-- Equal reads in the canonical form make equal arrays. -/
theorem Sparse.get_of_mem [DecidableEq α] (d : α) (m : Sparse α) (h : Sparse.wf d m = true) (e : Nat × α) (he : e ∈ m) :
    Sparse.get d m e.1 = e.2 := by
  rw [Sparse.wf_iff] at h
  induction m with
  | nil => simp at he
  | cons f m ih =>
    obtain ⟨j, b⟩ := f
    have hp := List.pairwise_cons.1 h.1
    rcases List.mem_cons.1 he with rfl | he'
    · simp [Sparse.get]
    · have : j ≠ e.1 := ne_of_lt (hp.1 e he')
      simp only [Sparse.get, this, if_false]
      exact ih ⟨hp.2, fun e he => h.2 e (by simp [he])⟩ he'

end Sys2Proof.Machine
end

