-- ==== Sys2Proof/Laws/State.lean ====
section
/-! SUPPORT. The updates of the state: what each leaves as it was, and what is read after it. -/

namespace Sys2Proof.Machine

@[simp] theorem Hub.wr_frame (h : Hub) (off : Nat) (v : Word) :
    (h.wr off v).clock = h.clock ∧ (h.wr off v).free = h.free ∧ (h.wr off v).out = h.out ∧ (h.wr off v).rings = h.rings ∧
    (h.wr off v).commit = h.commit ∧ (h.wr off v).cairn = h.cairn ∧ (h.wr off v).power = h.power ∧ (h.wr off v).time = h.time ∧
    (h.wr off v).fifos = h.fifos ∧ (h.wr off v).scan = h.scan ∧ (h.wr off v).ports = h.ports ∧ (h.wr off v).cal = h.cal ∧ (h.wr off v).net = h.net ∧
    (h.wr off v).fix = h.fix ∧ (h.wr off v).odls = h.odls ∧ (h.wr off v).col = h.col ∧ (h.wr off v).engines = h.engines ∧ (h.wr off v).fwu = h.fwu ∧
    (h.wr off v).saddle = h.saddle ∧ (h.wr off v).pmu = h.pmu ∧ (h.wr off v).slots = h.slots ∧ (h.wr off v).popped = h.popped :=
  ⟨rfl, rfl, rfl, rfl, rfl, rfl, rfl, rfl, rfl, rfl, rfl, rfl, rfl, rfl, rfl, rfl, rfl, rfl, rfl, rfl, rfl, rfl⟩

@[simp] theorem Hub.wrN_frame (h : Hub) (off v : Nat) :
    (h.wrN off v).clock = h.clock ∧ (h.wrN off v).free = h.free ∧ (h.wrN off v).out = h.out ∧ (h.wrN off v).rings = h.rings ∧
    (h.wrN off v).commit = h.commit ∧ (h.wrN off v).cairn = h.cairn ∧ (h.wrN off v).power = h.power ∧ (h.wrN off v).time = h.time ∧
    (h.wrN off v).fifos = h.fifos ∧ (h.wrN off v).scan = h.scan ∧ (h.wrN off v).ports = h.ports ∧ (h.wrN off v).cal = h.cal ∧
    (h.wrN off v).net = h.net ∧ (h.wrN off v).fix = h.fix ∧ (h.wrN off v).odls = h.odls ∧ (h.wrN off v).col = h.col ∧
    (h.wrN off v).engines = h.engines ∧ (h.wrN off v).fwu = h.fwu ∧ (h.wrN off v).saddle = h.saddle ∧ (h.wrN off v).pmu = h.pmu ∧ (h.wrN off v).slots = h.slots ∧
    (h.wrN off v).popped = h.popped :=
  ⟨rfl, rfl, rfl, rfl, rfl, rfl, rfl, rfl, rfl, rfl, rfl, rfl, rfl, rfl, rfl, rfl, rfl, rfl, rfl, rfl, rfl, rfl⟩

@[simp] theorem Hub.putF_frame (h : Hub) (off hi lo v : Nat) :
    (h.putF off hi lo v).clock = h.clock ∧ (h.putF off hi lo v).free = h.free ∧ (h.putF off hi lo v).out = h.out ∧
    (h.putF off hi lo v).rings = h.rings ∧ (h.putF off hi lo v).commit = h.commit ∧ (h.putF off hi lo v).cairn = h.cairn ∧
    (h.putF off hi lo v).power = h.power ∧ (h.putF off hi lo v).time = h.time ∧ (h.putF off hi lo v).fifos = h.fifos ∧
    (h.putF off hi lo v).scan = h.scan ∧ (h.putF off hi lo v).ports = h.ports ∧ (h.putF off hi lo v).cal = h.cal ∧ (h.putF off hi lo v).net = h.net ∧
    (h.putF off hi lo v).fix = h.fix ∧ (h.putF off hi lo v).odls = h.odls ∧ (h.putF off hi lo v).col = h.col ∧
    (h.putF off hi lo v).engines = h.engines ∧ (h.putF off hi lo v).fwu = h.fwu ∧ (h.putF off hi lo v).saddle = h.saddle ∧
    (h.putF off hi lo v).pmu = h.pmu ∧ (h.putF off hi lo v).slots = h.slots ∧ (h.putF off hi lo v).popped = h.popped :=
  ⟨rfl, rfl, rfl, rfl, rfl, rfl, rfl, rfl, rfl, rfl, rfl, rfl, rfl, rfl, rfl, rfl, rfl, rfl, rfl, rfl, rfl, rfl⟩

@[simp] theorem Hub.putBit_frame (h : Hub) (off i : Nat) (b : Bool) :
    (h.putBit off i b).clock = h.clock ∧ (h.putBit off i b).free = h.free ∧ (h.putBit off i b).out = h.out ∧ (h.putBit off i b).rings = h.rings ∧
    (h.putBit off i b).commit = h.commit ∧ (h.putBit off i b).cairn = h.cairn ∧ (h.putBit off i b).power = h.power ∧
    (h.putBit off i b).time = h.time ∧ (h.putBit off i b).fifos = h.fifos ∧ (h.putBit off i b).scan = h.scan ∧ (h.putBit off i b).ports = h.ports ∧
    (h.putBit off i b).cal = h.cal ∧ (h.putBit off i b).net = h.net ∧ (h.putBit off i b).fix = h.fix ∧ (h.putBit off i b).odls = h.odls ∧
    (h.putBit off i b).col = h.col ∧ (h.putBit off i b).engines = h.engines ∧ (h.putBit off i b).fwu = h.fwu ∧ (h.putBit off i b).saddle = h.saddle ∧
    (h.putBit off i b).pmu = h.pmu ∧ (h.putBit off i b).slots = h.slots ∧ (h.putBit off i b).popped = h.popped :=
  ⟨rfl, rfl, rfl, rfl, rfl, rfl, rfl, rfl, rfl, rfl, rfl, rfl, rfl, rfl, rfl, rfl, rfl, rfl, rfl, rfl, rfl, rfl⟩

@[simp] theorem Hub.count_frame (h : Hub) (off bits : Nat) :
    (h.count off bits).clock = h.clock ∧ (h.count off bits).free = h.free ∧ (h.count off bits).out = h.out ∧ (h.count off bits).rings = h.rings ∧
    (h.count off bits).commit = h.commit ∧ (h.count off bits).cairn = h.cairn ∧ (h.count off bits).power = h.power ∧
    (h.count off bits).time = h.time ∧ (h.count off bits).fifos = h.fifos ∧ (h.count off bits).scan = h.scan ∧ (h.count off bits).ports = h.ports ∧
    (h.count off bits).cal = h.cal ∧ (h.count off bits).net = h.net ∧ (h.count off bits).fix = h.fix ∧ (h.count off bits).odls = h.odls ∧
    (h.count off bits).col = h.col ∧ (h.count off bits).engines = h.engines ∧ (h.count off bits).fwu = h.fwu ∧ (h.count off bits).saddle = h.saddle ∧
    (h.count off bits).pmu = h.pmu ∧ (h.count off bits).slots = h.slots ∧ (h.count off bits).popped = h.popped :=
  ⟨rfl, rfl, rfl, rfl, rfl, rfl, rfl, rfl, rfl, rfl, rfl, rfl, rfl, rfl, rfl, rfl, rfl, rfl, rfl, rfl, rfl, rfl⟩

@[simp] theorem Hub.countBy_frame (h : Hub) (off bits k : Nat) :
    (h.countBy off bits k).clock = h.clock ∧ (h.countBy off bits k).free = h.free ∧ (h.countBy off bits k).out = h.out ∧
    (h.countBy off bits k).rings = h.rings ∧ (h.countBy off bits k).commit = h.commit ∧ (h.countBy off bits k).cairn = h.cairn ∧
    (h.countBy off bits k).power = h.power ∧ (h.countBy off bits k).time = h.time ∧ (h.countBy off bits k).fifos = h.fifos ∧
    (h.countBy off bits k).scan = h.scan ∧ (h.countBy off bits k).ports = h.ports ∧ (h.countBy off bits k).cal = h.cal ∧
    (h.countBy off bits k).net = h.net ∧ (h.countBy off bits k).fix = h.fix ∧ (h.countBy off bits k).odls = h.odls ∧
    (h.countBy off bits k).col = h.col ∧ (h.countBy off bits k).engines = h.engines ∧ (h.countBy off bits k).fwu = h.fwu ∧
    (h.countBy off bits k).saddle = h.saddle ∧ (h.countBy off bits k).pmu = h.pmu ∧ (h.countBy off bits k).slots = h.slots ∧ (h.countBy off bits k).popped = h.popped :=
  ⟨rfl, rfl, rfl, rfl, rfl, rfl, rfl, rfl, rfl, rfl, rfl, rfl, rfl, rfl, rfl, rfl, rfl, rfl, rfl, rfl, rfl, rfl⟩

@[simp] theorem Hub.emit_frame (h : Hub) (o : Out) :
    (h.emit o).regs = h.regs ∧ (h.emit o).clock = h.clock ∧ (h.emit o).free = h.free ∧ (h.emit o).rings = h.rings ∧ (h.emit o).commit = h.commit ∧
    (h.emit o).cairn = h.cairn ∧ (h.emit o).power = h.power ∧ (h.emit o).time = h.time ∧ (h.emit o).fifos = h.fifos ∧ (h.emit o).scan = h.scan ∧
    (h.emit o).ports = h.ports ∧ (h.emit o).cal = h.cal ∧ (h.emit o).net = h.net ∧ (h.emit o).fix = h.fix ∧ (h.emit o).odls = h.odls ∧
    (h.emit o).col = h.col ∧ (h.emit o).engines = h.engines ∧ (h.emit o).fwu = h.fwu ∧ (h.emit o).saddle = h.saddle ∧ (h.emit o).pmu = h.pmu ∧ (h.emit o).slots = h.slots ∧
    (h.emit o).popped = h.popped :=
  ⟨rfl, rfl, rfl, rfl, rfl, rfl, rfl, rfl, rfl, rfl, rfl, rfl, rfl, rfl, rfl, rfl, rfl, rfl, rfl, rfl, rfl, rfl⟩

@[simp] theorem Hub.drew_frame (h : Hub) (k : Nat) :
    (h.drew k).regs = h.regs ∧ (h.drew k).clock = h.clock ∧ (h.drew k).out = h.out ∧ (h.drew k).rings = h.rings ∧ (h.drew k).commit = h.commit ∧
    (h.drew k).cairn = h.cairn ∧ (h.drew k).power = h.power ∧ (h.drew k).time = h.time ∧ (h.drew k).fifos = h.fifos ∧ (h.drew k).scan = h.scan ∧
    (h.drew k).ports = h.ports ∧ (h.drew k).cal = h.cal ∧ (h.drew k).net = h.net ∧ (h.drew k).fix = h.fix ∧ (h.drew k).odls = h.odls ∧
    (h.drew k).col = h.col ∧ (h.drew k).engines = h.engines ∧ (h.drew k).fwu = h.fwu ∧ (h.drew k).saddle = h.saddle ∧ (h.drew k).pmu = h.pmu ∧ (h.drew k).slots = h.slots ∧
    (h.drew k).popped = h.popped :=
  ⟨rfl, rfl, rfl, rfl, rfl, rfl, rfl, rfl, rfl, rfl, rfl, rfl, rfl, rfl, rfl, rfl, rfl, rfl, rfl, rfl, rfl, rfl⟩

@[simp] theorem Hub.setSq_frame (h : Hub) (n : Nat) (q : Sq) :
    (h.setSq n q).regs = h.regs ∧ (h.setSq n q).clock = h.clock ∧ (h.setSq n q).free = h.free ∧ (h.setSq n q).out = h.out ∧
    (h.setSq n q).commit = h.commit ∧ (h.setSq n q).cairn = h.cairn ∧ (h.setSq n q).power = h.power ∧ (h.setSq n q).time = h.time ∧
    (h.setSq n q).fifos = h.fifos ∧ (h.setSq n q).scan = h.scan ∧ (h.setSq n q).ports = h.ports ∧ (h.setSq n q).cal = h.cal ∧
    (h.setSq n q).net = h.net ∧ (h.setSq n q).fix = h.fix ∧ (h.setSq n q).odls = h.odls ∧ (h.setSq n q).col = h.col ∧
    (h.setSq n q).engines = h.engines ∧ (h.setSq n q).fwu = h.fwu ∧ (h.setSq n q).saddle = h.saddle ∧ (h.setSq n q).pmu = h.pmu ∧ (h.setSq n q).slots = h.slots ∧
    (h.setSq n q).popped = h.popped :=
  ⟨rfl, rfl, rfl, rfl, rfl, rfl, rfl, rfl, rfl, rfl, rfl, rfl, rfl, rfl, rfl, rfl, rfl, rfl, rfl, rfl, rfl, rfl⟩

@[simp] theorem Hub.setCq_frame (h : Hub) (n : Nat) (c : Cq) :
    (h.setCq n c).regs = h.regs ∧ (h.setCq n c).clock = h.clock ∧ (h.setCq n c).free = h.free ∧ (h.setCq n c).out = h.out ∧
    (h.setCq n c).commit = h.commit ∧ (h.setCq n c).cairn = h.cairn ∧ (h.setCq n c).power = h.power ∧ (h.setCq n c).time = h.time ∧
    (h.setCq n c).fifos = h.fifos ∧ (h.setCq n c).scan = h.scan ∧ (h.setCq n c).ports = h.ports ∧ (h.setCq n c).cal = h.cal ∧
    (h.setCq n c).net = h.net ∧ (h.setCq n c).fix = h.fix ∧ (h.setCq n c).odls = h.odls ∧ (h.setCq n c).col = h.col ∧
    (h.setCq n c).engines = h.engines ∧ (h.setCq n c).fwu = h.fwu ∧ (h.setCq n c).saddle = h.saddle ∧ (h.setCq n c).pmu = h.pmu ∧ (h.setCq n c).slots = h.slots ∧
    (h.setCq n c).popped = h.popped :=
  ⟨rfl, rfl, rfl, rfl, rfl, rfl, rfl, rfl, rfl, rfl, rfl, rfl, rfl, rfl, rfl, rfl, rfl, rfl, rfl, rfl, rfl, rfl⟩

@[simp] theorem Hub.setVec_frame (h : Hub) (v : Nat) (x : Vec) :
    (h.setVec v x).regs = h.regs ∧ (h.setVec v x).clock = h.clock ∧ (h.setVec v x).free = h.free ∧ (h.setVec v x).out = h.out ∧
    (h.setVec v x).commit = h.commit ∧ (h.setVec v x).cairn = h.cairn ∧ (h.setVec v x).power = h.power ∧ (h.setVec v x).time = h.time ∧
    (h.setVec v x).fifos = h.fifos ∧ (h.setVec v x).scan = h.scan ∧ (h.setVec v x).ports = h.ports ∧ (h.setVec v x).cal = h.cal ∧
    (h.setVec v x).net = h.net ∧ (h.setVec v x).fix = h.fix ∧ (h.setVec v x).odls = h.odls ∧ (h.setVec v x).col = h.col ∧
    (h.setVec v x).engines = h.engines ∧ (h.setVec v x).fwu = h.fwu ∧ (h.setVec v x).saddle = h.saddle ∧ (h.setVec v x).pmu = h.pmu ∧ (h.setVec v x).slots = h.slots ∧
    (h.setVec v x).popped = h.popped :=
  ⟨rfl, rfl, rfl, rfl, rfl, rfl, rfl, rfl, rfl, rfl, rfl, rfl, rfl, rfl, rfl, rfl, rfl, rfl, rfl, rfl, rfl, rfl⟩

@[simp] theorem Hub.setBase_frame (h : Hub) (t : Nat) (b : TimeBase) :
    (h.setBase t b).regs = h.regs ∧ (h.setBase t b).clock = h.clock ∧ (h.setBase t b).free = h.free ∧ (h.setBase t b).out = h.out ∧
    (h.setBase t b).rings = h.rings ∧ (h.setBase t b).commit = h.commit ∧ (h.setBase t b).cairn = h.cairn ∧ (h.setBase t b).power = h.power ∧
    (h.setBase t b).fifos = h.fifos ∧ (h.setBase t b).scan = h.scan ∧ (h.setBase t b).ports = h.ports ∧ (h.setBase t b).cal = h.cal ∧
    (h.setBase t b).net = h.net ∧ (h.setBase t b).fix = h.fix ∧ (h.setBase t b).odls = h.odls ∧ (h.setBase t b).col = h.col ∧
    (h.setBase t b).engines = h.engines ∧ (h.setBase t b).fwu = h.fwu ∧ (h.setBase t b).saddle = h.saddle ∧ (h.setBase t b).pmu = h.pmu ∧ (h.setBase t b).slots = h.slots ∧
    (h.setBase t b).popped = h.popped :=
  ⟨rfl, rfl, rfl, rfl, rfl, rfl, rfl, rfl, rfl, rfl, rfl, rfl, rfl, rfl, rfl, rfl, rfl, rfl, rfl, rfl, rfl, rfl⟩

@[simp] theorem Hub.setCmp_frame (h : Hub) (c : Nat) (x : Compare) :
    (h.setCmp c x).regs = h.regs ∧ (h.setCmp c x).clock = h.clock ∧ (h.setCmp c x).free = h.free ∧ (h.setCmp c x).out = h.out ∧
    (h.setCmp c x).rings = h.rings ∧ (h.setCmp c x).commit = h.commit ∧ (h.setCmp c x).cairn = h.cairn ∧ (h.setCmp c x).power = h.power ∧
    (h.setCmp c x).fifos = h.fifos ∧ (h.setCmp c x).scan = h.scan ∧ (h.setCmp c x).ports = h.ports ∧ (h.setCmp c x).cal = h.cal ∧
    (h.setCmp c x).net = h.net ∧ (h.setCmp c x).fix = h.fix ∧ (h.setCmp c x).odls = h.odls ∧ (h.setCmp c x).col = h.col ∧
    (h.setCmp c x).engines = h.engines ∧ (h.setCmp c x).fwu = h.fwu ∧ (h.setCmp c x).saddle = h.saddle ∧ (h.setCmp c x).pmu = h.pmu ∧ (h.setCmp c x).slots = h.slots ∧
    (h.setCmp c x).popped = h.popped :=
  ⟨rfl, rfl, rfl, rfl, rfl, rfl, rfl, rfl, rfl, rfl, rfl, rfl, rfl, rfl, rfl, rfl, rfl, rfl, rfl, rfl, rfl, rfl⟩

@[simp] theorem Hub.setPin_frame (h : Hub) (p : Nat) (x : Pin) :
    (h.setPin p x).regs = h.regs ∧ (h.setPin p x).clock = h.clock ∧ (h.setPin p x).free = h.free ∧ (h.setPin p x).out = h.out ∧
    (h.setPin p x).rings = h.rings ∧ (h.setPin p x).commit = h.commit ∧ (h.setPin p x).cairn = h.cairn ∧ (h.setPin p x).power = h.power ∧
    (h.setPin p x).fifos = h.fifos ∧ (h.setPin p x).scan = h.scan ∧ (h.setPin p x).ports = h.ports ∧ (h.setPin p x).cal = h.cal ∧
    (h.setPin p x).net = h.net ∧ (h.setPin p x).fix = h.fix ∧ (h.setPin p x).odls = h.odls ∧ (h.setPin p x).col = h.col ∧
    (h.setPin p x).engines = h.engines ∧ (h.setPin p x).fwu = h.fwu ∧ (h.setPin p x).saddle = h.saddle ∧ (h.setPin p x).pmu = h.pmu ∧ (h.setPin p x).slots = h.slots ∧
    (h.setPin p x).popped = h.popped :=
  ⟨rfl, rfl, rfl, rfl, rfl, rfl, rfl, rfl, rfl, rfl, rfl, rfl, rfl, rfl, rfl, rfl, rfl, rfl, rfl, rfl, rfl, rfl⟩

@[simp] theorem Hub.setFifo_frame (h : Hub) (i : Nat) (l : List Nat) :
    (h.setFifo i l).regs = h.regs ∧ (h.setFifo i l).clock = h.clock ∧ (h.setFifo i l).free = h.free ∧ (h.setFifo i l).out = h.out ∧
    (h.setFifo i l).rings = h.rings ∧ (h.setFifo i l).commit = h.commit ∧ (h.setFifo i l).cairn = h.cairn ∧ (h.setFifo i l).power = h.power ∧
    (h.setFifo i l).time = h.time ∧ (h.setFifo i l).scan = h.scan ∧ (h.setFifo i l).ports = h.ports ∧ (h.setFifo i l).cal = h.cal ∧
    (h.setFifo i l).net = h.net ∧ (h.setFifo i l).fix = h.fix ∧ (h.setFifo i l).odls = h.odls ∧ (h.setFifo i l).col = h.col ∧
    (h.setFifo i l).engines = h.engines ∧ (h.setFifo i l).fwu = h.fwu ∧ (h.setFifo i l).saddle = h.saddle ∧ (h.setFifo i l).pmu = h.pmu ∧ (h.setFifo i l).slots = h.slots ∧
    (h.setFifo i l).popped = h.popped :=
  ⟨rfl, rfl, rfl, rfl, rfl, rfl, rfl, rfl, rfl, rfl, rfl, rfl, rfl, rfl, rfl, rfl, rfl, rfl, rfl, rfl, rfl, rfl⟩

@[simp] theorem Hub.setGroup_frame (h : Hub) (g : Nat) (x : Group) :
    (h.setGroup g x).regs = h.regs ∧ (h.setGroup g x).clock = h.clock ∧ (h.setGroup g x).free = h.free ∧ (h.setGroup g x).out = h.out ∧
    (h.setGroup g x).rings = h.rings ∧ (h.setGroup g x).commit = h.commit ∧ (h.setGroup g x).cairn = h.cairn ∧ (h.setGroup g x).power = h.power ∧
    (h.setGroup g x).time = h.time ∧ (h.setGroup g x).fifos = h.fifos ∧ (h.setGroup g x).ports = h.ports ∧ (h.setGroup g x).cal = h.cal ∧
    (h.setGroup g x).net = h.net ∧ (h.setGroup g x).fix = h.fix ∧ (h.setGroup g x).odls = h.odls ∧ (h.setGroup g x).col = h.col ∧
    (h.setGroup g x).engines = h.engines ∧ (h.setGroup g x).fwu = h.fwu ∧ (h.setGroup g x).saddle = h.saddle ∧ (h.setGroup g x).pmu = h.pmu ∧ (h.setGroup g x).slots = h.slots ∧
    (h.setGroup g x).popped = h.popped :=
  ⟨rfl, rfl, rfl, rfl, rfl, rfl, rfl, rfl, rfl, rfl, rfl, rfl, rfl, rfl, rfl, rfl, rfl, rfl, rfl, rfl, rfl, rfl⟩

@[simp] theorem Hub.setPipe_frame (h : Hub) (p : Nat) (x : Pipe) :
    (h.setPipe p x).regs = h.regs ∧ (h.setPipe p x).clock = h.clock ∧ (h.setPipe p x).free = h.free ∧ (h.setPipe p x).out = h.out ∧
    (h.setPipe p x).rings = h.rings ∧ (h.setPipe p x).commit = h.commit ∧ (h.setPipe p x).cairn = h.cairn ∧ (h.setPipe p x).power = h.power ∧
    (h.setPipe p x).time = h.time ∧ (h.setPipe p x).fifos = h.fifos ∧ (h.setPipe p x).ports = h.ports ∧ (h.setPipe p x).cal = h.cal ∧
    (h.setPipe p x).net = h.net ∧ (h.setPipe p x).fix = h.fix ∧ (h.setPipe p x).odls = h.odls ∧ (h.setPipe p x).col = h.col ∧
    (h.setPipe p x).engines = h.engines ∧ (h.setPipe p x).fwu = h.fwu ∧ (h.setPipe p x).saddle = h.saddle ∧ (h.setPipe p x).pmu = h.pmu ∧ (h.setPipe p x).slots = h.slots ∧
    (h.setPipe p x).popped = h.popped :=
  ⟨rfl, rfl, rfl, rfl, rfl, rfl, rfl, rfl, rfl, rfl, rfl, rfl, rfl, rfl, rfl, rfl, rfl, rfl, rfl, rfl, rfl, rfl⟩

@[simp] theorem Hub.setOdl_frame (h : Hub) (r : Nat) (x : Odl) :
    (h.setOdl r x).regs = h.regs ∧ (h.setOdl r x).clock = h.clock ∧ (h.setOdl r x).free = h.free ∧ (h.setOdl r x).out = h.out ∧
    (h.setOdl r x).rings = h.rings ∧ (h.setOdl r x).commit = h.commit ∧ (h.setOdl r x).cairn = h.cairn ∧ (h.setOdl r x).power = h.power ∧
    (h.setOdl r x).time = h.time ∧ (h.setOdl r x).fifos = h.fifos ∧ (h.setOdl r x).scan = h.scan ∧ (h.setOdl r x).ports = h.ports ∧
    (h.setOdl r x).cal = h.cal ∧ (h.setOdl r x).net = h.net ∧ (h.setOdl r x).fix = h.fix ∧ (h.setOdl r x).col = h.col ∧
    (h.setOdl r x).engines = h.engines ∧ (h.setOdl r x).fwu = h.fwu ∧ (h.setOdl r x).saddle = h.saddle ∧ (h.setOdl r x).pmu = h.pmu ∧ (h.setOdl r x).slots = h.slots ∧
    (h.setOdl r x).popped = h.popped :=
  ⟨rfl, rfl, rfl, rfl, rfl, rfl, rfl, rfl, rfl, rfl, rfl, rfl, rfl, rfl, rfl, rfl, rfl, rfl, rfl, rfl, rfl, rfl⟩

@[simp] theorem Hub.modOdl_frame (h : Hub) (r : Nat) (f : Odl → Odl) :
    (h.modOdl r f).regs = h.regs ∧ (h.modOdl r f).clock = h.clock ∧ (h.modOdl r f).free = h.free ∧ (h.modOdl r f).out = h.out ∧
    (h.modOdl r f).rings = h.rings ∧ (h.modOdl r f).commit = h.commit ∧ (h.modOdl r f).cairn = h.cairn ∧ (h.modOdl r f).power = h.power ∧
    (h.modOdl r f).time = h.time ∧ (h.modOdl r f).fifos = h.fifos ∧ (h.modOdl r f).scan = h.scan ∧ (h.modOdl r f).ports = h.ports ∧
    (h.modOdl r f).cal = h.cal ∧ (h.modOdl r f).net = h.net ∧ (h.modOdl r f).fix = h.fix ∧ (h.modOdl r f).col = h.col ∧
    (h.modOdl r f).engines = h.engines ∧ (h.modOdl r f).fwu = h.fwu ∧ (h.modOdl r f).saddle = h.saddle ∧ (h.modOdl r f).pmu = h.pmu ∧ (h.modOdl r f).slots = h.slots ∧
    (h.modOdl r f).popped = h.popped :=
  ⟨rfl, rfl, rfl, rfl, rfl, rfl, rfl, rfl, rfl, rfl, rfl, rfl, rfl, rfl, rfl, rfl, rfl, rfl, rfl, rfl, rfl, rfl⟩

@[simp] theorem Hub.setPort_frame (h : Hub) (n : Nat) (p : Port) :
    (h.setPort n p).regs = h.regs ∧ (h.setPort n p).clock = h.clock ∧ (h.setPort n p).free = h.free ∧ (h.setPort n p).out = h.out ∧
    (h.setPort n p).rings = h.rings ∧ (h.setPort n p).commit = h.commit ∧ (h.setPort n p).cairn = h.cairn ∧ (h.setPort n p).power = h.power ∧
    (h.setPort n p).time = h.time ∧ (h.setPort n p).fifos = h.fifos ∧ (h.setPort n p).scan = h.scan ∧ (h.setPort n p).cal = h.cal ∧
    (h.setPort n p).net = h.net ∧ (h.setPort n p).fix = h.fix ∧ (h.setPort n p).odls = h.odls ∧ (h.setPort n p).col = h.col ∧
    (h.setPort n p).engines = h.engines ∧ (h.setPort n p).fwu = h.fwu ∧ (h.setPort n p).saddle = h.saddle ∧ (h.setPort n p).pmu = h.pmu ∧ (h.setPort n p).slots = h.slots ∧
    (h.setPort n p).popped = h.popped :=
  ⟨rfl, rfl, rfl, rfl, rfl, rfl, rfl, rfl, rfl, rfl, rfl, rfl, rfl, rfl, rfl, rfl, rfl, rfl, rfl, rfl, rfl, rfl⟩

@[simp] theorem Hub.modPort_frame (h : Hub) (n : Nat) (f : Port → Port) :
    (h.modPort n f).regs = h.regs ∧ (h.modPort n f).clock = h.clock ∧ (h.modPort n f).free = h.free ∧ (h.modPort n f).out = h.out ∧
    (h.modPort n f).rings = h.rings ∧ (h.modPort n f).commit = h.commit ∧ (h.modPort n f).cairn = h.cairn ∧ (h.modPort n f).power = h.power ∧
    (h.modPort n f).time = h.time ∧ (h.modPort n f).fifos = h.fifos ∧ (h.modPort n f).scan = h.scan ∧ (h.modPort n f).cal = h.cal ∧
    (h.modPort n f).net = h.net ∧ (h.modPort n f).fix = h.fix ∧ (h.modPort n f).odls = h.odls ∧ (h.modPort n f).col = h.col ∧
    (h.modPort n f).engines = h.engines ∧ (h.modPort n f).fwu = h.fwu ∧ (h.modPort n f).saddle = h.saddle ∧ (h.modPort n f).pmu = h.pmu ∧ (h.modPort n f).slots = h.slots ∧
    (h.modPort n f).popped = h.popped :=
  ⟨rfl, rfl, rfl, rfl, rfl, rfl, rfl, rfl, rfl, rfl, rfl, rfl, rfl, rfl, rfl, rfl, rfl, rfl, rfl, rfl, rfl, rfl⟩

@[simp] theorem Hub.setEng_frame (h : Hub) (e : Nat) (x : Engine) :
    (h.setEng e x).regs = h.regs ∧ (h.setEng e x).clock = h.clock ∧ (h.setEng e x).free = h.free ∧ (h.setEng e x).out = h.out ∧
    (h.setEng e x).rings = h.rings ∧ (h.setEng e x).commit = h.commit ∧ (h.setEng e x).cairn = h.cairn ∧ (h.setEng e x).power = h.power ∧
    (h.setEng e x).time = h.time ∧ (h.setEng e x).fifos = h.fifos ∧ (h.setEng e x).scan = h.scan ∧ (h.setEng e x).ports = h.ports ∧
    (h.setEng e x).cal = h.cal ∧ (h.setEng e x).net = h.net ∧ (h.setEng e x).fix = h.fix ∧ (h.setEng e x).odls = h.odls ∧ (h.setEng e x).col = h.col ∧
    (h.setEng e x).fwu = h.fwu ∧ (h.setEng e x).saddle = h.saddle ∧ (h.setEng e x).pmu = h.pmu ∧ (h.setEng e x).slots = h.slots ∧ (h.setEng e x).popped = h.popped :=
  ⟨rfl, rfl, rfl, rfl, rfl, rfl, rfl, rfl, rfl, rfl, rfl, rfl, rfl, rfl, rfl, rfl, rfl, rfl, rfl, rfl, rfl, rfl⟩

@[simp] theorem Hub.modEng_frame (h : Hub) (e : Nat) (f : Engine → Engine) :
    (h.modEng e f).regs = h.regs ∧ (h.modEng e f).clock = h.clock ∧ (h.modEng e f).free = h.free ∧ (h.modEng e f).out = h.out ∧
    (h.modEng e f).rings = h.rings ∧ (h.modEng e f).commit = h.commit ∧ (h.modEng e f).cairn = h.cairn ∧ (h.modEng e f).power = h.power ∧
    (h.modEng e f).time = h.time ∧ (h.modEng e f).fifos = h.fifos ∧ (h.modEng e f).scan = h.scan ∧ (h.modEng e f).ports = h.ports ∧
    (h.modEng e f).cal = h.cal ∧ (h.modEng e f).net = h.net ∧ (h.modEng e f).fix = h.fix ∧ (h.modEng e f).odls = h.odls ∧ (h.modEng e f).col = h.col ∧
    (h.modEng e f).fwu = h.fwu ∧ (h.modEng e f).saddle = h.saddle ∧ (h.modEng e f).pmu = h.pmu ∧ (h.modEng e f).slots = h.slots ∧ (h.modEng e f).popped = h.popped :=
  ⟨rfl, rfl, rfl, rfl, rfl, rfl, rfl, rfl, rfl, rfl, rfl, rfl, rfl, rfl, rfl, rfl, rfl, rfl, rfl, rfl, rfl, rfl⟩

@[simp] theorem Hub.setSub_frame (h : Hub) (n s : Nat) (x : NetSub) :
    (h.setSub n s x).regs = h.regs ∧ (h.setSub n s x).clock = h.clock ∧ (h.setSub n s x).free = h.free ∧ (h.setSub n s x).out = h.out ∧
    (h.setSub n s x).rings = h.rings ∧ (h.setSub n s x).commit = h.commit ∧ (h.setSub n s x).cairn = h.cairn ∧ (h.setSub n s x).power = h.power ∧
    (h.setSub n s x).time = h.time ∧ (h.setSub n s x).fifos = h.fifos ∧ (h.setSub n s x).scan = h.scan ∧ (h.setSub n s x).ports = h.ports ∧
    (h.setSub n s x).cal = h.cal ∧ (h.setSub n s x).fix = h.fix ∧ (h.setSub n s x).odls = h.odls ∧ (h.setSub n s x).col = h.col ∧
    (h.setSub n s x).engines = h.engines ∧ (h.setSub n s x).fwu = h.fwu ∧ (h.setSub n s x).saddle = h.saddle ∧ (h.setSub n s x).pmu = h.pmu ∧ (h.setSub n s x).slots = h.slots ∧
    (h.setSub n s x).popped = h.popped :=
  ⟨rfl, rfl, rfl, rfl, rfl, rfl, rfl, rfl, rfl, rfl, rfl, rfl, rfl, rfl, rfl, rfl, rfl, rfl, rfl, rfl, rfl, rfl⟩

@[simp] theorem Hub.modSub_frame (h : Hub) (n s : Nat) (f : NetSub → NetSub) :
    (h.modSub n s f).regs = h.regs ∧ (h.modSub n s f).clock = h.clock ∧ (h.modSub n s f).free = h.free ∧ (h.modSub n s f).out = h.out ∧
    (h.modSub n s f).rings = h.rings ∧ (h.modSub n s f).commit = h.commit ∧ (h.modSub n s f).cairn = h.cairn ∧ (h.modSub n s f).power = h.power ∧
    (h.modSub n s f).time = h.time ∧ (h.modSub n s f).fifos = h.fifos ∧ (h.modSub n s f).scan = h.scan ∧ (h.modSub n s f).ports = h.ports ∧
    (h.modSub n s f).cal = h.cal ∧ (h.modSub n s f).fix = h.fix ∧ (h.modSub n s f).odls = h.odls ∧ (h.modSub n s f).col = h.col ∧
    (h.modSub n s f).engines = h.engines ∧ (h.modSub n s f).fwu = h.fwu ∧ (h.modSub n s f).saddle = h.saddle ∧ (h.modSub n s f).pmu = h.pmu ∧ (h.modSub n s f).slots = h.slots ∧
    (h.modSub n s f).popped = h.popped :=
  ⟨rfl, rfl, rfl, rfl, rfl, rfl, rfl, rfl, rfl, rfl, rfl, rfl, rfl, rfl, rfl, rfl, rfl, rfl, rfl, rfl, rfl, rfl⟩

@[simp] theorem Hub.setFlow_frame (h : Hub) (f : Nat) (x : Flow) :
    (h.setFlow f x).regs = h.regs ∧ (h.setFlow f x).clock = h.clock ∧ (h.setFlow f x).free = h.free ∧ (h.setFlow f x).out = h.out ∧
    (h.setFlow f x).rings = h.rings ∧ (h.setFlow f x).commit = h.commit ∧ (h.setFlow f x).cairn = h.cairn ∧ (h.setFlow f x).power = h.power ∧
    (h.setFlow f x).time = h.time ∧ (h.setFlow f x).fifos = h.fifos ∧ (h.setFlow f x).scan = h.scan ∧ (h.setFlow f x).ports = h.ports ∧
    (h.setFlow f x).cal = h.cal ∧ (h.setFlow f x).fix = h.fix ∧ (h.setFlow f x).odls = h.odls ∧ (h.setFlow f x).col = h.col ∧
    (h.setFlow f x).engines = h.engines ∧ (h.setFlow f x).fwu = h.fwu ∧ (h.setFlow f x).saddle = h.saddle ∧ (h.setFlow f x).pmu = h.pmu ∧ (h.setFlow f x).slots = h.slots ∧
    (h.setFlow f x).popped = h.popped :=
  ⟨rfl, rfl, rfl, rfl, rfl, rfl, rfl, rfl, rfl, rfl, rfl, rfl, rfl, rfl, rfl, rfl, rfl, rfl, rfl, rfl, rfl, rfl⟩

@[simp] theorem Hub.modDesc_frame (h : Hub) (q tag : Nat) (f : Desc → Desc) :
    (h.modDesc q tag f).regs = h.regs ∧ (h.modDesc q tag f).clock = h.clock ∧ (h.modDesc q tag f).free = h.free ∧ (h.modDesc q tag f).out = h.out ∧
    (h.modDesc q tag f).commit = h.commit ∧ (h.modDesc q tag f).cairn = h.cairn ∧ (h.modDesc q tag f).power = h.power ∧
    (h.modDesc q tag f).time = h.time ∧ (h.modDesc q tag f).fifos = h.fifos ∧ (h.modDesc q tag f).scan = h.scan ∧
    (h.modDesc q tag f).ports = h.ports ∧ (h.modDesc q tag f).cal = h.cal ∧ (h.modDesc q tag f).net = h.net ∧ (h.modDesc q tag f).fix = h.fix ∧
    (h.modDesc q tag f).odls = h.odls ∧ (h.modDesc q tag f).col = h.col ∧ (h.modDesc q tag f).engines = h.engines ∧ (h.modDesc q tag f).fwu = h.fwu ∧
    (h.modDesc q tag f).saddle = h.saddle ∧ (h.modDesc q tag f).pmu = h.pmu ∧ (h.modDesc q tag f).slots = h.slots ∧ (h.modDesc q tag f).popped = h.popped :=
  ⟨rfl, rfl, rfl, rfl, rfl, rfl, rfl, rfl, rfl, rfl, rfl, rfl, rfl, rfl, rfl, rfl, rfl, rfl, rfl, rfl, rfl, rfl⟩

@[simp] theorem Hub.setPend_frame (h : Hub) (src : Nat) :
    (h.setPend src).clock = h.clock ∧ (h.setPend src).free = h.free ∧ (h.setPend src).out = h.out ∧ (h.setPend src).rings = h.rings ∧
    (h.setPend src).commit = h.commit ∧ (h.setPend src).cairn = h.cairn ∧ (h.setPend src).power = h.power ∧ (h.setPend src).time = h.time ∧
    (h.setPend src).fifos = h.fifos ∧ (h.setPend src).scan = h.scan ∧ (h.setPend src).ports = h.ports ∧ (h.setPend src).cal = h.cal ∧
    (h.setPend src).net = h.net ∧ (h.setPend src).fix = h.fix ∧ (h.setPend src).odls = h.odls ∧ (h.setPend src).col = h.col ∧
    (h.setPend src).engines = h.engines ∧ (h.setPend src).fwu = h.fwu ∧ (h.setPend src).saddle = h.saddle ∧ (h.setPend src).pmu = h.pmu ∧ (h.setPend src).slots = h.slots ∧
    (h.setPend src).popped = h.popped :=
  ⟨rfl, rfl, rfl, rfl, rfl, rfl, rfl, rfl, rfl, rfl, rfl, rfl, rfl, rfl, rfl, rfl, rfl, rfl, rfl, rfl, rfl, rfl⟩

@[simp] theorem Hub.trigger_frame (h : Hub) (g : Glob) (u t a : Nat) :
    (h.trigger g u t a).regs = h.regs ∧ (h.trigger g u t a).clock = h.clock ∧ (h.trigger g u t a).free = h.free ∧ (h.trigger g u t a).out = h.out ∧
    (h.trigger g u t a).rings = h.rings ∧ (h.trigger g u t a).commit = h.commit ∧ (h.trigger g u t a).power = h.power ∧
    (h.trigger g u t a).time = h.time ∧ (h.trigger g u t a).fifos = h.fifos ∧ (h.trigger g u t a).scan = h.scan ∧
    (h.trigger g u t a).ports = h.ports ∧ (h.trigger g u t a).cal = h.cal ∧ (h.trigger g u t a).net = h.net ∧ (h.trigger g u t a).fix = h.fix ∧
    (h.trigger g u t a).odls = h.odls ∧ (h.trigger g u t a).col = h.col ∧ (h.trigger g u t a).engines = h.engines ∧ (h.trigger g u t a).fwu = h.fwu ∧
    (h.trigger g u t a).saddle = h.saddle ∧ (h.trigger g u t a).pmu = h.pmu ∧ (h.trigger g u t a).slots = h.slots ∧ (h.trigger g u t a).popped = h.popped :=
  ⟨rfl, rfl, rfl, rfl, rfl, rfl, rfl, rfl, rfl, rfl, rfl, rfl, rfl, rfl, rfl, rfl, rfl, rfl, rfl, rfl, rfl, rfl⟩

@[simp] theorem Hub.putEvent_frame (h : Hub) (e : Event) :
    (h.putEvent e).regs = h.regs ∧ (h.putEvent e).clock = h.clock ∧ (h.putEvent e).free = h.free ∧ (h.putEvent e).commit = h.commit ∧
    (h.putEvent e).cairn = h.cairn ∧ (h.putEvent e).power = h.power ∧ (h.putEvent e).time = h.time ∧ (h.putEvent e).fifos = h.fifos ∧
    (h.putEvent e).scan = h.scan ∧ (h.putEvent e).ports = h.ports ∧ (h.putEvent e).cal = h.cal ∧ (h.putEvent e).net = h.net ∧
    (h.putEvent e).fix = h.fix ∧ (h.putEvent e).odls = h.odls ∧ (h.putEvent e).col = h.col ∧ (h.putEvent e).engines = h.engines ∧
    (h.putEvent e).fwu = h.fwu ∧ (h.putEvent e).saddle = h.saddle ∧ (h.putEvent e).pmu = h.pmu ∧ (h.putEvent e).slots = h.slots ∧ (h.putEvent e).popped = h.popped :=
  ⟨rfl, rfl, rfl, rfl, rfl, rfl, rfl, rfl, rfl, rfl, rfl, rfl, rfl, rfl, rfl, rfl, rfl, rfl, rfl, rfl, rfl⟩

@[simp] theorem Hub.fifoIn_frame (h : Hub) (i w : Nat) :
    (h.fifoIn i w).regs = h.regs ∧ (h.fifoIn i w).clock = h.clock ∧ (h.fifoIn i w).free = h.free ∧ (h.fifoIn i w).out = h.out ∧ (h.fifoIn i w).rings
    = h.rings ∧ (h.fifoIn i w).commit = h.commit ∧ (h.fifoIn i w).cairn = h.cairn ∧ (h.fifoIn i w).power = h.power ∧ (h.fifoIn i w).time = h.time ∧
    (h.fifoIn i w).scan = h.scan ∧ (h.fifoIn i w).ports = h.ports ∧ (h.fifoIn i w).cal = h.cal ∧ (h.fifoIn i w).net = h.net ∧ (h.fifoIn i w).fix =
    h.fix ∧ (h.fifoIn i w).odls = h.odls ∧ (h.fifoIn i w).col = h.col ∧ (h.fifoIn i w).engines = h.engines ∧ (h.fifoIn i w).fwu = h.fwu ∧ (h.fifoIn
    i w).saddle = h.saddle ∧ (h.fifoIn i w).pmu = h.pmu ∧ (h.fifoIn i w).slots = h.slots :=
  ⟨rfl, rfl, rfl, rfl, rfl, rfl, rfl, rfl, rfl, rfl, rfl, rfl, rfl, rfl, rfl, rfl, rfl, rfl, rfl, rfl, rfl⟩

@[simp] theorem Hub.eventStream_frame (h : Hub) (e : Event) :
    (h.eventStream e).regs = h.regs ∧ (h.eventStream e).clock = h.clock ∧ (h.eventStream e).free = h.free ∧ (h.eventStream e).commit = h.commit ∧
    (h.eventStream e).cairn = h.cairn ∧ (h.eventStream e).power = h.power ∧ (h.eventStream e).time = h.time ∧ (h.eventStream e).scan = h.scan ∧
    (h.eventStream e).ports = h.ports ∧ (h.eventStream e).cal = h.cal ∧ (h.eventStream e).net = h.net ∧ (h.eventStream e).fix = h.fix ∧
    (h.eventStream e).odls = h.odls ∧ (h.eventStream e).col = h.col ∧ (h.eventStream e).engines = h.engines ∧ (h.eventStream e).fwu = h.fwu ∧
    (h.eventStream e).saddle = h.saddle ∧ (h.eventStream e).pmu = h.pmu ∧ (h.eventStream e).slots = h.slots := by
  unfold Hub.eventStream; split
  · simp
  · simp

/-! ## Reading after an update -/

@[simp] theorem Hub.sq_setSq (h : Hub) (n : Nat) (x : Sq) (j : Nat) : (h.setSq n x).sq j = if n = j then x else h.sq j :=
  Sparse.get_set _ _ _ _ _

@[simp] theorem Hub.cq_setCq (h : Hub) (n : Nat) (x : Cq) (j : Nat) : (h.setCq n x).cq j = if n = j then x else h.cq j :=
  Sparse.get_set _ _ _ _ _

@[simp] theorem Hub.vec_setVec (h : Hub) (v : Nat) (x : Vec) (j : Nat) : (h.setVec v x).vec j = if v = j then x else h.vec j :=
  Sparse.get_set _ _ _ _ _

@[simp] theorem Hub.base_setBase (h : Hub) (t : Nat) (x : TimeBase) (j : Nat) : (h.setBase t x).base j = if t = j then x else h.base j :=
  Sparse.get_set _ _ _ _ _

@[simp] theorem Hub.cmp_setCmp (h : Hub) (c : Nat) (x : Compare) (j : Nat) : (h.setCmp c x).cmp j = if c = j then x else h.cmp j :=
  Sparse.get_set _ _ _ _ _

@[simp] theorem Hub.pinState_setPin (h : Hub) (p : Nat) (x : Pin) (j : Nat) : (h.setPin p x).pinState j = if p = j then x else h.pinState j :=
  Sparse.get_set _ _ _ _ _

@[simp] theorem Hub.fifo_setFifo (h : Hub) (i : Nat) (x : List Nat) (j : Nat) : (h.setFifo i x).fifo j = if i = j then x else h.fifo j :=
  Sparse.get_set _ _ _ _ _

@[simp] theorem Hub.fifo_fifoIn (h : Hub) (i w j : Nat) : (h.fifoIn i w).fifo j = if i = j then h.fifo i ++ [w] else h.fifo j :=
  Sparse.get_set _ _ _ _ _

@[simp] theorem Hub.popped_fifoIn (h : Hub) (i w : Nat) : (h.fifoIn i w).popped = h.popped.filter (· != i) := rfl

@[simp] theorem Hub.group_setGroup (h : Hub) (g : Nat) (x : Group) (j : Nat) : (h.setGroup g x).group j = if g = j then x else h.group j :=
  Sparse.get_set _ _ _ _ _

@[simp] theorem Hub.pipe_setPipe (h : Hub) (p : Nat) (x : Pipe) (j : Nat) : (h.setPipe p x).pipe j = if p = j then x else h.pipe j :=
  Sparse.get_set _ _ _ _ _

@[simp] theorem Hub.odl_setOdl (h : Hub) (r : Nat) (x : Odl) (j : Nat) : (h.setOdl r x).odl j = if r = j then x else h.odl j :=
  Sparse.get_set _ _ _ _ _

@[simp] theorem Hub.port_setPort (h : Hub) (n : Nat) (x : Port) (j : Nat) : (h.setPort n x).port j = if n = j then x else h.port j :=
  Sparse.get_set _ _ _ _ _

@[simp] theorem Hub.eng_setEng (h : Hub) (e : Nat) (x : Engine) (j : Nat) : (h.setEng e x).eng j = if e = j then x else h.eng j :=
  Sparse.get_set _ _ _ _ _

@[simp] theorem Hub.flow_setFlow (h : Hub) (f : Nat) (x : Flow) (j : Nat) : (h.setFlow f x).flow j = if f = j then x else h.flow j :=
  Sparse.get_set _ _ _ _ _


end Sys2Proof.Machine
end

