-- ==== Sys2Proof/Laws/Frames.lean ====
section
/-! SUPPORT. What the shared operations leave as it was: for each, every part of the hub that it does not touch. -/

namespace Sys2Proof.Machine

@[simp] theorem Hub.raiseCore_frame (h : Hub) (g : Glob) (src d : Nat) :
    (h.raiseCore g src d).clock = h.clock ∧ (h.raiseCore g src d).free = h.free ∧ (h.raiseCore g src d).commit = h.commit ∧
    (h.raiseCore g src d).power = h.power ∧ (h.raiseCore g src d).time = h.time ∧
    (h.raiseCore g src d).scan = h.scan ∧ (h.raiseCore g src d).ports = h.ports ∧ (h.raiseCore g src d).cal = h.cal ∧
    (h.raiseCore g src d).net = h.net ∧ (h.raiseCore g src d).fix = h.fix ∧ (h.raiseCore g src d).odls = h.odls ∧ (h.raiseCore g src d).col = h.col ∧
    (h.raiseCore g src d).engines = h.engines ∧ (h.raiseCore g src d).fwu = h.fwu ∧ (h.raiseCore g src d).saddle = h.saddle ∧
    (h.raiseCore g src d).pmu = h.pmu ∧ (h.raiseCore g src d).slots = h.slots := by
  unfold Hub.raiseCore
  dsimp only
  repeat' split
  all_goals simp

@[simp] theorem Hub.fifoPut_frame (h : Hub) (i w : Nat) :
    (h.fifoPut i w).clock = h.clock ∧ (h.fifoPut i w).free = h.free ∧ (h.fifoPut i w).out = h.out ∧ (h.fifoPut i w).rings = h.rings ∧
    (h.fifoPut i w).commit = h.commit ∧ (h.fifoPut i w).cairn = h.cairn ∧ (h.fifoPut i w).power = h.power ∧ (h.fifoPut i w).time = h.time ∧
    (h.fifoPut i w).scan = h.scan ∧ (h.fifoPut i w).ports = h.ports ∧ (h.fifoPut i w).cal = h.cal ∧ (h.fifoPut i w).net = h.net ∧
    (h.fifoPut i w).fix = h.fix ∧ (h.fifoPut i w).odls = h.odls ∧ (h.fifoPut i w).col = h.col ∧ (h.fifoPut i w).engines = h.engines ∧
    (h.fifoPut i w).fwu = h.fwu ∧ (h.fifoPut i w).saddle = h.saddle ∧ (h.fifoPut i w).pmu = h.pmu ∧ (h.fifoPut i w).slots = h.slots := by
  unfold Hub.fifoPut
  repeat' split
  all_goals simp

@[simp] theorem Hub.raise_frame (h : Hub) (g : Glob) (src d : Nat) :
    (h.raise g src d).clock = h.clock ∧ (h.raise g src d).free = h.free ∧ (h.raise g src d).commit = h.commit ∧ (h.raise g src d).power = h.power ∧
    (h.raise g src d).time = h.time ∧ (h.raise g src d).scan = h.scan ∧ (h.raise g src d).ports = h.ports ∧ (h.raise g src d).cal = h.cal ∧
    (h.raise g src d).net = h.net ∧ (h.raise g src d).fix = h.fix ∧ (h.raise g src d).odls = h.odls ∧ (h.raise g src d).col = h.col ∧
    (h.raise g src d).engines = h.engines ∧ (h.raise g src d).fwu = h.fwu ∧ (h.raise g src d).saddle = h.saddle ∧ (h.raise g src d).pmu = h.pmu ∧ (h.raise g src d).slots = h.slots := by
  unfold Hub.raise
  repeat' split
  all_goals simp

@[simp] theorem Hub.raiseIf_frame (h : Hub) (c : Bool) (g : Glob) (src d : Nat) :
    (h.raiseIf c g src d).clock = h.clock ∧ (h.raiseIf c g src d).free = h.free ∧ (h.raiseIf c g src d).commit = h.commit ∧
    (h.raiseIf c g src d).power = h.power ∧ (h.raiseIf c g src d).time = h.time ∧ (h.raiseIf c g src d).scan = h.scan ∧
    (h.raiseIf c g src d).ports = h.ports ∧ (h.raiseIf c g src d).cal = h.cal ∧ (h.raiseIf c g src d).net = h.net ∧
    (h.raiseIf c g src d).fix = h.fix ∧ (h.raiseIf c g src d).odls = h.odls ∧ (h.raiseIf c g src d).col = h.col ∧
    (h.raiseIf c g src d).engines = h.engines ∧ (h.raiseIf c g src d).fwu = h.fwu ∧ (h.raiseIf c g src d).saddle = h.saddle ∧
    (h.raiseIf c g src d).pmu = h.pmu ∧ (h.raiseIf c g src d).slots = h.slots := by
  unfold Hub.raiseIf
  repeat' split
  all_goals simp

@[simp] theorem Hub.writeRecord_frame (h : Hub) (g : Glob) :
    (h.writeRecord g).clock = h.clock ∧ (h.writeRecord g).free = h.free ∧ (h.writeRecord g).commit = h.commit ∧ (h.writeRecord g).power = h.power ∧
    (h.writeRecord g).time = h.time ∧ (h.writeRecord g).scan = h.scan ∧ (h.writeRecord g).ports = h.ports ∧ (h.writeRecord g).cal = h.cal ∧
    (h.writeRecord g).net = h.net ∧ (h.writeRecord g).fix = h.fix ∧ (h.writeRecord g).odls = h.odls ∧ (h.writeRecord g).col = h.col ∧
    (h.writeRecord g).engines = h.engines ∧ (h.writeRecord g).fwu = h.fwu ∧ (h.writeRecord g).saddle = h.saddle ∧ (h.writeRecord g).pmu = h.pmu ∧ (h.writeRecord g).slots = h.slots := by
  unfold Hub.writeRecord
  dsimp only
  repeat' split
  all_goals simp

/-- A record of a cycle that has produced none joins the queue at its end (R413). -/
theorem Hub.queueRecord_of_first (h : Hub) (r : Record) (hn : h.recsNow = 0) : (h.queueRecord r).cairn.recQ = h.cairn.recQ ++ [r] := by
  simp [Hub.queueRecord, hn, insertRecord]

@[simp] theorem Hub.record_frame (h : Hub) (g : Glob) (code source p0 p1 p2 p3 : Nat) :
    (h.record g code source p0 p1 p2 p3).clock = h.clock ∧ (h.record g code source p0 p1 p2 p3).free = h.free ∧
    (h.record g code source p0 p1 p2 p3).commit = h.commit ∧ (h.record g code source p0 p1 p2 p3).power = h.power ∧
    (h.record g code source p0 p1 p2 p3).time = h.time ∧ (h.record g code source p0 p1 p2 p3).scan = h.scan ∧
    (h.record g code source p0 p1 p2 p3).ports = h.ports ∧ (h.record g code source p0 p1 p2 p3).cal = h.cal ∧
    (h.record g code source p0 p1 p2 p3).net = h.net ∧ (h.record g code source p0 p1 p2 p3).fix = h.fix ∧
    (h.record g code source p0 p1 p2 p3).odls = h.odls ∧ (h.record g code source p0 p1 p2 p3).col = h.col ∧
    (h.record g code source p0 p1 p2 p3).engines = h.engines ∧ (h.record g code source p0 p1 p2 p3).fwu = h.fwu ∧
    (h.record g code source p0 p1 p2 p3).saddle = h.saddle ∧ (h.record g code source p0 p1 p2 p3).pmu = h.pmu ∧ (h.record g code source p0 p1 p2 p3).slots = h.slots := by
  unfold Hub.record Hub.queueRecord
  split <;> simp

@[simp] theorem Hub.violation_frame (h : Hub) (g : Glob) (kind addr : Nat) (write : Bool) (unit : Nat) :
    (h.violation g kind addr write unit).clock = h.clock ∧ (h.violation g kind addr write unit).free = h.free ∧
    (h.violation g kind addr write unit).commit = h.commit ∧ (h.violation g kind addr write unit).power = h.power ∧
    (h.violation g kind addr write unit).time = h.time ∧ (h.violation g kind addr write unit).scan = h.scan ∧
    (h.violation g kind addr write unit).ports = h.ports ∧ (h.violation g kind addr write unit).cal = h.cal ∧
    (h.violation g kind addr write unit).net = h.net ∧ (h.violation g kind addr write unit).fix = h.fix ∧
    (h.violation g kind addr write unit).odls = h.odls ∧ (h.violation g kind addr write unit).col = h.col ∧
    (h.violation g kind addr write unit).engines = h.engines ∧ (h.violation g kind addr write unit).fwu = h.fwu ∧
    (h.violation g kind addr write unit).saddle = h.saddle ∧ (h.violation g kind addr write unit).pmu = h.pmu ∧ (h.violation g kind addr write unit).slots = h.slots := by
  unfold Hub.violation
  dsimp only
  repeat' split
  all_goals simp

@[simp] theorem Hub.blockReport_frame (h : Hub) (b : Block) :
    (h.blockReport b).regs = h.regs ∧ (h.blockReport b).clock = h.clock ∧ (h.blockReport b).free = h.free ∧ (h.blockReport b).out = h.out ∧
    (h.blockReport b).rings = h.rings ∧ (h.blockReport b).commit = h.commit ∧ (h.blockReport b).cairn = h.cairn ∧ (h.blockReport b).time = h.time ∧
    (h.blockReport b).fifos = h.fifos ∧ (h.blockReport b).scan = h.scan ∧ (h.blockReport b).ports = h.ports ∧ (h.blockReport b).cal = h.cal ∧
    (h.blockReport b).net = h.net ∧ (h.blockReport b).fix = h.fix ∧ (h.blockReport b).odls = h.odls ∧ (h.blockReport b).col = h.col ∧
    (h.blockReport b).engines = h.engines ∧ (h.blockReport b).fwu = h.fwu ∧ (h.blockReport b).saddle = h.saddle ∧ (h.blockReport b).pmu = h.pmu ∧ (h.blockReport b).slots = h.slots := by
  unfold Hub.blockReport; split
  · simp
  · simp

@[simp] theorem Hub.blockFault_frame (h : Hub) (g : Glob) (b : Block) :
    (h.blockFault g b).clock = h.clock ∧ (h.blockFault g b).commit = h.commit ∧ (h.blockFault g b).time = h.time ∧ (h.blockFault g b).scan = h.scan ∧
    (h.blockFault g b).ports = h.ports ∧ (h.blockFault g b).cal = h.cal ∧ (h.blockFault g b).net = h.net ∧ (h.blockFault g b).fix = h.fix ∧
    (h.blockFault g b).odls = h.odls ∧ (h.blockFault g b).col = h.col ∧ (h.blockFault g b).engines = h.engines ∧ (h.blockFault g b).fwu = h.fwu ∧
    (h.blockFault g b).saddle = h.saddle ∧ (h.blockFault g b).pmu = h.pmu ∧ (h.blockFault g b).slots = h.slots := by
  unfold Hub.blockFault
  repeat' split
  all_goals simp

@[simp] theorem Hub.pmuAdd_frame (h : Hub) (off k : Nat) :
    (h.pmuAdd off k).regs = h.regs ∧ (h.pmuAdd off k).clock = h.clock ∧ (h.pmuAdd off k).free = h.free ∧ (h.pmuAdd off k).out = h.out ∧
    (h.pmuAdd off k).rings = h.rings ∧ (h.pmuAdd off k).commit = h.commit ∧ (h.pmuAdd off k).cairn = h.cairn ∧ (h.pmuAdd off k).power = h.power ∧
    (h.pmuAdd off k).time = h.time ∧ (h.pmuAdd off k).fifos = h.fifos ∧ (h.pmuAdd off k).scan = h.scan ∧ (h.pmuAdd off k).ports = h.ports ∧
    (h.pmuAdd off k).cal = h.cal ∧ (h.pmuAdd off k).net = h.net ∧ (h.pmuAdd off k).fix = h.fix ∧ (h.pmuAdd off k).odls = h.odls ∧
    (h.pmuAdd off k).col = h.col ∧ (h.pmuAdd off k).engines = h.engines ∧ (h.pmuAdd off k).fwu = h.fwu ∧ (h.pmuAdd off k).saddle = h.saddle := by
  unfold Hub.pmuAdd
  repeat' split
  all_goals simp

@[simp] theorem Hub.pmuPeak_frame (h : Hub) (off hi lo v : Nat) :
    (h.pmuPeak off hi lo v).clock = h.clock ∧ (h.pmuPeak off hi lo v).free = h.free ∧ (h.pmuPeak off hi lo v).out = h.out ∧
    (h.pmuPeak off hi lo v).rings = h.rings ∧ (h.pmuPeak off hi lo v).commit = h.commit ∧ (h.pmuPeak off hi lo v).cairn = h.cairn ∧
    (h.pmuPeak off hi lo v).power = h.power ∧ (h.pmuPeak off hi lo v).time = h.time ∧ (h.pmuPeak off hi lo v).fifos = h.fifos ∧
    (h.pmuPeak off hi lo v).scan = h.scan ∧ (h.pmuPeak off hi lo v).ports = h.ports ∧ (h.pmuPeak off hi lo v).cal = h.cal ∧
    (h.pmuPeak off hi lo v).net = h.net ∧ (h.pmuPeak off hi lo v).fix = h.fix ∧ (h.pmuPeak off hi lo v).odls = h.odls ∧
    (h.pmuPeak off hi lo v).col = h.col ∧ (h.pmuPeak off hi lo v).engines = h.engines ∧ (h.pmuPeak off hi lo v).fwu = h.fwu ∧
    (h.pmuPeak off hi lo v).saddle = h.saddle ∧ (h.pmuPeak off hi lo v).pmu = h.pmu ∧ (h.pmuPeak off hi lo v).slots = h.slots := by
  unfold Hub.pmuPeak
  repeat' split
  all_goals simp

@[simp] theorem Hub.pmuEngAdd_frame (h : Hub) (e k a : Nat) :
    (h.pmuEngAdd e k a).clock = h.clock ∧ (h.pmuEngAdd e k a).free = h.free ∧ (h.pmuEngAdd e k a).out = h.out ∧ (h.pmuEngAdd e k a).rings = h.rings ∧
    (h.pmuEngAdd e k a).commit = h.commit ∧ (h.pmuEngAdd e k a).cairn = h.cairn ∧ (h.pmuEngAdd e k a).power = h.power ∧
    (h.pmuEngAdd e k a).time = h.time ∧ (h.pmuEngAdd e k a).fifos = h.fifos ∧ (h.pmuEngAdd e k a).scan = h.scan ∧
    (h.pmuEngAdd e k a).ports = h.ports ∧ (h.pmuEngAdd e k a).cal = h.cal ∧ (h.pmuEngAdd e k a).net = h.net ∧ (h.pmuEngAdd e k a).fix = h.fix ∧
    (h.pmuEngAdd e k a).odls = h.odls ∧ (h.pmuEngAdd e k a).col = h.col ∧ (h.pmuEngAdd e k a).engines = h.engines ∧ (h.pmuEngAdd e k a).fwu = h.fwu ∧
    (h.pmuEngAdd e k a).saddle = h.saddle := by
  unfold Hub.pmuEngAdd
  dsimp only
  repeat' split
  all_goals simp

@[simp] theorem Hub.fifoPush_frame (h : Hub) (g : Glob) (i w : Nat) :
    (h.fifoPush g i w).clock = h.clock ∧ (h.fifoPush g i w).free = h.free ∧ (h.fifoPush g i w).commit = h.commit ∧
    (h.fifoPush g i w).power = h.power ∧ (h.fifoPush g i w).time = h.time ∧ (h.fifoPush g i w).scan = h.scan ∧ (h.fifoPush g i w).ports = h.ports ∧
    (h.fifoPush g i w).cal = h.cal ∧ (h.fifoPush g i w).net = h.net ∧ (h.fifoPush g i w).fix = h.fix ∧ (h.fifoPush g i w).odls = h.odls ∧
    (h.fifoPush g i w).col = h.col ∧ (h.fifoPush g i w).engines = h.engines ∧ (h.fifoPush g i w).fwu = h.fwu ∧ (h.fifoPush g i w).saddle = h.saddle ∧
    (h.fifoPush g i w).pmu = h.pmu ∧ (h.fifoPush g i w).slots = h.slots := by
  unfold Hub.fifoPush
  dsimp only
  repeat' split
  all_goals simp

@[simp] theorem Hub.postCompletion_frame (h : Hub) (g : Glob) (cq flags : Nat) (c : Completion) :
    (h.postCompletion g cq flags c).clock = h.clock ∧ (h.postCompletion g cq flags c).free = h.free ∧
    (h.postCompletion g cq flags c).commit = h.commit ∧ (h.postCompletion g cq flags c).power = h.power ∧
    (h.postCompletion g cq flags c).time = h.time ∧ (h.postCompletion g cq flags c).scan = h.scan ∧ (h.postCompletion g cq flags c).ports = h.ports ∧
    (h.postCompletion g cq flags c).cal = h.cal ∧ (h.postCompletion g cq flags c).net = h.net ∧ (h.postCompletion g cq flags c).fix = h.fix ∧
    (h.postCompletion g cq flags c).odls = h.odls ∧ (h.postCompletion g cq flags c).col = h.col ∧
    (h.postCompletion g cq flags c).engines = h.engines ∧ (h.postCompletion g cq flags c).fwu = h.fwu ∧
    (h.postCompletion g cq flags c).saddle = h.saddle ∧ (h.postCompletion g cq flags c).pmu = h.pmu ∧ (h.postCompletion g cq flags c).slots = h.slots := by
  unfold Hub.postCompletion
  repeat' split
  all_goals simp

@[simp] theorem Hub.complete_frame (h : Hub) (g : Glob) (q tag status : Nat) (result : List Byte) :
    (h.complete g q tag status result).clock = h.clock ∧ (h.complete g q tag status result).free = h.free ∧
    (h.complete g q tag status result).commit = h.commit ∧ (h.complete g q tag status result).power = h.power ∧
    (h.complete g q tag status result).time = h.time ∧ (h.complete g q tag status result).scan = h.scan ∧
    (h.complete g q tag status result).ports = h.ports ∧ (h.complete g q tag status result).cal = h.cal ∧
    (h.complete g q tag status result).net = h.net ∧ (h.complete g q tag status result).fix = h.fix ∧
    (h.complete g q tag status result).odls = h.odls ∧ (h.complete g q tag status result).col = h.col ∧
    (h.complete g q tag status result).engines = h.engines ∧ (h.complete g q tag status result).fwu = h.fwu ∧
    (h.complete g q tag status result).saddle = h.saddle ∧ (h.complete g q tag status result).pmu = h.pmu ∧ (h.complete g q tag status result).slots = h.slots := by
  unfold Hub.complete
  repeat' split
  all_goals simp

@[simp] theorem Hub.cancelCommit_frame (h : Hub) (g : Glob) :
    (h.cancelCommit g).clock = h.clock ∧ (h.cancelCommit g).free = h.free ∧ (h.cancelCommit g).power = h.power ∧ (h.cancelCommit g).time = h.time ∧
    (h.cancelCommit g).scan = h.scan ∧ (h.cancelCommit g).ports = h.ports ∧ (h.cancelCommit g).cal = h.cal ∧ (h.cancelCommit g).net = h.net ∧
    (h.cancelCommit g).fix = h.fix ∧ (h.cancelCommit g).odls = h.odls ∧ (h.cancelCommit g).col = h.col ∧ (h.cancelCommit g).engines = h.engines ∧
    (h.cancelCommit g).fwu = h.fwu ∧ (h.cancelCommit g).saddle = h.saddle ∧ (h.cancelCommit g).pmu = h.pmu ∧ (h.cancelCommit g).slots = h.slots := by
  unfold Hub.cancelCommit
  dsimp only
  repeat' split
  all_goals simp

@[simp] theorem Hub.directRefused_frame (h : Hub) (g : Glob) (off : Nat) :
    (h.directRefused g off).clock = h.clock ∧ (h.directRefused g off).free = h.free ∧ (h.directRefused g off).commit = h.commit ∧
    (h.directRefused g off).power = h.power ∧ (h.directRefused g off).time = h.time ∧ (h.directRefused g off).scan = h.scan ∧
    (h.directRefused g off).ports = h.ports ∧ (h.directRefused g off).cal = h.cal ∧ (h.directRefused g off).net = h.net ∧
    (h.directRefused g off).fix = h.fix ∧ (h.directRefused g off).odls = h.odls ∧ (h.directRefused g off).col = h.col ∧
    (h.directRefused g off).engines = h.engines ∧ (h.directRefused g off).fwu = h.fwu ∧ (h.directRefused g off).saddle = h.saddle ∧
    (h.directRefused g off).pmu = h.pmu ∧ (h.directRefused g off).slots = h.slots := by
  unfold Hub.directRefused
  simp

@[simp] theorem Hub.accError_frame (h : Hub)  :
    h.accError.clock = h.clock ∧ h.accError.free = h.free ∧ h.accError.out = h.out ∧ h.accError.rings = h.rings ∧ h.accError.commit = h.commit ∧
    h.accError.cairn = h.cairn ∧ h.accError.power = h.power ∧ h.accError.time = h.time ∧ h.accError.fifos = h.fifos ∧ h.accError.scan = h.scan ∧
    h.accError.ports = h.ports ∧ h.accError.cal = h.cal ∧ h.accError.net = h.net ∧ h.accError.fix = h.fix ∧ h.accError.odls = h.odls ∧
    h.accError.col = h.col ∧ h.accError.engines = h.engines ∧ h.accError.fwu = h.fwu ∧ h.accError.saddle = h.saddle ∧ h.accError.pmu = h.pmu := by
  unfold Hub.accError
  simp

@[simp] theorem Hub.doorbellEffect_frame (h : Hub) (d : Doorbell) :
    (h.doorbellEffect d).regs = h.regs ∧ (h.doorbellEffect d).clock = h.clock ∧ (h.doorbellEffect d).free = h.free ∧
    (h.doorbellEffect d).out = h.out ∧ (h.doorbellEffect d).commit = h.commit ∧ (h.doorbellEffect d).cairn = h.cairn ∧
    (h.doorbellEffect d).power = h.power ∧ (h.doorbellEffect d).time = h.time ∧ (h.doorbellEffect d).fifos = h.fifos ∧
    (h.doorbellEffect d).scan = h.scan ∧ (h.doorbellEffect d).ports = h.ports ∧ (h.doorbellEffect d).cal = h.cal ∧ (h.doorbellEffect d).net = h.net ∧
    (h.doorbellEffect d).fix = h.fix ∧ (h.doorbellEffect d).odls = h.odls ∧ (h.doorbellEffect d).col = h.col ∧
    (h.doorbellEffect d).engines = h.engines ∧ (h.doorbellEffect d).fwu = h.fwu ∧ (h.doorbellEffect d).saddle = h.saddle ∧
    (h.doorbellEffect d).pmu = h.pmu ∧ (h.doorbellEffect d).slots = h.slots := by
  cases d
  all_goals simp only [Hub.doorbellEffect, Hub.sqTail, Hub.cqHead, Hub.evqHead]
  all_goals repeat' split
  all_goals simp

@[simp] theorem Hub.fifoPop_frame (h : Hub) (g : Glob) (i : Nat) :
    (h.fifoPop g i).clock = h.clock ∧ (h.fifoPop g i).commit = h.commit ∧ (h.fifoPop g i).time = h.time ∧ (h.fifoPop g i).scan = h.scan ∧
    (h.fifoPop g i).ports = h.ports ∧ (h.fifoPop g i).cal = h.cal ∧ (h.fifoPop g i).net = h.net ∧ (h.fifoPop g i).fix = h.fix ∧
    (h.fifoPop g i).odls = h.odls ∧ (h.fifoPop g i).col = h.col ∧ (h.fifoPop g i).engines = h.engines ∧ (h.fifoPop g i).fwu = h.fwu ∧
    (h.fifoPop g i).saddle = h.saddle ∧ (h.fifoPop g i).pmu = h.pmu ∧ (h.fifoPop g i).slots = h.slots := by
  unfold Hub.fifoPop
  dsimp only
  repeat' split
  all_goals simp

@[simp] theorem Hub.blockViolations_frame (h : Hub) (g : Glob) (m : Memory) (secure write : Bool) (unit : Nat) (blocks : List Nat) :
    (h.blockViolations g m secure write unit blocks).clock = h.clock ∧ (h.blockViolations g m secure write unit blocks).free = h.free ∧
    (h.blockViolations g m secure write unit blocks).commit = h.commit ∧ (h.blockViolations g m secure write unit blocks).power = h.power ∧
    (h.blockViolations g m secure write unit blocks).time = h.time ∧ (h.blockViolations g m secure write unit blocks).scan = h.scan ∧
    (h.blockViolations g m secure write unit blocks).ports = h.ports ∧ (h.blockViolations g m secure write unit blocks).cal = h.cal ∧
    (h.blockViolations g m secure write unit blocks).net = h.net ∧ (h.blockViolations g m secure write unit blocks).fix = h.fix ∧
    (h.blockViolations g m secure write unit blocks).odls = h.odls ∧ (h.blockViolations g m secure write unit blocks).col = h.col ∧
    (h.blockViolations g m secure write unit blocks).engines = h.engines ∧ (h.blockViolations g m secure write unit blocks).fwu = h.fwu ∧
    (h.blockViolations g m secure write unit blocks).saddle = h.saddle ∧ (h.blockViolations g m secure write unit blocks).pmu = h.pmu ∧ (h.blockViolations g m secure write unit blocks).slots = h.slots := by
  unfold Hub.blockViolations
  generalize h.blockRefused m secure write = r
  induction blocks generalizing h with
  | nil => simp
  | cons b bs ih =>
    rw [List.foldl_cons]
    cases hb : r b with
    | none => exact ih h
    | some kind => simpa using ih (h.violation g kind (0x1000000000 + 64 * b) write unit)

@[simp] theorem Hub.dramViolation_frame (h : Hub) (g : Glob) (m : Memory) (secure write : Bool) (a n unit : Nat) :
    (h.dramViolation g m secure write a n unit).clock = h.clock ∧ (h.dramViolation g m secure write a n unit).free = h.free ∧
    (h.dramViolation g m secure write a n unit).commit = h.commit ∧ (h.dramViolation g m secure write a n unit).power = h.power ∧
    (h.dramViolation g m secure write a n unit).time = h.time ∧ (h.dramViolation g m secure write a n unit).scan = h.scan ∧
    (h.dramViolation g m secure write a n unit).ports = h.ports ∧ (h.dramViolation g m secure write a n unit).cal = h.cal ∧
    (h.dramViolation g m secure write a n unit).net = h.net ∧ (h.dramViolation g m secure write a n unit).fix = h.fix ∧
    (h.dramViolation g m secure write a n unit).odls = h.odls ∧ (h.dramViolation g m secure write a n unit).col = h.col ∧
    (h.dramViolation g m secure write a n unit).engines = h.engines ∧ (h.dramViolation g m secure write a n unit).fwu = h.fwu ∧
    (h.dramViolation g m secure write a n unit).saddle = h.saddle ∧ (h.dramViolation g m secure write a n unit).pmu = h.pmu ∧ (h.dramViolation g m secure write a n unit).slots = h.slots := by
  unfold Hub.dramViolation
  simp

@[simp] theorem Hub.netPost_frame (h : Hub) (n s q : Nat) (f : TxFrame) :
    (h.netPost n s q f).1.regs = h.regs ∧ (h.netPost n s q f).1.clock = h.clock ∧ (h.netPost n s q f).1.free = h.free ∧
    (h.netPost n s q f).1.out = h.out ∧ (h.netPost n s q f).1.rings = h.rings ∧ (h.netPost n s q f).1.commit = h.commit ∧
    (h.netPost n s q f).1.cairn = h.cairn ∧ (h.netPost n s q f).1.power = h.power ∧ (h.netPost n s q f).1.time = h.time ∧
    (h.netPost n s q f).1.fifos = h.fifos ∧ (h.netPost n s q f).1.scan = h.scan ∧ (h.netPost n s q f).1.ports = h.ports ∧
    (h.netPost n s q f).1.cal = h.cal ∧ (h.netPost n s q f).1.fix = h.fix ∧ (h.netPost n s q f).1.odls = h.odls ∧ (h.netPost n s q f).1.col = h.col ∧
    (h.netPost n s q f).1.engines = h.engines ∧ (h.netPost n s q f).1.fwu = h.fwu ∧ (h.netPost n s q f).1.saddle = h.saddle ∧
    (h.netPost n s q f).1.pmu = h.pmu ∧ (h.netPost n s q f).1.slots = h.slots := by
  unfold Hub.netPost
  dsimp only
  split
  all_goals simp

@[simp] theorem Hub.netFirm_frame (h : Hub) (n s : Nat) (f : TxFrame) :
    (h.netFirm n s f).regs = h.regs ∧ (h.netFirm n s f).clock = h.clock ∧ (h.netFirm n s f).free = h.free ∧ (h.netFirm n s f).out = h.out ∧
    (h.netFirm n s f).rings = h.rings ∧ (h.netFirm n s f).commit = h.commit ∧ (h.netFirm n s f).cairn = h.cairn ∧ (h.netFirm n s f).power = h.power ∧
    (h.netFirm n s f).time = h.time ∧ (h.netFirm n s f).fifos = h.fifos ∧ (h.netFirm n s f).scan = h.scan ∧ (h.netFirm n s f).ports = h.ports ∧
    (h.netFirm n s f).cal = h.cal ∧ (h.netFirm n s f).fix = h.fix ∧ (h.netFirm n s f).odls = h.odls ∧ (h.netFirm n s f).col = h.col ∧
    (h.netFirm n s f).engines = h.engines ∧ (h.netFirm n s f).fwu = h.fwu ∧ (h.netFirm n s f).saddle = h.saddle ∧ (h.netFirm n s f).pmu = h.pmu ∧ (h.netFirm n s f).slots = h.slots := by
  unfold Hub.netFirm
  dsimp only
  split
  · simp
  · split
    · simp
    · have hp := h.netPost_frame n s 6 f
      split
      · rename_i he
        rw [he] at hp
        exact hp
      · simp

@[simp] theorem Hub.drive_frame (h : Hub) (p : Nat) (level : Option Bool) (at48 : Nat) :
    (h.drive p level at48).regs = h.regs ∧ (h.drive p level at48).clock = h.clock ∧ (h.drive p level at48).free = h.free ∧
    (h.drive p level at48).rings = h.rings ∧ (h.drive p level at48).commit = h.commit ∧ (h.drive p level at48).cairn = h.cairn ∧
    (h.drive p level at48).power = h.power ∧ (h.drive p level at48).fifos = h.fifos ∧ (h.drive p level at48).scan = h.scan ∧
    (h.drive p level at48).ports = h.ports ∧ (h.drive p level at48).cal = h.cal ∧ (h.drive p level at48).net = h.net ∧
    (h.drive p level at48).fix = h.fix ∧ (h.drive p level at48).odls = h.odls ∧ (h.drive p level at48).col = h.col ∧
    (h.drive p level at48).engines = h.engines ∧ (h.drive p level at48).fwu = h.fwu ∧ (h.drive p level at48).saddle = h.saddle ∧
    (h.drive p level at48).pmu = h.pmu ∧ (h.drive p level at48).slots = h.slots := by
  unfold Hub.drive
  simp

@[simp] theorem Hub.activate_frame (h : Hub) (p at48 : Nat) :
    (h.activate p at48).regs = h.regs ∧ (h.activate p at48).clock = h.clock ∧ (h.activate p at48).free = h.free ∧
    (h.activate p at48).rings = h.rings ∧ (h.activate p at48).commit = h.commit ∧ (h.activate p at48).cairn = h.cairn ∧
    (h.activate p at48).power = h.power ∧ (h.activate p at48).fifos = h.fifos ∧ (h.activate p at48).scan = h.scan ∧
    (h.activate p at48).ports = h.ports ∧ (h.activate p at48).cal = h.cal ∧ (h.activate p at48).net = h.net ∧ (h.activate p at48).fix = h.fix ∧
    (h.activate p at48).odls = h.odls ∧ (h.activate p at48).col = h.col ∧ (h.activate p at48).engines = h.engines ∧ (h.activate p at48).fwu = h.fwu ∧
    (h.activate p at48).saddle = h.saddle ∧ (h.activate p at48).pmu = h.pmu ∧ (h.activate p at48).slots = h.slots := by
  unfold Hub.activate
  simp

@[simp] theorem Hub.ptpEmit_frame (h : Hub) (n : Nat) (f : Q7Frame) (stamp : Nat) :
    (h.ptpEmit n f stamp).regs = h.regs ∧ (h.ptpEmit n f stamp).clock = h.clock ∧ (h.ptpEmit n f stamp).free = h.free ∧
    (h.ptpEmit n f stamp).rings = h.rings ∧ (h.ptpEmit n f stamp).commit = h.commit ∧ (h.ptpEmit n f stamp).cairn = h.cairn ∧
    (h.ptpEmit n f stamp).power = h.power ∧ (h.ptpEmit n f stamp).time = h.time ∧ (h.ptpEmit n f stamp).fifos = h.fifos ∧
    (h.ptpEmit n f stamp).scan = h.scan ∧ (h.ptpEmit n f stamp).ports = h.ports ∧ (h.ptpEmit n f stamp).cal = h.cal ∧
    (h.ptpEmit n f stamp).net = h.net ∧ (h.ptpEmit n f stamp).fix = h.fix ∧ (h.ptpEmit n f stamp).odls = h.odls ∧
    (h.ptpEmit n f stamp).col = h.col ∧ (h.ptpEmit n f stamp).engines = h.engines ∧ (h.ptpEmit n f stamp).fwu = h.fwu ∧
    (h.ptpEmit n f stamp).saddle = h.saddle ∧ (h.ptpEmit n f stamp).pmu = h.pmu ∧ (h.ptpEmit n f stamp).slots = h.slots := by
  unfold Hub.ptpEmit
  simp

@[simp] theorem Hub.countCorrected_frame (h : Hub) (g : Glob) (off source w : Nat) :
    (h.countCorrected g off source w).clock = h.clock ∧ (h.countCorrected g off source w).free = h.free ∧
    (h.countCorrected g off source w).commit = h.commit ∧ (h.countCorrected g off source w).power = h.power ∧
    (h.countCorrected g off source w).time = h.time ∧ (h.countCorrected g off source w).scan = h.scan ∧
    (h.countCorrected g off source w).ports = h.ports ∧ (h.countCorrected g off source w).cal = h.cal ∧
    (h.countCorrected g off source w).net = h.net ∧ (h.countCorrected g off source w).fix = h.fix ∧ (h.countCorrected g off source w).odls = h.odls ∧
    (h.countCorrected g off source w).col = h.col ∧ (h.countCorrected g off source w).engines = h.engines ∧
    (h.countCorrected g off source w).fwu = h.fwu ∧ (h.countCorrected g off source w).saddle = h.saddle ∧
    (h.countCorrected g off source w).pmu = h.pmu ∧ (h.countCorrected g off source w).slots = h.slots := by
  unfold Hub.countCorrected
  simp

/-- The fetch of an instruction leaves all but the instruction memory that it reads, and what a corrected line counts and raises. -/
theorem fetchLine_frame (e : Nat) (err : LineErr) (s : State) :
    (fetchLine e err s).pending = s.pending ∧ (fetchLine e err s).glob = s.glob ∧ (fetchLine e err s).hub.clock = s.hub.clock ∧
    (fetchLine e err s).hub.free = s.hub.free ∧ (fetchLine e err s).hub.commit = s.hub.commit ∧ (fetchLine e err s).hub.power = s.hub.power ∧
    (fetchLine e err s).hub.time = s.hub.time ∧ (fetchLine e err s).hub.scan = s.hub.scan ∧ (fetchLine e err s).hub.ports = s.hub.ports ∧
    (fetchLine e err s).hub.cal = s.hub.cal ∧ (fetchLine e err s).hub.net = s.hub.net ∧ (fetchLine e err s).hub.fix = s.hub.fix ∧
    (fetchLine e err s).hub.odls = s.hub.odls ∧ (fetchLine e err s).hub.col = s.hub.col ∧ (fetchLine e err s).hub.engines = s.hub.engines ∧
    (fetchLine e err s).hub.fwu = s.hub.fwu ∧ (fetchLine e err s).hub.saddle = s.hub.saddle ∧ (fetchLine e err s).hub.pmu = s.hub.pmu := by
  unfold fetchLine
  dsimp only
  repeat' split
  all_goals simp

end Sys2Proof.Machine
end

