-- ==== Sys2Proof/Laws/Memory.lean ====
section
/-! SUPPORT. The memories: every operation keeps the canonical form, and a write is read back where it stands and nowhere else. -/

namespace Sys2Proof.Machine

/-! ## Runs of bytes -/

theorem Memory.run_mem (a : Nat) (bs : List Byte) (e : Host.Cell) (he : e ∈ Memory.run a bs) :
    a ≤ e.1 ∧ e.1 < a + bs.length ∧ e.2 ≠ Memory.blank := by
  induction bs generalizing a with
  | nil => simp [Memory.run] at he
  | cons b bs ih =>
    unfold Memory.run at he
    simp only [List.length_cons]
    split at he
    · obtain ⟨h1, h2, h3⟩ := ih (a + 1) he; exact ⟨by omega, by omega, h3⟩
    · rename_i hb
      rcases List.mem_cons.1 he with rfl | he
      · exact ⟨le_refl _, by simp, hb⟩
      · obtain ⟨h1, h2, h3⟩ := ih (a + 1) he; exact ⟨by omega, by omega, h3⟩

theorem Memory.run_pairwise (a : Nat) (bs : List Byte) : (Memory.run a bs).Pairwise (fun x y => x.1 < y.1) := by
  induction bs generalizing a with
  | nil => simp [Memory.run]
  | cons b bs ih =>
    unfold Memory.run
    split
    · exact ih (a + 1)
    · rw [List.pairwise_cons]
      exact ⟨fun e he => by have := (Memory.run_mem (a + 1) bs e he).1; simp only; omega, ih (a + 1)⟩

theorem Memory.wf_put (cells : List Host.Cell) (a : Nat) (bs : List Byte) (h : Sparse.wf Memory.blank cells = true) :
    Sparse.wf Memory.blank (Memory.put cells a bs) = true := by
  rw [Sparse.wf_iff] at h ⊢
  unfold Memory.put
  refine ⟨?_, ?_⟩
  · rw [List.pairwise_append, List.pairwise_append]
    refine ⟨⟨h.1.filter _, Memory.run_pairwise a bs, ?_⟩, h.1.filter _, ?_⟩
    · intro x hx y hy
      have := (Memory.run_mem a bs y hy).1
      simp at hx; omega
    · intro x hx y hy
      simp at hx hy
      rcases hx with hx | hx
      · omega
      · have := (Memory.run_mem a bs x hx).2.1; omega
  · intro e he
    simp only [List.mem_append] at he
    rcases he with (he | he) | he
    · exact h.2 e (List.mem_of_mem_filter he)
    · exact (Memory.run_mem a bs e he).2.2
    · exact h.2 e (List.mem_of_mem_filter he)

theorem Memory.wf_copyCells (cells : List Host.Cell) (src dst n : Nat) (h : Sparse.wf Memory.blank cells = true) :
    Sparse.wf Memory.blank (Memory.copyCells cells src dst n) = true := by
  rw [Sparse.wf_iff] at h ⊢
  unfold Memory.copyCells
  have hmid : ∀ e ∈ (cells.filter (fun c => decide (src ≤ c.1 ∧ c.1 < src + n))).map (fun c => (c.1 - src + dst, c.2)),
      dst ≤ e.1 ∧ e.1 < dst + n ∧ e.2 ≠ Memory.blank := by
    intro e he
    obtain ⟨c, hc, rfl⟩ := List.mem_map.1 he
    have h2 := h.2 c (List.mem_of_mem_filter hc)
    simp at hc
    exact ⟨by simp, by simp; omega, h2⟩
  have hpair : ((cells.filter (fun c => decide (src ≤ c.1 ∧ c.1 < src + n))).map
      (fun c => ((c.1 - src + dst, c.2) : Host.Cell))).Pairwise (fun x y => x.1 < y.1) := by
    rw [List.pairwise_map]
    refine List.Pairwise.imp_of_mem ?_ (h.1.filter _)
    intro x y hx hy hxy
    simp at hx hy ⊢
    omega
  refine ⟨?_, ?_⟩
  · rw [List.pairwise_append, List.pairwise_append]
    refine ⟨⟨h.1.filter _, hpair, ?_⟩, h.1.filter _, ?_⟩
    · intro x hx y hy
      have := (hmid y hy).1
      simp at hx; omega
    · intro x hx y hy
      simp only [List.mem_append] at hx
      simp at hy
      rcases hx with hx | hx
      · simp at hx; omega
      · have := (hmid x hx).2.1; omega
  · intro e he
    simp only [List.mem_append] at he
    rcases he with (he | he) | he
    · exact h.2 e (List.mem_of_mem_filter he)
    · exact (hmid e he).2.2
    · exact h.2 e (List.mem_of_mem_filter he)

theorem Memory.wf_putLine (bad : Sparse Bool) (start n a : Nat) (bs : List Byte) (cells : List Host.Cell)
    (h : Sparse.wf Memory.blank cells = true) : Sparse.wf Memory.blank (Memory.putLine cells bad start n a bs) = true := by
  induction bs generalizing a cells with
  | nil => exact h
  | cons b bs ih =>
    unfold Memory.putLine
    refine ih (a + 1) _ ?_
    split
    · exact h
    · exact Sparse.wf_set _ _ _ _ h

/-! ## Reading after a write -/

theorem Memory.get_append_left {d : Byte} (l r : List Host.Cell) (k : Nat) (h : ∀ e ∈ l, e.1 ≠ k) :
    Sparse.get d (l ++ r) k = Sparse.get d r k := by
  induction l with
  | nil => rfl
  | cons e l ih =>
    obtain ⟨j, b⟩ := e
    have hj : j ≠ k := h (j, b) (by simp)
    simp only [List.cons_append, Sparse.get, hj, if_false]
    exact ih (fun e he => h e (by simp [he]))

theorem Memory.get_append_right {d : Byte} (l r : List Host.Cell) (k : Nat) (h : ∀ e ∈ r, e.1 ≠ k) :
    Sparse.get d (l ++ r) k = Sparse.get d l k := by
  induction l with
  | nil =>
    induction r with
    | nil => rfl
    | cons e r ih =>
      obtain ⟨j, b⟩ := e
      have hj : j ≠ k := h (j, b) (by simp)
      simp only [List.nil_append, Sparse.get, hj, if_false]
      simpa using ih (fun e he => h e (by simp [he]))
  | cons e l ih =>
    obtain ⟨j, b⟩ := e
    simp only [List.cons_append, Sparse.get]
    split
    · rfl
    · exact ih

theorem Memory.get_filter {d : Byte} (p : Nat → Bool) (l : List Host.Cell) (k : Nat) :
    Sparse.get d (l.filter (fun c => p c.1)) k = if p k then Sparse.get d l k else d := by
  induction l with
  | nil => simp [Sparse.get]
  | cons e l ih =>
    obtain ⟨j, b⟩ := e
    by_cases hp : p j = true
    · rw [List.filter_cons_of_pos (by simpa using hp)]
      simp only [Sparse.get, ih]
      by_cases hjk : j = k
      · subst hjk; simp [hp]
      · simp [hjk]
    · rw [List.filter_cons_of_neg (by simpa using hp), ih]
      simp only [Sparse.get]
      by_cases hjk : j = k
      · subst hjk; simp [hp]
      · simp [hjk]

theorem Memory.get_run (a : Nat) (bs : List Byte) (i : Nat) (h : i < bs.length) :
    Sparse.get Memory.blank (Memory.run a bs) (a + i) = bs[i] := by
  induction bs generalizing a i with
  | nil => simp at h
  | cons b bs ih =>
    unfold Memory.run
    cases i with
    | zero =>
      split
      · rename_i hb
        have : ∀ e ∈ Memory.run (a + 1) bs, e.1 ≠ a := fun e he => by
          have := (Memory.run_mem (a + 1) bs e he).1; omega
        have h2 := Memory.get_append_right (d := Memory.blank) [] _ a this
        simp at h2; simp [h2, hb]
      · simp [Sparse.get]
    | succ i =>
      have h' : i < bs.length := by simpa using h
      have := ih (a + 1) i h'
      have heq : a + (i + 1) = a + 1 + i := by omega
      split
      · rw [heq, this]; simp
      · rw [heq]; simp only [Sparse.get]
        rw [if_neg (by omega), this]; simp

/-- A byte inside the bytes written reads as written. -/
theorem Memory.get_put_in (cells : List Host.Cell) (a : Nat) (bs : List Byte) (i : Nat) (h : i < bs.length) :
    Sparse.get Memory.blank (Memory.put cells a bs) (a + i) = bs[i] := by
  unfold Memory.put
  rw [Memory.get_append_right _ _ _ (by intro e he; simp at he; omega),
    Memory.get_append_left _ _ _ (by intro e he; simp at he; omega)]
  exact Memory.get_run a bs i h

/-- A byte outside the bytes written reads as before. -/
theorem Memory.get_put_out (cells : List Host.Cell) (a : Nat) (bs : List Byte) (k : Nat) (h : k < a ∨ a + bs.length ≤ k) :
    Sparse.get Memory.blank (Memory.put cells a bs) k = Sparse.get Memory.blank cells k := by
  unfold Memory.put
  have hr : ∀ e ∈ Memory.run a bs, e.1 ≠ k := fun e he => by
    have := Memory.run_mem a bs e he; omega
  rcases h with h | h
  · rw [Memory.get_append_right _ _ _ (by intro e he; simp at he; omega), Memory.get_append_right _ _ _ hr]
    rw [Memory.get_filter (fun j => decide (j < a))]; simp [h]
  · rw [List.append_assoc, Memory.get_append_left _ _ _ (by intro e he; simp at he; omega), Memory.get_append_left _ _ _ hr]
    rw [Memory.get_filter (fun j => decide (a + bs.length ≤ j))]; simp [h]

/-! ## The named operations -/

theorem Memory.dramByte_writeDram_in (m : Memory) (sec : Bool) (ty : Nat → Nat) (a : Nat) (bs : List Byte) (bad : Bool) (i : Nat) (h : i < bs.length) :
    (m.writeDram sec ty a bs bad).dramByte (a + i) = bs[i] := Memory.get_put_in m.dram a bs i h

theorem Memory.dramByte_writeDram_out (m : Memory) (sec : Bool) (ty : Nat → Nat) (a : Nat) (bs : List Byte) (bad : Bool) (k : Nat)
    (h : k < a ∨ a + bs.length ≤ k) : (m.writeDram sec ty a bs bad).dramByte k = m.dramByte k := Memory.get_put_out m.dram a bs k h

theorem Memory.wf_writeDram (m : Memory) (sec : Bool) (ty : Nat → Nat) (a : Nat) (bs : List Byte) (bad : Bool) (h : m.wf = true) :
    (m.writeDram sec ty a bs bad).wf = true := by
  simp only [Memory.wf, Bool.and_eq_true] at h ⊢
  obtain ⟨⟨⟨⟨⟨⟨⟨⟨h1, h2⟩, h3⟩, h4⟩, h5⟩, h6⟩, h7⟩, h8⟩, h9⟩ := h
  exact ⟨⟨⟨⟨⟨⟨⟨⟨Memory.wf_put _ _ _ h1, Sparse.wf_foldl_set _ _ (fun b => b) _ _ h2⟩, h3⟩, h4⟩, h5⟩, h6⟩, h7⟩, h8⟩, h9⟩

theorem Memory.wf_copyDram (m : Memory) (sec : Bool) (ty : Nat → Nat) (src dst n : Nat) (h : m.wf = true) : (m.copyDram sec ty src dst n).wf = true := by
  simp only [Memory.wf, Bool.and_eq_true] at h ⊢
  obtain ⟨⟨⟨⟨⟨⟨⟨⟨h1, h2⟩, h3⟩, h4⟩, h5⟩, h6⟩, h7⟩, h8⟩, h9⟩ := h
  exact ⟨⟨⟨⟨⟨⟨⟨⟨Memory.wf_copyCells _ _ _ _ h1, Sparse.wf_foldl_set _ _ (fun i => dst / 64 + i) _ _ h2⟩, h3⟩, h4⟩, h5⟩, h6⟩, h7⟩, h8⟩, h9⟩

theorem Memory.wf_poisonBlock (m : Memory) (b : Nat) (h : m.wf = true) : (m.poisonBlock b).wf = true := by
  simp only [Memory.wf, Bool.and_eq_true] at h ⊢
  obtain ⟨⟨⟨⟨⟨⟨⟨⟨h1, h2⟩, h3⟩, h4⟩, h5⟩, h6⟩, h7⟩, h8⟩, h9⟩ := h
  exact ⟨⟨⟨⟨⟨⟨⟨⟨h1, Sparse.wf_set _ _ _ _ h2⟩, h3⟩, h4⟩, h5⟩, h6⟩, h7⟩, h8⟩, h9⟩

theorem Memory.wf_writeSram (m : Memory) (a : Nat) (bs : List Byte) (h : m.wf = true) : (m.writeSram a bs).wf = true := by
  simp only [Memory.wf, Bool.and_eq_true] at h ⊢
  obtain ⟨⟨⟨⟨⟨⟨⟨⟨h1, h2⟩, h3⟩, h4⟩, h5⟩, h6⟩, h7⟩, h8⟩, h9⟩ := h
  exact ⟨⟨⟨⟨⟨⟨⟨⟨h1, h2⟩, Memory.wf_putLine _ _ _ _ _ _ h3⟩, Sparse.wf_filter _ _ _ h4⟩, h5⟩, h6⟩, h7⟩, h8⟩,
    Sparse.wf_foldl_set _ _ (fun k => a + k) _ _ h9⟩

theorem Memory.wf_writeDmem (m : Memory) (e a : Nat) (bs : List Byte) (h : m.wf = true) : (m.writeDmem e a bs).wf = true := by
  simp only [Memory.wf, Bool.and_eq_true] at h ⊢
  obtain ⟨⟨⟨⟨⟨⟨⟨⟨h1, h2⟩, h3⟩, h4⟩, h5⟩, h6⟩, h7⟩, h8⟩, h9⟩ := h
  exact ⟨⟨⟨⟨⟨⟨⟨⟨h1, h2⟩, h3⟩, h4⟩, h5⟩, h6⟩, Memory.wf_putLine _ _ _ _ _ _ h7⟩, Sparse.wf_filter _ _ _ h8⟩, h9⟩

theorem Memory.wf_writeImem (m : Memory) (e a : Nat) (bs : List Byte) (h : m.wf = true) : (m.writeImem e a bs).wf = true := by
  simp only [Memory.wf, Bool.and_eq_true] at h ⊢
  obtain ⟨⟨⟨⟨⟨⟨⟨⟨h1, h2⟩, h3⟩, h4⟩, h5⟩, h6⟩, h7⟩, h8⟩, h9⟩ := h
  exact ⟨⟨⟨⟨⟨⟨⟨⟨h1, h2⟩, h3⟩, h4⟩, Memory.wf_putLine _ _ _ _ _ _ h5⟩, Sparse.wf_filter _ _ _ h6⟩, h7⟩, h8⟩, h9⟩

/-! ## Errors -/

theorem Memory.wf_missetBlock (m : Memory) (b : Nat) (data : List Byte) (tag : BlockTag) (h : m.wf = true) :
    (m.missetBlock b data tag).wf = true := by
  simp only [Memory.wf, Bool.and_eq_true] at h ⊢
  obtain ⟨⟨⟨⟨⟨⟨⟨⟨h1, h2⟩, h3⟩, h4⟩, h5⟩, h6⟩, h7⟩, h8⟩, h9⟩ := h
  exact ⟨⟨⟨⟨⟨⟨⟨⟨Memory.wf_put _ _ _ h1, Sparse.wf_set _ _ _ _ h2⟩, h3⟩, h4⟩, h5⟩, h6⟩, h7⟩, h8⟩, h9⟩

theorem Memory.wf_badOf (m : Memory) (w : LineMem) (h : m.wf = true) : Sparse.wf false (m.badOf w) = true := by
  simp only [Memory.wf, Bool.and_eq_true] at h
  obtain ⟨⟨⟨⟨⟨⟨⟨⟨_, _⟩, _⟩, h4⟩, _⟩, h6⟩, _⟩, h8⟩, _⟩ := h
  cases w <;> assumption

theorem Memory.wf_cellsOf (m : Memory) (w : LineMem) (h : m.wf = true) : Sparse.wf Memory.blank (m.cellsOf w) = true := by
  simp only [Memory.wf, Bool.and_eq_true] at h
  obtain ⟨⟨⟨⟨⟨⟨⟨⟨_, _⟩, h3⟩, _⟩, h5⟩, _⟩, h7⟩, _⟩, _⟩ := h
  cases w <;> assumption

theorem Memory.wf_withBad (m : Memory) (w : LineMem) (b : Sparse Bool) (h : m.wf = true) (hb : Sparse.wf false b = true) :
    (m.withBad w b).wf = true := by
  simp only [Memory.wf, Bool.and_eq_true] at h
  obtain ⟨⟨⟨⟨⟨⟨⟨⟨h1, h2⟩, h3⟩, h4⟩, h5⟩, h6⟩, h7⟩, h8⟩, h9⟩ := h
  cases w <;> simp [Memory.withBad, Memory.wf, *]

theorem Memory.wf_withCells (m : Memory) (w : LineMem) (c : List Host.Cell) (h : m.wf = true) (hc : Sparse.wf Memory.blank c = true) :
    (m.withCells w c).wf = true := by
  simp only [Memory.wf, Bool.and_eq_true] at h
  obtain ⟨⟨⟨⟨⟨⟨⟨⟨h1, h2⟩, h3⟩, h4⟩, h5⟩, h6⟩, h7⟩, h8⟩, h9⟩ := h
  cases w <;> simp [Memory.withCells, Memory.wf, *]

theorem Memory.wf_breakLine (m : Memory) (w : LineMem) (line : Nat) (broken : List Nat) (h : m.wf = true) :
    (m.breakLine w line broken).wf = true := by
  refine Memory.wf_withBad m w _ h ?_
  have hb := Memory.wf_badOf m w h
  generalize m.badOf w = b at hb
  induction broken generalizing b with
  | nil => exact hb
  | cons k ks ih =>
    refine ih _ ?_
    dsimp only
    split
    · exact Sparse.wf_set _ _ _ _ hb
    · exact hb

theorem Memory.wf_strikeLine (m : Memory) (w : LineMem) (line : Nat) (err : LineErr) (h : m.wf = true) : (m.strikeLine w line err).wf = true := by
  unfold Memory.strikeLine
  have hm := Memory.wf_breakLine m w line err.broken h
  dsimp only
  generalize m.breakLine w line err.broken = k at hm
  generalize err.missed = l
  induction l generalizing k with
  | nil => exact hm
  | cons e es ih =>
    refine ih _ ?_
    dsimp only
    split
    · exact hm
    · exact Memory.wf_withCells _ _ _ hm (Sparse.wf_set _ _ _ _ (Sparse.wf_set _ _ _ _ (Memory.wf_cellsOf _ _ hm)))

/-- Lines written anew hold no error, and their bytes are as they were. -/
theorem Memory.wf_renewLines (m : Memory) (ls : List Nat) (h : m.wf = true) : (m.renewLines ls).wf = true := by
  unfold Memory.renewLines
  split
  · exact h
  · simp only [Memory.wf, Bool.and_eq_true] at *
    obtain ⟨⟨⟨⟨⟨⟨⟨⟨h1, h2⟩, h3⟩, h4⟩, h5⟩, h6⟩, h7⟩, h8⟩, h9⟩ := h
    exact ⟨⟨⟨⟨⟨⟨⟨⟨h1, h2⟩, h3⟩, Sparse.wf_filter _ _ _ h4⟩, h5⟩, h6⟩, h7⟩, h8⟩, h9⟩

theorem wf_logsWritten (hm : Hub × Memory) (h : hm.2.wf = true) : (logsWritten hm).2.wf = true := by
  unfold logsWritten
  split
  · exact h
  · exact Memory.wf_renewLines _ _ h

/-- The memory that a read of a line leaves. -/
theorem readLine_mem (g : Glob) (scrub : Bool) (w : LineMem) (line : Nat) (err : LineErr) (hm : Hub × Memory) :
    (readLine g scrub w line err hm).2 = (if w = .sram then logsWritten hm else hm).2.strikeLine w line err := by
  unfold readLine
  dsimp only
  generalize (if w = LineMem.sram then logsWritten hm else hm) = hm0
  split
  · rfl
  · split <;> rfl

/-- What a read of a line leaves is canonical. -/
theorem wf_readLine (g : Glob) (scrub : Bool) (w : LineMem) (line : Nat) (err : LineErr) (hm : Hub × Memory) (h : hm.2.wf = true) :
    (readLine g scrub w line err hm).2.wf = true := by
  rw [readLine_mem]
  refine Memory.wf_strikeLine _ w line err ?_
  split
  · exact wf_logsWritten hm h
  · exact h

/-- What reads of DRAM leave is canonical. -/
theorem wf_dramErrors (g : Glob) (scrub : Bool) (errs : List (Nat × ReadError)) (hm : Hub × Memory) (h : hm.2.wf = true) :
    (dramErrors g scrub errs hm).2.wf = true := by
  unfold dramErrors
  induction errs generalizing hm with
  | nil => exact h
  | cons e es ih =>
    refine ih _ ?_
    dsimp only
    split
    · exact h
    · split
      · exact h
      · exact h
      · exact Memory.wf_poisonBlock _ _ h
      · exact Memory.wf_missetBlock _ _ _ _ h

theorem State.reads_wf (s : State) (errs : List (Nat × ReadError)) (h : s.mem.wf = true) : (s.reads errs).mem.wf = true :=
  wf_dramErrors _ _ _ _ h

/-- What each step of a fold keeps canonical, the fold does. -/
theorem foldl_wf {α : Type} (f : Memory → α → Memory) (hf : ∀ m a, m.wf = true → (f m a).wf = true) (l : List α) (m : Memory) (hm : m.wf = true) :
    (l.foldl f m).wf = true := by
  induction l generalizing m with
  | nil => exact hm
  | cons a as ih => exact ih _ (hf m a hm)

/-- A requester's write of DRAM leaves it canonical, refused or not. -/
theorem Hub.wf_writeDram (h : Hub) (m : Memory) (secure : Bool) (a : Nat) (bs : List Byte) (bad : Bool) (hm : m.wf = true) :
    (h.writeDram m secure a bs bad).wf = true := by
  unfold Hub.writeDram
  split
  · exact hm
  · split
    · exact Memory.wf_writeDram _ _ _ _ _ _ hm
    · exact foldl_wf _ (fun m b hm => Memory.wf_writeDram _ _ _ _ _ _ hm) _ m hm

/-- A copy of whole blocks leaves DRAM canonical, whatever is refused of it. -/
theorem Hub.wf_copyDram (h : Hub) (m : Memory) (secure : Bool) (src dst n : Nat) (hm : m.wf = true) :
    (h.copyDram m secure src dst n).wf = true := by
  unfold Hub.copyDram
  split
  · exact Memory.wf_copyDram _ _ _ _ _ _ hm
  · exact foldl_wf _ (fun m i hm => Hub.wf_writeDram _ _ _ _ _ _ hm) _ m hm

end Sys2Proof.Machine
end

