-- ==== Sys2Proof/Laws/Regs.lean ====
section
/-! SUPPORT. Registers: a read after a write, and the bits of a field after its replacement. -/

namespace Sys2Proof.Machine

/-- A read after a write: the value written at its offset, and what was there at every other. -/
theorem Hub.rd_wr (h : Hub) (o : Nat) (v : Word) (j : Nat) : (h.wr o v).rd j = if o = j then v else h.rd j := by
  unfold Hub.wr Hub.rd
  by_cases ho : o = j
  · subst ho; simp
  · simp only [ho, if_false]; exact Sparse.get_set_other _ _ _ _ _ _ ho

@[simp] theorem Hub.rd_wr_same (h : Hub) (o : Nat) (v : Word) : (h.wr o v).rd o = v := by simp [Hub.rd_wr]

theorem Hub.rd_wr_ne (h : Hub) (o j : Nat) (v : Word) (ho : o ≠ j) : (h.wr o v).rd j = h.rd j := by simp [Hub.rd_wr, ho]

theorem Hub.rd_wrN (h : Hub) (o v j : Nat) : (h.wrN o v).rd j = if o = j then BitVec.ofNat 32 v else h.rd j := Hub.rd_wr h o _ j

theorem Hub.rd_putF_ne (h : Hub) (o hi lo v j : Nat) (ho : o ≠ j) : (h.putF o hi lo v).rd j = h.rd j := by
  simp [Hub.putF, Hub.rd_wrN, ho]

theorem Hub.rd_putBit_ne (h : Hub) (o i j : Nat) (b : Bool) (ho : o ≠ j) : (h.putBit o i b).rd j = h.rd j := Hub.rd_putF_ne h o i i _ j ho

theorem Hub.rd_count_ne (h : Hub) (o bits j : Nat) (ho : o ≠ j) : (h.count o bits).rd j = h.rd j := Hub.rd_putF_ne h o _ _ _ j ho

/-- Hubs with the same registers read alike. -/
theorem Hub.rd_of_regs (h h' : Hub) (hr : h'.regs = h.regs) (o : Nat) : h'.rd o = h.rd o := by simp [Hub.rd, hr]

/-! ## Fields -/

/-- A field replaced: what lies above it, the field, and what lies below it. -/
theorem putField_eq (w hi lo v : Nat) (h : lo ≤ hi) :
    putField w hi lo v = 2 ^ lo * (2 ^ (hi + 1 - lo) * (w / 2 ^ (hi + 1)) + v % 2 ^ (hi + 1 - lo)) + w % 2 ^ lo := by
  unfold putField fieldOf
  have e : hi + 1 = lo + (hi + 1 - lo) := by omega
  have hd : w / 2 ^ (hi + 1) = w / 2 ^ lo / 2 ^ (hi + 1 - lo) := by
    rw [Nat.div_div_eq_div_mul, ← pow_add, ← e]
  rw [hd]
  have h1 := Nat.div_add_mod w (2 ^ lo)
  have h2 := Nat.div_add_mod (w / 2 ^ lo) (2 ^ (hi + 1 - lo))
  generalize w / 2 ^ lo / 2 ^ (hi + 1 - lo) = q at *
  generalize w / 2 ^ lo % 2 ^ (hi + 1 - lo) = f at *
  generalize v % 2 ^ (hi + 1 - lo) = g at *
  generalize hr : w % 2 ^ lo = r at *
  rw [← h2] at h1
  have h3 : w = 2 ^ lo * (2 ^ (hi + 1 - lo) * q) + 2 ^ lo * f + r := by rw [← h1]; ring
  have h4 : w - f * 2 ^ lo = 2 ^ lo * (2 ^ (hi + 1 - lo) * q) + r := by
    rw [Nat.mul_comm f]; omega
  rw [h4]; ring

/-- The bits of a number after a field of it is replaced. -/
theorem testBit_putField (w hi lo v j : Nat) (h : lo ≤ hi) :
    (putField w hi lo v).testBit j = if lo ≤ j ∧ j ≤ hi then v.testBit (j - lo) else w.testBit j := by
  rw [putField_eq w hi lo v h, Nat.testBit_two_pow_mul_add _ (Nat.mod_lt _ (Nat.two_pow_pos lo)) j]
  by_cases h1 : j < lo
  · rw [if_pos h1, if_neg (by omega), Nat.testBit_mod_two_pow]; simp [h1]
  · rw [if_neg h1, Nat.testBit_two_pow_mul_add _ (Nat.mod_lt _ (Nat.two_pow_pos _)) (j - lo)]
    by_cases h2 : j - lo < hi + 1 - lo
    · rw [if_pos h2, if_pos (by omega), Nat.testBit_mod_two_pow]; simp [h2]
    · rw [if_neg h2, if_neg (by omega), Nat.testBit_div_two_pow]; congr 1; omega

theorem bitOf_eq_testBit (w i : Nat) : bitOf w i = w.testBit i := by
  unfold bitOf; rw [Nat.testBit_eq_decide_div_mod_eq]; rfl

/-- A bit of a register after a bit of it is replaced. -/
theorem Hub.bit_putBit (h : Hub) (o i j : Nat) (b : Bool) (hj : j < 32) :
    (h.putBit o i b).bit o j = if i = j then b else h.bit o j := by
  unfold Hub.putBit Hub.putF Hub.bit Hub.n
  rw [Hub.rd_wrN, if_pos rfl, bitOf_eq_testBit, bitOf_eq_testBit, BitVec.toNat_ofNat, Nat.testBit_mod_two_pow,
    testBit_putField _ _ _ _ _ (le_refl i)]
  by_cases hij : i = j
  · subst hij; cases b <;> simp [hj, b2n]
  · have : ¬(i ≤ j ∧ j ≤ i) := by omega
    simp [hj, hij, this]

theorem Hub.bit_of_rd (h h' : Hub) (o i : Nat) (hr : h'.rd o = h.rd o) : h'.bit o i = h.bit o i := by simp [Hub.bit, Hub.n, hr]

theorem Hub.f_of_rd (h h' : Hub) (o hi lo : Nat) (hr : h'.rd o = h.rd o) : h'.f o hi lo = h.f o hi lo := by simp [Hub.f, Hub.n, hr]

end Sys2Proof.Machine
end

