-- ==== Sys2Proof/Laws/Ops.lean ====
section
/-! SUPPORT. What raising a source, recording and completing a descriptor do: the registers they may change, and the cause that is then pending. -/

namespace Sys2Proof.Machine

theorem pend_mem (src : Nat) (h : sourceReserved src = false) : Reg.INT_PENDk (src / 32) ∈ pendRegs := by
  have : src < 128 := by
    unfold sourceReserved at h; simp at h; omega
  have h4 : src / 32 = 0 ∨ src / 32 = 1 ∨ src / 32 = 2 ∨ src / 32 = 3 := by omega
  rcases h4 with h | h | h | h <;> simp [pendRegs, h]

theorem Hub.rd_setPend (h : Hub) (src off : Nat) (hs : sourceReserved src = false) (ho : off ∉ pendRegs) :
    (h.setPend src).rd off = h.rd off :=
  Hub.rd_putBit_ne _ _ _ _ _ (fun he => ho (he ▸ pend_mem src hs))

theorem Hub.rd_raiseCore (h : Hub) (g : Glob) (src d off : Nat) (ho : off ∉ pendRegs) : (h.raiseCore g src d).rd off = h.rd off := by
  unfold Hub.raiseCore
  split
  · rfl
  · rename_i hs
    rw [← Hub.rd_setPend h src off (by simpa using hs) ho]
    dsimp only
    split <;> split <;> exact Hub.rd_of_regs _ _ (by simp) off

/-- Raising a source writes no register but the pending ones. -/
theorem Hub.rd_raise (h : Hub) (g : Glob) (src d off : Nat) (ho : off ∉ pendRegs) : (h.raise g src d).rd off = h.rd off := by
  unfold Hub.raise
  split
  · rw [Hub.rd_raiseCore _ _ _ _ _ ho, Hub.rd_raiseCore _ _ _ _ _ ho]
  · exact Hub.rd_raiseCore _ _ _ _ _ ho

theorem Hub.rd_raiseIf (h : Hub) (c : Bool) (g : Glob) (src d off : Nat) (ho : off ∉ pendRegs) :
    (h.raiseIf c g src d).rd off = h.rd off := by
  unfold Hub.raiseIf; split
  · exact Hub.rd_raise _ _ _ _ _ ho
  · rfl

/-! ## Pending bits and outputs only grow -/

theorem Hub.pending_of_rd (h h' : Hub) (hr : ∀ o, h'.rd o = h.rd o) (src : Nat) : h'.pending src = h.pending src := by
  simp [Hub.pending, Hub.bit, Hub.n, hr]

theorem Reg.pend_inj (a b : Nat) (hab : a ≠ b) : Reg.INT_PENDk a ≠ Reg.INT_PENDk b := by
  unfold Reg.INT_PENDk; omega

theorem Hub.pending_setPend_mono (h : Hub) (src j : Nat) (hj : h.pending j = true) : (h.setPend src).pending j = true := by
  unfold Hub.pending Hub.setPend at *
  by_cases hk : src / 32 = j / 32
  · rw [hk, Hub.bit_putBit _ _ _ _ _ (Nat.mod_lt _ (by norm_num))]
    split
    · rfl
    · exact hj
  · rw [Hub.bit_of_rd _ _ _ _ (Hub.rd_putBit_ne _ _ _ _ _ (Reg.pend_inj _ _ hk))]; exact hj

/-- A source that is raised is pending (R62). -/
theorem Hub.pending_setPend (h : Hub) (src : Nat) : (h.setPend src).pending src = true := by
  unfold Hub.pending Hub.setPend
  rw [Hub.bit_putBit _ _ _ _ _ (Nat.mod_lt _ (by norm_num))]; simp

theorem Hub.pending_of_regs (h h' : Hub) (hr : h'.regs = h.regs) (src : Nat) : h'.pending src = h.pending src :=
  Hub.pending_of_rd h h' (Hub.rd_of_regs h h' hr) src

theorem Hub.raiseCore_regs (h : Hub) (g : Glob) (src d : Nat) (hs : sourceReserved src = false) :
    (h.raiseCore g src d).regs = (h.setPend src).regs := by
  unfold Hub.raiseCore
  rw [if_neg (by simp [hs])]
  dsimp only
  split <;> split <;> simp

theorem Hub.pending_raiseCore (h : Hub) (g : Glob) (src d j : Nat) (hj : h.pending j = true) : (h.raiseCore g src d).pending j = true := by
  by_cases hs : sourceReserved src = true
  · unfold Hub.raiseCore; rw [if_pos hs]; exact hj
  · rw [Hub.pending_of_regs _ _ (Hub.raiseCore_regs h g src d (by simpa using hs))]
    exact Hub.pending_setPend_mono h src j hj

theorem Hub.pending_raise_mono (h : Hub) (g : Glob) (src d j : Nat) (hj : h.pending j = true) : (h.raise g src d).pending j = true := by
  have h1 := Hub.pending_raiseCore h g src d j hj
  unfold Hub.raise
  split
  · exact Hub.pending_raiseCore _ _ _ _ _ h1
  · exact h1

/-- A raised source is pending. -/
theorem Hub.pending_raise (h : Hub) (g : Glob) (src d : Nat) (hs : sourceReserved src = false) : (h.raise g src d).pending src = true := by
  have h1 : (h.raiseCore g src d).pending src = true := by
    rw [Hub.pending_of_regs _ _ (Hub.raiseCore_regs h g src d (by simpa using hs))]; exact Hub.pending_setPend h src
  unfold Hub.raise
  split
  · exact Hub.pending_raiseCore _ _ _ _ _ h1
  · exact h1

/-- An event's entry only adds to what has left the hub. -/
theorem Hub.out_eventStream (h : Hub) (e : Event) : ∃ l, (h.eventStream e).out = l ++ h.out := by
  unfold Hub.eventStream
  split
  · exact ⟨[], rfl⟩
  · rw [(Hub.fifoIn_frame _ _ _).2.2.2.1]
    unfold Hub.putEvent; dsimp only; split
    · exact ⟨[_], rfl⟩
    · exact ⟨[], rfl⟩

theorem Hub.out_raiseCore (h : Hub) (g : Glob) (src d : Nat) : ∃ l, (h.raiseCore g src d).out = l ++ h.out := by
  unfold Hub.raiseCore
  split
  · exact ⟨[], rfl⟩
  · have hs := Hub.out_eventStream (h.setPend src) ((h.setPend src).eventOf src (h.eventDetail g src d))
    dsimp only
    split <;> split
    · simpa using hs
    · exact ⟨[], by simp⟩
    · simpa using hs
    · exact ⟨[], by simp⟩

theorem Hub.out_raise (h : Hub) (g : Glob) (src d : Nat) : ∃ l, (h.raise g src d).out = l ++ h.out := by
  obtain ⟨l, hl⟩ := Hub.out_raiseCore h g src d
  unfold Hub.raise
  split
  · obtain ⟨m, hm⟩ := Hub.out_raiseCore (h.raiseCore g src d) g 101 (h.f (Reg.MEM_FIFOi_CTL 5) 4 0)
    exact ⟨m ++ l, by rw [hm, hl]; simp⟩
  · exact ⟨l, hl⟩

/-- Of the rings an event changes only the event ring. -/
theorem Hub.eventStream_rings (h : Hub) (e : Event) : (h.eventStream e).rings = { h.rings with evq := (h.eventStream e).rings.evq } := by
  unfold Hub.eventStream
  split
  · rfl
  · simp [Hub.putEvent]

theorem Hub.raiseCore_rings (h : Hub) (g : Glob) (src d : Nat) :
    (h.raiseCore g src d).rings = { h.rings with evq := (h.raiseCore g src d).rings.evq } := by
  unfold Hub.raiseCore
  split
  · rfl
  · dsimp only
    split <;> split
    · simpa using Hub.eventStream_rings (h.setPend src) _
    · simp
    · simpa using Hub.eventStream_rings (h.setPend src) _
    · simp

theorem Hub.raise_rings (h : Hub) (g : Glob) (src d : Nat) : (h.raise g src d).rings = { h.rings with evq := (h.raise g src d).rings.evq } := by
  unfold Hub.raise
  split
  · rw [Hub.raiseCore_rings (h.raiseCore g src d), Hub.raiseCore_rings h g src d]
  · exact Hub.raiseCore_rings h g src d

/-! ## Reports -/

theorem Reports.refl (h : Hub) : Reports h h := ⟨rfl, fun _ _ => rfl, fun _ h => h, ⟨[], rfl⟩⟩

theorem Reports.trans {a b c : Hub} (h1 : Reports a b) (h2 : Reports b c) : Reports a c := by
  refine ⟨?_, fun off ho => (h2.regs off ho).trans (h1.regs off ho), fun s hs => h2.pending s (h1.pending s hs), ?_⟩
  · have e1 := h1.shape; have e2 := h2.shape
    rw [e1] at e2
    exact e2
  · obtain ⟨l, hl⟩ := h1.out; obtain ⟨m, hm⟩ := h2.out
    exact ⟨m ++ l, by rw [hm, hl]; simp⟩

/-- Raising a source is a report. -/
theorem Hub.raise_reports (h : Hub) (g : Glob) (src d : Nat) : Reports h (h.raise g src d) := by
  refine ⟨?_, fun off ho => Hub.rd_raise h g src d off ho, fun j hj => Hub.pending_raise_mono h g src d j hj, Hub.out_raise h g src d⟩
  have hf := Hub.raise_frame h g src d
  obtain ⟨e, he⟩ : ∃ e, (h.raise g src d).rings = { h.rings with evq := e } := ⟨_, Hub.raise_rings h g src d⟩
  generalize h.raise g src d = k at *
  obtain ⟨h1, h2, h3, h4, h5, h6, h7, h8, h9, h10, h11, h12, h13, h14, h15, h16, h17⟩ := hf
  cases k; cases h; simp_all

theorem Hub.raiseIf_reports (h : Hub) (c : Bool) (g : Glob) (src d : Nat) : Reports h (h.raiseIf c g src d) := by
  unfold Hub.raiseIf; split
  · exact Hub.raise_reports h g src d
  · exact Reports.refl h

theorem Reports.cairn (h : Hub) (c : Cairn) : Reports h { h with cairn := c } := ⟨rfl, fun _ _ => rfl, fun _ h => h, ⟨[], rfl⟩⟩

theorem Reports.sqs (h : Hub) (x : Sparse Sq) : Reports h { h with rings := { h.rings with sqs := x } } :=
  ⟨rfl, fun _ _ => rfl, fun _ h => h, ⟨[], rfl⟩⟩

theorem Reports.cqs (h : Hub) (x : Sparse Cq) : Reports h { h with rings := { h.rings with cqs := x } } :=
  ⟨rfl, fun _ _ => rfl, fun _ h => h, ⟨[], rfl⟩⟩

theorem Hub.setSq_reports (h : Hub) (n : Nat) (x : Sq) : Reports h (h.setSq n x) := Reports.sqs h _

theorem Hub.setCq_reports (h : Hub) (n : Nat) (x : Cq) : Reports h (h.setCq n x) := Reports.cqs h _

theorem Hub.trigger_reports (h : Hub) (g : Glob) (u t a : Nat) : Reports h (h.trigger g u t a) := Reports.cairn h _

theorem Hub.emit_reports (h : Hub) (o : Out) : Reports h (h.emit o) := ⟨rfl, fun _ _ => rfl, fun _ h => h, ⟨[o], rfl⟩⟩

theorem Hub.writeRecord_reports (h : Hub) (g : Glob) : Reports h (h.writeRecord g) := by
  unfold Hub.writeRecord; split
  · exact Reports.refl h
  · exact Reports.trans (Reports.cairn h _) (Hub.raise_reports _ _ _ _)

/-- Producing a record is a report. -/
theorem Hub.record_reports (h : Hub) (g : Glob) (code source p0 p1 p2 p3 : Nat) : Reports h (h.record g code source p0 p1 p2 p3) := by
  unfold Hub.record Hub.queueRecord; split
  · exact Reports.cairn h _
  · exact Reports.trans (Hub.writeRecord_reports h g) (Reports.cairn _ _)

theorem Hub.postCompletion_reports (h : Hub) (g : Glob) (cq flags : Nat) (c : Completion) : Reports h (h.postCompletion g cq flags c) := by
  unfold Hub.postCompletion; split
  · exact Reports.trans (Reports.trans (Hub.emit_reports h _) (Hub.setCq_reports _ _ _)) (Hub.raiseIf_reports _ _ _ _ _)
  · exact Reports.refl h

/-- Completing a descriptor is a report. -/
theorem Hub.complete_reports (h : Hub) (g : Glob) (q tag status : Nat) (result : List Byte) :
    Reports h (h.complete g q tag status result) := by
  unfold Hub.complete; split
  · exact Reports.refl h
  · dsimp only; split
    · exact Hub.setSq_reports h _ _
    · exact Reports.trans (Hub.setSq_reports h _ _) (Hub.postCompletion_reports _ _ _ _ _)

theorem Hub.completeAll_reports (h : Hub) (g : Glob) (ds : List (Nat × Nat)) (status : Nat) (result : List Byte) :
    Reports h (h.completeAll g ds status result) := by
  unfold Hub.completeAll
  induction ds generalizing h with
  | nil => exact Reports.refl h
  | cons d ds ih => exact Reports.trans (Hub.complete_reports h g d.1 d.2 status result) (ih _)

/-! ## The completion of a descriptor -/

theorem Hub.sq_raise (h : Hub) (g : Glob) (src d n : Nat) : (h.raise g src d).sq n = h.sq n := by
  unfold Hub.sq; rw [Hub.raise_rings]

/-- A completed descriptor is answered. -/
theorem Hub.complete_answered (h : Hub) (g : Glob) (q tag status : Nat) (result : List Byte) (d : Desc) (hd : h.desc q tag = some d) :
    Answered q tag status result h (h.complete g q tag status result) := by
  have ht : d.tag = tag := by
    have := List.find?_some hd; simpa using this
  refine ⟨d, hd, ?_, ?_⟩
  · unfold Hub.complete; rw [hd]; dsimp only
    split
    · simp
    · unfold Hub.postCompletion Hub.raiseIf
      split
      · split
        · rw [Hub.sq_raise]; simp [Hub.setCq, Hub.emit, Hub.setSq, Hub.sq]
        · simp [Hub.setCq, Hub.emit, Hub.setSq, Hub.sq]
      · simp
  · intro hs hc
    unfold Hub.complete; rw [hd]; dsimp only
    rw [if_neg (by simp [hs])]
    generalize hx : h.setSq q { h.sq q with
        inflight := (h.sq q).inflight.erase d
        window := windowAfter (h.sq q).window tag status (padTo 16 result) } = x
    have hc' : x.bit (Reg.CQn_CTL d.cq) 0 = true := by
      rw [Hub.bit_of_rd h x _ _ (Hub.rd_of_regs _ _ (by simp [← hx]) _)]; exact hc
    unfold Hub.postCompletion
    rw [if_pos hc']
    dsimp only
    obtain ⟨l, hl⟩ := (Hub.raiseIf_reports ((x.emit (.completion d.cq (x.cq d.cq).tail (x.ringAddr (Reg.CQn_BASE_LO d.cq) (Reg.CQn_BASE_HI d.cq) + 32 * (x.cq d.cq).tail)
        { tag := tag % 2 ^ 32, status := status, orig := 0, sq := q, phase := (x.cq d.cq).phase, sqHead := (h.sq q).head,
          result := padTo 16 result })).setCq d.cq ((x.cq d.cq).next (x.ringSize (Reg.CQn_CTL d.cq))))
      (x.bit (Reg.CQn_CTL d.cq) 1 || bitOf d.flags 1) g (112 + d.cq % 16) _).out
    refine ⟨(x.cq d.cq).tail, ⟨tag % 2 ^ 32, status, 0, q, (x.cq d.cq).phase, (h.sq q).head, padTo 16 result⟩, ?_, rfl, rfl, rfl, rfl⟩
    have ha : h.ringAddr (Reg.CQn_BASE_LO d.cq) (Reg.CQn_BASE_HI d.cq) = x.ringAddr (Reg.CQn_BASE_LO d.cq) (Reg.CQn_BASE_HI d.cq) := by
      rw [← hx]; rfl
    rw [hl, ha]
    exact List.mem_append_right _ (List.mem_cons_self ..)

/-! ## Wake sources (R434) -/

/-- A wake source that is one of nothing leaves the state as it is. -/
theorem State.wokenBy_awake {s : State} {code : Nat} (h : s.hub.awake code = true) : s.wokenBy code = s := by
  unfold Hub.awake at h
  unfold State.wokenBy
  split
  · rename_i hw
    rw [hw] at h
    simp only [Bool.not_true, Bool.false_or, Bool.and_eq_true, beq_iff_eq, Bool.not_eq_true', Bool.and_eq_false_iff] at h
    unfold wakeUp
    rw [if_pos h.1, if_neg]
    rcases h.2 with h2 | h2 <;> simp [h2]
  · rfl

theorem State.reachedBy_quiet {s : State} {who : Requester} (h : s.hub.quietTo who = true) : s.reachedBy who = s := by
  unfold State.reachedBy
  split
  · rename_i hw
    exact State.wokenBy_awake (by simpa [Hub.quietTo, hw] using h)
  · rfl

theorem woken_awake {s : State} {code : Nat} (k : State → Host.Outcome State Fault Refusal) (h : s.hub.awake code = true) : woken code k s = k s := by
  rw [woken, State.wokenBy_awake h]

theorem wokenWhen_awake {s : State} {code : Nat} (b : Hub → Bool) (k : State → Host.Outcome State Fault Refusal) (h : s.hub.awake code = true) :
    wokenWhen b code k s = k s := by
  rw [wokenWhen, State.wokenBy_awake h, ite_self]

theorem reached_quiet {s : State} {who : Requester} (k : State → Host.Outcome State Fault Refusal) (h : s.hub.quietTo who = true) :
    reached who k s = k s := by
  rw [reached, State.reachedBy_quiet h]

end Sys2Proof.Machine
end

