-- ==== Sys2Proof/Tests/Slice0.lean ====
section
/-! SUPPORT. Tests: ill-formed commands are refused by the check, and the hypotheses of every statement can be met. -/

namespace Sys2Proof.Tests

open Sys2Proof Sys2Proof.Machine

set_option Elab.async false

/-! ## The check refuses each ill-formed field, and accepts the command without it -/

/-- Commands from CfgStage on, each with one field out of its range, and each with all fields in range. -/
theorem test_wf_1 :
    ([
    Instr.cfgStage 64 0 [] [] [], Instr.cfgStage 0 (2 ^ 64) [] [] [], Instr.cfgStage 0 0 [(0, 2 ^ 32)] [] [], Instr.cfgStage 0 0 [(2 ^ 32, 0)] [] [],
    Instr.cfgCommit 64 0, Instr.cfgCommit 0 (2 ^ 64), Instr.cfgDiscard 64 0, Instr.cfgDiscard 0 (2 ^ 64), Instr.cfgRead 64 0,
    Instr.cfgRead 0 (2 ^ 64), Instr.directWriteRefused (.engine 24) 0 0, Instr.directWriteRefused .host (2 ^ 32) 0,
    Instr.directWriteRefused .host 0 (2 ^ 32), Instr.census 64 0, Instr.census 0 (2 ^ 64), Instr.censusWaitEnd 64 0 [],
    Instr.censusWaitEnd 0 (2 ^ 64) [], Instr.framePost 64 0 [] [], Instr.framePost 0 (2 ^ 64) [] [], Instr.frameArm 64 0, Instr.frameArm 0 (2 ^ 64),
    Instr.workPost 64 0, Instr.workPost 0 (2 ^ 64), Instr.workCancel 64 0, Instr.workCancel 0 (2 ^ 64), Instr.calLoad 64 0 [] [],
    Instr.calLoad 0 (2 ^ 64) [] [], Instr.calRead 64 0 [], Instr.calRead 0 (2 ^ 64) [], Instr.calMeasure 64 0 [] [],
    Instr.calMeasure 0 (2 ^ 64) [] [], Instr.logRead 64 0 [], Instr.logRead 0 (2 ^ 64) [], Instr.logClear 64 0 [], Instr.logClear 0 (2 ^ 64) [],
    Instr.fwStage 64 0 [], Instr.fwStage 0 (2 ^ 64) [], Instr.fwActivate 64 0, Instr.fwActivate 0 (2 ^ 64), Instr.fwConfirm 64 0,
    Instr.fwConfirm 0 (2 ^ 64), Instr.timeSet 64 0, Instr.timeSet 0 (2 ^ 64), Instr.timeAcceptJump 64 0, Instr.timeAcceptJump 0 (2 ^ 64),
    Instr.deferredJumpApply 4, Instr.abortEngine 64 0 false [], Instr.abortEngine 0 (2 ^ 64) false [], Instr.abortRing 64 0 false,
    Instr.abortRing 0 (2 ^ 64) false, Instr.abortColLevel 64 0 false, Instr.abortColLevel 0 (2 ^ 64) false, Instr.abortPipe 64 0 false,
    Instr.abortPipe 0 (2 ^ 64) false, Instr.abortPort 64 0 false, Instr.abortPort 0 (2 ^ 64) false,
    Instr.framePost 0 0 [] [(2 ^ 30, ⟨[], .detected⟩)], Instr.calLoad 0 0 [] [(2 ^ 30, ⟨[], .detected⟩)],
    Instr.abortEngine 0 0 false [(2 ^ 30, ⟨[], .detected⟩)]] : List Instr).all (fun i => !i.wf) ∧
    ([
    Instr.cfgStage 0 0 [] [] [], Instr.cfgCommit 0 0, Instr.cfgDiscard 0 0, Instr.cfgRead 0 0, Instr.directWriteRefused .host 0 0, Instr.census 0 0,
    Instr.censusWaitEnd 0 0 [], Instr.framePost 0 0 [] [], Instr.frameArm 0 0, Instr.workPost 0 0, Instr.workCancel 0 0, Instr.calLoad 0 0 [] [],
    Instr.calRead 0 0 [], Instr.calMeasure 0 0 [] [], Instr.logRead 0 0 [], Instr.logClear 0 0 [], Instr.fwStage 0 0 [], Instr.fwActivate 0 0,
    Instr.fwConfirm 0 0, Instr.timeSet 0 0, Instr.timeAcceptJump 0 0, Instr.deferredJumpApply 0, Instr.abortEngine 0 0 false [],
    Instr.abortRing 0 0 false, Instr.abortColLevel 0 0 false, Instr.abortPipe 0 0 false, Instr.abortPort 0 0 false] : List Instr).all Instr.wf := by
  decide +kernel

/-- Commands from AbortFlow on, each with one field out of its range, and each with all fields in range. -/
theorem test_wf_2 :
    ([
    Instr.abortFlow 64 0 false, Instr.abortFlow 0 (2 ^ 64) false, Instr.abortRadio 64 0 false, Instr.abortRadio 0 (2 ^ 64) false,
    Instr.targetQuiesced 7 0 0, Instr.abortEscalation 7 0, Instr.blockResetDone 7 0 0 [], Instr.blockResetTimeout 7 0, Instr.tileSend 64 0 [],
    Instr.tileSend 0 (2 ^ 64) [], Instr.tileSend 0 0 (List.replicate 65536 0), Instr.pairQuery 64 0, Instr.pairQuery 0 (2 ^ 64),
    Instr.pairEnable 64 0, Instr.pairEnable 0 (2 ^ 64), Instr.pairDisable 64 0, Instr.pairDisable 0 (2 ^ 64), Instr.requestActive 64 0 false,
    Instr.requestActive 0 (2 ^ 64) false, Instr.requestStandby 64 0 false, Instr.requestStandby 0 (2 ^ 64) false, Instr.sqTail 64 0 false,
    Instr.sqTail 0 (2 ^ 32) false, Instr.cqHead 64 0 false, Instr.cqHead 0 (2 ^ 32) false, Instr.evqHead (2 ^ 32) false, Instr.vecRearm 16192 false,
    Instr.descriptorFetch 64 (List.replicate 64 0) [], Instr.descriptorFetch 0 (List.replicate 63 0) [], Instr.dmaReadTimeout 64 0 [] [],
    Instr.dmaReadTimeout 0 (2 ^ 64) [] [], Instr.sqCtlWrite (.engine 24) 0 0, Instr.sqCtlWrite .host 64 0, Instr.sqCtlWrite .host 0 (2 ^ 32),
    Instr.cqCtlWrite (.engine 24) 0 0, Instr.cqCtlWrite .host 64 0, Instr.cqCtlWrite .host 0 (2 ^ 32), Instr.evqCtlWrite (.engine 24) 0,
    Instr.evqCtlWrite .host (2 ^ 32), Instr.sqEpochWrite (.engine 24) 0 0, Instr.sqEpochWrite .host 64 0, Instr.sqEpochWrite .host 0 (2 ^ 32),
    Instr.intSrcMapWrite (.engine 24) 0 0, Instr.intSrcMapWrite .host 128 0, Instr.intSrcMapWrite .host 0 (2 ^ 32), Instr.msixMessage 64,
    Instr.msixTableWrite (2 ^ 32) 0 0, Instr.msixTableWrite 0 (2 ^ 32) 0, Instr.registerWrite (.engine 24) 0 0 0,
    Instr.registerWrite .host (2 ^ 32) 0 0, Instr.registerWrite .host 0 (2 ^ 32) 0, Instr.forceSafe (.engine 24),
    Instr.blockResetDone 0 0 0 [(2 ^ 30, ⟨[], .detected⟩)]] : List Instr).all (fun i => !i.wf) ∧
    ([
    Instr.abortFlow 0 0 false, Instr.abortRadio 0 0 false, Instr.targetQuiesced 0 0 0, Instr.abortEscalation 0 0, Instr.blockResetDone 0 0 0 [],
    Instr.blockResetTimeout 0 0, Instr.tileSend 0 0 [], Instr.pairQuery 0 0, Instr.pairEnable 0 0, Instr.pairDisable 0 0,
    Instr.requestActive 0 0 false, Instr.requestStandby 0 0 false, Instr.sqTail 0 0 false, Instr.cqHead 0 0 false, Instr.evqHead 0 false,
    Instr.vecRearm 0 false, Instr.descriptorFetch 0 (List.replicate 64 0) [], Instr.dmaReadTimeout 0 0 [] [], Instr.sqCtlWrite .host 0 0,
    Instr.cqCtlWrite .host 0 0, Instr.evqCtlWrite .host 0, Instr.sqEpochWrite .host 0 0, Instr.intSrcMapWrite .host 0 0, Instr.msixMessage 0,
    Instr.msixTableWrite 0 0 0, Instr.registerWrite .host 0 0 0, Instr.forceSafe .host] : List Instr).all Instr.wf := by
  decide +kernel

/-- Commands from GlbLnkClr on, each with one field out of its range, and each with all fields in range. -/
theorem test_wf_3 :
    ([
    Instr.glbLnkClr (.engine 24), Instr.flitCrcError 20 false .glb, Instr.flitCrcError 0 false (.net 4), Instr.flitCrcError 0 false (.sramBank 24),
    Instr.flitCrcError 0 false (.scn 32), Instr.flitCrcError 0 false (.nsh 32), Instr.flitCrcError 0 false (.odl 2),
    Instr.flitCrcError 0 false (.spr 24), Instr.isolation (.net 4), Instr.isolationTimeout (.net 4), Instr.safeStateEntry [0],
    Instr.safeStateEntry [16], Instr.ptpMessageReceive 4 0 false 0 (.announce 0 []), Instr.sourceLoss 4, Instr.qualityChange 4,
    Instr.tioInputEdge 8 false 0, Instr.tioInputEdge 0 false 10, Instr.compareFire 16, Instr.ppsOutput 8, Instr.tioPulseEnd 8,
    Instr.roundTripMeasurement 32, Instr.timeBaseSend 32, Instr.netFrameReceive 4 0 [] false, Instr.netFrameReceive 0 4 [] false, Instr.netLinkUp 4 0,
    Instr.netLinkUp 0 4, Instr.netLinkDown 4 0, Instr.netLinkDown 0 4, Instr.pauseFrameReceive 4 0 false [], Instr.pauseFrameReceive 0 4 false [],
    Instr.netPauseHoldEnd 4 0 none, Instr.netPauseHoldEnd 0 4 none, Instr.netPauseHoldEnd 0 0 (some 8), Instr.netQueueHoldEvent 4 0 0,
    Instr.netQueueHoldEvent 0 4 0, Instr.netQueueHoldEvent 0 0 8, Instr.flowPacket 32 0 ⟨0, 0, false, false, 0, []⟩ 0 [] [],
    Instr.flowPacket 0 2 ⟨0, 0, false, false, 0, []⟩ 0 [] [], Instr.flowFrameComplete 32, Instr.flowPathTimeout 32 0, Instr.flowPathTimeout 0 2,
    Instr.sacnPacket 4 0 .discovery [] [], Instr.sacnPacket 0 4 .discovery [] [], Instr.sacnSyncPacket 4 0 0, Instr.sacnSyncPacket 0 4 0,
    Instr.sacnSourceTimeout 8192 0, Instr.sramScrub (.imem 24) 0 ⟨[], []⟩, Instr.sramScrub (.dmem 24) 0 ⟨[], []⟩,
    Instr.sramScrub .sram 0 ⟨[351], [⟨16, 0, false⟩]⟩,
    Instr.flowPacket 0 0 ⟨0, 0, false, false, 0, []⟩ 0 [(2 ^ 30, ⟨[], .detected⟩)] [],
    Instr.flowPacket 0 0 ⟨0, 0, false, false, 0, []⟩ 0 [] [(8, ⟨[352], []⟩)], Instr.sacnPacket 0 0 .discovery [] [(12, ⟨[352], []⟩)]] : List Instr).all (fun i => !i.wf) ∧
    ([
    Instr.glbLnkClr .host, Instr.flitCrcError 0 false .glb, Instr.isolation .glb, Instr.isolationTimeout .glb, Instr.safeStateEntry [],
    Instr.ptpMessageReceive 0 0 false 0 (.announce 0 []), Instr.sourceLoss 0, Instr.qualityChange 0, Instr.tioInputEdge 0 false 0, Instr.compareFire 0,
    Instr.ppsOutput 0, Instr.tioPulseEnd 0, Instr.roundTripMeasurement 0, Instr.timeBaseSend 0, Instr.netFrameReceive 0 0 [] false,
    Instr.netLinkUp 0 0, Instr.netLinkDown 0 0, Instr.pauseFrameReceive 0 0 false [], Instr.netPauseHoldEnd 0 0 none, Instr.netQueueHoldEvent 0 0 0,
    Instr.flowPacket 0 0 ⟨0, 0, false, false, 0, []⟩ 0 [] [], Instr.flowFrameComplete 0, Instr.flowPathTimeout 0 0, Instr.sacnPacket 0 0 .discovery [] [],
    Instr.sacnSyncPacket 0 0 0, Instr.sacnSourceTimeout 0 0, Instr.sramScrub .sram 0 ⟨[], []⟩] : List Instr).all Instr.wf := by
  decide +kernel

/-- Commands from FrameBoundary on, each with one field out of its range, and each with all fields in range. -/
theorem test_wf_4 :
    ([
    Instr.frameBoundary 8 [] .none, Instr.frameBoundary 0 [(2 ^ 30, ⟨[], .detected⟩)] .none, Instr.virtualLine 8 [] [], Instr.applyLine 8, Instr.flipSend 32,
    Instr.fbArmGo (.engine 24) 0, Instr.fbArmGo .host 32, Instr.fbArmClr (.engine 24) 0, Instr.fbArmClr .host 32, Instr.calCopyDone 32 [],
    Instr.statInitDone 32 [], Instr.statFold 32 [], Instr.msrStop (.engine 24), Instr.trainingStart 32, Instr.trainingAttemptTimeout 32,
    Instr.trainingWaitEnd 32, Instr.nshLinkUp 32, Instr.enumWaitEnd 32 [], Instr.blockLockLoss 32, Instr.lockLossTimeout 32,
    Instr.nshFrameReject 32 .crc, Instr.ackReceive 32 0 0 0 false, Instr.ackReceive 0 128 0 0 false, Instr.ackReceive 0 0 4 0 false,
    Instr.tilePause 32 0 0 0, Instr.tilePause 0 128 0 0, Instr.tilePause 0 0 16 0, Instr.tilePauseHoldEnd 32 0, Instr.tilePauseHoldEnd 0 128,
    Instr.tileHoldEvent 32 0, Instr.tileHoldEvent 0 4, Instr.identityAnswer 32 0 0 [] [], Instr.identityAnswer 0 128 0 [] [], Instr.digestAnswer 32 0 0 [],
    Instr.digestAnswer 0 128 0 [], Instr.faultReport 32 0 0 [], Instr.faultReport 0 128 0 [], Instr.frameReport 32 0 [], Instr.frameReport 0 128 [],
    Instr.measurementAnswer 32 0 0 [], Instr.measurementAnswer 0 128 0 [], Instr.calCopyDone 0 [(2 ^ 30, ⟨[], .detected⟩)],
    Instr.statInitDone 0 [(2 ^ 30, ⟨[], .detected⟩)], Instr.enumWaitEnd 0 [(2 ^ 30, ⟨[], .detected⟩)]] : List Instr).all (fun i => !i.wf) ∧
    ([
    Instr.frameBoundary 0 [] .none, Instr.virtualLine 0 [] [], Instr.applyLine 0, Instr.flipSend 0, Instr.fbArmGo .host 0,
    Instr.fbArmClr .host 0, Instr.calCopyDone 0 [], Instr.statInitDone 0 [], Instr.statFold 0 [], Instr.msrStop .host, Instr.trainingStart 0,
    Instr.trainingAttemptTimeout 0, Instr.trainingWaitEnd 0, Instr.nshLinkUp 0, Instr.enumWaitEnd 0 [], Instr.blockLockLoss 0,
    Instr.lockLossTimeout 0, Instr.nshFrameReject 0 .crc, Instr.ackReceive 0 0 0 0 false, Instr.tilePause 0 0 0 0, Instr.tilePauseHoldEnd 0 0,
    Instr.tileHoldEvent 0 0, Instr.identityAnswer 0 0 0 [] [], Instr.digestAnswer 0 0 0 [], Instr.faultReport 0 0 0 [], Instr.frameReport 0 0 [],
    Instr.measurementAnswer 0 0 0 []] : List Instr).all Instr.wf := by
  decide +kernel

/-- Commands from RetryTimeout on, each with one field out of its range, and each with all fields in range. -/
theorem test_wf_5 :
    ([
    Instr.retryTimeout 32 0 0 0, Instr.retryTimeout 0 4 0 0, Instr.retryTimeout 0 0 256 0, Instr.rateShift 32, Instr.rateShiftComplete 32,
    Instr.shiftLockTimeout 32, Instr.glbNshHint (.engine 24) 0, Instr.glbNshHint .host (2 ^ 32), Instr.fixtureTick 8 [] [], Instr.fixHeldRelease 32 [],
    Instr.downlinkRound 2 0 .sent [], Instr.beaconSend 2 .sent, Instr.beaconSfdCapture 2 0, Instr.beaconSfdCapture 0 10, Instr.assocReq 2 0 0 0 0 0,
    Instr.keepalive 2 0 0 0, Instr.odlFrameReject 2 false, Instr.nodeAdrift 2 0, Instr.nodeAdrift 0 65536, Instr.addrLeaseEnd 2 0,
    Instr.addrLeaseEnd 0 65536, Instr.transceiverRetry 2 false, Instr.scalarAlu 24 (.rr .add 0 0 0) ⟨[], []⟩,
    Instr.scalarAlu 0 (.rr .add 32 0 0) ⟨[], []⟩, Instr.scalarAlu 0 (.rr .add 0 32 0) ⟨[], []⟩, Instr.scalarAlu 0 (.rr .add 0 0 32) ⟨[], []⟩,
    Instr.scalarAlu 0 (.ri .addi 32 0 0) ⟨[], []⟩, Instr.scalarAlu 0 (.ri .addi 0 32 0) ⟨[], []⟩, Instr.scalarAlu 0 (.ri .addi 0 0 65536) ⟨[], []⟩,
    Instr.branch 24 (.jal 0 0) ⟨[], []⟩, Instr.branch 0 (.cond .eq 32 0 0) ⟨[], []⟩, Instr.branch 0 (.cond .eq 0 32 0) ⟨[], []⟩,
    Instr.branch 0 (.cond .eq 0 0 65536) ⟨[], []⟩, Instr.branch 0 (.jal 32 0) ⟨[], []⟩, Instr.branch 0 (.jal 0 65536) ⟨[], []⟩,
    Instr.branch 0 (.jalr 32 0 0) ⟨[], []⟩, Instr.branch 0 (.jalr 0 32 0) ⟨[], []⟩, Instr.branch 0 (.jalr 0 0 65536) ⟨[], []⟩,
    Instr.load 24 .lw 0 0 0 0 [] [] ⟨[], []⟩, Instr.load 0 .lw 32 0 0 0 [] [] ⟨[], []⟩, Instr.load 0 .lw 0 32 0 0 [] [] ⟨[], []⟩,
    Instr.load 0 .lw 0 0 65536 0 [] [] ⟨[], []⟩, Instr.load 0 .lw 0 0 0 256 [] [] ⟨[], []⟩,
    Instr.load 0 .lw 0 0 0 0 [] [⟨[], []⟩, ⟨[352], []⟩] ⟨[], []⟩, Instr.loadResponse 24 0, Instr.loadResponse 0 16,
    Instr.store 24 .sw 0 0 0 0 [] [] ⟨[], []⟩, Instr.store 0 .sw 32 0 0 0 [] [] ⟨[], []⟩, Instr.store 0 .sw 0 32 0 0 [] [] ⟨[], []⟩,
    Instr.store 0 .sw 0 0 65536 0 [] [] ⟨[], []⟩, Instr.store 0 .sw 0 0 0 256 [] [] ⟨[], []⟩,
    Instr.store 0 .sw 0 0 0 0 [] [⟨[], []⟩, ⟨[352], []⟩] ⟨[], []⟩, Instr.storeErrorResponse 24, Instr.atomic 24 .add 0 0 0 0 [] ⟨[], []⟩,
    Instr.atomic 0 .add 32 0 0 0 [] ⟨[], []⟩, Instr.atomic 0 .add 0 32 0 0 [] ⟨[], []⟩, Instr.atomic 0 .add 0 0 32 0 [] ⟨[], []⟩,
    Instr.atomic 0 .add 0 0 0 256 [] ⟨[], []⟩, Instr.atomic 0 .add 0 0 0 0 [⟨[], []⟩, ⟨[352], []⟩] ⟨[], []⟩,
    Instr.vectorOp 24 ⟨.vadd, 0, 0, 0, false, 0, 0, false⟩ ⟨[], []⟩, Instr.vectorOp 0 ⟨.vadd, 16, 0, 0, false, 0, 0, false⟩ ⟨[], []⟩,
    Instr.vectorOp 0 ⟨.vadd, 0, 16, 0, false, 0, 0, false⟩ ⟨[], []⟩, Instr.vectorOp 0 ⟨.vadd, 0, 0, 32, false, 0, 0, false⟩ ⟨[], []⟩,
    Instr.vectorOp 0 ⟨.vadd, 0, 0, 0, false, 4, 0, false⟩ ⟨[], []⟩, Instr.vectorOp 0 ⟨.vadd, 0, 0, 0, false, 0, 4, false⟩ ⟨[], []⟩,
    Instr.wget 24 0 0 0 ⟨[], []⟩, Instr.wget 0 32 0 0 ⟨[], []⟩, Instr.wget 0 0 32 0 ⟨[], []⟩, Instr.wget 0 0 0 32 ⟨[], []⟩,
    Instr.wdone 24 0 0 ⟨[], []⟩, Instr.wdone 0 32 0 ⟨[], []⟩, Instr.wdone 0 0 32 ⟨[], []⟩, Instr.wpost 24 0 0 0 [] ⟨[], []⟩,
    Instr.wpost 0 32 0 0 [] ⟨[], []⟩, Instr.wpost 0 0 32 0 [] ⟨[], []⟩, Instr.wpost 0 0 0 32 [] ⟨[], []⟩,
    Instr.wpost 0 0 0 0 [⟨[], []⟩, ⟨[352], []⟩] ⟨[], []⟩, Instr.scalarAlu 0 (.rr .add 0 0 0) ⟨[352], []⟩, Instr.branch 0 (.jal 0 0) ⟨[352], []⟩,
    Instr.load 0 .lw 0 0 0 0 [] [] ⟨[352], []⟩, Instr.store 0 .sw 0 0 0 0 [] [] ⟨[352], []⟩, Instr.atomic 0 .add 0 0 0 0 [] ⟨[352], []⟩,
    Instr.vectorOp 0 ⟨.vadd, 0, 0, 0, false, 0, 0, false⟩ ⟨[352], []⟩, Instr.wget 0 0 0 0 ⟨[352], []⟩, Instr.wdone 0 0 0 ⟨[352], []⟩,
    Instr.wpost 0 0 0 0 [] ⟨[352], []⟩] : List Instr).all (fun i => !i.wf) ∧
    ([
    Instr.retryTimeout 0 0 0 0, Instr.rateShift 0, Instr.rateShiftComplete 0, Instr.shiftLockTimeout 0, Instr.glbNshHint .host 0,
    Instr.fixtureTick 0 [] [], Instr.fixHeldRelease 0 [], Instr.downlinkRound 0 0 .sent [], Instr.beaconSend 0 .sent, Instr.beaconSfdCapture 0 0,
    Instr.assocReq 0 0 0 0 0 0, Instr.keepalive 0 0 0 0, Instr.odlFrameReject 0 false, Instr.nodeAdrift 0 0, Instr.addrLeaseEnd 0 0,
    Instr.transceiverRetry 0 false, Instr.scalarAlu 0 (.rr .add 0 0 0) ⟨[], []⟩, Instr.branch 0 (.jal 0 0) ⟨[], []⟩,
    Instr.load 0 .lw 0 0 0 0 [] [] ⟨[], []⟩, Instr.loadResponse 0 0, Instr.store 0 .sw 0 0 0 0 [] [] ⟨[], []⟩, Instr.storeErrorResponse 0,
    Instr.atomic 0 .add 0 0 0 0 [] ⟨[], []⟩, Instr.vectorOp 0 ⟨.vadd, 0, 0, 0, false, 0, 0, false⟩ ⟨[], []⟩, Instr.wget 0 0 0 0 ⟨[], []⟩,
    Instr.wdone 0 0 0 ⟨[], []⟩, Instr.wpost 0 0 0 0 [] ⟨[], []⟩] : List Instr).all Instr.wf := by
  decide +kernel

/-- Commands from Wdefer on, each with one field out of its range, and each with all fields in range. -/
theorem test_wf_6 :
    ([
    Instr.wdefer 24 0 0 0 ⟨[], []⟩, Instr.wdefer 0 32 0 0 ⟨[], []⟩, Instr.wdefer 0 0 32 0 ⟨[], []⟩, Instr.wdefer 0 0 0 32 ⟨[], []⟩,
    Instr.cntrd 24 0 0 false ⟨[], []⟩, Instr.cntrd 0 32 0 false ⟨[], []⟩, Instr.cntrd 0 0 9 false ⟨[], []⟩, Instr.fence 24 0 ⟨[], []⟩,
    Instr.fence 0 65536 ⟨[], []⟩, Instr.csrr 24 0 0 ⟨[], []⟩, Instr.csrr 0 32 0 ⟨[], []⟩, Instr.csrr 0 0 65536 ⟨[], []⟩, Instr.csrw 24 0 0 ⟨[], []⟩,
    Instr.csrw 0 65536 0 ⟨[], []⟩, Instr.csrw 0 0 32 ⟨[], []⟩, Instr.eret 24 ⟨[], []⟩, Instr.trap 24 0 ⟨[], []⟩, Instr.trap 0 65536 ⟨[], []⟩,
    Instr.npost 24 0 0 0 0 [] [] ⟨[], []⟩, Instr.npost 0 32 0 0 0 [] [] ⟨[], []⟩, Instr.npost 0 0 32 0 0 [] [] ⟨[], []⟩,
    Instr.npost 0 0 0 32 0 [] [] ⟨[], []⟩, Instr.npost 0 0 0 0 256 [] [] ⟨[], []⟩, Instr.npost 0 0 0 0 0 [] [⟨[], []⟩, ⟨[352], []⟩] ⟨[], []⟩,
    Instr.signal 24 0 ⟨[], []⟩, Instr.signal 0 32 ⟨[], []⟩, Instr.bkpt 24 ⟨[], []⟩, Instr.engineStart (.engine 24) 0 false,
    Instr.engineStart .host 24 false, Instr.engineStop (.engine 24) 0 false, Instr.engineStop .host 24 false, Instr.engineImageLoaded 24 [],
    Instr.saddleLinkUp 0 4 false, Instr.saddleLinkDown 5, Instr.armRecord 32 0 { addr := 0 }, Instr.armRecordDeadline 32,
    Instr.mirroredFrame 32 ⟨0, 0, 0, []⟩ [], Instr.mirroredFrame 0 ⟨16, 0, 0, []⟩ [], Instr.mirroredFrame 0 ⟨0, 256, 0, []⟩ [], Instr.mirrorReceipt 32,
    Instr.commitNotice (.time 4 0) 0 (List.replicate 8 0) [] [], Instr.commitNotice (.frame 8 0) 0 (List.replicate 8 0) [] [],
    Instr.commitNotice .immediate 0 (List.replicate 7 0) [] [], Instr.outputDigest 32 0 0, Instr.saddleTimeTransfer (List.replicate 5 0),
    Instr.fwuReady (.engine 24) false, Instr.fwuReject (.engine 24) 0, Instr.fwuReject .host 256, Instr.setPairingKey 24 [],
    Instr.saveSecRegisters 24, Instr.revokeKey 24, Instr.wdefer 0 0 0 0 ⟨[352], []⟩, Instr.cntrd 0 0 0 false ⟨[352], []⟩, Instr.fence 0 0 ⟨[352], []⟩,
    Instr.csrr 0 0 0 ⟨[352], []⟩, Instr.csrw 0 0 0 ⟨[352], []⟩, Instr.eret 0 ⟨[352], []⟩, Instr.trap 0 0 ⟨[352], []⟩,
    Instr.npost 0 0 0 0 0 [] [] ⟨[352], []⟩, Instr.signal 0 0 ⟨[352], []⟩, Instr.bkpt 0 ⟨[352], []⟩] : List Instr).all (fun i => !i.wf) ∧
    ([
    Instr.wdefer 0 0 0 0 ⟨[], []⟩, Instr.cntrd 0 0 0 false ⟨[], []⟩, Instr.fence 0 0 ⟨[], []⟩, Instr.csrr 0 0 0 ⟨[], []⟩, Instr.csrw 0 0 0 ⟨[], []⟩,
    Instr.eret 0 ⟨[], []⟩, Instr.trap 0 0 ⟨[], []⟩, Instr.npost 0 0 0 0 0 [] [] ⟨[], []⟩, Instr.signal 0 0 ⟨[], []⟩, Instr.bkpt 0 ⟨[], []⟩,
    Instr.engineStart .host 0 false, Instr.engineStop .host 0 false, Instr.engineImageLoaded 0 [], Instr.saddleLinkUp 0 0 false,
    Instr.saddleLinkDown 0, Instr.armRecord 0 0 { addr := 0 }, Instr.armRecordDeadline 0, Instr.mirroredFrame 0 ⟨0, 0, 0, []⟩ [], Instr.mirrorReceipt 0,
    Instr.commitNotice .immediate 0 (List.replicate 8 0) [] [], Instr.outputDigest 0 0 0, Instr.saddleTimeTransfer [], Instr.fwuReady .host false,
    Instr.fwuReject .host 0, Instr.setPairingKey 0 [], Instr.saveSecRegisters 0, Instr.revokeKey 0] : List Instr).all Instr.wf := by
  decide +kernel

/-- Commands from CrnTrig on, each with one field out of its range, and each with all fields in range. -/
theorem test_wf_7 :
    ([
    Instr.crnTrig (.engine 24) 0, Instr.crnTrig .host 65536, Instr.crnClrSnap (.engine 24), Instr.crnClrRec (.engine 24),
    Instr.pmuFreeze (.engine 24) false, Instr.pmuClrAll (.engine 24) false, Instr.pmuEngineClr (.engine 24) 0 false,
    Instr.pmuEngineClr .host 24 false, Instr.pmuSetClr (.engine 24) .col, Instr.pmuSetClr .host (.pipe 32), Instr.pmuSetClr .host (.port 32),
    Instr.pmuLoRead (.engine 24) 0, Instr.pmuLoRead .host (2 ^ 32), Instr.wake 16, Instr.domainPowerOff (.engine 24) 0, Instr.domainPowerOff .host 12,
    Instr.domainPowerOn (.engine 24) 0, Instr.domainPowerOn .host 12, Instr.pwrCtlWrite (.engine 24) 0, Instr.pwrCtlWrite .host (2 ^ 32),
    Instr.pwrResClr (.engine 24), Instr.thermalSample (List.replicate 7 0), Instr.coldReset 4 0 false false 0 0, Instr.warmReset (.engine 24),
    Instr.ptpMessageSend 4 0 0 0 .sync, Instr.ptpMessageSend 0 4 0 0 .sync, Instr.illegalInstruction 24 0 ⟨[], []⟩, Instr.dmaTransferDone 64 0 [],
    Instr.dmaTransferDone 0 (2 ^ 64) [], Instr.engineBist 24 false, Instr.standbyEnumRequest 32, Instr.shiftReceive 32 0, Instr.shiftReceive 0 4,
    Instr.odlSeenFrame 2 0 0, Instr.jtagAccess (.reg (2 ^ 32)) none [] ⟨[], []⟩, Instr.jtagAccess (.dram (28 * 2 ^ 30)) none [] ⟨[], []⟩,
    Instr.jtagAccess (.sram (48 * 2 ^ 20)) none [] ⟨[], []⟩, Instr.jtagAccess (.reg 0) (some (2 ^ 32)) [] ⟨[], []⟩,
    Instr.illegalInstruction 0 0 ⟨[352], []⟩, Instr.illegalInstruction 0 (2 ^ 32) ⟨[], []⟩, Instr.dmaTransferDone 0 0 [(2 ^ 30, ⟨[], .detected⟩)],
    Instr.jtagAccess (.reg 0) none [(2 ^ 30, ⟨[], .detected⟩)] ⟨[], []⟩, Instr.jtagAccess (.reg 0) none [] ⟨[352], []⟩] : List Instr).all (fun i => !i.wf) ∧
    ([
    Instr.crnTrig .host 0, Instr.crnClrSnap .host, Instr.crnClrRec .host, Instr.pmuFreeze .host false, Instr.pmuClrAll .host false,
    Instr.pmuEngineClr .host 0 false, Instr.pmuSetClr .host .col, Instr.pmuLoRead .host 0, Instr.wake 0, Instr.domainPowerOff .host 0,
    Instr.domainPowerOn .host 0, Instr.pwrCtlWrite .host 0, Instr.pwrResClr .host, Instr.thermalSample (List.replicate 8 0),
    Instr.coldReset 0 0 false false 0 0, Instr.warmReset .host, Instr.ptpMessageSend 0 0 0 0 .sync, Instr.illegalInstruction 0 0 ⟨[], []⟩,
    Instr.dmaTransferDone 0 0 [], Instr.engineBist 0 false, Instr.standbyEnumRequest 0, Instr.shiftReceive 0 0, Instr.odlSeenFrame 0 0 0,
    Instr.jtagAccess (.reg 0) none [] ⟨[], []⟩] : List Instr).all Instr.wf := by
  decide +kernel

/-- Commands that meet errors of DRAM or of shared SRAM, each with an error of a block or a cell that there is not, and the errors that can be. -/
theorem test_wf_8 :
    ([
    Instr.cfgStage 0 0 [] [] [(0, ⟨[352], []⟩)], Instr.commitCheckDone [(2 ^ 30, ⟨[], .detected⟩)] [], Instr.commitCheckDone [] [(0, ⟨[352], []⟩)],
    Instr.commitApply [(0, ⟨[72], .detected⟩)], Instr.calRead 0 0 [(0, ⟨[], .wrong true (zeros 63) {}⟩)], Instr.logRead 0 0 [(0, ⟨[352], []⟩)],
    Instr.calMeasure 0 0 [] [(0, ⟨[], .wrong true (zeros 64) { type := 16 }⟩)], Instr.descriptorFetch 0 (zeros 64) [(0, ⟨[352], []⟩)],
    Instr.dmaReadTimeout 0 0 [] [(2 ^ 30, ⟨[], .detected⟩)], Instr.sacnPacket 0 0 .discovery [(2 ^ 30, ⟨[], .detected⟩)] [],
    Instr.identityAnswer 0 0 0 [] [(2 ^ 30, ⟨[], .detected⟩)], Instr.virtualLine 0 [] [(2 ^ 30, ⟨[], .detected⟩)],
    Instr.dramPatrolScrub (2 ^ 30) none, Instr.dramPatrolScrub 0 (some ⟨[72], .detected⟩), Instr.fixHeldRelease 0 [(2 ^ 30, ⟨[], .detected⟩)],
    Instr.fixtureTick 0 [(2 ^ 30, ⟨[], .detected⟩)] [], Instr.fixtureTick 0 [] [(0, ⟨[352], []⟩)], Instr.statSample [(2 ^ 30, ⟨[], .detected⟩)],
    Instr.statFold 0 [(2 ^ 30, ⟨[], .detected⟩)], Instr.msrStep [(2 ^ 30, ⟨[], .detected⟩)], Instr.engineImageLoaded 0 [(2 ^ 30, ⟨[], .detected⟩)],
    Instr.downlinkRound 0 0 .sent [(2 ^ 30, ⟨[], .detected⟩)], Instr.colGrant ⟨[352], []⟩, Instr.talusExpiry [(0, ⟨[352], []⟩)],
    Instr.load 0 .lw 0 0 0 0 [(2 ^ 30, ⟨[], .detected⟩)] [] ⟨[], []⟩, Instr.store 0 .sw 0 0 0 0 [(2 ^ 30, ⟨[], .detected⟩)] [] ⟨[], []⟩,
    Instr.npost 0 0 0 0 0 [(2 ^ 30, ⟨[], .detected⟩)] [] ⟨[], []⟩, Instr.mirroredFrame 0 ⟨0, 0, 0, []⟩ [(2 ^ 30, ⟨[], .detected⟩)],
    Instr.commitNotice .immediate 0 (zeros 8) [(2 ^ 30, ⟨[], .detected⟩)] [], Instr.commitNotice .immediate 0 (zeros 8) [] [(0, ⟨[352], []⟩)],
    Instr.stateCopy (.lines []) false [(2 ^ 30, ⟨[], .detected⟩)], Instr.setPairingKey 0 [(2 ^ 30, ⟨[], .detected⟩)]] : List Instr).all (fun i => !i.wf) ∧
    ([
    Instr.commitCheckDone [] [(0, ⟨[351], []⟩)], Instr.commitApply [(0, ⟨[71], .wrong true (zeros 64) { type := 15 }⟩)],
    Instr.dramPatrolScrub (2 ^ 30 - 1) (some ⟨[71], .detected⟩), Instr.colGrant ⟨[351], []⟩, Instr.talusExpiry [], Instr.statSample [],
    Instr.msrStep [], Instr.stateCopy (.lines []) false []] : List Instr).all Instr.wf := by
  decide +kernel

/-! ## Small states -/

/-- A running hub: after its boot, with completion ring 0 enabled and the DRAM trained. -/
def base0 : State :=
  let s := State.reset
  { s with hub := ({ s.hub with fwu := { s.hub.fwu with phase := .running } }.wrN (Reg.CQn_CTL 0) 0x403).wrN Reg.MEM_STATUS 0x32 }

/-- A state with another hub. -/
def withHub (s : State) (f : Hub → Hub) : State := { s with hub := f s.hub }

/-- A fetched descriptor with a tag, an opcode and bytes. -/
def dsc (tag op : Nat) (bytes : List Byte) (secure : Bool := false) (cq : Nat := 0) : Desc :=
  { tag := tag, opcode := op, flags := 0, bytes := bytes, cq := cq, secure := secure, phase := .fetched, status := 0, result := [], words := []
    data := [], silent := false }

/-- The 64 bytes of a descriptor from fields, each its offset, its length and its value. -/
def flds (l : List (Nat × Nat × Nat)) : List Byte :=
  (List.range 64).map (fun i => l.foldl (fun b f => if f.1 ≤ i && i < f.1 + f.2.1 then BitVec.ofNat 8 (f.2.2 / 2 ^ (8 * (i - f.1))) else b) 0)

/-- A state that holds a descriptor of ring 0. -/
def withDesc (s : State) (d : Desc) : State := withHub s (fun h => h.setSq 0 { h.sq 0 with inflight := (h.sq 0).inflight ++ [d] })

/-- A running hub that holds one fetched descriptor of tag 9. -/
def got (op : Nat) (l : List (Nat × Nat × Nat)) (s : State := base0) : State := withDesc s (dsc 9 op (flds l))

/-- A requester may write a register of class F. -/
def writableF (s : State) (who : Requester) (off : Nat) : Bool :=
  match s.hub.accessAt s.glob who off with
  | .ok d _ _ => d.cls == .f
  | _ => false

/-- A requester reaches a register, and it is of class F, or it is not. -/
def reachesClass (s : State) (who : Requester) (off : Nat) (f : Bool) : Bool :=
  match s.hub.accessAt s.glob who off with
  | .ok d _ _ => (d.cls == .f) == f
  | _ => false

/-! ## The hypotheses of the statements can be met: every step, faults, host interface, Summit -/

theorem test_hyps_StepRunsTheFrontCommand :
    ({ State.reset with pending := [.commitApply []] } : State).pending = .commitApply [] :: [] := by decide +kernel

theorem test_hyps_IdleCycleAdvancesTheBases :
    State.reset.pending = [] ∧ State.reset.hub.power.rootLock = false ∧
      (withHub base0 (fun h => { h with power := { h.power with rootLock := true } })).hub.power.rootLock = true := by decide +kernel

theorem test_hyps_StepsKeepMemoryCanonical :
    MemoryCanonical State.reset ∧ ∃ t, step State.reset = .next t := ⟨by decide +kernel, _, rfl⟩

theorem test_hyps_FusesOnceBlownStayBlown : ∃ t, exec (.commitApply []) State.reset = .next t := ⟨_, rfl⟩

/-- A hub in the safe state. -/
def safe0 : State := { base0 with glob := { base0.glob with safe := true, cause := 5 } }

theorem test_hyps_OnlyResetsLeaveTheSafeState :
    InSafeState safe0 ∧ (∃ t, exec .ppsSnapshot safe0 = .next t) ∧ resets .ppsSnapshot = false := ⟨by decide +kernel, ⟨_, rfl⟩, rfl⟩

theorem test_hyps_CommandsLeaveTheQueue : ∃ t, exec .ppsSnapshot safe0 = .next t := ⟨_, rfl⟩

theorem test_hyps_ReservedSourcesAreNeverRaised :
    Instr.ppsSnapshot.wf = true ∧ (∃ t, exec .ppsSnapshot base0 = .next t) ∧
      (∀ src ∈ List.range 128, sourceReserved src = true → base0.hub.pending src = false) ∧ sourceReserved 106 = true ∧
      base0.hub.allows base0.glob .host (Reg.INT_SRC_MAPn 111) = true :=
  ⟨rfl, ⟨_, rfl⟩, by decide +kernel, by decide +kernel, by decide +kernel⟩

/-- A hub with blocks that have reported a fault. -/
def faulty : State := withHub base0 (fun h => { h with power := { h.power with reported := [.scn 3, .memA] } })

theorem test_hyps_SafeStateKeepsItsFirstCause :
    (faulty.glob.safe = false ∧ 2 ∈ [3, 2] ∧ chipCause 2 = true ∧ (∀ d ∈ [3, 2], chipCause d = true → 2 ≤ d) ∧
      faulty.hub.allows faulty.glob (.engine 0) Reg.GLB_FLT_CTL = true ∧ faulty.hub.power.reported.contains (.scn 3) = true) ∧
    safe0.glob.safe = true ∧ safe0.hub.allows safe0.glob (.engine 0) Reg.GLB_FLT_CTL = true := by decide +kernel

theorem test_hyps_IsolationFencesAndEscalates :
    faulty.hub.power.reported.contains (.scn 3) = true ∧ faulty.hub.power.reported.contains .memA = true ∧ faulty.glob.safe = false ∧
      (Block.scn 3).chipCause = 0 ∧ Block.memA.chipCause ≠ 0 := by decide +kernel

/-- Links with flits that have been replayed. -/
def replayed : State := withHub base0 (fun h => { h with power := { h.power with flitTries := [(4, 3), (19, 2)] } })

theorem test_hyps_MeshLinksReplayAndCount :
    (19 < 20 ∧ Sparse.get 0 replayed.hub.power.flitTries 19 < 3) ∧
    (4 < 20 ∧ Sparse.get 0 replayed.hub.power.flitTries 4 = 3 ∧ Block.tim.region = linkRegion 4 ∧ replayed.hub.isolatedBlock .tim = false) ∧
    replayed.hub.allows replayed.glob .host Reg.GLB_LNK_CLR = true := by decide +kernel

/-- A hub whose rings 0 and event ring are enabled. -/
def ringOn : State := withHub base0 (fun h =>
  let h1 := (((h.wrN (Reg.SQn_CTL 0) 0x401).wrN Reg.EVQ_CTL 0x401).setSq 0 { h.sq 0 with head := 3, tail := 5 }).setCq 0 { tail := 7, head := 2, used := 5 }
  { h1 with rings := { h1.rings with evq := { h1.rings.evq with tail := 4, head := 1, used := 3 } } })

theorem test_hyps_DoorbellsMoveTheirRingOrAreRejected :
    ringOn.hub.bit (Reg.SQn_CTL 0) 0 = true ∧
    (ringOn.hub.bit (Reg.CQn_CTL 0) 0 = true ∧ 7 < ringOn.hub.ringSize (Reg.CQn_CTL 0) ∧
      ringDist (ringOn.hub.ringSize (Reg.CQn_CTL 0)) (ringOn.hub.cq 0).head 7 ≤ (ringOn.hub.cq 0).used) ∧
    (ringOn.hub.bit Reg.EVQ_CTL 0 = true ∧ 4 < ringOn.hub.ringSize Reg.EVQ_CTL ∧
      ringDist (ringOn.hub.ringSize Reg.EVQ_CTL) ringOn.hub.rings.evq.head 4 ≤ ringOn.hub.rings.evq.used) ∧
    base0.hub.bit (Reg.SQn_CTL 63) 0 = false ∧ base0.hub.bit (Reg.CQn_CTL 63) 0 = false ∧ base0.hub.bit Reg.EVQ_CTL 0 = false := by
  decide +kernel

/-- The bytes of a descriptor with an opcode, tag 77 and an epoch. -/
def fetchBytes (op ep : Nat) : List Byte := flds [(0, 1, op), (4, 4, 77), (8, 2, ep)]

theorem test_hyps_FetchTakesUpTheNextDescriptor :
    ((fetchBytes 3 0).length = 64 ∧ ringOn.hub.fetchable 0 = true ∧ ringOn.hub.outranked 0 = false ∧
      bitOf (byteAt (fetchBytes 3 0) 1) 0 = false ∧ descValid (fetchBytes 3 0) = true ∧
      leAt (fetchBytes 3 0) 8 2 = ringOn.hub.f (Reg.SQn_EPOCH 0) 15 0 ∧ (∀ e ∈ (ringOn.hub.sq 0).window, e.tag ≠ leAt (fetchBytes 3 0) 4 4) ∧
      ringOn.hub.fwu.phase ≠ .recovery ∧ ringOn.hub.saddle.role = .unpaired) ∧
    ((fetchBytes 3 5).length = 64 ∧ bitOf (byteAt (fetchBytes 3 5) 1) 0 = false ∧
      leAt (fetchBytes 3 5) 8 2 ≠ ringOn.hub.f (Reg.SQn_EPOCH 0) 15 0) ∧
    Fetched (got 0x10 []) 0 9 0x10 (dsc 9 0x10 (flds [])) := by unfold Fetched; decide +kernel

theorem test_hyps_RegisterWritesReachTheirFields :
    base0.hub.allows base0.glob .host (Reg.INT_VEC_CTLv 63) = true ∧ 6 % 4 ≠ 0 ∧
    (base0.hub.allows base0.glob .host (Reg.SQn_CTL 63) = true ∧ base0.hub.bit (Reg.SQn_CTL 63) 0 = false ∧ bitOf 0x401 0 = true ∧
      sizeOk 0x401 = true) ∧
    (base0.hub.allows base0.glob .host (Reg.CQn_CTL 63) = true ∧ base0.hub.bit (Reg.CQn_CTL 63) 0 = false) ∧
    (base0.hub.allows base0.glob .host Reg.EVQ_CTL = true ∧ base0.hub.bit Reg.EVQ_CTL 0 = false) ∧
    (base0.hub.allows base0.glob .host (Reg.SQn_EPOCH 63) = true ∧ 65535 ≠ base0.hub.f (Reg.SQn_EPOCH 63) 15 0) ∧
    base0.hub.allows base0.glob .host (Reg.INT_SRC_MAPn 127) = true := by decide +kernel

/-- Two asserted and armed vectors, one of them masked. -/
def vecs : State := withHub base0 (fun h =>
  let h1 := (h.setVec 2 { armed := true, mask := true, data := 7 }).setVec 3 { armed := true, mask := false, data := 9 }
  (({ h1 with rings := { h1.rings with msixEn := true } }.wrN (Reg.INT_SRC_MAPn 5) 0x102).wrN (Reg.INT_SRC_MAPn 127) 0x103).setPend 5 |>.setPend 127)

theorem test_hyps_VectorsSendTheirMessage :
    (vecs.hub.rings.msixEn = true ∧ vecs.hub.rings.fmask = false ∧ (vecs.hub.vec 3).mask = false ∧ (vecs.hub.vec 3).armed = true ∧
      vecs.hub.asserted 3 = true ∧ vecs.hub.holdoffOver 3 = true) ∧
    ((vecs.hub.vec 2).mask = true ∧ (vecs.hub.vec 2).armed = true ∧ vecs.hub.asserted 2 = true ∧ vecs.hub.holdoffOver 2 = true) ∧
    base0.hub.rings.msixEn = false := by decide +kernel

/-- A hub that holds an ABORT of an object. -/
def abortOf (kind i : Nat) (f : Hub → Hub := id) : State := got 0x70 [(16, 1, kind), (18, 2, i)] (withHub base0 f)

/-- An ABORT in flight with its descriptor. -/
def abortIn (p : AbortPhase) (k : Nat) : State := withHub (abortOf k 1) (fun h =>
  h.setAbort k 1 (some { kind := k, index := 1, phase := p, ended := 2, descs := [(0, 9)] }))

theorem test_hyps_AbortEndsItsTarget :
    ((abortOf 0 23 (fun h => h.setEng 23 { phase := .running })).hub.desc 0 9 = some (dsc 9 0x70 (flds [(16, 1, 0), (18, 2, 23)])) ∧
      (abortOf 0 23).hub.blockOn (.spr 23) = true ∧ (abortOf 0 23).hub.isolatedBlock (.spr 23) = false ∧
      (abortOf 0 23).hub.abortOn 0 23 = none ∧ ((abortOf 0 23 (fun h => h.setEng 23 { phase := .running })).hub.eng 23).phase = .running ∧
      (abortOf 0 23).hub.bit (Reg.SPRe_CTL 23) 1 = false) ∧
    ((abortOf 3 31).hub.blockOn (.scn 31) = true ∧ (abortOf 3 31).hub.isolatedBlock (.scn 31) = false ∧ (abortOf 3 31).hub.abortOn 3 31 = none) ∧
    ((abortOf 4 31 (fun h => h.wrN (Reg.NSHn_CTL 31) 1)).hub.bit (Reg.NSHn_CTL 31) 0 = true ∧ (abortOf 4 31).hub.blockOn (.nsh 31) = true) ∧
    ((abortOf 5 31).hub.blockOn .ing = true ∧ (abortOf 5 31).hub.abortOn 5 31 = none) ∧
    ((abortOf 6 1 (fun h => { h.setOdl 1 { h.odl 1 with phase := .beaconing } with saddle := { h.saddle with role := .standby } })).hub.saddle.role = .standby) ∧
    ((abortIn (.quiescing false) 4).hub.abortOn 4 1 = some { kind := 4, index := 1, phase := .quiescing false, ended := 2, descs := [(0, 9)] } ∧
      ((abortIn (.quiescing false) 4).hub.desc 0 9).isSome = true) ∧
    ((abortIn (.quiescing true) 4).hub.abortOn 4 1 = some { kind := 4, index := 1, phase := .quiescing true, ended := 2, descs := [(0, 9)] } ∧
      abortIsBlock 4 = true) ∧
    ((abortIn (.resetting true) 3).hub.abortOn 3 1).isSome = true ∧ ((abortIn (.resetting false) 4).hub.abortOn 4 1).isSome = true ∧
    (((abortOf 1 63).hub.sq 63).inflight = [] ∧ Fetched (abortOf 1 63) 0 9 0x70 (dsc 9 0x70 (flds [(16, 1, 1), (18, 2, 63)]))) ∧
    ((abortOf 2 7).hub.blockOn .col = true ∧ Fetched (abortOf 2 7) 0 9 0x70 (dsc 9 0x70 (flds [(16, 1, 2), (18, 2, 7)]))) := by
  unfold Fetched; decide +kernel

/-- A staged write. -/
def staged (o v : Nat) : StagedWrite := { off := o, value := v, owner := none }

/-- A commit in a phase, with a set of three writes. -/
def committing (ph : CmtPhase) (s : State := base0) : State := withHub s (fun h => { h with commit := { h.commit with
  phase := ph, owner := some (0, 9), epoch := 5, writes := [staged (Reg.PGg_CTL 0) 2, staged (Reg.TBt_TRIM 1) 77, staged (Reg.TBt_TRIM 1) 78] } })

theorem test_hyps_StagingTakesAllOrNothing :
    (Fetched (got 1 [(16, 4, 2)]) 0 9 1 (dsc 9 1 (flds [(16, 4, 2)])) ∧ base0.hub.commit.phase = .idle ∧
      (∀ w ∈ [(Reg.PGg_CTL 0, 2), (Reg.SCNp_CTL 31, 0)], stageable w.1 = true)) ∧
    ((dsc 9 1 (flds [(40, 4, 4), (44, 4, tblPatch)])).op 40 4 ≠ 0 ∧ base0.hub.commit.tableBad 0xFFFF0000 4 = true) ∧
    stageable 3 = false ∧
    65536 < (List.replicate 65535 (staged 0 0)).length + [(Reg.PGg_CTL 0, 2), (Reg.SCNp_CTL 31, 0)].length ∧
    (committing .pending).hub.commit.phase ≠ .idle ∧
    Fetched (got 3 []) 0 9 3 (dsc 9 3 (flds [])) := by
  unfold Fetched; exact ⟨by decide +kernel, by decide +kernel, by decide +kernel, by rw [List.length_replicate]; decide, by decide +kernel, by decide +kernel⟩

theorem test_hyps_CommitIsCheckedThenPending :
    (Fetched (got 2 [(16, 1, 0)]) 0 9 2 (dsc 9 2 (flds [(16, 1, 0)])) ∧ (got 2 []).glob.safe = false ∧ (got 2 []).hub.commit.phase = .idle) ∧
    ((got 2 [(16, 1, 1), (24, 6, 2)]).hub.now48 0 + base0.hub.commitLead base0.hub.overlay ≤ time48 2 0 0) ∧
    (time48 0 0 0 < (got 2 [(16, 1, 1)]).hub.now48 0 + base0.hub.commitLead base0.hub.overlay) ∧
    (committing .checking (got 2 [])).hub.commit.owner = some (0, 9) := by
  unfold Fetched; decide +kernel

theorem test_hyps_CommitIsCheckedThenPending_2 :
    ((withHub (committing .checking (got 2 [])) (fun h => { h with power := { h.power with domains := 0xF7F } })).hub.checkVerdict
      base0.glob false .immediate).isSome = true := by decide +kernel

/-- The hub as it left reset, with a set of nothing in its check, and the findings of the steps of that check. -/
def checkingNothing : Hub := (withHub base0 (fun h => { h with commit := { h.commit with phase := .checking } })).hub

theorem test_check_steps_3_to_5 : checkingNothing.rangeFindings checkingNothing.overlay = [] ∧ checkingNothing.poweredOff = [] ∧
    checkingNothing.worldDenied true = [] := by decide +kernel
theorem test_check_step_6 :
    checkingNothing.commit.atStart ++ checkingNothing.crossRules base0.glob checkingNothing.overlay = [] := by decide +kernel
theorem test_check_step_7 : checkingNothing.displayBreaks checkingNothing.overlay .immediate = none := by decide +kernel
theorem test_check_step_8 : lowestConflict checkingNothing.claims checkingNothing.overlay.claims = none := by decide +kernel

/-- A check whose steps find nothing passes. -/
theorem checkVerdict_eq_none (h : Hub) (g : Glob) (sec : Bool) (i : Instant) (h3 : h.rangeFindings h.overlay = []) (h4 : h.poweredOff = [])
    (h5 : h.worldDenied sec = []) (h6 : h.commit.atStart ++ h.crossRules g h.overlay = []) (h7 : h.displayBreaks h.overlay i = none)
    (h8 : lowestConflict h.claims h.overlay.claims = none) : h.checkVerdict g sec i = none := by
  simp only [Hub.checkVerdict, h3, h4, h5, h6, h7, h8, failOf, conflictOf, List.isEmpty_nil, if_true, Option.map_none, Option.orElse]

theorem test_hyps_CommitIsCheckedThenPending_3 :
    (withHub base0 (fun h => { h with commit := { h.commit with phase := .checking } })).hub.checkVerdict base0.glob true .immediate = none :=
  checkVerdict_eq_none checkingNothing base0.glob true .immediate test_check_steps_3_to_5.1 test_check_steps_3_to_5.2.1
    test_check_steps_3_to_5.2.2 test_check_step_6 test_check_step_7 test_check_step_8

theorem test_hyps_PendingSetTakesEffectWhole :
    (committing .pending).hub.commit.phase = .pending ∧ (committing .pending).hub.saddle.notice = none ∧
      (committing .pending).hub.power.offPending = [] ∧
      (∀ w ∈ (committing .pending).hub.commit.stagedWrites, freeClass w.off = false ∧ w.value < 2 ^ 32) := by decide +kernel

/-- A port that is up with one enumerated tile. -/
def upPort (n : Nat) (s : State := base0) : State := withHub s (fun h => h.setPort n { h.port n with phase := .up, tiles := [(0, { present := true })] })

theorem test_hyps_CommittedRegistersAreReadAndGuarded :
    reachesClass base0 .host (Reg.PGg_CTL 7) false = true ∧
    (let s := withDesc base0 (dsc 9 4 (flds [(16, 4, Reg.PGg_CTL 0), (20, 4, 1)]) true)
     Fetched s 0 9 4 (dsc 9 4 (flds [(16, 4, Reg.PGg_CTL 0), (20, 4, 1)]) true) ∧ s.hub.reachable .pg = true ∧
      Block.ofOffset (Reg.PGg_CTL 0) = some .pg ∧ (Reg.at (Reg.PGg_CTL 0)).isSome = true) ∧
    (let s := withDesc base0 { dsc 9 0x71 [] with phase := .moving }
     s.hub.desc 0 9 = some { dsc 9 0x71 [] with phase := .moving }) ∧
    (Fetched (got 0x71 [(16, 4, 2 ^ 31)]) 0 9 0x71 (dsc 9 0x71 (flds [(16, 4, 2 ^ 31)])) ∧ (got 0x71 []).hub.blockOn (.nsh 31) = true ∧
      ((got 0x71 []).hub.port 31).phase.carries = false) ∧
    (((upPort 31).hub.port 31).phase.carries = true ∧ (upPort 31).hub.originates 31 = true) := by
  unfold Fetched; decide +kernel

/-- Transfers of a CFG_READ, a CAL_READ, a LOG_READ and a census report, and a census whose tile does not answer. -/
theorem test_hyps_CommittedRegistersAreReadAndGuarded_2 :
    (∀ op ∈ [0x04, 0x31, 0x40, 0x71], (withDesc base0 { dsc 9 op [] with phase := .moving }).hub.desc 0 9 = some { dsc 9 op [] with phase := .moving }) ∧
    (let s := withDesc base0 { dsc 9 0x04 [] with phase := .moving, status := 0, words := [0x1000], data := [1, 2] }
     (s.hub.desc 0 9).isSome = true) ∧
    (let s := withDesc base0 { dsc 9 0x31 [] with phase := .moving, status := 0, words := [0x1000], data := [1, 2] }
     (s.hub.desc 0 9).isSome = true) ∧
    (let s := withDesc base0 { dsc 9 0x40 [] with phase := .moving, status := 0, words := [0x1000], data := [1, 2] }
     (s.hub.desc 0 9).isSome = true) ∧
    (let c : Census := { sq := 0, tag := 9, mask := 32, dest := 0x2000, epoch := 6, seconds := 0, nanos := 0, down := [], tiles := [(5, 1)], answers := [], endEpoch := 6, endDigest := [] }
     let s := withHub (got 0x71 [(16, 4, 32)]) (fun h => { h with commit := { h.commit with censuses := [c] } })
     (s.hub.desc 0 9).isSome = true ∧ s.hub.commit.censuses.find? (fun c => c.sq == 0 && c.tag == 9) = some c ∧ c.answers.length ≠ c.tiles.length) := by
  decide +kernel

/-! ## The hypotheses can be met: time, ingest, memory, scan-out, calibration -/

/-- A hub with a time base. -/
def withBase (t : Nat) (b : TimeBase) : State := withHub base0 (fun h => h.setBase t b)

/-- A hub whose group 2 on base 1 sent a FLIP for 101 s. -/
def flipped (b : TimeBase) : State := withHub (withBase 1 b) (fun h =>
  (h.wrN (Reg.PGg_CTL 2) 3).setGroup 2 { phase := .running, lastFlip := some (time48 101 0 0) })

/-- Descriptors of TIME_SET and TIME_ACCEPT_JUMP. -/
def timeSet (t sec ns : Nat) : Desc := dsc 9 0x60 (flds [(16, 1, t), (24, 6, sec), (30, 4, ns)])
def acceptJump (t : Nat) : Desc := dsc 9 0x61 (flds [(16, 1, t)])

theorem test_hyps_TimeStepsOnlyAsAsked :
    (let s := withDesc (withBase 3 { t48 := time48 100 500 3 }) (timeSet 3 200 999999999)
     NoRun s ∧ Fetched s 0 9 0x60 (timeSet 3 200 999999999) ∧ (timeSet 3 200 999999999).op 30 4 < 1000000000 ∧ (s.hub.base 3).deferred = none ∧
      s.hub.flipAfter 3 (time48 200 999999999 0) = false) ∧
    1000000000 ≤ (timeSet 3 200 1000000000).op 30 4 ∧
    ((withBase 3 { deferred := some (1, 2) }).hub.base 3).deferred ≠ none ∧
    (let s := withDesc (flipped { t48 := time48 100 500 3 }) (timeSet 1 100 0)
     Fetched s 0 9 0x60 (timeSet 1 100 0) ∧ s.hub.flipAfter 1 (time48 100 0 0) = true) ∧
    (let s := withDesc (withBase 1 { t48 := time48 100 500 3, state := .jumpHeld, offset := 2000 }) (acceptJump 1)
     NoRun s ∧ Fetched s 0 9 0x61 (acceptJump 1) ∧ (s.hub.base 1).state = .jumpHeld ∧ (s.hub.base 1).offset = 2000) ∧
    (let s := withDesc (flipped { t48 := time48 100 500 3, state := .jumpHeld, offset := -2000 }) (acceptJump 1)
     Fetched s 0 9 0x61 (acceptJump 1) ∧ (s.hub.base 1).offset = -2000 ∧
      s.hub.flipAfter 1 (addTime (s.hub.now48 1) (-2000 * (2 ^ 48 : Nat))) = true) ∧
    (let s := withDesc (withBase 1 { offset := -2000, deferred := some (0, 9) }) { acceptJump 1 with phase := .waiting }
     s.hub.desc 0 9 = some { acceptJump 1 with phase := .waiting } ∧ (s.hub.base 1).deferred = some (0, 9)) := by
  unfold Fetched NoRun; decide +kernel

/-- A base that pin 7 disciplines. -/
def pps (st : ServoState) (ns : Nat) : State :=
  withHub (withBase 2 { t48 := time48 5 ns 0, state := st, freq := 1000, quality := 7 }) (fun h =>
    ((h.wrN (Reg.TIO_PINp_CFG 7) 36).wrN (Reg.TBt_CTL 2) 30).wrN (Reg.TBt_LIMITS 2) (1000 + 2 ^ 20 * 50))

theorem test_hyps_ServoSteersWithinItsLimits :
    (let s := pps .locked 500
     s.hub.serving .tio = true ∧ s.hub.pinFunc 7 = 4 ∧ s.hub.pinTb 7 = 2 ∧ s.hub.fifoLoses 1 = false ∧ s.hub.f (Reg.TBt_CTL 2) 1 0 = 2 ∧
      s.hub.f (Reg.TBt_CTL 2) 4 2 = 7 ∧ s.hub.saddle.role ≠ .standby ∧ (s.hub.base 2).deferred = none ∧ (s.hub.base 2).state = .locked ∧
      (nearestOffset (s.hub.capture 7 0) sec48).natAbs ≤ s.hub.f (Reg.TBt_LIMITS 2) 19 0 * ns48 ∧ (s.hub.base 2).jumpedAt ≠ some s.hub.clock) ∧
    (let s := pps .locked 5000
     s.hub.f (Reg.TBt_LIMITS 2) 19 0 * ns48 < (nearestOffset (s.hub.capture 7 0) sec48).natAbs) ∧
    (let s := pps .jumpHeld 5000
     (s.hub.base 2).state = .jumpHeld ∧ s.hub.f (Reg.TBt_LIMITS 2) 19 0 * ns48 < (nearestOffset (s.hub.capture 7 0) sec48).natAbs ∧
      s.hub.qualityOf 2 ≠ (s.hub.base 2).quality) := by decide +kernel

/-- A base with a PTP instance on every port. -/
def ptp (role : Nat) (b : TimeBase) : State :=
  withHub (withBase 1 b) (fun h => (h.wrN (Reg.TBt_CTL 1) 1).wrN (Reg.TBt_PTP 1) (15 + 32 * role + 2 ^ 16 * 5))

theorem test_hyps_PtpSelectsAndMeasures :
    (let s := ptp 0 {}
     s.glob.safe = false ∧ s.hub.serving (.net 3) = true ∧ (List.range 3).find? (fun t => s.hub.ptpServes t 3 5 false) = some 1 ∧
      s.hub.f (Reg.TBt_PTP 1) 6 5 = 0 ∧ (s.hub.base 1).master = none) ∧
    (let s := ptp 0 { state := .locked, slaveValid := true, slavePort := 3 }
     s.hub.fifoLoses 4 = false ∧ (s.hub.base 1).slaveValid = true ∧ (s.hub.base 1).slavePort = 3 ∧ (s.hub.base 1).state = .locked ∧
      (List.range 3).find? (fun t => s.hub.ptpServes t 3 5 false) = some 1) ∧
    (let s := ptp 2 { state := .locked }
     s.hub.f (Reg.TBt_CTL 1) 1 0 = 1 ∧ s.hub.bit (Reg.TBt_PTP 1) 0 = true ∧ s.hub.ptpMaster 1 0 = true) ∧
    (ptp 0 {}).hub.ptpMaster 1 0 = false := by decide +kernel

theorem test_hyps_TimedOutputsFollowTheirBase :
    (let s := withHub base0 (fun h => ((h.wrN (Reg.TIO_PINp_CFG 4) 5).setCmp 15 { next := some 7 }).setPin 2 { active := true })
     (s.hub.cmp 15).next = some 7 ∧ s.hub.seqUnit 15 = false ∧ s.hub.pinFunc 4 = 5 ∧ (s.hub.pinState 2).active = true) := by decide +kernel

/-- A hub with port 0 split in four sub-ports and its links up. -/
def netHub (f : Hub → Hub := id) : State := withHub base0 (fun h =>
  f (((h.wrN (Reg.NETn_CTL 0) 25).wrN (Reg.NETn_CTL 1) 10).setSub 0 0 { link := true }))

/-- A frame of 72 bytes that carries ARP. -/
def arpFrame : List Byte := List.replicate 12 0 ++ [8, 6] ++ List.replicate 58 0

theorem test_hyps_NetPortsCountHoldAndReport :
    (netHub.hub.netUp 0 0 = true ∧ ([] : List Byte).length < 64 ∧ 64 ≤ arpFrame.length ∧ arpFrame.length ≤ 1522 ∧ firmwareFrame arpFrame = true ∧
      netHub.glob.safe = false ∧ netHub.hub.bit (Reg.NETn_CTL 0) 3 = true) ∧
    (netHub.hub.hasSub 1 0 = true ∧ (netHub.hub.subPort 1 0).link = false ∧ netHub.hub.serving (.net 1) = true) ∧
    (netHub.hub.subPort 0 0).link = true ∧
    (let s := netHub (fun h => h.setSub 1 0 { paused := true })
     s.hub.netHeld 1 0 6 = true ∧ 6 ∉ (s.hub.subPort 1 0).heldSaid) := by decide +kernel

/-- A flow of 8 lines of 4 pixels in packets of one line and a half. -/
def flow2 (x : Flow) (ctl : Nat := 1) (f : Hub → Hub := id) : State := netHub (fun h => f ((((((((h.wrN (Reg.ING_FLOWf_CTL 2) ctl).wrN
  (Reg.ING_FLOWf_GEOM 2) (4 + 2 ^ 16 * 8)).wrN (Reg.ING_FLOWf_PKT 2) 16).wrN (Reg.ING_FLOWf_JB 2) (1 + 2 ^ 28)).wrN
  (Reg.ING_FLOWf_RING_LO 2) 0x10000).wrN (Reg.ING_FLOWf_RING_HI 2) 0x30).wrN (Reg.ING_FLOWf_PITCH 2) 64).setFlow 2 x))

/-- A frame in progress, its flow, and a packet of it. -/
def flowFrame : FlowFrame := { slot := 1, rtp := 77, count := 3, marker := false, samples := [] }
def flowUp : Flow := { upA := true, high := some 100, seen := [100], frame := some flowFrame, cells := 10, slot := some 1 }
def flowPkt (seq : Nat) : FlowPkt :=
  { seq := seq, rtp := 77, marker := false, field := false, payload := 200, rows := [{ row := 1, offset := 1, samples := [[100, 20, 30]] }] }

/-- Pipe 5 takes the frames of flow 2. -/
def flowPipe (h : Hub) : Hub := ((((h.wrN (Reg.SCNp_CTL 5) 3).wrN (Reg.PGg_CTL 1) 1).wrN (Reg.ING_FLOWf_PIPES 2) 0x25).wrN
  (Reg.SCNp_SRC_PITCH 5) 64).wrN (Reg.SCNp_SRC_GEOM 5) (4 + 2 ^ 16 * 8)

theorem test_hyps_FlowsMergeAndComplete :
    (let s := flow2 flowUp
     s.hub.flowReceives s.glob 2 0 = true ∧ (s.hub.flow 2).upA = true ∧ s.hub.flowFormatBad 2 (flowPkt 100) = false ∧
      (s.hub.flow 2).judge (s.hub.flowWindow 2) 100 = .duplicate ∧ (s.hub.flow 2).judge (s.hub.flowWindow 2) (2 ^ 32 - 1000) = .old ∧
      (s.hub.flow 2).judge (s.hub.flowWindow 2) 101 = .fresh ∧ (s.hub.flow 2).frame = some flowFrame ∧ 77 ∉ (s.hub.flow 2).ended ∧
      flowFrame.count < s.hub.flowPkts 2 ∧ (s.hub.flow 2).cells - 0 + pktCells 200 ≤ s.hub.flowCells 2 ∧
      s.hub.flowWidth 2 * fmtBytes (s.hub.flowFmt 2) ≤ s.hub.f (Reg.ING_FLOWf_PITCH 2) 17 0 ∧ (s.hub.flow 2).downA = false) ∧
    (let s := flow2 { flowUp with done := [flowFrame] }
     (s.hub.flow 2).done = [flowFrame] ∧ s.hub.flowAuto 2 = false) ∧
    (let s := flow2 { flowUp with done := [flowFrame] } 21 flowPipe
     s.hub.flowAuto 2 = true ∧ 5 ∈ s.hub.flowPipes 2 ∧ s.hub.reachable (.scn 5) = true ∧ s.hub.pipeOn 5 = true ∧ s.hub.groupOn (s.hub.pipeGroup 5) = true ∧
      s.hub.bufOk 5 (s.hub.flowRing 2 + flowFrame.slot * s.hub.flowSlot 2) = true ∧ s.hub.flowReceives s.glob 2 0 = true) := by decide +kernel

/-- A hub with a universe table of three entries. -/
def sacn (u : Universe) : State := netHub (fun h =>
  let tbl : List Byte := (List.range 3).flatMap (fun i => [BitVec.ofNat 8 (i + 7), 0, 1] ++ List.replicate 125 0)
  { h.wrN Reg.ING_SACN_CTL 2065 with commit := { h.commit with inForce := [{ id := tblUniverse, bytes := tbl }] } }.setUniv 1 u)

theorem test_hyps_SacnMergesAndPublishes :
    (let s := sacn {}
     s.hub.sacnOn s.glob 0 0 = true ∧ s.hub.univIndex 8 = some 1 ∧ (s.hub.univ 1).sources = [] ∧ s.hub.sourcesUsed < 16384) ∧
    (let src : SacnSource := { cid := 5, prio := 100, seq := 50, values := [], last := 3 }
     let s := sacn { sources := [src], waiting := [5] }
     s.hub.sacnOn s.glob 0 0 = true ∧ (s.hub.univ 1).sources.find? (fun x => x.cid == 5) = some src ∧ sacnOld 50 50 = true ∧
      s.hub.waitingOn 5 = [1] ∧ (s.hub.univ 1).sources.any (fun x => x.cid == 5) = true) := by decide +kernel

theorem test_hyps_ScrubbersFindCountAndPoison :
    (let s := withHub base0 (fun h => h.wrN Reg.MEM_SCRUB 1)
     s.hub.serving .scrubber = true ∧ LineMem.has .sram 0x17FFFF = true ∧ LineMem.has (.imem 23) 4095 = true ∧ LineMem.has (.dmem 0) 0 = true ∧
      s.hub.cairn.snapQ.length < 60 ∧ s.mem.lineBroken .sram 0 = false ∧ s.hub.bit Reg.MEM_SCRUB 0 = true ∧
      (s.mem.tagAt 320).poison = false ∧ s.hub.inDram 320 64 = true) ∧
    (let m : Memory := { base0.mem with tags := [(5, { poison := true })] }
     (m.tagAt 320).poison = true) := by decide +kernel

/-- Group 3 with pipes 5 and 7 enabled and 6 disabled, a raster of 10 lines of which 6 are active. -/
def group3 (ctl : Nat) (G : Group) (f : Hub → Hub := id) : State := withHub base0 (fun h => f (((((((((h.wrN (Reg.PGg_CTL 3) ctl).wrN
  (Reg.SCNp_CTL 5) 7).wrN (Reg.SCNp_CTL 7) 7).wrN (Reg.SCNp_CTL 6) 6).wrN (Reg.SCNp_SRC_PITCH 5) 64).wrN (Reg.SCNp_SRC_GEOM 5)
  (4 + 2 ^ 16 * 8)).wrN (Reg.PGg_RASTER 3) (10 + 2 ^ 16 * 6)).wrN (Reg.PGg_PERIOD_NS 3) 16666666).setGroup 3 G))

/-- A FRAME_ARM. -/
def frameArm (p a : Nat) : Desc := dsc 9 0x11 (flds [(16, 1, p), (24, 8, a)])

/-- A FRAME_POST of RGB 8-bit pixels. -/
def framePost (a n : Nat) : Desc := dsc 9 0x10 (flds [(24, 8, a), (32, 4, n), (36, 1, 2)])

theorem test_hyps_BuffersArriveAndArm :
    (let s := withDesc (group3 17 { phase := .running, frame := 7 }) (frameArm 5 0x400000)
     Fetched s 0 9 0x11 (frameArm 5 0x400000) ∧ s.hub.bufOk 5 ((frameArm 5 0x400000).op 24 8) = true ∧ s.hub.domainOn 7 = true ∧
      s.hub.pipeOn 5 = true ∧ s.hub.groupOn (s.hub.pipeGroup 5) = true ∧ (s.hub.group (s.hub.pipeGroup 5)).phase = .running ∧
      s.hub.bufOk 6 0x400000 = true ∧ s.hub.pipeOn 6 = false ∧ s.hub.bufOk 5 0x400001 = false ∧
      s.hub.allows s.glob .host (Reg.SCNp_FB_ARM 5) = true ∧ (s.hub.group 3).applied = false ∧ 5 ∈ s.hub.pipesOf 3 ∧
      s.hub.originates 5 = true) ∧
    (let s := withHub base0 (fun h => { h with power := { h.power with domains := 0xF7F } })
     s.hub.domainOn 7 = false) ∧
    (let s := withDesc (group3 1 {}) (framePost 0x400040 8)
     Fetched s 0 9 0x10 (framePost 0x400040 8) ∧ (framePost 0x400040 8).op 32 4 % fmtBytes ((framePost 0x400040 8).op 36 1) = 0 ∧
      s.hub.inDram 0x400040 8 = true ∧ 0x400041 % 64 ≠ 0 ∧
      (∀ p ∈ List.range 32, ∀ b ∈ s.hub.buffersOf p, overlaps 0x400040 8 b (s.hub.bufSize p) = false)) ∧
    (let s := group3 1 {} (fun h => h.setPipe 5 { pend := some { addr := 0x400000 } })
     0x400000 ∈ s.hub.buffersOf 5 ∧ overlaps 0x400040 8 0x400000 (s.hub.bufSize 5) = true) ∧
    (let d : Desc := { framePost 0x400040 8 with phase := .moving, words := [0x400043], data := [1, 2, 3, 4, 5] }
     (withDesc (group3 1 {}) d).hub.desc 0 9 = some d ∧ d.data.length = 8 - 3) := by
  unfold Fetched; decide +kernel

/-- A region map of three spans and a tile map of kind 0, in force for pipe 5. -/
def maps (h : Hub) : Hub :=
  let span (x y c t : Nat) : List Byte := leBytes 2 x ++ leBytes 2 y ++ leBytes 2 c ++ leBytes 1 t ++ zeros 9
  let rmap := zeros 4 ++ leBytes 2 3 ++ zeros 2 ++ leBytes 4 3 ++ zeros 20 ++ leBytes 4 0 ++ leBytes 4 1 ++ leBytes 4 2 ++ zeros 4 ++
    span 0 0 4 0 ++ span 0 1 3 0 ++ span 0 2 4 1
  { h with commit := { h.commit with epoch := 5, inForce := [{ id := tblRegion 5, bytes := rmap }, { id := tblTile 5, bytes := zeros 4 ++ [2, 0] ++ zeros 2298 }] } }

/-- Port 5 up and measured. -/
def upMaps (h : Hub) : Hub := maps (h.setPort 5 { phase := .up, measured := true, rate := 2 })

theorem test_hyps_FramesBeginOnTheGrid :
    (let s := group3 1 { phase := .running, frame := 2 ^ 32 - 1, first := false } (fun h => h.setPipe 5 { next := some { addr := 0x400000 } })
     s.glob.safe = false ∧ s.hub.groupOn 3 = true ∧ s.hub.saddle.role = .unpaired ∧ s.hub.saddle.reqs = [] ∧ (s.hub.group 3).phase = .running ∧
      (s.hub.group 3).stepped = false ∧ (s.hub.group 3).first = false ∧ s.hub.f (Reg.PGg_CTL 3) 15 8 = 0 ∧ s.hub.serving .pg = true ∧
      5 ∈ s.hub.pipesOf 3 ∧ s.hub.serving (.scn 5) = true) ∧
    (let s := group3 1 { phase := .running, begun := true, line := 4 } upMaps
     (s.hub.group 3).line + 1 < s.hub.activeLines 3 ∧ (s.hub.group 3).line + 1 < s.hub.vTotal 3 ∧ s.hub.scans s.glob 5 = true ∧
      s.hub.bit Reg.PMU_CTL 0 = false ∧ s.hub.groupOn 3 = true) ∧
    (let s := group3 1 { phase := .running, begun := true, line := 9 } upMaps
     s.hub.vTotal 3 ≤ (s.hub.group 3).line + 1) ∧
    (let s := group3 1 { phase := .running, begun := true, line := 6 } upMaps
     s.hub.scans s.glob 5 = true ∧ s.hub.pipeGroup 5 = 3 ∧ s.hub.activeLines 3 ≤ (s.hub.group 3).line ∧ (s.hub.pipe 5).flipped = false ∧
      s.hub.chainKind 5 = 0 ∧ s.hub.ends 5 = [5] ∧ s.hub.laneFree s.glob 5 = true ∧ s.hub.heldQ 5 0 = false ∧
      (s.hub.port 5).measured = true ∧ (s.hub.port 5).q2 = []) := by decide +kernel

/-- The calibration of pipe 5 with one slot. -/
def calOf (c : CalPipe) (f : Hub → Hub := id) : State := withHub base0 (fun h =>
  f (((h.wrN (Reg.CAL_PIPEp_CTL 5) 5).wrN (Reg.CAL_PIPEp_BASE_LO 5) 0x1000000).setCal 5 c))

/-- A CAL_LOAD or CAL_READ of pipe 5. -/
def calDesc (op part first count : Nat) : Desc := dsc 9 op (flds [(16, 1, 5), (17, 1, part), (20, 4, first), (24, 4, count), (32, 8, 0x400000)])

/-- A sequence of two steps. -/
def sequence : List Byte := leBytes 4 1 ++ [3, 0] ++ leBytes 2 2 ++ leBytes 4 50 ++ leBytes 2 4 ++ zeros 2 ++ leBytes 4 3000 ++ zeros 12 ++
  (leBytes 4 0x20 ++ [0, 1, 4, 0] ++ zeros 6 ++ [1, 1, 0, 0] ++ leBytes 2 10 ++ leBytes 4 500 ++ zeros 8) ++
  (leBytes 4 0x20 ++ [255, 0, 4, 0] ++ zeros 6 ++ [1, 1, 0, 0] ++ leBytes 2 10 ++ leBytes 4 500 ++ zeros 8)

/-- A hub whose sequencer can run on group 3. -/
def sequencer (m : Msr) : State :=
  let tm := zeros 4 ++ [2, 0] ++ zeros 762 ++ (zeros 8 ++ leBytes 4 2 ++ leBytes 4 10 ++ leBytes 4 100000 ++ zeros 748) ++ zeros 768
  withHub base0 (fun h => ((((((({ h with cal := { h.cal with msr := m }, commit := { h.commit with inForce := [{ id := tblTile 5, bytes := tm }] } }.wrN
    Reg.CAL_CTL 4).wrN (Reg.PGg_CTL 3) 1).wrN (Reg.SCNp_CTL 5) 7).wrN (Reg.PGg_PERIOD_NS 3) 16666666).wrN (Reg.TIO_PINp_CFG 2) 3).setPort 5
    { phase := .up, tiles := [(0, { present := true })] }).setGroup 3 { phase := .running, frame := 7 }))

/-- A CAL_MEASURE and a run in progress. -/
def measure : Desc := dsc 9 0x32 (flds [(24, 4, 96)])
def runOf (started : Nat) : Msr := { phase := .running, owner := some (0, 9), seq := sequence, pg := 3, f0 := 60, started := started, run := 4 }

theorem test_hyps_CalibrationIsStoredAndMeasured :
    (let s := withDesc (calOf {}) (calDesc 0x30 1 65535 1)
     (calDesc 0x30 1 65535 1).calPipeOp = 5 ∧ Fetched s 0 9 0x30 (calDesc 0x30 1 65535 1) ∧ s.hub.calRangeBad (calDesc 0x30 1 65535 1) = false ∧
      s.hub.calRangeBad (calDesc 0x30 1 65535 2) = true ∧ (s.hub.calPipe 5).phase = .idle ∧ s.hub.applyInFlight 5 = false ∧
      s.hub.statOn 5 = false ∧ s.hub.domainOn 7 = true) ∧
    ((calOf { phase := .fold }).hub.calPipe 5).phase = .fold ∧
    (let d : Desc := { calDesc 0x30 1 3 2 with phase := .moving, words := [1] }
     (withDesc (calOf { loads := [(0, 9)] }) d).hub.desc 0 9 = some d ∧ d.words.headD 0 ≤ d.calCount) ∧
    (let s := { withDesc (calOf { bank := 1 }) (calDesc 0x31 1 3 2) with mem := { base0.mem with calSet := [(0, 2 ^ 36)] } }
     Fetched s 0 9 0x31 (calDesc 0x31 1 3 2) ∧ s.hub.calRangeBad (calDesc 0x31 1 3 2) = false ∧ (s.hub.calEntries s.mem (calDesc 0x31 1 3 2)).2 = []) ∧
    (((calOf { phase := .copying, bank := 1 }).hub.calPipe 5).phase = .copying ∧ ((calOf { phase := .copying, bank := 1 }).hub.calPipe 5).bank ≤ 1) ∧
    (let s := withDesc (sequencer {}) measure
     Fetched s 0 9 0x32 measure ∧ measure.op 24 4 = sequence.length ∧ sqHeaderOk sequence = true ∧ s.hub.groupOn (sqPg sequence) = true ∧
      s.hub.bit Reg.CAL_CTL 2 = true ∧
      (∀ k ∈ List.range (sqSteps sequence), sqStepOk (sqStep sequence k) = true ∧ s.hub.stepAllowed sequence (sqStep sequence k) = true ∧
        ∀ n ∈ stPorts (sqStep sequence k), s.hub.originates n = true ∧ s.hub.blockOn (.nsh n) = true ∧ (s.hub.port n).phase.carries = true) ∧
      bitOf (byteAt sequence 5) 0 = false ∧
      s.hub.groupNow (sqPg sequence) + 2000000 * 2 ^ 48 ≤ s.hub.subField (sqPg sequence) (sqStart sequence) (sqWin sequence) ∧
      s.hub.cal.msr.phase = .idle) ∧
    sqHeaderOk (zeros 96) = false ∧
    (let s := withDesc (sequencer (runOf 1)) { measure with phase := .waiting }
     s.hub.cal.msr.phase ≠ .idle ∧ s.hub.cal.msr.started < sqSteps s.hub.cal.msr.seq ∧ s.hub.serving .cal = true ∧
      s.hub.allows s.glob .host Reg.CAL_MSR_CTL = true ∧ s.hub.cal.msr.owner = some (0, 9) ∧ (s.hub.desc 0 9).isSome = true) ∧
    (let s := sequencer (runOf 2)
     s.hub.cal.msr.phase = .running ∧ s.hub.cal.msr.started = sqSteps s.hub.cal.msr.seq) := by
  unfold Fetched; decide +kernel

/-- Statistics of pipe 5. -/
def stats (c : CalPipe) : State := withHub base0 (fun h => (((((h.wrN Reg.CAL_CTL 1).wrN (Reg.CAL_PIPEp_CTL 5) 3).wrN (Reg.SCNp_CTL 5) 7).wrN
  (Reg.PGg_CTL 3) 1).setCal 5 c).wrN (Reg.CAL_PIPEp_STAT_LO 5) 0x3000)

theorem test_hyps_EstimatorSamplesInTurn :
    (let s := stats { statInit := true }
     s.glob.safe = false ∧ s.hub.serving .cal = true ∧ (s.hub.calPipe 5).statInit = true ∧ s.hub.statOn 5 = true) ∧
    (stats { statReady := true }).hub.nextSample = some 5 ∧ base0.hub.nextSample = none ∧
    (((stats { statReady := true }).hub.calPipe 5).phase ≠ .fold ∧ (stats { statReady := true }).hub.foldMayStart 5 = true) ∧
    ((stats { phase := .loaded }).hub.calPipe 5).phase = .loaded ∧ ((stats { phase := .fold }).hub.calPipe 5).phase = .fold := by decide +kernel

/-- Poisoned gains, a sample and a fold that are not due. -/
theorem test_hyps_EstimatorSamplesInTurn_2 :
    (let s := { stats { statInit := true } with mem := { base0.mem with tags := (List.range 64).map (fun k => (k, { poison := true })) } }
     (s.hub.calPipe 5).statInit = true ∧ s.hub.statOn 5 = true ∧ s.hub.serving .cal = true) ∧
    (let s := withHub (stats { statReady := true }) (fun h => { h with cal := { h.cal with statDue := 7, foldDue := 7 } })
     s.hub.clock < s.hub.cal.statDue ∧ s.hub.clock < s.hub.cal.foldDue ∧ (s.hub.calPipe 5).phase ≠ .fold) := by decide +kernel

/-! ## Naush ports, tiles, fixtures, radios -/

/-- A tile map of kind `c` with two tiles of chain 5, and a place for tile 0. -/
def tmOf (c : Nat) (place : List Byte := []) : Table :=
  { id := tblTile 5, bytes := zeros 4 ++ [2, BitVec.ofNat 8 c] ++ zeros 762 ++ place ++ zeros (1536 - place.length) }

/-- Port 5, of pipe group 3, with a tile map in force. -/
def portOn (p : Port) (c : Nat := 0) (f : Hub → Hub := id) : State := withHub base0 (fun h => f ((((((
  { h with commit := { h.commit with epoch := 6, inForce := [tmOf c ([0, 0] ++ leBytes 2 7 ++ leBytes 2 8 ++ leBytes 2 4 ++ leBytes 4 64 ++ zeros 756 ++ [1, 0])] } }.wrN
  (Reg.NSHn_CTL 5) 49).wrN (Reg.NSHn_PROTO 5) 522).wrN (Reg.NSHn_SHIFT 5) (30 + 2 ^ 8 * 3 + 2 ^ 16 * 4)).wrN (Reg.NSHn_PAUSE 5) 4).wrN
  (Reg.SCNp_CTL 5) 7).setPort 5 p))

theorem test_hyps_TrainingComesUpOrFaults :
    (let s := portOn { phase := .training true, tiles := [(0, { present := true })] }
     (s.hub.port 5).phase = .training true ∧ s.glob.safe = false ∧ s.hub.serving (.nsh 5) = true ∧ (0, { present := true }) ∈ (s.hub.port 5).tiles) ∧
    (let s := portOn { phase := .training false, tryRate := 1 }
     (s.hub.port 5).phase = .training false ∧ (s.hub.port 5).tryRate < s.hub.f (Reg.NSHn_CTL 5) 4 3 ∧ s.hub.near 5 = 5 ∧ s.hub.originates 5 = true) ∧
    (let s := portOn { phase := .training false, tryRate := 2 }
     (s.hub.port 5).phase = .training false ∧ s.hub.f (Reg.NSHn_CTL 5) 4 3 ≤ (s.hub.port 5).tryRate) ∧
    ((portOn { phase := .wait }).hub.port 5).phase = .wait ∧ ((portOn { phase := .up }).hub.port 5).phase.carries = true ∧
    (portOn { phase := .up }).hub.serving (.nsh 5) = true ∧
    (let s := portOn { phase := .shifting } 0 (fun h => { h with clock := cyclesPerMs })
     s.hub.laneActs s.glob 5 = true ∧ (s.hub.port 5).phase = .shifting ∧ (s.hub.port 5).shiftAt + cyclesPerMs ≤ s.hub.clock) ∧
    (let s := portOn { phase := .up, followAt := some 3 } 1 (fun h => { h with clock := cyclesPerMs + 3 })
     s.hub.laneActs s.glob 5 = true ∧ (s.hub.port 5).followAt = some 3 ∧ (s.hub.port 5).phase = .up ∧ 3 + cyclesPerMs ≤ s.hub.clock) ∧
    (let s := portOn { phase := .shifting } 0 (fun h => { h with clock := cyclesPerMs - 1 })
     (s.hub.port 5).phase = .shifting ∧ s.hub.clock < (s.hub.port 5).shiftAt + cyclesPerMs ∧ (s.hub.port 5).followAt = none) := by
  decide +kernel

theorem test_hyps_TilePauseHoldsQ1ToQ3 :
    let s := portOn { phase := .up, holds := [(0, 6, 10 ^ 9)] }
    (s.hub.port 5).phase.carries = true ∧ s.hub.serving (.nsh 5) = true ∧ s.hub.chainKind 5 ≠ 1 ∧ s.hub.heldQ 5 1 = true ∧
      bitOf (s.hub.port 5).heldSaid 1 = false ∧ s.hub.f (Reg.NSHn_PAUSE 5) 7 0 ≠ 0 := by decide +kernel

/-- Group 3 runs at a line. -/
def atLine (l : Nat) (h : Hub) : Hub := (((h.wrN (Reg.PGg_CTL 3) 1).wrN (Reg.PGg_RASTER 3) (10 + 2 ^ 16 * 6)).wrN
  (Reg.PGg_PERIOD_NS 3) 16666666).setGroup 3 { phase := .running, line := l, begun := true }

/-- Tile 1 of port 5 with rounds of a measurement. -/
def rounds (l : List Int) (fails : Nat) : State :=
  portOn { phase := .up, rate := 1, measuring := true, tiles := [(1, { present := true, configured := true })], rounds := [(1, l.map (fun x => (0, x)))], rtFails := fails }

theorem test_hyps_PortsShiftRateAndKeepTime :
    (let s := portOn { phase := .up, rate := 1, wantDown := true }
     s.hub.laneFree s.glob 5 = true ∧ s.hub.shiftTarget 5 = some 2 ∧ s.hub.heldQ 5 0 = false ∧
      (s.hub.port 5).measuring = false ∧ (s.hub.port 5).measured = false) ∧
    (let s := portOn { phase := .up, rate := 1, wantUp := true } 0 (atLine 3)
     s.hub.laneFree s.glob 5 = true ∧ s.hub.shiftTarget 5 = some 0 ∧ s.hub.interval 5 = .active ∧ s.hub.shiftAllowed 5 0 = false ∧
      s.hub.allows s.glob .host Reg.GLB_NSH_HINT = true ∧ (s.hub.port 5).rate ≠ s.hub.topRate 5) ∧
    (let s := portOn { phase := .shifting, rate := 1, shiftTo := 0 } 0 (fun h => { h with clock := 40 * cyclesPerUs })
     s.hub.serving (.nsh 5) = true ∧ (s.hub.port 5).phase = .shifting ∧ (s.hub.port 5).shiftAt + 40 * cyclesPerUs ≤ s.hub.clock ∧
      (s.hub.port 5).shiftTo = s.hub.topRate 5) ∧
    (let s := portOn { phase := .shifting, rate := 1, shiftTo := 0 } 0 (fun h => { h with clock := 40 * cyclesPerUs - 1 })
     s.hub.serving (.nsh 5) = true ∧ (s.hub.port 5).phase = .shifting ∧ s.hub.clock < (s.hub.port 5).shiftAt + 40 * cyclesPerUs) ∧
    (let s := portOn { phase := .up, rate := 1 } 1
     s.hub.chainKind 5 ≠ 0 ∧ s.hub.serving (.nsh 5) = true ∧ (s.hub.port 5).phase.carries = true) ∧
    (let s := rounds [3, 4, 5, 6, 7, 8, 9, 10] 1
     s.hub.laneFree s.glob 5 = true ∧ s.hub.heldQ 5 0 = false ∧ (s.hub.port 5).measuring = true ∧ s.hub.enumerated (s.hub.near 5) = [1] ∧
      8 ≤ ((s.hub.port 5).roundTrips 1).length) ∧
    (let s := rounds [3, 4, 5, 6, 7, 8, 9] 2
     s.hub.laneFree s.glob 5 = true ∧ (s.hub.port 5).measuring = true ∧ s.hub.enumerated (s.hub.near 5) = [1] ∧
      ((s.hub.port 5).roundTrips 1).length < 8 ∧ (s.hub.port 5).rtFails = 2) ∧
    (let s := portOn { phase := .up, rate := 1 } 0 (fun h => (atLine 8 h).setGroup 3 { phase := .running, line := 8, begun := true, next := 2 ^ 90 })
     s.hub.laneFree s.glob 5 = true ∧ s.hub.heldQ 5 0 = false ∧ s.hub.groupOn (s.hub.portGroup 5) = true ∧
      (s.hub.group (s.hub.portGroup 5)).phase = .running ∧ s.hub.activeLines (s.hub.portGroup 5) ≤ (s.hub.group (s.hub.portGroup 5)).line ∧
      s.hub.queueOpen s.glob 5 0 32 = true) ∧
    (portOn { phase := .up } 0 (fun h => h.wrN (Reg.SCNp_CTL 5) 0)).hub.interval 5 = .free := by
  decide +kernel

theorem test_hyps_EnumerationRecordsTiles :
    (let s := portOn { phase := .up, enumTry := 1, tiles := [(0, { present := true, ok := true, upSeq := some 4 })] }
     HearsTile s 5 0 ∧ HearsTile s 5 1 ∧ (s.hub.tile 5 1).upSeq = none ∧ (s.hub.port 5).enumTry ≠ 0 ∧ (s.hub.tile 5 0).upSeq = some ((2 ^ 32 + 4) % 2 ^ 32) ∧
      0 < (s.hub.port 5).enumTry ∧ (s.hub.port 5).enumTry < 3 ∧ (∃ i ∈ tmAll (s.hub.tileMap 5), (s.hub.tile 5 i).present = false)) ∧
    (let s := portOn { phase := .up, enumTry := 3 }
     HearsTile s 5 1 ∧ (s.hub.port 5).enumTry = 3 ∧ (∀ f ∈ (s.hub.port 5).q1 ++ (s.hub.port 5).sends, f.owner ≠ .enum)) := by
  unfold HearsTile; decide +kernel

/-- A TILE_SEND, and the frame of one. -/
def tileSend (k type len : Nat) : Desc := dsc 9 0x80 (flds [(16, 1, 5), (17, 1, k), (18, 1, type), (20, 2, len)])
def sendFrame (tries : Nat) : QFrame :=
  { type := 4, dest := 1, seq := 5, payload := [0x41, 7], owner := .tileSend 0 9, sent := true, tries := tries, due := [1] }
def tilePort : Port := { phase := .up, tiles := [(0, {}), (1, { present := true })] }

theorem test_hyps_TilesAreSentToAndReport :
    (let s := withDesc (portOn tilePort) (tileSend 1 4 2)
     let d := tileSend 1 4 2
     HearsTile s 5 1 ∧ Fetched s 0 9 0x80 d ∧ d.op 16 1 = 5 ∧ d.op 17 1 = 1 ∧ d.op 18 1 = 4 ∧ [0x41, (7 : Byte)].length = d.op 20 2 ∧ 0 < d.op 20 2 ∧
      d.op 20 2 ≤ 8192 ∧ 0x40 ≤ byteAt [0x41, 7] 0 ∧ s.hub.blockOn (.nsh 5) = true ∧ 1 < tmTiles (s.hub.tileMap 5) ∧
      (s.hub.tile 5 1).present = true ∧ (s.hub.port 5).sends = [] ∧ s.hub.roomFor 5 1 = true) ∧
    (let s := withDesc (portOn tilePort) (tileSend 1 9 2)
     Fetched s 0 9 0x80 (tileSend 1 9 2) ∧ (tileSend 1 9 2).op 18 1 = 9 ∧ byteAt [0x7F, 7] 0 < 0x80) ∧
    (let s := withDesc (portOn tilePort) (tileSend 0 10 2)
     HearsTile s 5 0 ∧ Fetched s 0 9 0x80 (tileSend 0 10 2) ∧ (tileSend 0 10 2).op 18 1 = 10 ∧ (s.hub.tile 5 0).present = false) ∧
    (let s := withDesc (portOn { tilePort with q1 := [sendFrame 1] }) { tileSend 1 4 2 with phase := .waiting }
     HearsTile s 5 1 ∧ (s.hub.desc 0 9).isSome = true ∧ (s.hub.port 5).q1 = [sendFrame 1] ∧ s.hub.heldQ 5 1 = false ∧
      (sendFrame 1).tries < s.hub.f (Reg.NSHn_PROTO 5) 12 8 ∧ s.hub.f (Reg.NSHn_PROTO 5) 12 8 ≤ (sendFrame 2).tries) := by
  unfold HearsTile Fetched; decide +kernel

theorem test_hyps_TilesAreSentToAndReport_2 :
    (let s := portOn { tilePort with flips := [{ frame := 70000, whole := [1] }], measuring := true }
     let r : List Byte := [1, 0, 0, 0] ++ leBytes 4 70000 ++ zeros 8
     let f : List Byte := [1] ++ zeros 7 ++ leBytes 2 33 ++ [5, 1] ++ zeros 4
     HearsTile s 5 1 ∧ (s.hub.tile 5 1).upSeq = none ∧ faultLayout f = true ∧ byteAt f 0 = 1 ∧ byteAt f 11 = 1 ∧ (s.hub.port 5).fmap.length < 512 ∧
      (s.hub.port 5).fmap = [] ∧ (s.hub.port 5).flips.find? (fun f => f.frame == leAt r 4 4) = some { frame := 70000, whole := [1] } ∧
      byteAt r 1 = 0 ∧ s.hub.fifoLoses 2 = false ∧ (s.hub.port 5).measuring = true) := by
  unfold HearsTile; decide +kernel

/-- A patch of one fixture with one output, on a route, and two parameters of group 2. -/
def patchOf (route : Nat) : List Byte := leBytes 4 1 ++ leBytes 4 2 ++ leBytes 2 1 ++ leBytes 2 1 ++ zeros 52 ++
  (leBytes 4 1 ++ leBytes 4 (2 + 16 + 2 ^ 31) ++ zeros 248) ++ (zeros 2 ++ [2, 1] ++ leBytes 2 0 ++ leBytes 2 3 ++ zeros 2 ++ leBytes 2 1 ++ zeros 20) ++
  zeros 32 ++ ([BitVec.ofNat 8 route, 5] ++ leBytes 2 7 ++ [3, 0] ++ leBytes 2 10 ++ zeros 8)

/-- Fixtures of group 2 on time base 0, with a record of a cue in DRAM. -/
def fixed (x : Fix) (f : Hub → Hub := id) : State :=
  let s := withHub base0 (fun h => f (((((((({ h with fix := x, commit := { h.commit with epoch := 6, inForce := [{ id := tblPatch, bytes := patchOf 0 }] } }.wrN
    Reg.FIX_CTL 1).wrN (Reg.FIX_PGg_CTL 2) 1).wrN (Reg.PGg_CTL 2) 1).wrN (Reg.PGg_PERIOD_NS 2) 16666666).setGroup 2
    { phase := .running, frame := 8, next := 5 * 2 ^ 80 }).setPort 5 { phase := .up }).wrN (Reg.FIX_CUEc_CNT 3) (1 + 2 ^ 18 * 2)).wrN
    (Reg.FIX_CUEc_LO 3) 0x100))
  let cells := (0x102, 2) :: ((List.range 4).zip (leBytes 2 777 ++ leBytes 2 100)).filterMap (fun e => if e.2 = 0 then none else some (e.1 + 0x104, e.2))
  { s with mem := { s.mem with dram := cells } }

theorem test_hyps_FixturesTickOnTheGrid :
    (let s := fixed { fades := [{ slot := 0, par := 0, start := 0, origin := 100, target := 5000, time := 50, curve := true }] }
     s.hub.tickDue s.glob 2 = true ∧ s.hub.fix.cues = [] ∧ parGroup s.hub.patch 0 = 2) ∧
    (fixed { ticked := [(2, 9)] }).hub.tickDue base0.glob 2 = false ∧
    (let s := fixed { cues := [3] }
     s.hub.tickDue s.glob 2 = true ∧ s.hub.cueGroup 3 = 2 ∧ s.hub.cueCount 3 = 1 ∧ s.hub.cueRecord s.mem 2 3 0 = some (1, 777, 100, false)) ∧
    (let s := fixed {} (fun h => { h with clock := 10 })
     let r := outRec s.hub.patch 0
     s.hub.tickDue s.glob 2 = true ∧ s.hub.groupOutputs 2 = [0] ∧ outRoute r = 0 ∧ outNode r < 128 ∧ s.hub.near (outPort r) = outPort r ∧
      s.hub.blockOn (.nsh (outPort r)) = true ∧ s.hub.originates (outPort r) = true ∧ s.hub.outWhole 0 = true ∧ s.hub.fix.held = [] ∧
      s.hub.fix.acked = [] ∧ (s.hub.port (outPort r)).sends = [] ∧ s.hub.roomFor (outPort r) 1 = true ∧ (s.hub.port (outPort r)).q1 = []) ∧
    (let q : QFrame := { type := 8, dest := 7, payload := [1, 3, 2, 0] ++ zeros 16 ++ leBytes 2 2 ++ leBytes 2 3 ++ [7, 8, 9], owner := .fix 0 }
     let s := fixed { held := [(5, q)] }
     s.glob.safe = false ∧ s.hub.serving .fix = true ∧ s.hub.fix.held = [(5, q)] ∧ (s.hub.port 5).sends = [] ∧ s.hub.roomFor 5 1 = true) := by
  decide +kernel

/-- Radio 1 on base 1, of which output 0 is a node. -/
def radio (x : Odl) (f : Hub → Hub := id) : State := withHub base0 (fun h =>
  f ((((((({ h with commit := { h.commit with epoch := 6, inForce := [{ id := tblPatch, bytes := patchOf 1 }] } }.wrN (Reg.ODLr_CTL 1) 3424283).wrN
  (Reg.ODLr_GUARD 1) (30 + 2 ^ 12 * 3)).wrN (Reg.ODLr_PAN 1) 0x1234).wrN (Reg.ODLr_PHASE 1) 1000).setOdl 1 x).setBase 1 { t48 := 500000000000 * 2 ^ 48 })))

/-- A radio in beacon interval 9 with two addresses bound. -/
def mesh : Odl := { phase := .beaconing, idx := 9, at48 := 500000000000 * 2 ^ 48, ctl := 3424283, guard := 30,
                    table := [(5, { state := 1, hop := 1, ext := 3 }), (0, { state := 2, hop := 1, ext := 2 })], seen := [(5, 0, 9)] }

theorem test_hyps_BeaconsKeepTheGrid :
    (let s := radio { mesh with plan := some (500000000000 * 2 ^ 48) }
     s.hub.odlRuns s.glob 1 = true ∧ (s.hub.odl 1).phase = .beaconing ∧ (s.hub.odl 1).plan = some (500000000000 * 2 ^ 48) ∧ s.hub.fifoLoses 7 = false) ∧
    (radio { mesh with phase := .starting }).hub.odlRuns base0.glob 1 = true ∧
    (let s := radio { mesh with phase := .fault } (fun h => { h with saddle := { h.saddle with role := .active } })
     s.hub.odlRuns s.glob 1 = true ∧ (s.hub.odl 1).phase = .fault ∧ s.hub.saddle.role = .active ∧
      s.hub.n (Reg.ODLr_PHASE 1) * ns48 ≤ s.hub.now48 (s.hub.odlTb 1) + 10000000 * ns48) ∧
    (let s := radio { mesh with plan := some 1 } (fun h => h.setFifo 7 (List.replicate 16 0))
     s.hub.odlRuns s.glob 1 = true ∧ s.hub.fifoLoses 7 = true) := by decide +kernel

theorem test_hyps_NodesJoinAndAreSentTheirData :
    (let s := radio mesh
     s.hub.odlReceives s.glob 1 = true ∧ s.hub.odlSeen 1 5 0 = true ∧ s.hub.odlSeen 1 5 1 = false ∧ s.hub.odlBound 1 77 = none ∧
      ctlOpen (s.hub.odl 1).ctl = true ∧ s.hub.odlFree 1 = some 1 ∧ (s.hub.odlAddr 1 7).state = 0 ∧ s.hub.odlSeen 1 0 0 = false ∧
      (s.hub.odlAddr 1 5).state = 1 ∧ (s.hub.odlAddr 1 0).state = 2 ∧ 0 < ctlTtl (s.hub.odl 1).ctl) ∧
    (let s := radio { mesh with ctl := 1 }
     s.hub.odlReceives s.glob 1 = true ∧ s.hub.odlBound 1 77 = none ∧ ctlOpen (s.hub.odl 1).ctl = false) ∧
    (let s := radio { mesh with rsps := [{ dst := 5, ext := 9, addr := 0xFFFF, status := 4 }] }
     s.hub.odlReceives s.glob 1 = true ∧ 0 < ctlTtl (s.hub.odl 1).ctl ∧ 0 < ctlDown (s.hub.odl 1).ctl ∧
      (s.hub.odl 1).rsps = [{ dst := 5, ext := 9, addr := 0xFFFF, status := 4 }]) ∧
    (let s := radio { mesh with latest := [(0, 2, [1, 2, 3, 4, 5, 6, 7, 8, 9, 10])], marks := [(0, (2, 5))], ticks := [(2, (77, 5 * 2 ^ 85))] }
     let room := odlMax (s.hub.odl 1).ctl (s.hub.odl 1).guard - 30
     s.hub.odlReceives s.glob 1 = true ∧ 0 * ctlTtl (s.hub.odl 1).ctl < ctlDown (s.hub.odl 1).ctl ∧ (s.hub.odl 1).rsps = [] ∧ (s.hub.odl 1).turn = [0] ∧
      Sparse.get (0, []) (s.hub.odl 1).latest 0 = (2, [1, 2, 3, 4, 5, 6, 7, 8, 9, 10]) ∧ Sparse.get (0, 0) (s.hub.odl 1).marks 0 = (2, 5) ∧
      6 < room ∧ 5 + 1 - 2 ≤ room - 6) := by decide +kernel

/-! ## Engines and Col -/

/-- Engine 5 runs in K mode with s1, s2 and s3. -/
def eng5 : Engine := { phase := .running, kmode := true, pc := 0x1FFFC, kvec := 0x400, epc := 0x88, s := [(1, 0x20040), (2, 7), (3, 0)], k := [(1, 5)] }
def engineOn (x : Engine) (f : Hub → Hub := id) (m : Memory → Memory := id) : State :=
  let s := withHub base0 (fun h => f ((h.setEng 5 x).wrN (Reg.SPRe_CTL 5) 1))
  { s with mem := m s.mem }

/-- Engine 5 with an address in s1 and 0xDEADBEEF in s2. -/
def atAddr (a : Nat) (x : Engine := eng5) : State := engineOn { x with s := [(1, BitVec.ofNat 32 a), (2, 0xDEADBEEF)] }

theorem test_hyps_ScalarInstructionsWriteTheirResult :
    (let s := engineOn eng5
     Ready s 5 [31, 1, 0] ∧ AluOp.unary .clz = true ∧ AluOp.unary .add = false ∧ aluResult .add 3 4 = some 7 ∧ immResult .addi 3 0xFFFF = some 2 ∧
      Ready s 5 [4, 2, 3] ∧ (s.hub.eng 5).reg 3 = 0 ∧ s.hub.csr 5 1 = some 0x88 ∧ (s.hub.eng 5).kmode = true) ∧
    (let s := engineOn { eng5 with kmode := false } (fun h => h.wrN (Reg.PMUe_CNT_CTL 5) 1)
     Ready s 5 [4] ∧ (s.hub.csr 5 6).isSome = true ∧ (s.hub.csr 5 7).isSome = true ∧ s.hub.bit (Reg.PMUe_CNT_CTL 5) 0 = true) := by
  unfold Ready; decide +kernel

theorem test_hyps_ControlTransfersMoveThePc :
    (let s := engineOn eng5
     Ready s 5 [1, 2] ∧ Ready s 5 [] ∧ BranchCond.holds .lt ((s.hub.eng 5).reg 2) ((s.hub.eng 5).reg 1) = true ∧
      BranchCond.holds .lt ((s.hub.eng 5).reg 1) ((s.hub.eng 5).reg 2) = false ∧ (s.hub.eng 5).kmode = true ∧ (s.hub.eng 5).loads = []) ∧
    (let s := engineOn { eng5 with loads := [{ pc := 4, addr := 0x20000, dest := 9, data := .scalar 5 }] }
     Ready s 5 [] ∧ (∀ l ∈ (s.hub.eng 5).loads, 2 % 32 ≠ 0 ∧ bitOf 2 (fenceBit l.addr) = false) ∧
      (∃ l ∈ (s.hub.eng 5).loads, 1 % 32 = 0 ∨ bitOf 1 (fenceBit l.addr) = true)) := by
  unfold Ready; decide +kernel

theorem test_hyps_ExceptionsEnterTheHandler :
    (let s := engineOn { eng5 with kmode := false }
     Ready s 5 [] ∧ Ready s 5 [4, 1, 2] ∧ (s.hub.eng 5).exc = false ∧ (s.hub.eng 5).kmode = false) ∧
    (let s := engineOn { eng5 with exc := true }
     Ready s 5 [] ∧ (s.hub.eng 5).exc = true ∧ s.hub.isolatedBlock (.spr 5) = false) ∧
    (let s := engineOn { eng5 with pc := 0x100 } id (fun m => { m with imemBad := [(Memory.localBase 5 / 2 + 0x80, true)] })
     s.hub.executes s.glob 5 = true ∧ (s.hub.eng 5).waitsFor [] = false ∧ s.fetchBad 5 = true ∧ (s.hub.eng 5).exc = false) := by
  unfold Ready; decide +kernel

theorem test_hyps_LoadsAndStoresMoveTheirBytes :
    (∀ a ∈ [(0x20040, 0), (0x40, 0), (0x40000040, 0), (0x40, 0x10)],
     let s := atAddr a.1
     let w := (s.hub.eng 5).addr 1 0 a.2
     Ready s 5 [LoadOp.dest .vld 17, 1] ∧ (s.hub.eng 5).loads.length < 16 ∧ s.hub.accessCheck 5 w (LoadOp.size .vld) false = none ∧
      (s.windowHolds 5 (LoadOp.size .vld) (s.hub.window w (LoadOp.size .vld))).isSome = true ∧
      Ready s 5 [StoreOp.source .sw 2, 1] ∧ s.hub.accessCheck 5 w (StoreOp.size .sw) true = none) ∧
    (let s := atAddr 0x80000000
     Ready s 5 [4, 1] ∧ (s.hub.eng 5).kmode = true ∧ s.hub.window ((s.hub.eng 5).addr 1 0 0) 4 = .reg 0 ∧ (s.hub.eng 5).addr 1 0 0 % 4 = 0 ∧
      (reachesClass s (.engine 5) 0 true || reachesClass s (.engine 5) 0 false) = true ∧ s.hub.power.reported = []) ∧
    (let s := engineOn { eng5 with loads := [{ pc := 4, addr := 0, dest := 1, data := .scalar 77 }, { pc := 8, addr := 64, dest := 33, data := .vector 99 },
                                             { pc := 12, addr := 8, dest := 2, data := .error }, { pc := 16, addr := 4, dest := 3, data := .poisoned 64 }], lost := 1 }
     s.hub.executes s.glob 5 = true ∧ (s.hub.eng 5).loads.length = 4 ∧ (s.hub.eng 5).exc = false ∧ 0 < (s.hub.eng 5).lost ∧
      (s.hub.eng 5).told = false) ∧
    (let s := atAddr 0x20040
     s.hub.window ((s.hub.eng 5).addr 1 0 0) 4 = .dmem 0x40 ∧ s.mem.rangeBad (.dmem 5) 0x40 4 = false) ∧
    (let s := atAddr 0x40
     s.hub.window ((s.hub.eng 5).addr 1 0 0) 4 = .imem 0x40 ∧ s.mem.rangeBad (.imem 5) 0x40 4 = false) ∧
    (let s := atAddr 0x40000040
     s.hub.window ((s.hub.eng 5).addr 1 0 0) 4 = .sram 0x40 ∧ s.mem.rangeBad .sram 0x40 4 = false ∧ s.hub.sramRefuses 0x40 = false ∧
      s.hub.sramRefused (s.hub.engineSecure 5) true 0x40 4 = false) ∧
    (let s := atAddr 0x40
     s.hub.window ((s.hub.eng 5).addr 1 0 0x10) 4 = .dram 0x40 ∧ s.hub.dramRefuses 0x40 = false ∧
      s.hub.dramRefused s.mem (s.hub.engineSecure 5) true 0x40 4 = none) ∧
    (let s := withHub (atAddr 0x40) (fun h => { h with power := { h.power with isolated := [.memA, .memB] } })
     Ready s 5 [2, 1] ∧ s.hub.window ((s.hub.eng 5).addr 1 0 0x10) 4 = .dram 0x40 ∧ s.hub.dramRefuses 0x40 = true) := by
  unfold Ready; decide +kernel

theorem test_hyps_AtomicsActInOneStep :
    (let s := atAddr 0x40000040
     Ready s 5 [4, 1, 2] ∧ s.hub.window ((s.hub.eng 5).addr 1 0 0) 4 = .sram 0x40 ∧ (s.hub.eng 5).addr 1 0 0 % 4 = 0 ∧
      s.hub.sramRefused (s.hub.engineSecure 5) true 0x40 4 = false ∧ s.hub.sramRefused (s.hub.engineSecure 5) false 0x40 4 = false ∧
      s.hub.sramRefuses 0x40 = false ∧ s.mem.rangeBad .sram 0x40 4 = false ∧ AmoOp.store .cas 0 0 7 = some 7 ∧ AmoOp.store .cas 0 1 7 = none) ∧
    (let s := atAddr 0x40000042
     s.hub.window ((s.hub.eng 5).addr 1 0 0) 4 = .sram 0x42 ∧ (s.hub.eng 5).addr 1 0 0 % 4 ≠ 0 ∧ (s.hub.eng 5).exc = false) ∧
    (let s := atAddr 0x20040 { eng5 with kmode := false }
     let w := s.hub.window ((s.hub.eng 5).addr 1 0 0) 4
     Ready s 5 [4, 1, 2] ∧ w = .dmem 0x40 ∧ w.kernelOnly = false ∧ (s.hub.eng 5).exc = false) := by
  unfold Ready; decide +kernel

theorem test_hyps_VectorOperationsWriteEnabledElements :
    let s := engineOn eng5
    let i : VecInstr := ⟨.vadd, 15, 1, 2, false, 1, 2, true⟩
    let m : VecInstr := ⟨.vcmpeq, 3, 1, 2, false, 1, 0, true⟩
    let k : VecInstr := ⟨.ktos, 4, 1, 0, false, 0, 1, false⟩
    let b : VecInstr := ⟨.vadd, 16, 1, 2, false, 0, 3, false⟩
    Ready s 5 i.regs ∧ i.illegal = false ∧ i.op.writesMask = false ∧ 0 < i.count ∧ i.writes (s.hub.eng 5) 0 = true ∧
      i.writes (s.hub.eng 5) 1 = false ∧
      (elemResult i.op i.width (elemOf i.width ((s.hub.eng 5).vec i.vs1) 0) (i.second (s.hub.eng 5) 0) (elemOf i.width ((s.hub.eng 5).vec i.vd) 0)).isSome = true ∧
      Ready s 5 m.regs ∧ m.illegal = false ∧ m.op.writesMask = true ∧ (maskResult m (s.hub.eng 5) 0).isSome = true ∧
      Ready s 5 k.regs ∧ k.illegal = false ∧ k.ew ≠ 0 ∧ Ready s 5 b.regs ∧ b.illegal = true ∧ (s.hub.eng 5).exc = false := by
  unfold Ready; decide +kernel

/-- A VLUT that reads a line with a double error, and one that reads none; a reduction, an unpacking and a packing. -/
theorem test_hyps_VectorOperationsWriteEnabledElements_2 :
    let i : VecInstr := ⟨.vlut, 3, 1, 2, false, 0, 1, false⟩
    let j : VecInstr := ⟨.vredadd, 3, 1, 0, false, 0, 1, false⟩
    let u : VecInstr := ⟨.vunpk .p24, 3, 1, 2, false, 0, 1, false⟩
    let k : VecInstr := ⟨.vpack .l48, 3, 1, 2, false, 0, 1, false⟩
    let c : VecInstr := ⟨.vcrc64, 3, 1, 2, false, 0, 2, false⟩
    let s := { engineOn eng5 with mem := { base0.mem with dmemBad := (List.range 2).map (fun k => (k, true)) } }
    i.illegal = false ∧ j.illegal = false ∧ u.illegal = false ∧ k.illegal = false ∧ c.illegal = false ∧ Ready s 5 i.regs := by
  unfold Ready; decide +kernel

/-- A work item, and a hub that holds items and the WORK_POST of ring 0 and tag 9. -/
def item (slot l : Nat) (p : ItemPlace) (o : Option (Nat × Nat) := none) : WorkItem :=
  { slot := slot, level := l, engine := o.isNone, source := 3, deferred := false, body := [1, 0, 0, 0] ++ List.replicate 28 7, owner := o, place := p }
def workPost (l v : Nat) (secure : Bool := false) : Desc := dsc 9 0x20 ((flds [(16, 1, l), (32, 1, v)]).take 36 ++ List.replicate 28 7) secure
def itemsOn (x : Engine) (its : List WorkItem) (f : Hub → Hub := id) : State :=
  withDesc (engineOn x (fun h => f { h with col := { h.col with items := its } })) { workPost 2 1 with phase := .waiting }

/-- An engine that posts the 32 bytes at 0x40 of its data memory to a level, or a frame of shared SRAM to NETn. -/
def poster (l : Nat) (its : List WorkItem) (bytes : Sparse Byte) : State :=
  engineOn { eng5 with s := [(1, 0x20040), (2, BitVec.ofNat 32 l)] }
    (fun h => { h with col := { h.col with items := its } }.wrN (Reg.COL_LVLl_CTL 2) (2 + 2 ^ 16)) (fun m => { m with dmem := bytes })
def sender (q : Sparse (List TxFrame)) : State :=
  engineOn { eng5 with s := [(1, 0x40000040), (2, BitVec.ofNat 32 (60 + 2 ^ 11 + 2 ^ 13 * 2 + 2 ^ 15 * 3))] }
    (fun h => (h.wrN (Reg.NETn_CTL 1) 2).setSub 1 2 { link := true, txq := q })

theorem test_hyps_EnginesTakeReturnAndPostItems :
    (let s := engineOn eng5
     Ready s 5 [4, 1, 2] ∧ (s.hub.eng 5).kmode = true ∧ (s.hub.eng 5).item = none ∧ s.hub.descriptorTrap ((s.hub.eng 5).n 1) = none) ∧
    (let s := itemsOn { eng5 with item := some 7, s := [(1, 7), (2, BitVec.ofNat 32 (2 ^ 30 + 9)), (3, 6)] } [item 7 2 (.running 5) (some (0, 9))]
       (fun h => h.wrN (Reg.COL_TALUSt_CTL 1) (2 ^ 16 * 3 + 5))
     Ready s 5 [4, 1, 2] ∧ (s.hub.eng 5).exc = false ∧ (s.hub.eng 5).loads = [] ∧ (s.hub.eng 5).item = some ((s.hub.eng 5).n 1) ∧
      (s.hub.fifo 6).length < 16 ∧ s.hub.runningItem 5 = some (item 7 2 (.running 5) (some (0, 9))) ∧ (s.hub.desc 0 9).isSome = true ∧
      (s.hub.eng 5).item ≠ some ((s.hub.eng 5).n 3) ∧ s.hub.serving .col = true ∧ fieldOf ((s.hub.eng 5).n 2) 31 30 = 1 ∧
      fieldOf ((s.hub.eng 5).n 2) 29 0 = 9 ∧ s.hub.talusParked 1 < s.hub.f (Reg.COL_TALUSt_CTL 1) 26 16 ∧ fieldOf ((s.hub.eng 5).n 3) 29 0 = 6 ∧
      fieldOf ((s.hub.eng 5).n 0) 29 0 = 0) ∧
    (let b : Sparse Byte := [(Memory.localBase 5 + 0x40, 1), (Memory.localBase 5 + 0x50, 9)]
     let ok := fun (s : State) => s.hub.descriptorTrap ((s.hub.eng 5).n 1) == none && !s.mem.rangeBad (.dmem 5) 0x40 32 && (s.hub.eng 5).n 1 - 0x20000 == 0x40 &&
       s.hub.serving .col && (s.hub.eng 5).loads == []
     let body := fun (s : State) => Memory.bytesOf s.mem.dmem (Memory.localBase 5 + 0x40) 32
     Ready (poster 8 [] b) 5 [4, 1, 2] ∧ Ready (poster 2 [] b) 5 [4, 1, 2] ∧ ok (poster 8 [] b) = true ∧ ok (poster 2 [] b) = true ∧
      ((poster 8 [] b).hub.eng 5).n 2 = 8 ∧ itemValid (body (poster 2 [] [])) = false ∧ itemValid (body (poster 2 [] b)) = true ∧
      ((poster 2 [] b).hub.levelSecure 2 && !(poster 2 [] b).hub.engineSecure 5) = false ∧ (poster 2 [] b).hub.postRefused 2 = false ∧
      (poster 2 [item 5 2 (.waiting 0), item 6 2 (.waiting 0)] b).hub.postRefused 2 = true) ∧
    (let ok := fun (s : State) =>
       let a := (s.hub.eng 5).addr 1 0 0
       let v := (s.hub.eng 5).n 2
       s.hub.executes s.glob 5 && !(s.hub.eng 5).waitsFor [4, 1, 2] && !s.fetchBad 5 && a % 64 == 0 && fieldOf v 12 11 == 1 && fieldOf v 14 13 == 2 && fieldOf v 17 15 == 3 &&
        s.hub.window a 1 == .sram 0x40 && npostFields v && s.hub.serving (.net 1) && s.hub.hasSub 1 2 &&
        (s.windowHolds 5 (fieldOf v 10 0) (s.hub.window a (fieldOf v 10 0))).isSome
     ok (sender []) = true ∧ ok (sender [(3, List.replicate 64 (.posted [1]))]) = true ∧ (Sparse.get [] ((sender []).hub.subPort 1 2).txq 3).length < 64 ∧
      64 ≤ (Sparse.get [] ((sender [(3, List.replicate 64 (.posted [1]))]).hub.subPort 1 2).txq 3).length) := by
  unfold Ready; decide +kernel

/-- An image of three code words and two data words in DRAM for engine 5. -/
def loading (len : Nat) : State :=
  engineOn { phase := .loading, restarts := 3 } (fun h => ((h.wrN (Reg.SPRe_LEN 5) len).wrN (Reg.SPRe_ENTRY 5) 4).wrN (Reg.SPRe_IMG_LO 5) 0x1000)
    (fun m => { m with dram := (List.range 80).map (fun i => (0x1000 + i, BitVec.ofNat 8 (i + 1))) })

theorem test_hyps_EnginesStartStopAndLoad :
    (let s := engineOn {} (fun h => h.wrN (Reg.SPRe_CTL 5) 0)
     writableF s .host (Reg.SPRe_CTL 5) = true ∧ s.hub.bit (Reg.SPRe_CTL 5) 0 = false) ∧
    (let s := itemsOn { eng5 with item := some 7 } [item 7 2 (.running 5) (some (0, 9))]
     writableF s .host (Reg.SPRe_CTL 5) = true ∧ s.hub.bit (Reg.SPRe_CTL 5) 0 = true ∧ (s.hub.runningItem 5).isSome = true) ∧
    (let s := loading 0
     (s.hub.eng 5).phase = .loading ∧ s.glob.safe = false ∧ s.hub.serving (.spr 5) = true ∧ s.hub.imgRange 5 = true) ∧
    (let s := loading (3 + 2 ^ 16 * 2)
     (s.hub.eng 5).phase = .loading ∧ s.glob.safe = false ∧ s.hub.serving (.spr 5) = true ∧ s.hub.imgRange 5 = false ∧
      s.hub.dramRefused s.mem (s.hub.engineSecure 5) false (s.hub.imgAddr 5) (s.hub.imgCode 5) = none ∧
      s.hub.dramRefused s.mem (s.hub.engineSecure 5) false (s.hub.imgDataAddr 5) (s.hub.imgData 5) = none ∧
      s.mem.poisoned (s.hub.imgAddr 5) (s.hub.imgCode 5) = false ∧ s.mem.poisoned (s.hub.imgDataAddr 5) (s.hub.imgData 5) = false) ∧
    (let s := engineOn eng5 (fun h => { h.wrN Reg.SDL_CTL 0x50000 with saddle := { h.saddle with role := .standby } })
     s.hub.saddle.role = .standby ∧ s.hub.f Reg.SDL_CTL 23 16 ≠ 0) := by decide +kernel

/-- A WORK_CANCEL, and a hub whose levels 1 and 2 take items; level 1 is of the secure world. -/
def workCancel (id : Nat) (secure : Bool := false) : Desc := dsc 8 0x21 (flds [(16, 4, id)]) secure
def levels (its : List WorkItem) (d : Desc) (f : Hub → Hub := id) : State := withDesc (withHub base0 (fun h => f ((({ h with
  clock := 50, col := { h.col with items := its, gens := [(7, 5)] } }.wrN (Reg.COL_LVLl_CTL 2) (2 + 2 ^ 16)).wrN (Reg.COL_LVLl_CTL 1) (2 + 2 ^ 16)).wrN
  Reg.COL_SECMASK 2))) d

theorem test_hyps_ItemsArePostedGrantedAndReturned :
    (let body := fun (d : Desc) => (d.bytes.drop 32).take 32
     Fetched (levels [] (workPost 8 1)) 0 9 0x20 (workPost 8 1) ∧ (levels [] (workPost 8 1)).hub.serving .col = true ∧ 7 < (workPost 8 1).op 16 1 ∧
      Fetched (levels [] (workPost 2 2)) 0 9 0x20 (workPost 2 2) ∧ (workPost 2 2).op 16 1 = 2 ∧ itemValid (body (workPost 2 2)) = false ∧
      Fetched (levels [] (workPost 1 1)) 0 9 0x20 (workPost 1 1) ∧ (levels [] (workPost 1 1)).hub.levelSecure 1 = true ∧
      (workPost 1 1).secure = false ∧ itemValid (body (workPost 1 1)) = true ∧ Fetched (levels [] (workPost 1 1 true)) 0 9 0x20 (workPost 1 1 true) ∧
      (levels [] (workPost 1 1 true)).hub.postRefused 1 = false ∧
      (levels [item 1 2 (.waiting 0), item 2 2 (.waiting 0)] (workPost 2 1)).hub.postRefused 2 = true ∧
      (levels [] (workPost 2 1)).hub.levelSecure 2 = false) ∧
    (let d := workCancel (7 + 5 * 4096)
     let on := fun i => (levels [i] d).hub.itemOf (d.op 16 4) == some i
     Fetched (levels [] d) 0 8 0x21 d ∧ (levels [] d).hub.itemOf (d.op 16 4) = none ∧ on (item 7 1 (.waiting 3)) = true ∧
      (levels [] d).hub.levelSecure 1 = true ∧ d.secure = false ∧ on (item 7 2 (.running 5)) = true ∧ on (item 7 2 (.waiting 3)) = true ∧
      (item 7 2 (.waiting 3)).queued = true ∧ on (item 7 2 (.waiting 3) (some (1, 5))) = true ∧
      (let s := withHub (levels [] d) (fun h => h.setSq 1 { h.sq 1 with inflight := [{ workPost 2 1 with tag := 5, phase := .waiting }] })
       (s.hub.desc 1 5).isSome = true ∧ s.glob.safe = false)) ∧
    (let w : Waiter := { engine := 5, mask := 0, addr := 0x40, rd := 4, since := 0 }
     let s := levels [item 7 2 (.waiting 3) (some (0, 9))] { workPost 2 1 with phase := .waiting } (fun h => { h with col := { h.col with waiters := [w] } }.setEng 5 { eng5 with phase := .waiting })
     s.glob.safe = false ∧ hadBoth s.hub.clock s.hub.col.grants = false ∧ s.hub.grantLevel = some 2 ∧ s.hub.col.items.find? (fun i => i.level == 2 && i.isWaiting) = some (item 7 2 (.waiting 3) (some (0, 9))) ∧
      s.hub.col.waiters.find? (fun w => s.hub.accepts w 2) = some w ∧ (s.hub.desc 0 9).isSome = true) ∧
    (let s := levels [] (workPost 2 1)
     s.hub.grantLevel = none ∧ s.hub.nextReturn = none) ∧
    (let s := levels [item 3 2 (.waiting 0), item 7 2 (.parked 1 20)] (workPost 2 1) (fun h => h.setBase 1 { t48 := 2 ^ 60 })
     hadBoth s.hub.clock s.hub.col.returns = false ∧ s.hub.nextReturn = some (item 7 2 (.parked 1 20))) := by
  unfold Fetched; decide +kernel

/-! ## The pair -/

/-- A hub of a pair, with PAIR_ID, and a DESCRIPTOR of opcode 0x90. -/
def paired (x : Saddle) (pairId : Bool := false) (f : Hub → Hub := id) : State :=
  let s := withHub base0 (fun h => f ({ h with saddle := x }.wrN Reg.SDL_CTL (1 + 16 * 3 + 2 ^ 8 * 3)))
  { s with glob := { s.glob with straps := { s.glob.straps with pairId := pairId } } }
def pairOp (action : Nat) : Desc := dsc 9 0x90 (flds [(16, 1, action)])

theorem test_hyps_PairControlAnswersOrWaits :
    (∀ a ∈ [0, 1, 2, 3, 4], Fetched (withDesc (paired {}) (pairOp a)) 0 9 0x90 (pairOp a) ∧ (pairOp a).op 16 1 = a) ∧
    (let s := paired { role := .unpaired, pRole := 1 }
     s.hub.saddle.link = false ∧ s.hub.saddle.role = .unpaired ∧ s.hub.saddle.pRole < 2 ∧ s.glob.straps.pairId = false) ∧
    (let s := paired { role := .unpaired, link := true } true
     s.hub.saddle.link = true ∧ s.glob.straps.pairId = true) ∧
    (let s := paired { role := .standby, link := true, current := true } true
     s.hub.saddle.role = .standby ∧ s.hub.saddle.link = true ∧ s.hub.saddle.current = true ∧ (false && s.glob.straps.pairId) = false ∧
      s.glob.straps.pairId = true) ∧
    (paired { role := .standby }).hub.saddle.current = false ∧ (paired { role := .syncing }).hub.saddle.role = .syncing ∧
    (let s := paired { role := .active, link := true, pRole := 2, pHealth := 2 }
     s.hub.saddle.role = .active ∧ s.hub.saddle.pRole = 2 ∧ s.hub.saddle.pHealth ≠ 3 ∧ (true && s.glob.straps.pairId) = false) ∧
    (paired { role := .active, pRole := 1 }).hub.saddle.pRole ≠ 2 := by
  unfold Fetched; decide +kernel

theorem test_hyps_SaddleLinkCarriesItsSession :
    (let s := paired { role := .active }
     s.hub.saddle.link = false ∧ s.hub.bit Reg.SDL_CTL 0 = true ∧ s.hub.serving .sdl = true ∧ s.glob.safe = false) ∧
    (let s := paired { link := true, discards := 14 }
     s.hub.saddle.link = true ∧ s.hub.saddle.discards < 15 ∧ s.hub.saddle.prbsSaid = false) ∧
    (let s := paired { link := true, discards := 15, prbsSaid := true }
     s.hub.saddle.link = true ∧ 15 ≤ s.hub.saddle.discards ∧ s.hub.saddle.prbsSaid = true) := by decide +kernel

/-- A linked hub of a pair whose port 5 ends a chain of kind 1, and whose output 0 is on port 5. -/
def follower (x : Saddle) (f : Hub → Hub := id) : State := paired { x with link := true } false (fun h => f ((((((
  { h with clock := 99, commit := { h.commit with epoch := 5, inForce := [{ id := tblTile 5, bytes := zeros 4 ++ [2, 1] ++ zeros 2298 },
    { id := tblPatch, bytes := leBytes 4 1 ++ leBytes 4 2 ++ leBytes 2 1 ++ leBytes 2 1 ++ zeros 308 ++ (zeros 2 ++ [2, 1] ++ leBytes 2 0 ++ leBytes 2 3 ++
      zeros 2 ++ leBytes 2 1 ++ zeros 20) ++ zeros 32 ++ ([0, 5] ++ leBytes 2 7 ++ [3, 0] ++ leBytes 2 10 ++ zeros 8) }] } }.wrN
  (Reg.PGg_CTL 3) 1).wrN (Reg.SCNp_CTL 5) 7).setGroup 3 { phase := .running, frame := 2 ^ 32 - 1 }).setPort 5
  { phase := .up, tiles := [(3, { present := true })] }).wrN (Reg.PGg_PERIOD_NS 3) 16666666)))

theorem test_hyps_StandbyFollowsAndIsGoverned :
    (let s := follower { role := .standby, recs := [(5, some (0, { addr := 0x8000 }))] }
     s.hub.saddle.link = true ∧ s.hub.saddle.role = .standby ∧ s.hub.chainKind 5 = 1 ∧ s.hub.frameAfter 5 = 0 ∧ s.hub.scans s.glob 5 = true ∧
      Sparse.get none s.hub.saddle.recs 5 = some (s.hub.frameAfter 5, ({ addr := 0x8000 } : Arm)) ∧
      s.hub.fixOutput 5 { type := 8, dest := 7, seq := 5, payload := [1, 3, 2, 0] ++ zeros 16 ++ leBytes 2 2 ++ leBytes 2 3 ++ [7, 8, 9] } = some 0 ∧
      s.hub.setInFlight = false ∧ s.hub.heard = false ∧ NoRun s) ∧
    (let s := follower { role := .standby, heardAt := some 98, misses := 2 } (fun h => h.wrN (Reg.TBt_CTL 0) 1)
     Sparse.get none s.hub.saddle.recs 5 = none ∧ s.hub.heard = true ∧ s.hub.f Reg.SDL_CTL 7 4 ≤ min 15 (s.hub.saddle.misses + 1) ∧
      s.hub.saddle.isolated = false ∧ s.hub.f (Reg.TBt_CTL 0) 1 0 ≠ 0) ∧
    (let s := follower { role := .standby }
     min 15 (s.hub.saddle.misses + 1) < s.hub.f Reg.SDL_CTL 7 4 ∧ s.hub.f (Reg.TBt_CTL 0) 1 0 = 0) ∧
    (follower { role := .syncing }).hub.saddle.role = .syncing ∧
    (let s := follower { role := .active, own := [(5, (4, 77))] }
     s.hub.saddle.role = .active ∧ (s.hub.port 5).sends = [] ∧ s.hub.near 5 = 5 ∧ s.hub.chainKind 5 = 1 ∧
      Sparse.get (0, 0) s.hub.saddle.own 5 = (3 + 1, 77)) ∧
    (let s := follower { role := .unpaired }
     let r : List Byte := [1, 1, 2] ++ zeros 49
     s.hub.saddle.role = .unpaired ∧ byteAt r 1 % 4 = 1 ∧ byteAt r 2 % 4 ≠ 3 ∧ s.hub.saddle.left = false ∧ s.glob.straps.pairId = false) := by
  unfold NoRun; decide +kernel

/-! ## Firmware -/

/-- The entry of an empty part, and an image of seven of them, signed with a key whose hash is `imageKey`. -/
def entryOf (t : Nat) : List Byte :=
  leBytes 2 t ++ leBytes 2 (if t = 2 then 1 else 0) ++ leBytes 4 7 ++ leBytes 4 4096 ++ zeros 36 ++
    beBytes 48 0x38b060a751ac96384cd9327eb1b1e36a21fdb71114be07434c0cc7bf63f6e1da274edebfe76f65fbd51ad2f14898b95b
def image : List Byte := padTo 4096 (leBytes 4 0x57465A41 ++ leBytes 2 1 ++ leBytes 2 0xA324 ++ [1, 1, 0, 0] ++ leBytes 4 3 ++ leBytes 4 4096 ++ [7] ++ zeros 43 ++
  beBytes 48 0xced0c31bffaccfc1c33ef9395ceaf17796aecb826ea45371194ee82b930da423558324b6166e7bf50fd8a3bb70d78d02 ++
  beBytes 96 0x562f7dc635fb8f16edea0e55dbe43e35cdfd810471f2d15844c2910ff0b9a98f0ec92f0c053d18864436f9ca74b5e1cdca1c364b788d48e1bd47c4cfdc29eb15bbd46117c6e0adb02fa94feb7363d58de11ceff8a3d36dd5c092817d51fc5ea1 ++
  beBytes 96 0xb1275fb169df8832166e985163d7c68f4de9cd60be9e9796943d692cd5a882000af851dac674d635bb41a061dfa161a9614df6e88573733720909b364796f8db5307e10e0dfea7dcd8c52343001f3662c9f372971574e63bb1f64c3ff691683d ++
  zeros 208 ++ ((List.range 7).map (fun t => entryOf (t + 1))).flatten)
def imageKey : Nat := 0xf8630464e1d30c7b1e1ee5e501909bf2723cd45f59469625ecc0755e0840552cc6b74eb5d0a6f387f83287481badfa04

/-- A hub with flash and fuses. -/
def flash (w : Fwu) (f : Hub → Hub := id) (o : Otp := { keyHash0 := imageKey }) : State :=
  let s := withHub base0 (fun h => f { h with fwu := w })
  { s with glob := { s.glob with otp := o } }
def runs : Fwu := { phase := .running }

/-- An FW_STAGE, and a descriptor without operands. -/
def stage (len off : Nat) : Desc := dsc 9 0x50 (flds [(24, 4, len), (28, 4, off)])
def bare (op : Nat) : Desc := dsc 9 op (flds [])

/-! The examples of FIPS 180-4 for the message "abc". -/

theorem test_sha256_abc : ofBe (sha256 [0x61, 0x62, 0x63]) = 0xba7816bf8f01cfea414140de5dae2223b00361a396177a9cb410ff61f20015ad := by
  decide +kernel
theorem test_sha384_abc : ofBe (sha384 [0x61, 0x62, 0x63]) =
    0xcb00753f45a35e8bb5a03d699ac65007272c32ab0eded1631a8b605a43ff5bed8086072ba1e7cc2358baeca134c825a7 := by
  decide +kernel

/-! The checks of the image one by one: each runs a digest or a signature check of its own. -/

theorem test_image_header : leAt image 0 4 = 0x57465A41 ∧ leAt image 4 2 = 1 ∧ leAt image 6 2 = 0xA324 ∧ byteAt image 8 ≤ 1 ∧ 1 ≤ byteAt image 9 ∧
    imgKey image = 0 := by decide +kernel
theorem test_image_key : ofBe (sha384 (imgPubkey image)) = imageKey := by decide +kernel
theorem test_image_signature : ecdsaVerify (imgPubkey image) ((image.drop 208).take 96) (image.take 208) = true := by decide +kernel
theorem test_image_manifest : sha384 ((image.drop 512).take 1536) = (image.drop 64).take 48 := by decide +kernel
theorem test_image_shape : imgShapeOk 64 image = true := by decide +kernel
theorem test_image_parts : imgPartsOk image = true := by decide +kernel

theorem test_hyps_image_verifies : imgReason { keyHash0 := imageKey } 64 true image = 0 ∧ imgPartsOk image = true := by
  obtain ⟨h1, h2, h3, h4, h5, h6⟩ := test_image_header
  have hk : imageKey ≠ 0 := by decide
  have hr : bitOf 0 0 = false := by decide
  refine ⟨?_, test_image_parts⟩
  simp [imgReason, h1, h2, h3, h4, h5, h6, hk, hr, Otp.keyHash, test_image_key, test_image_signature, test_image_manifest, test_image_shape]

theorem test_hyps_FlashStagesAndActivates :
    (let s := withDesc (flash runs) (stage 2047 0)
     s.glob.safe = false ∧ Fetched s 0 9 0x50 (stage 2047 0) ∧ (stage 2047 0).op 28 4 = 0 ∧ (stage 2047 0).op 24 4 < 2048 ∧
      2048 ≤ (stage 2048 0).op 24 4) ∧
    (flash { runs with op := some ⟨0, 3, true⟩ }).hub.fwu.op.isSome = true ∧
    (let s := withDesc (flash runs) (stage 4096 0)
     s.hub.fwu.op = none ∧ s.hub.fwu.inTrial = false ∧ (stage 4096 0).op 24 4 = image.length ∧ image.length ≤ imgSize image ∧
      imgReason s.glob.otp s.hub.fwu.inUse true (padTo 4096 []) ≠ 0 ∧ s.glob.otp = { keyHash0 := imageKey } ∧ s.hub.fwu.size = 64) ∧
    (let s := withDesc (flash { runs with staging := zeros 16 ++ leBytes 4 4096 ++ zeros 2028, bytes := 2048 }) (stage 2048 2048)
     Fetched s 0 9 0x50 (stage 2048 2048) ∧ (stage 2048 2048).op 28 4 ≠ 0 ∧ (stage 2048 2048).op 28 4 = s.hub.fwu.bytes ∧
      s.hub.fwu.boot.pending = false ∧ (stage 2048 2048).op 28 4 + (stage 2048 2048).op 24 4 ≤ imgSize s.hub.fwu.staging ∧
      (stage 2048 2049).op 28 4 ≠ s.hub.fwu.bytes ∧ s.hub.fwu.staged = false) ∧
    (let s := withDesc (flash { runs with boot1 := BootRec.sealed { seq := 1, pending := true } }) (bare 0x51)
     Fetched s 0 9 0x51 (bare 0x51) ∧ s.hub.fwu.boot.pending = true ∧ s.hub.fwu.op = none) ∧
    (let s := withDesc (flash { runs with staging := zeros 16 ++ leBytes 4 4096 ++ zeros 4076, bytes := 4096 }) (bare 0x51)
     s.hub.fwu.staged = true ∧ imgReason s.glob.otp s.hub.fwu.inUse true s.hub.fwu.staging ≠ 0) ∧
    (let s := withDesc (flash { runs with staging := image, bytes := 4096 }) (bare 0x51)
     s.hub.fwu.staged = true ∧ s.hub.fwu.op = none) ∧
    (let d := { stage 3 1 with phase := .moving, words := [1], data := [1, 2, 3] }
     let s := withDesc (flash { runs with op := some ⟨0, 9, false⟩, staging := [7] }) d
     s.hub.fwu.op = some { q := 0, tag := 9, activate := false } ∧ s.hub.desc 0 9 = some d) ∧
    (let d := { bare 0x51 with phase := .waiting }
     let s := withDesc (flash { runs with op := some ⟨0, 9, true⟩ }) d
     s.hub.fwu.op = some { q := 0, tag := 9, activate := true } ∧ s.hub.desc 0 9 = some d ∧ s.hub.fwu.phase = .running) := by
  unfold Fetched; decide +kernel

/-- A trial of slot 1 beside an image in slot 0. -/
def onTrial (o : Otp) (f : Hub → Hub := id) : State :=
  flash { runs with boot1 := BootRec.sealed { seq := 1, trial := true, slot := 1 }, slot := 1, images := [(0, image)] } f o

theorem test_hyps_TrialsAreConfirmedOrFail :
    writableF base0 (.engine 2) Reg.FWU_CTL = true ∧
    (let s := withDesc (flash runs) (bare 0x52)
     Fetched s 0 9 0x52 (bare 0x52) ∧ s.glob.safe = false ∧ s.hub.bit Reg.FWU_CTL 0 = false ∧ s.hub.fwu.inTrial = false) ∧
    (let s := flash runs (fun h => h.wrN Reg.FWU_CTL 1)
     s.hub.bit Reg.FWU_CTL 0 = true ∧ s.hub.fwu.inTrial = false) ∧
    (let s := withDesc (onTrial { keyHash0 := imageKey } (fun h => h.wrN Reg.FWU_CTL 1)) (bare 0x52)
     Fetched s 0 9 0x52 (bare 0x52) ∧ s.hub.bit Reg.FWU_CTL 0 = true ∧ s.hub.fwu.inTrial = true ∧ s.hub.bit Reg.FWU_CTL 2 = false ∧
      s.hub.fwu.bundlePorts = [] ∧ s.hub.fwu.op = none ∧ s.hub.fwu.boot.pending = false ∧ s.glob.straps.bootMode % 4 = 0 ∧
      s.hub.fwu.inUse ≠ 0 ∧ s.glob.otp.failMode = false) ∧
    (onTrial { failMode := true }).glob.otp.failMode = true := by
  unfold Fetched; decide +kernel

/-- The image that the other slot of a trial holds is the one that verifies. -/
theorem test_hyps_image_in_slot : (onTrial { keyHash0 := imageKey }).hub.fwu.image (1 - (onTrial { keyHash0 := imageKey }).hub.fwu.boot.slot) = image := by
  have h : (onTrial { keyHash0 := imageKey }).hub.fwu.boot.slot = 1 := by decide +kernel
  rw [h]; rfl

/-- A hub held in reset with an image in slot 0. -/
def held (w : Fwu) : State := flash { w with images := [(0, image)], boot0 := BootRec.sealed { seq := 1 } }

theorem test_hyps_ResetsClearAndBootTheHub :
    (let s := held runs
     s.hub.fwu.phase ≠ .reset ∧ s.hub.fwu.op = none ∧ s.hub.allows s.glob .host Reg.GLB_RST = true ∧ s.hub.cairn.recQ.length < 14 ∧
      s.hub.fwu.boot.pending = false ∧ ({ s.glob with otp := { s.glob.otp with hostNs := true } } : Glob).otp.hostNs = true) ∧
    (let s := held {}
     s.hub.fwu.phase = .reset ∧ s.glob.otp.dbgLock = false ∧ s.hub.fwu.inUse ≠ 0 ∧ s.hub.fwu.boot.pending = false ∧
      s.hub.fwu.boot.trial = false ∧ s.hub.fwu.boot.slot < 2 ∧ s.hub.cairn.recQ = [] ∧
      s.glob.otp = { keyHash0 := imageKey } ∧ s.hub.fwu.size = 64) ∧
    (held { size := 0 }).hub.fwu.inUse = 0 := by decide +kernel

theorem test_hyps_image_in_reset : (held {}).hub.fwu.image (held {}).hub.fwu.boot.slot = image := by
  have h : (held {}).hub.fwu.boot.slot = 0 := by decide +kernel
  rw [h]; rfl

/-! ## Cairn and services -/

/-- A snapshot, a record, and a hub with logs. -/
def snapOf (n : Nat) : Snapshot :=
  { seq := n, seconds := 0, nanos := 0, unit := 5, trigger := 1, off := false, secure := n % 2 == 0, aux := 0, epoch := 0, vals := [(4, 7)] }
def recOf (n code : Nat) : Record := { code := code, source := 3, seq := n, seconds := 0, nanos := 0, p0 := 1, p1 := 2, p2 := 3, p3 := 4 }
def logs (c : Cairn) (f : Hub → Hub := id) : State := withHub base0 (fun h => f { h with cairn := c })
def logRead (log count : Nat) : Desc := dsc 9 0x40 (flds [(16, 1, log), (24, 4, count)])
def logClear (log len a : Nat) (secure : Bool) : Desc := dsc 9 0x41 (flds [(16, 1, log), (32, 4, len), (24, 8, a)]) secure

theorem test_hyps_CairnWritesReadsAndClearsItsLogs :
    (let s := logs { snapQ := [snapOf 9, snapOf 8], snaps := [snapOf 1], recQ := [recOf 9 5], recs := [recOf 3 5] }
     s.hub.cairn.snapQ = [snapOf 9, snapOf 8] ∧ s.hub.cairn.snaps.length < 8192 ∧ s.hub.cairn.recQ = [recOf 9 5] ∧ s.hub.cairn.recs.length < 4096 ∧
      s.hub.cairn.recQ.length < 16 ∧ s.hub.cairn.snapQ.length < 64) ∧
    (logs { snaps := List.replicate 8192 (snapOf 1) }).hub.cairn.snaps.length = 8192 ∧
    (let s := logs { recs := recOf 7 0x0701 :: List.replicate 4095 (recOf 3 5) }
     s.hub.cairn.recs.length = 4096 ∧ recOf 7 0x0701 ∈ s.hub.cairn.recs ∧ (recOf 7 0x0701).seq ∈ s.hub.cairn.keptClears ∧
      (∃ x ∈ s.hub.cairn.recs, x.seq ∉ s.hub.cairn.keptClears)) ∧
    (writableF base0 .host Reg.CRN_TRIG = true ∧ (Block.ofUnit 0x45).isSome = true ∧ (Block.ofUnit 0).isSome = true ∧
      base0.hub.unitSecure 0 = false ∧ base0.hub.requesterSecure base0.glob .host = true ∧
      64 ≤ (logs { snapQ := List.replicate 64 (snapOf 1) }).hub.cairn.snapQ.length) ∧
    (let s := logs { violAt := some 5 } (fun h => { h.wrN Reg.SEC_MWORLD 0 with clock := 7 })
     writableF s .host Reg.CRN_TRIG = true ∧ s.hub.unitSecure 0x40 = true ∧ s.hub.requesterSecure s.glob .host = false ∧ s.hub.violationDue = false) ∧
    (logs {}).hub.violationDue = true ∧
    (let s := withDesc (logs {}) (logRead 1 4096)
     Fetched s 0 9 0x40 (logRead 1 4096) ∧ (logRead 1 4096).op 16 1 = 1 ∧ 0 < (logRead 1 4096).op 24 4 ∧ (logRead 1 4096).op 24 4 ≤ 4096 ∧
      (logRead 0 8192).op 16 1 = 0 ∧ (logRead 0 8192).op 24 4 ≤ 8192 ∧ 4096 < (logRead 1 4097).op 24 4) ∧
    (let s := withDesc (logs {}) (logClear 1 224 64 false)
     Fetched s 0 9 0x41 (logClear 1 224 64 false) ∧ (logClear 1 224 64 false).op 32 4 = 224 ∧ (logClear 1 224 64 false).op 24 8 ≠ 0 ∧
      s.hub.tokenReason s.glob 1 (padTo 224 []) ≠ 0 ∧ (logClear 1 224 0 false).op 24 8 = 0 ∧ (logClear 0 223 64 false).op 32 4 ≠ 224 ∧
      1 < (logClear 2 0 0 true).op 16 1) ∧
    (let s := withDesc (logs { snaps := [snapOf 4] }) (logClear 0 0 0 true)
     Fetched s 0 9 0x41 (logClear 0 0 0 true) ∧ (logClear 0 0 0 true).secure = true ∧ s.hub.cairn.snaps.getLast? = some (snapOf 4) ∧
      s.hub.cairn.recs.length < 4096) ∧
    writableF base0 (.engine 3) Reg.CRN_CLR = true := by
  unfold Fetched; decide +kernel

/-- Engine 2 runs a service item of a code, with an argument. -/
def serviceOf (code n : Nat) : WorkItem :=
  { slot := 7, level := 1, engine := false, source := 3, deferred := false, body := (flds [(4, 1, code), (8, 8, 0x1000), (16, 1, n)]).take 32
    owner := some (0, 9), place := .running 2 }
def service (code n : Nat) (f : State → State := id) : State :=
  f (withHub base0 (fun h => ({ h with col := { h.col with items := [serviceOf code n], gens := [(7, 3)] } }.setEng 2 { phase := .running, item := some 7 }).wrN
    (Reg.SPRe_CTL 2) 1))

theorem test_hyps_ServicesAndJtagReachSecureState :
    (let s := service 0xA1 6
     s.hub.serviceItem 2 0xA1 = some (serviceOf 0xA1 6) ∧ s.hub.fwu.inTrial = false ∧ leAt (serviceOf 0xA1 6).body 8 8 = 0x1000 ∧
      s.hub.inDram 0x1000 32 = true ∧ s.mem.poisoned 0x1000 32 = false ∧
      ({ s.mem with tags := [(0x40, { poison := true })] } : Memory).poisoned 0x1000 32 = true) ∧
    (let s := service 0xA1 6 (fun s => withHub s (fun h => { h with fwu := { h.fwu with boot1 := BootRec.sealed { seq := 1, trial := true } } }))
     s.hub.serviceItem 2 0xA1 = some (serviceOf 0xA1 6) ∧ s.hub.fwu.inTrial = true) ∧
    (service 0xA2 6).hub.serviceItem 2 0xA2 = some (serviceOf 0xA2 6) ∧
    (let s := service 0xA3 2 (fun s => { s with glob := { s.glob with otp := { keyHash0 := 1, keyHash1 := 1, keyHash2 := 1 } } })
     s.hub.serviceItem 2 0xA3 = some (serviceOf 0xA3 2) ∧ byteAt (serviceOf 0xA3 2).body 16 = 2 ∧ 2 ≠ imgKey s.hub.fwu.running ∧
      s.glob.otp.goodKeys ≠ [2]) ∧
    ((service 0xA3 4).hub.serviceItem 2 0xA3 = some (serviceOf 0xA3 4) ∧ 3 < byteAt (serviceOf 0xA3 4).body 16) ∧
    (({ keyHash2 := 1 } : Otp).goodKeys = [2]) ∧
    (let s := base0
     s.hub.requesterSecure s.glob .jtag = true ∧ (reachesClass s .jtag 0 true || reachesClass s .jtag 0 false) = true ∧
      s.hub.accessAt s.glob .jtag 0x2FFFFFC = .absent ∧ s.hub.allows s.glob .jtag (Reg.INT_VEC_CTLv 63) = true ∧ s.hub.inDram 64 4 = true ∧
      s.hub.dramRefused s.mem true false 64 4 = none ∧ s.mem.poisoned 64 4 = false ∧ s.hub.dramRefused s.mem true true 64 4 = none ∧
      s.hub.sramRefused true false 0x2FFFFFC 4 = false ∧ s.hub.sramRefused true true 0x2FFFFFC 4 = false ∧
      s.mem.rangeBad .sram 0x2FFFFFC 4 = false) ∧
    (let s := { base0 with glob := { base0.glob with otp := { base0.glob.otp with dbgLock := true } }, mem := { base0.mem with tags := [(1, { secure := true })] } }
     s.hub.requesterSecure s.glob .jtag = false ∧ (s.hub.dramRefused s.mem false true 64 4).isSome = true) := by decide +kernel

/-! ## Counters, power and reset -/

theorem test_hyps_CountersFreezeClearAndLatch :
    writableF base0 .host Reg.PMU_CTL = true ∧ base0.hub.engineSecure 5 = false ∧ base0.hub.engineSecure 0 = true ∧
    writableF base0 .host (Reg.PMUe_CNT_CTL 5) = true ∧ writableF base0 .host (Reg.PMU_SCNp_CTL 31) = true ∧
    writableF base0 .host (Reg.PMU_NSHn_CTL 0) = true ∧ writableF base0 .host Reg.PMU_COL_CTL = true ∧
    (match base0.hub.accessAt base0.glob .host Reg.PMU_COL_GRANTS_LO with | .ok d _ _ => d.id.counterLo | _ => false) = true ∧
    (match base0.hub.accessAt base0.glob .host Reg.PMU_CTL with | .ok d _ _ => !d.id.counterLo | _ => false) = true := by decide +kernel

/-- A hub with a power state. -/
def powered (p : Power) (f : Hub → Hub := id) : State := withHub base0 (fun h =>
  f { h with power := { h.power with state := p.state, offPending := p.offPending, domains := p.domains, hot := p.hot, critical := p.critical } })

/-- A hub with few registers that has been idle for long. -/
def quiet (h : Hub) : Hub :=
  let h1 := h.wrN Reg.PWR_CTL 0x1FF03
  { h1 with regs := h1.regs.filter (fun e => e.1 < 0x100 || e.1 == Reg.PWR_CTL), rings := {}, engines := [], clock := 10 ^ 15 }

theorem test_hyps_PowerAndHeatFollowTheirRules :
    (powered {} (fun h => h.wrN Reg.PWR_CTL 0)).hub.deepest base0.glob = 0 ∧
    (let s := powered {} quiet
     s.hub.power.state = 0 ∧ s.hub.deepest s.glob = 3) ∧
    (let s := powered { state := 3 } (fun h => h.wrN (Reg.SPRe_CTL 7) 1)
     wakesFrom 1 s.hub.power.state = true ∧ s.hub.power.state ≠ 0 ∧ s.hub.power.offPending = [] ∧ s.hub.bit (Reg.SPRe_CTL 7) 0 = true ∧
      s.hub.allows s.glob .host Reg.PWR_CTL = true ∧ writableF s .host Reg.PWR_CTL = true ∧ wakesFrom 8 1 = true) ∧
    (let s := powered {} (fun h => { h with commit := { h.commit with phase := .pending, writes := [{ off := Reg.ODLr_CTL 0, value := 1, owner := none }] } })
     hostDomain 3 = true ∧ s.hub.allows s.glob .host Reg.PWR_DOM_CTL = true ∧ s.hub.bit Reg.PWR_DOM_CTL 3 = false ∧ s.hub.domainOn 3 = true ∧
      s.hub.commit.phase = .pending ∧ ((List.range 12).any (fun d => hostDomain d && s.hub.setInDomain d)) = true) ∧
    (base0.hub.commit.phase ≠ .pending ∧ base0.hub.power.state < 2) ∧
    (let s := powered { domains := 0xFF7 } (fun h => h.wrN Reg.PWR_DOM_CTL 8)
     s.hub.bit Reg.PWR_DOM_CTL 3 = true ∧ s.hub.domainOn 3 = false) ∧
    (let s := powered {}
     let t : List Int := [20, 4 * (s.hub.f Reg.PWR_THERM_CTL 7 0 : Int) + 1]
     s.glob.safe = false ∧ (hottest t).2 < 4 * criticalLimit s.glob ∧ s.hub.power.hot = false ∧ 4 * (s.hub.f Reg.PWR_THERM_CTL 7 0 : Int) < (hottest t).2 ∧
      s.hub.power.critical = false ∧ 4 * criticalLimit s.glob ≤ (hottest [4 * criticalLimit s.glob]).2) ∧
    (let s := powered { hot := true, critical := true }
     s.hub.power.hot = true ∧ s.hub.power.critical = true ∧ (hottest [0]).2 ≤ 4 * (s.hub.f Reg.PWR_THERM_CTL 7 0 : Int) - 20) := by decide +kernel

/-! ## The hypotheses can be met: the clauses that the states above leave -/

theorem test_hyps_FetchTakesUpTheNextDescriptor_2 :
    (let s := withHub ringOn (fun h => h.setSq 0 { h.sq 0 with inflight := [dsc 9 3 (flds [])] })
     s.hub.fetchable 0 = true ∧ s.hub.outranked 0 = false ∧ bitOf (byteAt (flds [(0, 1, 3), (1, 1, 1), (4, 4, 77)]) 1) 0 = true ∧
      (s.hub.sq 0).inflight ≠ []) ∧
    (let s := withHub ringOn (fun h => h.setSq 0 { h.sq 0 with window := [{ tag := 77, status := some 0, result := [5] }] })
     s.hub.fetchable 0 = true ∧ s.hub.outranked 0 = false ∧ (s.hub.sq 0).recall (leAt (fetchBytes 3 0) 4 4) ≠ none) ∧
    (ringOn.hub.fetchable 0 = true ∧ descValid (fetchBytes 0xFF 0) = false ∧ bitOf (byteAt (fetchBytes 0xFF 0) 1) 0 = false) ∧
    (let s := withHub ringOn (fun h => (h.wrN (Reg.SQn_CTL 1) 0x403).setSq 1 { h.sq 1 with head := 3, tail := 5 })
     s.hub.fetchable 0 = true ∧ s.hub.outranked 0 = true) := by decide +kernel

theorem test_hyps_FetchTakesUpTheNextDescriptor_3 :
    Fetched (got 0x32 []) 0 9 0x32 (dsc 9 0x32 (flds [])) ∧ Fetched (got 0x50 []) 0 9 0x50 (dsc 9 0x50 (flds [])) ∧
    Fetched (got 0x80 []) 0 9 0x80 (dsc 9 0x80 (flds [])) ∧
    (let s := withDesc base0 (framePost 0x400040 8)
     Fetched s 0 9 0x10 (framePost 0x400040 8) ∧ s.hub.framePostStatus (framePost 0x400040 8) = none) ∧
    (let s := withDesc base0 (framePost 0x400041 8)
     Fetched s 0 9 0x10 (framePost 0x400041 8) ∧ s.hub.framePostStatus (framePost 0x400041 8) = some Status.invalid) := by
  unfold Fetched; decide +kernel

theorem test_hyps_DoorbellsMoveTheirRingOrAreRejected_2 :
    ringOn.hub.fifoFull 0 = false ∧ (withHub ringOn (fun h => h.setFifo 0 (List.replicate 256 0))).hub.fifoFull 0 = true := by decide +kernel

/-- A push that makes FIFO 0 rise to its LEVEL of 12. -/
theorem test_hyps_DoorbellsMoveTheirRingOrAreRejected_3 :
    (let s := withHub ringOn (fun h => h.setFifo 0 (List.replicate 11 0))
     s.hub.awake 2 = true ∧ s.hub.fifoFull 0 = false ∧ s.hub.bit (Reg.SQn_CTL 0) 0 = true ∧ s.hub.bit (Reg.CQn_CTL 0) 0 = true ∧ s.hub.bit Reg.EVQ_CTL 0 = true ∧
      s.hub.fifoCrosses 0 = true) := by decide +kernel

theorem test_hyps_AbortEndsItsTarget_2 :
    ((abortOf 0 23 (fun h => h.setEng 23 { phase := .waiting })).hub.eng 23).phase = .waiting ∧
    ((abortOf 0 23 (fun h => h.setEng 23 { phase := .halted })).hub.eng 23).phase = .halted ∧
    (let s := withDesc (withHub base0 (fun h => (h.wrN (Reg.SQn_CTL 63) 0x401).setSq 63 { h.sq 63 with head := 3, tail := 9 }))
        { dsc 9 0x70 (flds [(16, 1, 1), (18, 2, 63)]) with words := [5] }
     Fetched s 0 9 0x70 { dsc 9 0x70 (flds [(16, 1, 1), (18, 2, 63)]) with words := [5] } ∧ s.hub.blockOn .hif = true ∧ s.hub.abortOn 1 63 = none ∧
      (s.hub.sq 63).inflight = [] ∧ ringDist (s.hub.ringSize (Reg.SQn_CTL 63)) (s.hub.sq 63).head 5 ≤
        ringDist (s.hub.ringSize (Reg.SQn_CTL 63)) (s.hub.sq 63).head (s.hub.sq 63).tail) := by
  unfold Fetched; decide +kernel

theorem test_hyps_BuffersArriveAndArm_2 :
    (let s := withDesc (group3 17 { phase := .running, frame := 7 } (fun h =>
        { h with clock := 9 }.setPipe 5 { pend := some { addr := 0x400000 }, pendAt := (8, 0) })) (frameArm 5 0x400000)
     s.hub.serving (.scn 5) = true ∧ (s.hub.pipe 5).pendAt.1 ≠ s.hub.clock ∧ s.hub.pipeOn 5 = true ∧ s.hub.groupOn (s.hub.pipeGroup 5) = true ∧
      s.hub.applyBegun (s.hub.pipeGroup 5) = false) ∧
    (let s := withDesc (group3 17 { phase := .running, frame := 7, applied := true }) (frameArm 5 0x400000)
     Fetched s 0 9 0x11 (frameArm 5 0x400000) ∧ s.hub.serving (.scn 5) = true ∧ s.hub.applyBegun (s.hub.pipeGroup 5) = true ∧
      (s.hub.pipe 5).pend = none) ∧
    (let s := withDesc (group3 17 { phase := .running, frame := 7 }) (frameArm 6 0x400000)
     Fetched s 0 9 0x11 (frameArm 6 0x400000) ∧ s.hub.serving (.scn 6) = true ∧ s.hub.pipeOn 6 = false ∧ s.hub.bufOk 6 0x400000 = true) ∧
    (let s := withDesc (group3 17 { phase := .running, frame := 7 }) (frameArm 5 0x400001)
     Fetched s 0 9 0x11 (frameArm 5 0x400001) ∧ s.hub.bufOk 5 0x400001 = false) ∧
    (let s := withDesc (group3 17 { phase := .running, frame := 7 } (fun h => { h with power := { h.power with domains := 0xF7F } })) (frameArm 5 0x400000)
     Fetched s 0 9 0x11 (frameArm 5 0x400000) ∧ s.hub.bufOk 5 0x400000 = true ∧ s.hub.domainOn 7 = false) ∧
    (let s := group3 17 { phase := .running, frame := 7 } (fun h => (h.wrN (Reg.SCNp_FB_ADDR_HI 5) 0xFF))
     s.hub.bufOk 5 (s.hub.shadow 5) = false ∧ s.hub.allows s.glob .host (Reg.SCNp_FB_ARM 5) = true) ∧
    (let s := group3 17 { phase := .running, frame := 7, begun := true, line := 9 } (fun h => h.setPipe 5 { pend := some { addr := 0x400000 } })
     s.hub.groupOn 3 = true ∧ (s.hub.group 3).begun = true ∧ s.hub.applyLineOf 3 ≤ (s.hub.group 3).line ∧ 5 ∈ s.hub.pipesOf 3 ∧
      s.hub.originates 5 = true ∧ (s.hub.pipe 5).pend = some { addr := 0x400000 }) := by
  unfold Fetched; decide +kernel

theorem test_hyps_BuffersArriveAndArm_3 :
    (let s := withDesc (group3 1 {}) (framePost 0x400041 8)
     Fetched s 0 9 0x10 (framePost 0x400041 8) ∧ (framePost 0x400041 8).op 24 8 % 64 ≠ 0) ∧
    (let s := withDesc (group3 1 {}) (framePost 0x400040 7)
     Fetched s 0 9 0x10 (framePost 0x400040 7) ∧ (framePost 0x400040 7).op 32 4 % fmtBytes ((framePost 0x400040 7).op 36 1) ≠ 0) ∧
    (let s := withDesc (group3 1 {}) (framePost 0x4000000000 8)
     Fetched s 0 9 0x10 (framePost 0x4000000000 8) ∧ s.hub.inDram 0x4000000000 8 = false) ∧
    (let s := withDesc (group3 1 {} (fun h => h.setPipe 5 { pend := some { addr := 0x400000 } })) (framePost 0x400040 8)
     Fetched s 0 9 0x10 (framePost 0x400040 8) ∧ 0x400000 ∈ s.hub.buffersOf 5 ∧ overlaps 0x400040 8 0x400000 (s.hub.bufSize 5) = true) ∧
    (flds []).length = 64 ∧ ([1, 2, 3, 4, 5, 6, 7, 8] : List Byte).length = 8 := by
  unfold Fetched; decide +kernel

theorem test_hyps_CalibrationIsStoredAndMeasured_2 :
    (let s := withDesc (calOf {}) (calDesc 0x30 1 65535 2)
     Fetched s 0 9 0x30 (calDesc 0x30 1 65535 2) ∧ s.hub.calRangeBad (calDesc 0x30 1 65535 2) = true) ∧
    (∀ f ∈ [CalPhase.fold, .slewing, .copying],
      Fetched (withDesc (calOf { phase := f }) (calDesc 0x30 1 3 2)) 0 9 0x30 (calDesc 0x30 1 3 2) ∧
        (withDesc (calOf { phase := f }) (calDesc 0x30 1 3 2)).hub.calRangeBad (calDesc 0x30 1 3 2) = false) ∧
    (let s := withDesc (calOf { phase := .fold }) (calDesc 0x30 1 3 2)
     (s.hub.calPipe 5).phase = .fold) ∧
    (let s := withDesc (calOf { phase := .slewing }) (calDesc 0x30 1 3 2)
     (s.hub.calPipe 5).phase = .slewing) ∧
    (let s := withDesc (calOf {} (fun h => { h with commit := { h.commit with phase := .pending, writes := [staged (Reg.CAL_PIPEp_APPLY 5) 1] } })) (calDesc 0x30 1 3 2)
     s.hub.applyInFlight 5 = true) ∧
    (let s := withDesc (calOf {} (fun h => { h with power := { h.power with domains := 0xF7F } })) (calDesc 0x30 1 3 2)
     s.hub.domainOn 7 = false ∧ s.hub.statOn 5 = false ∧ s.hub.applyInFlight 5 = false ∧ (s.hub.calPipe 5).phase = .idle) ∧
    (let s := withDesc (sequencer (runOf 2)) { measure with phase := .waiting }
     s.hub.cal.msr.phase = .running ∧ s.hub.cal.msr.started = sqSteps s.hub.cal.msr.seq ∧ s.hub.cal.msr.owner = some (0, 9) ∧
      (s.hub.desc 0 9).isSome = true) := by
  unfold Fetched; decide +kernel

/-- A load while the bank slews, at either end of its range. -/
theorem test_hyps_CalibrationIsStoredAndMeasured_3 :
    (let s := withDesc (calOf { phase := .copying }) (calDesc 0x30 1 3 2)
     Fetched s 0 9 0x30 (calDesc 0x30 1 3 2) ∧ (s.hub.calPipe 5).phase = .copying ∧ s.hub.calRangeBad (calDesc 0x30 1 3 2) = false) := by
  unfold Fetched; decide +kernel

theorem test_hyps_CairnWritesReadsAndClearsItsLogs_2 :
    (let s := logs { snapQ := [snapOf 9], snaps := List.replicate 8192 (snapOf 1) }
     s.hub.cairn.snapQ = [snapOf 9] ∧ s.hub.cairn.snaps.length = 8192) ∧
    (let s := logs { recQ := [recOf 9 5], recs := recOf 7 0x0701 :: List.replicate 4095 (recOf 3 5) }
     s.hub.cairn.recQ = [recOf 9 5] ∧ s.hub.cairn.recs.length = 4096 ∧ recOf 7 0x0701 ∈ s.hub.cairn.recs ∧
      (recOf 7 0x0701).seq ∈ s.hub.cairn.keptClears) ∧
    Fetched (withDesc (logs {}) (logRead 2 1)) 0 9 0x40 (logRead 2 1) ∧ Fetched (withDesc (logs {}) (logRead 1 0)) 0 9 0x40 (logRead 1 0) ∧
    Fetched (withDesc (logs {}) (logRead 0 8193)) 0 9 0x40 (logRead 0 8193) ∧
    Fetched (withDesc (logs {}) (logRead 1 4097)) 0 9 0x40 (logRead 1 4097) ∧
    (let s := withDesc (logs { snaps := [snapOf 4, snapOf 5] }) (logRead 0 8192)
     Fetched s 0 9 0x40 (logRead 0 8192)) ∧
    Fetched (withDesc (logs {}) (logClear 2 0 0 true)) 0 9 0x41 (logClear 2 0 0 true) ∧
    Fetched (withDesc (logs {}) (logClear 0 223 64 false)) 0 9 0x41 (logClear 0 223 64 false) ∧
    Fetched (withDesc (logs {}) (logClear 1 224 0 false)) 0 9 0x41 (logClear 1 224 0 false) := by
  unfold Fetched; decide +kernel

theorem test_hyps_CommitIsCheckedThenPending_4 :
    (let s := withHub (got 2 []) (fun h => { h with commit := { h.commit with phase := .checking, owner := some (0, 9), writes := [staged Reg.COL_SECMASK 2] } })
     s.hub.rangeFindings s.hub.overlay = [] ∧ s.hub.poweredOff = [] ∧ s.hub.worldDenied false ≠ []) := by decide +kernel

/-- A checking set with a domain off, one that passes every step, and one of which a staged table reads poisoned, wherever the tables lie. -/
theorem test_hyps_CommitIsCheckedThenPending_5 :
    (let s := withHub (got 2 []) (fun h => { h with commit := { h.commit with phase := .checking, owner := some (0, 9), writes := [staged (Reg.SCNp_BRIGHT 3) 2] }, power := { h.power with domains := 0xF7F } })
     s.hub.rangeFindings s.hub.overlay = [] ∧ s.hub.poweredOff ≠ [] ∧ s.hub.commit.owner = some (0, 9)) ∧
    (let s := withHub (got 2 []) (fun h => { h with commit := { h.commit with phase := .checking, owner := some (0, 9) } })
     s.hub.stagedSpoilt s.mem = false ∧ s.hub.commit.owner = some (0, 9)) := by decide +kernel

theorem test_hyps_EnumerationRecordsTiles_2 :
    identityLayout (zeros 64) = true ∧ identityLayout (zeros 63) = false ∧
    (let s := portOn { phase := .up, enumTry := 1, tiles := [(1, { present := true, ok := true, upSeq := some 9 })] }
     HearsTile s 5 1 ∧ s.hub.originates 5 = true ∧ (s.hub.tile 5 1).upSeq = some (9 % 2 ^ 32)) := by
  unfold HearsTile; decide +kernel

theorem test_hyps_FlashStagesAndActivates_2 :
    (let s := withDesc (flash { runs with op := some ⟨0, 3, true⟩ }) (stage 2048 0)
     Fetched s 0 9 0x50 (stage 2048 0) ∧ s.hub.fwu.op.isSome = true ∧ 2048 ≤ (stage 2048 0).op 24 4) ∧
    (let s := withDesc (flash { runs with op := some ⟨0, 3, true⟩ }) (stage 2047 1)
     Fetched s 0 9 0x50 (stage 2047 1) ∧ (stage 2047 1).op 28 4 ≠ 0) ∧
    (let s := withDesc (flash { runs with boot1 := BootRec.sealed { seq := 1, trial := true } }) (stage 2048 0)
     Fetched s 0 9 0x50 (stage 2048 0) ∧ s.hub.fwu.inTrial = true) ∧
    (let s := withDesc (flash { runs with staging := zeros 16 ++ leBytes 4 4096 ++ zeros 2028, bytes := 2048 }) (stage 2048 2049)
     Fetched s 0 9 0x50 (stage 2048 2049) ∧ s.hub.fwu.op = none ∧ s.hub.fwu.boot.pending = false) ∧
    (let s := withDesc (flash { runs with op := some ⟨0, 3, true⟩ }) (bare 0x51)
     Fetched s 0 9 0x51 (bare 0x51) ∧ s.hub.fwu.op.isSome = true) ∧
    (let s := withDesc (flash runs) (bare 0x51)
     Fetched s 0 9 0x51 (bare 0x51) ∧ s.hub.fwu.op = none ∧ s.hub.fwu.staged = false ∧ s.hub.fwu.boot.pending = false) := by
  unfold Fetched; decide +kernel

theorem test_hyps_NetPortsCountHoldAndReport_2 :
    (let s := netHub (fun h => h.wrN (Reg.NETn_CTL 0) 17)
     s.hub.netUp 0 0 = false ∨ s.hub.bit (Reg.NETn_CTL 0) 3 = false) := by decide +kernel

/-- A frame too short, one that a MAC control frame is, and one without room. -/
theorem test_hyps_NetPortsCountHoldAndReport_3 :
    (let s := netHub (fun h => h.setSub 0 0 { link := true, rx := 262144 - 71 })
     s.hub.netUp 0 0 = true ∧ beAt arpFrame 12 2 ≠ 0x8808 ∧ 262144 < (s.hub.subPort 0 0).rx + arpFrame.length ∧ s.hub.awake 3 = true) ∧
    (64 ≤ (List.replicate 12 0 ++ [0x88, 0x08] ++ List.replicate 58 (0 : Byte)).length ∧ beAt (List.replicate 12 0 ++ [0x88, 0x08] ++ List.replicate 58 (0 : Byte)) 12 2 = 0x8808) ∧
    1522 < (List.replicate 1523 (0 : Byte)).length ∧ (List.replicate 63 (0 : Byte)).length < 64 := by decide +kernel

theorem test_hyps_ItemsArePostedGrantedAndReturned_2 :
    (let d := workCancel (7 + 5 * 4096)
     Fetched (levels [item 7 1 (.waiting 3)] d) 0 8 0x21 d ∧ Fetched (levels [item 7 2 (.running 5)] d) 0 8 0x21 d ∧
      Fetched (levels [item 7 2 (.waiting 3)] d) 0 8 0x21 d ∧ Fetched (levels [item 7 2 (.parked 1 20)] d) 0 8 0x21 d ∧
      (let s := withHub (levels [item 7 2 (.waiting 3) (some (1, 5))] d) (fun h =>
        h.setSq 1 { h.sq 1 with inflight := [{ workPost 2 1 with tag := 5, phase := .waiting }] })
       Fetched s 0 8 0x21 d ∧ (s.hub.desc 1 5).isSome = true)) := by
  unfold Fetched; decide +kernel

theorem test_hyps_PairControlAnswersOrWaits_2 :
    Fetched (withDesc (paired { role := .active, link := true, pRole := 2, pHealth := 2 }) (pairOp 0)) 0 9 0x90 (pairOp 0) ∧
    Fetched (withDesc (paired { role := .unpaired, pRole := 1 }) (pairOp 1)) 0 9 0x90 (pairOp 1) ∧
    Fetched (withDesc (paired { role := .active, link := true }) (pairOp 1)) 0 9 0x90 (pairOp 1) ∧
    Fetched (withDesc (paired { role := .unpaired, link := true, pRole := 1 }) (pairOp 1)) 0 9 0x90 (pairOp 1) ∧
    Fetched (withDesc (paired { role := .unpaired, link := true } true) (pairOp 1)) 0 9 0x90 (pairOp 1) ∧
    Fetched (withDesc (paired { role := .unpaired }) (pairOp 2)) 0 9 0x90 (pairOp 2) ∧
    Fetched (withDesc (paired { role := .active, link := true, pRole := 2, pHealth := 2 }) (pairOp 2)) 0 9 0x90 (pairOp 2) ∧
    Fetched (withDesc (paired { role := .standby, link := true, current := true }) (pairOp 3)) 0 9 0x90 (pairOp 3) ∧
    Fetched (withDesc (paired { role := .active, link := true, pRole := 2, pHealth := 2 }) (pairOp 4)) 0 9 0x90 (pairOp 4) := by
  unfold Fetched; decide +kernel

theorem test_hyps_PairControlAnswersOrWaits_3 :
    Fetched (withDesc (paired { role := .active }) (pairOp 3)) 0 9 0x90 (pairOp 3) ∧
    Fetched (withDesc (paired { role := .standby }) (pairOp 4)) 0 9 0x90 (pairOp 4) ∧
    Fetched (withDesc (paired { role := .syncing }) (pairOp 4)) 0 9 0x90 (pairOp 4) ∧
    Fetched (withDesc (paired { role := .standby, link := true }) (pairOp 3)) 0 9 0x90 (pairOp 3) ∧
    Fetched (withDesc (paired { role := .standby, link := true, current := true } true) (pairOp 3)) 0 9 0x90 (pairOp 3) ∧
    Fetched (withDesc (paired { role := .active, pRole := 1 }) (pairOp 4)) 0 9 0x90 (pairOp 4) ∧
    Fetched (withDesc (paired { role := .active, pRole := 2, pHealth := 3 }) (pairOp 4)) 0 9 0x90 (pairOp 4) := by
  unfold Fetched; decide +kernel

theorem test_hyps_PendingSetTakesEffectWhole_2 :
    (committing .pending).hub.stagedWrite (Reg.TBt_TRIM 1) = some 78 ∧ (committing .pending).hub.instantCome .immediate = true ∧
    (let s := withHub (committing .pending) (fun h => { h with commit := { h.commit with instant := .time 0 (2 ^ 100) } })
     s.hub.commit.phase = .pending ∧ s.hub.instantCome s.hub.commit.instant = false) ∧
    (let s := withHub (committing .pending) (fun h => { h with commit := { h.commit with tables := [{ id := tblPatch, bytes := [1, 2], owner := none }] } })
     tblPatch ∈ s.hub.stagedIds ∧ s.hub.stagedTable tblPatch ≠ [] ∧ s.hub.commit.phase = .pending) := by decide +kernel

theorem test_hyps_PowerAndHeatFollowTheirRules_2 :
    (let s := powered { state := 1 }
     wakesFrom 1 s.hub.power.state = true ∧ s.hub.power.state ≠ 0 ∧ s.hub.power.offPending = []) ∧
    bitOf (2 ^ 31 : Nat) 31 = true ∧
    (let s := powered {}
     let t : List Int := [400, 20]
     s.hub.power.hot = false ∧ (hottest t).2 < 4 * criticalLimit s.glob ∧ 4 * (s.hub.f Reg.PWR_THERM_CTL 7 0 : Int) < (hottest t).2) ∧
    (let t : List Int := [440, 460]
     4 * criticalLimit (powered {}).glob ≤ (hottest t).2 ∧ (powered {}).hub.power.critical = false) := by decide +kernel

/-- A wake from D3 with a port enabled, a clear of the residencies, a port's register in a domain that is off, and a hub too hot. -/
theorem test_hyps_PowerAndHeatFollowTheirRules_3 :
    (let s := powered { state := 3 } (fun h => h.wrN (Reg.NSHn_CTL 9) 1)
     wakesFrom 2 s.hub.power.state = true ∧ s.hub.bit (Reg.NSHn_CTL 9) 0 = true ∧ s.glob.safe = false) ∧
    (let s := powered {} (fun h => h.wrN (Reg.PWR_RES_Ds 1) 77)
     bitOf 2147483648 31 = true ∧ s.hub.n (Reg.PWR_RES_Ds 1) = 77) ∧
    (let s := powered { domains := 0xFF7 } (fun h => (h.wrN Reg.PWR_DOM_CTL 8).wrN (Reg.NETn_CTL 0) 1)
     offsetInDomain (Reg.NETn_CTL 0) 3 = true ∧ s.hub.domainOn 3 = false) ∧
    (let s := powered {} (fun h => h.wrN Reg.PWR_THERM_CTL 10)
     let t : List Int := [44, 20]
     s.hub.power.hot = false ∧ s.hub.awake 7 = true ∧ 4 * (s.hub.f Reg.PWR_THERM_CTL 7 0 : Int) < (hottest t).2 ∧
      (hottest t).2 < 4 * criticalLimit s.glob) := by decide +kernel

theorem test_hyps_SafeStateKeepsItsFirstCause_2 : 4 ∈ [5, 4] ∧ chipCause 4 = true ∧ ∀ d ∈ [5, 4], chipCause d = true → 4 ≤ d := by decide +kernel

theorem test_hyps_ServoSteersWithinItsLimits_2 :
    (let s := withHub (pps .locked 500) (fun h => h.setBase 2 { h.base 2 with jumpedAt := some h.clock })
     (s.hub.base 2).jumpedAt = some s.hub.clock ∧ s.hub.serving .tio = true ∧ s.hub.pinFunc 7 = 4 ∧ (s.hub.base 2).deferred = none) := by decide +kernel

/-- Edges within 8 ns, what a measurement has to tell, and a TIME_SET in the cycle of a measurement. -/
theorem test_hyps_ServoSteersWithinItsLimits_3 :
    (let s := withHub (pps .locked 500) (fun h => h.setPin 7 { h.pinState 7 with edge := some (h.edgeTime 0 - 31) })
     s.hub.edgeTooSoon 7 0 = true ∧ s.hub.awake 6 = true) ∧
    (let s := withHub (pps .locked 500) (fun h => { h with time := { h.time with told := [(2, .event 3), (1, .refusal 7 2 3)] } })
     (2, .event 3) ∈ s.hub.time.told ∧ s.hub.pinFunc 7 = 4 ∧ s.hub.pinTb 7 = 2 ∧ s.hub.f (Reg.TBt_CTL 2) 4 2 = 7) ∧
    (let s := withHub (withDesc (pps .locked 500) (timeSet 2 5 77)) (fun h => { h with time := { h.time with
        told := [(2, .event 3)], saves := [(2, some { clock := h.clock, state := .locked, freq := 9, freqLog := [], steered := [], offset := 4, e0 := 5, since := 0, jumps := 6, quality := 7 })] } })
     Fetched s 0 9 0x60 (timeSet 2 5 77) ∧ s.hub.serving .tim = true ∧ (timeSet 2 5 77).op 16 1 = 2 ∧ (timeSet 2 5 77).op 30 4 < 1000000000 ∧
      (s.hub.saved 2).isSome = true ∧ s.hub.flipAfter 2 (time48 5 77 0) = false) := by
  unfold Fetched; decide +kernel

theorem test_hyps_TimedOutputsFollowTheirBase_2 :
    (let s := withHub base0 (fun h => (h.wrN (Reg.TIO_PINp_CFG 4) 0xF07).setCmp 15 { next := some 7 })
     4 ∈ s.hub.cmpPins (s.hub.pinCmp 4) ∧ s.hub.seqUnit (s.hub.pinCmp 4) = false ∧ (s.hub.cmp (s.hub.pinCmp 4)).next.isSome = true) := by decide +kernel

theorem test_hyps_StagingTakesAllOrNothing_2 :
    (let s := got 1 [(16, 4, 2)]
     Fetched s 0 9 1 (dsc 9 1 (flds [(16, 4, 2)])) ∧ s.hub.commit.phase = .idle ∧ ([(Reg.PGg_CTL 0, 2), (3, 0)] : List (Nat × Nat)).length = 2 ∧
      stageable (Reg.PGg_CTL 0) = true ∧ ([(Reg.PGg_CTL 0, 2), (Reg.SCNp_CTL 31, 0)] : List (Nat × Nat)).length = 2) ∧
    (let s := got 1 [(40, 4, 4), (44, 4, tblPatch)]
     Fetched s 0 9 1 (dsc 9 1 (flds [(40, 4, 4), (44, 4, tblPatch)])) ∧ s.hub.commit.tableBad tblPatch 4 = false) ∧
    (let s := got 1 [(40, 4, 4), (44, 4, 0xFFFF0000)]
     Fetched s 0 9 1 (dsc 9 1 (flds [(40, 4, 4), (44, 4, 0xFFFF0000)])) ∧ s.hub.commit.tableBad 0xFFFF0000 4 = true) ∧
    (let s := withHub (got 1 [(16, 4, 2)]) (fun h => { h with commit := { h.commit with writes := List.replicate 65535 (staged 0 0) } })
     s.hub.commit.phase = .idle ∧ 65536 < s.hub.commit.writes.length + 2) ∧
    (let s := committing .pending (got 1 [(16, 4, 2)])
     Fetched s 0 9 1 (dsc 9 1 (flds [(16, 4, 2)])) ∧ s.hub.commit.phase ≠ .idle) ∧
    (let s := committing .pending (got 3 [])
     Fetched s 0 9 3 (dsc 9 3 (flds [])) ∧ s.hub.commit.phase ≠ .idle) ∧
    (let d : Desc := { dsc 9 1 (flds [(40, 4, 4), (44, 4, tblPatch)]) with phase := .moving }
     let s := withHub (withDesc base0 d) (fun h => { h with commit := { h.commit with tables := [{ id := tblPatch, bytes := [1, 2, 3, 4], owner := some (0, 9) }] } })
     s.hub.desc 0 9 = some d ∧ s.hub.commit.phase = .idle) ∧
    (let d : Desc := { dsc 9 1 (flds [(16, 4, 1)]) with phase := .moving }
     let s := committing .checking (withDesc base0 d)
     s.hub.desc 0 9 = some d ∧ s.hub.commit.phase ≠ .idle) := by
  unfold Fetched; decide +kernel

theorem test_hyps_TilesAreSentToAndReport_3 :
    (let s := portOn { tilePort with q1 := [sendFrame 2] }
     HearsTile s 5 1 ∧ (s.hub.port 5).q1 = [sendFrame 2] ∧ s.hub.heldQ 5 1 = false ∧ s.hub.f (Reg.NSHn_PROTO 5) 12 8 ≤ (sendFrame 2).tries) ∧
    (let s := withHub (portOn { tilePort with flips := [{ frame := 70000, whole := [1] }], measuring := true, stamped := [(3, 100)] }) (fun h => { h with
        commit := { h.commit with censuses := [{ sq := 0, tag := 9, mask := 32, dest := 0, epoch := 6, seconds := 0, nanos := 0, down := [], tiles := [(5, 1)], answers := [], endEpoch := 6, endDigest := [] }] } })
     HearsTile s 5 1 ∧ (s.hub.tile 5 1).upSeq = none ∧ digestLayout ([1] ++ zeros 23) = true ∧
      reportLayout ([0, 1, 0, 0] ++ leBytes 4 70000 ++ zeros 16) = true ∧ reportLayout ([0, 0, 0, 0] ++ leBytes 4 70000 ++ zeros 16) = true ∧
      faultLayout ([1] ++ zeros 7 ++ leBytes 2 33 ++ [5, 1] ++ zeros 4) = true ∧
      s.hub.fifoLoses (stampFifo 5) = false ∧ echoLayout ([1, 3, 0] ++ zeros 29) = true ∧ byteAt ([1, 3, 0] ++ zeros 29) 2 = s.hub.endOf s.glob 5 ∧
      (s.hub.port 5).stamped.find? (fun e => e.1 == byteAt ([1, 3, 0] ++ zeros 29) 1) = some (byteAt ([1, 3, 0] ++ zeros 29) 1, 100) ∧ Sparse.get [] (s.hub.port 5).rounds 1 = []) := by
  unfold HearsTile; decide +kernel

theorem test_hyps_TimeStepsOnlyAsAsked_2 :
    (let s := withDesc (withBase 3 { t48 := time48 100 500 3 }) (timeSet 3 200 1000000000)
     NoRun s ∧ Fetched s 0 9 0x60 (timeSet 3 200 1000000000)) ∧
    (let s := withDesc (withBase 3 { t48 := time48 100 500 3, deferred := some (1, 2) }) (timeSet 3 200 0)
     NoRun s ∧ Fetched s 0 9 0x60 (timeSet 3 200 0) ∧ (s.hub.base 3).deferred ≠ none) := by
  unfold Fetched NoRun; decide +kernel

theorem test_hyps_PtpSelectsAndMeasures_2 :
    let on := fun (s : Machine.State) => withHub s (fun h => (((h.wrN (Reg.NETn_CTL 3) 25).setSub 3 0 { link := true }).wrN (Reg.NETn_CTL 0) 25).setSub 0 0 { link := true })
    (let s := on (ptp 0 {})
     s.hub.netUp 3 0 = true ∧ (List.range 3).find? (fun t => s.hub.ptpServes t 3 5 false) = some 1 ∧ (s.hub.base 1).rivals = [] ∧
      s.hub.ptpMaster 1 0 = false ∧ s.hub.ptpPeer 1 = false ∧ s.hub.netUp 0 0 = true ∧ s.hub.fifoLoses 4 = false) ∧
    (let s := on (ptp 0 { state := .locked, slaveValid := true, slavePort := 3 })
     s.hub.netUp 3 0 = true ∧ (s.hub.base 1).jumpedAt ≠ some s.hub.clock ∧ (s.hub.base 1).deferred = none ∧ s.hub.saddle.role ≠ .standby) ∧
    (let s := on (ptp 2 { state := .locked })
     s.hub.netUp 3 0 = true ∧ s.hub.ptpMaster 1 3 = true ∧ s.hub.ptpPeer 1 = false) ∧
    (ptp 0 {}).hub.netUp 3 0 = false := by decide +kernel

theorem test_hyps_ServicesAndJtagReachSecureState_2 :
    (let s := service 0xA1 6 (fun s => { withDesc s { workPost 1 0xA1 with phase := .waiting } with mem := { s.mem with tags := [(0x40, { poison := true })] } })
     s.hub.serviceItem 2 0xA1 = some (serviceOf 0xA1 6) ∧ s.mem.poisoned 0x1000 32 = true ∧ s.hub.fwu.inTrial = false ∧ s.hub.inDram 0x1000 32 = true ∧
      (s.hub.desc 0 9).isSome = true) ∧
    (let s := service 0xA2 6 (fun s => withHub s (fun h => { h with fwu := { h.fwu with boot1 := BootRec.sealed { seq := 1, trial := true } } }))
     s.hub.serviceItem 2 0xA2 = some (serviceOf 0xA2 6) ∧ s.hub.fwu.inTrial = true) ∧
    (let s := service 0xA3 3 (fun s => withHub s (fun h => { h with fwu := { h.fwu with images := [(0, List.replicate 4096 3)] } }))
     s.hub.serviceItem 2 0xA3 = some (serviceOf 0xA3 3) ∧ 3 = imgKey s.hub.fwu.running ∧ s.hub.fwu.running ≠ []) ∧
    (let s := service 0xA3 2 (fun s => { s with glob := { s.glob with otp := { keyHash2 := 1 } } })
     s.hub.serviceItem 2 0xA3 = some (serviceOf 0xA3 2) ∧ s.glob.otp.goodKeys = [2]) ∧
    (0x3000000 < 0x2FFFFFD + 4 ∧ sramHeld 0x2FFFFF8 4 = false ∧ base0.hub.inDram 0x4000000000 4 = false ∧
      base0.hub.blocksOpen base0.mem true true 64 4 ≠ []) := by decide +kernel

theorem test_hyps_StandbyFollowsAndIsGoverned_2 :
    (let s := follower { role := .standby }
     let n := s.hub.digestAfter
     s.hub.setInFlight = false ∧ padTo 8 n = n) ∧
    (zeros 32).length = 32 ∧
    (let r : List Byte := [1, 2, 3] ++ zeros 49
     byteAt r 1 % 4 ≠ 3 ∧ byteAt r 2 % 4 = 3) ∧
    (let s := follower { role := .standby, misses := 15 }
     s.hub.f Reg.SDL_CTL 7 4 ≤ min 15 (s.hub.saddle.misses + 1) ∧ s.hub.heard = false) := by decide +kernel

theorem test_hyps_TrialsAreConfirmedOrFail_2 :
    (let s := withDesc (flash runs (fun h => h.wrN Reg.FWU_CTL 1)) (bare 0x52)
     Fetched s 0 9 0x52 (bare 0x52) ∧ s.hub.bit Reg.FWU_CTL 0 = true ∧ s.hub.fwu.inTrial = false) ∧
    (let s := onTrial { failMode := true }
     s.hub.fwu.inTrial = true ∧ s.hub.fwu.op = none ∧ s.hub.fwu.boot.pending = false ∧ s.glob.straps.bootMode % 4 = 0 ∧
      s.hub.fwu.inUse ≠ 0 ∧ s.glob.otp.failMode = true) := by
  unfold Fetched; decide +kernel

theorem test_hyps_NodesJoinAndAreSentTheirData_2 :
    (let s := radio { mesh with rsps := [{ dst := 5, ext := 9, addr := 0xFFFF, status := 4 }] }
     s.hub.odlReceives s.glob 1 = true ∧ (s.hub.odl 1).answers = 1 ∧ (s.hub.odl 1).rsps = [{ dst := 5, ext := 9, addr := 0xFFFF, status := 4 }]) ∧
    (let s := radio { mesh with lease := 2 + 2 ^ 12 * 9, table := [(5, { state := 1, age := 5 }), (6, { state := 2, age := 9 }), (7, { state := 1, age := 4 })] }
     s.hub.odlReceives s.glob 1 = true ∧ 2 * fieldOf (s.hub.odl 1).lease 7 0 + 1 ≤ (s.hub.odlAddr 1 5).age ∧ (s.hub.odlAddr 1 5).state = 1 ∧
      fieldOf (s.hub.odl 1).lease 27 12 ≤ (s.hub.odlAddr 1 6).age ∧ (s.hub.odlAddr 1 6).state = 2 ∧
      (s.hub.odlAddr 1 7).age < 2 * fieldOf (s.hub.odl 1).lease 7 0 + 1 ∧ (s.hub.odlAddr 1 7).age < fieldOf (s.hub.odl 1).lease 27 12) := by
  decide +kernel

theorem test_hyps_SacnMergesAndPublishes_2 :
    (let s := withHub (sacn {}) (fun h => { h with net := { h.net with sacnIn := 4096 } })
     s.hub.sacnOn s.glob 0 0 = true ∧ s.hub.sacnFull = true) ∧
    (sacn {}).hub.sacnFull = false := by decide +kernel

/-! The words of Table 13.6, written out from the fields of the X format. -/

theorem test_decode_x :
    decodeX 5 0 0xFCA60001 = some (.wget 5 5 6 0 cleanFetch) ∧ decodeX 5 0 0xFC050002 = some (.wdone 5 5 0 cleanFetch) ∧
    decodeX 5 0 0xFCE00005 = some (.cntrd 5 7 0 false cleanFetch) ∧ decodeX 5 0 0xFC000009 = some (.eret 5 cleanFetch) ∧
    decodeX 5 0 0xFC010009 = none ∧ decodeX 5 0 0xFC00000E = none ∧ decodeX 5 0 0xF8000009 = none := by decide +kernel

/-! Witnesses of the further clauses. -/

theorem test_hyps_FetchTakesUpTheNextDescriptor_4 :
    (let s := withDesc (flash runs) (stage 2047 0)
     Fetched s 0 9 0x50 (stage 2047 0) ∧ s.hub.fwStageStatus s.glob (stage 2047 0) = some Status.invalid) ∧
    (let s := withDesc (flash runs) (stage 4096 0)
     Fetched s 0 9 0x50 (stage 4096 0) ∧ s.hub.fwStageStatus s.glob (stage 4096 0) = none ∧ s.hub.fwu.boot.pending = false) ∧
    (let s := withDesc base0 (framePost 0x400040 8)
     s.hub.dramRefused s.mem (framePost 0x400040 8).secure true (framePost 0x400040 8).postDest ((([1, 2, 3] : List Byte).take 8).length) = none) := by
  unfold Fetched; decide +kernel

theorem test_hyps_RegisterWritesReachTheirFields_2 :
    (ringOn.hub.allows ringOn.glob .host (Reg.SQn_EPOCH 0) = true ∧ ringOn.hub.bit (Reg.SQn_CTL 0) 0 = true) ∧
    (base0.hub.allows base0.glob .host (Reg.SQn_EPOCH 63) = true ∧ base0.hub.bit (Reg.SQn_CTL 63) 0 = false ∧
      0 % 65536 = base0.hub.f (Reg.SQn_EPOCH 63) 15 0) ∧
    (sizeOk 1 = false ∧ bitOf 1 0 = true) ∧
    (ringOn.hub.allows ringOn.glob .host (Reg.CQn_CTL 0) = true ∧ ringOn.hub.bit (Reg.CQn_CTL 0) 0 = true ∧ bitOf 0 0 = false ∧
      ringOn.hub.cqInUse 0 = true) ∧
    (match base0.hub.accessAt base0.glob .host (Reg.INT_VEC_CTLv 63) with
      | .ok d _ _ => decide (d.cls = .f ∧ d.id ∈ plainF)
      | _ => false) = true := by decide +kernel

theorem test_hyps_VectorsSendTheirMessage_2 :
    (vecs.hub.serving .int = true ∧ vecs.hub.holdoffOver 3 = true ∧ vecs.hub.holdoffOver 2 = true) ∧
    (let s := withHub vecs (fun h => h.setVec 9 { pba := true, data := 4, mask := false })
     s.hub.rings.msixEn = true ∧ s.hub.rings.fmask = false ∧ (s.hub.vec 9).mask = false ∧ (s.hub.vec 9).pba = true ∧ s.hub.holdoffOver 9 = true) ∧
    (let s := withHub vecs (fun h => { h with rings := { h.rings with fmask := true } })
     s.hub.rings.fmask = true ∧ (s.hub.vec 3).armed = true ∧ s.hub.asserted 3 = true) ∧
    ((vecs.hub.vec 9).pba = false ∧ ((withHub vecs (fun h => h.setVec 9 { armed := false })).hub.vec 9).armed = false) ∧
    (let s := withHub vecs (fun h => { h with power := { h.power with isolated := [.int] } })
     s.hub.serving .int = false) ∧
    (let s := withHub vecs (fun h => (h.wrN (Reg.INT_VEC_CTLv 3) 255).setVec 3 { h.vec 3 with lastMsg := some h.clock })
     s.hub.holdoffOver 3 = false) := by decide +kernel

theorem test_hyps_HostRegionResetKeepsTheShow : (committing .pending).hub.commit.phase = .pending := by decide +kernel

theorem test_hyps_PtpSelectsAndMeasures_3 :
    let on := fun (s : Machine.State) (x : NetSub) => withHub s (fun h => (h.wrN (Reg.NETn_CTL 3) 25).setSub 3 0 { x with link := true })
    let ds : List Nat := [1, 6, 0, 0, 1, 4, 0]
    let w : Q7Frame := { t := 1, m := .followUp, l2 := false, seq := 3, stamp := 5 }
    (let r : PtpMaster := { port := 3, src := 8, set := ds, heard := 0, qual := false }
     let s := on (ptp 0 { rivals := [r] }) {}
     s.glob.safe = false ∧ s.hub.netUp 3 0 = true ∧ (List.range 3).find? (fun t => s.hub.ptpServes t 3 5 false) = some 1 ∧
      s.hub.f (Reg.TBt_PTP 1) 6 5 = 0 ∧ (s.hub.base 1).master = none ∧ (s.hub.base 1).rivals = [r] ∧ r.port = 3 ∧ r.src = 8 ∧
      s.hub.clock ≤ r.heard + 4 * s.hub.announceCycles 1) ∧
    (let s := on (ptp 2 { state := .locked }) { q7 := [w] }
     s.glob.safe = false ∧ s.hub.netUp 3 0 = true ∧ s.hub.f (Reg.TBt_CTL 1) 1 0 = 1 ∧ s.hub.bit (Reg.TBt_PTP 1) 3 = true ∧
      s.hub.fifoLoses 4 = false ∧ s.hub.ptpMaster 1 3 = true ∧ (s.hub.subPort 3 0).q7 ≠ [] ∧ (s.hub.subPort 3 0).q7.length < 64 ∧
      (s.hub.subPort 3 0).q7 = w :: [] ∧ w.m = .followUp) ∧
    (let s := on (ptp 2 { state := .locked }) {}
     (s.hub.subPort 3 0).q7 = [] ∧ (s.hub.subPort 3 0).sentAt ≠ some s.hub.clock ∧ s.hub.ptpMaster 1 3 = true) ∧
    (let s := on (ptp 0 {}) {}
     (s.hub.subPort 3 0).q7 = [] ∧ s.hub.ptpMaster 1 3 = false ∧ s.hub.ptpPeer 1 = false ∧ s.hub.netUp 3 0 = true) ∧
    (on (ptp 2 {}) { q7 := List.replicate 64 w }).hub.netUp 3 0 = true ∧
    ((on (ptp 2 {}) { q7 := List.replicate 64 w }).hub.subPort 3 0).q7.length = 64 := by decide +kernel

theorem test_hyps_FixturesTickOnTheGrid_2 :
    (let q : QFrame := { type := 8, dest := 7, payload := [1, 3, 2, 0] ++ zeros 16 ++ leBytes 2 2 ++ leBytes 2 3 ++ [7, 8, 9], owner := .fix 0 }
     let s := fixed { held := [(5, q)] }
     s.hub.serving (.nsh 5) = true ∧ s.hub.originates 5 = true ∧ s.hub.fix.held = [(5, q)] ∧ q.owner = .fix 0 ∧ q.type = 8 ∧ q.dest < 128) := by
  decide +kernel

theorem test_hyps_ExceptionsEnterTheHandler_2 :
    wordLegal 0xFC00000E = false ∧ wordLegal 0x00000001 = false ∧ wordLegal 0 = true ∧ wordLegal 0xFC000009 = true := by decide +kernel

theorem test_hyps_ItemsArePostedGrantedAndReturned_3 :
    (let s := levels [item 7 2 (.waiting 3)] (workPost 2 1) (fun h => { h with col := { h.col with grants := (50, 2), returns := (50, 2) } })
     s.hub.serving .col = true ∧ hadBoth s.hub.clock s.hub.col.grants = true ∧ hadBoth s.hub.clock s.hub.col.returns = true) ∧
    (3 : Nat) ∈ ({ cells := [3, 3 + 256] } : LineErr).broken := by decide +kernel

theorem test_hyps_PairControlAnswersOrWaits_4 :
    (let s := withDesc (paired { role := .active, link := true, pRole := 2, pHealth := 2 } true) (pairOp 3)
     Fetched s 0 9 0x90 (pairOp 3) ∧ s.glob.straps.pairId = true ∧ s.hub.serving .sdl = true) ∧
    (let s := withDesc (paired { role := .active, link := true, pRole := 2, pHealth := 2 } true) (pairOp 4)
     Fetched s 0 9 0x90 (pairOp 4) ∧ s.glob.straps.pairId = true) := by
  unfold Fetched; decide +kernel

/-- While SDL has faulted every action ends ABORTED; a hub that joins a pair as its second member; requests that are a CONFLICT. -/
theorem test_hyps_PairControlAnswersOrWaits_5 :
    (let s := withDesc (paired { role := .standby, link := true } false (fun h => { h with power := { h.power with reported := [.sdl] } })) (pairOp 3)
     Fetched s 0 9 0x90 (pairOp 3) ∧ s.hub.serving .sdl = false) ∧
    (let s := withDesc (paired { role := .active, link := true } false (fun h => { h with power := { h.power with isolated := [.sdl] } })) (pairOp 4)
     Fetched s 0 9 0x90 (pairOp 4) ∧ s.hub.serving .sdl = false) ∧
    (let s := withDesc (paired { role := .unpaired, link := true, pRole := 2 }) (pairOp 1)
     Fetched s 0 9 0x90 (pairOp 1) ∧ s.hub.serving .sdl = true ∧ s.hub.saddle.pRole = 2) ∧
    (let s := withDesc (paired { role := .unpaired }) (pairOp 4)
     Fetched s 0 9 0x90 (pairOp 4) ∧ s.hub.saddle.role = .unpaired) := by
  unfold Fetched; decide +kernel

theorem test_hyps_SaddleLinkCarriesItsSession_2 :
    (let s := paired { link := true, rx := 7, discards := 3 }
     s.hub.saddle.link = true ∧ s.hub.serving .sdl = true ∧ 6 < s.hub.saddle.rx ∧ s.hub.saddle.rx ≤ 7 ∧ s.hub.saddle.discards < 15) ∧
    (let s := paired { link := true, rx := 7, discards := 15 } false (fun h => { h with power := { h.power with isolated := [.sdl] } })
     s.hub.saddle.link = true ∧ s.hub.serving .sdl = false ∧ 6 < s.hub.saddle.rx ∧ 15 ≤ s.hub.saddle.discards) := by decide +kernel

theorem test_hyps_StandbyFollowsAndIsGoverned_3 :
    (let s := follower { role := .standby } (fun h => h.wrN (Reg.SCNp_CTL 5) 0)
     s.hub.saddle.link = true ∧ s.hub.saddle.role = .standby ∧ s.hub.chainKind 5 = 1 ∧ s.hub.pipeOn 5 = false) ∧
    (let s := follower { role := .standby } (fun h => { h with commit := { h.commit with phase := .pending, owner := some (3, 7) } })
     s.hub.setInFlight = true ∧ s.hub.commit.owner ≠ none) ∧
    (let s := follower { role := .standby }
     s.hub.serving .sdl = true ∧ (8 ≠ 5 ∨ byteAt ([1, 3] : List Byte) 0 ≠ 0)) := by decide +kernel

theorem test_hyps_FlashStagesAndActivates_3 :
    (let s := withDesc (flash { runs with phase := .recovery, boot1 := BootRec.sealed { seq := 1, pending := true } }) (bare 0x51)
     Fetched s 0 9 0x51 (bare 0x51) ∧ s.hub.fwu.op = none ∧ s.hub.fwu.boot.pending = true ∧ s.hub.fwu.phase = .recovery) := by
  unfold Fetched; decide +kernel

theorem test_hyps_TrialsAreConfirmedOrFail_3 :
    (let s := withDesc (flash { runs with op := some ⟨0, 3, true⟩ }) (bare 0x52)
     Fetched s 0 9 0x52 (bare 0x52) ∧ s.glob.safe = false ∧ s.hub.fwu.op.isSome = true) ∧
    (let s := onTrial { keyHash0 := imageKey }
     s.hub.fwu.inTrial = true ∧ s.hub.trialRun < 600 * 400000000) ∧
    (let s := onTrial { failMode := true } (fun h => { h with clock := 600 * 400000000 })
     s.hub.fwu.inTrial = true ∧ 600 * 400000000 ≤ s.hub.trialRun ∧ s.hub.fwu.op = none ∧ s.hub.fwu.boot.pending = false ∧
      s.glob.straps.bootMode % 4 = 0 ∧ s.hub.fwu.inUse ≠ 0 ∧ s.glob.otp.failMode = true) ∧
    (let s := onTrial { keyHash0 := imageKey } (fun h => { h with clock := 600 * 400000000 })
     600 * 400000000 ≤ s.hub.trialRun ∧ s.hub.fwu.inTrial = true) := by
  unfold Fetched; decide +kernel

theorem test_hyps_CairnWritesReadsAndClearsItsLogs_3 :
    (let s := withDesc (logs { clearing := some (0, 0) }) (logClear 0 0 0 true)
     Fetched s 0 9 0x41 (logClear 0 0 0 true) ∧ (logClear 0 0 0 true).op 16 1 ≤ 1 ∧ (logClear 0 0 0 true).secure = true ∧ s.hub.clearRuns = true ∧
      writableF s (.engine 3) Reg.CRN_CLR = true) ∧
    (let s := withDesc (logs { clearing := some (0, 0) }) (logClear 1 224 64 false)
     Fetched s 0 9 0x41 (logClear 1 224 64 false) ∧ s.hub.clearRuns = true) ∧
    (let s := withDesc (logs { recs := [recOf 3 5, recOf 4 0x0701], clearing := some (0, 0) } (fun h => { h with clock := 4 })) (logClear 1 0 0 true)
     Fetched s 0 9 0x41 (logClear 1 0 0 true) ∧ (logClear 1 0 0 true).op 16 1 = 1 ∧ s.hub.clearRuns = false ∧ s.hub.recsNow = 0 ∧
      s.hub.cairn.recs.length < 4096) ∧
    (logs {}).hub.recsNow = 0 := by
  unfold Fetched; decide +kernel

theorem test_hyps_ServicesAndJtagReachSecureState_3 :
    (let s := service 0xA1 6 (fun s => withHub s (fun h => { h with fwu := { h.fwu with set0 := Settings.sealed { seq := 1 } } }))
     s.hub.fwu.newest.valid = true ∧ s.hub.recsNow = 0) := by decide +kernel

/-- Each service ends the item that a descriptor of the host waits for. -/
theorem test_hyps_ServicesAndJtagReachSecureState_4 :
    (let w := fun s => withDesc s { workPost 1 0xA1 with phase := .waiting }
     let tr := fun s => withHub s (fun h => { h with fwu := { h.fwu with boot1 := BootRec.sealed { seq := 1, trial := true } } })
     (service 0xA1 6 (fun s => tr (w s))).hub.serviceItem 2 0xA1 = some (serviceOf 0xA1 6) ∧ ((service 0xA1 6 (fun s => tr (w s))).hub.desc 0 9).isSome = true) ∧
    (let s := service 0xA2 6 (fun s => withHub (withDesc s { workPost 1 0xA2 with phase := .waiting }) (fun h => { h with fwu := { h.fwu with boot1 := BootRec.sealed { seq := 1, trial := true } } }))
     s.hub.serviceItem 2 0xA2 = some (serviceOf 0xA2 6) ∧ s.hub.fwu.inTrial = true ∧ (s.hub.desc 0 9).isSome = true) ∧
    (let s := service 0xA2 6 (fun s => withDesc s { workPost 1 0xA2 with phase := .waiting })
     s.hub.serviceItem 2 0xA2 = some (serviceOf 0xA2 6) ∧ (s.hub.desc 0 9).isSome = true) ∧
    (let s := service 0xA3 4 (fun s => withDesc s { workPost 1 0xA3 with phase := .waiting })
     s.hub.serviceItem 2 0xA3 = some (serviceOf 0xA3 4) ∧ (s.hub.desc 0 9).isSome = true) ∧
    (let s := service 0xA3 3 (fun s => withHub (withDesc s { workPost 1 0xA3 with phase := .waiting }) (fun h => { h with fwu := { h.fwu with images := [(0, List.replicate 4096 3)] } }))
     s.hub.serviceItem 2 0xA3 = some (serviceOf 0xA3 3) ∧ 3 = imgKey s.hub.fwu.running ∧ s.hub.fwu.running ≠ [] ∧ (s.hub.desc 0 9).isSome = true) ∧
    (let s := service 0xA3 2 (fun s => { withDesc s { workPost 1 0xA3 with phase := .waiting } with glob := { s.glob with otp := { keyHash2 := 1 } } })
     s.hub.serviceItem 2 0xA3 = some (serviceOf 0xA3 2) ∧ s.glob.otp.goodKeys = [2] ∧ (s.hub.desc 0 9).isSome = true) ∧
    (let s := service 0xA3 2 (fun s => { withDesc s { workPost 1 0xA3 with phase := .waiting } with glob := { s.glob with otp := { keyHash0 := 1, keyHash1 := 1, keyHash2 := 1 } } })
     s.hub.serviceItem 2 0xA3 = some (serviceOf 0xA3 2) ∧ s.glob.otp.goodKeys ≠ [2] ∧ (s.hub.desc 0 9).isSome = true) := by decide +kernel

/-- A state with the block of DRAM at `a` poisoned. -/
def poisonAt (s : State) (a : Nat) : State := { s with mem := { s.mem with tags := [(a / 64, { poison := true })] } }
theorem poisonAt_hub (s : State) (a : Nat) : (poisonAt s a).hub = s.hub := rfl
theorem poisonAt_glob (s : State) (a : Nat) : (poisonAt s a).glob = s.glob := rfl
theorem poisonAt_anyPoison (s : State) (a : Nat) : (poisonAt s a).mem.anyPoison = true := rfl
theorem poisonAt_poisoned (s : State) (a : Nat) {n : Nat} (hn : 0 < n) : (poisonAt s a).mem.poisoned a n = true := by
  have h : (Sparse.get {} (poisonAt s a).mem.tags (a / 64)).poison = true := by simp [poisonAt, Sparse.get]
  simp only [Memory.poisoned, Memory.blocksOf, Nat.ne_of_gt hn, if_false, List.any_map, List.any_eq_true, List.mem_range]
  exact ⟨0, by omega, by simpa using h⟩

/-- A table in force, or one that is staged, of which the first block reads poisoned is spoilt. -/
theorem tableSpoilt_poisonAt {s : State} {id a : Nat} (h : 0 < (s.hub.table id).length)
    (ha : s.hub.tableArea + tablePlace id (Sparse.get false s.hub.commit.slots id) = a) :
    (poisonAt s a).hub.tableSpoilt (poisonAt s a).mem id = true := by
  simp only [poisonAt_hub, Hub.tableSpoilt, Hub.tableBad, h, decide_true, poisonAt_anyPoison, Bool.true_and, ha, Nat.add_zero, poisonAt_poisoned s a h]
theorem stagedSpoilt_poisonAt {s : State} {id a : Nat} (hid : s.hub.stagedIds = [id]) (h : 0 < (s.hub.stagedTable id).length)
    (ha : s.hub.tableArea + tablePlace id (s.hub.commit.freeSlot id) = a) : (poisonAt s a).hub.stagedSpoilt (poisonAt s a).mem = true := by
  simp only [poisonAt_hub, Hub.stagedSpoilt, hid, List.any_cons, List.any_nil, Bool.or_false, poisonAt_anyPoison, Bool.true_and, ha, poisonAt_poisoned s a h]

/-- A set in its check with a universe table staged. -/
def stagedSet : State :=
  withHub (got 2 []) (fun h => { h with commit := { h.commit with phase := .checking, owner := some (0, 9), tables := [{ id := tblUniverse, bytes := List.replicate 64 1, owner := none }] } })

/-- A staged table of which a block reads poisoned, wherever the tables lie, is a fault of the commit engine. -/
theorem test_hyps_CommitIsCheckedThenPending_6 : ∃ s : State,
    s.hub.stagedSpoilt s.mem = true ∧ s.hub.serving .cmt = true ∧ s.hub.isolatedBlock .cmt = false ∧ s.hub.commit.phase = .checking ∧
      s.hub.commit.owner = some (0, 9) := by
  refine ⟨poisonAt stagedSet _, stagedSpoilt_poisonAt (id := tblUniverse) (by decide +kernel) (by decide +kernel) rfl, ?_⟩
  rw [poisonAt_hub]
  decide +kernel

/-- A patch in force of which the first block reads poisoned, wherever the tables lie, is a fault of the fixture engine. -/
theorem test_hyps_FixturesTickOnTheGrid_3 : ∃ s : State, s.hub.tickDue s.glob 2 = true ∧ s.hub.tableSpoilt s.mem tblPatch = true := by
  refine ⟨poisonAt (fixed {}) _, ?_, tableSpoilt_poisonAt (by decide +kernel) rfl⟩
  rw [poisonAt_hub, poisonAt_glob]
  decide +kernel

/-- An image signed with a key of its own, whose last part does not match its HASH. -/
def spoiltImage : List Byte := padTo 4096 (leBytes 4 0x57465A41 ++ leBytes 2 1 ++ leBytes 2 0xA324 ++ [1, 1, 0, 0] ++ leBytes 4 3 ++ leBytes 4 4096 ++ [7] ++ zeros 43 ++
  beBytes 48 0x4f795f5a9f280a2d783cc46d795f618126c7d1cf4f0520d48291415800a9afe9fbf538f8706cbe2f636b336411580b4 ++
  beBytes 96 0x86b80b1e594b33f30f29205053e9dfc0043779049338606ddb1f693f10362889c2fa07f1051f602e5e4180fb9842a92929b75dfb24dd2c72d33442f9032260b07fb3670478bdff509e7b0118f87aa349a0d355184bd9cd775c203481aa06531b ++
  beBytes 96 0x9bd3ace3a417e73f6e33f5f296e97ac80958286a7a73bf507c3616e3d156ecb4b1e6cba91f42a913eee803006402442ff538a785158b9265745ec30c89a8debf059176b5a8255738a18477dc40836b91177c741788dec05b9c833c425e187748 ++
  zeros 208 ++ ((List.range 6).map (fun t => entryOf (t + 1))).flatten ++ leBytes 2 7 ++ zeros 2 ++ leBytes 4 7 ++ leBytes 4 4096 ++ zeros 84)
def spoiltKey : Nat := 0xfb47db63c830bb6c2d4e36dd8fe4efe2fc3480ffbea798ff595e7332511b91d38665f8dc6ed84c2f06f218e7226d0139

theorem spoilt_header : leAt spoiltImage 0 4 = 0x57465A41 ∧ leAt spoiltImage 4 2 = 1 ∧ leAt spoiltImage 6 2 = 0xA324 ∧ byteAt spoiltImage 8 ≤ 1 ∧
    1 ≤ byteAt spoiltImage 9 ∧ imgKey spoiltImage = 0 := by decide +kernel
theorem spoilt_key : ofBe (sha384 (imgPubkey spoiltImage)) = spoiltKey := by decide +kernel
theorem spoilt_signature : ecdsaVerify (imgPubkey spoiltImage) ((spoiltImage.drop 208).take 96) (spoiltImage.take 208) = true := by decide +kernel
theorem spoilt_manifest : sha384 ((spoiltImage.drop 512).take 1536) = (spoiltImage.drop 64).take 48 := by decide +kernel
theorem spoilt_shape : imgShapeOk 64 spoiltImage = true := by decide +kernel

/-- A staged image that passes the early check and of which a part does not match (REASON 0x08). -/
theorem test_hyps_image_spoilt : imgReason { keyHash0 := spoiltKey } 64 true spoiltImage = 0 ∧ imgPartsOk spoiltImage = false := by
  obtain ⟨h1, h2, h3, h4, h5, h6⟩ := spoilt_header
  have hk : spoiltKey ≠ 0 := by decide
  have hr : bitOf 0 0 = false := by decide
  refine ⟨?_, by decide +kernel⟩
  simp [imgReason, h1, h2, h3, h4, h5, h6, hk, hr, Otp.keyHash, spoilt_key, spoilt_signature, spoilt_manifest, spoilt_shape]
theorem test_hyps_FlashStagesAndActivates_4 :
    (let s := withDesc (flash { runs with staging := spoiltImage, bytes := 4096 } id { keyHash0 := spoiltKey }) (bare 0x51)
     Fetched s 0 9 0x51 (bare 0x51) ∧ s.hub.fwu.op = none ∧ s.hub.fwu.staged = true ∧ s.glob.safe = false ∧ s.hub.serving .fwu = true ∧
      s.hub.fwu.inUse = 64 ∧ s.hub.fwu.boot.pending = false) := by
  unfold Fetched; decide +kernel

end Sys2Proof.Tests
end

section
/-! The queue of waiting commands: no state update of a command's meaning writes it. -/

namespace Sys2Proof.Machine

/-! ## The queue after each operation of a state -/

/-- The queue of waiting commands is the same in two states. -/
def QueueKept (s t : State) : Prop := t.pending = s.pending

/-- Where both branches of a choice keep the queue, the choice does. -/
theorem QueueKept.ite {s a b : State} {c : Prop} [Decidable c] (ha : QueueKept s a) (hb : QueueKept s b) :
    QueueKept s (if c then a else b) := by
  split <;> assumption

/-- An operation leaves the queue of waiting commands as it finds it. -/
def LeavesQueue (k : State → State) : Prop := ∀ s, QueueKept s (k s)

theorem LeavesQueue.foldl {α : Type} {f : State → α → State} (hf : ∀ a, LeavesQueue (fun s => f s a)) (l : List α) :
    LeavesQueue (fun s => l.foldl f s) := by
  intro s
  induction l generalizing s with
  | nil => rfl
  | cons a l ih => exact (ih (f s a)).trans (hf a s)

section Wake

@[simp] theorem State.reads_pending (s : State) (errs : List (Nat × ReadError)) : (s.reads errs).pending = s.pending := rfl

@[simp] theorem State.ownLines_pending (s : State) (blk : Block) (b n : Nat) (lines : List (Nat × LineErr)) :
    (s.ownLines blk b n lines).pending = s.pending := rfl

@[simp] theorem State.firmwareLoads_pending (s : State) : s.firmwareLoads.pending = s.pending := by
  unfold State.firmwareLoads; split <;> rfl

@[simp] theorem State.firmwareIn_pending (s : State) : s.firmwareIn.pending = s.pending := by
  unfold State.firmwareIn; split <;> simp

@[simp] theorem wakeUp_pending (code : Nat) (s : State) : (wakeUp code s).pending = s.pending := by
  unfold wakeUp
  simp only [apply_ite State.pending, State.firmwareLoads_pending, ite_self]

@[simp] theorem State.wokenBy_pending (s : State) (code : Nat) : (s.wokenBy code).pending = s.pending := by
  unfold State.wokenBy; split <;> simp

@[simp] theorem State.reachedBy_pending (s : State) (who : Requester) : (s.reachedBy who).pending = s.pending := by
  unfold State.reachedBy; split <;> simp

end Wake

section Memory

@[simp] theorem sramScrubOf_pending (s : State) (w : LineMem) (line : Nat) (err : LineErr) : (sramScrubOf s w line err).pending = s.pending := by
  unfold sramScrubOf; split <;> rfl

@[simp] theorem patrolOf_pending (s : State) (block : Nat) (err : Option ReadError) : (patrolOf s block err).pending = s.pending := by
  unfold patrolOf; split <;> rfl

@[simp] theorem logReadOf_pending (s : State) (q tag : Nat) (lines : List (Nat × LineErr)) : (logReadOf s q tag lines).pending = s.pending := by
  unfold logReadOf
  split
  · rfl
  · simp only [apply_ite State.pending, ite_self]

end Memory

section Show

@[simp] theorem framePostOf_pending (s : State) (q tag : Nat) (data : List Byte) : (framePostOf s q tag data).pending = s.pending := by
  unfold framePostOf
  split
  · rfl
  · split <;> rfl

@[simp] theorem calLoadOf_pending (s : State) (q tag : Nat) (data : List Byte) : (calLoadOf s q tag data).pending = s.pending := by
  unfold calLoadOf
  dsimp only
  split
  · rfl
  · split <;> rfl

@[simp] theorem calCopyDoneOf_pending (s : State) (p : Nat) : (calCopyDoneOf s p).pending = s.pending := by
  unfold calCopyDoneOf; simp only [apply_ite State.pending, ite_self]

@[simp] theorem statInitDoneOf_pending (s : State) (p : Nat) : (statInitDoneOf s p).pending = s.pending := by
  unfold statInitDoneOf; simp only [apply_ite State.pending, ite_self]

@[simp] theorem statSampleOf_pending (s : State) : (statSampleOf s).pending = s.pending := by
  unfold statSampleOf
  dsimp only
  split
  · rfl
  · split
    · split <;> rfl
    · rfl

@[simp] theorem statFoldOf_pending (s : State) (p : Nat) : (statFoldOf s p).pending = s.pending := by
  unfold statFoldOf; simp only [apply_ite State.pending, ite_self]

@[simp] theorem flowPacketOf_pending (s : State) (f path : Nat) (p : FlowPkt) (freed : Nat) :
    (flowPacketOf s f path p freed).pending = s.pending := by
  unfold flowPacketOf
  dsimp only
  split
  · rfl
  · split
    · rfl
    · split
      · rfl
      · split <;> simp only [apply_ite State.pending, ite_self]

@[simp] theorem sendOdata_pending (s : State) (r : Nat) : (sendOdata s r).pending = s.pending := by
  unfold sendOdata
  dsimp only
  split <;> rfl

@[simp] theorem downlinkOf_pending (s : State) (r round : Nat) (tx : OdlTx) : (downlinkOf s r round tx).pending = s.pending := by
  unfold downlinkOf
  dsimp only
  split
  · rfl
  · generalize (if round = 0 then (s.hub.odl r).answers else 0) = answers
    split
    · rfl
    · cases tx <;> simp only [apply_ite State.pending, sendOdata_pending, ite_self]

@[simp] theorem sacnPacketOf_pending (s : State) (n sub : Nat) (p : SacnPkt) : (sacnPacketOf s n sub p).pending = s.pending := by
  unfold sacnPacketOf
  dsimp only
  split
  · rfl
  · split
    · rfl
    · split
      · rfl
      · split <;> simp only [apply_ite State.pending, ite_self]

@[simp] theorem sacnSyncOf_pending (s : State) (n sub addr : Nat) : (sacnSyncOf s n sub addr).pending = s.pending := by
  unfold sacnSyncOf; simp only [apply_ite State.pending, ite_self]

@[simp] theorem sacnSyncTimeoutOf_pending (s : State) (addr : Nat) : (sacnSyncTimeoutOf s addr).pending = s.pending := by
  unfold sacnSyncTimeoutOf; simp only [apply_ite State.pending, ite_self]

@[simp] theorem fixtureTickOf_pending (s : State) (pg : Nat) : (fixtureTickOf s pg).pending = s.pending := by
  unfold fixtureTickOf; simp only [apply_ite State.pending, ite_self]

@[simp] theorem fixHeldReleaseOf_pending (s : State) (j : Nat) : (fixHeldReleaseOf s j).pending = s.pending := by
  unfold fixHeldReleaseOf; simp only [apply_ite State.pending, ite_self]

end Show

section Abort

@[simp] theorem abortOf_pending (s : State) (q tag kind : Nat) (hung : Bool) : (abortOf s q tag kind hung).pending = s.pending := by
  unfold abortOf
  split
  · rfl
  · dsimp only
    split
    · rfl
    · split
      · rfl
      · split
        · rfl
        · split
          · rfl
          · split <;> simp only [apply_ite State.pending, ite_self]

@[simp] theorem blockResetDoneOf_pending (s : State) (kind i units : Nat) : (blockResetDoneOf s kind i units).pending = s.pending := by
  unfold blockResetDoneOf
  split
  · rfl
  · split
    · rfl
    · simp only [apply_ite State.pending, ite_self]

end Abort

section Power

@[simp] theorem powerEntry_pending (s : State) : (powerEntry s).pending = s.pending := by
  unfold powerEntry; simp only [apply_ite State.pending, ite_self]

@[simp] theorem domainOff_pending (d : Nat) (s : State) : (domainOff d s).pending = s.pending := by
  unfold domainOff; simp only [apply_ite State.pending, ite_self]

@[simp] theorem domainRequestOff_pending (d : Nat) (s : State) : (domainRequestOff d s).pending = s.pending := by
  unfold domainRequestOff; simp only [apply_ite State.pending, domainOff_pending, ite_self]

@[simp] theorem domCtlWrite_pending (value : Nat) (s : State) : (domCtlWrite value s).pending = s.pending := by
  unfold domCtlWrite
  refine LeavesQueue.foldl (fun d t => ?_) _ _
  exact .ite rfl (.ite (domainRequestOff_pending d t) (.ite rfl rfl))

@[simp] theorem domBitWrite_pending (who : Requester) (d : Nat) (on : Bool) (s : State) : (domBitWrite who d on s).pending = s.pending := by
  unfold domBitWrite; simp only [apply_ite State.pending, domCtlWrite_pending, ite_self]

@[simp] theorem offPendingRun_pending (s : State) : (offPendingRun s).pending = s.pending := by
  unfold offPendingRun
  refine LeavesQueue.foldl (fun d t => ?_) _ _
  exact domainRequestOff_pending d _

@[simp] theorem pwrCtl_pending (value : Nat) (s : State) : (pwrCtl value s).pending = s.pending := by
  unfold pwrCtl; simp only [apply_ite State.pending, wakeUp_pending, ite_self]

@[simp] theorem coldClear_pending (rstNext : Nat) (porst : Bool) (s : State) : (coldClear rstNext porst s).pending = s.pending := rfl

@[simp] theorem coldBoot_pending (boot lanes : Nat) (pair ramp : Bool) (a b : Nat) (s : State) :
    (coldBoot boot lanes pair ramp a b s).pending = s.pending := by
  unfold coldBoot; simp only [apply_ite State.pending, State.firmwareIn_pending, ite_self]

@[simp] theorem warmReset_pending (cause : Nat) (s : State) : (warmReset cause s).pending = s.pending := by
  unfold warmReset; simp only [apply_ite State.pending, State.firmwareIn_pending, ite_self]

@[simp] theorem trialFails_pending (cause : Nat) (s : State) : (trialFails cause s).pending = s.pending := by
  unfold trialFails; rw [warmReset_pending]

@[simp] theorem fwuReject_pending (reason : Nat) (s : State) : (fwuReject reason s).pending = s.pending := by
  unfold fwuReject; simp only [apply_ite State.pending, trialFails_pending, ite_self]

end Power

section Registers

@[simp] theorem writeClassF_pending (who : Requester) (d : RegDesc) (i off value : Nat) (s : State) :
    (writeClassF who d i off value s).pending = s.pending := by
  unfold writeClassF
  split <;>
    simp only [apply_ite State.pending, warmReset_pending, pwrCtl_pending, domCtlWrite_pending, fwuReject_pending, ite_self]

@[simp] theorem regWrite_pending (who : Requester) (off value : Nat) (s : State) : (regWrite who off value s).pending = s.pending := by
  unfold regWrite
  split <;> simp only [apply_ite State.pending, writeClassF_pending, ite_self]

@[simp] theorem regWrites_pending (who : Requester) (off value k : Nat) (s : State) : (regWrites who off value k s).pending = s.pending := by
  induction k generalizing off value s with
  | zero => rfl
  | succ k ih => rw [regWrites, ih, regWrite_pending]

@[simp] theorem registerWrite_pending (who : Requester) (off value size : Nat) (s : State) :
    (registerWrite who off value size s).pending = s.pending := by
  unfold registerWrite; simp only [apply_ite State.pending, regWrites_pending, ite_self]

@[simp] theorem jtagLine_pending (a : Nat) (line : LineErr) (s : State) : (jtagLine a line s).pending = s.pending := by
  rw [jtagLine]

@[simp] theorem jtagAccess_pending (target : JtagTarget) (write : Option Nat) (errs : List (Nat × ReadError)) (line : LineErr) (s : State) :
    (jtagAccess target write errs line s).pending = s.pending := by
  unfold jtagAccess
  dsimp only
  split
  case h_1 => exact regWrite_pending ..
  case h_5 a v =>
    split
    · rfl
    · split
      · rfl
      · exact jtagLine_pending a line s
  case h_6 a =>
    split
    · rfl
    · split
      · rfl
      · split <;> exact jtagLine_pending a line s
  all_goals rfl

end Registers

section Commit

@[simp] theorem State.bankRead_pending (s : State) (errs : List (Nat × ReadError)) (lines : List (Nat × LineErr)) :
    (s.bankRead errs lines).pending = s.pending := rfl

@[simp] theorem applyFree_pending (ws : List (Nat × Nat)) (s : State) : (applyFree ws s).pending = s.pending := by
  unfold applyFree
  refine LeavesQueue.foldl (fun w t => ?_) ws s
  dsimp only
  split
  · exact .ite (writeClassF_pending ..) rfl
  · rfl

@[simp] theorem setTakesEffect_pending (errs : List (Nat × ReadError)) (s : State) : (setTakesEffect errs s).pending = s.pending := rfl

@[simp] theorem setApplies_pending (errs : List (Nat × ReadError)) (s : State) : (setApplies errs s).pending = s.pending := by
  unfold setApplies; simp

@[simp] theorem applyWhere_pending (come : Instant → Bool) (errs : List (Nat × ReadError)) (s : State) :
    (applyWhere come errs s).pending = s.pending := by
  unfold applyWhere; simp only [apply_ite State.pending, setApplies_pending, State.reads_pending, ite_self]

@[simp] theorem commitApply_pending (errs : List (Nat × ReadError)) (s : State) : (commitApply errs s).pending = s.pending :=
  applyWhere_pending _ errs s

@[simp] theorem frameBegins_pending (pg : Nat) (errs : List (Nat × ReadError)) (act : PartnerAct) (s : State) :
    (frameBegins pg errs act s).pending = s.pending := by
  unfold frameBegins; simp only [apply_ite State.pending, applyWhere_pending, State.reads_pending, ite_self]

@[simp] theorem dmaDone_pending (q tag : Nat) (s : State) : (dmaDone q tag s).pending = s.pending := by
  unfold dmaDone
  split
  · rfl
  · split
    · rfl
    · split <;> simp only [apply_ite State.pending, calLoadDone, ite_self]

@[simp] theorem dmaTimeout_pending (q tag : Nat) (poisoned : List Byte) (s : State) : (dmaTimeout q tag poisoned s).pending = s.pending := by
  unfold dmaTimeout
  split
  · rfl
  · split
    · rfl
    · split <;> rfl

end Commit

/-! ## The instructions of an engine -/

section Engine

@[simp] theorem fetchLine_pending (e : Nat) (err : LineErr) (s : State) : (fetchLine e err s).pending = s.pending :=
  (fetchLine_frame e err s).1

@[simp] theorem engTrap_pending (e cause eaddr : Nat) (s : State) : (engTrap e cause eaddr s).pending = s.pending := by
  rw [engTrap]

@[simp] theorem engDone_pending (e : Nat) (vector : Bool) (f : Engine → Engine) (s : State) : (engDone e vector f s).pending = s.pending := by
  rw [engDone]

@[simp] theorem engJump_pending (e to_ : Nat) (f : Engine → Engine) (s : State) : (engJump e to_ f s).pending = s.pending := by
  rw [engJump]

@[simp] theorem engIssue_pending (e addr dest ev : Nat) (data : LoadData) (s : State) : (engIssue e addr dest ev data s).pending = s.pending := by
  rw [engIssue]

@[simp] theorem engStored_pending (e : Nat) (vector : Bool) (s : State) : (engStored e vector s).pending = s.pending := by
  rw [engStored, engDone_pending]

@[simp] theorem engLost_pending (e : Nat) (s : State) : (engLost e s).pending = s.pending := by
  rw [engLost]

@[simp] theorem engResult_pending (e rd : Nat) (v : Option Word) (s : State) : (engResult e rd v s).pending = s.pending := by
  unfold engResult; split <;> rw [engDone_pending]

@[simp] theorem engRefused_pending (e rd status : Nat) (s : State) : (engRefused e rd status s).pending = s.pending := by
  rw [engRefused, engResult_pending]

theorem leavesQueue_engStep (e : Nat) (regs : List Nat) {k : State → State} (hk : LeavesQueue k) : LeavesQueue (engStep e regs k) :=
  fun s => .ite rfl (.ite (engTrap_pending ..) (hk s))

theorem leavesQueue_engKernel (e : Nat) {k : State → State} (hk : LeavesQueue k) : LeavesQueue (engKernel e k) :=
  fun s => .ite (hk s) (engTrap_pending ..)

theorem leavesQueue_engOrdered (e : Nat) {k : State → State} (hk : LeavesQueue k) : LeavesQueue (engOrdered e k) :=
  fun s => .ite (hk s) rfl

theorem leavesQueue_scalarOf (e : Nat) (i : ScalarInstr) : LeavesQueue (scalarOf e i) := by
  refine leavesQueue_engStep e _ fun s => .ite (engTrap_pending ..) ?_
  cases i <;> exact engResult_pending ..

theorem leavesQueue_branchOf (e : Nat) (i : BranchInstr) : LeavesQueue (branchOf e i) := by
  refine leavesQueue_engStep e _ fun s => ?_
  cases i with
  | cond c rs1 rs2 off =>
    refine .ite ((engJump_pending ..).trans ?_) ((engDone_pending ..).trans ?_) <;> exact QueueKept.ite rfl rfl
  | jal rs1 off => exact engJump_pending ..
  | jalr rd rs1 imm => exact engJump_pending ..

theorem leavesQueue_csrrOf (e rd csr : Nat) : LeavesQueue (csrrOf e rd csr) := by
  refine leavesQueue_engStep e _ fun s => ?_
  split
  · exact engTrap_pending ..
  · exact .ite (engTrap_pending ..) (engResult_pending ..)

theorem leavesQueue_csrwOf (e csr rs1 : Nat) : LeavesQueue (csrwOf e csr rs1) :=
  leavesQueue_engStep e _ fun s => .ite (engTrap_pending ..) (leavesQueue_engKernel e (fun _ => engDone_pending ..) s)

theorem leavesQueue_eretOf (e : Nat) : LeavesQueue (eretOf e) :=
  leavesQueue_engStep e _ (leavesQueue_engKernel e fun _ => engJump_pending ..)

theorem leavesQueue_cntrdOf (e rd n : Nat) (high : Bool) : LeavesQueue (cntrdOf e rd n high) :=
  leavesQueue_engStep e _ fun _ =>
    .ite (engTrap_pending ..) (.ite (engTrap_pending ..) (.ite (engResult_pending ..) (engDone_pending ..)))

theorem leavesQueue_fenceOf (e set : Nat) : LeavesQueue (fenceOf e set) :=
  leavesQueue_engStep e _ fun _ => .ite rfl (engDone_pending ..)

theorem leavesQueue_signalOf (e rs1 : Nat) : LeavesQueue (signalOf e rs1) :=
  leavesQueue_engStep e _ (leavesQueue_engOrdered e fun _ => engDone_pending ..)

@[simp] theorem loadLines_pending (e a n unit off dest ev : Nat) (w : LineMem) (lines : List LineErr) (bytes : Memory → List Byte)
    (f : List Byte → LoadData) (s : State) : (loadLines e a n unit off dest ev w lines bytes f s).pending = s.pending := by
  rw [loadLines, engIssue_pending]

@[simp] theorem loadDram_pending (e a off n dest : Nat) (errs : List (Nat × ReadError)) (f : List Byte → LoadData) (s : State) :
    (loadDram e a off n dest errs f s).pending = s.pending := by
  unfold loadDram
  simp only [apply_ite State.pending, engIssue_pending, engTrap_pending, ite_self]

theorem leavesQueue_loadOf (e : Nat) (op : LoadOp) (rt rb off hi : Nat) (errs : List (Nat × ReadError)) (lines : List LineErr) :
    LeavesQueue (loadOf e op rt rb off hi errs lines) := by
  refine leavesQueue_engStep e _ fun s => ?_
  dsimp only
  split
  · exact engTrap_pending ..
  · split
    · rfl
    · split <;>
        simp only [QueueKept, apply_ite State.pending, loadLines_pending, loadDram_pending, engIssue_pending, engTrap_pending, ite_self]

@[simp] theorem loadAnswer_pending (e k : Nat) (s : State) : (loadAnswer e k s).pending = s.pending := by
  unfold loadAnswer
  split
  · rfl
  · split <;> rfl

@[simp] theorem storeReg_pending (e off value : Nat) (s : State) : (storeReg e off value s).pending = s.pending := by
  unfold storeReg; split <;> simp

theorem leavesQueue_storeOf (e : Nat) (op : StoreOp) (rt rb off hi : Nat) (errs : List (Nat × ReadError)) (lines : List LineErr) :
    LeavesQueue (storeOf e op rt rb off hi errs lines) := by
  refine leavesQueue_engStep e _ fun s => ?_
  dsimp only
  split
  · exact engTrap_pending ..
  · split <;>
      simp only [QueueKept, apply_ite State.pending, storeReg_pending, engStored_pending, engLost_pending, engTrap_pending, ite_self]

theorem leavesQueue_atomicOf (e : Nat) (op : AmoOp) (rd rs1 rs2 hi : Nat) (lines : List LineErr) :
    LeavesQueue (atomicOf e op rd rs1 rs2 hi lines) := by
  refine leavesQueue_engStep e _ fun s => ?_
  extract_lets x a w
  clear_value w
  refine .ite (engTrap_pending ..) ?_
  split
  · refine .ite (engTrap_pending ..) (.ite (engTrap_pending ..) (.ite (engTrap_pending ..) ?_))
    extract_lets r s1
    refine .ite (engTrap_pending ..) ?_
    split <;> exact engDone_pending ..
  · exact engTrap_pending ..

theorem leavesQueue_wgetOf (e rd rs1 rs2 : Nat) : LeavesQueue (wgetOf e rd rs1 rs2) := by
  refine leavesQueue_engStep e _ (leavesQueue_engKernel e fun s => .ite (engTrap_pending ..) ?_)
  split
  · exact engTrap_pending ..
  · rfl

theorem leavesQueue_wdoneOf (e rs1 rs2 : Nat) : LeavesQueue (wdoneOf e rs1 rs2) :=
  leavesQueue_engStep e _ (leavesQueue_engKernel e (leavesQueue_engOrdered e fun _ =>
    .ite (engTrap_pending ..) (.ite rfl (engDone_pending ..))))

theorem leavesQueue_wpostOf (e rd rs1 rs2 : Nat) (lines : List LineErr) : LeavesQueue (wpostOf e rd rs1 rs2 lines) := by
  refine leavesQueue_engStep e _ (leavesQueue_engOrdered e fun s => ?_)
  extract_lets x a
  split
  · exact engTrap_pending ..
  · exact .ite (engTrap_pending ..) (.ite (engRefused_pending ..) (.ite (engRefused_pending ..)
      (.ite (engResult_pending ..) (engRefused_pending ..))))

theorem leavesQueue_wdeferOf (e rd rs1 rs2 : Nat) : LeavesQueue (wdeferOf e rd rs1 rs2) := by
  refine leavesQueue_engStep e _ (leavesQueue_engKernel e (leavesQueue_engOrdered e fun s => .ite (engTrap_pending ..) ?_))
  split
  · exact engRefused_pending ..
  · exact .ite (engResult_pending ..) (engRefused_pending ..)

theorem queueKept_npostCopy (e a n : Nat) (errs : List (Nat × ReadError)) (lines : List LineErr) (s : State) :
    QueueKept s (npostCopy e a n errs lines s).1 := by
  unfold npostCopy
  extract_lets secure
  generalize s.hub.window a n = w
  split
  · split
    · rfl
    · split <;> rfl
  · split
    · rfl
    · split <;> rfl
  · rfl

theorem leavesQueue_npostOf (e rd rs1 rs2 hi : Nat) (errs : List (Nat × ReadError)) (lines : List LineErr) :
    LeavesQueue (npostOf e rd rs1 rs2 hi errs lines) := by
  refine leavesQueue_engStep e _ (leavesQueue_engKernel e (leavesQueue_engOrdered e fun s => ?_))
  refine .ite (engTrap_pending ..) (.ite (engTrap_pending ..) ?_)
  have hr := queueKept_npostCopy e ((s.hub.eng e).addr rs1 0 hi) (fieldOf ((s.hub.eng e).n rs2) 10 0) errs lines s
  generalize npostCopy e _ _ errs lines s = r at hr ⊢
  generalize s.hub.npostStatus _ = status
  obtain ⟨t, frame | ⟨cause, ea⟩⟩ := r
  · cases status with
    | some status => exact engRefused_pending ..
    | none => exact (engResult_pending ..).trans hr
  · cases status with
    | some status => exact engRefused_pending ..
    | none => exact (engTrap_pending ..).trans hr

theorem leavesQueue_vectorOf (e : Nat) (i : VecInstr) : LeavesQueue (vectorOf e i) := by
  refine leavesQueue_engStep e _ fun s => .ite (engTrap_pending ..) ?_
  split
  · exact engTrap_pending ..
  · exact .ite (engDone_pending ..) (.ite (engDone_pending ..) (engDone_pending ..))

end Engine


/-! ## The queue after a command -/

/-- A command completes in no state but one with the same queue. -/
def QueueKeptBy (s : State) (o : Host.Outcome State Fault Refusal) : Prop := ∀ t, o = .next t → QueueKept s t

namespace QueueKeptBy

variable {s : State} {k : State → Host.Outcome State Fault Refusal}

theorem next {t : State} (h : QueueKept s t) : QueueKeptBy s (.next t) := by
  rintro _ ⟨⟩; exact h

theorem ite {c : Prop} [Decidable c] {a b : Host.Outcome State Fault Refusal} (ha : QueueKeptBy s a) (hb : QueueKeptBy s b) :
    QueueKeptBy s (if c then a else b) := by
  split <;> assumption

/-- A wake of the hub before the command leaves the queue too. -/
theorem after {u : State} (hu : QueueKept s u) (hk : ∀ t, QueueKeptBy t (k t)) : QueueKeptBy s (k u) :=
  fun t ht => (hk u t ht).trans hu

theorem reached {who : Requester} (hk : ∀ t, QueueKeptBy t (k t)) : QueueKeptBy s (reached who k s) :=
  after (u := s.reachedBy who) (s.reachedBy_pending who) hk

theorem woken {code : Nat} (hk : ∀ t, QueueKeptBy t (k t)) : QueueKeptBy s (woken code k s) :=
  after (u := s.wokenBy code) (s.wokenBy_pending code) hk

theorem wokenWhen {b : Hub → Bool} {code : Nat} (hk : ∀ t, QueueKeptBy t (k t)) : QueueKeptBy s (wokenWhen b code k s) :=
  after (u := if b s.hub then s.wokenBy code else s) (.ite (s.wokenBy_pending code) rfl) hk

/-- An instruction of an engine acts after its fetch. -/
theorem fetched {f : State → State} (hf : LeavesQueue f) (e : Nat) (fetch : LineErr) : QueueKeptBy s (.next (f (fetchLine e fetch s))) :=
  next ((hf _).trans (fetchLine_pending e fetch s))

end QueueKeptBy

theorem execBlockResetTimeout_queueKeptBy (kind index : Nat) (s : State) : QueueKeptBy s (execBlockResetTimeout kind index s) := by
  unfold execBlockResetTimeout
  split
  · exact .next rfl
  · split <;> exact .next rfl

theorem execSafeStateEntry_queueKeptBy (causes : List Nat) (s : State) : QueueKeptBy s (execSafeStateEntry causes s) := by
  unfold execSafeStateEntry
  split <;> exact .next rfl

theorem execFwuReject_queueKeptBy (who : Requester) (reason : Nat) (s : State) : QueueKeptBy s (execFwuReject who reason s) := by
  refine .reached fun t => .next ?_
  cases who with
  | engine e => exact .ite (fwuReject_pending ..) rfl
  | _ => rfl

theorem exec_queueKeptBy (c : Instr) (s : State) : QueueKeptBy s (exec c s) := by
  cases c
  -- the hub, the memories and the chip's own state change, each by one update of the record
  case cfgStage | cfgCommit | cfgDiscard | cfgRead | census | censusWaitEnd | frameArm | workPost | workCancel | calRead | calMeasure
      | logClear | fwStage | fwActivate | fwConfirm | timeSet | timeAcceptJump | deferredJumpApply | targetQuiesced | abortEscalation
      | tileSend | pairQuery | pairEnable | pairDisable | requestActive | requestStandby | descriptorFetch | hostRegionReset | msixMessage
      | flitCrcError | rootPllLockLost | refclkFailure | ppsSnapshot | sourceLoss | qualityChange | compareFire | ppsOutput | tioPulseEnd
      | roundTripMeasurement | timeBaseSend | netLinkUp | netLinkDown | netPauseHoldEnd | netQueueHoldEvent | flowFrameComplete
      | flowPathTimeout | sacnSourceTimeout | virtualLine | applyLine | flipSend | msrStep | msrRunEnd | trainingStart
      | trainingAttemptTimeout | trainingWaitEnd | nshLinkUp | enumWaitEnd | tilePauseHoldEnd | tileHoldEvent | retryTimeout | rateShift
      | rateShiftComplete | shiftLockTimeout | beaconSend | beaconSfdCapture | assocReq | keepalive | odlFrameReject | nodeAdrift
      | addrLeaseEnd | transceiverRetry | storeErrorResponse | engineImageLoaded | colGrant | talusExpiry | saddleLinkUp | saddleLinkDown
      | saddleKeepalive | armRecordDeadline | heartbeatMiss | setPairingKey | saveSecRegisters | revokeKey | snapshotWrite | recordWrite
      | thermtrip | ptpMessageSend | engineBist | prbsTestBlock | odlSeenFrame =>
    exact .next rfl
  -- an access of a requester, which may wake the hub
  case directWriteRefused | sqCtlWrite | cqCtlWrite | evqCtlWrite | sqEpochWrite | intSrcMapWrite | glbLnkClr | fbArmGo | fbArmClr | msrStop
      | glbNshHint | engineStart | engineStop | fwuReady | crnTrig | crnClrSnap | crnClrRec | pmuFreeze | pmuClrAll | pmuEngineClr
      | pmuSetClr | pmuLoRead | pwrResClr =>
    unfold exec
    exact .reached fun _ => .next rfl
  -- an access of the host through a BAR, and an arrival from outside
  case sqTail | cqHead | evqHead | vecRearm | msixTableWrite =>
    unfold exec
    exact .woken fun _ => .next rfl
  case msixCapabilityWrite | ptpMessageReceive | tioInputEdge | netFrameReceive | pauseFrameReceive | blockLockLoss | lockLossTimeout
      | nshFrameReject | ackReceive | tilePause | identityAnswer | digestAnswer | faultReport | frameReport | measurementAnswer | armRecord
      | mirroredFrame | mirrorReceipt | stateCopy | healthRecord | outputDigest | saddleTimeTransfer | saddleKeepaliveReceive
      | saddlePacketDiscard | standbyEnumRequest | shiftReceive =>
    unfold exec
    exact .wokenWhen fun _ => .next rfl
  case commitNotice =>
    unfold exec
    refine .wokenWhen fun t => .next ?_
    exact QueueKept.ite (s := t) rfl rfl
  -- commit, DMA and the logs
  case commitCheckDone => exact .next rfl
  case commitApply errs => exact .next (commitApply_pending errs s)
  case frameBoundary pg errs act => exact .next (frameBegins_pending pg errs act s)
  case dmaTransferDone q tag errs => exact .next (dmaDone_pending q tag (s.reads errs))
  case dmaReadTimeout q tag data errs => exact .next (dmaTimeout_pending q tag data (s.reads errs))
  case logRead => exact .next (logReadOf_pending ..)
  -- memory, frames, calibration, ingest and fixtures
  case sramScrub => exact .next (sramScrubOf_pending ..)
  case dramPatrolScrub => exact .next (patrolOf_pending ..)
  case framePost q tag data errs => exact .next (framePostOf_pending (s.reads errs) q tag data)
  case calLoad q tag data errs => exact .next (calLoadOf_pending (s.reads errs) q tag data)
  case calCopyDone p errs => exact .next (calCopyDoneOf_pending (s.reads errs) p)
  case statInitDone p errs => exact .next (statInitDoneOf_pending (s.reads errs) p)
  case statSample errs => exact .next (statSampleOf_pending (s.reads errs))
  case statFold p errs => exact .next (statFoldOf_pending (s.reads errs) p)
  case flowPacket =>
    unfold exec
    exact .wokenWhen fun _ => .next (flowPacketOf_pending ..)
  case sacnPacket =>
    unfold exec
    exact .wokenWhen fun t => .next ((sacnPacketOf_pending ..).trans (QueueKept.ite (s := t) rfl rfl))
  case sacnSyncPacket =>
    unfold exec
    exact .wokenWhen fun _ => .next (sacnSyncOf_pending ..)
  case sacnSyncTimeout => exact .next (sacnSyncTimeoutOf_pending ..)
  case fixtureTick => exact .ite (.next rfl) (.next (fixtureTickOf_pending ..))
  case fixHeldRelease n errs => exact .next (fixHeldReleaseOf_pending (s.reads errs) n)
  case downlinkRound r round tx errs => exact .next (downlinkOf_pending (s.reads errs) r round tx)
  -- ABORT and the faults
  case abortEngine q tag hung errs => exact .next (abortOf_pending (s.reads errs) q tag 0 hung)
  case abortRing | abortColLevel | abortPipe | abortPort | abortFlow | abortRadio => exact .next (abortOf_pending ..)
  case blockResetDone kind index units errs => exact .next (blockResetDoneOf_pending (s.reads errs) kind index units)
  case blockResetTimeout kind index => exact execBlockResetTimeout_queueKeptBy kind index s
  case forceSafe =>
    unfold exec
    exact .reached fun _ => .ite (.next rfl) (.next rfl)
  case isolation | isolationTimeout => exact .ite (.next rfl) (.next rfl)
  case safeStateEntry causes => exact execSafeStateEntry_queueKeptBy causes s
  -- registers, power and resets
  case registerWrite =>
    unfold exec
    exact .reached fun _ => .next (registerWrite_pending ..)
  case jtagAccess => exact .next (jtagAccess_pending ..)
  case powerStateEntry => exact .next (powerEntry_pending s)
  case wake code => exact .next (.ite rfl (s.wokenBy_pending code))
  case domainPowerOff | domainPowerOn =>
    unfold exec
    exact .reached fun _ => .next (.ite (domBitWrite_pending ..) rfl)
  case pwrCtlWrite =>
    unfold exec
    exact .reached fun _ => .next (.ite (pwrCtl_pending ..) rfl)
  case thermalSample => exact .next (.ite (s.wokenBy_pending 7) rfl)
  case coldReset => exact .next (coldBoot_pending ..)
  case porstLow => exact .next (.ite rfl (coldClear_pending 1 true s))
  case supplyDroop => exact .next (coldClear_pending 0 false s)
  case warmReset =>
    unfold exec
    exact .reached fun _ => .next (.ite (warmReset_pending ..) (.ite (warmReset_pending ..) rfl))
  case trialTimeout => exact .next (.ite (trialFails_pending ..) rfl)
  case fwuReject who reason => exact execFwuReject_queueKeptBy who reason s
  case flashOperationDone => exact .next (.ite (State.firmwareIn_pending _) rfl)
  -- the instructions of an engine
  case scalarAlu e ins fetch => exact .fetched (leavesQueue_scalarOf e ins) e fetch
  case branch e ins fetch => exact .fetched (leavesQueue_branchOf e ins) e fetch
  case load e op rt rb off hi errs lines fetch => exact .fetched (leavesQueue_loadOf e op rt rb off hi errs lines) e fetch
  case loadResponse => exact .next (loadAnswer_pending ..)
  case store e op rt rb off hi errs lines fetch => exact .fetched (leavesQueue_storeOf e op rt rb off hi errs lines) e fetch
  case atomic e op rd rs1 rs2 hi lines fetch => exact .fetched (leavesQueue_atomicOf e op rd rs1 rs2 hi lines) e fetch
  case vectorOp e ins fetch => exact .fetched (leavesQueue_vectorOf e ins) e fetch
  case wget e rd rs1 rs2 fetch => exact .fetched (leavesQueue_wgetOf e rd rs1 rs2) e fetch
  case wdone e rs1 rs2 fetch => exact .fetched (leavesQueue_wdoneOf e rs1 rs2) e fetch
  case wpost e rd rs1 rs2 lines fetch => exact .fetched (leavesQueue_wpostOf e rd rs1 rs2 lines) e fetch
  case wdefer e rd rs1 rs2 fetch => exact .fetched (leavesQueue_wdeferOf e rd rs1 rs2) e fetch
  case cntrd e rd n high fetch => exact .fetched (leavesQueue_cntrdOf e rd n high) e fetch
  case fence e set fetch => exact .fetched (leavesQueue_fenceOf e set) e fetch
  case csrr e rd csr fetch => exact .fetched (leavesQueue_csrrOf e rd csr) e fetch
  case csrw e csr rs1 fetch => exact .fetched (leavesQueue_csrwOf e csr rs1) e fetch
  case eret e fetch => exact .fetched (leavesQueue_eretOf e) e fetch
  case npost e rd rs1 rs2 hi errs lines fetch => exact .fetched (leavesQueue_npostOf e rd rs1 rs2 hi errs lines) e fetch
  case signal e rs1 fetch => exact .fetched (leavesQueue_signalOf e rs1) e fetch
  case trap e code fetch => exact .fetched (leavesQueue_engStep e [] fun t => engTrap_pending e 9 (code % 1024) t) e fetch
  case bkpt e fetch => exact .fetched (leavesQueue_engStep e [] fun t => engTrap_pending e 10 0 t) e fetch
  case illegalInstruction e word fetch =>
    exact .next (.ite rfl ((leavesQueue_engStep e [] (fun t => engTrap_pending e 1 0 t) _).trans (fetchLine_pending e fetch s)))

/-- Settles O7, by the case split over the commands: each updates the record of the state by fields other than the queue. -/
theorem commandsLeaveTheQueue : Obligations.CommandsLeaveTheQueue := fun c s => exec_queueKeptBy c s

/-- Settles O1: the step unfolds to the command of the front. -/
theorem stepRunsTheFrontCommand : Obligations.StepRunsTheFrontCommand := by
  intro s i rest h
  rw [step, h]

end Sys2Proof.Machine
end

section
/-! Writes of registers: the fields a merge replaces, and what the ring controls, the epochs and the INT source map do with a write. -/

namespace Sys2Proof.Machine

/-! ## Replacing the fields of a mask -/

/-- Numbers without a common bit add without a carry. -/
theorem add_eq_or_of_and_eq_zero {a b : Nat} (h : a &&& b = 0) : a + b = a ||| b := by
  have hlt : a + b < 2 ^ (a + b) := Nat.lt_two_pow_self
  have hor : a ||| b < 2 ^ (a + b) := Nat.or_lt_two_pow (by omega) (by omega)
  have hbv := BitVec.add_eq_or_of_and_eq_zero (BitVec.ofNat (a + b) a) (BitVec.ofNat (a + b) b) (by
    rw [← BitVec.ofNat_and, h])
  rw [← BitVec.ofNat_add, ← BitVec.ofNat_or] at hbv
  have hn := congrArg BitVec.toNat hbv
  rwa [BitVec.toNat_ofNat, BitVec.toNat_ofNat, Nat.mod_eq_of_lt hlt, Nat.mod_eq_of_lt hor] at hn

theorem sub_and_eq_ldiff (a m : Nat) : a - (a &&& m) = Nat.ldiff a m := by
  have hsplit : a = Nat.ldiff a m ||| (a &&& m) := Nat.eq_of_testBit_eq fun k => by
    rw [Nat.testBit_or, Nat.testBit_ldiff, Nat.testBit_and]
    cases a.testBit k <;> cases m.testBit k <;> rfl
  have hdisj : Nat.ldiff a m &&& (a &&& m) = 0 := Nat.eq_of_testBit_eq fun k => by
    rw [Nat.testBit_and, Nat.testBit_ldiff, Nat.testBit_and, Nat.zero_testBit]
    cases a.testBit k <;> cases m.testBit k <;> rfl
  have hsum := add_eq_or_of_and_eq_zero hdisj
  omega

theorem testBit_mergeRw (old new m k : Nat) : (mergeRw old new m).testBit k = if m.testBit k then new.testBit k else old.testBit k := by
  have hdisj : Nat.ldiff old m &&& (new &&& m) = 0 := Nat.eq_of_testBit_eq fun j => by
    rw [Nat.testBit_and, Nat.testBit_ldiff, Nat.testBit_and, Nat.zero_testBit]
    cases m.testBit j <;> simp
  rw [mergeRw, sub_and_eq_ldiff, add_eq_or_of_and_eq_zero hdisj, Nat.testBit_or, Nat.testBit_ldiff, Nat.testBit_and]
  cases m.testBit k <;> simp

/-! ## Fields written -/

theorem Hub.n_wrN_same (h : Hub) (off v : Nat) : (h.wrN off v).n off = v % 2 ^ 32 := by
  rw [Hub.n, Hub.rd_wrN, if_pos rfl, BitVec.toNat_ofNat]

/-- A register that takes a value with the bits of a mask from a write and the others as they stood. -/
theorem fieldsWritten_wrN {h : Hub} {off mask value w : Nat}
    (hw : ∀ k, k < 32 → w.testBit k = if mask.testBit k then value.testBit k else (h.n off).testBit k) :
    FieldsWritten off mask value h (h.wrN off w) := by
  constructor
  · intro o ho
    exact Hub.rd_wr_ne h off o _ fun he => ho (by simp [he])
  · intro k hk
    rw [Hub.n_wrN_same, Nat.testBit_mod_two_pow, hw k hk]
    simp [hk]

theorem fieldsWritten_mergeRw (h : Hub) (off mask value : Nat) :
    FieldsWritten off mask value h (h.wrN off (mergeRw (h.n off) value mask)) :=
  fieldsWritten_wrN fun _ _ => testBit_mergeRw ..

/-- An empty mask leaves every register as it is. -/
theorem fieldsWritten_zero (h : Hub) (off value : Nat) : FieldsWritten off 0 value h h :=
  ⟨fun _ _ => rfl, fun k _ => by simp⟩

/-- The fields written are those of the registers alone. -/
theorem FieldsWritten.of_regs {off mask value : Nat} {h h' h'' : Hub} (hw : FieldsWritten off mask value h h') (hr : h''.regs = h'.regs) :
    FieldsWritten off mask value h h'' := by
  obtain ⟨hkept, hbits⟩ := hw
  constructor
  · intro o ho
    rw [Hub.rd_of_regs _ _ hr, hkept o ho]
  · intro k hk
    rw [Hub.n, Hub.rd_of_regs _ _ hr]
    exact hbits k hk

/-- Of the value written the low 32 bits count. -/
theorem FieldsWritten.of_low {off mask value : Nat} {h h' : Hub} (hw : FieldsWritten off mask (value % 2 ^ 32) h h') :
    FieldsWritten off mask value h h' := by
  obtain ⟨hkept, hbits⟩ := hw
  refine ⟨hkept, fun k hk => ?_⟩
  rw [hbits k hk, Nat.testBit_mod_two_pow]
  simp [hk]

/-! ## The value a ring control takes -/

/-- SIZE of a ring that is enabled is not among the fields that a write replaces (R42). -/
theorem fieldsWritten_ctlValue (h : Hub) (off value : Nat) :
    FieldsWritten off (Nat.ldiff (rwMask off) (if h.bit off 0 then 0x1F00 else 0)) value h (h.wrN off (h.ctlValue off value)) := by
  refine fieldsWritten_wrN fun k _ => ?_
  unfold Hub.ctlValue
  split
  · rw [testBit_putField _ _ _ _ _ (by norm_num), Hub.f, fieldOf, Nat.testBit_mod_two_pow, Nat.testBit_div_two_pow, testBit_mergeRw, Nat.testBit_ldiff,
      show (0x1F00 : Nat) = 2 ^ 8 * (2 ^ 5 - 1) from rfl, Nat.testBit_two_pow_mul, Nat.testBit_two_pow_sub_one]
    by_cases hsize : 8 ≤ k ∧ k ≤ 12
    · obtain ⟨hlo, hhi⟩ := hsize
      have h1 : k - 8 < 5 := by omega
      simp [hlo, hhi, h1]
    · have h1 : k < 8 ∨ 5 ≤ k - 8 := by omega
      simp [hsize, h1]
  · rw [testBit_mergeRw, Nat.testBit_ldiff]
    simp

/-! ## Access to the registers -/

/-- The commit class of the register at an offset, and its RW fields. -/
def Reg.classRw (off : Nat) : Option (RegClass × Nat) := (Reg.at off).map fun r => (r.1.cls, r.1.rw)

theorem rwMask_of_classRw {off rw : Nat} {c : RegClass} (h : Reg.classRw off = some (c, rw)) : rwMask off = rw := by
  obtain ⟨⟨d, i, j⟩, hat, hd⟩ := Option.map_eq_some_iff.mp h
  rw [rwMask, hat]
  exact congrArg Prod.snd hd

theorem Hub.accessAt_ok {h : Hub} {g : Glob} {who : Requester} {off i j : Nat} {d : RegDesc} (ha : h.accessAt g who off = .ok d i j) :
    Reg.at off = some (d, i, j) := by
  unfold Hub.accessAt at ha
  split at ha
  case h_1 b d' i' j' hb hat =>
    split at ha
    · cases ha
    · split at ha
      · cases ha
      · cases ha; exact hat
  · cases ha

/-- A class F register takes the write of a requester that may write it. -/
theorem Hub.tryWrite_classF {h : Hub} {g : Glob} {who : Requester} {off rw : Nat} (ha : h.allows g who off = true)
    (hc : Reg.classRw off = some (.f, rw)) (k : Hub → Hub) : h.tryWrite g who off k = k h := by
  unfold Hub.allows at ha
  unfold Hub.tryWrite
  cases hv : h.accessAt g who off with
  | absent => simp [hv] at ha
  | denied => simp [hv] at ha
  | ok d i j =>
    have hd : d.cls = .f := by
      rw [Reg.classRw, Hub.accessAt_ok hv] at hc
      exact congrArg Prod.fst (Option.some.inj hc)
    simp [hd]

theorem classRw_sqCtl : ∀ n, n < 64 → Reg.classRw (Reg.SQn_CTL n) = some (.f, 0xF3F1F03) := by decide +kernel
theorem classRw_cqCtl : ∀ n, n < 64 → Reg.classRw (Reg.CQn_CTL n) = some (.f, 0x1F03) := by decide +kernel
theorem classRw_evqCtl : Reg.classRw Reg.EVQ_CTL = some (.f, 0x1F01) := by decide +kernel
theorem classRw_sqEpoch : ∀ n, n < 64 → Reg.classRw (Reg.SQn_EPOCH n) = some (.f, 0xFFFF) := by decide +kernel
theorem classRw_intSrcMap : ∀ n, n < 128 → Reg.classRw (Reg.INT_SRC_MAPn n) = some (.f, 0x33F) := by decide +kernel

/-- The mask of a ring control without SIZE, where the ring is enabled. -/
theorem fieldsWritten_ctl {h : Hub} {off rw : Nat} (hc : Reg.classRw off = some (.f, rw)) (hsize : rw &&& 0x1F00 = 0x1F00) (value : Nat) :
    FieldsWritten off (rwMask off - (if h.bit off 0 then 0x1F00 else 0)) value h (h.wrN off (h.ctlValue off value)) := by
  have hw := fieldsWritten_ctlValue h off value
  rw [rwMask_of_classRw hc] at hw ⊢
  have hmask : Nat.ldiff rw (if h.bit off 0 then 0x1F00 else 0) = rw - (if h.bit off 0 then 0x1F00 else 0) := by
    split
    · rw [← sub_and_eq_ldiff, hsize]
    · exact Nat.eq_of_testBit_eq fun k => by simp [Nat.testBit_ldiff]
  rwa [hmask] at hw

/-! ## A write of each register -/

theorem exec_sqCtlWrite {s : State} {who : Requester} {n : Nat} (value : Nat) (hq : s.hub.quietTo who = true) (hn : n < 64)
    (ha : s.hub.allows s.glob who (Reg.SQn_CTL n) = true) :
    exec (.sqCtlWrite who n value) s = .next { s with hub := s.hub.sqCtl n value } := by
  rw [show exec (.sqCtlWrite who n value) s = execSqCtlWrite who n value s from rfl, execSqCtlWrite, reached_quiet _ hq, if_pos hn, Hub.tryWrite_classF ha (classRw_sqCtl n hn)]

theorem exec_cqCtlWrite {s : State} {who : Requester} {n : Nat} (value : Nat) (hq : s.hub.quietTo who = true) (hn : n < 64)
    (ha : s.hub.allows s.glob who (Reg.CQn_CTL n) = true) :
    exec (.cqCtlWrite who n value) s = .next { s with hub := s.hub.cqCtl n value } := by
  rw [show exec (.cqCtlWrite who n value) s = execCqCtlWrite who n value s from rfl, execCqCtlWrite, reached_quiet _ hq, if_pos hn, Hub.tryWrite_classF ha (classRw_cqCtl n hn)]

theorem exec_evqCtlWrite {s : State} {who : Requester} (value : Nat) (hq : s.hub.quietTo who = true)
    (ha : s.hub.allows s.glob who Reg.EVQ_CTL = true) :
    exec (.evqCtlWrite who value) s = .next { s with hub := s.hub.evqCtl value } := by
  rw [show exec (.evqCtlWrite who value) s = execEvqCtlWrite who value s from rfl, execEvqCtlWrite, reached_quiet _ hq, Hub.tryWrite_classF ha classRw_evqCtl]

theorem exec_sqEpochWrite {s : State} {who : Requester} {n : Nat} (value : Nat) (hq : s.hub.quietTo who = true) (hn : n < 64)
    (ha : s.hub.allows s.glob who (Reg.SQn_EPOCH n) = true) :
    exec (.sqEpochWrite who n value) s = .next { s with hub := s.hub.sqEpoch n value } := by
  rw [show exec (.sqEpochWrite who n value) s = execSqEpochWrite who n value s from rfl, execSqEpochWrite, reached_quiet _ hq, if_pos hn, Hub.tryWrite_classF ha (classRw_sqEpoch n hn)]

theorem exec_intSrcMapWrite {s : State} {who : Requester} {n : Nat} (value : Nat) (hq : s.hub.quietTo who = true) (hn : n < 128)
    (ha : s.hub.allows s.glob who (Reg.INT_SRC_MAPn n) = true) :
    exec (.intSrcMapWrite who n value) s = .next { s with hub := s.hub.writeRw (Reg.INT_SRC_MAPn n) value } := by
  rw [show exec (.intSrcMapWrite who n value) s = execIntSrcMapWrite who n value s from rfl, execIntSrcMapWrite, reached_quiet _ hq, if_pos hn, Hub.tryWrite_classF ha (classRw_intSrcMap n hn)]

/-- The hub with its own registers, as a hub whose registers are replaced. -/
theorem Hub.writeRw_shape (h : Hub) (off value : Nat) : h.writeRw off value = { h with regs := (h.writeRw off value).regs } := rfl

theorem fieldsWritten_writeRw (h : Hub) (off value : Nat) : FieldsWritten off (rwMask off) value h (h.writeRw off value) :=
  fieldsWritten_mergeRw ..

theorem Hub.sqCtl_enable {h : Hub} {n value : Nat} (hoff : h.bit (Reg.SQn_CTL n) 0 = false) (hen : bitOf value 0 = true) :
    h.sqCtl n value = if sizeOk value then
      (h.wrN (Reg.SQn_CTL n) (h.ctlValue (Reg.SQn_CTL n) value)).setSq n
        { h.sq n with head := 0, tail := 0, cfgErr := false, dbErr := 0, fenced := false }
    else h.setSq n { h.sq n with cfgErr := true } := by
  simp only [Hub.sqCtl, hoff, hen, Bool.not_false, Bool.and_self, if_true]

theorem Hub.sqCtl_other {h : Hub} {n value : Nat} (hno : ¬ (h.bit (Reg.SQn_CTL n) 0 = false ∧ bitOf value 0 = true)) :
    h.sqCtl n value = h.wrN (Reg.SQn_CTL n) (h.ctlValue (Reg.SQn_CTL n) value) := by
  have hc : ¬ (bitOf value 0 && !h.bit (Reg.SQn_CTL n) 0) = true := by simpa [and_comm] using hno
  rw [Hub.sqCtl, if_neg hc]

theorem Hub.cqCtl_enable {h : Hub} {n value : Nat} (hoff : h.bit (Reg.CQn_CTL n) 0 = false) (hen : bitOf value 0 = true) :
    h.cqCtl n value = if sizeOk value then
      (h.wrN (Reg.CQn_CTL n) (h.ctlValue (Reg.CQn_CTL n) value)).setCq n { tail := 0, phase := true, head := 0, used := 0, cfgErr := false }
    else h.setCq n { h.cq n with cfgErr := true } := by
  simp only [Hub.cqCtl, hoff, hen, Bool.not_false, Bool.and_self, if_true]

theorem Hub.cqCtl_inUse {h : Hub} {n value : Nat} (hon : h.bit (Reg.CQn_CTL n) 0 = true) (hdis : bitOf value 0 = false)
    (huse : h.cqInUse n = true) : h.cqCtl n value = h := by
  simp [Hub.cqCtl, hon, hdis, huse]

theorem Hub.cqCtl_other {h : Hub} {n value : Nat} (hno : ¬ (h.bit (Reg.CQn_CTL n) 0 = false ∧ bitOf value 0 = true))
    (hfree : ¬ (h.bit (Reg.CQn_CTL n) 0 = true ∧ bitOf value 0 = false ∧ h.cqInUse n = true)) :
    h.cqCtl n value = h.wrN (Reg.CQn_CTL n) (h.ctlValue (Reg.CQn_CTL n) value) := by
  have hc : ¬ (bitOf value 0 && !h.bit (Reg.CQn_CTL n) 0) = true := by simpa [and_comm] using hno
  have hu : ¬ (!bitOf value 0 && h.bit (Reg.CQn_CTL n) 0 && h.cqInUse n) = true := by simpa [and_assoc, and_left_comm] using hfree
  rw [Hub.cqCtl, if_neg hc, if_neg hu]

theorem Hub.evqCtl_enable {h : Hub} {value : Nat} (hoff : h.bit Reg.EVQ_CTL 0 = false) (hen : bitOf value 0 = true) :
    h.evqCtl value = if sizeOk value then
      { h with
        regs := (h.wrN Reg.EVQ_CTL (h.ctlValue Reg.EVQ_CTL value)).regs
        rings := { h.rings with evq := { h.rings.evq with tail := 0, phase := true, head := 0, used := 0, cfgErr := false, lost := 0 } } }
    else { h with rings := { h.rings with evq := { h.rings.evq with cfgErr := true } } } := by
  simp only [Hub.evqCtl, hoff, hen, Bool.not_false, Bool.and_self, if_true]
  rfl

theorem Hub.evqCtl_other {h : Hub} {value : Nat} (hno : ¬ (h.bit Reg.EVQ_CTL 0 = false ∧ bitOf value 0 = true)) :
    h.evqCtl value = h.wrN Reg.EVQ_CTL (h.ctlValue Reg.EVQ_CTL value) := by
  have hc : ¬ (bitOf value 0 && !h.bit Reg.EVQ_CTL 0) = true := by simpa [and_comm] using hno
  rw [Hub.evqCtl, if_neg hc]

theorem Hub.sqEpoch_kept {h : Hub} {n value : Nat} (hk : h.bit (Reg.SQn_CTL n) 0 = true ∨ value % 65536 = h.f (Reg.SQn_EPOCH n) 15 0) :
    h.sqEpoch n value = h := by
  rw [Hub.sqEpoch]
  split
  · rfl
  · rw [if_pos (hk.resolve_left ‹_›)]

theorem Hub.sqEpoch_changed {h : Hub} {n value : Nat} (hoff : h.bit (Reg.SQn_CTL n) 0 = false)
    (hne : value % 65536 ≠ h.f (Reg.SQn_EPOCH n) 15 0) :
    h.sqEpoch n value = (h.putF (Reg.SQn_EPOCH n) 15 0 value).setSq n { h.sq n with window := [] } := by
  rw [Hub.sqEpoch, if_neg (by simp [hoff]), if_neg hne]

theorem fieldsWritten_putF_low16 (h : Hub) (off value : Nat) : FieldsWritten off 0xFFFF value h (h.putF off 15 0 value) := by
  refine fieldsWritten_wrN fun k _ => ?_
  rw [testBit_putField _ _ _ _ _ (by norm_num), show (0xFFFF : Nat) = 2 ^ 16 - 1 from rfl, Nat.testBit_two_pow_sub_one]
  by_cases hk : k < 16
  · simp [hk, Nat.le_of_lt_succ hk]
  · simp [hk, show ¬ k ≤ 15 by omega]

/-! ## A 32-bit write of a plain register, and a refused form of access -/

theorem writeClassF_plain {d : RegDesc} (hd : d.id ∈ plainF) (who : Requester) (i off value : Nat) (s : State) :
    writeClassF who d i off value s = { s with hub := s.hub.writeRw off value } := by
  simp only [plainF, List.mem_cons, List.not_mem_nil, or_false] at hd
  rcases hd with h | h | h | h | h | h | h | h | h | h | h | h | h <;> simp only [writeClassF, Hub.writeF, h]

/-- A register without a field that software writes has no RW field. -/
theorem RegDesc.rw_of_not_writable {d : RegDesc} (hd : d.writable = false) : d.rw = 0 := by
  have h0 : d.rw ||| d.w1c ||| d.w1s ||| d.wo = 0 := by simpa [RegDesc.writable] using hd
  simp only [Nat.or_eq_zero_iff] at h0
  exact h0.1.1.1

theorem registerWrite_word {off : Nat} (ha : off % 4 = 0) (who : Requester) (value : Nat) (s : State) :
    registerWrite who off value 4 s = regWrite who off (value % 2 ^ 32) s := by
  simp [registerWrite, ha, regWrites]

/-- A word written to a plain class F register changes the registers of the hub alone, by the RW fields of that register. -/
theorem regWrite_plain {s : State} {who : Requester} {off i j : Nat} {d : RegDesc} (value : Nat) (ha : s.hub.accessAt s.glob who off = .ok d i j)
    (hc : d.cls = .f) (hd : d.id ∈ plainF) :
    ∃ h : Hub, regWrite who off value s = { s with hub := h } ∧ h = { s.hub with regs := h.regs } ∧ FieldsWritten off d.rw value s.hub h := by
  have hrw : rwMask off = d.rw := by rw [rwMask, Hub.accessAt_ok ha]
  by_cases hw : d.writable = true
  · refine ⟨s.hub.writeRw off (value % 2 ^ 32), ?_, rfl, ?_⟩
    · simp only [regWrite, ha, hc, hw, if_true, writeClassF_plain hd]
    · rw [← hrw]
      exact (fieldsWritten_writeRw ..).of_low
  · refine ⟨s.hub, ?_, rfl, ?_⟩
    · simp only [regWrite, ha, hc, hw, if_true, Bool.false_eq_true, if_false]
    · rw [RegDesc.rw_of_not_writable (by simpa using hw)]
      exact fieldsWritten_zero ..

theorem registerWrite_host_malformed {off size : Nat} (hm : size % 4 ≠ 0 ∨ off % 4 ≠ 0) (value : Nat) (s : State) :
    registerWrite .host off value size s = if s.hub.shutOff off then s else { s with hub := s.hub.count Reg.HIF_ACC_ERR 16 } := by
  have hc : (decide (size % 4 ≠ 0) || decide (off % 4 ≠ 0) || decide (size = 0)) = true := by
    rcases hm with h | h <;> simp [h]
  rw [registerWrite, if_pos hc]
  cases s.hub.shutOff off <;> rfl

/-! ## The obligation -/

/-- Settles O14: a plain register merges its RW fields; a ring control takes the merged value, with the branches of R42 and R47 told apart by EN as it
stands and EN as it is written. -/
theorem registerWritesReachTheirFields : Obligations.RegisterWritesReachTheirFields := by
  refine ⟨⟨?plain, ?malformed⟩, ?sqCtl, ?cqCtl, ?evqCtl, ?sqEpoch, ?intSrcMap⟩
  case plain =>
    intro s who off value i j d hq ha hc hd hal
    obtain ⟨h, hexec, hshape, hw⟩ := regWrite_plain (value % 2 ^ 32) ha hc hd
    refine ⟨{ s with hub := h }, ?_, ⟨rfl, rfl, rfl⟩, hshape, hw.of_low⟩
    rw [show exec (.registerWrite who off value 4) s = execRegisterWrite who off value 4 s from rfl, execRegisterWrite, reached_quiet _ hq,
      registerWrite_word hal, hexec]
  case malformed =>
    intro s off value size hawake hm
    rw [show exec (.registerWrite .host off value size) s = execRegisterWrite .host off value size s from rfl, execRegisterWrite,
      reached_quiet (who := .host) _ (by simpa [Hub.quietTo] using hawake), registerWrite_host_malformed hm]
  case sqCtl =>
    intro s who n value hq hn ha
    refine ⟨_, exec_sqCtlWrite value hq hn ha, ⟨rfl, rfl, rfl⟩, ?_⟩
    have hw := fieldsWritten_ctl (h := s.hub) (classRw_sqCtl n hn) (by decide) value
    split
    case isTrue hen =>
      obtain ⟨hoff, hon⟩ := hen
      rw [hoff] at hw
      rw [Hub.sqCtl_enable hoff hon]
      split
      · exact ⟨rfl, hw.of_regs rfl⟩
      · rfl
    case isFalse hno =>
      rw [Hub.sqCtl_other hno]
      exact ⟨rfl, hw⟩
  case cqCtl =>
    intro s who n value hq hn ha
    refine ⟨_, exec_cqCtlWrite value hq hn ha, ⟨rfl, rfl, rfl⟩, ?_⟩
    have hw := fieldsWritten_ctl (h := s.hub) (classRw_cqCtl n hn) (by decide) value
    split
    case isTrue hen =>
      obtain ⟨hoff, hon⟩ := hen
      rw [hoff] at hw
      rw [Hub.cqCtl_enable hoff hon]
      split
      · exact ⟨rfl, hw.of_regs rfl⟩
      · rfl
    case isFalse hno =>
      split
      case isTrue huse =>
        obtain ⟨hon, hdis, hin⟩ := huse
        rw [Hub.cqCtl_inUse hon hdis hin]
      case isFalse hfree =>
        rw [Hub.cqCtl_other hno hfree]
        exact ⟨rfl, hw⟩
  case evqCtl =>
    intro s who value hq ha
    refine ⟨_, exec_evqCtlWrite value hq ha, ⟨rfl, rfl, rfl⟩, ?_⟩
    have hw := fieldsWritten_ctl (h := s.hub) classRw_evqCtl (by decide) value
    split
    case isTrue hen =>
      obtain ⟨hoff, hon⟩ := hen
      rw [hoff] at hw
      rw [Hub.evqCtl_enable hoff hon]
      split
      · exact ⟨rfl, hw.of_regs rfl⟩
      · rfl
    case isFalse hno =>
      rw [Hub.evqCtl_other hno]
      exact ⟨rfl, hw⟩
  case sqEpoch =>
    intro s who n value hq hn ha
    rw [exec_sqEpochWrite value hq hn ha]
    constructor
    · intro hk
      rw [Hub.sqEpoch_kept hk]
    · intro hoff hne
      refine ⟨_, rfl, ⟨rfl, rfl, rfl⟩, ?_⟩
      rw [Hub.sqEpoch_changed hoff hne]
      exact ⟨rfl, (fieldsWritten_putF_low16 ..).of_regs rfl⟩
  case intSrcMap =>
    intro s who n value hq hn ha
    refine ⟨_, exec_intSrcMapWrite value hq hn ha, ⟨rfl, rfl, rfl⟩, Hub.writeRw_shape .., ?_⟩
    have hw := fieldsWritten_writeRw s.hub (Reg.INT_SRC_MAPn n) value
    rwa [rwMask_of_classRw (classRw_intSrcMap n hn)] at hw

end Sys2Proof.Machine
end

section
/-! What the reads of a command leave of the hub: errors of DRAM and of the hub's own lines are counted and raised, and the show goes on as it was. -/

namespace Sys2Proof.Machine

/-! ## What the errors of reads leave as it was -/

/-- Errors of reads change neither the clock, the power states, the commit, the Saddle link, the groups nor a register beyond the page of MEM. -/
structure ReadsKeep (h h' : Hub) : Prop where
  clock  : h'.clock = h.clock
  power  : h'.power = h.power
  commit : h'.commit = h.commit
  saddle : h'.saddle = h.saddle
  scan   : h'.scan = h.scan
  regs   : ∀ off, 0xB0000 ≤ off → h'.rd off = h.rd off

theorem ReadsKeep.refl (h : Hub) : ReadsKeep h h := ⟨rfl, rfl, rfl, rfl, rfl, fun _ _ => rfl⟩

theorem ReadsKeep.trans {a b c : Hub} (h1 : ReadsKeep a b) (h2 : ReadsKeep b c) : ReadsKeep a c where
  clock := h2.clock.trans h1.clock
  power := h2.power.trans h1.power
  commit := h2.commit.trans h1.commit
  saddle := h2.saddle.trans h1.saddle
  scan := h2.scan.trans h1.scan
  regs off ho := (h2.regs off ho).trans (h1.regs off ho)

theorem readsKeep_wrN (h : Hub) {off : Nat} (v : Nat) (ho : off < 0xB0000) : ReadsKeep h (h.wrN off v) :=
  ⟨rfl, rfl, rfl, rfl, rfl, fun j hj => Hub.rd_wr_ne h off j _ (by omega)⟩

theorem not_mem_pendRegs {off : Nat} (ho : 0x30210 ≤ off) : off ∉ pendRegs := by
  simp only [pendRegs, Reg.INT_PENDk, List.mem_cons, List.not_mem_nil, or_false]
  omega

theorem readsKeep_raise (h : Hub) (g : Glob) (src d : Nat) : ReadsKeep h (h.raise g src d) := by
  constructor
  case regs =>
    intro off ho
    exact Hub.rd_raise h g src d off (not_mem_pendRegs (by omega))
  all_goals simp

theorem readsKeep_countCorrected (h : Hub) (g : Glob) {off : Nat} (src w : Nat) (ho : off < 0xB0000) :
    ReadsKeep h (h.countCorrected g off src w) := by
  rw [Hub.countCorrected, Hub.raiseIf]
  split
  · exact (readsKeep_wrN h _ ho).trans (readsKeep_raise ..)
  · exact readsKeep_wrN h _ ho

theorem channelOf_lt (block : Nat) : channelOf block < 2 := Nat.mod_lt _ (by norm_num)

theorem readsKeep_dramUncorrectable (h : Hub) (g : Glob) (m : Memory) (block : Nat) (scrub : Bool) :
    ReadsKeep h (h.dramUncorrectable g m block scrub) := by
  have hc := channelOf_lt block
  rw [Hub.dramUncorrectable, Hub.count, Hub.putF]
  exact (((readsKeep_wrN h _ (by simp only [Reg.MEMc_CNT_UE]; omega)).trans (readsKeep_wrN _ _ (by simp only [Reg.MEMc_UE_ADDR_LO]; omega))).trans
    (readsKeep_wrN _ _ (by simp only [Reg.MEMc_UE_ADDR_HI]; omega))).trans (readsKeep_raise ..)

theorem readsKeep_dramErrors (g : Glob) (scrub : Bool) (errs : List (Nat × ReadError)) (hm : Hub × Memory) :
    ReadsKeep hm.1 (dramErrors g scrub errs hm).1 := by
  unfold dramErrors
  induction errs generalizing hm with
  | nil => exact ReadsKeep.refl _
  | cons e es ih =>
    have hc := channelOf_lt e.1
    have hfixed : ReadsKeep hm.1 (hm.1.countCorrected g (Reg.MEMc_CNT_CE (channelOf e.1)) (42 + channelOf e.1) 0) :=
      readsKeep_countCorrected _ _ _ _ (by simp only [Reg.MEMc_CNT_CE]; omega)
    refine ReadsKeep.trans ?_ (ih _)
    dsimp only
    split
    · exact ReadsKeep.refl _
    · split
      · exact ReadsKeep.refl _
      · exact hfixed
      · exact readsKeep_dramUncorrectable ..
      · split
        · exact hfixed
        · exact ReadsKeep.refl _

theorem readsKeep_sramDouble (h : Hub) (g : Glob) (offset : Nat) (scrub : Bool) : ReadsKeep h (h.sramDouble g offset scrub) := by
  rw [Hub.sramDouble]
  exact (readsKeep_wrN h _ (by norm_num)).trans (readsKeep_raise ..)

theorem readsKeep_logsWritten (hm : Hub × Memory) : ReadsKeep hm.1 (logsWritten hm).1 := by
  unfold logsWritten
  split
  · exact ReadsKeep.refl _
  · exact ⟨rfl, rfl, rfl, rfl, rfl, fun _ _ => rfl⟩

theorem readsKeep_readLine_sram (g : Glob) (scrub : Bool) (line : Nat) (err : LineErr) (hm : Hub × Memory) :
    ReadsKeep hm.1 (readLine g scrub .sram line err hm).1 := by
  have hb : 32 * line / 0x200000 % 24 < 24 := Nat.mod_lt _ (by norm_num)
  refine (readsKeep_logsWritten hm).trans ?_
  rw [readLine, if_pos rfl]
  generalize logsWritten hm = hm0
  split
  · exact readsKeep_sramDouble ..
  · split
    · exact readsKeep_countCorrected _ _ _ _ (by simp only [Reg.SRAM_CNT_CEb]; omega)
    · exact ReadsKeep.refl _

/-! ## A hub that is awake stays awake -/

theorem ReadsKeep.awake {h h' : Hub} (hk : ReadsKeep h h') (code : Nat) : h'.awake code = h.awake code := by
  rw [Hub.awake, Hub.awake, hk.power, hk.clock]

theorem Hub.awake_blockReport (h : Hub) (b : Block) (code : Nat) : (h.blockReport b).awake code = h.awake code := by
  unfold Hub.blockReport
  split <;> rfl

theorem Hub.awake_blockFault (h : Hub) (g : Glob) (b : Block) (code : Nat) : (h.blockFault g b).awake code = h.awake code := by
  unfold Hub.blockFault
  split
  · rfl
  · split
    · rw [Hub.awake_blockReport, (readsKeep_raise ..).awake]
      rfl
    · exact Hub.awake_blockReport ..

theorem State.awake_reads (s : State) (errs : List (Nat × ReadError)) (code : Nat) : (s.reads errs).hub.awake code = s.hub.awake code :=
  (readsKeep_dramErrors s.glob false errs (s.hub, s.mem)).awake code

theorem readsKeep_readLines (g : Glob) (lines : List (Nat × LineErr)) (hm : Hub × Memory) :
    ReadsKeep hm.1 (lines.foldl (fun hm l => readLine g false .sram l.1 l.2 hm) hm).1 := by
  induction lines generalizing hm with
  | nil => exact ReadsKeep.refl _
  | cons l ls ih => exact (readsKeep_readLine_sram ..).trans (ih _)

theorem State.awake_ownLines (s : State) (blk : Block) (b n : Nat) (lines : List (Nat × LineErr)) (code : Nat) :
    (s.ownLines blk b n lines).hub.awake code = s.hub.awake code := by
  rw [State.ownLines, ← (readsKeep_readLines s.glob (lines.filter _) (s.hub, s.mem)).awake code]
  dsimp only
  split
  · exact Hub.awake_blockFault ..
  · rfl

/-! ## Reads without errors -/

@[simp] theorem State.reads_nil (s : State) : s.reads [] = s := rfl

@[simp] theorem State.ownLines_nil (s : State) (blk : Block) (b n : Nat) : s.ownLines blk b n [] = s := rfl

/-- A command that acts on the state its reads leave reads first. -/
theorem readsFirst_of_reads {i : List (Nat × ReadError) → Instr} (k : State → Host.Outcome State Fault Refusal)
    (hk : ∀ errs t, exec (i errs) t = k (t.reads errs)) (s : State) : ReadsFirst s i := by
  intro errs
  rw [hk, hk, State.reads_nil]

/-- So does a command that an arrival makes, while what arrives wakes nothing. -/
theorem readsFirst_of_wokenWhen {i : List (Nat × ReadError) → Instr} {b : Hub → Bool} {code : Nat} (k : State → Host.Outcome State Fault Refusal)
    (hk : ∀ errs t, exec (i errs) t = wokenWhen b code (fun u => k (u.reads errs)) t) {s : State} (ha : s.hub.awake code = true) : ReadsFirst s i := by
  intro errs
  rw [hk, hk, wokenWhen_awake _ _ ha, wokenWhen_awake _ _ ((State.awake_reads ..).trans ha), State.reads_nil]

/-! ## The instants of a commit and of a frame -/

theorem Hub.noticeMutes_none {h : Hub} (hn : h.saddle.notice = none) (come : Instant → Bool) : h.noticeMutes come = h := by
  rw [Hub.noticeMutes, hn]
  rfl

/-- Without a pending set and a notice, what remains of an apply are its reads. -/
theorem applyWhere_idle {s : State} (hp : s.hub.commit.phase ≠ .pending) (hn : s.hub.saddle.notice = none) (come : Instant → Bool)
    (errs : List (Nat × ReadError)) : applyWhere come errs s = s.reads errs := by
  rw [applyWhere, if_neg (fun hc => hp hc.1), Hub.noticeMutes_none hn]

theorem State.readsKeep_reads (s : State) (errs : List (Nat × ReadError)) : ReadsKeep s.hub (s.reads errs).hub :=
  readsKeep_dramErrors s.glob false errs (s.hub, s.mem)

theorem ReadsKeep.boundaryRuns {h h' : Hub} (hk : ReadsKeep h h') (g : Glob) (pg : Nat) : h'.boundaryRuns g pg = h.boundaryRuns g pg := by
  have hon : h'.groupOn pg = h.groupOn pg := Hub.bit_of_rd _ _ _ _ (hk.regs _ (by simp only [Reg.PGg_CTL]; omega))
  have hgroup : h'.group pg = h.group pg := by rw [Hub.group, Hub.group, hk.scan]
  have hserving : h'.serving .pg = h.serving .pg := by
    simp only [Hub.serving, Hub.reachable, Hub.blockOn, Hub.domainOn, Hub.isolatedBlock, hk.power]
  rw [Hub.boundaryRuns, Hub.boundaryRuns, hon, hgroup, hserving]

theorem ReadsKeep.timingOf {h h' : Hub} (hk : ReadsKeep h h') (pg : Nat) : h'.timingOf pg = h.timingOf pg := by
  have hctl := hk.regs (Reg.PGg_CTL pg) (by simp only [Reg.PGg_CTL]; omega)
  have hperiod := hk.regs (Reg.PGg_PERIOD_NS pg) (by simp only [Reg.PGg_PERIOD_NS]; omega)
  have hfrac := hk.regs (Reg.PGg_FRAC pg) (by simp only [Reg.PGg_FRAC]; omega)
  have hphase := hk.regs (Reg.PGg_PHASE_NS pg) (by simp only [Reg.PGg_PHASE_NS]; omega)
  simp only [Hub.timingOf, Hub.groupTb, Hub.f, Hub.n, hctl, hperiod, hfrac, hphase]

theorem readsFirst_commitApply {s : State} (hp : s.hub.commit.phase ≠ .pending) (hn : s.hub.saddle.notice = none) : ReadsFirst s .commitApply := by
  intro errs
  have hk := s.readsKeep_reads errs
  rw [show exec (.commitApply errs) s = .next (applyWhere s.hub.instantCome errs s) from rfl,
    show exec (.commitApply []) (s.reads errs) = .next (applyWhere (s.reads errs).hub.instantCome [] (s.reads errs)) from rfl,
    applyWhere_idle hp hn, applyWhere_idle (by rwa [hk.commit]) (by rwa [hk.saddle]), State.reads_nil]

theorem frameBegins_idle {s : State} (hp : s.hub.commit.phase ≠ .pending) (hn : s.hub.saddle.notice = none) (pg : Nat)
    (errs : List (Nat × ReadError)) (act : PartnerAct) :
    frameBegins pg errs act s =
      if !s.hub.boundaryRuns s.glob pg || (s.reads errs).hub.leftGap s.hub pg then s.reads errs
      else { s.reads errs with hub := (s.reads errs).hub.boundary s.glob (s.reads errs).mem pg act } := by
  unfold frameBegins
  simp only [applyWhere_idle hp hn]
  cases s.hub.boundaryRuns s.glob pg
  · rfl
  · rfl

theorem readsFirst_frameBoundary {s : State} (hp : s.hub.commit.phase ≠ .pending) (hn : s.hub.saddle.notice = none) (pg : Nat) (act : PartnerAct) :
    ReadsFirst s (fun errs => .frameBoundary pg errs act) := by
  intro errs
  have hk := s.readsKeep_reads errs
  have hruns : (s.reads errs).hub.boundaryRuns (s.reads errs).glob pg = s.hub.boundaryRuns s.glob pg := hk.boundaryRuns s.glob pg
  have hgap : (s.reads errs).hub.leftGap (s.reads errs).hub pg = (s.reads errs).hub.leftGap s.hub pg := by
    rw [Hub.leftGap, Hub.leftGap, hk.timingOf]
  rw [show exec (.frameBoundary pg errs act) s = .next (frameBegins pg errs act s) from rfl,
    show exec (.frameBoundary pg [] act) (s.reads errs) = .next (frameBegins pg [] act (s.reads errs)) from rfl,
    frameBegins_idle hp hn, frameBegins_idle (by rwa [hk.commit]) (by rwa [hk.saddle]), State.reads_nil, hruns, hgap]
  rfl

/-! ## Reads of the hub's own lines -/

theorem exec_flowPacket_lines {s : State} (ha : s.hub.awake 3 = true) (f path : Nat) (p : FlowPkt) (freed : Nat) (l : List (Nat × LineErr)) :
    exec (.flowPacket f path p freed [] l) s = exec (.flowPacket f path p freed [] []) (s.ownLines .ing 8 4 l) := by
  rw [show exec (.flowPacket f path p freed [] l) s = execFlowPacket f path p freed [] l s from rfl,
    show exec (.flowPacket f path p freed [] []) (s.ownLines .ing 8 4 l) = execFlowPacket f path p freed [] [] (s.ownLines .ing 8 4 l) from rfl,
    execFlowPacket, execFlowPacket, wokenWhen_awake _ _ ha, wokenWhen_awake _ _ ((State.awake_ownLines ..).trans ha), State.reads_nil, State.reads_nil,
    State.ownLines_nil]

theorem exec_sacnPacket_lines {s : State} (ha : s.hub.awake 3 = true) (n sub : Nat) (p : SacnPkt) (l : List (Nat × LineErr)) :
    exec (.sacnPacket n sub p [] l) s = exec (.sacnPacket n sub p [] []) (s.ownLines .ing 12 4 l) := by
  rw [show exec (.sacnPacket n sub p [] l) s = execSacnPacket n sub p [] l s from rfl,
    show exec (.sacnPacket n sub p [] []) (s.ownLines .ing 12 4 l) = execSacnPacket n sub p [] [] (s.ownLines .ing 12 4 l) from rfl,
    execSacnPacket, execSacnPacket, wokenWhen_awake _ _ ha, wokenWhen_awake _ _ ((State.awake_ownLines ..).trans ha)]
  simp only [State.reads_nil, State.ownLines_nil]
  rfl

/-- What a packet of an sACN universe does on the state that its reads leave. -/
def sacnPacketRead (n sub : Nat) (p : SacnPkt) (t : State) : Host.Outcome State Fault Refusal :=
  .next (sacnPacketOf (if t.hub.sacnOn t.glob n sub then
    { t with hub := if t.hub.tableSpoilt t.mem tblUniverse then t.hub.blockFault t.glob .ing
      else t.hub.tableLook t.glob tblUniverse 0 (t.hub.table tblUniverse).length } else t) n sub p)

/-- What a copy or a mirrored frame of the partner does on the state that its reads leave. -/
def nextPair (k : Glob → Hub × Memory → Hub × Memory) (t : State) : Host.Outcome State Fault Refusal :=
  .next { t with hub := (k t.glob (t.hub, t.mem)).1, mem := (k t.glob (t.hub, t.mem)).2 }

end Sys2Proof.Machine
end

section
/-! Scrubbers: what a double error and a corrected error of a line, and an uncorrectable block, leave in the registers, the memory and the snapshot queue. -/

namespace Sys2Proof.Machine

/-! ## Lines that hold a double error -/

theorem Memory.badOf_withBad (m : Memory) (w : LineMem) (b : Sparse Bool) : (m.withBad w b).badOf w = b := by
  cases w <;> rfl

theorem Memory.withBad_badOf (m : Memory) (w : LineMem) : m.withBad w (m.badOf w) = m := by
  cases w <;> rfl

/-- The marks of a line's codewords set in a memory's array of double errors. -/
def markCodewords (base : Nat) (ks : List Nat) (b : Sparse Bool) : Sparse Bool :=
  ks.foldl (fun b k => if k < 16 then Sparse.set false b (base + k) true else b) b

theorem Memory.breakLine_eq (m : Memory) (w : LineMem) (line : Nat) (broken : List Nat) :
    m.breakLine w line broken = m.withBad w (markCodewords (w.base line / 2) broken (m.badOf w)) := rfl

theorem markCodewords_cons (base k : Nat) (ks : List Nat) (b : Sparse Bool) :
    markCodewords base (k :: ks) b = markCodewords base ks (if k < 16 then Sparse.set false b (base + k) true else b) := rfl

/-- A mark stays while others are set. -/
theorem get_markCodewords_mono (base j : Nat) (ks : List Nat) (b : Sparse Bool) (hj : Sparse.get false b j = true) :
    Sparse.get false (markCodewords base ks b) j = true := by
  induction ks generalizing b with
  | nil => exact hj
  | cons k ks ih =>
    refine ih _ ?_
    dsimp only
    split
    · rw [Sparse.get_set]
      split
      · rfl
      · exact hj
    · exact hj

theorem get_markCodewords {ks : List Nat} {c : Nat} (hc : c ∈ ks) (h16 : c < 16) (base : Nat) (b : Sparse Bool) :
    Sparse.get false (markCodewords base ks b) (base + c) = true := by
  induction ks generalizing b with
  | nil => cases hc
  | cons k ks ih =>
    rw [markCodewords_cons]
    rcases List.mem_cons.mp hc with rfl | hks
    · rw [if_pos h16]
      exact get_markCodewords_mono _ _ _ _ (Sparse.get_set_same ..)
    · exact ih hks _

/-- A line begins at a multiple of its length. -/
theorem LineMem.base_mod (w : LineMem) (line : Nat) : w.base line % 32 = 0 := by
  cases w <;> simp only [LineMem.base, Memory.localBase] <;> omega

theorem mem_codewordsOf_line {a c : Nat} (ha : a % 32 = 0) (h16 : c < 16) : a / 2 + c ∈ Memory.codewordsOf a 32 := by
  simp only [Memory.codewordsOf, List.mem_map, List.mem_range, if_neg (show ¬ (32 : Nat) = 0 by decide)]
  exact ⟨c, by omega, by omega⟩

theorem Memory.lineBroken_breakLine (m : Memory) (w : LineMem) (line : Nat) {broken : List Nat} {c : Nat} (hc : c ∈ broken) (h16 : c < 16) :
    (m.breakLine w line broken).lineBroken w line = true := by
  rw [Memory.lineBroken, Memory.breakLine_eq, Memory.badOf_withBad, Memory.lineBad, List.any_eq_true]
  exact ⟨_, mem_codewordsOf_line (w.base_mod line) h16, get_markCodewords hc h16 ..⟩

theorem LineErr.lt_of_mem_broken {err : LineErr} {c : Nat} (hc : c ∈ err.broken) : c < 16 :=
  List.mem_range.mp (List.mem_of_mem_filter hc)

theorem Memory.strikeLine_detected (m : Memory) (w : LineMem) (line : Nat) {err : LineErr} (hm : err.missed = []) :
    m.strikeLine w line err = m.breakLine w line err.broken := by
  rw [Memory.strikeLine, hm]
  rfl

/-! ## The queue of snapshots -/

theorem Hub.snapQ_trigger_le (h : Hub) (g : Glob) (u t a : Nat) : (h.trigger g u t a).cairn.snapQ.length ≤ h.cairn.snapQ.length + 1 := by
  simp only [Hub.trigger]
  split <;> simp

theorem Hub.snapQ_raiseCore_le (h : Hub) (g : Glob) (src d : Nat) : (h.raiseCore g src d).cairn.snapQ.length ≤ h.cairn.snapQ.length + 1 := by
  unfold Hub.raiseCore
  split
  · omega
  · dsimp only
    have hstream : (if h.bit (Reg.INT_SRC_MAPn src) 9 then (h.setPend src).eventStream ((h.setPend src).eventOf src (h.eventDetail g src d))
        else h.setPend src).cairn = h.cairn := by
      split <;> simp
    generalize (if h.bit (Reg.INT_SRC_MAPn src) 9 then (h.setPend src).eventStream ((h.setPend src).eventOf src (h.eventDetail g src d))
        else h.setPend src) = h2 at hstream
    rw [← hstream]
    split
    · exact Hub.snapQ_trigger_le ..
    · omega

/-- A raise takes a snapshot for its source, and one for the level of FIFO 5, at the most. -/
theorem Hub.snapQ_raise_le (h : Hub) (g : Glob) (src d : Nat) : (h.raise g src d).cairn.snapQ.length ≤ h.cairn.snapQ.length + 2 := by
  have hfirst := h.snapQ_raiseCore_le g src d
  unfold Hub.raise
  split
  · have hlevel := (h.raiseCore g src d).snapQ_raiseCore_le g 101 (h.f (Reg.MEM_FIFOi_CTL 5) 4 0)
    omega
  · omega

theorem Hub.snapshotOf_key (h : Hub) (g : Glob) (u t a : Nat) :
    (h.snapshotOf g u t a).unit = u ∧ (h.snapshotOf g u t a).trigger = t ∧ (h.snapshotOf g u t a).aux = a := by
  unfold Hub.snapshotOf
  split <;> exact ⟨rfl, rfl, rfl⟩

/-- With room in the queue a trigger leaves its snapshot there. -/
theorem Hub.mem_snapQ_trigger {h : Hub} (hroom : h.cairn.snapQ.length < 64) (g : Glob) (u t a : Nat) :
    ∃ x ∈ (h.trigger g u t a).cairn.snapQ, x.unit = u ∧ x.trigger = t ∧ x.aux = a := by
  refine ⟨h.snapshotOf g u t a, ?_, h.snapshotOf_key g u t a⟩
  simp only [Hub.trigger, if_pos hroom, List.mem_append, List.mem_singleton, or_true]

/-! ## A double error counted -/

/-- A double error has been counted in the low 24 bits of a register and raised; no other register but the pending ones changed, and a raise left room in the
queue of snapshots. -/
structure DoubleCounted (off src : Nat) (h h' : Hub) : Prop where
  pending : h'.pending src = true
  count   : h'.f off 23 0 = satInc 24 (h.f off 23 0)
  regs    : RegsKeptBut (off :: pendRegs) h h'
  snapQ   : h'.cairn.snapQ.length ≤ h.cairn.snapQ.length + 2

theorem satInc_lt (bits n : Nat) : satInc bits n < 2 ^ bits := by
  have := Nat.two_pow_pos bits
  unfold satInc
  split <;> omega

theorem fieldOf_low (x y : Nat) (hx : x < 2 ^ 24) : fieldOf ((x + y * 2 ^ 24) % 2 ^ 32) 23 0 = x := by
  simp only [fieldOf]
  omega

theorem doubleCounted_raise (h : Hub) (g : Glob) {off src : Nat} (y d : Nat) (hoff : 0x30210 ≤ off) (hs : sourceReserved src = false) :
    DoubleCounted off src h ((h.wrN off (satInc 24 (h.f off 23 0) + y * 2 ^ 24)).raise g src d) where
  pending := Hub.pending_raise _ g src d hs
  count := by
    rw [Hub.f_of_rd _ _ _ _ _ (Hub.rd_raise _ g src d off (not_mem_pendRegs hoff)), Hub.f, Hub.n, Hub.rd_wrN, if_pos rfl, BitVec.toNat_ofNat,
      fieldOf_low _ _ (satInc_lt ..)]
  regs j hj := by
    obtain ⟨hne, hpend⟩ : j ≠ off ∧ j ∉ pendRegs := by simpa using hj
    rw [Hub.rd_raise _ g src d j hpend, Hub.rd_wrN, if_neg (Ne.symm hne)]
  snapQ := by
    have hcairn : (h.wrN off (satInc 24 (h.f off 23 0) + y * 2 ^ 24)).cairn = h.cairn := by simp
    have hle := Hub.snapQ_raise_le (h.wrN off (satInc 24 (h.f off 23 0) + y * 2 ^ 24)) g src d
    rwa [hcairn] at hle

theorem doubleCounted_sramDouble (h : Hub) (g : Glob) (offset : Nat) (scrub : Bool) :
    DoubleCounted Reg.SRAM_UE 44 h (h.sramDouble g offset scrub) := by
  have hval : ∀ x, x + offset / 0x200000 % 24 * 2 ^ 24 + b2n scrub * 2 ^ 29 = x + (offset / 0x200000 % 24 + b2n scrub * 32) * 2 ^ 24 := by
    intro x; ring
  rw [Hub.sramDouble, hval]
  exact doubleCounted_raise h g _ _ (by decide) (by decide)

theorem doubleCounted_localDouble (h : Hub) (g : Glob) (e : Nat) (instr scrub : Bool) :
    DoubleCounted Reg.LCL_UE 45 h (h.localDouble g e instr scrub) := by
  have hval : ∀ x, x + e * 2 ^ 24 + b2n scrub * 2 ^ 29 + b2n instr * 2 ^ 30 = x + (e + b2n scrub * 32 + b2n instr * 64) * 2 ^ 24 := by
    intro x; ring
  rw [Hub.localDouble, hval]
  exact doubleCounted_raise h g _ _ (by decide) (by decide)

theorem DoubleCounted.of_same {off src : Nat} {h0 h h' : Hub} (hd : DoubleCounted off src h h') (hr : h.regs = h0.regs)
    (hq : h.cairn.snapQ = h0.cairn.snapQ) : DoubleCounted off src h0 h' where
  pending := hd.pending
  count := by rw [hd.count, Hub.f_of_rd _ _ _ _ _ (Hub.rd_of_regs h0 h hr off)]
  regs j hj := (hd.regs j hj).trans (Hub.rd_of_regs h0 h hr j)
  snapQ := hq ▸ hd.snapQ

/-- The snapshot of a scrubber after a double error is counted. -/
theorem DoubleCounted.trigger {off src : Nat} {h h' : Hub} (hd : DoubleCounted off src h h') (hroom : h.cairn.snapQ.length < 60) (g : Glob) (u t a : Nat) :
    (h'.trigger g u t a).pending src = true ∧ (h'.trigger g u t a).f off 23 0 = satInc 24 (h.f off 23 0) ∧
      RegsKeptBut (off :: pendRegs) h (h'.trigger g u t a) ∧ ∃ x ∈ (h'.trigger g u t a).cairn.snapQ, x.unit = u ∧ x.trigger = t ∧ x.aux = a :=
  have hr : (h'.trigger g u t a).regs = h'.regs := rfl
  ⟨(Hub.pending_of_regs _ _ hr src).trans hd.pending, (Hub.f_of_rd _ _ _ _ _ (Hub.rd_of_regs _ _ hr off)).trans hd.count,
    fun j hj => (Hub.rd_of_regs _ _ hr j).trans (hd.regs j hj), Hub.mem_snapQ_trigger (by have := hd.snapQ; omega) g u t a⟩

/-! ## The scrubber of lines (R151 to R153, R431) -/

theorem sramScrubOf_runs {s : State} {w : LineMem} {line : Nat} (hs : s.hub.serving .scrubber = true) (hhas : w.has line = true)
    (hp : w = .sram ∨ s.hub.power.state ≠ 3) (err : LineErr) :
    sramScrubOf s w line err =
      { s with
        mem := (readLine s.glob true w line err (s.hub, s.mem)).2
        hub := if (readLine s.glob true w line err (s.hub, s.mem)).2.lineBroken w line
          then (readLine s.glob true w line err (s.hub, s.mem)).1.trigger s.glob 0x71 2 (w.address line)
          else (readLine s.glob true w line err (s.hub, s.mem)).1 } := by
  have hpow : (s.hub.power.state == 3 && w != .sram) = false := by
    rcases hp with rfl | hp
    · simp
    · simp [hp]
  simp only [sramScrubOf, hs, hhas, hpow, Bool.not_true, Bool.or_self, Bool.false_eq_true, if_false]

/-- A read that finds a line with a detected error and without a missed one leaves the marks of that line, as a broken one. -/
theorem readLine_broken {w : LineMem} {line c : Nat} {err : LineErr} (hc : c ∈ err.broken) (hmiss : err.missed = []) (g : Glob) (scrub : Bool)
    (hm : Hub × Memory) : (readLine g scrub w line err hm).2.lineBroken w line = true := by
  rw [readLine_mem, Memory.strikeLine_detected _ _ _ hmiss]
  exact Memory.lineBroken_breakLine _ _ _ hc (LineErr.lt_of_mem_broken hc)

theorem logsWritten_hub (hm : Hub × Memory) : (logsWritten hm).1.regs = hm.1.regs ∧ (logsWritten hm).1.cairn.snapQ = hm.1.cairn.snapQ := by
  unfold logsWritten
  split <;> exact ⟨rfl, rfl⟩

theorem logsWritten_mem (hm : Hub × Memory) : (logsWritten hm).2 = { hm.2 with sramBad := (logsWritten hm).2.sramBad } := by
  unfold logsWritten
  split
  · rfl
  · unfold Memory.renewLines
    split <;> rfl

theorem logsWritten_idle {hm : Hub × Memory} (hf : hm.1.cairn.fresh = []) : logsWritten hm = hm := by
  rw [logsWritten, hf]
  rfl

theorem readLine_sram_double {line : Nat} {err : LineErr} {g : Glob} {hm : Hub × Memory} {scrub : Bool}
    (hb : (readLine g scrub .sram line err hm).2.lineBroken .sram line = true) :
    (readLine g scrub .sram line err hm).1 = (logsWritten hm).1.sramDouble g (32 * line) scrub := by
  rw [readLine_mem, if_pos rfl] at hb
  rw [readLine, if_pos rfl, if_pos hb]

theorem readLine_local_double {w : LineMem} {e line : Nat} {err : LineErr} {g : Glob} {hm : Hub × Memory} {scrub : Bool} (hw : w = .imem e ∨ w = .dmem e)
    (hb : (readLine g scrub w line err hm).2.lineBroken w line = true) :
    ∃ instr, (readLine g scrub w line err hm).1 = hm.1.localDouble g e instr scrub := by
  rw [readLine_mem] at hb
  rcases hw with rfl | rfl
  · rw [readLine, if_pos hb, if_neg (show ¬ LineMem.imem e = .sram by simp)]
    exact ⟨true, rfl⟩
  · rw [readLine, if_pos hb, if_neg (show ¬ LineMem.dmem e = .sram by simp)]
    exact ⟨false, rfl⟩

/-- A double error that a read of shared SRAM finds is counted there. -/
theorem doubleCounted_readLine_sram {line c : Nat} {err : LineErr} (hc : c ∈ err.broken) (hmiss : err.missed = []) (g : Glob) (scrub : Bool) (hm : Hub × Memory) :
    DoubleCounted Reg.SRAM_UE 44 hm.1 (readLine g scrub .sram line err hm).1 := by
  obtain ⟨hregs, hsnap⟩ := logsWritten_hub hm
  rw [readLine_sram_double (readLine_broken hc hmiss g scrub hm)]
  exact (doubleCounted_sramDouble ..).of_same hregs hsnap

theorem doubleCounted_readLine_local {w : LineMem} {e line c : Nat} {err : LineErr} (hw : w = .imem e ∨ w = .dmem e) (hc : c ∈ err.broken)
    (hmiss : err.missed = []) (g : Glob) (scrub : Bool) (hm : Hub × Memory) :
    DoubleCounted Reg.LCL_UE 45 hm.1 (readLine g scrub w line err hm).1 := by
  obtain ⟨instr, hd⟩ := readLine_local_double hw (readLine_broken hc hmiss g scrub hm)
  rw [hd]
  exact doubleCounted_localDouble ..

/-- The scrubber that finds a double error triggers its snapshot. -/
theorem exec_sramScrub_broken {s : State} {w : LineMem} {line c : Nat} {err : LineErr} (hs : s.hub.serving .scrubber = true) (hhas : w.has line = true)
    (hp : w = .sram ∨ s.hub.power.state ≠ 3) (hc : c ∈ err.broken) (hmiss : err.missed = []) :
    exec (.sramScrub w line err) s = .next { s with
      mem := (readLine s.glob true w line err (s.hub, s.mem)).2
      hub := (readLine s.glob true w line err (s.hub, s.mem)).1.trigger s.glob 0x71 2 (w.address line) } := by
  rw [show exec (.sramScrub w line err) s = .next (sramScrubOf s w line err) from rfl, sramScrubOf_runs hs hhas hp,
    if_pos (readLine_broken hc hmiss ..)]

theorem readLine_sram_mem {line : Nat} {err : LineErr} (hmiss : err.missed = []) (g : Glob) (scrub : Bool) (hm : Hub × Memory) :
    (readLine g scrub .sram line err hm).2 = { hm.2 with sramBad := (readLine g scrub .sram line err hm).2.sramBad } := by
  rw [readLine_mem, if_pos rfl, Memory.strikeLine_detected _ _ _ hmiss, logsWritten_mem]
  rfl

theorem readLine_local_mem {w : LineMem} {line : Nat} {err : LineErr} (hw : w ≠ .sram) (hmiss : err.missed = []) (g : Glob) (scrub : Bool) (hm : Hub × Memory) :
    (readLine g scrub w line err hm).2 = hm.2.breakLine w line err.broken := by
  rw [readLine_mem, if_neg hw, Memory.strikeLine_detected _ _ _ hmiss]

theorem Memory.withBad_frame (m : Memory) (w : LineMem) (b : Sparse Bool) :
    (m.withBad w b).dram = m.dram ∧ (m.withBad w b).imem = m.imem ∧ (m.withBad w b).dmem = m.dmem := by
  cases w <;> exact ⟨rfl, rfl, rfl⟩

/-- A line of shared SRAM without a double error, with one that is corrected, leaves the memory as it is, and counts once. -/
theorem readLine_sram_corrected {line : Nat} {err : LineErr} {g : Glob} {scrub : Bool} {hm : Hub × Memory} (hgood : hm.2.lineBroken .sram line = false)
    (hfresh : hm.1.cairn.fresh = []) (hb : err.broken = []) (hmiss : err.missed = []) (hfix : err.fixed = true) :
    readLine g scrub .sram line err hm =
      (hm.1.countCorrected g (Reg.SRAM_CNT_CEb (32 * line / 0x200000 % 24)) 44 (32 * line / 0x200000 % 24), hm.2) := by
  have hmem : hm.2.strikeLine .sram line err = hm.2 := by
    rw [Memory.strikeLine_detected _ _ _ hmiss, hb, Memory.breakLine_eq]
    exact Memory.withBad_badOf ..
  rw [readLine, if_pos rfl, logsWritten_idle hfresh, hmem, if_neg (by simp [hgood]), if_pos hfix]

theorem exec_sramScrub_corrected {s : State} {line : Nat} {err : LineErr} (hs : s.hub.serving .scrubber = true) (hhas : LineMem.has .sram line = true)
    (hgood : s.mem.lineBroken .sram line = false) (hfresh : s.hub.cairn.fresh = []) (hb : err.broken = []) (hmiss : err.missed = [])
    (hfix : err.fixed = true) :
    exec (.sramScrub .sram line err) s = .next { s with
      hub := s.hub.countCorrected s.glob (Reg.SRAM_CNT_CEb (32 * line / 0x200000)) 44 (32 * line / 0x200000) } := by
  have hbank : 32 * line / 0x200000 % 24 = 32 * line / 0x200000 := by
    simp only [LineMem.has, decide_eq_true_eq] at hhas
    omega
  have hread := readLine_sram_corrected (g := s.glob) (scrub := true) (hm := (s.hub, s.mem)) hgood hfresh hb hmiss hfix
  rw [hbank] at hread
  rw [show exec (.sramScrub .sram line err) s = .next (sramScrubOf s .sram line err) from rfl, sramScrubOf_runs hs hhas (.inl rfl), hread,
    if_neg (by simp [hgood])]

theorem Hub.countCorrected_reports (h : Hub) (g : Glob) (off source w : Nat) :
    Reports (h.wrN off (satInc 32 (h.n off))) (h.countCorrected g off source w) :=
  Hub.raiseIf_reports ..

/-! ## The patrol of DRAM (R154) -/

theorem dramErrors_uncorrectable {g : Glob} {scrub : Bool} {block : Nat} {err : ReadError} {hm : Hub × Memory}
    (hp : (hm.2.tagAt (64 * block)).poison = false) (hin : hm.1.inDram (64 * block) 64 = true) (hd : err.decode = .uncorrectable) :
    dramErrors g scrub [(block, err)] hm = (hm.1.dramUncorrectable g hm.2 block scrub, hm.2.poisonBlock block) := by
  simp [dramErrors, hp, hin, hd]

theorem dramErrors_poisoned {g : Glob} {scrub : Bool} {block : Nat} {err : Option ReadError} {hm : Hub × Memory}
    (hp : (hm.2.tagAt (64 * block)).poison = true) : dramErrors g scrub (err.toList.map (fun e => (block, e))) hm = hm := by
  cases err <;> simp [dramErrors, hp]

theorem patrolOf_runs {s : State} (hs : s.hub.serving .scrubber = true) (hen : s.hub.bit Reg.MEM_SCRUB 0 = true) (hp : s.hub.power.state < 2)
    (block : Nat) (err : Option ReadError) :
    patrolOf s block err =
      { s with
        mem := (dramErrors s.glob true (err.toList.map (fun e => (block, e))) (s.hub, s.mem)).2
        hub := (dramErrors s.glob true (err.toList.map (fun e => (block, e))) (s.hub, s.mem)).1 } := by
  rw [patrolOf, if_neg (by simp [hs, hen, hp])]

theorem exec_dramPatrolScrub_uncorrectable {s : State} {block : Nat} {err : ReadError} (hs : s.hub.serving .scrubber = true)
    (hen : s.hub.bit Reg.MEM_SCRUB 0 = true) (hp : s.hub.power.state < 2) (hpoison : (s.mem.tagAt (64 * block)).poison = false)
    (hin : s.hub.inDram (64 * block) 64 = true) (hd : err.decode = .uncorrectable) :
    exec (.dramPatrolScrub block (some err)) s = .next { s with
      mem := s.mem.poisonBlock block
      hub := s.hub.dramUncorrectable s.glob s.mem block true } := by
  rw [show exec (.dramPatrolScrub block (some err)) s = .next (patrolOf s block (some err)) from rfl, patrolOf_runs hs hen hp, Option.toList_some,
    List.map_singleton, dramErrors_uncorrectable (hm := (s.hub, s.mem)) hpoison hin hd]

/-- An idle patrol, or one of a block with POISON set, changes nothing. -/
theorem patrolOf_idle {s : State} {block : Nat} (h : 2 ≤ s.hub.power.state ∨ (s.mem.tagAt (64 * block)).poison = true) (err : Option ReadError) :
    patrolOf s block err = s := by
  rw [patrolOf]
  split
  · rfl
  case isFalse hrun =>
    have hpow : ¬ 2 ≤ s.hub.power.state := by
      intro h2
      simp [h2] at hrun
    rw [dramErrors_poisoned (h.resolve_left hpow)]

theorem Memory.tagAt_poisonBlock (m : Memory) (block : Nat) : ((m.poisonBlock block).tagAt (64 * block)).poison = true := by
  have hb : 64 * block / 64 = block := by omega
  simp only [Memory.tagAt, Memory.poisonBlock, hb, Sparse.get_set_same]

theorem Hub.f_word (h : Hub) (off : Nat) : h.f off 31 0 = h.n off := by
  have hlt : h.n off < 2 ^ 32 := (h.rd off).isLt
  rw [Hub.f, fieldOf]
  omega

theorem Hub.n_count_word (h : Hub) (off : Nat) : (h.count off 32).n off = satInc 32 (h.n off) := by
  have hlt : h.n off < 2 ^ 32 := (h.rd off).isLt
  have hinc := satInc_lt 32 (h.n off)
  rw [Hub.count, Hub.f_word, Hub.putF, Hub.n, Hub.rd_wrN, if_pos rfl, BitVec.toNat_ofNat, putField, fieldOf]
  omega

theorem Hub.n_wrN_ne (h : Hub) {off j : Nat} (v : Nat) (hne : off ≠ j) : (h.wrN off v).n j = h.n j := by
  rw [Hub.n, Hub.n, Hub.rd_wrN, if_neg hne]

theorem Hub.n_raise (h : Hub) (g : Glob) (src d : Nat) {off : Nat} (hoff : 0x30210 ≤ off) : (h.raise g src d).n off = h.n off := by
  rw [Hub.n, Hub.n, Hub.rd_raise h g src d off (not_mem_pendRegs hoff)]

/-- What an uncorrectable block leaves in the registers of its channel. -/
theorem dramUncorrectable_counted (h : Hub) (g : Glob) (m : Memory) (block : Nat) (scrub : Bool) :
    (h.dramUncorrectable g m block scrub).n (Reg.MEMc_CNT_UE (channelOf block)) = satInc 32 (h.n (Reg.MEMc_CNT_UE (channelOf block))) ∧
      (h.dramUncorrectable g m block scrub).n (Reg.MEMc_UE_ADDR_LO (channelOf block)) = 64 * block % 2 ^ 32 ∧
      (h.dramUncorrectable g m block scrub).pending (42 + channelOf block) = true := by
  have hc := channelOf_lt block
  have hsrc : sourceReserved (42 + channelOf block) = false := by simp [sourceReserved]; omega
  rw [Hub.dramUncorrectable]
  generalize channelOf block = c at hc hsrc
  refine ⟨?_, ?_, Hub.pending_raise _ g _ _ hsrc⟩
  · rw [Hub.n_raise _ _ _ _ (by simp only [Reg.MEMc_CNT_UE]; omega), Hub.n_wrN_ne _ _ (by simp only [Reg.MEMc_UE_ADDR_HI, Reg.MEMc_CNT_UE]; omega),
      Hub.n_wrN_ne _ _ (by simp only [Reg.MEMc_UE_ADDR_LO, Reg.MEMc_CNT_UE]; omega), Hub.n_count_word]
  · rw [Hub.n_raise _ _ _ _ (by simp only [Reg.MEMc_UE_ADDR_LO]; omega), Hub.n_wrN_ne _ _ (by simp only [Reg.MEMc_UE_ADDR_HI, Reg.MEMc_UE_ADDR_LO]; omega),
      Hub.n_wrN_same, Nat.mod_mod]

/-! ## The obligation -/

/-- Settles O29: a command's reads come first because errors leave the power states, the commit and the groups as they are; a scrubber's read marks, counts and
raises what its decoder detects. -/
theorem scrubbersFindCountAndPoison : Obligations.ScrubbersFindCountAndPoison := by
  refine ⟨?reads, fun s hs => ⟨?sram, ?loc, ?corrected, ?patrol, ?idle, ?idlePatrol⟩⟩
  case reads =>
    intro s q tag n k e f data b p l bad ans act tx c m sp errs
    exact ⟨fun hp hn => ⟨readsFirst_commitApply hp hn, readsFirst_frameBoundary hp hn n act⟩,
      readsFirst_of_reads (fun t => .next (framePostOf t q tag data)) (fun _ _ => rfl) s,
      readsFirst_of_reads (fun t => .next (calLoadOf t q tag data)) (fun _ _ => rfl) s,
      readsFirst_of_reads (fun t => nextHub t (t.hub.calRead t.glob t.mem q tag)) (fun _ _ => rfl) s,
      readsFirst_of_reads (fun t => nextHub t (t.hub.calMeasure t.glob t.mem q tag data)) (fun _ _ => rfl) s,
      readsFirst_of_reads (fun t => .next (abortOf t q tag 0 b)) (fun _ _ => rfl) s,
      readsFirst_of_reads (fun t => .next (blockResetDoneOf t n k e)) (fun _ _ => rfl) s,
      readsFirst_of_reads (fun t => .next (dmaTimeout q tag data t)) (fun _ _ => rfl) s,
      readsFirst_of_reads (fun t => .next (dmaDone q tag t)) (fun _ _ => rfl) s,
      fun ha => ⟨readsFirst_of_wokenWhen (b := fun h => h.pathUp f n) (fun t => .next (flowPacketOf t f n p k)) (fun _ _ => rfl) ha,
        readsFirst_of_wokenWhen (b := Hub.netHears n) (sacnPacketRead n k sp) (fun _ _ => rfl) ha,
        exec_flowPacket_lines ha f n p k l, exec_sacnPacket_lines ha n k sp l⟩,
      rfl, rfl,
      readsFirst_of_reads (fun t => nextHub t (t.hub.virtualLine t.glob t.mem n bad)) (fun _ _ => rfl) s,
      readsFirst_of_reads (fun t => .next (calCopyDoneOf t n)) (fun _ _ => rfl) s,
      readsFirst_of_reads (fun t => .next (statInitDoneOf t n)) (fun _ _ => rfl) s,
      readsFirst_of_reads (fun t => .next (statSampleOf t)) (fun _ _ => rfl) s,
      readsFirst_of_reads (fun t => .next (statFoldOf t n)) (fun _ _ => rfl) s,
      readsFirst_of_reads (fun t => nextHub t (t.hub.msrStep t.glob t.mem)) (fun _ _ => rfl) s,
      readsFirst_of_reads (fun t => nextHub t (t.hub.enumWaitEnd t.glob t.mem n)) (fun _ _ => rfl) s,
      readsFirst_of_reads (fun t => .next (fixHeldReleaseOf t n)) (fun _ _ => rfl) s,
      readsFirst_of_reads (fun t => .next (downlinkOf t n k tx)) (fun _ _ => rfl) s,
      fun ha => readsFirst_of_wokenWhen (b := Hub.naushHears n) (fun t => nextHub t (t.hub.identityAnswer t.glob t.mem n k e ans)) (fun _ _ => rfl) ha,
      fun ha => ⟨readsFirst_of_wokenWhen (b := Hub.packetHears) (nextPair fun g hm => stateCopy g c b hm) (fun _ _ => rfl) ha,
        readsFirst_of_wokenWhen (b := Hub.packetHears) (nextPair fun g hm => mirroredFrame g n m hm) (fun _ _ => rfl) ha⟩⟩
  case sram =>
    intro line c err hhas hc hmiss hroom
    obtain ⟨hpend, hcount, hregs, hsnap⟩ := (doubleCounted_readLine_sram hc hmiss s.glob true (s.hub, s.mem)).trigger hroom s.glob 0x71 2
      (LineMem.address .sram line)
    exact ⟨_, exec_sramScrub_broken hs hhas (.inl rfl) hc hmiss, rfl, rfl, readLine_sram_mem hmiss .., readLine_broken hc hmiss .., hpend, hcount, hregs, hsnap⟩
  case loc =>
    intro w e line c err hp hw hhas hc hmiss hroom
    have hsram : w ≠ .sram := by
      rcases hw with rfl | rfl <;> simp
    have hbroken := readLine_broken (line := line) (w := w) hc hmiss s.glob true (s.hub, s.mem)
    have hmem := readLine_local_mem (line := line) hsram hmiss s.glob true (s.hub, s.mem)
    obtain ⟨hdram, himem, hdmem⟩ := s.mem.withBad_frame w (markCodewords (w.base line / 2) err.broken (s.mem.badOf w))
    obtain ⟨hpend, hcount, hregs, x, hx, -, htrig, haux⟩ :=
      (doubleCounted_readLine_local (line := line) hw hc hmiss s.glob true (s.hub, s.mem)).trigger hroom s.glob 0x71 2 (w.address line)
    refine ⟨_, exec_sramScrub_broken hs hhas (.inr hp) hc hmiss, rfl, rfl, ?_, ?_, ?_, hbroken, hpend, hcount, hregs, x, hx, htrig, haux⟩ <;>
      simp only [hmem, Memory.breakLine_eq, hdram, himem, hdmem]
  case corrected =>
    intro line err hhas hgood hfresh hb hmiss hfix
    exact ⟨_, exec_sramScrub_corrected hs hhas hgood hfresh hb hmiss hfix, ⟨rfl, rfl, rfl⟩, Hub.countCorrected_reports ..⟩
  case patrol =>
    intro block err hp hen hpoison hin hd
    obtain ⟨hcount, haddr, hpend⟩ := dramUncorrectable_counted s.hub s.glob s.mem block true
    exact ⟨_, exec_dramPatrolScrub_uncorrectable hs hen hp hpoison hin hd, rfl, rfl, rfl, s.mem.tagAt_poisonBlock block, hcount, haddr, hpend⟩
  case idle =>
    intro w line err hp hw
    rw [show exec (.sramScrub w line err) s = .next (sramScrubOf s w line err) from rfl, sramScrubOf, if_pos (by simp [hp, hw])]
  case idlePatrol =>
    intro block err h
    exact congrArg Host.Outcome.next (patrolOf_idle h err)

end Sys2Proof.Machine
end

section
/-! The safe state: what a command leaves of the chip's own state, and that only a reset ends the safe state (R26, R27). -/

namespace Sys2Proof.Machine

/-! ## The chip's own state after each operation of a state -/

/-- Where both branches of a choice leave the chip's own state, the choice does. -/
theorem glob_ite {s a b : State} {c : Prop} [Decidable c] (ha : a.glob = s.glob) (hb : b.glob = s.glob) : (if c then a else b).glob = s.glob := by
  split <;> assumption

/-- What every step of a fold keeps, the fold keeps. -/
theorem foldl_kept {σ α β : Type} (p : σ → β) {f : σ → α → σ} (hf : ∀ t a, p (f t a) = p t) (l : List α) (s : σ) : p (l.foldl f s) = p s :=
  List.foldlRecOn (motive := fun t => p t = p s) l f rfl fun t ht a _ => (hf t a).trans ht

section Wake

@[simp] theorem State.reads_glob (s : State) (errs : List (Nat × ReadError)) : (s.reads errs).glob = s.glob := rfl

@[simp] theorem State.ownLines_glob (s : State) (blk : Block) (b n : Nat) (lines : List (Nat × LineErr)) : (s.ownLines blk b n lines).glob = s.glob := rfl

@[simp] theorem State.firmwareLoads_glob (s : State) : s.firmwareLoads.glob = s.glob := by
  unfold State.firmwareLoads; split <;> rfl

@[simp] theorem State.firmwareIn_glob (s : State) : s.firmwareIn.glob = s.glob := by
  unfold State.firmwareIn; split <;> simp

@[simp] theorem wakeUp_glob (code : Nat) (s : State) : (wakeUp code s).glob = s.glob := by
  unfold wakeUp
  simp only [apply_ite State.glob, State.firmwareLoads_glob, ite_self]

@[simp] theorem State.wokenBy_glob (s : State) (code : Nat) : (s.wokenBy code).glob = s.glob := by
  unfold State.wokenBy; split <;> simp

@[simp] theorem State.reachedBy_glob (s : State) (who : Requester) : (s.reachedBy who).glob = s.glob := by
  unfold State.reachedBy; split <;> simp

end Wake

section Memory

@[simp] theorem sramScrubOf_glob (s : State) (w : LineMem) (line : Nat) (err : LineErr) : (sramScrubOf s w line err).glob = s.glob := by
  unfold sramScrubOf; split <;> rfl

@[simp] theorem patrolOf_glob (s : State) (block : Nat) (err : Option ReadError) : (patrolOf s block err).glob = s.glob := by
  unfold patrolOf; split <;> rfl

@[simp] theorem logReadOf_glob (s : State) (q tag : Nat) (lines : List (Nat × LineErr)) : (logReadOf s q tag lines).glob = s.glob := by
  unfold logReadOf
  split
  · rfl
  · simp only [apply_ite State.glob, ite_self]

end Memory

section Show

@[simp] theorem framePostOf_glob (s : State) (q tag : Nat) (data : List Byte) : (framePostOf s q tag data).glob = s.glob := by
  unfold framePostOf
  split
  · rfl
  · split <;> rfl

@[simp] theorem calLoadOf_glob (s : State) (q tag : Nat) (data : List Byte) : (calLoadOf s q tag data).glob = s.glob := by
  unfold calLoadOf
  dsimp only
  split
  · rfl
  · split <;> rfl

@[simp] theorem calCopyDoneOf_glob (s : State) (p : Nat) : (calCopyDoneOf s p).glob = s.glob := by
  unfold calCopyDoneOf; exact glob_ite rfl rfl

@[simp] theorem statInitDoneOf_glob (s : State) (p : Nat) : (statInitDoneOf s p).glob = s.glob := by
  unfold statInitDoneOf; exact glob_ite rfl rfl

@[simp] theorem statSampleOf_glob (s : State) : (statSampleOf s).glob = s.glob := by
  unfold statSampleOf
  dsimp only
  split
  · rfl
  · split
    · split <;> rfl
    · rfl

@[simp] theorem statFoldOf_glob (s : State) (p : Nat) : (statFoldOf s p).glob = s.glob := by
  unfold statFoldOf; simp only [apply_ite State.glob, ite_self]

@[simp] theorem flowPacketOf_glob (s : State) (f path : Nat) (p : FlowPkt) (freed : Nat) : (flowPacketOf s f path p freed).glob = s.glob := by
  unfold flowPacketOf
  dsimp only
  split
  · rfl
  · split
    · rfl
    · split
      · rfl
      · split <;> simp only [apply_ite State.glob, ite_self]

@[simp] theorem sendOdata_glob (s : State) (r : Nat) : (sendOdata s r).glob = s.glob := by
  unfold sendOdata
  dsimp only
  split <;> rfl

@[simp] theorem downlinkOf_glob (s : State) (r round : Nat) (tx : OdlTx) : (downlinkOf s r round tx).glob = s.glob := by
  unfold downlinkOf
  dsimp only
  split
  · rfl
  · generalize (if round = 0 then (s.hub.odl r).answers else 0) = answers
    split
    · rfl
    · cases tx <;> simp only [apply_ite State.glob, sendOdata_glob, ite_self]

@[simp] theorem sacnPacketOf_glob (s : State) (n sub : Nat) (p : SacnPkt) : (sacnPacketOf s n sub p).glob = s.glob := by
  unfold sacnPacketOf
  dsimp only
  split
  · rfl
  · split
    · rfl
    · split
      · rfl
      · split <;> simp only [apply_ite State.glob, ite_self]

@[simp] theorem sacnSyncOf_glob (s : State) (n sub addr : Nat) : (sacnSyncOf s n sub addr).glob = s.glob := by
  unfold sacnSyncOf; simp only [apply_ite State.glob, ite_self]

@[simp] theorem sacnSyncTimeoutOf_glob (s : State) (addr : Nat) : (sacnSyncTimeoutOf s addr).glob = s.glob := by
  unfold sacnSyncTimeoutOf; exact glob_ite rfl rfl

@[simp] theorem fixtureTickOf_glob (s : State) (pg : Nat) : (fixtureTickOf s pg).glob = s.glob := by
  unfold fixtureTickOf; simp only [apply_ite State.glob, ite_self]

@[simp] theorem fixHeldReleaseOf_glob (s : State) (j : Nat) : (fixHeldReleaseOf s j).glob = s.glob := by
  unfold fixHeldReleaseOf; simp only [apply_ite State.glob, ite_self]

end Show

section Abort

@[simp] theorem abortOf_glob (s : State) (q tag kind : Nat) (hung : Bool) : (abortOf s q tag kind hung).glob = s.glob := by
  unfold abortOf
  split
  · rfl
  · refine glob_ite rfl (glob_ite rfl (glob_ite rfl (glob_ite rfl ?_)))
    split
    · rfl
    · exact glob_ite rfl (glob_ite rfl rfl)

@[simp] theorem blockResetDoneOf_glob (s : State) (kind i units : Nat) : (blockResetDoneOf s kind i units).glob = s.glob := by
  unfold blockResetDoneOf
  split
  · rfl
  · split
    · rfl
    · exact glob_ite rfl rfl

end Abort

section Power

@[simp] theorem powerEntry_glob (s : State) : (powerEntry s).glob = s.glob := by
  unfold powerEntry; exact glob_ite rfl rfl

@[simp] theorem domainOff_glob (d : Nat) (s : State) : (domainOff d s).glob = s.glob := by
  unfold domainOff; exact glob_ite rfl rfl

@[simp] theorem domainRequestOff_glob (d : Nat) (s : State) : (domainRequestOff d s).glob = s.glob := by
  unfold domainRequestOff; exact glob_ite rfl (glob_ite rfl (domainOff_glob d s))

@[simp] theorem domCtlWrite_glob (value : Nat) (s : State) : (domCtlWrite value s).glob = s.glob := by
  unfold domCtlWrite
  refine foldl_kept State.glob (fun t d => ?_) _ _
  exact glob_ite rfl (glob_ite (domainRequestOff_glob d t) (glob_ite rfl rfl))

@[simp] theorem domBitWrite_glob (who : Requester) (d : Nat) (on : Bool) (s : State) : (domBitWrite who d on s).glob = s.glob := by
  unfold domBitWrite; exact glob_ite (domCtlWrite_glob ..) rfl

@[simp] theorem offPendingRun_glob (s : State) : (offPendingRun s).glob = s.glob := by
  unfold offPendingRun
  refine foldl_kept State.glob (fun t d => ?_) _ _
  exact domainRequestOff_glob d _

@[simp] theorem pwrCtl_glob (value : Nat) (s : State) : (pwrCtl value s).glob = s.glob := by
  unfold pwrCtl; exact glob_ite (wakeUp_glob ..) rfl

end Power

section Commit

@[simp] theorem setTakesEffect_glob (errs : List (Nat × ReadError)) (s : State) : (setTakesEffect errs s).glob = s.glob := rfl

@[simp] theorem dmaDone_glob (q tag : Nat) (s : State) : (dmaDone q tag s).glob = s.glob := by
  unfold dmaDone
  split
  · rfl
  · split
    · rfl
    · split <;> simp only [apply_ite State.glob, calLoadDone, ite_self]

@[simp] theorem dmaTimeout_glob (q tag : Nat) (poisoned : List Byte) (s : State) : (dmaTimeout q tag poisoned s).glob = s.glob := by
  unfold dmaTimeout
  split
  · rfl
  · split
    · rfl
    · split <;> rfl

@[simp] theorem fetchLine_glob (e : Nat) (err : LineErr) (s : State) : (fetchLine e err s).glob = s.glob := (fetchLine_frame e err s).2.1

@[simp] theorem loadAnswer_glob (e k : Nat) (s : State) : (loadAnswer e k s).glob = s.glob := by
  unfold loadAnswer
  split
  · rfl
  · split <;> rfl

end Commit

/-! ## The safe state stays -/

/-- The safe state holds on, with the cause that it had. -/
def StaysSafe (s t : State) : Prop := InSafeState s → InSafeState t ∧ t.glob.cause = s.glob.cause

namespace StaysSafe

variable {s t u : State}

theorem of_glob (h : t.glob = s.glob) : StaysSafe s t := fun hs => by rw [InSafeState, h]; exact ⟨hs, rfl⟩

theorem refl (s : State) : StaysSafe s s := of_glob rfl

theorem trans (h1 : StaysSafe s t) (h2 : StaysSafe t u) : StaysSafe s u := fun hs =>
  have ⟨ht, hc⟩ := h1 hs
  have ⟨hu, hd⟩ := h2 ht
  ⟨hu, hd.trans hc⟩

theorem ite {a b : State} {c : Prop} [Decidable c] (ha : StaysSafe s a) (hb : StaysSafe s b) : StaysSafe s (if c then a else b) := by
  split <;> assumption

theorem foldl {α : Type} {f : State → α → State} {l : List α} (hf : ∀ t, ∀ a ∈ l, StaysSafe t (f t a)) : StaysSafe s (l.foldl f s) :=
  List.foldlRecOn l f (refl s) fun t ht a ha => ht.trans (hf t a ha)

end StaysSafe

/-- In the safe state a cause changes nothing (R26). -/
theorem enterSafe_of_safe {gh : Glob × Hub} (cause : Nat) (h : gh.1.safe = true) : enterSafe cause gh = gh := by
  rw [enterSafe, if_pos h]

theorem staysSafe_enterSafe (cause : Nat) (h : Hub) (s : State) :
    StaysSafe s { s with glob := (enterSafe cause (s.glob, h)).1, hub := (enterSafe cause (s.glob, h)).2 } := fun hs => by
  rw [enterSafe_of_safe cause (gh := (s.glob, h)) hs]
  exact ⟨hs, rfl⟩

/-- In the safe state the isolation of a block leaves the chip's own state. -/
theorem isolate_glob_of_safe (b : Block) {gh : Glob × Hub} (h : gh.1.safe = true) : (isolate b gh).1 = gh.1 := by
  unfold isolate
  dsimp only
  split
  · rfl
  · rw [enterSafe_of_safe _ (by exact h)]

theorem engineBist_glob_of_safe (e : Nat) (fails : Bool) {gh : Glob × Hub} (h : gh.1.safe = true) : (engineBist e fails gh).1 = gh.1 := by
  unfold engineBist
  dsimp only
  split
  · rfl
  · exact isolate_glob_of_safe (.spr e) (by exact h)

theorem thermalSample_glob_of_safe (temps : List Int) {gh : Glob × Hub} (h : gh.1.safe = true) : (thermalSample temps gh).1 = gh.1 := by
  unfold thermalSample
  dsimp only
  split
  · rfl
  · split
    · rw [enterSafe_of_safe _ (by exact h)]
    · rfl

/-- Neither the floor that a confirmation raises nor a key that a service revokes is of the safe state. -/
theorem fwConfirm_safe (h : Hub) (g : Glob) (q tag : Nat) : (h.fwConfirm g q tag).1.safe = g.safe ∧ (h.fwConfirm g q tag).1.cause = g.cause := by
  unfold Hub.fwConfirm
  split
  · exact ⟨rfl, rfl⟩
  · dsimp only
    repeat' split
    all_goals exact ⟨rfl, rfl⟩

theorem revokeKey_safe (h : Hub) (g : Glob) (e : Nat) : (h.revokeKey g e).1.safe = g.safe ∧ (h.revokeKey g e).1.cause = g.cause := by
  unfold Hub.revokeKey
  split
  · exact ⟨rfl, rfl⟩
  · dsimp only
    split <;> exact ⟨rfl, rfl⟩

/-- In the safe state no engine executes, so an instruction does nothing (R26). -/
theorem engStep_of_safe {s : State} (hs : InSafeState s) (e : Nat) (regs : List Nat) (k : State → State) : engStep e regs k s = s := by
  rw [engStep, if_pos (by simp [Hub.executes, show s.glob.safe = true from hs])]

/-! ## Writes of registers -/

/-- GLB_RST and FWU_CTL are registers that the hub has once. -/
theorem rows_resetting : ∀ d ∈ Reg.all, (d.id = .GLB_RST → d.base = Reg.GLB_RST ∧ d.count1 = 1 ∧ d.stride1 = 0 ∧ d.count2 = 1 ∧ d.stride2 = 0) ∧
    (d.id = .FWU_CTL → d.base = Reg.FWU_CTL ∧ d.count1 = 1 ∧ d.stride1 = 0 ∧ d.count2 = 1 ∧ d.stride2 = 0) := by decide +kernel

theorem mem_all_of_rowsAt {off : Nat} {d : RegDesc} (h : d ∈ Reg.rowsAt off) : d ∈ Reg.all := by
  unfold Reg.rowsAt at h
  unfold Reg.all
  simp only [List.mem_append]
  split at h <;> simp_all

theorem mem_all_of_at {off i j : Nat} {d : RegDesc} (h : Reg.at off = some (d, i, j)) : d ∈ Reg.all ∧ d.inst off = some (i, j) := by
  obtain ⟨x, hx, hxd⟩ := List.exists_of_findSome?_eq_some h
  obtain ⟨p, hp, hpd⟩ := Option.map_eq_some_iff.mp hxd
  cases hpd
  exact ⟨mem_all_of_rowsAt hx, hp⟩


theorem staysSafe_writeClassF {s : State} {who : Requester} {d : RegDesc} (hrst : d.id ≠ .GLB_RST) (hfwu : d.id = .FWU_CTL → who.service = false)
    (i off value : Nat) : StaysSafe s (writeClassF who d i off value s) := by
  unfold writeClassF
  split
  case h_1 h => exact absurd h hrst
  case h_2 => exact .ite (staysSafe_enterSafe 7 s.hub s) (.refl s)
  case h_3 => exact .of_glob (pwrCtl_glob value s)
  case h_4 => exact .of_glob (domCtlWrite_glob value s)
  case h_5 h =>
    rw [hfwu h, Bool.and_false]
    exact .of_glob rfl
  case h_6 => exact .of_glob rfl

/-- The one offset at which a register lies that the hub has once. -/
theorem RegDesc.inst_single {d : RegDesc} {off i j base : Nat} (h : d.inst off = some (i, j))
    (hd : d.base = base ∧ d.count1 = 1 ∧ d.stride1 = 0 ∧ d.count2 = 1 ∧ d.stride2 = 0) : off = base := by
  obtain ⟨hb, hc1, hs1, hc2, hs2⟩ := hd
  simp only [RegDesc.inst, hb, hc1, hs1, hc2, hs2] at h
  split at h
  · cases h
  · simp at h
    omega

/-- Where GLB_RST and FWU_CTL lie. -/
theorem Reg.at_resetting {off i j : Nat} {d : RegDesc} (h : Reg.at off = some (d, i, j)) :
    (d.id = .GLB_RST → off = Reg.GLB_RST) ∧ (d.id = .FWU_CTL → off = Reg.FWU_CTL) := by
  obtain ⟨hmem, hinst⟩ := mem_all_of_at h
  obtain ⟨hrst, hfwu⟩ := rows_resetting d hmem
  exact ⟨fun hd => RegDesc.inst_single hinst (hrst hd), fun hd => RegDesc.inst_single hinst (hfwu hd)⟩

/-- A write of any register but the two that reset the hub. -/
theorem staysSafe_regWrite {off : Nat} (hrst : off ≠ Reg.GLB_RST) (hfwu : off ≠ Reg.FWU_CTL) (who : Requester) (value : Nat) (s : State) :
    StaysSafe s (regWrite who off value s) := by
  unfold regWrite
  split
  case h_1 => exact .refl s
  case h_2 => exact .of_glob rfl
  case h_3 d i j ha =>
    obtain ⟨hr, hf⟩ := Reg.at_resetting (Hub.accessAt_ok ha)
    exact .ite (.ite (staysSafe_writeClassF (fun h => hrst (hr h)) (fun h => absurd (hf h) hfwu) _ _ _) (.refl s)) (.of_glob rfl)

theorem staysSafe_regWrites {k off : Nat} (h : ∀ j, j < k → off + 4 * j ≠ Reg.GLB_RST ∧ off + 4 * j ≠ Reg.FWU_CTL) (who : Requester) (value : Nat)
    (s : State) : StaysSafe s (regWrites who off value k s) := by
  induction k generalizing off value s with
  | zero => exact .refl s
  | succ k ih =>
    obtain ⟨hrst, hfwu⟩ := h 0 (by omega)
    refine (staysSafe_regWrite hrst hfwu who _ s).trans (ih (fun j hj => ?_) _ _)
    have := h (j + 1) (by omega)
    rwa [show off + 4 + 4 * j = off + 4 * (j + 1) by omega]

theorem staysSafe_registerWrite {off size : Nat} (h : ∀ k, 4 * k < size → off + 4 * k ≠ Reg.GLB_RST ∧ off + 4 * k ≠ Reg.FWU_CTL) (who : Requester)
    (value : Nat) (s : State) : StaysSafe s (registerWrite who off value size s) := by
  unfold registerWrite
  refine .ite (.ite (.of_glob rfl) (.refl s)) (.ite (staysSafe_regWrites (fun j hj => h j ?_) who value s) (.refl s))
  omega

/-- An access of JTAG to a memory, or a read, leaves the chip's own state. -/
theorem staysSafe_jtagAccess {target : JtagTarget} {write : Option Nat}
    (h : ∀ off value, target = .reg off → write = some value → off ≠ Reg.GLB_RST ∧ off ≠ Reg.FWU_CTL) (errs : List (Nat × ReadError)) (line : LineErr)
    (s : State) : StaysSafe s (jtagAccess target write errs line s) := by
  unfold jtagAccess
  dsimp only
  split
  case h_1 off v =>
    obtain ⟨hrst, hfwu⟩ := h off v rfl rfl
    exact staysSafe_regWrite hrst hfwu .jtag _ s
  case h_5 => exact .ite (.refl s) (.ite (.of_glob rfl) (.of_glob rfl))
  case h_6 => exact .ite (.refl s) (.ite (.of_glob rfl) (.ite (.of_glob rfl) (.of_glob rfl)))
  all_goals exact .of_glob rfl

/-! ## The apply of a commit -/

/-- The set writes no register that resets the hub. -/
def NoStagedReset (h : Hub) : Prop := ∀ w ∈ h.commit.writes, w.off / 4 ≠ Reg.GLB_RST / 4

theorem NoStagedReset.setOf {h : Hub} (hw : NoStagedReset h) : ∀ w ∈ h.setOf, w.1 ≠ Reg.GLB_RST := by
  intro w hmem
  obtain ⟨off, hoff, rfl⟩ := List.mem_map.mp hmem
  rw [List.mem_mergeSort, Hub.stagedOffs, List.mem_eraseDups] at hoff
  obtain ⟨x, hx, rfl⟩ := List.mem_map.mp hoff
  have := hw x (List.mem_of_mem_filter hx)
  intro he
  exact this (congrArg (· / 4) he)

theorem staysSafe_applyFree {ws : List (Nat × Nat)} (h : ∀ w ∈ ws, w.1 ≠ Reg.GLB_RST) (s : State) : StaysSafe s (applyFree ws s) := by
  unfold applyFree
  refine .foldl fun t w hw => ?_
  split
  case h_1 d i j ha =>
    exact .ite (staysSafe_writeClassF (fun hd => h w hw ((Reg.at_resetting ha).1 hd)) (fun _ => rfl) _ _ _) (.refl t)
  case h_2 => exact .refl t

theorem staysSafe_setApplies {s : State} (hw : NoStagedReset s.hub) (errs : List (Nat × ReadError)) : StaysSafe s (setApplies errs s) := by
  unfold setApplies
  have hset (p : Nat × Nat → Bool) : ∀ w ∈ s.hub.setOf.filter p, w.1 ≠ Reg.GLB_RST := fun w hm => hw.setOf w (List.mem_of_mem_filter hm)
  have hfirst := staysSafe_applyFree (hset fun w => freeClass w.1 && clearsFirst w.1) s
  have hrest := staysSafe_applyFree (hset fun w => freeClass w.1 && !clearsFirst w.1)
  exact ((hfirst.trans (.of_glob (setTakesEffect_glob errs _))).trans (hrest _)).trans (.of_glob (offPendingRun_glob _))

theorem Hub.noticeMutes_commit (h : Hub) (come : Instant → Bool) : (h.noticeMutes come).commit = h.commit := by
  unfold Hub.noticeMutes
  split <;> rfl

theorem staysSafe_applyWhere {s : State} (hw : s.hub.commit.phase = .pending → NoStagedReset s.hub) (come : Instant → Bool)
    (errs : List (Nat × ReadError)) : StaysSafe s (applyWhere come errs s) := by
  unfold applyWhere
  dsimp only
  split
  case isTrue hp =>
    have hn : NoStagedReset (s.hub.noticeMutes come) := by
      rw [NoStagedReset, Hub.noticeMutes_commit]
      exact hw hp.1
    exact StaysSafe.trans (t := { s with hub := s.hub.noticeMutes come }) (.of_glob rfl) (staysSafe_setApplies hn errs)
  case isFalse => exact .of_glob rfl

theorem staysSafe_frameBegins {s : State} (hw : s.hub.commit.phase = .pending → NoStagedReset s.hub) (pg : Nat) (errs : List (Nat × ReadError))
    (act : PartnerAct) : StaysSafe s (frameBegins pg errs act s) := by
  unfold frameBegins
  have ht := staysSafe_applyWhere hw (s.hub.beginsNow pg) errs
  exact .ite (.of_glob rfl) (.ite ht (ht.trans (.of_glob rfl)))

/-! ## The safe state after a command -/

/-- A command completes in no state but one in which the safe state holds on. -/
def StaysSafeBy (s : State) (o : Host.Outcome State Fault Refusal) : Prop := ∀ t, o = .next t → StaysSafe s t

namespace StaysSafeBy

variable {s : State} {k : State → Host.Outcome State Fault Refusal}

theorem next {t : State} (h : StaysSafe s t) : StaysSafeBy s (.next t) := by
  rintro _ ⟨⟩; exact h

theorem glob {t : State} (h : t.glob = s.glob) : StaysSafeBy s (.next t) := next (.of_glob h)

theorem ite {c : Prop} [Decidable c] {a b : Host.Outcome State Fault Refusal} (ha : StaysSafeBy s a) (hb : StaysSafeBy s b) :
    StaysSafeBy s (if c then a else b) := by
  split <;> assumption

/-- A wake of the hub before the command leaves the safe state too. -/
theorem after {u : State} (hu : u.glob = s.glob) (hk : ∀ t, StaysSafeBy t (k t)) : StaysSafeBy s (k u) :=
  fun t ht => (StaysSafe.of_glob hu).trans (hk u t ht)

theorem reached {who : Requester} (hk : ∀ t, StaysSafeBy t (k t)) : StaysSafeBy s (reached who k s) :=
  after (u := s.reachedBy who) (s.reachedBy_glob who) hk

theorem woken {code : Nat} (hk : ∀ t, StaysSafeBy t (k t)) : StaysSafeBy s (woken code k s) :=
  after (u := s.wokenBy code) (s.wokenBy_glob code) hk

theorem wokenWhen {b : Hub → Bool} {code : Nat} (hk : ∀ t, StaysSafeBy t (k t)) : StaysSafeBy s (wokenWhen b code k s) :=
  after (u := if b s.hub then s.wokenBy code else s) (glob_ite (s.wokenBy_glob code) rfl) hk

/-- The chip's own state and the hub after an act of the chip fault manager. -/
theorem nextGlob {gh : Glob × Hub} (h : InSafeState s → gh.1.safe = true ∧ gh.1.cause = s.glob.cause) : StaysSafeBy s (nextGlob s gh) := next h

/-- An instruction of an engine does nothing after its fetch. -/
theorem fetched {regs : List Nat} {f : State → State} (e : Nat) (fetch : LineErr) : StaysSafeBy s (.next (engStep e regs f (fetchLine e fetch s))) :=
  next fun hs => by
    have hg := fetchLine_glob e fetch s
    rw [engStep_of_safe (by rw [InSafeState, hg]; exact hs), InSafeState, hg]
    exact ⟨hs, rfl⟩

end StaysSafeBy

theorem execSafeStateEntry_staysSafeBy (causes : List Nat) (s : State) : StaysSafeBy s (execSafeStateEntry causes s) := by
  unfold execSafeStateEntry
  split
  · exact .next (.refl s)
  · exact .next (staysSafe_enterSafe _ s.hub s)

theorem execIsolation_staysSafeBy (b : Block) (s : State) : StaysSafeBy s (execIsolation b s) :=
  .ite (.nextGlob fun hs => by rw [isolate_glob_of_safe b hs]; exact ⟨hs, rfl⟩) (.next (.refl s))

theorem execBlockResetTimeout_staysSafeBy (kind index : Nat) (s : State) : StaysSafeBy s (execBlockResetTimeout kind index s) := by
  unfold execBlockResetTimeout
  split
  · exact .next (.refl s)
  · split
    · exact .next (.refl s)
    · refine .nextGlob fun hs => ?_
      dsimp only
      split
      · rw [isolate_glob_of_safe _ hs]; exact ⟨hs, rfl⟩
      · exact ⟨hs, rfl⟩

theorem execThermalSample_staysSafeBy (temps : List Int) (s : State) : StaysSafeBy s (execThermalSample temps s) := by
  unfold execThermalSample
  have hg : (if thermalEvent temps s.hub s.glob then s.wokenBy 7 else s).glob = s.glob := glob_ite (s.wokenBy_glob 7) rfl
  refine .after (k := fun t => nextGlob t (thermalSample temps (t.glob, t.hub))) hg fun t => .nextGlob fun hs => ?_
  rw [thermalSample_glob_of_safe temps hs]
  exact ⟨hs, rfl⟩

theorem execSacnPacket_staysSafeBy (n sub : Nat) (p : SacnPkt) (errs : List (Nat × ReadError)) (lines : List (Nat × LineErr)) (s : State) :
    StaysSafeBy s (execSacnPacket n sub p errs lines s) :=
  .wokenWhen fun _ => .glob ((sacnPacketOf_glob ..).trans (glob_ite rfl rfl))

theorem exec_staysSafeBy {c : Instr} {s : State} (hres : resets c = false)
    (hcommit : (∃ errs, c = .commitApply errs) ∨ (∃ pg errs act, c = .frameBoundary pg errs act) → s.hub.commit.phase = .pending → NoStagedReset s.hub)
    (hwrite : ∀ who off value size, c = .registerWrite who off value size → ∀ k, 4 * k < size → off + 4 * k ≠ Reg.GLB_RST ∧ off + 4 * k ≠ Reg.FWU_CTL)
    (hjtag : ∀ off value errs line, c = .jtagAccess (.reg off) (some value) errs line → off ≠ Reg.GLB_RST ∧ off ≠ Reg.FWU_CTL) :
    StaysSafeBy s (exec c s) := by
  cases c
  -- the resets
  case coldReset | warmReset | porstLow | supplyDroop | trialTimeout | fwuReject => cases hres
  -- the hub and the memories change alone
  case cfgStage | cfgCommit | cfgDiscard | cfgRead | census | censusWaitEnd | frameArm | workPost | workCancel | calRead | calMeasure
      | logClear | fwStage | fwActivate | timeSet | timeAcceptJump | deferredJumpApply | targetQuiesced | abortEscalation
      | tileSend | pairQuery | pairEnable | pairDisable | requestActive | requestStandby | descriptorFetch | hostRegionReset | msixMessage
      | flitCrcError | ppsSnapshot | sourceLoss | qualityChange | compareFire | ppsOutput | tioPulseEnd
      | roundTripMeasurement | timeBaseSend | netLinkUp | netLinkDown | netPauseHoldEnd | netQueueHoldEvent | flowFrameComplete
      | flowPathTimeout | sacnSourceTimeout | virtualLine | applyLine | flipSend | msrStep | msrRunEnd | trainingStart
      | trainingAttemptTimeout | trainingWaitEnd | nshLinkUp | enumWaitEnd | tilePauseHoldEnd | tileHoldEvent | retryTimeout | rateShift
      | rateShiftComplete | shiftLockTimeout | beaconSend | beaconSfdCapture | assocReq | keepalive | odlFrameReject | nodeAdrift
      | addrLeaseEnd | transceiverRetry | storeErrorResponse | engineImageLoaded | colGrant | talusExpiry | saddleLinkUp | saddleLinkDown
      | saddleKeepalive | armRecordDeadline | heartbeatMiss | setPairingKey | saveSecRegisters | snapshotWrite | recordWrite
      | thermtrip | ptpMessageSend | prbsTestBlock | odlSeenFrame | commitCheckDone =>
    exact .glob rfl
  -- an access of a requester, which may wake the hub
  case directWriteRefused | sqCtlWrite | cqCtlWrite | evqCtlWrite | sqEpochWrite | intSrcMapWrite | glbLnkClr | fbArmGo | fbArmClr | msrStop
      | glbNshHint | engineStart | engineStop | fwuReady | crnTrig | crnClrSnap | crnClrRec | pmuFreeze | pmuClrAll | pmuEngineClr
      | pmuSetClr | pmuLoRead | pwrResClr =>
    unfold exec
    exact .reached fun _ => .glob rfl
  -- an access of the host through a BAR, and an arrival from outside
  case sqTail | cqHead | evqHead | vecRearm | msixTableWrite =>
    unfold exec
    exact .woken fun _ => .glob rfl
  case msixCapabilityWrite | ptpMessageReceive | tioInputEdge | netFrameReceive | pauseFrameReceive | blockLockLoss | lockLossTimeout
      | nshFrameReject | ackReceive | tilePause | identityAnswer | digestAnswer | faultReport | frameReport | measurementAnswer | armRecord
      | mirroredFrame | mirrorReceipt | stateCopy | healthRecord | outputDigest | saddleTimeTransfer | saddleKeepaliveReceive
      | saddlePacketDiscard | standbyEnumRequest | shiftReceive =>
    unfold exec
    exact .wokenWhen fun _ => .glob rfl
  case commitNotice =>
    unfold exec
    exact .wokenWhen fun t => .glob (glob_ite (s := t) rfl rfl)
  -- commit, DMA and the logs
  case commitApply errs => exact .next (staysSafe_applyWhere (hcommit (.inl ⟨errs, rfl⟩)) _ errs)
  case frameBoundary pg errs act => exact .next (staysSafe_frameBegins (hcommit (.inr ⟨pg, errs, act, rfl⟩)) pg errs act)
  case dmaTransferDone q tag errs => exact .glob (dmaDone_glob q tag (s.reads errs))
  case dmaReadTimeout q tag data errs => exact .glob (dmaTimeout_glob q tag data (s.reads errs))
  case logRead => exact .glob (logReadOf_glob ..)
  -- memory, frames, calibration, ingest and fixtures
  case sramScrub => exact .glob (sramScrubOf_glob ..)
  case dramPatrolScrub => exact .glob (patrolOf_glob ..)
  case framePost q tag data errs => exact .glob (framePostOf_glob (s.reads errs) q tag data)
  case calLoad q tag data errs => exact .glob (calLoadOf_glob (s.reads errs) q tag data)
  case calCopyDone p errs => exact .glob (calCopyDoneOf_glob (s.reads errs) p)
  case statInitDone p errs => exact .glob (statInitDoneOf_glob (s.reads errs) p)
  case statSample errs => exact .glob (statSampleOf_glob (s.reads errs))
  case statFold p errs => exact .glob (statFoldOf_glob (s.reads errs) p)
  case flowPacket =>
    unfold exec
    exact .wokenWhen fun _ => .glob (flowPacketOf_glob ..)
  case sacnPacket n sub p errs lines => exact execSacnPacket_staysSafeBy n sub p errs lines s
  case sacnSyncPacket =>
    unfold exec
    exact .wokenWhen fun _ => .glob (sacnSyncOf_glob ..)
  case sacnSyncTimeout => exact .glob (sacnSyncTimeoutOf_glob ..)
  case fixtureTick => exact .ite (.glob rfl) (.glob (fixtureTickOf_glob ..))
  case fixHeldRelease n errs => exact .glob (fixHeldReleaseOf_glob (s.reads errs) n)
  case downlinkRound r round tx errs => exact .glob (downlinkOf_glob (s.reads errs) r round tx)
  -- ABORT
  case abortEngine q tag hung errs => exact .glob (abortOf_glob (s.reads errs) q tag 0 hung)
  case abortRing | abortColLevel | abortPipe | abortPort | abortFlow | abortRadio => exact .glob (abortOf_glob ..)
  case blockResetDone kind index units errs => exact .glob (blockResetDoneOf_glob (s.reads errs) kind index units)
  case blockResetTimeout kind index => exact execBlockResetTimeout_staysSafeBy kind index s
  -- the causes of the safe state, which holds already
  case forceSafe =>
    unfold exec
    exact .reached fun t => .ite (.next (staysSafe_enterSafe 7 t.hub t)) (.glob rfl)
  case isolation b => exact execIsolation_staysSafeBy b s
  case isolationTimeout => exact .ite (.next (staysSafe_enterSafe 3 s.hub s)) (.glob rfl)
  case safeStateEntry causes => exact execSafeStateEntry_staysSafeBy causes s
  case rootPllLockLost => exact .next (staysSafe_enterSafe 1 (s.hub.lockLost false) s)
  case refclkFailure => exact .next (staysSafe_enterSafe 1 (s.hub.lockLost true) s)
  case thermalSample temps => exact execThermalSample_staysSafeBy temps s
  case engineBist e fails => exact .nextGlob fun hs => by rw [engineBist_glob_of_safe e fails hs]; exact ⟨hs, rfl⟩
  -- the fuses, which a confirmation and a service blow
  case fwConfirm q tag =>
    obtain ⟨hsafe, hcause⟩ := fwConfirm_safe s.hub s.glob q tag
    exact .next fun hs => ⟨hsafe.trans hs, hcause⟩
  case revokeKey e =>
    obtain ⟨hsafe, hcause⟩ := revokeKey_safe s.hub s.glob e
    exact .next fun hs => ⟨hsafe.trans hs, hcause⟩
  -- registers and power
  case registerWrite who off value size =>
    unfold exec
    exact .reached fun t => .next (staysSafe_registerWrite (hwrite who off value size rfl) who value t)
  case jtagAccess target write errs line =>
    exact .next (staysSafe_jtagAccess (fun off v ht hw => hjtag off v errs line (by rw [ht, hw])) errs line s)
  case powerStateEntry => exact .glob (powerEntry_glob s)
  case wake code => exact .glob (glob_ite rfl (s.wokenBy_glob code))
  case domainPowerOff | domainPowerOn =>
    unfold exec
    exact .reached fun _ => .glob (glob_ite (domBitWrite_glob ..) rfl)
  case pwrCtlWrite =>
    unfold exec
    exact .reached fun _ => .glob (glob_ite (pwrCtl_glob ..) rfl)
  case flashOperationDone => exact .glob (glob_ite (State.firmwareIn_glob _) rfl)
  -- the instructions of an engine
  case scalarAlu e ins fetch =>
    rw [show exec (.scalarAlu e ins fetch) s = .next (scalarOf e ins (fetchLine e fetch s)) from rfl, scalarOf.eq_def]
    exact .fetched e fetch
  case branch e ins fetch =>
    rw [show exec (.branch e ins fetch) s = .next (branchOf e ins (fetchLine e fetch s)) from rfl, branchOf.eq_def]
    exact .fetched e fetch
  case load | store | atomic | vectorOp | wget | wdone | wpost | wdefer | cntrd | fence | csrr | csrw | eret | npost | signal | trap | bkpt =>
    exact .fetched _ _
  case loadResponse => exact .glob (loadAnswer_glob ..)
  case illegalInstruction e word fetch =>
    exact .next (.ite (.refl s) (StaysSafeBy.fetched (regs := []) (f := engTrap e 1 0) e fetch _ rfl))

/-- Settles O6, by the case split over the commands: all but the resets leave the chip's own state, or are causes that find the safe state there. -/
theorem onlyResetsLeaveTheSafeState : Obligations.OnlyResetsLeaveTheSafeState := by
  intro c s t hs ht hres hcommit hwrite hjtag
  exact exec_staysSafeBy hres hcommit hwrite hjtag t ht hs

end Sys2Proof.Machine
end

section
/-! Entry to the safe state and isolation: what stops, and what of the power and fault state it leaves (R22 to R26). -/

namespace Sys2Proof.Machine

/-! ## What ends with a block or at safe-state entry leaves the power and fault state -/

@[simp] theorem Hub.modSaddle_power (h : Hub) (f : Saddle → Saddle) : (h.modSaddle f).power = h.power := rfl

@[simp] theorem Hub.completed_power (h : Hub) (g : Glob) (q tag status : Nat) (result : List Byte) : (h.complete g q tag status result).power = h.power :=
  (Hub.complete_frame h g q tag status result).2.2.2.1

@[simp] theorem Hub.confirmsGo_power (h : Hub) (g : Glob) : (h.confirmsGo g).power = h.power := by
  unfold Hub.confirmsGo
  split
  · rfl
  · exact foldl_kept Hub.power (fun k q => foldl_kept Hub.power (fun _ _ => Hub.completed_power ..) _ k) _ h

@[simp] theorem Hub.groupTrigger_power (h : Hub) (pg : Nat) : (h.groupTrigger pg).power = h.power := by
  unfold Hub.groupTrigger Hub.groupUpshift
  dsimp only
  split
  · exact (foldl_kept Hub.power (fun _ _ => by rfl) _ _).trans rfl
  · rfl

@[simp] theorem Hub.calLoadEnd_power (h : Hub) (q tag p : Nat) : (h.calLoadEnd q tag p).power = h.power := Hub.groupTrigger_power ..

@[simp] theorem Hub.fetchedCut_power (h : Hub) (g : Glob) (d : Desc) : (h.fetchedCut g d).power = h.power := by
  unfold Hub.fetchedCut Hub.fwStageBegin
  split
  · split <;> rfl
  · rfl

@[simp] theorem Hub.msrEnd_power (h : Hub) (g : Glob) (status : Nat) : (h.msrEnd g status).power = h.power := by
  have hcmps : ∀ (l : List Nat), (l.foldl (fun k c => if k.seqUnit c then k.setCmp c { k.cmp c with next := none } else k) h).power = h.power :=
    fun l => foldl_kept Hub.power (fun k c => by split <;> rfl) l h
  unfold Hub.msrEnd
  split
  · rfl
  · split
    · exact (Hub.completed_power ..).trans (hcmps _)
    · exact hcmps _

@[simp] theorem Hub.cutMoving_power (h : Hub) (g : Glob) (q status : Nat) (d : Desc) : (h.cutMoving g q status d).power = h.power := by
  unfold Hub.cutMoving
  rw [Hub.completed_power]
  split
  case h_2 => exact Hub.calLoadEnd_power ..
  all_goals rfl

@[simp] theorem Hub.cutWaiting_power (h : Hub) (g : Glob) (q status : Nat) (d : Desc) : (h.cutWaiting g q status d).power = h.power := by
  unfold Hub.cutWaiting Hub.tileSendCut
  split
  case h_1 => exact (Hub.cancelCommit_frame h g).2.2.1
  case h_2 => exact Hub.msrEnd_power ..
  case h_5 => exact (Hub.completed_power ..).trans (foldl_kept Hub.power (fun _ _ => by rfl) _ h)
  case h_7 =>
    split
    · rfl
    · exact (Hub.completed_power ..).trans (foldl_kept Hub.power (fun _ _ => by rfl) _ h)
  case h_9 => rfl
  all_goals exact Hub.completed_power ..

@[simp] theorem Hub.cutDesc_power (h : Hub) (g : Glob) (q status : Nat) (d : Desc) : (h.cutDesc g q status d).power = h.power := by
  unfold Hub.cutDesc
  split
  · simp only [Hub.completed_power, Hub.fetchedCut_power]
  · split <;> simp only [Hub.confirmsGo_power, Hub.cutMoving_power]
  · split <;> simp only [Hub.confirmsGo_power, Hub.cutWaiting_power]

@[simp] theorem Hub.cutWhere_power (h : Hub) (g : Glob) (status : Nat) (p : Desc → Bool) : (h.cutWhere g status p).power = h.power :=
  foldl_kept Hub.power (fun k _ => foldl_kept Hub.power (fun _ _ => Hub.cutDesc_power ..) _ k) _ h

@[simp] theorem Hub.dropFrames_power (h : Hub) (g : Glob) (n status : Nat) : (h.dropFrames g n status).power = h.power := by
  unfold Hub.dropFrames
  refine (foldl_kept Hub.power (fun k f => ?_) _ _).trans rfl
  split
  · exact Hub.completed_power ..
  · rfl

@[simp] theorem Hub.laneIdles_power (h : Hub) (n : Nat) : (h.laneIdles n).power = h.power := by
  unfold Hub.laneIdles
  split <;> rfl

@[simp] theorem Hub.colIsolated_power (h : Hub) (g : Glob) : (h.colIsolated g).power = h.power := by
  unfold Hub.colIsolated Hub.colItems
  refine foldl_kept Hub.power (fun k i => ?_) _ _
  split
  · exact Hub.completed_power ..
  · rfl

@[simp] theorem Hub.saddleSend_power (h : Hub) (o : Out) : (h.saddleSend o).power = h.power := by
  unfold Hub.saddleSend Hub.saddleSendLong
  split <;> rfl

@[simp] theorem Hub.sendHealth_power (h : Hub) (g : Glob) : (h.sendHealth g).power = h.power := by
  unfold Hub.sendHealth
  split
  · rfl
  · exact Hub.saddleSend_power ..

@[simp] theorem Hub.endServed_power (h : Hub) (g : Glob) (b : Block) : (h.endServed g b).power = h.power := by
  unfold Hub.endServed
  split
  · exact Hub.dropFrames_power ..
  · exact Hub.colIsolated_power ..
  · exact Hub.cutWhere_power ..

/-! ## The engines as they halt -/

theorem Hub.endItem_frame (h : Hub) (g : Glob) (i : WorkItem) (status : Nat) :
    (h.endItem g i status).engines = h.engines ∧ (h.endItem g i status).power = h.power := by
  unfold Hub.endItem
  cases i.owner with
  | none => exact ⟨rfl, rfl⟩
  | some p => simp

theorem Hub.endWork_frame (h : Hub) (g : Glob) (e : Nat) : (h.endWork g e).engines = h.engines ∧ (h.endWork g e).power = h.power := by
  unfold Hub.endWork
  dsimp only
  split
  · exact Hub.endItem_frame ..
  · exact ⟨rfl, rfl⟩

@[simp] theorem Hub.haltEngine_power (h : Hub) (g : Glob) (e : Nat) : (h.haltEngine g e).power = h.power := (Hub.endWork_frame h g e).2

/-- An engine that halts is halted with no load outstanding, and the others are as they were. -/
theorem Hub.eng_haltEngine (h : Hub) (g : Glob) (e j : Nat) :
    (h.haltEngine g e).eng j = if e = j then { (h.eng e).halt with item := none } else h.eng j := by
  have he : ∀ k, (h.endWork g e).eng k = h.eng k := fun k => by rw [Hub.eng, (Hub.endWork_frame h g e).1, Hub.eng]
  rw [Hub.haltEngine, Hub.modEng, Hub.eng_setEng, he, he]

/-- An engine halts in the sense of R26: halted, and without outstanding loads. -/
def Hub.Halted (h : Hub) (e : Nat) : Prop := (h.eng e).phase = .halted ∧ (h.eng e).loads = []

/-- Once each engine of a list halts, all of them are halted. -/
theorem Hub.halted_foldl (g : Glob) (l : List Nat) (h : Hub) {e : Nat} (he : e ∈ l ∨ h.Halted e) :
    (l.foldl (fun k e => k.haltEngine g e) h).Halted e := by
  induction l generalizing h with
  | nil => simpa using he
  | cons a l ih =>
    refine ih _ ?_
    by_cases hae : a = e
    · right
      rw [Hub.Halted, Hub.eng_haltEngine, if_pos hae]
      exact ⟨rfl, rfl⟩
    · rcases he with hm | hh
      · exact .inl ((List.mem_cons.mp hm).resolve_left (Ne.symm hae))
      · right
        rwa [Hub.Halted, Hub.eng_haltEngine, if_neg hae]

theorem Hub.halted_of_engines {h h' : Hub} (hk : h'.engines = h.engines) {e : Nat} (hh : h.Halted e) : h'.Halted e := by
  rwa [Hub.Halted, Hub.eng, hk]

/-! ## Entry to the safe state -/

@[simp] theorem Hub.safeSnapshots_power (h : Hub) (g : Glob) (cause : Nat) : (h.safeSnapshots g cause).power = h.power :=
  foldl_kept Hub.power (fun _ _ => by rfl) _ h

/-- The hub with its frames and transfers ended and its lanes idle, before its engines halt. -/
def Hub.safeQuiet (h : Hub) (g : Glob) : Hub :=
  (List.range 32).foldl (fun h n => if h.bit (Reg.NSHn_CTL n) 0 then h.laneIdles n else h)
    ((List.range 32).foldl (fun h n => h.dropFrames g n Status.aborted) ((h.cancelCommit g).cutWhere g Status.aborted Desc.endsInSafe))

/-- The radios halt and the PTP roles end. -/
def Hub.safeRoles (h : Hub) : Hub :=
  (List.range 4).foldl (fun h t => h.setBase t { h.base t with master := none, slaveValid := false })
    ((List.range 2).foldl (fun h r => h.modOdl r (fun x => { x with phase := if x.phase = .off then .off else .halted, plan := none })) h)

theorem Hub.safeStop_eq (h : Hub) (g : Glob) :
    h.safeStop g = ((List.range 24).foldl (fun k e => k.haltEngine g e) (h.safeQuiet g)).safeRoles := rfl

@[simp] theorem Hub.safeQuiet_power (h : Hub) (g : Glob) : (h.safeQuiet g).power = h.power := by
  unfold Hub.safeQuiet
  rw [foldl_kept Hub.power (fun k n => by split <;> simp), foldl_kept Hub.power (fun _ _ => Hub.dropFrames_power ..), Hub.cutWhere_power]
  exact (Hub.cancelCommit_frame h g).2.2.1

theorem Hub.safeRoles_frame (h : Hub) : h.safeRoles.engines = h.engines ∧ h.safeRoles.power = h.power := by
  constructor
  · exact (foldl_kept Hub.engines (fun _ _ => by rfl) _ _).trans (foldl_kept Hub.engines (fun _ _ => by rfl) _ h)
  · exact (foldl_kept Hub.power (fun _ _ => by rfl) _ _).trans (foldl_kept Hub.power (fun _ _ => by rfl) _ h)

@[simp] theorem Hub.safeStop_power (h : Hub) (g : Glob) : (h.safeStop g).power = h.power := by
  rw [Hub.safeStop_eq, (Hub.safeRoles_frame _).2, foldl_kept Hub.power (fun _ _ => Hub.haltEngine_power ..), Hub.safeQuiet_power]

theorem Hub.safeStop_halted (h : Hub) (g : Glob) {e : Nat} (he : e < 24) : (h.safeStop g).Halted e := by
  rw [Hub.safeStop_eq]
  exact Hub.halted_of_engines (Hub.safeRoles_frame _).1 (Hub.halted_foldl g _ _ (.inl (by simpa using he)))

@[simp] theorem Hub.saddleSend_engines (h : Hub) (o : Out) : (h.saddleSend o).engines = h.engines := by
  unfold Hub.saddleSend Hub.saddleSendLong
  split <;> rfl

@[simp] theorem Hub.sendHealth_engines (h : Hub) (g : Glob) : (h.sendHealth g).engines = h.engines := by
  unfold Hub.sendHealth
  split
  · rfl
  · exact Hub.saddleSend_engines ..

/-- What the chip holds in the safe state with a cause (R26). -/
def Glob.inSafe (g : Glob) (cause : Nat) : Glob := { g with safe := true, cause := cause, forced := cause == 7 }

/-- Entry to the safe state: its cause, the engines halted, and the power and fault state as it was. -/
theorem enterSafe_entered {g : Glob} (hg : g.safe = false) (cause : Nat) (h : Hub) :
    (enterSafe cause (g, h)).1 = g.inSafe cause ∧ (enterSafe cause (g, h)).2.power = h.power ∧ ∀ e, e < 24 → (enterSafe cause (g, h)).2.Halted e := by
  rw [enterSafe, if_neg (by simp [hg])]
  refine ⟨rfl, ?_, fun e he => ?_⟩
  · simp
  · refine Hub.halted_of_engines ?_ (Hub.safeStop_halted (h.safeSnapshots (g.inSafe cause) cause) (g.inSafe cause) he)
    simp [Glob.inSafe]

/-! ## The causes -/

/-- The state after the chip fault manager has found a cause. -/
theorem entered_enterSafe {s : State} (hs : s.glob.safe = false) (cause : Nat) (h : Hub) :
    Entered cause s { s with glob := (enterSafe cause (s.glob, h)).1, hub := (enterSafe cause (s.glob, h)).2 } := by
  obtain ⟨hglob, -, hhalt⟩ := enterSafe_entered hs cause h
  exact ⟨hglob, rfl, rfl, hhalt⟩

/-- Of coincident causes the lowest is taken. -/
theorem min?_chipCause {causes : List Nat} {c : Nat} (hc : c ∈ causes) (hchip : chipCause c = true)
    (hmin : ∀ d, d ∈ causes → chipCause d = true → c ≤ d) : (causes.filter chipCause).min? = some c := by
  rw [List.min?_eq_some_iff]
  refine ⟨List.mem_filter.mpr ⟨hc, hchip⟩, fun d hd => ?_⟩
  obtain ⟨hmem, hd⟩ := List.mem_filter.mp hd
  exact hmin d hmem hd

theorem exec_forceSafe {s : State} {who : Requester} (hq : s.hub.quietTo who = true) (ha : s.hub.allows s.glob who Reg.GLB_FLT_CTL = true) :
    exec (.forceSafe who) s = nextGlob s (enterSafe 7 (s.glob, s.hub)) := by
  rw [show exec (.forceSafe who) s = execForceSafe who s from rfl, execForceSafe, reached_quiet _ hq, if_pos ha]

theorem exec_isolationTimeout {s : State} {b : Block} (hb : s.hub.power.reported.contains b = true) :
    exec (.isolationTimeout b) s = nextGlob s (enterSafe 3 (s.glob, s.hub)) := if_pos hb

theorem exec_isolation {s : State} {b : Block} (hb : s.hub.power.reported.contains b = true) :
    exec (.isolation b) s = nextGlob s (isolate b (s.glob, s.hub)) := if_pos hb

/-- In the safe state a cause leaves the state as it is. -/
theorem nextGlob_enterSafe_of_safe {s : State} (hs : s.glob.safe = true) (cause : Nat) : nextGlob s (enterSafe cause (s.glob, s.hub)) = .next s := by
  rw [enterSafe_of_safe cause (gh := (s.glob, s.hub)) hs]

/-- Settles O9: out of the safe state each cause is one `enterSafe`, which in the safe state does nothing. -/
theorem safeStateKeepsItsFirstCause : Obligations.SafeStateKeepsItsFirstCause := by
  constructor
  · intro s hs
    refine ⟨?entry, ?force, ?lock, ?clock, ?timeout⟩
    case entry =>
      intro causes c hc hchip hmin
      refine ⟨_, ?_, entered_enterSafe hs c s.hub⟩
      rw [show exec (.safeStateEntry causes) s = execSafeStateEntry causes s from rfl, execSafeStateEntry, min?_chipCause hc hchip hmin]
    case force => exact fun who hq ha => ⟨_, exec_forceSafe hq ha, entered_enterSafe hs 7 s.hub⟩
    case lock =>
      obtain ⟨-, hpower, -⟩ := enterSafe_entered hs 1 (s.hub.lockLost false)
      exact ⟨_, rfl, entered_enterSafe hs 1 _, congrArg Power.rootLock hpower, congrArg Power.bypass hpower⟩
    case clock =>
      obtain ⟨-, hpower, -⟩ := enterSafe_entered hs 1 (s.hub.lockLost true)
      refine ⟨_, rfl, entered_enterSafe hs 1 _, congrArg Power.rootLock hpower, (congrArg Power.refFailed hpower).trans ?_⟩
      exact Bool.or_true _
    case timeout => exact fun b hb => ⟨_, exec_isolationTimeout hb, entered_enterSafe hs 3 s.hub⟩
  · intro s hs
    refine ⟨?entry, ?force, ?timeout, ?lock, ?clock, ?isolation⟩
    case entry =>
      intro causes
      rw [show exec (.safeStateEntry causes) s = execSafeStateEntry causes s from rfl, execSafeStateEntry]
      split
      · rfl
      · exact nextGlob_enterSafe_of_safe hs _
    case force => exact fun who hq ha => (exec_forceSafe hq ha).trans (nextGlob_enterSafe_of_safe hs 7)
    case timeout =>
      intro b
      by_cases hb : s.hub.power.reported.contains b = true
      · exact (exec_isolationTimeout hb).trans (nextGlob_enterSafe_of_safe hs 3)
      · exact if_neg hb
    case lock => exact ⟨_, rfl, congrArg Prod.fst (enterSafe_of_safe 1 (gh := (s.glob, s.hub.lockLost false)) hs)⟩
    case clock => exact ⟨_, rfl, congrArg Prod.fst (enterSafe_of_safe 1 (gh := (s.glob, s.hub.lockLost true)) hs)⟩
    case isolation =>
      intro b
      by_cases hb : s.hub.power.reported.contains b = true
      · exact ⟨_, exec_isolation hb, isolate_glob_of_safe b (gh := (s.glob, s.hub)) hs⟩
      · exact ⟨s, if_neg hb, rfl⟩

/-! ## Isolation -/

/-- What a region fault manager does to the power and fault state: it isolates the block. -/
def Power.isolating (p : Power) (b : Block) : Power :=
  { p with
    isolated := if p.isolated.contains b then p.isolated else b :: p.isolated
    reported := p.reported.filter (· != b), isoEvt := p.isoEvt ||| 2 ^ b.region }

/-- The hub with a block isolated and its work ended, before the chip fault manager acts. -/
theorem isolate_eq (b : Block) (g : Glob) (h : Hub) :
    ∃ k : Hub, k.power = h.power.isolating b ∧ isolate b (g, h) = if b.chipCause = 0 then (g, k) else enterSafe b.chipCause (g, k) := by
  have hcommit (c : Bool) (k : Hub) : (if c then k.cancelCommit g else k).power = k.power := by
    cases c
    · rfl
    · exact (Hub.cancelCommit_frame k g).2.2.1
  refine ⟨_, ?_, rfl⟩
  rw [Hub.endServed_power, hcommit]
  split <;> rfl

theorem isolate_power {g : Glob} (hg : g.safe = false) (b : Block) (h : Hub) : (isolate b (g, h)).2.power = h.power.isolating b := by
  obtain ⟨k, hk, he⟩ := isolate_eq b g h
  rw [he]
  split
  · exact hk
  · exact (enterSafe_entered hg _ k).2.1.trans hk

theorem Power.isolating_isolated (p : Power) (b : Block) : (p.isolating b).isolated.contains b = true := by
  unfold Power.isolating
  dsimp only
  split
  · assumption
  · simp

theorem Power.isolating_reported (p : Power) (b : Block) : (p.isolating b).reported.contains b = false := by
  simp [Power.isolating]

theorem Block.chipCause_ne_force (b : Block) : b.chipCause ≠ 7 := by
  unfold Block.chipCause
  split <;> decide

/-- Settles O10: of the power and fault state the isolation changes the block's own entries, and the chip fault manager acts on the cause of the table alone. -/
theorem isolationFencesAndEscalates : Obligations.IsolationFencesAndEscalates := by
  intro s b hb hs
  have hpower := isolate_power hs b s.hub
  refine ⟨_, exec_isolation hb, ?_, ?_, congrArg Power.isoEvt hpower, fun h0 => ?_, fun h0 => ?_, rfl, rfl⟩
  · rw [Hub.isolatedBlock, hpower]
    exact Power.isolating_isolated ..
  · rw [hpower]
    exact Power.isolating_reported ..
  · obtain ⟨k, -, he⟩ := isolate_eq b s.glob s.hub
    rw [he, if_pos h0]
  · obtain ⟨k, -, he⟩ := isolate_eq b s.glob s.hub
    rw [he, if_neg h0]
    have hforced : (b.chipCause == 7) = false := by simpa using b.chipCause_ne_force
    rw [(enterSafe_entered hs _ k).1, Glob.inSafe, hforced]

/-! ## Mesh links -/

theorem Hub.blockReport_contains {h : Hub} {b : Block} (hb : h.isolatedBlock b = false) : (h.blockReport b).power.reported.contains b = true := by
  unfold Hub.blockReport
  split
  case isTrue hc => simpa [hb] using hc
  case isFalse => simp

theorem Hub.blockReport_rd (h : Hub) (b : Block) (off : Nat) : (h.blockReport b).rd off = h.rd off :=
  Hub.rd_of_regs _ _ (by unfold Hub.blockReport; split <;> rfl) off

/-- A block fault writes no register but the pending ones. -/
theorem Hub.blockFault_regsKept (h : Hub) (g : Glob) (b : Block) : RegsKeptBut pendRegs h (h.blockFault g b) := by
  intro off hoff
  unfold Hub.blockFault
  split
  · rfl
  · split
    · rw [Hub.blockReport_rd, Hub.rd_raise _ _ _ _ _ hoff]
      rfl
    · exact Hub.blockReport_rd ..

/-- A block that is not isolated has then reported a fault (R22). -/
theorem Hub.blockFault_reported {h : Hub} {b : Block} (g : Glob) (hb : h.isolatedBlock b = false) : (h.blockFault g b).power.reported.contains b = true := by
  unfold Hub.blockFault
  split
  case isTrue hc => simpa [hb] using hc
  case isFalse =>
    split
    · refine Hub.blockReport_contains ?_
      rw [Hub.isolatedBlock, (Hub.raise_frame _ _ _ _).2.2.2.1]
      exact hb
    · exact Hub.blockReport_contains hb

/-- The interrupt source of a block that reports its first fault is pending. -/
theorem Hub.blockFault_pending {h : Hub} {b : Block} {src : Nat} (g : Glob) (hsrc : b.source = some src) (hres : sourceReserved src = false)
    (hb : h.isolatedBlock b = false) (hrep : h.power.reported.contains b = false) : (h.blockFault g b).pending src = true := by
  rw [Hub.blockFault, if_neg (by rw [hrep, hb]; decide), hsrc]
  dsimp only
  rw [Hub.pending_of_rd _ _ (Hub.blockReport_rd _ b)]
  exact Hub.pending_raise _ g src _ hres

/-- The registers after each of a list has been given a value. -/
theorem Hub.rd_foldl_wr {α : Type} (a : α → Nat) (v : Word) (l : List α) (h : Hub) (off : Nat) :
    (l.foldl (fun k x => k.wr (a x) v) h).rd off = if off ∈ l.map a then v else h.rd off := by
  induction l generalizing h with
  | nil => rfl
  | cons x l ih =>
    rw [List.foldl_cons, ih, List.map_cons]
    by_cases hl : off ∈ l.map a
    · rw [if_pos hl, if_pos (List.mem_cons_of_mem _ hl)]
    · by_cases hx : off = a x
      · rw [if_neg hl, if_pos (by simp [hx]), hx, Hub.rd_wr_same]
      · rw [if_neg hl, if_neg (by simpa [hl] using hx), Hub.rd_wr_ne _ _ _ _ (Ne.symm hx)]

theorem classRw_glbLnkClr : Reg.classRw Reg.GLB_LNK_CLR = some (.f, 0) := by decide +kernel

theorem exec_glbLnkClr {s : State} {who : Requester} (hq : s.hub.quietTo who = true) (ha : s.hub.allows s.glob who Reg.GLB_LNK_CLR = true) :
    exec (.glbLnkClr who) s = .next { s with hub := s.hub.linkClear } := by
  rw [show exec (.glbLnkClr who) s = execGlbLnkClr who s from rfl, execGlbLnkClr, reached_quiet _ hq, Hub.tryWrite_classF ha classRw_glbLnkClr]

/-- The flit's failures as they are counted, this one among them. -/
def Hub.flitFailures (h : Hub) (x : Nat) (again : Bool) : Nat := if again then Sparse.get 0 h.power.flitTries x + 1 else 1

/-- The hub with the failures of a link's flit set. -/
def Hub.setFlitTries (h : Hub) (x k : Nat) : Hub := { h with power := { h.power with flitTries := Sparse.set 0 h.power.flitTries x k } }

theorem Hub.flitError_replayed {h : Hub} {x : Nat} {again : Bool} (g : Glob) (b : Block) (hx : x < 20) (hk : h.flitFailures x again < 4) :
    h.flitError g x again b = (h.setFlitTries x (h.flitFailures x again)).count (Reg.GLB_LNK_RPLx x) 32 := by
  rw [Hub.flitError, if_neg (by omega)]
  exact if_pos hk

theorem Hub.flitError_failed {h : Hub} {x : Nat} {again : Bool} (g : Glob) {b : Block} (hx : x < 20) (hk : ¬ h.flitFailures x again < 4)
    (hb : b.region = linkRegion x) : h.flitError g x again b = (h.setFlitTries x 0).blockFault g b := by
  rw [Hub.flitError, if_neg (by omega)]
  exact (if_neg hk).trans (if_pos hb)

/-- Settles O11: up to three failures are counted in the link's register alone; the fourth is a block fault; the clear writes the twenty counters. -/
theorem meshLinksReplayAndCount : Obligations.MeshLinksReplayAndCount := by
  refine ⟨?replayed, ?failed, ?clear⟩
  case replayed =>
    intro s x again b hx htries
    have hk : s.hub.flitFailures x again < 4 := by
      unfold Hub.flitFailures
      split
      case isTrue ha => have := htries ha; omega
      case isFalse => omega
    refine ⟨{ s with hub := s.hub.flitError s.glob x again b }, rfl, ⟨rfl, rfl, rfl⟩, ?_⟩
    dsimp only
    rw [Hub.flitError_replayed s.glob b hx hk]
    refine ⟨Hub.n_count_word .., fun off hoff => ?_, rfl⟩
    exact Hub.rd_count_ne _ _ _ _ (fun he => hoff (by simp [he]))
  case failed =>
    intro s x b hx htries hregion hiso
    have hk : ¬ s.hub.flitFailures x true < 4 := by simp [Hub.flitFailures, htries]
    refine ⟨{ s with hub := s.hub.flitError s.glob x true b }, rfl, ⟨rfl, rfl, rfl⟩, ?_⟩
    dsimp only
    rw [Hub.flitError_failed s.glob hx hk hregion]
    refine ⟨Hub.blockFault_reported s.glob hiso, (s.hub.setFlitTries x 0).blockFault_regsKept s.glob b, fun src hsrc hlt hrep => ?_⟩
    exact Hub.blockFault_pending s.glob hsrc (by simp [sourceReserved]; omega) hiso hrep
  case clear =>
    intro s who hq ha
    refine ⟨_, exec_glbLnkClr hq ha, ⟨rfl, rfl, rfl⟩, fun x hx => ?_, fun off hoff => ?_⟩
    · have hmem : Reg.GLB_LNK_RPLx x ∈ (List.range 20).map Reg.GLB_LNK_RPLx := List.mem_map_of_mem (by simpa using hx)
      rw [Hub.n, Hub.linkClear, Hub.rd_foldl_wr, if_pos hmem]
      rfl
    · exact (Hub.rd_foldl_wr ..).trans (if_neg hoff)

end Sys2Proof.Machine
end

section
/-! PAIR_CONTROL (R363, R364): enabling that makes the hub SYNCING ends more than its own descriptor. -/

namespace Sys2Proof.Machine

/-- A TILE_SEND that the hub holds for a tile of port 5, begun and not yet acknowledged. -/
def heldTileSend : Desc :=
  { tag := 4, opcode := 0x80, flags := 0, bytes := [], cq := 0, secure := false, phase := .waiting, status := 0, result := [], words := [], data := []
    silent := false }

/-- The PAIR_CTRL that enables pairing (ACTION 1), next in the same ring. -/
def enableDesc : Desc :=
  { heldTileSend with tag := 9, opcode := 0x90, phase := .fetched, bytes := [0x90] ++ zeros 15 ++ [1] ++ zeros 47 }

/-- An unpaired hub whose partner is ACTIVE. Port 5 is of a chain of kind 1, and in its Q1 waits the frame of the TILE_SEND. -/
def enablingBesideTileSend : State :=
  { hub :=
      { rings := { sqs := [(0, { inflight := [heldTileSend, enableDesc] })] }
        commit := { inForce := [{ id := tblTile 5, bytes := zeros 4 ++ [2, 1] ++ zeros 2298 }] }
        ports := [(5, { phase := .up, q1 := [{ type := 4, dest := 3, payload := [0], owner := .tileSend 0 4, todo := [5] }] })]
        saddle := { link := true, pRole := 3 } } }

theorem enabling_fetched : Fetched enablingBesideTileSend 0 9 0x90 enableDesc := by
  unfold Fetched; decide +kernel

theorem exec_pairEnable_hub {s t : State} {q tag : Nat} (ht : exec (.pairEnable q tag) s = .next t) : t.hub = s.hub.pairEnable s.glob q tag := by
  cases ht; rfl

/-- As the hub becomes SYNCING, the TILE_SEND of the chain of kind 1 ends with CONFLICT (R364): its ring holds nothing any more. -/
theorem enabling_empties_ring {t : State} (ht : exec (.pairEnable 0 9) enablingBesideTileSend = .next t) : (t.hub.sq 0).inflight = [] := by
  have hring : ((enablingBesideTileSend.hub.pairEnable enablingBesideTileSend.glob 0 9).sq 0).inflight = [] := by decide +kernel
  exact (congrArg (fun h => (h.sq 0).inflight) (exec_pairEnable_hub ht)).trans hring

/-- Refutes O51: of the ring of a PAIR_CTRL that makes the hub SYNCING a TILE_SEND ends too, so that not its own descriptor alone leaves the ring. -/
theorem not_pairControlAnswersOrWaits : ¬ Obligations.PairControlAnswersOrWaits := by
  intro hall
  have hserved := (hall enablingBesideTileSend 0 9 1 enableDesc _ enabling_fetched rfl rfl).2 rfl
  obtain ⟨-, -, -, henable, -⟩ := hserved
  obtain ⟨t, ht, -, -, -, -, -, -, hans⟩ := henable .syncing rfl rfl rfl (.inr ⟨.inl (by decide), rfl⟩) (by decide +kernel)
  obtain ⟨d, hd, hring, -⟩ := hans
  obtain rfl : d = enableDesc := Option.some.inj (hd.symm.trans enabling_fetched.1)
  have hleft : (enablingBesideTileSend.hub.sq 0).inflight.erase enableDesc = [heldTileSend] := by decide +kernel
  cases (enabling_empties_ring ht).symm.trans (hring.trans hleft)

end Sys2Proof.Machine
end

section
/-! The Saddle link (R365 to R367, R378): what a change of role and the loss of the link leave of the session, and the packets of a link that is up. -/

namespace Sys2Proof.Machine

/-! ## What leaves the session as it is -/

/-- The Saddle block is as it was, no pending bit of a source is cleared, and beside the pending registers only those listed change. -/
structure SaddleKept (l : List Nat) (h h' : Hub) : Prop where
  saddle  : h'.saddle = h.saddle
  pending : ∀ src < 128, h.pending src = true → h'.pending src = true
  regs    : RegsKeptBut (l ++ pendRegs) h h'

namespace SaddleKept

variable {l : List Nat} {a b c : Hub}

theorem refl (h : Hub) : SaddleKept l h h := ⟨rfl, fun _ _ hp => hp, fun _ _ => rfl⟩

theorem trans (h1 : SaddleKept l a b) (h2 : SaddleKept l b c) : SaddleKept l a c :=
  ⟨h2.saddle.trans h1.saddle, fun src hs hp => h2.pending src hs (h1.pending src hs hp), fun off ho => (h2.regs off ho).trans (h1.regs off ho)⟩

theorem of_same (hr : b.regs = a.regs) (hs : b.saddle = a.saddle) : SaddleKept l a b :=
  ⟨hs, fun src _ hp => (Hub.pending_of_regs a b hr src).trans hp, fun off _ => Hub.rd_of_regs a b hr off⟩

theorem of_reports (hr : Reports a b) : SaddleKept l a b :=
  ⟨(congrArg Hub.saddle hr.shape :), fun src _ => hr.pending src, fun off ho => hr.regs off fun hp => ho (List.mem_append_right l hp)⟩

theorem of_putF {off : Nat} (hl : off ∈ l) (hp : off ∉ pendRegs) (h : Hub) (hi lo v : Nat) : SaddleKept l h (h.putF off hi lo v) := by
  refine ⟨rfl, fun src hsrc hpend => ?_, fun j hj => Hub.rd_putF_ne h off hi lo v j fun he => hj (List.mem_append_left _ (he ▸ hl))⟩
  have hmem : Reg.INT_PENDk (src / 32) ∈ pendRegs := by
    have : src / 32 < 4 := by omega
    interval_cases src / 32 <;> simp [pendRegs]
  have hbit := Hub.bit_of_rd h _ _ (src % 32) (Hub.rd_putF_ne h off hi lo v _ fun he => hp (he ▸ hmem))
  exact hbit.trans hpend

theorem modPort (h1 : SaddleKept l a b) (n : Nat) (f : Port → Port) : SaddleKept l a (b.modPort n f) := h1.trans (.of_same rfl rfl)

theorem drew (h1 : SaddleKept l a b) (k : Nat) : SaddleKept l a (b.drew k) := h1.trans (.of_same rfl rfl)

theorem ite {p : Prop} [Decidable p] (hb : SaddleKept l a b) (hc : SaddleKept l a c) : SaddleKept l a (if p then b else c) := by
  split <;> assumption

theorem setSaddle (h1 : SaddleKept l a b) (x : Saddle) : SaddleKept l (a.setSaddle x) (b.setSaddle x) := ⟨rfl, h1.pending, h1.regs⟩

theorem regs_of_setSaddle {x : Saddle} (h1 : SaddleKept l (a.setSaddle x) b) : RegsKeptBut (l ++ pendRegs) a b := h1.regs

/-- What each step of a fold keeps beside the session, the fold keeps. -/
theorem foldl {α : Type} {f : Hub → α → Hub} (hb : SaddleKept l a b) (hf : ∀ k x, k.saddle = a.saddle → SaddleKept l k (f k x)) (xs : List α) :
    SaddleKept l a (xs.foldl f b) :=
  List.foldlRecOn (motive := SaddleKept l a) xs f hb fun k hk x _ => hk.trans (hf k x hk.saddle)

end SaddleKept

theorem Hub.complete_saddleKept (l : List Nat) (h : Hub) (g : Glob) (q tag status : Nat) (result : List Byte) :
    SaddleKept l h (h.complete g q tag status result) := .of_reports (Hub.complete_reports ..)

theorem Hub.raise_saddleKept (l : List Nat) (h : Hub) (g : Glob) (src d : Nat) : SaddleKept l h (h.raise g src d) := .of_reports (Hub.raise_reports ..)

/-! ## A change of role -/

section Role

variable (l : List Nat) (h : Hub) (g : Glob)

theorem Hub.odlTakeover_saddleKept (r : Nat) : SaddleKept l h (h.odlTakeover r) := by
  unfold Hub.odlTakeover Hub.odlAllWhole
  refine .foldl ?_ (fun k o _ => ?_) _ <;> exact .of_same rfl rfl

theorem Hub.roleRadios_saddleKept (r : Role) : SaddleKept l h (h.roleRadios r) := by
  refine .foldl (.refl h) (fun k x _ => ?_) _
  split
  · exact .of_same rfl rfl
  · exact .ite (Hub.odlTakeover_saddleKept ..) (.refl k)

theorem Hub.dropArms_saddleKept : SaddleKept l h h.dropArms := by
  unfold Hub.dropArms
  refine .foldl (.refl h) (fun k p _ => .ite ?_ (.refl k)) _
  exact .of_same rfl rfl

theorem Hub.conflictFetched_saddleKept : SaddleKept l h (h.conflictFetched g) :=
  .foldl (.refl h) (fun k _ _ => .foldl (.refl k) (fun _ _ _ => Hub.complete_saddleKept ..) _) _

theorem Hub.dropFrames_saddleKept (j status : Nat) : SaddleKept l h (h.dropFrames g j status) := by
  unfold Hub.dropFrames
  refine .foldl ?_ (fun k f _ => ?_) _
  · exact .of_same rfl rfl
  · split
    · exact Hub.complete_saddleKept ..
    · exact .refl k

theorem Hub.leaveOrigin_saddleKept (j : Nat) : SaddleKept l h (h.leaveOrigin g j) := by
  unfold Hub.leaveOrigin
  refine .ite (.refl h) (.ite ?_ ?_)
  · exact (Hub.dropFrames_saddleKept ..).modPort ..
  · refine .foldl ?_ (fun k f _ => ?_) _
    · exact .of_same rfl rfl
    · split
      · exact Hub.complete_saddleKept ..
      · exact .refl k

/-- A change of role changes the role, clears the two counts of misses and differences, and reports. -/
theorem Hub.becomes_saddleKept {r : Role} (hr : h.saddle.role ≠ r) (cause : Nat) :
    SaddleKept l (h.modSaddle fun x => { x with role := r, misses := 0, diffs := 0 }) (h.becomes g r cause) := by
  rw [Hub.becomes, if_neg hr]
  have hradios := Hub.roleRadios_saddleKept l (h.modSaddle fun x => { x with role := r, misses := 0, diffs := 0 }) r
  refine .trans (.foldl ?_ (fun k j _ => Hub.leaveOrigin_saddleKept l k g j) _) (.trans (Hub.raise_saddleKept ..) (.of_reports (Hub.record_reports ..)))
  exact .ite (hradios.trans (Hub.conflictFetched_saddleKept ..)) (.ite (hradios.trans (Hub.dropArms_saddleKept ..)) hradios)

end Role

/-! ## What leaves a port -/

/-- Beside the pending registers a frame that leaves a port writes the statuses of the time stamps' FIFOs and the count of late FIX frames. -/
def sendRegs : List Nat := [Reg.MEM_FIFOi_STATUS 2, Reg.MEM_FIFOi_STATUS 3, Reg.FIX_CNT_LATE]

section Send

variable (h : Hub) (g : Glob)

theorem Hub.emitFrame_saddleKept (n : Nat) (f : NFrame) : SaddleKept sendRegs h (h.emitFrame n f) := by
  unfold Hub.emitFrame Hub.pmuAdd
  split <;> exact .of_same rfl rfl

theorem Hub.fifoPut_saddleKept {i : Nat} (hi : i = 2 ∨ i = 3) (w : Nat) : SaddleKept sendRegs h (h.fifoPut i w) := by
  refine .ite ?_ (.ite (.refl h) ?_)
  · exact .of_same rfl rfl
  · rcases hi with rfl | rfl <;> exact .of_putF (by decide) (by decide) ..

theorem Hub.fifoPush_stamp_saddleKept (n w : Nat) : SaddleKept sendRegs h (h.fifoPush g (stampFifo n) w) := by
  have hput := h.fifoPut_saddleKept (i := stampFifo n) (by unfold stampFifo; split <;> simp) w
  exact .ite (hput.trans (Hub.raise_saddleKept ..)) hput

theorem Hub.leaveQ0_saddleKept (n : Nat) (f : NFrame) : SaddleKept sendRegs h (h.leaveQ0 g n f) := by
  unfold Hub.leaveQ0
  split
  · exact ((Hub.emitFrame_saddleKept ..).drew 1).modPort ..
  · split
    · have hpush := ((SaddleKept.refl h).drew 1).trans (Hub.fifoPush_stamp_saddleKept (h.drew 1) g n (h.laneStamp % 2 ^ 64))
      exact .trans (.ite hpush (hpush.modPort ..)) (Hub.emitFrame_saddleKept ..)
    · exact Hub.emitFrame_saddleKept ..

theorem Hub.pumpQ0_saddleKept (n : Nat) : SaddleKept sendRegs h (h.pumpQ0 g n) := by
  unfold Hub.pumpQ0
  split
  · exact .refl h
  · exact .ite (Hub.leaveQ0_saddleKept ..) (.trans ((SaddleKept.refl h).modPort ..) (Hub.leaveQ0_saddleKept ..))

theorem Hub.fixLate_saddleKept (j : Nat) (f : QFrame) : SaddleKept sendRegs h (h.fixLate g j f) := by
  have hcount : SaddleKept sendRegs h (h.count Reg.FIX_CNT_LATE 31) := .of_putF (by decide) (by decide) ..
  unfold Hub.fixLate
  split
  · exact .refl h
  · refine .ite (.refl h) (.ite hcount (hcount.trans (.trans ?_ (Hub.raise_saddleKept ..))))
    exact .of_same rfl rfl

theorem Hub.sendFrom_saddleKept (j n q : Nat) (fs : List QFrame) : SaddleKept sendRegs h (h.sendFrom g j n q fs).1 := by
  induction fs generalizing h with
  | nil => exact .refl h
  | cons f fs ih =>
    unfold Hub.sendFrom
    split
    · exact ih h
    · split
      · exact .trans (.ite (.refl h) (Hub.fixLate_saddleKept ..)) ((Hub.emitFrame_saddleKept ..).trans (ih _))
      · exact .refl h

theorem Hub.pumpEnd_saddleKept (j q n : Nat) : SaddleKept sendRegs h (h.pumpEnd g j q n) := by
  unfold Hub.pumpEnd
  split
  · exact (SaddleKept.refl h).modPort ..
  · exact (Hub.sendFrom_saddleKept ..).modPort ..

theorem Hub.pumpQueue_saddleKept (j q : Nat) : SaddleKept sendRegs h (h.pumpQueue g j q) :=
  .foldl (.refl h) (fun _ _ _ => Hub.pumpEnd_saddleKept ..) _

theorem Hub.pumpTop_saddleKept (j : Nat) : SaddleKept sendRegs h (h.pumpTop g j) :=
  .trans (.foldl (.refl h) (fun _ _ _ => Hub.pumpQ0_saddleKept ..) _) (Hub.pumpQueue_saddleKept ..)

theorem Hub.pumpPix_saddleKept (j : Nat) : SaddleKept sendRegs h (h.pumpPix g j) := by
  unfold Hub.pumpPix
  split
  · exact .refl h
  · refine .ite (.modPort (.foldl (.refl h) (fun k n _ => ?_) _) ..) (.refl h)
    exact .ite (Hub.emitFrame_saddleKept ..) (.refl k)

theorem Hub.pumpLow_saddleKept (j : Nat) : SaddleKept sendRegs h (h.pumpLow g j) := by
  unfold Hub.pumpLow
  split
  · exact Hub.pumpQueue_saddleKept ..
  · exact .ite (.refl h) (Hub.pumpQueue_saddleKept ..)

theorem Hub.pump_saddleKept (j : Nat) : SaddleKept sendRegs h (h.pump g j) :=
  ((h.pumpTop_saddleKept g j).trans (Hub.pumpPix_saddleKept ..)).trans (Hub.pumpLow_saddleKept ..)

/-! ## What is admitted while the link is down -/

variable {h}

theorem Hub.mirrorFrame_down (hl : h.saddle.link = false) (j : Nat) (f : QFrame) : h.mirrorFrame j f = h := by
  simp [Hub.mirrorFrame, Hub.mirrors, hl]

theorem Hub.admitOne_saddleKept (hl : h.saddle.link = false) (j : Nat) (f : QFrame) : SaddleKept sendRegs h (h.admitOne g j f) := by
  simp only [Hub.admitOne, Hub.mirrorFrame_down hl]
  have hmod (F : Port → Port) := (SaddleKept.refl (l := sendRegs) h).modPort j F
  refine .ite (hmod _) (.ite ?_ (hmod _))
  split
  · exact Hub.complete_saddleKept ..
  · exact .refl h

theorem Hub.admitList_saddleKept (hl : h.saddle.link = false) (j : Nat) (fs : List QFrame) : SaddleKept sendRegs h (h.admitList g j fs).1 := by
  induction fs generalizing h with
  | nil => exact .refl h
  | cons f fs ih =>
    unfold Hub.admitList
    split
    · have hone := Hub.admitOne_saddleKept g hl j f
      exact hone.trans (ih (hone.saddle ▸ hl))
    · exact ih hl

theorem Hub.admitWaiting_saddleKept (hl : h.saddle.link = false) (j : Nat) : SaddleKept sendRegs h (h.admitWaiting g j) := by
  have hfirst := (SaddleKept.refl (l := sendRegs) h).modPort j fun p => { p with sends := [] }
  refine .ite (h.pump_saddleKept g j) (((hfirst.trans (Hub.admitList_saddleKept g ?_ j _)).modPort ..).trans (Hub.pump_saddleKept ..))
  exact hl

end Send

/-! ## The link goes down -/

theorem Hub.enterHoldover_saddleKept (l : List Nat) (h : Hub) (g : Glob) (t : Nat) : SaddleKept l h (h.enterHoldover g t) := by
  have hset (k : Hub) (b : TimeBase) : SaddleKept l k (k.setBase t b) := .of_same rfl rfl
  refine ((hset ..).trans (Hub.raise_saddleKept ..)).trans (.ite (.refl _) ?_)
  exact (hset ..).trans (Hub.raise_saddleKept ..)

/-- The Saddle block as its link goes down. -/
def Saddle.down (x : Saddle) (lanes : Nat) : Saddle :=
  { x with link := false, lanes := lanes % 16, flight := [], own := [], theirs := [], discards := 0, tx := 0, rx := 0, lost := 0
           segment := none, sessionKey := [] }

theorem Hub.saddleDown_saddleKept {h : Hub} (hl : h.saddle.link = true) (g : Glob) (lanes : Nat) :
    SaddleKept sendRegs ((h.setSaddle (h.saddle.down lanes)).raise g 88 2) (h.saddleDown g lanes) := by
  rw [Hub.saddleDown, hl]
  refine .foldl (.ite (.foldl (.refl _) (fun k t _ => ?_) _) (.refl _)) (fun k n hk => Hub.admitWaiting_saddleKept g ?_ n) _
  · exact .ite (.refl k) (Hub.enterHoldover_saddleKept ..)
  · rw [hk, (Hub.raise_saddleKept [] ..).saddle]
    rfl

theorem Hub.saddleDown_session {h : Hub} (hl : h.saddle.link = true) (g : Glob) (lanes : Nat) :
    (h.saddleDown g lanes).saddle = h.saddle.down lanes ∧ (h.saddleDown g lanes).pending 88 = true ∧
      (h.saddleDown g lanes).rd Reg.SDL_CNT_AUTH = h.rd Reg.SDL_CNT_AUTH := by
  have hkept := Hub.saddleDown_saddleKept hl g lanes
  have hraise := Hub.raise_saddleKept [] (h.setSaddle (h.saddle.down lanes)) g 88 2
  exact ⟨hkept.saddle.trans hraise.saddle, hkept.pending 88 (by decide) (Hub.pending_raise _ _ _ _ (by decide)),
    (hkept.regs _ (by decide)).trans (hraise.regs _ (by decide))⟩

/-- The session that a link brings up (R365). -/
def Hub.session (h : Hub) (nonce role : Nat) : Saddle :=
  { h.saddle with
    link := true, lanes := 15, nonceOwn := h.freeAt 0 % 2 ^ 128, nonceTheirs := nonce % 2 ^ 128, tx := 0, rx := 0, lost := 0, discards := 0
    sessionKey := Config.sessionKey h.fwu.settings.key (h.freeAt 0 % 2 ^ 128) (nonce % 2 ^ 128), saltOut := h.freeAt 1 % 2 ^ 32
    saltIn := h.freeAt 2 % 2 ^ 32, pRole := role % 4, copied := [], segment := none, dirty := List.range 524288 }

/-- Of two hubs that are ACTIVE, the one not promoted later becomes SYNCING (R378). -/
def Saddle.yields (x : Saddle) (later : Bool) : Saddle :=
  if x.role = .active && x.pRole = 3 && !later then
    { x with role := .syncing, misses := 0, diffs := 0, current := false, copied := [], segment := none, recs := [], flight := [], notice := none }
  else x

theorem Saddle.yields_role (x : Saddle) (later : Bool) :
    (x.yields later).role = if x.role = .active ∧ x.pRole = 3 ∧ later = false then .syncing else x.role := by
  unfold Saddle.yields
  simp only [Bool.and_eq_true, decide_eq_true_eq, Bool.not_eq_true', and_assoc, apply_ite Saddle.role]

/-- A hub that yields keeps its link and its session. -/
theorem Saddle.yields_session (x : Saddle) (later : Bool) :
    (x.yields later).link = x.link ∧ (x.yields later).lanes = x.lanes ∧ (x.yields later).tx = x.tx ∧ (x.yields later).rx = x.rx ∧
      (x.yields later).nonceTheirs = x.nonceTheirs ∧ (x.yields later).pRole = x.pRole := by
  unfold Saddle.yields
  split <;> simp

theorem Hub.twoActive_saddleKept (l : List Nat) (h : Hub) (g : Glob) (later : Bool) :
    SaddleKept l (h.setSaddle (h.saddle.yields later)) (h.twoActive g later) := by
  unfold Hub.twoActive Saddle.yields
  split
  next hc =>
    have hactive : h.saddle.role = .active := by simp at hc; exact hc.1.1
    refine .trans ?_ (Hub.becomes_saddleKept l (h.sync.drew 1) g (r := .syncing) ?_ _)
    · exact .of_same rfl rfl
    · change h.saddle.role ≠ .syncing
      rw [hactive]; decide
  next => exact .refl h

theorem Hub.saddleUp_eq {h : Hub} {g : Glob} (hl : h.saddle.link = false) (hen : h.bit Reg.SDL_CTL 0 = true)
    (hs : h.serving .sdl = true) (hg : g.safe = false) (nonce role : Nat) (later : Bool) :
    ∃ k : Hub, k.regs = h.regs ∧ k.saddle = h.session nonce role ∧ h.saddleUp g nonce role later = (k.raise g 88 1).twoActive g later := by
  refine ⟨if h.bit Reg.SDL_CTL 1 then ((h.drew 3).setSaddle (h.session nonce role)).emit (.prbs true) else (h.drew 3).setSaddle (h.session nonce role), ?_, ?_, ?_⟩
  · split <;> rfl
  · split <;> rfl
  · simp only [Hub.saddleUp, Hub.modSaddle, Hub.session, Hub.drew, hl, hen, hs, hg, Bool.not_true, Bool.or_false, Bool.false_eq_true, if_false]

/-- A link that comes up starts its session, and of two ACTIVE hubs the one yields; source 88 is then pending. -/
theorem Hub.saddleUp_saddleKept {h : Hub} {g : Glob} (hl : h.saddle.link = false) (hen : h.bit Reg.SDL_CTL 0 = true)
    (hs : h.serving .sdl = true) (hg : g.safe = false) (nonce role : Nat) (later : Bool) :
    SaddleKept [] (h.setSaddle ((h.session nonce role).yields later)) (h.saddleUp g nonce role later) ∧
      (h.saddleUp g nonce role later).pending 88 = true := by
  obtain ⟨k, hregs, hsaddle, he⟩ := Hub.saddleUp_eq hl hen hs hg nonce role later
  have hraise := Hub.raise_saddleKept [] k g 88 1
  have hyield := Hub.twoActive_saddleKept [] (k.raise g 88 1) g later
  rw [he]
  refine ⟨?_, hyield.pending 88 (by decide) (Hub.pending_raise k g 88 1 (by decide))⟩
  rw [hraise.saddle, hsaddle] at hyield
  have hstart (x : Saddle) : SaddleKept [] (h.setSaddle x) (k.setSaddle x) := .of_same hregs rfl
  exact (hstart _).trans ((hraise.setSaddle _).trans hyield)

/-! ## Packets -/

/-- A packet that does not reach the Saddle block: its link is down, or the block does not serve and the packet wakes nothing. -/
def Hub.Unheard (h : Hub) : Prop := h.saddle.link = false ∨ h.serving .sdl = false ∧ h.awake 5 = true

theorem Hub.Unheard.hears {h : Hub} (hu : h.Unheard) : h.saddleHears = false := by
  rcases hu with hl | ⟨hs, -⟩
  · simp [Hub.saddleHears, hl]
  · simp [Hub.saddleHears, hs]

theorem Hub.Unheard.saddleSend {h : Hub} (hu : h.Unheard) (o : Out) : h.saddleSend o = h := by
  have hd := hu.hears
  unfold Hub.saddleHears at hd
  simp [Hub.saddleSend, Hub.saddleSendLong, hd]

theorem Hub.asRole_unheard {h : Hub} (hd : h.saddleHears = false) (r : Role) (k : Hub → Hub) : h.asRole r k = h := by
  simp [Hub.asRole, hd]

theorem wokenWhen_unheard {s : State} (hu : s.hub.Unheard) (k : State → Host.Outcome State Fault Refusal) :
    wokenWhen Hub.packetHears 5 k s = k s := by
  rcases hu with hl | ⟨-, ha⟩
  · simp [wokenWhen, Hub.packetHears, hl]
  · exact wokenWhen_awake _ _ ha

/-- While the link is down or the Saddle block does not serve, no packet is sent or taken (R22, R23). -/
theorem exec_unheard {s : State} (hu : s.hub.Unheard) (fails : Bool) (counter p frame : Nat) (arm : Arm) (n : Nat) (f : MirrorFrame) (data : CopyData)
    (last : Bool) (rec : List Byte) (later : Bool) (dig : Nat) (offs : List Int) (i : Instant) (epoch : Nat) (digest : List Byte) (bad : Bool) :
    ∀ c ∈ [Instr.saddleKeepalive, .saddleKeepaliveReceive, .saddlePacketDiscard fails counter, .prbsTestBlock bad, .armRecord p frame arm,
      .mirroredFrame n f [], .mirrorReceipt n, .standbyEnumRequest n, .stateCopy data last [], .healthRecord rec later,
      .outputDigest n frame dig, .saddleTimeTransfer offs, .commitNotice i epoch digest [] []], exec c s = .next s := by
  have hd := hu.hears
  simp only [List.forall_mem_cons, exec, execSaddleKeepalive, execSaddleKeepaliveReceive, execSaddlePacketDiscard, execPrbsTestBlock, execArmRecord,
    execMirroredFrame, execMirrorReceipt, execStandbyEnumRequest, execStateCopy, execHealthRecord, execOutputDigest, execSaddleTimeTransfer,
    execCommitNotice, wokenWhen_unheard hu, hu.saddleSend, Hub.asRole_unheard hd, Hub.packetDiscard, Hub.prbsBlock, mirroredFrame, stateCopy,
    Hub.commitNotice, State.reads_nil, hd, Bool.not_false, Bool.true_or, Bool.false_and, Bool.false_eq_true, if_true, if_false]
  simp

/-- A packet whose tag fails, or whose number is an old one. -/
theorem exec_packetDiscard {s : State} (hd : s.hub.saddleHears = true) (ha : s.hub.awake 5 = true) {fails : Bool} {counter : Nat}
    (hbad : fails = true ∨ counter < s.hub.saddle.rx) :
    exec (.saddlePacketDiscard fails counter) s =
      let h1 := (s.hub.count Reg.SDL_CNT_AUTH 31).setSaddle { s.hub.saddle with discards := s.hub.saddle.discards + 1, lost := s.hub.saddle.lost + b2n fails }
      .next { s with hub := if 16 ≤ s.hub.saddle.discards + 1 then h1.saddleDown s.glob 15 else h1 } := by
  have hnot : (!(fails || decide (counter < s.hub.saddle.rx))) = false := by rcases hbad with h | h <;> simp [h]
  rw [exec, execSaddlePacketDiscard, wokenWhen_awake _ _ ha, Hub.packetDiscard, hd, hnot]
  rfl

theorem exec_prbsTestBlock_first {s : State} (hd : s.hub.saddleHears = true) (hsaid : s.hub.saddle.prbsSaid = false) :
    exec (.prbsTestBlock true) s =
      .next { s with hub := ((s.hub.count Reg.SDL_CNT_PRBS 31).setSaddle { s.hub.saddle with prbsSaid := true }).raise s.glob 88 3 } := by
  simp only [exec, execPrbsTestBlock, Hub.prbsBlock, Hub.modSaddle, hd, hsaid, Bool.not_true, Bool.or_false, Bool.false_eq_true, if_false]
  rfl

/-- A counter counts one more in its field (R9). -/
theorem Hub.f_count (h : Hub) {off bits : Nat} (h0 : 0 < bits) (hb : bits ≤ 32) :
    (h.count off bits).f off (bits - 1) 0 = satInc bits (h.f off (bits - 1) 0) := by
  have hbits : bits - 1 + 1 - 0 = bits := by omega
  rw [Hub.count, Hub.putF, Hub.f, Hub.n_wrN_same, putField_eq _ _ _ _ (Nat.zero_le _), fieldOf, hbits]
  rw [pow_zero, Nat.div_one, Nat.mod_mod_of_dvd _ (pow_dvd_pow 2 hb), Nat.mod_one, one_mul, add_zero, Nat.mul_add_mod, Nat.mod_mod,
    Nat.mod_eq_of_lt (satInc_lt ..)]

/-- Settles O52: a link that comes up keeps all but its session, one that goes down all but its flight, and packets move their numbers. -/
theorem saddleLinkCarriesItsSession : Obligations.SaddleLinkCarriesItsSession := by
  intro s
  refine ⟨?up, ?down, ?downAgain, ?packets, ?unheard⟩
  case up =>
    intro nonce role later hl hen hs hg
    obtain ⟨hkept, hpend⟩ := Hub.saddleUp_saddleKept hl hen hs hg nonce role later
    obtain ⟨hlink, hlanes, htx, hrx, hnonce, hprole⟩ := (s.hub.session nonce role).yields_session later
    refine ⟨_, rfl, ⟨rfl, rfl, rfl⟩, hkept.regs_of_setSaddle, ?_⟩
    dsimp only
    rw [hkept.saddle]
    exact ⟨hlink, hlanes, htx, hrx, hnonce, hprole, hpend, Saddle.yields_role ..⟩
  case down =>
    intro lanes hl
    obtain ⟨hsaddle, hpend, -⟩ := Hub.saddleDown_session hl s.glob (min lanes 14)
    refine ⟨_, rfl, ⟨rfl, rfl, rfl⟩, ?_⟩
    dsimp only
    rw [hsaddle]
    exact ⟨rfl, Nat.mod_eq_of_lt (by omega), rfl, rfl, hpend⟩
  case downAgain =>
    intro lanes hl
    rw [exec, execSaddleLinkDown, Hub.saddleDown, hl, Nat.mod_eq_of_lt (by omega : min lanes 14 < 16)]
    rfl
  case packets =>
    intro hl hs
    have hd : s.hub.saddleHears = true := by simp [Hub.saddleHears, hl, hs]
    refine ⟨?_, fun ha => ⟨?_, ?_, ?_, ?_⟩, ?_, ?_, ?_⟩
    · rw [exec, execSaddleKeepalive, Hub.saddleSend, Hub.saddleSendLong, hl, hs]
      rfl
    · rw [exec, execSaddleKeepaliveReceive, wokenWhen_awake _ _ ha, hd]
      rfl
    · intro fails counter hbad hfew
      rw [exec_packetDiscard hd ha hbad]
      dsimp only
      rw [if_neg (by omega)]
    · intro counter hnew
      rw [exec, execSaddlePacketDiscard, wokenWhen_awake _ _ ha, Hub.packetDiscard, if_pos (by simp [Nat.not_lt.2 hnew])]
    · intro fails counter hbad hmany
      rw [exec_packetDiscard hd ha hbad]
      dsimp only
      rw [if_pos (by omega)]
      obtain ⟨hsaddle, hpend, hauth⟩ := Hub.saddleDown_session (h := (s.hub.count Reg.SDL_CNT_AUTH 31).setSaddle { s.hub.saddle with
        discards := s.hub.saddle.discards + 1, lost := s.hub.saddle.lost + b2n fails }) hl s.glob 15
      refine ⟨_, rfl, ⟨rfl, rfl, rfl⟩, ?_, hpend, ?_⟩
      · dsimp only
        rw [hsaddle]
        rfl
      · rw [Hub.f_of_rd _ _ _ _ _ hauth]
        exact Hub.f_count s.hub (by decide) (by decide)
    · rw [exec, execPrbsTestBlock, Hub.prbsBlock, hd]
      rfl
    · intro hsaid
      rw [exec, execPrbsTestBlock, Hub.prbsBlock, hd, hsaid]
      rfl
    · intro hsaid
      exact ⟨_, exec_prbsTestBlock_first hd hsaid, ⟨rfl, rfl, rfl⟩, Hub.raise_reports .., Hub.pending_raise _ _ _ _ (by decide)⟩
  case unheard =>
    intro c fails counter p frame arm n f data last rec later dig offs i epoch digest bad hu hc
    exact exec_unheard hu _ _ _ _ _ _ _ _ _ _ _ _ _ _ _ _ _ c hc

end Sys2Proof.Machine
end

section
/-! The cold boot (R440): a write of SPRe_ENTRY that reaches a hub held in reset stands when the hub boots, so that the firmware of SE0 does not start at 0. -/

namespace Sys2Proof.Machine

/-! ## An image that verifies -/

/-- The hash of an empty part. -/
def emptyHash : List Byte := beBytes 48 0x38b060a751ac96384cd9327eb1b1e36a21fdb71114be07434c0cc7bf63f6e1da274edebfe76f65fbd51ad2f14898b95b

/-- The manifest of the seven parts that an image must have, each of them empty. -/
def emptyManifest : List Byte :=
  padTo 1536 ((List.range 7).flatMap fun t => leBytes 4 (t + 1) ++ leBytes 4 0 ++ leBytes 4 4096 ++ zeros 36 ++ emptyHash)

/-- The public key of the secret key 1: the base point itself. -/
def baseKey : List Byte := beBytes 48 p384G.1 ++ beBytes 48 p384G.2

/-- The header of the image before its signature, which holds the hash of the manifest. -/
def emptyHeader : List Byte :=
  leBytes 4 0x57465A41 ++ leBytes 2 1 ++ leBytes 2 0xA324 ++ [1, 1, 0, 0] ++ leBytes 4 0 ++ leBytes 4 4096 ++ [7] ++ zeros 43 ++
    beBytes 48 0x62476f72dc1f30b5f4f10be87f199bc4aba3c59e1b2dcb4628d750bf11c90ae92045839cada4dee99eb64f053e695386 ++ baseKey

/-- The signature of the header with the secret key 1 and the nonce 1. -/
def emptySignature : List Byte :=
  beBytes 48 p384G.1 ++ beBytes 48 0xfec53efffa12cf0e4d80ce70aec38b847d900a4b6d182c7b98deabb5b48a64b44a37f8a1a5350a7ed6a7e36e429efcb9

/-- A signed image of seven empty parts. -/
def emptyImage : List Byte := padTo 4096 (emptyHeader ++ emptySignature ++ zeros 208 ++ emptyManifest)

/-- Fuses that hold the hash of the image's key. -/
def baseKeyFuses : Otp := { keyHash0 := 0xa19d4db171b582eb8052b0cfe555e17894aa22d1c8a9770950697dd8f796d2fa4bf0a56ad80006b7ea08e1191f814b65 }

theorem emptyImage_header : leAt emptyImage 0 4 = 0x57465A41 ∧ leAt emptyImage 4 2 = 1 ∧ leAt emptyImage 6 2 = 0xA324 ∧
    byteAt emptyImage 8 ≤ 1 ∧ 1 ≤ byteAt emptyImage 9 ∧ imgKey emptyImage = 0 := by decide +kernel

theorem emptyImage_key : ofBe (sha384 (imgPubkey emptyImage)) = baseKeyFuses.keyHash0 := by decide +kernel

theorem emptyImage_signature : ecdsaVerify (imgPubkey emptyImage) ((emptyImage.drop 208).take 96) (emptyImage.take 208) = true := by decide +kernel

theorem emptyImage_manifest : sha384 ((emptyImage.drop 512).take 1536) = (emptyImage.drop 64).take 48 := by decide +kernel

theorem emptyImage_shape : imgShapeOk 64 emptyImage = true := by decide +kernel

theorem emptyImage_parts : imgPartsOk emptyImage = true := by decide +kernel

theorem emptyImage_verifies : imgVerifies baseKeyFuses 64 true emptyImage = true := by
  obtain ⟨hmagic, hformat, hpart, hlow, hhigh, hkey⟩ := emptyImage_header
  have hfuse : baseKeyFuses.keyHash0 ≠ 0 := by decide
  have hgood : bitOf baseKeyFuses.keyRevoke 0 = false := by decide
  have hfloor : baseKeyFuses.svFloor = 0 := rfl
  simp [imgVerifies, imgReason, Otp.keyHash, hmagic, hformat, hpart, hlow, hhigh, hkey, hfuse, hgood, hfloor, emptyImage_key, emptyImage_signature,
    emptyImage_manifest, emptyImage_shape, emptyImage_parts]

/-! ## A boot that starts an image -/

@[simp] theorem State.firmwareLoads_hub (s : State) : s.firmwareLoads.hub = s.hub := by
  unfold State.firmwareLoads; split <;> rfl

@[simp] theorem State.firmwareIn_hub (s : State) : s.firmwareIn.hub = s.hub := by
  unfold State.firmwareIn; split <;> simp

@[simp] theorem Hub.record_engines (h : Hub) (g : Glob) (code source p0 p1 p2 p3 : Nat) :
    (h.record g code source p0 p1 p2 p3).engines = h.engines :=
  (congrArg Hub.engines (Hub.record_reports h g code source p0 p1 p2 p3).shape :)

@[simp] theorem Hub.linkBringUp_engines (h : Hub) (g : Glob) : (h.linkBringUp g).engines = h.engines := by
  unfold Hub.linkBringUp; split <;> rfl

/-- Where the active slot may boot, and neither an activation nor a trial is recorded, the boot ROM starts it (R390, R440). -/
theorem Hub.bootSteps_active {h : Hub} {g : Glob} {cold : Bool} (hmode : g.straps.bootMode % 4 = 0) (hflash : h.fwu.inUse ≠ 0)
    (hpending : h.fwu.boot.pending = false) (htrial : h.fwu.boot.trial = false) (hboot : h.bootable g h.fwu.boot.slot = true) :
    h.bootSteps g cold = h.startFirmware g h.fwu.boot.slot false := by
  have hkept : (h.modFwu fun w => w.trialBoot cold) = h := by simp [Hub.modFwu, Fwu.trialBoot, htrial]
  simp [Hub.bootSteps, Hub.bootChoice, Hub.activationCopy, Hub.bootSlot, BootRec.trialFailed, hmode, hflash, hpending, htrial, hboot, hkept]

/-- Where neither copy of the settings store is valid, no settings are loaded (R404). -/
theorem Hub.bootLoad_without {h : Hub} (h0 : h.fwu.set0.valid = false) (h1 : h.fwu.set1.valid = false) : h.bootLoad = h := by
  have hnone : h.fwu.newest.valid = false := by
    rw [Fwu.newest, Fwu.set1Newer, secondNewer, h1, h0]
    rfl
  have hset : h.fwu.settings.valid = false := by simp [Fwu.settings, hnone]
  simp [Hub.bootLoad, hset]

theorem Hub.eng_putBit (h : Hub) (off i e : Nat) (b : Bool) : (h.putBit off i b).eng e = h.eng e := rfl

theorem Hub.eng_setDigest (h : Hub) (e : Nat) : h.setDigest.eng e = h.eng e := rfl

/-- SE0 as the firmware starts on it and then on SE1 to SE3. -/
theorem Hub.pc_startEngines (h : Hub) :
    (((List.range 4).foldl (fun h e => (h.putBit (Reg.SPRe_CTL e) 0 true).modEng e fun x => x.start (h.imgEntry e) false) h).eng 0).pc =
      h.imgEntry 0 := by
  simp [List.range_succ, Hub.modEng, Hub.eng_putBit, Engine.start]

/-- Without valid settings SE0 starts at the ENTRY that its registers hold. -/
theorem Hub.pc_startFirmware {h : Hub} (h0 : h.fwu.set0.valid = false) (h1 : h.fwu.set1.valid = false) (g : Glob) (slot : Nat) (factory : Bool) :
    ((h.startFirmware g slot factory).eng 0).pc = h.imgEntry 0 := by
  have heng {k k' : Hub} (hk : k'.engines = k.engines) (e : Nat) : k'.eng e = k.eng e := by rw [Hub.eng, Hub.eng, hk]
  rw [Hub.startFirmware, heng (Hub.record_engines ..), heng (Hub.linkBringUp_engines ..)]
  rw [Hub.bootLoad_without (by exact h0) (by exact h1)]
  generalize hk : h.modFwu _ = k
  have hentry : k.imgEntry 0 = h.imgEntry 0 := by rw [← hk]; rfl
  rw [Hub.eng_putBit, Hub.eng_setDigest, Hub.pc_startEngines, hentry]

/-! ## The hub before the boot ROM runs -/

theorem Hub.partValues_fwu (h : Hub) (g : Glob) : (h.partValues g).fwu = h.fwu := by
  unfold Hub.partValues
  split <;> split <;> rfl

/-- What the part, the nonce and the training of the DRAM set is none of the ENTRY registers. -/
theorem Hub.imgEntry_trained (h : Hub) (g : Glob) (a b : Nat) : ((h.partValues g).newNonce.trained a b).imgEntry 0 = h.imgEntry 0 := by
  have hwr (k : Hub) (off v : Nat) (ho : off ≠ Reg.SPRe_ENTRY 0) : (k.wrN off v).imgEntry 0 = k.imgEntry 0 :=
    congrArg (4 * ·) (Hub.f_of_rd k (k.wrN off v) _ _ _ (Hub.rd_wr_ne k off _ _ ho))
  have hworld (k : Hub) := hwr k Reg.SEC_MWORLD 0 (by decide)
  have htherm (k : Hub) := hwr k Reg.PWR_THERM_CTL 0x64 (by decide)
  have hpart : (h.partValues g).imgEntry 0 = h.imgEntry 0 := by
    unfold Hub.partValues
    split <;> split <;> simp only [hworld, htherm]
  rw [Hub.trained, hwr _ _ _ (by decide), Hub.newNonce]
  exact ((hwr _ _ _ (by decide)).trans (hwr _ _ _ (by decide))).trans hpart

/-- A hub held in reset whose active slot verifies boots it, and without valid settings SE0 starts at the ENTRY that its registers hold. -/
theorem coldBoot_pc {s : State} (hreset : s.hub.fwu.phase = .reset) (hflash : s.hub.fwu.inUse ≠ 0) (hpending : s.hub.fwu.boot.pending = false)
    (htrial : s.hub.fwu.boot.trial = false) (hset0 : s.hub.fwu.set0.valid = false) (hset1 : s.hub.fwu.set1.valid = false)
    (hboot : s.hub.bootable s.glob s.hub.fwu.boot.slot = true) (lanes a b : Nat) (pair ramp : Bool) :
    ((coldBoot 0 lanes pair ramp a b s).hub.eng 0).pc = s.hub.imgEntry 0 := by
  rw [coldBoot, if_neg (not_not.2 hreset), State.firmwareIn_hub]
  dsimp only
  generalize hk : Hub.trained _ a b = k
  have hfwu : k.fwu = s.hub.fwu := by
    rw [← hk]
    exact Hub.partValues_fwu ..
  have hentry : k.imgEntry 0 = s.hub.imgEntry 0 := by
    rw [← hk]
    exact Hub.imgEntry_trained ..
  rw [Hub.bootSteps_active, Hub.pc_startFirmware, hentry]
  case hmode => rfl
  case hboot =>
    rw [Hub.bootable, hfwu]
    exact hboot
  all_goals rw [hfwu]; assumption

/-! ## The hub held in reset -/

/-- A hub held in reset, with an image that verifies in slot 0; a register write has since set ENTRY of SE0 to the second word of its program. -/
def heldWithEntry : State :=
  { glob := { otp := baseKeyFuses }
    hub := ({ fwu := { images := [(0, emptyImage)] } } : Hub).wrN (Reg.SPRe_ENTRY 0) 4 }

theorem heldWithEntry_slot : heldWithEntry.hub.fwu.boot.slot = 0 := by decide +kernel

theorem heldWithEntry_flash : heldWithEntry.hub.fwu.inUse = 64 := by decide +kernel

theorem heldWithEntry_marks : heldWithEntry.hub.fwu.boot.pending = false ∧ heldWithEntry.hub.fwu.boot.trial = false := by decide +kernel

theorem heldWithEntry_verifies : imgVerifies heldWithEntry.glob.otp heldWithEntry.hub.fwu.inUse true
    (heldWithEntry.hub.fwu.image heldWithEntry.hub.fwu.boot.slot) = true := by
  rw [heldWithEntry_slot, heldWithEntry_flash]
  exact emptyImage_verifies

/-- The cold boot starts SE0 at that word. -/
theorem heldWithEntry_booted : ((coldBoot 0 0 false false 0 0 heldWithEntry).hub.eng 0).pc = 4 := by
  have hentry : heldWithEntry.hub.imgEntry 0 = 4 := by decide +kernel
  have hsize : imgSize emptyImage ≤ (imageRegion 0).size 64 := by decide +kernel
  have hboot : heldWithEntry.hub.bootable heldWithEntry.glob heldWithEntry.hub.fwu.boot.slot = true := by
    rw [Hub.bootable, heldWithEntry_slot, heldWithEntry_flash, Bool.and_eq_true, decide_eq_true_eq]
    exact ⟨emptyImage_verifies, hsize⟩
  have hflash : heldWithEntry.hub.fwu.inUse ≠ 0 := by rw [heldWithEntry_flash]; decide
  obtain ⟨hpending, htrial⟩ := heldWithEntry_marks
  rw [coldBoot_pc rfl hflash hpending htrial (by decide +kernel) (by decide +kernel) hboot, hentry]

/-- Refutes O60: an ENTRY of SE0 that was written while the hub was held in reset stands as the firmware starts, so that SE0 starts at 4 and not at 0. -/
theorem not_resetsClearAndBootTheHub : ¬ Obligations.ResetsClearAndBootTheHub := by
  intro h
  obtain ⟨-, -, hcold, -⟩ := h
  obtain ⟨-, -, hboot⟩ := (hcold heldWithEntry 0 0 0 0 false false).2 rfl
  obtain ⟨hpending, htrial⟩ := heldWithEntry_marks
  obtain ⟨t, r, ht, -, -, -, -, -, -, -, -, -, heng, -⟩ := hboot (.inl rfl) (by rw [heldWithEntry_flash]; decide) hpending htrial
    (by rw [heldWithEntry_slot]; decide) heldWithEntry_verifies rfl
  obtain ⟨-, hpc, -⟩ := heng 0 (by decide)
  have h4 := heldWithEntry_booted
  rw [exec, execColdReset] at ht
  rw [Host.Outcome.next.inj ht, hpc] at h4
  cases h4

end Sys2Proof.Machine
end

section
/-! ABORT of a Col level (R58, R360): a Col that has reported a fault and is isolated ends the ABORT at once. -/

namespace Sys2Proof.Machine

/-- An ABORT of Col level 3. -/
def abortLevelDesc : Desc :=
  { tag := 9, opcode := 0x70, flags := 0, bytes := [0x70] ++ zeros 15 ++ [2, 0, 3] ++ zeros 45, cq := 0, secure := false, phase := .fetched
    status := 0, result := [], words := [], data := [], silent := false }

/-- A hub whose Col has reported a fault and is isolated, as an ABORT of one of its levels is fetched. -/
def abortingLostCol : State :=
  { hub :=
      { rings := { sqs := [(0, { inflight := [abortLevelDesc] })] }
        power := { reported := [.col], isolated := [.col] } } }

theorem abortingLostCol_fetched : Fetched abortingLostCol 0 9 0x70 abortLevelDesc := by
  unfold Fetched; decide +kernel

/-- The ABORT completes at once, and none is in flight on the level (R360). -/
theorem abortingLostCol_ends {t : State} (ht : exec (.abortColLevel 0 9 false) abortingLostCol = .next t) : t.hub.abortOn 2 3 = none := by
  cases ht
  decide +kernel

/-- Refutes O17: where Col has reported a fault and is isolated, the ABORT of a level completes with ABORTED and is not in flight. -/
theorem not_abortEndsItsTarget : ¬ Obligations.AbortEndsItsTarget := by
  intro hall
  obtain ⟨-, -, -, hlevel⟩ := hall
  obtain ⟨t, ht, -, -, hflight⟩ :=
    hlevel abortingLostCol 0 9 3 abortLevelDesc abortingLostCol_fetched (by decide) (by decide) (by decide) (by decide +kernel) rfl
  rw [abortingLostCol_ends ht] at hflight
  cases hflight

end Sys2Proof.Machine
end

section
/-! Doorbells (R40, R56, R57): what a doorbell write does to its ring, and its way through FIFO 0 with the level event. -/

namespace Sys2Proof.Machine

/-! ## Of the FIFOs a raised source changes FIFO 5 alone, and of the event ring not its head -/

theorem Hub.fifo_of_fifos {h h' : Hub} (hf : h'.fifos = h.fifos) (i : Nat) : h'.fifo i = h.fifo i := by rw [Hub.fifo, Hub.fifo, hf]

/-- FIFOs other than 5, and the head of the event ring, are as they were. -/
structure EventsOnly (h h' : Hub) : Prop where
  fifo : ∀ i, i ≠ 5 → h'.fifo i = h.fifo i
  head : h'.rings.evq.head = h.rings.evq.head

theorem EventsOnly.refl (h : Hub) : EventsOnly h h := ⟨fun _ _ => rfl, rfl⟩

theorem EventsOnly.trans {a b c : Hub} (h1 : EventsOnly a b) (h2 : EventsOnly b c) : EventsOnly a c :=
  ⟨fun i hi => (h2.fifo i hi).trans (h1.fifo i hi), h2.head.trans h1.head⟩

theorem Evq.next_head (q : Evq) (room : Bool) (size : Nat) : (q.next room size).head = q.head := by
  unfold Evq.next
  split <;> rfl

theorem Hub.eventStream_eventsOnly (h : Hub) (e : Event) : EventsOnly h (h.eventStream e) := by
  unfold Hub.eventStream
  split
  case isTrue => exact ⟨fun _ _ => rfl, rfl⟩
  case isFalse =>
    refine ⟨fun i hi => ?_, Evq.next_head ..⟩
    rw [Hub.fifo_fifoIn, if_neg (Ne.symm hi)]
    rfl

theorem Hub.raiseCore_eventsOnly (h : Hub) (g : Glob) (src d : Nat) : EventsOnly h (h.raiseCore g src d) := by
  have hpend : EventsOnly h (h.setPend src) := ⟨fun _ _ => rfl, rfl⟩
  have htrig (k : Hub) (u t a : Nat) : EventsOnly k (k.trigger g u t a) := ⟨fun _ _ => rfl, rfl⟩
  unfold Hub.raiseCore
  split
  · exact .refl h
  · dsimp only
    split <;> split
    · exact (hpend.trans (Hub.eventStream_eventsOnly ..)).trans (htrig ..)
    · exact hpend.trans (htrig ..)
    · exact hpend.trans (Hub.eventStream_eventsOnly ..)
    · exact hpend

theorem Hub.raise_eventsOnly (h : Hub) (g : Glob) (src d : Nat) : EventsOnly h (h.raise g src d) := by
  unfold Hub.raise
  split
  · exact (Hub.raiseCore_eventsOnly ..).trans (Hub.raiseCore_eventsOnly ..)
  · exact Hub.raiseCore_eventsOnly ..

/-! ## A push on FIFO 0 -/

theorem Hub.fifoFull_of_fifos {h h' : Hub} (hf : h'.fifos = h.fifos) (i : Nat) : h'.fifoFull i = h.fifoFull i := by
  rw [Hub.fifoFull, Hub.fifoFull, Hub.fifo_of_fifos hf]

theorem Hub.fifoPush_room {h : Hub} {i : Nat} (hroom : h.fifoFull i = false) (g : Glob) (w : Nat) :
    h.fifoPush g i w = (h.fifoIn i w).raiseIf (h.fifoCrosses i) g (96 + i) (h.f (Reg.MEM_FIFOi_CTL i) 4 0) := by
  have hput : h.fifoPut i w = h.fifoIn i w := by rw [Hub.fifoPut, hroom]; rfl
  rw [Hub.fifoPush, hput]
  rfl

/-- A hub that differs from another in its rings alone. -/
def RingsOnly (h h' : Hub) : Prop := h' = { h with rings := h'.rings }

theorem RingsOnly.fifoCrosses {h h' : Hub} (hr : RingsOnly h h') (i : Nat) : h'.fifoCrosses i = h.fifoCrosses i := by rw [hr]; rfl

/-- A word pushed on FIFO 0, beside a change of the rings, is what a doorbell leaves (R56, R159). -/
theorem rung_fifoPush {s : State} {h : Hub} (hr : RingsOnly s.hub h) (hroom : s.hub.fifoFull 0 = false) (value : Nat) :
    Rung value h s { s with hub := h.fifoPush s.glob 0 value } := by
  have hfifo (i : Nat) : h.fifo i = s.hub.fifo i := by rw [hr]; rfl
  have hin : h.fifoPush s.glob 0 value = (h.fifoIn 0 value).raiseIf (s.hub.fifoCrosses 0) s.glob 96 (h.f (Reg.MEM_FIFOi_CTL 0) 4 0) := by
    rw [Hub.fifoPush_room (by rw [hr]; exact hroom), hr.fifoCrosses]
  have hevents : EventsOnly (h.fifoIn 0 value) (h.fifoPush s.glob 0 value) := by
    rw [hin, Hub.raiseIf]
    split
    · exact Hub.raise_eventsOnly ..
    · exact .refl _
  have hreports : Reports (h.fifoIn 0 value) (h.fifoPush s.glob 0 value) := by
    rw [hin]
    exact Hub.raiseIf_reports ..
  have hrings : (h.fifoPush s.glob 0 value).rings = { h.rings with evq := (h.fifoPush s.glob 0 value).rings.evq } := by
    rw [hin, Hub.raiseIf]
    split
    · exact Hub.raise_rings ..
    · rfl
  refine ⟨⟨rfl, rfl, rfl⟩, hreports, fun hno => ?_, fun hcross => ?_, congrArg (·.sqs) hrings, congrArg (·.cqs) hrings, hevents.head, ?_, fun i h0 h5 => ?_⟩
  · rw [hin, hno]
    rfl
  · rw [hin, hcross]
    exact Hub.pending_raise _ _ _ _ (by decide)
  · rw [hevents.fifo 0 (by decide), Hub.fifo_fifoIn, if_pos rfl, hfifo]
  · rw [hevents.fifo i h5, Hub.fifo_fifoIn, if_neg (Ne.symm h0), hfifo]

/-! ## A doorbell write -/

theorem Hub.doorbellEffect_ringsOnly (h : Hub) (d : Doorbell) : RingsOnly h (h.doorbellEffect d) := by
  cases d with
  | sqTail n v => simp only [Hub.doorbellEffect, Hub.sqTail]; split <;> rfl
  | cqHead n v => simp only [Hub.doorbellEffect, Hub.cqHead]; split <;> rfl
  | evqHead v => simp only [Hub.doorbellEffect, Hub.evqHead]; split <;> rfl
  | rearm v => rfl

/-- The command of a doorbell write, whole or narrow. -/
def Doorbell.instr (whole : Bool) : Doorbell → Instr
  | .sqTail n v => .sqTail n v whole
  | .cqHead n v => .cqHead n v whole
  | .evqHead v => .evqHead v whole
  | .rearm v => .vecRearm v whole

theorem exec_doorbell {s : State} (ha : s.hub.awake 2 = true) (whole : Bool) (d : Doorbell) :
    exec (d.instr whole) s = .next { s with hub := s.hub.doorbell s.glob whole d } := by
  refine Eq.trans ?_ (woken_awake (fun t => nextHub t (t.hub.doorbell t.glob whole d)) ha)
  cases d <;> rfl

theorem exec_doorbell_narrow {s : State} (ha : s.hub.awake 2 = true) (d : Doorbell) :
    exec (d.instr false) s = .next { s with hub := s.hub.count Reg.HIF_ACC_ERR 16 } := by
  rw [exec_doorbell ha]
  rfl

theorem exec_doorbell_full {s : State} (ha : s.hub.awake 2 = true) (hfull : s.hub.fifoFull 0 = true) (d : Doorbell) :
    exec (d.instr true) s = .next { s with hub := { s.hub with rings := { s.hub.rings with doorbells := s.hub.rings.doorbells ++ [d] } } } := by
  rw [exec_doorbell ha, Hub.doorbell, if_neg (by decide), if_pos hfull]

theorem exec_doorbell_off {s : State} (ha : s.hub.awake 2 = true) (hroom : s.hub.fifoFull 0 = false) {d : Doorbell} (hoff : s.hub.doorbellOn d = false) :
    exec (d.instr true) s = .next s := by
  rw [exec_doorbell ha, Hub.doorbell, if_neg (by decide), hroom, if_neg (by decide), hoff]
  rfl

/-- A doorbell of a ring that is enabled acts on its ring and goes through FIFO 0. -/
theorem exec_doorbell_on {s : State} (ha : s.hub.awake 2 = true) (hroom : s.hub.fifoFull 0 = false) {d : Doorbell} (hon : s.hub.doorbellOn d = true) :
    ∃ t, exec (d.instr true) s = .next t ∧ Rung d.value (s.hub.doorbellEffect d) s t := by
  refine ⟨_, ?_, rung_fifoPush (s.hub.doorbellEffect_ringsOnly d) hroom d.value⟩
  rw [exec_doorbell ha, Hub.doorbell, if_neg (by decide), hroom, if_neg (by decide), if_pos hon]

/-! ## What a doorbell does to its ring -/

theorem Hub.sqTail_eq (h : Hub) (n value : Nat) :
    h.sqTail n value = h.setSq n (if value < h.ringSize (Reg.SQn_CTL n) ∧
        ringDist (h.ringSize (Reg.SQn_CTL n)) (h.sq n).head (h.sq n).tail + ringDist (h.ringSize (Reg.SQn_CTL n)) (h.sq n).tail value <
          h.ringSize (Reg.SQn_CTL n)
      then { h.sq n with tail := value } else { h.sq n with dbErr := satInc 8 (h.sq n).dbErr }) := by
  rw [Hub.sqTail]
  dsimp only
  split
  case isTrue hbad =>
    rw [if_neg]
    simp only [Bool.or_eq_true, decide_eq_true_eq] at hbad
    omega
  case isFalse hgood =>
    rw [if_pos]
    simp only [Bool.or_eq_true, decide_eq_true_eq] at hgood
    omega

theorem Hub.cqHead_eq (h : Hub) (n value : Nat) :
    h.cqHead n value = if value < h.ringSize (Reg.CQn_CTL n) ∧ ringDist (h.ringSize (Reg.CQn_CTL n)) (h.cq n).head value ≤ (h.cq n).used
      then h.setCq n { h.cq n with head := value, used := (h.cq n).used - ringDist (h.ringSize (Reg.CQn_CTL n)) (h.cq n).head value }
      else h := by
  rw [Hub.cqHead, ← ite_not]
  congr 1
  simp

theorem Hub.evqHead_eq (h : Hub) (value : Nat) :
    h.evqHead value = if value < h.ringSize Reg.EVQ_CTL ∧ ringDist (h.ringSize Reg.EVQ_CTL) h.rings.evq.head value ≤ h.rings.evq.used
      then { h with rings := { h.rings with evq := { h.rings.evq with
        head := value, used := h.rings.evq.used - ringDist (h.ringSize Reg.EVQ_CTL) h.rings.evq.head value } } }
      else h := by
  rw [Hub.evqHead, ← ite_not]
  congr 1
  simp

/-! ## The obligation -/

theorem rung_ite {p : Prop} [Decidable p] {value : Nat} {a b : Hub} {s t : State} (hr : Rung value (if p then a else b) s t) :
    if p then Rung value a s t else Rung value b s t := by
  split <;> simpa [*] using hr

/-- Settles O12: a doorbell write that is whole and finds room acts as its ring says, and its word goes through FIFO 0; the others are rejected, ignored or wait. -/
theorem doorbellsMoveTheirRingOrAreRejected : Obligations.DoorbellsMoveTheirRingOrAreRejected := by
  refine ⟨⟨?sqTail, ?cqHead, ?evqHead, ?rearm⟩, ?narrow, ?off, ?full⟩
  case sqTail =>
    intro s n value ha hn hroom hen
    obtain ⟨t, ht, hr⟩ := exec_doorbell_on (d := .sqTail n value) ha hroom (by simp [Hub.doorbellOn, hn, hen])
    exact ⟨t, ht, Hub.sqTail_eq s.hub n value ▸ hr⟩
  case cqHead =>
    intro s n value ha hn hroom hen
    obtain ⟨t, ht, hr⟩ := exec_doorbell_on (d := .cqHead n value) ha hroom (by simp [Hub.doorbellOn, hn, hen])
    exact ⟨t, ht, rung_ite (Hub.cqHead_eq s.hub n value ▸ hr)⟩
  case evqHead =>
    intro s value ha hroom hen
    obtain ⟨t, ht, hr⟩ := exec_doorbell_on (d := .evqHead value) ha hroom hen
    exact ⟨t, ht, rung_ite (Hub.evqHead_eq s.hub value ▸ hr)⟩
  case rearm =>
    intro s v ha hv hroom
    exact exec_doorbell_on (d := .rearm v) ha hroom (by simp [Hub.doorbellOn, hv])
  case narrow =>
    rintro s c ha ⟨n, v, rfl | rfl | rfl | rfl⟩
    · exact exec_doorbell_narrow ha (.sqTail n v)
    · exact exec_doorbell_narrow ha (.cqHead n v)
    · exact exec_doorbell_narrow ha (.evqHead v)
    · exact exec_doorbell_narrow ha (.rearm v)
  case off =>
    intro s ha hroom
    refine ⟨fun n v hoff => ?_, fun n v hoff => ?_, fun v hoff => ?_⟩
    · exact exec_doorbell_off (d := .sqTail n v) ha hroom (by simp [Hub.doorbellOn, hoff])
    · exact exec_doorbell_off (d := .cqHead n v) ha hroom (by simp [Hub.doorbellOn, hoff])
    · exact exec_doorbell_off (d := .evqHead v) ha hroom hoff
  case full =>
    rintro s c d ha hfull ⟨n, v, ⟨rfl, rfl⟩ | ⟨rfl, rfl⟩ | ⟨rfl, rfl⟩ | ⟨rfl, rfl⟩⟩
    · exact exec_doorbell_full ha hfull (.sqTail n v)
    · exact exec_doorbell_full ha hfull (.cqHead n v)
    · exact exec_doorbell_full ha hfull (.evqHead v)
    · exact exec_doorbell_full ha hfull (.rearm v)

end Sys2Proof.Machine
end

section
/-! MSI-X vectors (R63, R449, R450): when a vector sends its message, and what a write of BAR4 does to its table. -/

namespace Sys2Proof.Machine

/-! ## Messages -/

/-- A vector may act: it exists, MSI-X is enabled, its HOLDOFF has passed and its block serves. -/
structure Hub.VecReady (h : Hub) (v : Nat) : Prop where
  bound   : v < 64
  serving : h.serving .int = true
  enabled : h.rings.msixEn = true
  holdoff : h.holdoffOver v = true

/-- A vector has a message of its own: it is armed and asserted. -/
def Hub.vecDue (h : Hub) (v : Nat) : Bool := (h.vec v).armed && h.asserted v

/-- The entry of a vector or the function is masked. -/
def Hub.vecMasked (h : Hub) (v : Nat) : Bool := (h.vec v).mask || h.rings.fmask

theorem Hub.msixGo_ready {h : Hub} {v : Nat} (hr : h.VecReady v) :
    h.msixGo v =
      if h.vecMasked v then (if h.vecDue v then h.setVec v { h.vec v with armed := false, pba := true } else h)
      else if h.vecDue v || (h.vec v).pba then
        (h.setVec v { h.vec v with armed := (h.vec v).armed && !h.vecDue v, pba := false, lastMsg := some h.clock }).emit
          (.msix v (h.vec v).addr (h.vec v).data)
      else h := by
  rw [Hub.msixGo, if_neg (by simp [hr.serving, hr.enabled, hr.holdoff, Nat.le_of_lt_succ hr.bound])]
  rfl

theorem Hub.msixGo_sends {h : Hub} {v : Nat} (hr : h.VecReady v) (hopen : h.vecMasked v = false) (hgo : h.vecDue v = true ∨ (h.vec v).pba = true) :
    h.msixGo v = (h.setVec v { h.vec v with armed := (h.vec v).armed && !h.asserted v, pba := false, lastMsg := some h.clock }).emit
      (.msix v (h.vec v).addr (h.vec v).data) := by
  have harmed : ((h.vec v).armed && !h.vecDue v) = ((h.vec v).armed && !h.asserted v) := by
    cases ha : (h.vec v).armed <;> simp [Hub.vecDue, ha]
  rw [Hub.msixGo_ready hr, hopen, if_neg (by decide), if_pos (by simpa using hgo), harmed]

theorem Hub.msixGo_holds {h : Hub} {v : Nat} (hr : h.VecReady v) (hmask : h.vecMasked v = true) (hdue : h.vecDue v = true) :
    h.msixGo v = h.setVec v { h.vec v with armed := false, pba := true } := by
  rw [Hub.msixGo_ready hr, if_pos hmask, if_pos hdue]

theorem Hub.msixGo_silent {h : Hub} {v : Nat} (hdue : h.vecDue v = false) (hheld : (h.vec v).pba = false ∨ h.vecMasked v = true) : h.msixGo v = h := by
  by_cases hr : h.VecReady v
  · rw [Hub.msixGo_ready hr, hdue]
    rcases hheld with hp | hm
    · simp [hp]
    · simp [hm]
  · rw [Hub.msixGo, if_pos]
    simp only [Bool.or_eq_true, Bool.not_eq_true', decide_eq_true_eq]
    by_contra hno
    simp only [not_or, Bool.not_eq_false] at hno
    obtain ⟨⟨⟨hv, hen⟩, hhold⟩, hserve⟩ := hno
    exact hr ⟨by omega, hserve, hen, hhold⟩

theorem Hub.msixGo_unready {h : Hub} {v : Nat} (hn : h.rings.msixEn = false ∨ h.serving .int = false ∨ h.holdoffOver v = false) : h.msixGo v = h := by
  rw [Hub.msixGo, if_pos]
  rcases hn with hn | hn | hn <;> simp [hn]

/-! ## Writes of the table -/

section Word
variable {h : Hub} {v : Nat} (hv : v < 64) (w : Nat)
include hv

theorem Hub.msixWord_addrLow : h.msixWord (16 * v) w = h.setVec v { h.vec v with addr := (h.vec v).addr / 2 ^ 32 * 2 ^ 32 + w / 4 * 4 } := by
  rw [Hub.msixWord, if_neg (by omega), show 16 * v / 16 = v by omega, show 16 * v / 4 % 4 = 0 by omega]
  rfl

theorem Hub.msixWord_addrHigh : h.msixWord (16 * v + 4) w = h.setVec v { h.vec v with addr := (h.vec v).addr % 2 ^ 32 + w * 2 ^ 32 } := by
  rw [Hub.msixWord, if_neg (by omega), show (16 * v + 4) / 16 = v by omega, show (16 * v + 4) / 4 % 4 = 1 by omega]
  rfl

theorem Hub.msixWord_data : h.msixWord (16 * v + 8) w = h.setVec v { h.vec v with data := w } := by
  rw [Hub.msixWord, if_neg (by omega), show (16 * v + 8) / 16 = v by omega, show (16 * v + 8) / 4 % 4 = 2 by omega]
  rfl

theorem Hub.msixWord_mask : h.msixWord (16 * v + 12) w = h.setVec v { h.vec v with mask := bitOf w 0 } := by
  rw [Hub.msixWord, if_neg (by omega), show (16 * v + 12) / 16 = v by omega, show (16 * v + 12) / 4 % 4 = 3 by omega]
  rfl

end Word

theorem Hub.msixWord_beyond {h : Hub} {off : Nat} (hoff : 0x400 ≤ off) (w : Nat) : h.msixWord off w = h := by
  rw [Hub.msixWord, if_pos hoff]

theorem Hub.setVec_setVec (h : Hub) (v : Nat) (x y : Vec) : (h.setVec v x).setVec v y = h.setVec v y := by
  simp only [Hub.setVec, Sparse.set_set]

/-- A doubleword is one word of the table. -/
theorem exec_msixTableWrite_word {s : State} {off word : Nat} (ha : s.hub.awake 2 = true) (hoff : off % 4 = 0) (hw : word < 2 ^ 32) :
    exec (.msixTableWrite off word 4) s = .next { s with hub := s.hub.msixWord off word } := by
  rw [show exec (.msixTableWrite off word 4) s = execMsixTableWrite off word 4 s from rfl, execMsixTableWrite, woken_awake _ ha,
    Hub.msixTable, if_pos (by simp [msixForm, hoff]), Hub.msixWords, Hub.msixWords, Nat.mod_eq_of_lt hw]

/-- Two doublewords, naturally aligned, are two words of the table, in ascending order (R39). -/
theorem exec_msixTableWrite_words {s : State} {off low high : Nat} (ha : s.hub.awake 2 = true) (hoff : off % 8 = 0) (hl : low < 2 ^ 32) (hh : high < 2 ^ 32) :
    exec (.msixTableWrite off (low + high * 2 ^ 32) 8) s = .next { s with hub := (s.hub.msixWord off low).msixWord (off + 4) high } := by
  rw [show exec (.msixTableWrite off (low + high * 2 ^ 32) 8) s = execMsixTableWrite off (low + high * 2 ^ 32) 8 s from rfl, execMsixTableWrite,
    woken_awake _ ha, Hub.msixTable, if_pos (by simp [msixForm, hoff]), Hub.msixWords, Hub.msixWords, Hub.msixWords,
    show (low + high * 2 ^ 32) % 2 ^ 32 = low by omega, show (low + high * 2 ^ 32) / 2 ^ 32 % 2 ^ 32 = high by omega]

/-! ## The obligation -/

theorem exec_msixMessage (v : Nat) (s : State) : exec (.msixMessage v) s = .next { s with hub := s.hub.msixGo v } := rfl

/-- Settles O15: a vector that may act sends, holds or is silent as its mask and its assertion say, and each write of the table is one or two of its words. -/
theorem vectorsSendTheirMessage : Obligations.VectorsSendTheirMessage := by
  refine ⟨?acts, ?silent, ?capability, ?table⟩
  case acts =>
    intro s v hv hserve hen hhold
    have hr : s.hub.VecReady v := ⟨hv, hserve, hen, hhold⟩
    constructor
    · intro hf hm hgo
      rw [exec_msixMessage, Hub.msixGo_sends hr (by simp [Hub.vecMasked, hf, hm]) (by simpa [Hub.vecDue] using hgo)]
    · intro hmask harmed hasserted
      rw [exec_msixMessage, Hub.msixGo_holds hr (by simpa [Hub.vecMasked, or_comm] using hmask) (by simp [Hub.vecDue, harmed, hasserted])]
  case silent =>
    intro s v hno
    suffices hgo : s.hub.msixGo v = s.hub by rw [exec_msixMessage, hgo]
    rcases hno with hen | hserve | hhold | ⟨hdue, hheld⟩
    · exact Hub.msixGo_unready (.inl hen)
    · exact Hub.msixGo_unready (.inr (.inl hserve))
    · exact Hub.msixGo_unready (.inr (.inr hhold))
    · exact Hub.msixGo_silent (by simpa [Hub.vecDue, or_iff_not_imp_left] using hdue) (by simpa [Hub.vecMasked, or_comm] using hheld)
  case capability =>
    intro s en fm hl
    rw [show exec (.msixCapabilityWrite en fm) s = execMsixCapabilityWrite en fm s from rfl, execMsixCapabilityWrite, wokenWhen, hl, if_neg (by decide)]
  case table =>
    intro s v word high ha hv hw hh
    refine ⟨fun hal _ => ⟨?_, ?_⟩, ?_, ?_, ?_, ?_, ?_, ?_⟩
    · rw [exec_msixTableWrite_word ha (by omega) hw, Hub.msixWord_addrLow hv, show word / 4 * 4 = word by omega]
    · rw [exec_msixTableWrite_words ha (by omega) hw hh, Hub.msixWord_addrLow hv, Hub.msixWord_addrHigh hv, Hub.setVec_setVec, Hub.vec_setVec, if_pos rfl,
        show word / 4 * 4 = word by omega, Nat.mul_add_mod_self_right, Nat.mod_eq_of_lt hw]
    · rw [exec_msixTableWrite_word ha (by omega) hw, Hub.msixWord_addrHigh hv]
    · rw [exec_msixTableWrite_word ha (by omega) hw, Hub.msixWord_data hv]
    · rw [exec_msixTableWrite_word ha (by omega) hw, Hub.msixWord_mask hv]
    · rw [exec_msixTableWrite_words ha (by omega) hw hh, Hub.msixWord_data hv, Hub.msixWord_mask hv, Hub.setVec_setVec, Hub.vec_setVec, if_pos rfl]
    · rw [exec_msixTableWrite_word ha (by decide) hw, Hub.msixWord_beyond (by decide)]
    · rw [exec_msixTableWrite_word ha (by decide) hw, Hub.msixWord_beyond (by decide)]

end Sys2Proof.Machine
end

section
/-! A HOST-region reset (R41, R463): what of the show it leaves, and what of the rings and the interrupt registers it clears. -/

namespace Sys2Proof.Machine

/-! ## What a HOST-region reset keeps -/

/-- What the show runs on: the TAGs of the duplicate windows, the applied configuration and the staged set, the bases, the ports, the flows, the pipes, the radios,
the role, the host link and the doorbell writes that wait. -/
structure ShowState where
  tags      : Nat → List Nat
  inForce   : List Table
  slots     : Sparse Bool
  epoch     : Nat
  digest    : List Byte
  staged    : List StagedWrite
  bases     : Nat → Nat × Int × ServoState
  phases    : Nat → LinkPhase
  net       : NetState
  pipes     : Sparse Pipe
  odls      : Sparse Odl
  role      : Role
  ready     : Bool
  doorbells : List Doorbell

/-- The show of a hub. -/
def Hub.showState (h : Hub) : ShowState where
  tags n := (h.sq n).window.map (·.tag)
  inForce := h.commit.inForce
  slots := h.commit.slots
  epoch := h.commit.epoch
  digest := h.commit.digest
  staged := h.commit.stagedWrites
  bases b := (h.now48 b, (h.base b).freq, (h.base b).state)
  phases n := (h.port n).phase
  net := h.net
  pipes := h.scan.pipes
  odls := h.odls
  role := h.saddle.role
  ready := h.rings.link.ready
  doorbells := h.rings.doorbells

/-- The show goes on as it was; of the registers only pending bits change, and a commit that has passed its check stays pending for its instant. -/
structure ShowKept (h h' : Hub) : Prop where
  regs    : RegsKeptBut pendRegs h h'
  kept    : h'.showState = h.showState
  pending : h.commit.phase = .pending → h'.commit.phase = .pending ∧ h'.commit.instant = h.commit.instant

namespace ShowKept

variable {a b c : Hub}

theorem refl (h : Hub) : ShowKept h h := ⟨fun _ _ => rfl, rfl, fun hp => ⟨hp, rfl⟩⟩

theorem trans (h1 : ShowKept a b) (h2 : ShowKept b c) : ShowKept a c := by
  refine ⟨fun off ho => (h2.regs off ho).trans (h1.regs off ho), h2.kept.trans h1.kept, fun hp => ?_⟩
  obtain ⟨hb, hi⟩ := h1.pending hp
  obtain ⟨hc, hi'⟩ := h2.pending hb
  exact ⟨hc, hi'.trans hi⟩

/-- An operation that writes no register and does not touch the commit in progress. -/
theorem of_same (hr : b.regs = a.regs) (hs : b.showState = a.showState) (hp : b.commit.phase = a.commit.phase)
    (hi : b.commit.instant = a.commit.instant) : ShowKept a b :=
  ⟨fun off _ => Hub.rd_of_regs a b hr off, hs, fun h => ⟨hp.trans h, hi⟩⟩

/-- A report that leaves the TAGs of the windows. -/
theorem of_reports (hr : Reports a b) (ht : ∀ n, (b.sq n).window.map (·.tag) = (a.sq n).window.map (·.tag)) : ShowKept a b := by
  have hc : b.commit = a.commit := (congrArg Hub.commit hr.shape :)
  refine ⟨hr.regs, ?_, fun hp => by rw [hc]; exact ⟨hp, rfl⟩⟩
  calc b.showState = { a.showState with tags := b.showState.tags } := (congrArg Hub.showState hr.shape :)
    _ = a.showState := by rw [show b.showState.tags = a.showState.tags from funext ht]

theorem ite {p : Prop} [Decidable p] (hb : ShowKept a b) (hc : ShowKept a c) : ShowKept a (if p then b else c) := by
  split <;> assumption

theorem foldl {α : Type} {f : Hub → α → Hub} (hf : ∀ k x, ShowKept k (f k x)) (xs : List α) (h : Hub) : ShowKept h (xs.foldl f h) :=
  List.foldlRecOn (motive := ShowKept h) xs f (.refl h) fun k hk x _ => hk.trans (hf k x)

end ShowKept

/-! ## Completions -/

theorem Hub.sq_postCompletion (h : Hub) (g : Glob) (cq flags : Nat) (c : Completion) (n : Nat) : (h.postCompletion g cq flags c).sq n = h.sq n := by
  unfold Hub.postCompletion Hub.raiseIf
  repeat' split
  · exact Hub.sq_raise ..
  · rfl
  · rfl

theorem windowAfter_tags {status : Nat} (hs : status ≠ Status.invalid) (w : List WinEntry) (tag : Nat) (result : List Byte) :
    (windowAfter w tag status result).map (·.tag) = w.map (·.tag) := by
  rw [windowAfter, if_neg hs, List.map_map]
  exact List.map_congr_left fun e _ => by dsimp only [Function.comp]; split <;> rfl

/-- Of its ring a completion changes only what the hub holds and the window. -/
theorem Hub.sq_complete {h : Hub} {q tag : Nat} {d : Desc} (hd : h.desc q tag = some d) (g : Glob) (status : Nat) (result : List Byte) (n : Nat) :
    (h.complete g q tag status result).sq n = if q = n then
      { h.sq q with inflight := (h.sq q).inflight.erase d, window := windowAfter (h.sq q).window tag status (padTo 16 result) } else h.sq n := by
  rw [Hub.complete, hd]
  dsimp only
  split
  · exact Hub.sq_setSq ..
  · rw [Hub.sq_postCompletion, Hub.sq_setSq]

/-- A completion that is not INVALID leaves the TAGs of the windows. -/
theorem Hub.complete_showKept {status : Nat} (hs : status ≠ Status.invalid) (h : Hub) (g : Glob) (q tag : Nat) (result : List Byte) :
    ShowKept h (h.complete g q tag status result) := by
  refine .of_reports (Hub.complete_reports ..) fun n => ?_
  cases hd : h.desc q tag with
  | none => rw [Hub.complete, hd]
  | some d =>
    rw [Hub.sq_complete hd]
    split
    case isTrue hq => rw [← hq]; exact windowAfter_tags hs ..
    case isFalse => rfl

theorem Hub.raise_showKept (h : Hub) (g : Glob) (src d : Nat) : ShowKept h (h.raise g src d) :=
  .of_reports (Hub.raise_reports ..) fun n => by rw [Hub.sq_raise]

/-- A commit that has not passed its check is cancelled. -/
theorem Hub.cancelCommit_showKept {h : Hub} (hp : h.commit.phase ≠ .pending) (g : Glob) : ShowKept h (h.cancelCommit g) := by
  have hidle : ShowKept h { h with commit := { h.commit with phase := .idle, owner := none } } := ⟨fun _ _ => rfl, rfl, fun h => absurd h hp⟩
  unfold Hub.cancelCommit
  refine .ite (.refl h) (.trans ?_ (Hub.raise_showKept ..))
  split
  · exact hidle.trans (Hub.complete_showKept (by decide) ..)
  · exact hidle

/-! ## Descriptors that end before their time -/

section Cut
variable (h : Hub) (g : Glob)

theorem Hub.unstage_showKept (q tag : Nat) : ShowKept h (h.unstage q tag) := by
  have hstaged : (h.unstage q tag).commit.stagedWrites = h.commit.stagedWrites := by
    simp only [Hub.unstage, Commit.stagedWrites, List.filter_filter]
    refine List.filter_congr fun w _ => ?_
    cases w.owner <;> simp
  refine .of_same rfl ?_ rfl rfl
  calc (h.unstage q tag).showState = { h.showState with staged := (h.unstage q tag).commit.stagedWrites } := rfl
    _ = h.showState := by rw [hstaged]; rfl

theorem Hub.modPort_showKept (n : Nat) {f : Port → Port} (hf : ∀ p, (f p).phase = p.phase) : ShowKept h (h.modPort n f) := by
  have hphases : (fun j => ((h.modPort n f).port j).phase) = h.showState.phases := funext fun j => by
    rw [Hub.modPort, Hub.port_setPort]
    split
    case isTrue hj => rw [hf, hj]; rfl
    case isFalse => rfl
  refine .of_same rfl ?_ rfl rfl
  calc (h.modPort n f).showState = { h.showState with phases := fun j => ((h.modPort n f).port j).phase } := rfl
    _ = h.showState := by rw [hphases]

/-- A base whose value, frequency and state stand. -/
theorem Hub.setBase_showKept (t : Nat) {x : TimeBase} (hx : (x.t48, x.freq, x.state) = h.showState.bases t) : ShowKept h (h.setBase t x) := by
  have hbases : (h.setBase t x).showState.bases = h.showState.bases := funext fun b => by
    simp only [Hub.showState, Hub.now48, Hub.base_setBase]
    split
    case isTrue hb => rw [hx, hb]; rfl
    case isFalse => rfl
  refine .of_same rfl ?_ rfl rfl
  calc (h.setBase t x).showState = { h.showState with bases := (h.setBase t x).showState.bases } := rfl
    _ = h.showState := by rw [hbases]

theorem Hub.groupTrigger_showKept (pg : Nat) : ShowKept h (h.groupTrigger pg) := by
  have hask (k : Hub) (n : Nat) : ShowKept k (k.askUp n) := k.modPort_showKept n fun p => by unfold Port.askUp; split <;> rfl
  unfold Hub.groupTrigger
  refine .ite (.trans (b := h.setGroup pg _) ?_ (.foldl hask _ _)) ?_
  all_goals exact .of_same rfl rfl rfl rfl

theorem Hub.calLoadEnd_showKept (q tag p : Nat) : ShowKept h (h.calLoadEnd q tag p) := by
  unfold Hub.calLoadEnd
  exact .trans (b := h.modCal p _) (.of_same rfl rfl rfl rfl) (Hub.groupTrigger_showKept ..)

theorem Hub.modFwu_showKept (f : Fwu → Fwu) : ShowKept h (h.modFwu f) := .of_same rfl rfl rfl rfl

theorem Hub.fetchedCut_showKept (d : Desc) : ShowKept h (h.fetchedCut g d) := by
  have hbegin (off : Nat) : ShowKept h (h.fwStageBegin off) := by
    unfold Hub.fwStageBegin
    exact .ite (.refl h) (Hub.modFwu_showKept ..)
  unfold Hub.fetchedCut
  exact .ite ((hbegin _).trans (Hub.modFwu_showKept ..)) (.refl h)

theorem Hub.msrEnd_showKept {status : Nat} (hs : status ≠ Status.invalid) : ShowKept h (h.msrEnd g status) := by
  have hunit (k : Hub) (c : Nat) : ShowKept k (if k.seqUnit c then k.setCmp c { k.cmp c with next := none } else k) :=
    .ite (.of_same rfl rfl rfl rfl) (.refl k)
  unfold Hub.msrEnd
  refine .ite (.refl h) ((ShowKept.foldl hunit (List.range 16) h).trans ?_)
  dsimp only
  split
  · refine .trans ?_ (Hub.complete_showKept hs ..)
    exact .of_same rfl rfl rfl rfl
  · exact .of_same rfl rfl rfl rfl

theorem Hub.confirmNow_ne_invalid : h.confirmNow g ≠ Status.invalid := by
  unfold Hub.confirmNow
  repeat' split
  all_goals decide

theorem Hub.confirmsGo_showKept : ShowKept h (h.confirmsGo g) := by
  unfold Hub.confirmsGo
  exact .ite (.refl h) (.foldl (fun k q => .foldl (fun l d => Hub.complete_showKept (Hub.confirmNow_ne_invalid l g) ..) _ k) _ h)

theorem Hub.tileSendCut_showKept (q tag : Nat) : ShowKept h (h.tileSendCut q tag) := by
  refine .foldl (fun k n => ?_) _ h
  exact k.modPort_showKept n fun _ => rfl

section Ends
variable {status : Nat} (hs : status ≠ Status.invalid) (q : Nat) (d : Desc)
include hs

theorem Hub.cutMoving_showKept : ShowKept h (h.cutMoving g q status d) := by
  unfold Hub.cutMoving
  refine .trans ?_ (Hub.complete_showKept hs ..)
  split
  · exact Hub.unstage_showKept ..
  · exact Hub.calLoadEnd_showKept ..
  case h_3 | h_4 | h_5 | h_6 => exact .trans (b := h.drew 1) (.of_same rfl rfl rfl rfl) (.of_same rfl rfl rfl rfl)
  case h_7 => exact Hub.modFwu_showKept ..
  case h_8 => exact .refl h

theorem Hub.cutWaiting_showKept (hcommit : d.opcode = 0x02 → h.commit.phase ≠ .pending) : ShowKept h (h.cutWaiting g q status d) := by
  unfold Hub.cutWaiting
  split
  case h_1 hop => exact Hub.cancelCommit_showKept (hcommit hop) g
  case h_2 => exact Hub.msrEnd_showKept h g hs
  case h_3 | h_6 | h_8 =>
    refine .trans ?_ (Hub.complete_showKept hs ..)
    exact .of_same rfl rfl rfl rfl
  case h_4 => exact Hub.complete_showKept hs ..
  case h_5 =>
    refine .trans (.foldl (fun k t => ?_) _ h) (Hub.complete_showKept hs ..)
    exact k.setBase_showKept t rfl
  case h_7 => exact .ite (.refl h) ((Hub.tileSendCut_showKept ..).trans (Hub.complete_showKept hs ..))
  case h_9 => exact .refl h

theorem Hub.cutDesc_showKept (hcommit : d.phase = .waiting → d.opcode = 0x02 → h.commit.phase ≠ .pending) : ShowKept h (h.cutDesc g q status d) := by
  unfold Hub.cutDesc
  split
  · exact (Hub.fetchedCut_showKept ..).trans (Hub.complete_showKept hs ..)
  · exact .ite ((Hub.cutMoving_showKept h g hs q d).trans (Hub.confirmsGo_showKept ..)) (Hub.cutMoving_showKept h g hs q d)
  case h_3 hwait =>
    have hcut := Hub.cutWaiting_showKept h g hs q d (hcommit hwait)
    exact .ite (hcut.trans (Hub.confirmsGo_showKept ..)) hcut

end Ends

/-- What a HOST-region reset does to a descriptor leaves the show. -/
theorem Hub.hostCut_showKept (q : Nat) (d : Desc) : ShowKept h (h.hostCut g q d) := by
  have hsilent (tag : Nat) : ShowKept h (h.modDesc q tag fun x => { x with silent := true }) := by
    refine .of_reports (Hub.setSq_reports ..) fun n => ?_
    rw [Hub.modDesc, Hub.sq_setSq]
    split
    case isTrue hq => rw [← hq]
    case isFalse => rfl
  unfold Hub.hostCut
  dsimp only
  split
  case isTrue => exact hsilent _
  case isFalse hno =>
    refine (hsilent _).trans (Hub.cutDesc_showKept _ g (by decide) q _ fun hwait hop hp => hno ?_)
    have hp' : h.commit.phase = .pending := hp
    simp [show d.phase = .waiting from hwait, show d.opcode = 0x02 from hop, hp']

end Cut

/-! ## The rings that are disabled -/

/-- Every ring is disabled. -/
def Hub.ringsOff (h : Hub) : Hub :=
  ((List.range 64).foldl (fun h n => (h.putBit (Reg.SQn_CTL n) 0 false).putBit (Reg.CQn_CTL n) 0 false) h).putBit Reg.EVQ_CTL 0 false

/-- The registers that control a ring. -/
def ringCtls : List Nat := (List.range 64).flatMap (fun n => [Reg.SQn_CTL n, Reg.CQn_CTL n]) ++ [Reg.EVQ_CTL]

theorem mem_ringCtls {off : Nat} : off ∈ ringCtls ↔ (∃ n < 64, off = Reg.SQn_CTL n ∨ off = Reg.CQn_CTL n) ∨ off = Reg.EVQ_CTL := by
  simp only [ringCtls, List.mem_append, List.mem_flatMap, List.mem_range, List.mem_cons, List.not_mem_nil, or_false]

/-- Bit 0 of a register that has been cleared is clear, and so it stays when bit 0 of any register is cleared. -/
theorem Hub.bit0_putBit (h : Hub) (o off : Nat) (hc : o = off ∨ h.bit off 0 = false) : (h.putBit o 0 false).bit off 0 = false := by
  by_cases ho : o = off
  · rw [← ho, Hub.bit_putBit _ _ _ _ _ (by decide), if_pos rfl]
  · rw [Hub.bit_of_rd _ _ _ _ (Hub.rd_putBit_ne _ _ _ _ _ ho)]
    exact hc.resolve_left ho

theorem Hub.bit0_foldl_putBit {off : Nat} (l : List Nat) (h : Hub) (hc : (∃ n ∈ l, off = Reg.SQn_CTL n ∨ off = Reg.CQn_CTL n) ∨ h.bit off 0 = false) :
    (l.foldl (fun h n => (h.putBit (Reg.SQn_CTL n) 0 false).putBit (Reg.CQn_CTL n) 0 false) h).bit off 0 = false := by
  induction l generalizing h with
  | nil => simpa using hc
  | cons m l ih =>
    refine ih _ ?_
    rcases hc with ⟨n, hn, hoff⟩ | hclear
    · rcases List.mem_cons.1 hn with rfl | hl
      · right
        rcases hoff with hs | hq
        · exact Hub.bit0_putBit _ _ _ (.inr (Hub.bit0_putBit _ _ _ (.inl hs.symm)))
        · exact Hub.bit0_putBit _ _ _ (.inl hq.symm)
      · exact .inl ⟨n, hl, hoff⟩
    · exact .inr (Hub.bit0_putBit _ _ _ (.inr (Hub.bit0_putBit _ _ _ (.inr hclear))))

theorem Hub.ringsOff_bit (h : Hub) {off : Nat} (hoff : off ∈ ringCtls) : h.ringsOff.bit off 0 = false := by
  refine Hub.bit0_putBit _ _ _ ?_
  rcases mem_ringCtls.1 hoff with ⟨n, hn, hreg⟩ | hevq
  · exact .inr (Hub.bit0_foldl_putBit _ h (.inl ⟨n, List.mem_range.2 hn, hreg⟩))
  · exact .inl hevq.symm

theorem Hub.ringsOff_rd (h : Hub) {off : Nat} (hoff : off ∉ ringCtls) : h.ringsOff.rd off = h.rd off := by
  rw [mem_ringCtls] at hoff
  push Not at hoff
  obtain ⟨hrings, hevq⟩ := hoff
  rw [Hub.ringsOff, Hub.rd_putBit_ne _ _ _ _ _ (Ne.symm hevq)]
  refine List.foldlRecOn (motive := fun k : Hub => k.rd off = h.rd off) _ _ rfl fun k hk n hn => ?_
  obtain ⟨hs, hq⟩ := hrings n (List.mem_range.1 hn)
  rw [Hub.rd_putBit_ne _ _ _ _ _ (Ne.symm hq), Hub.rd_putBit_ne _ _ _ _ _ (Ne.symm hs), hk]

theorem Hub.ringsOff_show (h : Hub) : h.ringsOff.showState = h.showState ∧ h.ringsOff.commit = h.commit := by
  refine List.foldlRecOn (motive := fun k : Hub => (k.putBit Reg.EVQ_CTL 0 false).showState = h.showState ∧ (k.putBit Reg.EVQ_CTL 0 false).commit = h.commit)
    _ _ ⟨rfl, rfl⟩ fun k hk n _ => hk

/-! ## The interrupt registers that return to reset -/

/-- The registers of INT. -/
def intRegs : List Nat := (List.range 128).map Reg.INT_SRC_MAPn ++ (List.range 4).map Reg.INT_PENDk ++ (List.range 64).map Reg.INT_VEC_CTLv

theorem Hub.rd_foldl_resetReg (l : List Nat) (h : Hub) (off : Nat) :
    (l.foldl (fun h o => h.resetReg o) h).rd off = if off ∈ l then Reg.resetValue off else h.rd off := by
  induction l generalizing h with
  | nil => rfl
  | cons o l ih =>
    rw [List.foldl_cons, ih, Hub.resetReg, Hub.rd_wr]
    by_cases hl : off ∈ l
    · rw [if_pos hl, if_pos (List.mem_cons_of_mem _ hl)]
    · by_cases ho : o = off
      · rw [if_neg hl, if_pos ho, if_pos (by simp [ho]), ho]
      · rw [if_neg hl, if_neg ho, if_neg (by simpa [hl] using Ne.symm ho)]

theorem Hub.intReset_eq (h : Hub) :
    h.intReset = { intRegs.foldl (fun h o => h.resetReg o) h with rings := { h.rings with vecs := [], msixEn := false, fmask := false } } := by
  rw [Hub.intReset, intRegs]

theorem Hub.intReset_regs (h : Hub) : h.intReset.regs = (intRegs.foldl (fun h o => h.resetReg o) h).regs := by rw [Hub.intReset_eq]

theorem Hub.intReset_rd (h : Hub) (off : Nat) : h.intReset.rd off = if off ∈ intRegs then Reg.resetValue off else h.rd off :=
  (Hub.rd_of_regs _ _ (Hub.intReset_regs h) off).trans (Hub.rd_foldl_resetReg intRegs h off)

theorem Hub.foldl_resetReg_shape (l : List Nat) (h : Hub) :
    l.foldl (fun h o => h.resetReg o) h = { h with regs := (l.foldl (fun h o => h.resetReg o) h).regs } :=
  List.foldlRecOn (motive := fun k : Hub => k = { h with regs := k.regs }) l _ rfl fun k hk o _ => by rw [hk]; rfl

theorem Hub.intReset_shape (h : Hub) :
    ∃ regs, h.intReset = { h with regs := regs, rings := { h.rings with vecs := [], msixEn := false, fmask := false } } := by
  have hf := Hub.foldl_resetReg_shape intRegs h
  rw [Hub.intReset_eq]
  generalize intRegs.foldl (fun h o => h.resetReg o) h = k at hf ⊢
  exact ⟨k.regs, by rw [hf]⟩

/-- The registers of INT and of the rings lie apart. -/
theorem not_mem_intRegs {off : Nat} (hoff : 0x41000 ≤ off) : off ∉ intRegs := by
  simp only [intRegs, List.mem_append, List.mem_map, List.mem_range, Reg.INT_SRC_MAPn, Reg.INT_PENDk, Reg.INT_VEC_CTLv]
  grind

/-! ## The reset -/

/-- The hub once the descriptors in flight have ended. -/
def Hub.hostCuts (h : Hub) (g : Glob) : Hub := (List.range 64).foldl (fun h q => (h.sq q).inflight.foldl (fun h d => h.hostCut g q d) h) h

theorem Hub.hostCuts_showKept (h : Hub) (g : Glob) : ShowKept h (h.hostCuts g) :=
  .foldl (fun k q => .foldl (fun l d => l.hostCut_showKept g q d) _ k) _ h

theorem Hub.hostReset_eq (h : Hub) (g : Glob) : h.hostReset g = (h.ringsOff.hostCuts g).intReset.linkRetrains g := rfl

theorem Hub.linkRetrains_kept (h : Hub) (g : Glob) :
    (h.linkRetrains g).regs = h.regs ∧ (h.linkRetrains g).showState = h.showState ∧ (h.linkRetrains g).commit = h.commit ∧
      (h.linkRetrains g).rings.vecs = h.rings.vecs ∧ (h.linkRetrains g).rings.msixEn = h.rings.msixEn ∧ (h.linkRetrains g).rings.fmask = h.rings.fmask := by
  cases hr : h.rings.link.ready with
  | false => rw [Hub.linkRetrains, hr]; exact ⟨rfl, rfl, rfl, rfl, rfl, rfl⟩
  | true =>
    have hshow : (h.linkRetrains g).showState = { h.showState with ready := true } := by rw [Hub.linkRetrains, hr]; rfl
    refine ⟨?_, ?_, ?_, ?_, ?_, ?_⟩
    case refine_2 => rw [hshow, ← hr]; rfl
    all_goals rw [Hub.linkRetrains, hr]; rfl

/-- The registers after a HOST-region reset: those of INT at reset, those of the rings with EN clear, and all others as they were. -/
theorem Hub.hostReset_rd (h : Hub) (g : Glob) (off : Nat) :
    (h.hostReset g).rd off = if off ∈ intRegs then Reg.resetValue off else (h.ringsOff.hostCuts g).rd off := by
  rw [Hub.hostReset_eq, Hub.rd_of_regs _ _ (Hub.linkRetrains_kept _ g).1, Hub.intReset_rd]

theorem Hub.hostReset_int (h : Hub) (g : Glob) {off : Nat} (hoff : off ∈ intRegs) : (h.hostReset g).rd off = Reg.resetValue off := by
  rw [Hub.hostReset_rd, if_pos hoff]

theorem ringCtls_ge {off : Nat} (hoff : off ∈ ringCtls) : 0x41000 ≤ off := by
  rcases mem_ringCtls.1 hoff with ⟨n, -, rfl | rfl⟩ | rfl <;> simp only [Reg.SQn_CTL, Reg.CQn_CTL, Reg.EVQ_CTL] <;> omega

theorem Hub.hostReset_ring (h : Hub) (g : Glob) {off : Nat} (hoff : off ∈ ringCtls) : (h.hostReset g).bit off 0 = false := by
  have hge := ringCtls_ge hoff
  rw [Hub.bit_of_rd h.ringsOff _ _ _ ?_, Hub.ringsOff_bit h hoff]
  rw [Hub.hostReset_rd, if_neg (not_mem_intRegs hge), (Hub.hostCuts_showKept h.ringsOff g).regs off (not_mem_pendRegs (by omega))]

theorem Hub.hostReset_kept (h : Hub) (g : Glob) {off : Nat} (hge : 0x41000 ≤ off) (hoff : off ∉ ringCtls) : (h.hostReset g).rd off = h.rd off := by
  rw [Hub.hostReset_rd, if_neg (not_mem_intRegs hge), (Hub.hostCuts_showKept h.ringsOff g).regs off (not_mem_pendRegs (by omega)), Hub.ringsOff_rd h hoff]

theorem Hub.hostReset_show (h : Hub) (g : Glob) : (h.hostReset g).showState = h.showState := by
  have hint (k : Hub) : k.intReset.showState = k.showState := by
    obtain ⟨regs, hk⟩ := k.intReset_shape
    rw [hk]
    rfl
  rw [Hub.hostReset_eq, (Hub.linkRetrains_kept _ g).2.1, hint, (Hub.hostCuts_showKept ..).kept, h.ringsOff_show.1]

/-- The vectors and the MSI-X capability after a HOST-region reset. -/
theorem Hub.hostReset_msix (h : Hub) (g : Glob) :
    (h.hostReset g).rings.vecs = [] ∧ (h.hostReset g).rings.msixEn = false ∧ (h.hostReset g).rings.fmask = false := by
  obtain ⟨-, -, -, hvecs, hen, hmask⟩ := Hub.linkRetrains_kept (h.ringsOff.hostCuts g).intReset g
  obtain ⟨regs, hint⟩ := (h.ringsOff.hostCuts g).intReset_shape
  rw [Hub.hostReset_eq, hvecs, hen, hmask, hint]
  exact ⟨rfl, rfl, rfl⟩

theorem Hub.hostReset_pending {h : Hub} (g : Glob) (hp : h.commit.phase = .pending) :
    (h.hostReset g).commit.phase = .pending ∧ (h.hostReset g).commit.instant = h.commit.instant := by
  obtain ⟨-, hoff⟩ := h.ringsOff_show
  have hcuts := (Hub.hostCuts_showKept h.ringsOff g).pending (by rw [hoff]; exact hp)
  rw [hoff] at hcuts
  rw [Hub.hostReset_eq]
  generalize h.ringsOff.hostCuts g = k at hcuts ⊢
  obtain ⟨-, -, hcommit, -⟩ := Hub.linkRetrains_kept k.intReset g
  obtain ⟨regs, hint⟩ := k.intReset_shape
  rw [hcommit, hint]
  exact hcuts

theorem resetValue_intPend : ∀ k, k < 4 → Reg.resetValue (Reg.INT_PENDk k) = 0 := by decide +kernel

/-- Settles O16: the rings are disabled, what is in flight ends without a trace in the show, INT returns to reset, and the link, where it was up, trains. -/
theorem hostRegionResetKeepsTheShow : Obligations.HostRegionResetKeepsTheShow := by
  intro s
  have hexec : exec .hostRegionReset s = .next { s with hub := s.hub.hostReset s.glob } := rfl
  have hshow := s.hub.hostReset_show s.glob
  have hint (off : Nat) := s.hub.hostReset_int s.glob (off := off)
  have hring (off : Nat) := s.hub.hostReset_ring s.glob (off := off)
  have hkept (off : Nat) := s.hub.hostReset_kept s.glob (off := off)
  have hpending := Hub.hostReset_pending (h := s.hub) s.glob
  obtain ⟨hvecs, hen, hmask⟩ := s.hub.hostReset_msix s.glob
  generalize s.hub.hostReset s.glob = k at *
  refine ⟨_, hexec, rfl, rfl, rfl, fun n hn => ⟨?sq, ?cq, ?epoch, congrFun (congrArg ShowState.tags hshow :) n⟩,
    hring _ (mem_ringCtls.2 (.inr rfl)), fun j hj => ?pend, fun n hn => hint _ ?map, fun v hv => ⟨hint _ ?vec, ?entry⟩, hen, hmask,
    (congrArg ShowState.inForce hshow :), (congrArg ShowState.slots hshow :), (congrArg ShowState.epoch hshow :), (congrArg ShowState.digest hshow :),
    (congrArg ShowState.staged hshow :), hpending, fun b _ => ?base, fun n _ => ⟨congrFun (congrArg ShowState.phases hshow :) n, ?flow, ?cur, ?next⟩,
    (congrArg ShowState.odls hshow :), (congrArg ShowState.role hshow :), (congrArg ShowState.ready hshow :), (congrArg ShowState.doorbells hshow :)⟩
  case sq => exact hring _ (mem_ringCtls.2 (.inl ⟨n, hn, .inl rfl⟩))
  case cq => exact hring _ (mem_ringCtls.2 (.inl ⟨n, hn, .inr rfl⟩))
  case epoch =>
    refine hkept _ (by simp only [Reg.SQn_EPOCH]; omega) fun hm => ?_
    rcases mem_ringCtls.1 hm with ⟨m, hm64, he | he⟩ | he <;> simp only [Reg.SQn_EPOCH, Reg.SQn_CTL, Reg.CQn_CTL, Reg.EVQ_CTL] at he <;> omega
  case pend =>
    have hmem : Reg.INT_PENDk j ∈ intRegs := by
      simp only [intRegs, List.mem_append, List.mem_map, List.mem_range]
      exact .inl (.inr ⟨j, hj, rfl⟩)
    rw [Hub.n, hint _ hmem, resetValue_intPend j hj]
    rfl
  case map => simp only [intRegs, List.mem_append, List.mem_map, List.mem_range]; exact .inl (.inl ⟨n, hn, rfl⟩)
  case vec => simp only [intRegs, List.mem_append, List.mem_map, List.mem_range]; exact .inr ⟨v, hv, rfl⟩
  case entry => rw [Hub.vec, hvecs, Sparse.get_nil]
  case base =>
    have hbase := congrFun (congrArg ShowState.bases hshow :) b
    simpa only [Hub.showState, Prod.mk.injEq] using hbase
  case flow => exact congrArg (fun x : ShowState => Sparse.get {} x.net.flows n) hshow
  case cur => exact congrArg (fun x : ShowState => (Sparse.get {} x.pipes n).cur) hshow
  case next => exact congrArg (fun x : ShowState => (Sparse.get {} x.pipes n).pend) hshow

end Sys2Proof.Machine
end

section
/-! Fetching (R42 to R44, R49, R52, R54, R147, R388): what a ring gives up to the hub, and a read of host memory that fails. -/

namespace Sys2Proof.Machine

/-! ## Bytes and numbers -/

theorem ofLe_lt (bs : List Byte) : ofLe bs < 256 ^ bs.length := by
  induction bs with
  | nil => exact Nat.zero_lt_one
  | cons b bs ih =>
    have hb : b.toNat < 256 := b.isLt
    rw [ofLe, List.length_cons, pow_succ]
    omega

theorem leAt_lt (bs : List Byte) (off k : Nat) : leAt bs off k < 256 ^ k :=
  (ofLe_lt _).trans_le (Nat.pow_le_pow_right (by decide) (List.length_take_le k _))

theorem padTo_length {bs : List Byte} {k : Nat} (hk : bs.length = k) : padTo k bs = bs := by
  rw [padTo, hk, Nat.sub_self, List.take_of_length_le hk.le]
  exact List.append_nil bs

/-! ## The handle of a descriptor -/

/-- A handle is the TAG and a multiple of 2^32. -/
theorem Sq.handle_mod (q : Sq) (tag : Nat) : q.handle tag % 2 ^ 32 = tag % 2 ^ 32 := by
  rw [Sq.handle]
  cases hfind : List.find? _ _ with
  | none => rw [Option.getD_none]
  | some t =>
    obtain ⟨k, -, rfl⟩ := List.mem_map.1 (List.mem_of_find?_eq_some hfind)
    rw [Option.getD_some, Nat.add_mul_mod_self_right]

theorem Sq.recall_mod (q : Sq) {a b : Nat} (hab : a % 2 ^ 32 = b % 2 ^ 32) : q.recall a = q.recall b := by
  rw [Sq.recall, Sq.recall, hab]

theorem Hub.descOf_tag (h : Hub) (g : Glob) (n : Nat) (bytes : List Byte) : (h.descOf g n bytes).tag % 2 ^ 32 = leAt bytes 4 4 :=
  (Sq.handle_mod _ _).trans (Nat.mod_eq_of_lt (leAt_lt bytes 4 4))

/-! ## The branches of a fetch -/

section
variable {h : Hub} {g : Glob} {n : Nat} {bytes : List Byte}

/-- The hub once a ring has given up its next descriptor. -/
def Hub.headMoved (h : Hub) (n : Nat) : Hub :=
  (h.setSq n { h.sq n with fenced := false, head := ((h.sq n).head + 1) % h.ringSize (Reg.SQn_CTL n) }).served n

/-- The read of the next descriptor of a ring. -/
def Hub.nextRead (h : Hub) (n : Nat) : Out := .descRead n (h.ringAddr (Reg.SQn_BASE_LO n) (Reg.SQn_BASE_HI n) + 64 * (h.sq n).head)

theorem Hub.fetch_none (hc : h.fetchable n = false ∨ h.outranked n = true) : h.fetch g n bytes = h := by
  rw [Hub.fetch, if_pos]
  rcases hc with hc | hc <;> rw [hc] <;> simp

theorem Hub.fetch_some (hf : h.fetchable n = true) (ho : h.outranked n = false) (hlen : bytes.length = 64) :
    h.fetch g n bytes = if bitOf (byteAt bytes 1) 0 && !(h.sq n).inflight.isEmpty then h.setSq n { h.sq n with fenced := true }
      else ((h.headMoved n).emit (h.nextRead n)).takeUp g n (h.descOf g n bytes) := by
  rw [Hub.fetch, if_neg (by simp [hf, ho]), padTo_length hlen]
  rfl

theorem Hub.served_frame (h : Hub) (n : Nat) :
    (h.served n).rings.sqs = h.rings.sqs ∧ (h.served n).rings.cqs = h.rings.cqs ∧ (h.served n).regs = h.regs ∧ (h.served n).out = h.out ∧
      (h.served n).fwu = h.fwu ∧ (h.served n).saddle = h.saddle := by
  unfold Hub.served
  split <;> exact ⟨rfl, rfl, rfl, rfl, rfl, rfl⟩

theorem Hub.headMoved_frame (h : Hub) (n : Nat) :
    (h.headMoved n).regs = h.regs ∧ (h.headMoved n).out = h.out ∧ (h.headMoved n).fwu = h.fwu ∧ (h.headMoved n).saddle = h.saddle := by
  obtain ⟨-, -, hregs, hout, hfwu, hsaddle⟩ :=
    (h.setSq n { h.sq n with fenced := false, head := ((h.sq n).head + 1) % h.ringSize (Reg.SQn_CTL n) }).served_frame n
  exact ⟨hregs, hout, hfwu, hsaddle⟩

theorem Hub.headMoved_sq (h : Hub) (n j : Nat) :
    (h.headMoved n).sq j = if n = j then { h.sq n with fenced := false, head := ((h.sq n).head + 1) % h.ringSize (Reg.SQn_CTL n) } else h.sq j := by
  obtain ⟨hsqs, -⟩ := (h.setSq n { h.sq n with fenced := false, head := ((h.sq n).head + 1) % h.ringSize (Reg.SQn_CTL n) }).served_frame n
  rw [Hub.sq, Hub.headMoved, hsqs]
  exact Hub.sq_setSq ..

theorem Hub.rd_headMoved (h : Hub) (n off : Nat) : (h.headMoved n).rd off = h.rd off := Hub.rd_of_regs _ _ (h.headMoved_frame n).1 off

/-! ## Taking up -/

/-- A well-formed descriptor of the ring's epoch that the window does not recall is taken up, in the role UNPAIRED. -/
theorem Hub.takeUp_taken {d : Desc} (hv : descValid d.bytes = true) (he : leAt d.bytes 8 2 = h.f (Reg.SQn_EPOCH n) 15 0) (hr : (h.sq n).recall d.tag = none)
    (hp : h.fwu.phase ≠ .recovery) (hrole : h.saddle.role = .unpaired) :
    h.takeUp g n d = h.setSq n { h.sq n with inflight := (h.sq n).inflight ++ [d], window := windowAccept (h.sq n).window d.tag } := by
  rw [Hub.takeUp, if_neg (by simp [hv, he]), hr]
  dsimp only
  rw [if_neg (by simp [hp]), if_neg (by rw [Hub.pairRefuses, hrole]; exact Bool.false_ne_true)]

theorem Hub.takeUp_invalid {d : Desc} (hc : descValid d.bytes = false ∨ leAt d.bytes 8 2 ≠ h.f (Reg.SQn_EPOCH n) 15 0) :
    h.takeUp g n d = h.turnedAway g n d Status.invalid 0 [] := by
  rw [Hub.takeUp, if_pos]
  rcases hc with hc | hc
  · rw [hc]; rfl
  · rw [bne_iff_ne.2 hc, Bool.or_true]

theorem Hub.takeUp_duplicate {d : Desc} {e : WinEntry} (hv : descValid d.bytes = true) (he : leAt d.bytes 8 2 = h.f (Reg.SQn_EPOCH n) 15 0)
    (hr : (h.sq n).recall d.tag = some e) : h.takeUp g n d = h.turnedAway g n d Status.duplicate (e.status.getD Status.busy) e.result := by
  rw [Hub.takeUp, if_neg (by simp [hv, he]), hr]

theorem Reports.mem_out {a b : Hub} (hr : Reports a b) {o : Out} (ho : o ∈ a.out) : o ∈ b.out := by
  obtain ⟨l, hl⟩ := hr.out
  rw [hl]
  exact List.mem_append_right l ho

/-- Where the completion ring is enabled, the entry of a completion leaves the hub. -/
theorem Hub.postCompletion_out {cq : Nat} (hcq : h.bit (Reg.CQn_CTL cq) 0 = true) (flags : Nat) (c : Completion) :
    ∃ slot addr, Out.completion cq slot addr { c with phase := (h.cq cq).phase } ∈ (h.postCompletion g cq flags c).out := by
  rw [Hub.postCompletion, if_pos hcq]
  exact ⟨_, _, (Hub.raiseIf_reports ..).mem_out (List.mem_cons_self ..)⟩

end

section
variable {h : Hub} {g : Glob} {n : Nat}

theorem Hub.turnedAway_reports (d : Desc) (status orig : Nat) (result : List Byte) : Reports h (h.turnedAway g n d status orig result) :=
  Hub.postCompletion_reports ..

theorem Hub.sq_turnedAway (d : Desc) (status orig : Nat) (result : List Byte) (j : Nat) : (h.turnedAway g n d status orig result).sq j = h.sq j :=
  Hub.sq_postCompletion ..

theorem Hub.turnedAway_out {d : Desc} (hcq : h.bit (Reg.CQn_CTL d.cq) 0 = true) (status orig : Nat) (result : List Byte) :
    ∃ slot addr c, Out.completion d.cq slot addr c ∈ (h.turnedAway g n d status orig result).out ∧ c.tag = d.tag % 2 ^ 32 ∧ c.status = status ∧ c.sq = n ∧
      c.orig = orig ∧ c.result = padTo 16 result := by
  obtain ⟨slot, addr, hout⟩ := Hub.postCompletion_out (g := g) hcq d.flags
    { tag := d.tag % 2 ^ 32, status := status, orig := orig, sq := n, phase := false, sqHead := (h.sq n).head, result := padTo 16 result }
  exact ⟨slot, addr, _, hout, rfl, rfl, rfl, rfl, rfl⟩

theorem Hub.fetchable_parts (hf : h.fetchable n = true) : h.bit (Reg.CQn_CTL (h.boundCq n)) 0 = true ∧ h.serving .hif = true := by
  simp only [Hub.fetchable, Hub.cqRoom, Bool.and_eq_true] at hf
  obtain ⟨⟨⟨⟨-, hroom, -⟩, -⟩, hserves⟩, -⟩ := hf
  exact ⟨hroom, hserves⟩

end

/-! ## The command -/

section
variable {s : State} {n : Nat} {bytes : List Byte}

theorem exec_descriptorFetch (s : State) (n : Nat) (bytes : List Byte) :
    exec (.descriptorFetch n bytes []) s = .next { s with hub := s.hub.fetch s.glob n bytes } := rfl

/-- The hub once it has read the next descriptor of a ring. -/
def Hub.hasRead (h : Hub) (n : Nat) : Hub := (h.headMoved n).emit (h.nextRead n)

theorem Hub.hasRead_sq (h : Hub) (n j : Nat) :
    (h.hasRead n).sq j = if n = j then { h.sq n with fenced := false, head := ((h.sq n).head + 1) % h.ringSize (Reg.SQn_CTL n) } else h.sq j :=
  h.headMoved_sq n j

theorem Hub.rd_hasRead (h : Hub) (n off : Nat) : (h.hasRead n).rd off = h.rd off := h.rd_headMoved n off

theorem Hub.hasRead_epoch (h : Hub) (n : Nat) : (h.hasRead n).f (Reg.SQn_EPOCH n) 15 0 = h.f (Reg.SQn_EPOCH n) 15 0 :=
  Hub.f_of_rd _ _ _ _ _ (h.rd_hasRead n _)

theorem Hub.hasRead_recall (h : Hub) (g : Glob) (n : Nat) (bytes : List Byte) :
    ((h.hasRead n).sq n).recall (h.descOf g n bytes).tag = (h.sq n).recall (leAt bytes 4 4) := by
  rw [Hub.hasRead_sq, if_pos rfl]
  exact Sq.recall_mod (h.sq n) ((h.descOf_tag g n bytes).trans (Nat.mod_eq_of_lt (leAt_lt bytes 4 4)).symm)

/-- A fetch of a descriptor that is not fenced reads it and takes it up. -/
theorem exec_descriptorFetch_reads (hf : s.hub.fetchable n = true) (ho : s.hub.outranked n = false) (hlen : bytes.length = 64)
    (hfence : bitOf (byteAt bytes 1) 0 = false) :
    exec (.descriptorFetch n bytes []) s = .next { s with hub := (s.hub.hasRead n).takeUp s.glob n (s.hub.descOf s.glob n bytes) } := by
  rw [exec_descriptorFetch, Hub.fetch_some hf ho hlen, hfence, Bool.false_and, if_neg Bool.false_ne_true]
  rfl

/-- A descriptor that is turned away enters neither its ring nor the window, and is completed. -/
theorem fetch_turnsAway (hf : s.hub.fetchable n = true) (ho : s.hub.outranked n = false) (hlen : bytes.length = 64)
    (hfence : bitOf (byteAt bytes 1) 0 = false) {status orig : Nat} {result : List Byte}
    (htake : (s.hub.hasRead n).takeUp s.glob n (s.hub.descOf s.glob n bytes) =
      (s.hub.hasRead n).turnedAway s.glob n (s.hub.descOf s.glob n bytes) status orig result) :
    ∃ t, exec (.descriptorFetch n bytes []) s = .next t ∧ HubOnly s t ∧ (t.hub.sq n).inflight = (s.hub.sq n).inflight ∧
      (t.hub.sq n).window = (s.hub.sq n).window ∧ Reports (s.hub.headMoved n) t.hub ∧
      ∃ slot addr c, Out.completion (s.hub.boundCq n) slot addr c ∈ t.hub.out ∧ c.tag = leAt bytes 4 4 ∧ c.status = status ∧ c.sq = n ∧
        c.orig = orig ∧ c.result = padTo 16 result := by
  have hcq : (s.hub.hasRead n).bit (Reg.CQn_CTL (s.hub.boundCq n)) 0 = true := by
    rw [Hub.bit_of_rd s.hub _ _ _ (s.hub.rd_hasRead n _)]
    exact (Hub.fetchable_parts hf).1
  obtain ⟨slot, addr, c, hout, htag, hrest⟩ := Hub.turnedAway_out (g := s.glob) (n := n) (d := s.hub.descOf s.glob n bytes) hcq status orig result
  refine ⟨_, exec_descriptorFetch_reads hf ho hlen hfence, ⟨rfl, rfl, rfl⟩, ?_⟩
  rw [htake]
  have hsq : ((s.hub.hasRead n).turnedAway s.glob n (s.hub.descOf s.glob n bytes) status orig result).sq n =
      { s.hub.sq n with fenced := false, head := ((s.hub.sq n).head + 1) % s.hub.ringSize (Reg.SQn_CTL n) } := by
    rw [Hub.sq_turnedAway, Hub.hasRead_sq, if_pos rfl]
  exact ⟨(congrArg Sq.inflight hsq :), (congrArg Sq.window hsq :), (Hub.emit_reports _ _).trans (Hub.turnedAway_reports ..),
    slot, addr, c, hout, htag.trans (s.hub.descOf_tag s.glob n bytes), hrest⟩

/-- A descriptor that is taken up enters its ring and the window, and waits. -/
theorem fetch_takes (hf : s.hub.fetchable n = true) (ho : s.hub.outranked n = false) (hlen : bytes.length = 64)
    (hfence : bitOf (byteAt bytes 1) 0 = false) (hv : descValid bytes = true) (he : leAt bytes 8 2 = s.hub.f (Reg.SQn_EPOCH n) 15 0)
    (hr : (s.hub.sq n).recall (leAt bytes 4 4) = none) (hp : s.hub.fwu.phase ≠ .recovery) (hrole : s.hub.saddle.role = .unpaired) :
    exec (.descriptorFetch n bytes []) s = .next { s with hub := (s.hub.hasRead n).setSq n { s.hub.sq n with
      fenced := false
      head := ((s.hub.sq n).head + 1) % s.hub.ringSize (Reg.SQn_CTL n)
      inflight := (s.hub.sq n).inflight ++ [s.hub.descOf s.glob n bytes]
      window := windowAccept (s.hub.sq n).window (s.hub.descOf s.glob n bytes).tag } } := by
  obtain ⟨-, -, hfwu, hsaddle⟩ := s.hub.headMoved_frame n
  rw [exec_descriptorFetch_reads hf ho hlen hfence,
    Hub.takeUp_taken hv (he.trans (s.hub.hasRead_epoch n).symm) ((s.hub.hasRead_recall s.glob n bytes).trans hr)
      (by rwa [← hfwu] at hp) (by rwa [← hsaddle] at hrole),
    Hub.hasRead_sq, if_pos rfl]

/-! ## The lines of the duplicate windows -/

theorem Hub.blockFault_serves_not (h : Hub) (g : Glob) (b : Block) : (h.blockFault g b).serving b = false := by
  rw [Hub.serving, Bool.and_eq_false_iff]
  by_cases hiso : h.isolatedBlock b = true
  case pos =>
    rw [Hub.blockFault, if_pos (by rw [hiso, Bool.or_true]), Hub.reachable, hiso]
    exact .inl (Bool.and_false _)
  case neg =>
    rw [Hub.blockFault_reported g (Bool.eq_false_iff.2 hiso)]
    exact .inr rfl

/-- A double error in a line of its own is a fault of the block, which then serves no more. -/
theorem State.ownLines_broken {lines : List (Nat × LineErr)} {b m : Nat} {l : Nat × LineErr} (blk : Block) (hl : l ∈ lines) (hlo : 65536 * b ≤ l.1)
    (hhi : l.1 < 65536 * (b + m)) (hbroken : (s.ownLines blk b m lines).mem.sramBroken l.1 = true) : (s.ownLines blk b m lines).hub.serving blk = false := by
  have hmine : (lines.filter (fun l => decide (65536 * b ≤ l.1 ∧ l.1 < 65536 * (b + m)))).any
      (fun l => (s.ownLines blk b m lines).mem.sramBroken l.1) = true :=
    List.any_eq_true.2 ⟨l, List.mem_filter.2 ⟨hl, decide_eq_true ⟨hlo, hhi⟩⟩, hbroken⟩
  rw [State.ownLines] at hmine ⊢
  dsimp only at hmine ⊢
  rw [if_pos hmine]
  exact Hub.blockFault_serves_not ..

end

/-! ## A read of host memory that fails -/

section
variable {s : State} {q tag op : Nat} {d : Desc} {poisoned : List Byte}

theorem exec_dmaReadTimeout_reads (s : State) (errs : List (Nat × ReadError)) :
    exec (.dmaReadTimeout q tag poisoned errs) s = exec (.dmaReadTimeout q tag poisoned []) (s.reads errs) :=
  readsFirst_of_reads (fun t => .next (dmaTimeout q tag poisoned t)) (fun _ _ => rfl) s errs

theorem Hub.desc_tag {h : Hub} (hd : h.desc q tag = some d) : d.tag = tag := by
  simpa using List.find?_some hd

theorem Fetched.opcode_eq (hf : Fetched s q tag op d) : d.opcode = op := by
  obtain ⟨-, -, hop, -⟩ := hf
  exact hop

theorem Fetched.fetched (hf : Fetched s q tag op d) : s.hub.fetched q d.tag d.opcode = some d := by
  obtain ⟨-, hnext, -, -⟩ := hf
  rw [Hub.fetched, hnext]
  simp

/-- A fetched descriptor of these operations reads host memory. -/
theorem Fetched.readsHost (hf : Fetched s q tag op d) (hop : op = 0x10 ∨ op = 0x32 ∨ op = 0x50 ∨ op = 0x80) : s.hub.readsHost q d = true := by
  have hfetched := hf.fetched
  obtain ⟨-, -, rfl, hphase⟩ := hf
  rw [Hub.readsHost, hphase]
  dsimp only
  rw [hfetched]
  rcases hop with h | h | h | h <;> rw [h] <;> rfl

/-- The checks of a fetched descriptor that fail complete it. -/
theorem dmaReadTimeout_refused (hf : Fetched s q tag op d) (hop : op = 0x10 ∨ op = 0x32 ∨ op = 0x50 ∨ op = 0x80) {status : Nat}
    (hs : s.hub.refusedFirst s.glob d = some status) : BecomesAnswering (.dmaReadTimeout q tag poisoned []) s s.hub q tag status [] := by
  have hreads := hf.readsHost hop
  obtain ⟨hd, -, -, hphase⟩ := hf
  have hexec : dmaTimeout q tag poisoned s = { s with hub := s.hub.complete s.glob q tag status [] } := by
    rw [dmaTimeout, hd]
    dsimp only
    rw [hreads, if_neg (by decide), if_pos hphase, hs]
  exact ⟨_, congrArg Host.Outcome.next hexec, ⟨rfl, rfl, rfl⟩, Hub.complete_reports .., Hub.complete_answered _ _ _ _ _ _ d hd⟩

/-- Without a failing check its read fails. -/
theorem exec_dmaReadTimeout_fails (hf : Fetched s q tag op d) (hop : op = 0x10 ∨ op = 0x32 ∨ op = 0x50 ∨ op = 0x80)
    (hs : s.hub.refusedFirst s.glob d = none) : exec (.dmaReadTimeout q tag poisoned []) s =
      .next { s with mem := s.hub.storePoisoned s.mem d poisoned, hub := (s.hub.poisonLooks s.glob s.mem d poisoned).readFails s.glob q d } := by
  have hreads := hf.readsHost hop
  obtain ⟨hd, -, -, hphase⟩ := hf
  rw [show exec (.dmaReadTimeout q tag poisoned []) s = .next (dmaTimeout q tag poisoned s) from rfl, dmaTimeout, hd]
  dsimp only
  rw [hreads, if_neg (by decide), if_pos hphase, hs]

/-- But for a CAL_LOAD, it then ends as a cut leaves it. -/
theorem Hub.readFails_cut {h : Hub} (hd : h.desc q tag = some d) (hphase : d.phase = .fetched) (hload : d.opcode ≠ 0x30) (g : Glob) :
    h.readFails g q d = (h.fetchedCut g d).complete g q tag Status.uncorrectable [] := by
  rw [Hub.readFails, if_neg (by simp [hload]), Hub.cutDesc, hphase, Hub.desc_tag hd]

theorem Hub.fetchedCut_other {h : Hub} (hop : d.opcode ≠ 0x50) (g : Glob) : h.fetchedCut g d = h := by
  rw [Hub.fetchedCut, if_neg (by simp [hop])]

/-- One that is no FRAME_POST leaves the memories as they are. -/
theorem exec_dmaReadTimeout_cut (hf : Fetched s q tag op d) (hop : op = 0x32 ∨ op = 0x50 ∨ op = 0x80) (hs : s.hub.refusedFirst s.glob d = none) :
    exec (.dmaReadTimeout q tag poisoned []) s = .next { s with hub := (s.hub.fetchedCut s.glob d).complete s.glob q tag Status.uncorrectable [] } := by
  rw [exec_dmaReadTimeout_fails hf (.inr hop) hs]
  obtain ⟨hd, -, rfl, hphase⟩ := hf
  have hpost : d.opcode ≠ 0x10 := by omega
  rw [Hub.storePoisoned, if_pos hpost, Hub.poisonLooks, if_pos hpost, Hub.readFails_cut hd hphase (by omega)]

theorem dmaReadTimeout_plain (hf : Fetched s q tag op d) (hop : op = 0x32 ∨ op = 0x80) :
    BecomesAnswering (.dmaReadTimeout q tag poisoned []) s s.hub q tag Status.uncorrectable [] := by
  have hopcode := hf.opcode_eq
  have hs : s.hub.refusedFirst s.glob d = none := by
    rw [Hub.refusedFirst, hopcode]
    rcases hop with rfl | rfl <;> rfl
  refine ⟨_, exec_dmaReadTimeout_cut hf (by omega) hs, ⟨rfl, rfl, rfl⟩, ?_⟩
  rw [Hub.fetchedCut_other (by omega)]
  exact ⟨Hub.complete_reports .., Hub.complete_answered _ _ _ _ _ _ d hf.1⟩

/-! ### FW_STAGE -/

theorem Hub.fwStageStatus_idle {h : Hub} {g : Glob} (hs : h.fwStageStatus g d = none) : h.fwu.op = none := by
  rw [Hub.fwStageStatus] at hs
  split at hs
  case isTrue => cases hs
  split at hs
  case isTrue => cases hs
  split at hs
  case isTrue => cases hs
  case isFalse hbusy =>
    simp only [Bool.or_eq_true, not_or, Bool.not_eq_true, Option.isSome_eq_false_iff, Option.isNone_iff_eq_none] at hbusy
    obtain ⟨⟨hidle, -⟩, -⟩ := hbusy
    exact hidle

/-- What a FW_STAGE that ends part-way leaves of the staging. -/
def Hub.stagedTo (h : Hub) (off : Nat) : Hub :=
  { h with fwu := { h.fwu with bytes := off / 65536 * 65536, staging := h.fwu.staging.take (off / 65536 * 65536) } }

theorem Hub.fetchedCut_fwStage {h : Hub} {g : Glob} (hop : d.opcode = 0x50) (hs : h.fwStageStatus g d = none) (hp : h.fwu.boot.pending = false) :
    h.fetchedCut g d = h.stagedTo (d.op 28 4) := by
  have hidle := h.fwStageStatus_idle hs
  rw [Hub.fetchedCut, if_pos (by simp [hop, hs]), Hub.fwStageBegin]
  split
  case isTrue =>
    rw [Hub.fwStageCut, Hub.modFwu, Hub.stagedTo, ← hidle]
  case isFalse hoff =>
    have hoff : d.op 28 4 = 0 := not_not.1 hoff
    rw [Hub.modFwu]
    dsimp only
    rw [if_neg (by rw [hp]; exact Bool.false_ne_true), Hub.fwStageCut, Hub.modFwu, Hub.stagedTo, hoff, ← hidle]
    simp

/-- What answers a descriptor of a hub answers it of every hub with its rings and registers. -/
theorem Answered.of_same {h h1 h2 : Hub} {status : Nat} {result : List Byte} (ha : Answered q tag status result h1 h2) (hr : h1.rings = h.rings)
    (hregs : h1.regs = h.regs) : Answered q tag status result h h2 := by
  obtain ⟨d, hd, hleft, hout⟩ := ha
  have hsq : ∀ n, h1.sq n = h.sq n := fun n => by rw [Hub.sq, hr]; rfl
  have hbit : ∀ off, h1.bit off 0 = h.bit off 0 := fun off => Hub.bit_of_rd _ _ _ _ (Hub.rd_of_regs _ _ hregs off)
  refine ⟨d, ?_, ?_, fun hsilent hcq => ?_⟩
  · rw [← hd, Hub.desc, Hub.desc, hsq]
  · rw [hleft, hsq]
  · obtain ⟨slot, c, ho, hc⟩ := hout hsilent (by rwa [hbit])
    refine ⟨slot, c, ?_, hc⟩
    have hn : ∀ off, h1.n off = h.n off := fun off => congrArg BitVec.toNat (Hub.rd_of_regs _ _ hregs off)
    rw [Hub.ringAddr, hn, hn] at ho
    exact ho

theorem dmaReadTimeout_fwStage (hf : Fetched s q tag 0x50 d) (hs : s.hub.fwStageStatus s.glob d = none) (hp : s.hub.fwu.boot.pending = false) :
    BecomesAnswering (.dmaReadTimeout q tag poisoned []) s (s.hub.stagedTo (d.op 28 4)) q tag Status.uncorrectable [] := by
  obtain ⟨hd, -, hop, -⟩ := id hf
  refine ⟨_, exec_dmaReadTimeout_cut hf (by decide) (by rw [Hub.refusedFirst, hop]; exact hs), ⟨rfl, rfl, rfl⟩, ?_⟩
  rw [Hub.fetchedCut_fwStage hop hs hp]
  have ha := Hub.complete_answered (s.hub.stagedTo (d.op 28 4)) s.glob q tag Status.uncorrectable [] d hd
  exact ⟨Hub.complete_reports .., ha.of_same rfl rfl⟩

/-! ### FRAME_POST -/

theorem Hub.dramViolation_none {h : Hub} {m : Memory} {secure write : Bool} {a n : Nat} (hr : h.dramRefused m secure write a n = none) (g : Glob) (unit : Nat) :
    h.dramViolation g m secure write a n unit = h := by
  rw [Hub.dramRefused, List.findSome?_eq_none_iff] at hr
  rw [Hub.dramViolation, Hub.blockViolations]
  generalize Memory.blocksOf a n = blocks at hr ⊢
  induction blocks with
  | nil => rfl
  | cons b blocks ih =>
    rw [List.foldl_cons, hr b (List.mem_cons_self ..)]
    exact ih fun b hb => hr b (List.mem_cons_of_mem _ hb)

theorem Memory.writeDram_kept (m : Memory) (secure : Bool) (ty : Nat → Nat) (a : Nat) (bs : List Byte) (bad : Bool) {n : Nat} (hn : bs.length ≤ n) :
    DramKeptBut a n m (m.writeDram secure ty a bs bad) :=
  ⟨fun k hk => Memory.dramByte_writeDram_out m secure ty a bs bad k (by omega), rfl, rfl, rfl, rfl, rfl, rfl, rfl⟩

/-- A write that no block of its range refuses changes no byte outside it. -/
theorem Hub.writeDram_kept {h : Hub} {m : Memory} {secure : Bool} {a : Nat} {bs : List Byte} (hr : h.dramRefused m secure true a bs.length = none) (bad : Bool)
    {n : Nat} (hn : bs.length ≤ n) : DramKeptBut a n m (h.writeDram m secure a bs bad) := by
  rw [Hub.writeDram, hr]
  split
  case isTrue => exact ⟨fun _ _ => rfl, rfl, rfl, rfl, rfl, rfl, rfl, rfl⟩
  case isFalse => exact m.writeDram_kept secure _ a bs bad hn

theorem dmaReadTimeout_framePost (hf : Fetched s q tag 0x10 d) (hs : s.hub.framePostStatus d = none)
    (hr : s.hub.dramRefused s.mem d.secure true d.postDest (poisoned.take d.postLen).length = none) :
    ∃ t, exec (.dmaReadTimeout q tag poisoned []) s = .next t ∧ t.glob = s.glob ∧ t.pending = s.pending ∧ Reports s.hub t.hub ∧
      t.mem = s.hub.writeDram s.mem d.secure d.postDest (poisoned.take d.postLen) true ∧ DramKeptBut d.postDest d.postLen s.mem t.mem ∧
      Answered q tag Status.uncorrectable [] s.hub t.hub := by
  have hexec := exec_dmaReadTimeout_fails (poisoned := poisoned) hf (.inl rfl) (by rw [Hub.refusedFirst, hf.opcode_eq]; exact hs)
  obtain ⟨hd, -, hop, hphase⟩ := hf
  have hto : d.poisonTo poisoned = (d.postDest, poisoned.take d.postLen) := by rw [Desc.poisonTo, hphase]
  have hpost : ¬d.opcode ≠ 0x10 := not_not.2 hop
  have hmem : s.hub.storePoisoned s.mem d poisoned = s.hub.writeDram s.mem d.secure d.postDest (poisoned.take d.postLen) true := by
    rw [Hub.storePoisoned, if_neg hpost, hto]
  have hlooks : s.hub.poisonLooks s.glob s.mem d poisoned = s.hub := by
    rw [Hub.poisonLooks, if_neg hpost, hto]
    exact Hub.dramViolation_none hr s.glob _
  rw [hmem, hlooks, Hub.readFails_cut hd hphase (by omega), Hub.fetchedCut_other (by omega)] at hexec
  exact ⟨_, hexec, rfl, rfl, Hub.complete_reports .., rfl, Hub.writeDram_kept hr true (List.length_take_le ..),
    Hub.complete_answered _ _ _ _ _ _ d hd⟩

end

/-- Settles O13, by the branches of a fetch, by the fault that a broken line of the windows leaves, and by what each operation's cut leaves. -/
theorem fetchTakesUpTheNextDescriptor : Obligations.FetchTakesUpTheNextDescriptor := by
  refine ⟨fun s n bytes hlen => ⟨fun hc => ?_, fun hf ho hfence hbusy => ?_, fun hf ho hfence => ⟨fun hv he hr hp hrole => ?_, fun status hc => ?_⟩⟩,
    fun s n bytes lines => ⟨rfl, fun hbroken => ?_⟩,
    fun s q tag d poisoned => ⟨fun errs => exec_dmaReadTimeout_reads s errs, fun op hf hop => dmaReadTimeout_plain hf hop,
      fun hf => ⟨fun status hs => ?_, fun hs hp => ?_⟩,
      fun hf => ⟨fun status hs => ?_, fun hs hr => dmaReadTimeout_framePost hf hs hr⟩⟩⟩
  · rw [exec_descriptorFetch, Hub.fetch_none hc]
  · rw [exec_descriptorFetch, Hub.fetch_some hf ho hlen, hfence, if_pos (by simpa using hbusy)]
  · obtain ⟨hregs, hout, -, -⟩ := s.hub.headMoved_frame n
    refine ⟨_, fetch_takes hf ho hlen hfence hv he hr hp hrole, ⟨rfl, rfl, rfl⟩, fun off _ => s.hub.rd_hasRead n off, ?_,
      s.hub.descOf_tag s.glob n bytes, fun j hj => ?_, ?_⟩
    · rw [Hub.sq_setSq, if_pos rfl]
    · rw [Hub.sq_setSq, if_neg hj.symm, Hub.hasRead_sq, if_neg hj.symm]
    · exact congrArg (s.hub.nextRead n :: ·) hout
  · obtain ⟨rfl, hbad⟩ | ⟨rfl, hv, he, hr⟩ := hc
    · obtain ⟨t, ht, hhub, hinfl, hwin, hrep, slot, addr, c, hout, htag, hstatus, hsq, -⟩ :=
        fetch_turnsAway hf ho hlen hfence (Hub.takeUp_invalid (hbad.imp id fun hne => by rwa [Hub.hasRead_epoch]))
      exact ⟨t, ht, hhub, hinfl, hwin, hrep, slot, addr, c, hout, htag, hstatus, hsq, fun e hdup => by cases hdup⟩
    · obtain ⟨e, he'⟩ := Option.ne_none_iff_exists'.1 hr
      obtain ⟨t, ht, hhub, hinfl, hwin, hrep, slot, addr, c, hout, htag, hstatus, hsq, horig, hresult⟩ :=
        fetch_turnsAway hf ho hlen hfence (Hub.takeUp_duplicate hv (he.trans (s.hub.hasRead_epoch n).symm) ((s.hub.hasRead_recall s.glob n bytes).trans he'))
      refine ⟨t, ht, hhub, hinfl, hwin, hrep, slot, addr, c, hout, htag, hstatus, hsq, fun e2 _ he2 => ?_⟩
      cases he'.symm.trans he2
      exact ⟨horig, hresult⟩
  · obtain ⟨l, hl, hlo, hhi, hline⟩ := hbroken
    have hserves := State.ownLines_broken .hif hl hlo hhi hline
    have hfetch : (s.ownLines .hif 17 1 lines).hub.fetchable n = false :=
      Bool.eq_false_iff.2 fun hf => by
        have := (Hub.fetchable_parts hf).2
        rw [hserves] at this
        cases this
    rw [show exec (.descriptorFetch n bytes lines) s = exec (.descriptorFetch n bytes []) (s.ownLines .hif 17 1 lines) from rfl, exec_descriptorFetch,
      Hub.fetch_none (.inl hfetch)]
  · exact dmaReadTimeout_refused hf (by decide) (by rw [Hub.refusedFirst, hf.opcode_eq]; exact hs)
  · exact dmaReadTimeout_fwStage hf hs hp
  · exact dmaReadTimeout_refused hf (by decide) (by rw [Hub.refusedFirst, hf.opcode_eq]; exact hs)

end Sys2Proof.Machine
end

section
/-! LOG_CLEAR (R46, R417): the new nonce of a clear is read as the base of a completion ring whose number no ring has. -/

namespace Sys2Proof.Machine

/-- A secure LOG_CLEAR empties its log at once and completes. -/
theorem exec_logClear_secure {s : State} {q tag : Nat} {d : Desc} (hf : Fetched s q tag 0x41 d) (hserves : s.hub.serving .crn = true)
    (hlog : d.op 16 1 ≤ 1) (hsecure : d.secure = true) (hruns : s.hub.clearRuns = false) (token : List Byte) :
    exec (.logClear q tag token) s =
      .next { s with hub := (s.hub.clearLog s.glob (d.op 16 1) 0x74 false).complete s.glob q tag Status.ok [] } := by
  have hfetched : s.hub.fetched q tag 0x41 = some d := by
    rw [← hf.opcode_eq, ← Hub.desc_tag hf.1]
    exact hf.fetched
  rw [show exec (.logClear q tag token) s = .next { s with hub := s.hub.logClear s.glob q tag token } from rfl, Hub.logClear, Hub.servedBy, hfetched]
  dsimp only
  rw [if_pos hserves, if_neg (Nat.not_lt.2 hlog), if_pos hsecure, if_neg (by rw [hruns]; exact Bool.false_ne_true)]

/-- A clear draws a nonce, changes the logs, and raises source 92. -/
theorem Hub.clearLog_raises (h : Hub) (g : Glob) (log unit : Nat) (token : Bool) :
    ∃ c detail, h.clearLog g log unit token = ({ h.newNonce.drew 1 with cairn := c } : Hub).raise g 92 detail := ⟨_, _, rfl⟩

theorem Hub.clearLog_nonce (h : Hub) (g : Glob) (log unit : Nat) (token : Bool) :
    (h.clearLog g log unit token).n Reg.CRN_NONCE_HI = h.freeAt 1 % 2 ^ 32 := by
  obtain ⟨c, detail, hraise⟩ := h.clearLog_raises g log unit token
  rw [hraise, Hub.n_raise _ _ _ _ (by decide)]
  exact (Hub.n_wrN_same _ _ _).trans (Nat.mod_mod _ _)

theorem Hub.clearLog_n (h : Hub) (g : Glob) (log unit : Nat) (token : Bool) {off : Nat} (hoff : 0x30210 ≤ off) (hlo : Reg.CRN_NONCE_LO ≠ off)
    (hhi : Reg.CRN_NONCE_HI ≠ off) : (h.clearLog g log unit token).n off = h.n off := by
  obtain ⟨c, detail, hraise⟩ := h.clearLog_raises g log unit token
  rw [hraise, Hub.n_raise _ _ _ _ hoff]
  exact (Hub.n_wrN_ne _ _ hhi).trans (Hub.n_wrN_ne h _ hlo)

theorem Hub.clearLog_bit (h : Hub) (g : Glob) (log unit : Nat) (token : Bool) {off : Nat} (hoff : 0x30210 ≤ off) (hlo : Reg.CRN_NONCE_LO ≠ off)
    (hhi : Reg.CRN_NONCE_HI ≠ off) (k : Nat) : (h.clearLog g log unit token).bit off k = h.bit off k :=
  congrArg (bitOf · k) (h.clearLog_n g log unit token hoff hlo hhi)

theorem Hub.sq_clearLog (h : Hub) (g : Glob) (log unit : Nat) (token : Bool) (n : Nat) : (h.clearLog g log unit token).sq n = h.sq n :=
  Hub.sq_raise ..

/-! ## What leaves the hub -/

/-- A source that is not mapped to the event ring writes nothing. -/
theorem Hub.raise_out_unmapped {h : Hub} {src : Nat} (hmap : h.bit (Reg.INT_SRC_MAPn src) 9 = false) (g : Glob) (detail : Nat) :
    (h.raise g src detail).out = h.out := by
  rw [Hub.raise, if_neg (by rw [hmap, Bool.and_false]; exact Bool.false_ne_true), Hub.raiseCore, hmap]
  dsimp only
  split
  case isTrue => rfl
  case isFalse =>
    rw [if_neg Bool.false_ne_true]
    split <;> rfl

theorem Hub.clearLog_out {h : Hub} (hmap : h.bit (Reg.INT_SRC_MAPn 92) 9 = false) (g : Glob) (log unit : Nat) (token : Bool) :
    (h.clearLog g log unit token).out = h.out := by
  have hn : h.newNonce.n (Reg.INT_SRC_MAPn 92) = h.n (Reg.INT_SRC_MAPn 92) := (Hub.n_wrN_ne _ _ (by decide)).trans (Hub.n_wrN_ne h _ (by decide))
  have hbit : h.newNonce.bit (Reg.INT_SRC_MAPn 92) 9 = false := by rwa [Hub.bit, hn]
  obtain ⟨c, detail, hraise⟩ := h.clearLog_raises g log unit token
  rw [hraise, Hub.raise_out_unmapped (h := { h.newNonce.drew 1 with cairn := c }) hbit]
  rfl

/-- A completion without an interrupt writes one entry, in the next slot of its ring. -/
theorem Hub.postCompletion_out_quiet {h : Hub} {cq flags : Nat} (hcq : h.bit (Reg.CQn_CTL cq) 0 = true) (hirq : h.bit (Reg.CQn_CTL cq) 1 = false)
    (hflags : bitOf flags 1 = false) (g : Glob) (c : Completion) : (h.postCompletion g cq flags c).out =
      .completion cq (h.cq cq).tail (h.ringAddr (Reg.CQn_BASE_LO cq) (Reg.CQn_BASE_HI cq) + 32 * (h.cq cq).tail) { c with phase := (h.cq cq).phase } :: h.out := by
  rw [Hub.postCompletion, if_pos hcq, hirq, hflags]
  rfl

theorem Hub.complete_out {h : Hub} {q tag : Nat} {d : Desc} (hd : h.desc q tag = some d) (hloud : d.silent = false)
    (hcq : h.bit (Reg.CQn_CTL d.cq) 0 = true) (hirq : h.bit (Reg.CQn_CTL d.cq) 1 = false) (hflags : bitOf d.flags 1 = false) (g : Glob) (status : Nat)
    (result : List Byte) : ∃ slot c, (h.complete g q tag status result).out =
      .completion d.cq slot (h.ringAddr (Reg.CQn_BASE_LO d.cq) (Reg.CQn_BASE_HI d.cq) + 32 * slot) c :: h.out := by
  rw [Hub.complete, hd]
  dsimp only
  rw [hloud, if_neg Bool.false_ne_true]
  exact ⟨_, _, Hub.postCompletion_out_quiet (h := h.setSq q _) hcq hirq hflags g _⟩

/-! ## A LOG_CLEAR bound to a ring beyond the 64 -/

/-- A number of a completion ring whose base register would be the upper half of the nonce of the logs. -/
def nonceRing : Nat := 0xA701

/-- A secure LOG_CLEAR of the snapshot log, bound to that ring. -/
def nonceClear : Desc :=
  { tag := 9, opcode := 0x41, flags := 0, bytes := zeros 64, cq := nonceRing, secure := true, phase := .fetched, status := 0, result := []
    words := [], data := [], silent := false }

/-- A hub about to carry it out, with `w` as the upper half of the nonce. -/
def clearingNonce (w : Nat) : State :=
  { hub :=
      { regs := [(Reg.CRN_NONCE_HI, BitVec.ofNat 32 w), (Reg.CQn_CTL nonceRing, 1)]
        rings := { sqs := [(0, { inflight := [nonceClear] })] } } }

/-- The hub once the log is empty. -/
def clearedNonce (w : Nat) : Hub := (clearingNonce w).hub.clearLog (clearingNonce w).glob 0 0x74 false

section
variable {w : Nat}

theorem clearingNonce_fetched (w : Nat) : Fetched (clearingNonce w) 0 9 0x41 nonceClear := ⟨rfl, rfl, rfl, rfl⟩

theorem clearingNonce_meets : ∀ w ∈ [0, 4096], (clearingNonce w).hub.serving .crn = true ∧ (clearingNonce w).hub.clearRuns = false ∧
    (clearingNonce w).hub.bit (Reg.CQn_CTL nonceRing) 0 = true ∧ (clearingNonce w).hub.bit (Reg.CQn_CTL nonceRing) 1 = false ∧
    (clearingNonce w).hub.bit (Reg.INT_SRC_MAPn 92) 9 = false ∧ (clearingNonce w).hub.n Reg.CRN_NONCE_HI = w := by decide +kernel

theorem clearedNonce_desc (w : Nat) : (clearedNonce w).desc 0 9 = some nonceClear := by
  rw [Hub.desc, clearedNonce, Hub.sq_clearLog]
  rfl

theorem clearedNonce_bit (w k : Nat) : (clearedNonce w).bit (Reg.CQn_CTL nonceRing) k = (clearingNonce w).hub.bit (Reg.CQn_CTL nonceRing) k :=
  Hub.clearLog_bit _ _ _ _ _ (by decide) (by decide) (by decide) k

/-- The completion goes where the new nonce says, so that it answers the descriptor only where the nonce stayed. -/
theorem clearedNonce_answered (hw : w ∈ [0, 4096])
    (ha : Answered 0 9 Status.ok [] (clearingNonce w).hub ((clearedNonce w).complete (clearingNonce w).glob 0 9 Status.ok [])) :
    Config.freeNat 1 % 2 ^ 32 / 4096 = w / 4096 := by
  obtain ⟨-, -, hcq, hirq, hmap, hnonce⟩ := clearingNonce_meets w hw
  obtain ⟨slot, c, hout⟩ := Hub.complete_out (clearedNonce_desc w) rfl ((clearedNonce_bit w 0).trans hcq)
    ((clearedNonce_bit w 1).trans hirq) (by decide) (clearingNonce w).glob Status.ok []
  rw [show (clearedNonce w).out = [] from Hub.clearLog_out hmap _ _ _ _] at hout
  obtain ⟨d, hd, -, hwritten⟩ := ha
  cases hd.symm.trans (clearingNonce_fetched w).1
  obtain ⟨slot', c', hc', -⟩ := hwritten rfl hcq
  rw [hout, List.mem_singleton] at hc'
  obtain ⟨-, rfl, haddr, -⟩ := Out.completion.inj hc'
  have hbase : (clearingNonce w).hub.ringAddr (Reg.CQn_BASE_LO nonceRing) (Reg.CQn_BASE_HI nonceRing) =
      (clearedNonce w).ringAddr (Reg.CQn_BASE_LO nonceRing) (Reg.CQn_BASE_HI nonceRing) := Nat.add_right_cancel haddr
  have hhigh : (clearedNonce w).n (Reg.CQn_BASE_HI nonceRing) = (clearingNonce w).hub.n (Reg.CQn_BASE_HI nonceRing) :=
    Hub.clearLog_n _ _ _ _ _ (by decide) (by decide) (by decide)
  have hlow : (clearedNonce w).n (Reg.CQn_BASE_LO nonceRing) = Config.freeNat 1 % 2 ^ 32 := Hub.clearLog_nonce ..
  rw [Hub.ringAddr, Hub.ringAddr, hhigh, hlow, show (clearingNonce w).hub.n (Reg.CQn_BASE_LO nonceRing) = w from hnonce] at hbase
  omega

end

/-- Refutes O56: its descriptors may be bound to a completion ring of any number, and the base of ring 0xA701 would be CRN_NONCE_HI. A LOG_CLEAR bound to it
completes at the address that the new nonce gives, and not at that of its ring before the clear; whatever the nonce is, one of two states shows it. -/
theorem not_cairnWritesReadsAndClearsItsLogs : ¬ Obligations.CairnWritesReadsAndClearsItsLogs := by
  intro hall
  obtain ⟨-, -, hserves⟩ := hall
  have hanswered : ∀ w ∈ [0, 4096], Config.freeNat 1 % 2 ^ 32 / 4096 = w / 4096 := fun w hw => by
    obtain ⟨hcrn, hruns, -⟩ := clearingNonce_meets w hw
    obtain ⟨-, hclear, -⟩ := hserves (clearingNonce w) hcrn
    obtain ⟨-, -, -, -, -, hok⟩ := hclear 0 9 [] nonceClear 0 (clearingNonce_fetched w) (by decide)
    obtain ⟨t, ht, -, -, ha, -⟩ := hok (by decide) hruns (.inl rfl)
    rw [exec_logClear_secure (clearingNonce_fetched w) hcrn (by decide) rfl hruns] at ht
    cases ht
    exact clearedNonce_answered hw ha
  have h0 := hanswered 0 (by decide)
  have h4096 := hanswered 4096 (by decide)
  omega

end Sys2Proof.Machine
end

section
/-! Staging (R66, R70): what a CFG_STAGE, a CFG_DISCARD and the end of a transfer of entries do, by the first check that finds something. -/

namespace Sys2Proof.Machine

-- As in the tests, one proof at a time: proofs that wait for one another each take a thread of the compile, whose memory is limited.
set_option Elab.async false

/-! ## Descriptors that a block carries out -/

section
variable {s : State} {q tag op : Nat} {d : Desc}

/-- A block that serves carries out the descriptor that its ring starts next. -/
theorem Fetched.servedBy (hf : Fetched s q tag op d) {b : Block} (hb : s.hub.serving b = true) (g : Glob) (k : Desc → Hub) :
    s.hub.servedBy g b q tag op k = k d := by
  have hfetched := hf.fetched
  rw [Hub.desc_tag hf.1, hf.opcode_eq] at hfetched
  rw [Hub.servedBy, hfetched]
  exact if_pos hb

theorem Hub.desc_of_rings {h h' : Hub} (hr : h'.rings = h.rings) (q tag : Nat) : h'.desc q tag = h.desc q tag := by
  rw [Hub.desc, Hub.desc, Hub.sq, Hub.sq, hr]

/-- A command that completes a descriptor of the hub, after what leaves its rings and registers, answers it. -/
theorem becomesAnswering_complete {c : Instr} {h : Hub} {status : Nat} {result : List Byte} (hd : s.hub.desc q tag = some d)
    (hrings : h.rings = s.hub.rings) (hregs : h.regs = s.hub.regs)
    (he : exec c s = .next { s with hub := h.complete s.glob q tag status result }) : BecomesAnswering c s h q tag status result := by
  have ha := Hub.complete_answered h s.glob q tag status result d ((Hub.desc_of_rings hrings q tag).trans hd)
  exact ⟨_, he, ⟨rfl, rfl, rfl⟩, Hub.complete_reports .., ha.of_same hrings hregs⟩

/-- A descriptor of a ring, after what changes those with its tag. -/
theorem Hub.desc_modDesc {h : Hub} (hd : h.desc q tag = some d) {f : Desc → Desc} (hf : ∀ x, (f x).tag = x.tag) :
    (h.modDesc q tag f).desc q tag = some (f d) := by
  have hpred : ((fun x : Desc => x.tag == tag) ∘ fun x => if x.tag == tag then f x else x) = fun x => x.tag == tag := by
    funext x
    dsimp only [Function.comp]
    split <;> simp [hf]
  rw [Hub.desc, Hub.modDesc, Hub.sq_setSq, if_pos rfl, List.find?_map, hpred, show List.find? _ _ = some d from hd, Option.map_some,
    if_pos (by simp [Hub.desc_tag hd])]

theorem Hub.desc_move {h : Hub} (hd : h.desc q tag = some d) (status : Nat) (result : List Byte) (words : List Nat) (data : List Byte) :
    (h.move q tag status result words data).desc q tag =
      some { d with phase := .moving, status := status, result := result, words := words, data := data } :=
  Hub.desc_modDesc hd fun _ => rfl

end

theorem map_getD_range {α : Type} {l : List α} {n : Nat} (hn : l.length = n) (x : α) : (List.range n).map (fun i => l.getD i x) = l := by
  subst hn
  refine List.ext_getElem (by simp) fun i h1 h2 => ?_
  simp [List.getD_eq_getElem?_getD, h2]

/-! ## CFG_STAGE -/

theorem Hub.setInFlight_of_idle {h : Hub} (hi : h.commit.phase = .idle) : h.setInFlight = false := by rw [Hub.setInFlight, hi]; rfl

theorem Hub.setInFlight_of_busy {h : Hub} (hi : h.commit.phase ≠ .idle) : h.setInFlight = true := by simpa [Hub.setInFlight] using hi

theorem exec_cfgStage (q tag : Nat) (writes : List (Nat × Nat)) (table : List Byte) (s : State) :
    exec (.cfgStage q tag writes table []) s = .next { s with hub := s.hub.cfgStage s.glob q tag writes table } := rfl

section
variable {s : State} {q tag : Nat} {d : Desc} {writes : List (Nat × Nat)} {table : List Byte}
  (hf : Fetched s q tag 0x01 d) (hserves : s.hub.serving .cmt = true)
include hf hserves

theorem cfgStage_busy (hi : s.hub.commit.phase ≠ .idle) : BecomesAnswering (.cfgStage q tag writes table []) s s.hub q tag Status.busy [] := by
  refine becomesAnswering_complete hf.1 rfl rfl ?_
  rw [exec_cfgStage, Hub.cfgStage, hf.servedBy hserves]
  dsimp only
  rw [if_pos (Hub.setInFlight_of_busy hi)]

variable (hi : s.hub.commit.phase = .idle) (hlen : writes.length = d.op 16 4)
include hi hlen

theorem cfgStage_invalid
    (hbad : (∃ w ∈ writes, stageable w.1 = false) ∨ (d.op 40 4 ≠ 0 ∧ s.hub.commit.tableBad (d.op 44 4) (d.op 40 4) = true)) :
    BecomesAnswering (.cfgStage q tag writes table []) s s.hub q tag Status.invalid [] := by
  refine becomesAnswering_complete hf.1 rfl rfl ?_
  rw [exec_cfgStage, Hub.cfgStage, hf.servedBy hserves]
  dsimp only
  rw [map_getD_range hlen, Hub.setInFlight_of_idle hi, if_neg Bool.false_ne_true, if_pos]
  simpa [List.all_eq_false] using hbad

variable (hgood : ∀ w ∈ writes, stageable w.1 = true) (htable : d.op 40 4 ≠ 0 → s.hub.commit.tableBad (d.op 44 4) (d.op 40 4) = false)
include hgood htable

/-- Past its checks of registers and tables a CFG_STAGE is refused or moves its entries into the bank. -/
theorem Hub.cfgStage_checked : s.hub.cfgStage s.glob q tag writes table =
    if 65536 < s.hub.commit.writes.length + writes.length || 2 ^ 26 < s.hub.commit.tableBytes (fun _ => true) + d.op 40 4 then
      s.hub.complete s.glob q tag Status.refused []
    else
      ({ s.hub with commit := { s.hub.commit with
          writes := s.hub.commit.writes ++ writes.map (fun w => { off := w.1, value := w.2 % 2 ^ 32, owner := some (q, tag) })
          tables := s.hub.commit.tables ++ (if d.op 40 4 = 0 then [] else
            [{ id := d.op 44 4, bytes := padTo (d.op 40 4) table, owner := some (q, tag) }]) } } : Hub).move q tag Status.ok [] [] [] := by
  rw [Hub.cfgStage, hf.servedBy hserves]
  dsimp only
  rw [map_getD_range hlen, Hub.setInFlight_of_idle hi, if_neg Bool.false_ne_true, if_neg]
  simpa [List.all_eq_true.2 hgood] using htable

theorem cfgStage_refused (hfull : 65536 < s.hub.commit.writes.length + writes.length) :
    BecomesAnswering (.cfgStage q tag writes table []) s s.hub q tag Status.refused [] := by
  refine becomesAnswering_complete hf.1 rfl rfl ?_
  rw [exec_cfgStage, Hub.cfgStage_checked hf hserves hi hlen hgood htable, if_pos (by simp [hfull])]

theorem cfgStage_stages (hroom : s.hub.commit.writes.length + writes.length ≤ 65536)
    (hbytes : s.hub.commit.tableBytes (fun _ => true) + d.op 40 4 ≤ 2 ^ 26) :
    ∃ t, exec (.cfgStage q tag writes table []) s = .next t ∧ HubOnly s t ∧ RegsKeptBut [] s.hub t.hub ∧
      (∃ d', t.hub.desc q tag = some d' ∧ d'.phase = .moving) ∧
      t.hub.commit = { s.hub.commit with
        writes := s.hub.commit.writes ++ writes.map (fun w => { off := w.1, value := w.2 % 2 ^ 32, owner := some (q, tag) })
        tables := s.hub.commit.tables ++ (if d.op 40 4 = 0 then [] else
          [{ id := d.op 44 4, bytes := padTo (d.op 40 4) table, owner := some (q, tag) }]) } := by
  refine ⟨_, exec_cfgStage .., ⟨rfl, rfl, rfl⟩, ?_⟩
  rw [Hub.cfgStage_checked hf hserves hi hlen hgood htable, if_neg (by simp only [Bool.or_eq_true, decide_eq_true_eq]; omega)]
  exact ⟨fun _ _ => rfl, ⟨_, Hub.desc_move (by exact hf.1) .., rfl⟩, rfl⟩

end

/-! ## CFG_DISCARD and the end of a transfer -/

section
variable {s : State} {q tag : Nat} {d : Desc}

theorem cfgDiscard_idle (hf : Fetched s q tag 0x03 d) (hserves : s.hub.serving .cmt = true) (hi : s.hub.commit.phase = .idle) :
    BecomesAnswering (.cfgDiscard q tag) s { s.hub with commit := s.hub.commit.emptied } q tag Status.ok [] := by
  refine becomesAnswering_complete hf.1 rfl rfl ?_
  rw [show exec (.cfgDiscard q tag) s = .next { s with hub := s.hub.cfgDiscard s.glob q tag } from rfl, Hub.cfgDiscard, hf.servedBy hserves,
    Hub.setInFlight_of_idle hi, if_neg Bool.false_ne_true]

theorem cfgDiscard_busy (hf : Fetched s q tag 0x03 d) (hserves : s.hub.serving .cmt = true) (hi : s.hub.commit.phase ≠ .idle) :
    BecomesAnswering (.cfgDiscard q tag) s s.hub q tag Status.busy [] := by
  refine becomesAnswering_complete hf.1 rfl rfl ?_
  rw [show exec (.cfgDiscard q tag) s = .next { s with hub := s.hub.cfgDiscard s.glob q tag } from rfl, Hub.cfgDiscard, hf.servedBy hserves,
    if_pos (Hub.setInFlight_of_busy hi)]

theorem exec_dmaTransferDone (q tag : Nat) (s : State) : exec (.dmaTransferDone q tag []) s = .next (dmaDone q tag s) := rfl

variable (hd : s.hub.desc q tag = some d) (hop : d.opcode = 0x01) (hp : d.phase = .moving)
include hd hop hp

theorem cfgStage_done_busy (hi : s.hub.commit.phase ≠ .idle) :
    BecomesAnswering (.dmaTransferDone q tag []) s (s.hub.unstage q tag) q tag Status.busy [] := by
  refine becomesAnswering_complete hd rfl rfl ?_
  rw [exec_dmaTransferDone, dmaDone, hd]
  dsimp only
  rw [if_neg (not_not.2 hp), hop]
  rw [if_pos (Hub.setInFlight_of_busy hi)]
  rfl

/-- The entries become staged, and the table bytes go where no block refuses them. -/
theorem cfgStage_done (hi : s.hub.commit.phase = .idle)
    (hr : s.hub.dramRefused s.mem d.secure true (s.hub.stagePlace q tag).1 (s.hub.stagePlace q tag).2.length = none) :
    exec (.dmaTransferDone q tag []) s = .next { s with
      mem := s.hub.stageToDram s.mem q tag d
      hub := (s.hub.cfgStaged q tag d).complete s.glob q tag Status.ok (s.hub.cfgStaged q tag d).stagedResult } := by
  have hlooks : s.hub.stageLooks s.glob s.mem q tag d = s.hub := by
    rw [Hub.stageLooks, Hub.dramViolation_none hr, ite_self]
  rw [exec_dmaTransferDone, dmaDone, hd]
  dsimp only
  rw [if_neg (not_not.2 hp), hop]
  rw [Hub.setInFlight_of_idle hi, if_neg Bool.false_ne_true, hlooks]
  rfl

end

/-- Where a CFG_STAGE has no table bytes, nothing goes to DRAM. -/
theorem Hub.stageToDram_without {h : Hub} {q tag : Nat} (hno : ∀ x ∈ h.commit.tables, x.owner ≠ some (q, tag)) (m : Memory) (d : Desc) :
    h.stageToDram m q tag d = m := by
  have hnone : h.commit.tables.find? (fun t => t.owner == some (q, tag)) = none := by simpa using hno
  rw [Hub.stageToDram, Hub.stagePlace, hnone]
  rfl

/-- Settles O18, by the checks of a CFG_STAGE in their order. -/
theorem stagingTakesAllOrNothing : Obligations.StagingTakesAllOrNothing := by
  refine fun s q tag d hserves => ⟨fun writes table lines => rfl,
    fun writes table hf hi hlen hgood htable hroom hbytes => cfgStage_stages hf hserves hi hlen hgood htable hroom hbytes,
    fun writes table hf hi hlen hbad => cfgStage_invalid hf hserves hi hlen hbad,
    fun writes table hf hi hlen hgood hnone hfull => cfgStage_refused hf hserves hi hlen hgood (fun h => absurd hnone h) hfull,
    fun writes table hf hi => cfgStage_busy hf hserves hi,
    fun hf hi => cfgDiscard_idle hf hserves hi, fun hf hi => cfgDiscard_busy hf hserves hi,
    fun hd hop hp => ⟨fun hi hr => ?_, fun hi => cfgStage_done_busy hd hop hp hi⟩⟩
  have ha := Hub.complete_answered (s.hub.cfgStaged q tag d) s.glob q tag Status.ok (s.hub.cfgStaged q tag d).stagedResult d hd
  exact ⟨_, cfgStage_done hd hop hp hi hr, rfl, rfl, Hub.complete_reports .., ha.of_same rfl rfl, rfl,
    fun hno => Hub.stageToDram_without hno s.mem d⟩

end Sys2Proof.Machine
end

section
/-! The check of a commit (R71, R72, R75, R149): what a CFG_COMMIT begins, how its check ends, and the step that decides. -/

namespace Sys2Proof.Machine

-- As in the tests, one proof at a time: proofs that wait for one another each take a thread of the compile, whose memory is limited.
set_option Elab.async false

/-! ## The errors of the bank's reads -/

/-- Reads of the bank leave the commit engine and the isolated blocks as they are. -/
theorem State.ownLines_kept (s : State) (blk : Block) (b n : Nat) (lines : List (Nat × LineErr)) :
    (s.ownLines blk b n lines).hub.commit = s.hub.commit ∧ (s.ownLines blk b n lines).hub.power.isolated = s.hub.power.isolated := by
  have hk := readsKeep_readLines s.glob (lines.filter fun l => decide (65536 * b ≤ l.1 ∧ l.1 < 65536 * (b + n))) (s.hub, s.mem)
  rw [← hk.commit, ← hk.power, State.ownLines]
  dsimp only
  split
  · refine ⟨by simp, ?_⟩
    unfold Hub.blockFault Hub.blockReport
    repeat' split
    all_goals simp
  · exact ⟨rfl, rfl⟩

theorem exec_commitCheckDone (errs : List (Nat × ReadError)) (lines : List (Nat × LineErr)) (s : State) :
    exec (.commitCheckDone errs lines) s = nextHub (s.bankRead errs lines) ((s.bankRead errs lines).hub.checkDone s.glob) := rfl

section
variable {s : State} {errs : List (Nat × ReadError)} {lines : List (Nat × LineErr)}

theorem State.bankRead_sound (hs : ((s.ownLines .cmt 18 1 lines).reads errs).hub.stagedSpoilt ((s.ownLines .cmt 18 1 lines).reads errs).mem = false) :
    s.bankRead errs lines = (s.ownLines .cmt 18 1 lines).reads errs := by
  rw [State.bankRead, hs, if_neg Bool.false_ne_true]

theorem State.bankRead_nil (hs : s.hub.stagedSpoilt s.mem = false) : s.bankRead [] [] = s := State.bankRead_sound hs

/-- What the engine cannot read is its fault, after which it checks no further. -/
theorem commitCheckDone_spoilt (hs : ((s.ownLines .cmt 18 1 lines).reads errs).hub.stagedSpoilt ((s.ownLines .cmt 18 1 lines).reads errs).mem = true)
    (hi : s.hub.isolatedBlock .cmt = false) : ∃ t, exec (.commitCheckDone errs lines) s = .next t ∧ t.hub.power.reported.contains .cmt = true ∧
      t.hub.commit = s.hub.commit := by
  obtain ⟨hcommit, hisolated⟩ := s.ownLines_kept .cmt 18 1 lines
  have hk := (s.ownLines .cmt 18 1 lines).readsKeep_reads errs
  have hnot : ((s.ownLines .cmt 18 1 lines).reads errs).hub.isolatedBlock .cmt = false := by
    rw [Hub.isolatedBlock, hk.power, hisolated]
    exact hi
  have hhub : ((s.bankRead errs lines).hub.checkDone s.glob) = ((s.ownLines .cmt 18 1 lines).reads errs).hub.blockFault s.glob .cmt := by
    rw [State.bankRead, hs, if_pos rfl, Hub.checkDone, Hub.blockFault_serves_not]
    rfl
  refine ⟨_, exec_commitCheckDone .., ?_, ?_⟩
  · rw [hhub]
    exact Hub.blockFault_reported _ hnot
  · rw [hhub, (Hub.blockFault_frame ..).2.1, hk.commit, hcommit]

end

/-! ## A check that fails -/

theorem Answered.trans_raise {q tag status : Nat} {result : List Byte} {h h' : Hub} (ha : Answered q tag status result h h') (g : Glob) (src d : Nat) :
    Answered q tag status result h (h'.raise g src d) := by
  obtain ⟨x, hx, hleft, hout⟩ := ha
  obtain ⟨l, hl⟩ := Hub.out_raise h' g src d
  refine ⟨x, hx, by rw [Hub.sq_raise, hleft], fun hs hc => ?_⟩
  obtain ⟨slot, c, hmem, hc⟩ := hout hs hc
  exact ⟨slot, c, hl ▸ List.mem_append_right l hmem, hc⟩

/-- What a failed check leaves: its completion, source 47, its place in the registers of the check, and the bank as it was. -/
structure CheckFailed (q tag : Nat) (x : CheckFail) (h h' : Hub) : Prop where
  regs     : RegsKeptBut pendRegs h h'
  answered : Answered q tag x.status x.result h h'
  raised   : h'.pending 47 = true
  idle     : h'.commit.phase = .idle
  writes   : h'.commit.writes = h.commit.writes
  tables   : h'.commit.tables = h.commit.tables
  status   : h'.commit.chkStatus = x.status
  rule     : h'.commit.chkRule = x.rule

theorem Hub.checkFails_failed {h k : Hub} {q tag : Nat} {d : Desc} (hd : h.desc q tag = some d) (hregs : k.regs = h.regs) (hrings : k.rings = h.rings)
    (hcommit : k.commit = h.commit) (g : Glob) (x : CheckFail) : CheckFailed q tag x h (k.checkFails g q tag x) := by
  let k1 : Hub := { k with commit := { k.commit with
    phase := .idle, owner := none, atStart := [], chkFail := (k.firstStaged x.parties).1, chkTbl := (k.firstStaged x.parties).2
    chkRule := x.rule, chkStatus := x.status } }
  have he : k.checkFails g q tag x = (k1.complete g q tag x.status x.result).raise g 47 (x.status + x.rule * 256) := rfl
  have hc : (k.checkFails g q tag x).commit = k1.commit := by
    rw [he, (Hub.raise_frame ..).2.2.1, (Hub.complete_frame ..).2.2.1]
  have hreports : Reports k1 (k.checkFails g q tag x) := (Hub.complete_reports ..).trans (Hub.raise_reports ..)
  have hanswered := Hub.complete_answered k1 g q tag x.status x.result d ((Hub.desc_of_rings hrings q tag).trans hd)
  refine ⟨fun off ho => (hreports.regs off ho).trans (Hub.rd_of_regs h k1 hregs off), ?_, Hub.pending_raise _ _ _ _ (by decide), ?_, ?_, ?_, ?_, ?_⟩
  · exact (hanswered.of_same hrings hregs).trans_raise ..
  · rw [hc]
  · rw [hc]; exact (congrArg Commit.writes hcommit :)
  · rw [hc]; exact (congrArg Commit.tables hcommit :)
  · rw [hc]
  · rw [hc]

/-! ## CFG_COMMIT -/

theorem Hub.groupUpshift_kept (h : Hub) (pg : Nat) :
    (h.groupUpshift pg).regs = h.regs ∧ (h.groupUpshift pg).rings = h.rings ∧ (h.groupUpshift pg).commit = h.commit := by
  have hk := foldl_kept (fun k : Hub => (k.regs, k.rings, k.commit)) (f := fun k n => k.askUp n) (fun _ _ => rfl) (h.portsOf pg) h
  rwa [Prod.mk.injEq, Prod.mk.injEq] at hk

/-- A trigger of a group touches the groups and the ports alone. -/
theorem Hub.groupTrigger_kept (h : Hub) (pg : Nat) :
    (h.groupTrigger pg).regs = h.regs ∧ (h.groupTrigger pg).rings = h.rings ∧ (h.groupTrigger pg).commit = h.commit := by
  unfold Hub.groupTrigger
  dsimp only
  split
  · exact Hub.groupUpshift_kept ..
  · exact ⟨rfl, rfl, rfl⟩

theorem Hub.groupTriggers_kept (h : Hub) (l : List Nat) :
    (l.foldl Hub.groupTrigger h).regs = h.regs ∧ (l.foldl Hub.groupTrigger h).rings = h.rings ∧ (l.foldl Hub.groupTrigger h).commit = h.commit := by
  have hk := foldl_kept (fun k : Hub => (k.regs, k.rings, k.commit)) (f := Hub.groupTrigger) (fun k pg => by
    obtain ⟨hregs, hrings, hcommit⟩ := k.groupTrigger_kept pg
    rw [hregs, hrings, hcommit]) l h
  simpa using hk

section
variable {h o : Hub} {d : Desc}

theorem Hub.commitInstant_immediate (hk : d.op 16 1 = 0) : h.commitInstant o d = .inr .immediate := by
  rw [Hub.commitInstant, hk]
  rfl

variable (hk : d.op 16 1 = 1) (hp : bitOf (d.op 17 1) 0 = false)
include hk hp

theorem Hub.commitInstant_time (hlead : h.now48 (d.op 18 1) + h.commitLead o ≤ time48 (d.op 24 6) (d.op 30 4) (d.op 34 2)) :
    h.commitInstant o d = .inr (.time (d.op 18 1) (time48 (d.op 24 6) (d.op 30 4) (d.op 34 2))) := by
  rw [Hub.commitInstant, hk, hp]
  dsimp only
  rw [if_neg Bool.false_ne_true, if_neg (Nat.not_lt.2 hlead)]
  rfl

theorem Hub.commitInstant_late (hlead : time48 (d.op 24 6) (d.op 30 4) (d.op 34 2) < h.now48 (d.op 18 1) + h.commitLead o) :
    h.commitInstant o d = .inl Status.late := by
  rw [Hub.commitInstant, hk, hp]
  dsimp only
  rw [if_neg Bool.false_ne_true, if_pos hlead]
  rfl

end

theorem exec_cfgCommit (q tag : Nat) (s : State) : exec (.cfgCommit q tag) s = .next { s with hub := s.hub.cfgCommit s.glob q tag } := rfl

section
variable {s : State} {q tag : Nat} {d : Desc} (hf : Fetched s q tag 0x02 d) (hserves : s.hub.serving .cmt = true) (hg : s.glob.safe = false)
  (hi : s.hub.commit.phase = .idle)
include hf hserves hg hi

/-- With an instant the idle engine goes into the check. -/
theorem cfgCommit_checks {i : Instant} (hinst : s.hub.commitInstant s.hub.overlay d = .inr i) :
    ∃ t, exec (.cfgCommit q tag) s = .next t ∧ HubOnly s t ∧ RegsKeptBut [] s.hub t.hub ∧
      t.hub.commit = { s.hub.commit with
        phase := .checking, owner := some (q, tag), instant := i, next := bitOf (d.op 17 1) 0, kind := d.op 16 1
        atStart := s.hub.startRules s.hub.overlay } := by
  obtain ⟨hregs, -, hcommit⟩ := s.hub.groupTriggers_kept (s.hub.touchedGroups s.hub.overlay)
  refine ⟨_, exec_cfgCommit .., ⟨rfl, rfl, rfl⟩, ?_⟩
  rw [Hub.cfgCommit, hf.servedBy hserves]
  dsimp only
  rw [hg, if_neg Bool.false_ne_true, Hub.setInFlight_of_idle hi, if_neg Bool.false_ne_true, hinst, ← hcommit]
  exact ⟨fun off _ => Hub.rd_of_regs _ _ hregs off, rfl⟩

/-- Without one it fails in step 2. -/
theorem cfgCommit_fails {status : Nat} (hinst : s.hub.commitInstant s.hub.overlay d = .inl status) :
    ∃ t, exec (.cfgCommit q tag) s = .next t ∧ HubOnly s t ∧
      CheckFailed q tag { rule := 1, status := status, parties := [], result := [] } s.hub t.hub := by
  obtain ⟨hregs, hrings, hcommit⟩ := s.hub.groupTriggers_kept (s.hub.touchedGroups s.hub.overlay)
  refine ⟨_, exec_cfgCommit .., ⟨rfl, rfl, rfl⟩, ?_⟩
  rw [Hub.cfgCommit, hf.servedBy hserves]
  dsimp only
  rw [hg, if_neg Bool.false_ne_true, Hub.setInFlight_of_idle hi, if_neg Bool.false_ne_true, hinst]
  exact Hub.checkFails_failed hf.1 hregs hrings hcommit s.glob _

end

/-! ## The end of the check -/

theorem Hub.saddleSend_kept (h : Hub) (o : Out) :
    (h.saddleSend o).regs = h.regs ∧ (h.saddleSend o).rings = h.rings ∧ (h.saddleSend o).commit = h.commit := by
  unfold Hub.saddleSend Hub.saddleSendLong
  split <;> exact ⟨rfl, rfl, rfl⟩

section
variable {s : State} {q tag : Nat} {d : Desc} (hserves : s.hub.serving .cmt = true) (hc : s.hub.commit.phase = .checking)
  (ho : s.hub.commit.owner = some (q, tag)) (hd : s.hub.desc q tag = some d) (hs : s.hub.stagedSpoilt s.mem = false)
include hserves hc ho hd hs

theorem commitCheckDone_passes (hv : s.hub.checkVerdict s.glob d.secure s.hub.commit.instant = none) :
    ∃ t, exec (.commitCheckDone [] []) s = .next t ∧ HubOnly s t ∧ RegsKeptBut [] s.hub t.hub ∧
      t.hub.commit = { s.hub.commit with phase := .pending, atStart := [] } ∧ t.hub.rings = s.hub.rings := by
  refine ⟨_, exec_commitCheckDone .., ?_⟩
  rw [State.bankRead_nil hs]
  refine ⟨⟨rfl, rfl, rfl⟩, ?_⟩
  rw [Hub.checkDone, hserves, hc, ho]
  dsimp only
  rw [hd, Option.map_some, Option.getD_some, hv, Bool.not_true, if_neg Bool.false_ne_true]
  dsimp only
  split
  · obtain ⟨hregs, hrings, hcommit⟩ := Hub.saddleSend_kept { s.hub with commit := { s.hub.commit with phase := .pending, atStart := [] } }
      (.commitNotice s.hub.commit.instant (nextEpoch s.hub.commit.epoch) s.hub.digestAfter)
    exact ⟨fun off _ => Hub.rd_of_regs _ _ hregs off, hcommit, hrings⟩
  · exact ⟨fun _ _ => rfl, rfl, rfl⟩

theorem commitCheckDone_fails {x : CheckFail} (hv : s.hub.checkVerdict s.glob d.secure s.hub.commit.instant = some x) :
    ∃ t, exec (.commitCheckDone [] []) s = .next t ∧ HubOnly s t ∧ CheckFailed q tag x s.hub t.hub := by
  refine ⟨_, exec_commitCheckDone .., ?_⟩
  rw [State.bankRead_nil hs]
  refine ⟨⟨rfl, rfl, rfl⟩, ?_⟩
  rw [Hub.checkDone, hserves, hc, ho]
  dsimp only
  rw [hd, Option.map_some, Option.getD_some, hv, Bool.not_true, if_neg Bool.false_ne_true]
  exact Hub.checkFails_failed hd rfl rfl rfl s.glob x

end

/-! ## The step that decides -/

theorem failOf_found (rule status : Nat) {fs : List Finding} (hfs : fs ≠ []) :
    failOf rule status fs = some { rule := rule, status := status, parties := fs.flatten, result := [] } :=
  if_neg (by simpa using hfs)

theorem failOf_nothing (rule status : Nat) : failOf rule status [] = none := rfl

section
variable {h : Hub} (g : Glob) (secure : Bool) (i : Instant)

theorem Hub.checkVerdict_range (hrange : h.rangeFindings h.overlay ≠ []) :
    ∃ x, h.checkVerdict g secure i = some x ∧ x.status = Status.invalid ∧ x.rule = 2 := by
  rw [Hub.checkVerdict, failOf_found _ _ hrange]
  exact ⟨_, rfl, rfl, rfl⟩

theorem Hub.checkVerdict_poweredOff (hrange : h.rangeFindings h.overlay = []) (hoff : h.poweredOff ≠ []) :
    ∃ x, h.checkVerdict g secure i = some x ∧ x.status = Status.notPresent ∧ x.rule = 3 := by
  rw [Hub.checkVerdict, hrange, failOf_nothing, failOf_found _ _ hoff]
  exact ⟨_, rfl, rfl, rfl⟩

theorem Hub.checkVerdict_denied (hrange : h.rangeFindings h.overlay = []) (hoff : h.poweredOff = []) (hdenied : h.worldDenied secure ≠ []) :
    ∃ x, h.checkVerdict g secure i = some x ∧ x.status = Status.denied ∧ x.rule = 4 := by
  rw [Hub.checkVerdict, hrange, hoff, failOf_nothing, failOf_nothing, failOf_found _ _ hdenied]
  exact ⟨_, rfl, rfl, rfl⟩

end

/-- Settles O19, by the branches of a CFG_COMMIT, by how its check ends, and by the order of the steps. -/
theorem commitIsCheckedThenPending : Obligations.CommitIsCheckedThenPending := by
  refine fun s q tag d hserves => ⟨?_, fun hf hg hi hk => ?_, fun hf hg hi hk hp hlead => ?_, fun hf hg hi hk hp hlead => ?_,
    fun hc ho hd hs hv => commitCheckDone_passes hserves hc ho hd hs hv, fun x hc ho hd hs hv => ?_,
    fun secure i => Hub.checkVerdict_range s.glob secure i, fun secure i => Hub.checkVerdict_poweredOff s.glob secure i,
    fun i => Hub.checkVerdict_denied s.glob false i⟩
  · rintro errs lines u rfl
    refine ⟨fun hs => ?_, commitCheckDone_spoilt⟩
    rw [exec_commitCheckDone, exec_commitCheckDone, State.bankRead_sound hs, State.bankRead_nil hs]
    rfl
  · obtain ⟨t, ht, hhub, hregs, hcommit⟩ := cfgCommit_checks hf hserves hg hi (Hub.commitInstant_immediate hk)
    exact ⟨t, ht, hhub, hregs, hk ▸ hcommit⟩
  · obtain ⟨t, ht, hhub, hregs, hcommit⟩ := cfgCommit_checks hf hserves hg hi (Hub.commitInstant_time hk hp hlead)
    exact ⟨t, ht, hhub, hregs, by rw [hcommit], by rw [hcommit], by rw [hcommit]⟩
  · obtain ⟨t, ht, hhub, hfail⟩ := cfgCommit_fails hf hserves hg hi (Hub.commitInstant_late hk hp hlead)
    exact ⟨t, ht, hhub, hfail.regs, hfail.answered, hfail.raised, hfail.idle, hfail.writes, hfail.tables, hfail.status, hfail.rule⟩
  · obtain ⟨t, ht, hhub, hfail⟩ := commitCheckDone_fails hserves hc ho hd hs hv
    exact ⟨t, ht, hhub, hfail.regs, hfail.answered, hfail.raised, hfail.idle, hfail.writes, hfail.tables, hfail.status, hfail.rule⟩

end Sys2Proof.Machine
end

section
/-! What the blocks of the hub leave of an applied set (R67, R77): the commit engine, the power states, and every RW field of the registers. Frames that leave a
port are the larger part of it. -/

namespace Sys2Proof.Machine

-- As in the tests, one proof at a time: proofs that wait for one another each take a thread of the compile, whose memory is limited.
set_option Elab.async false

/-- The commit engine, the power states and the numbers of the ports' census requests are as they were, and of the registers only those without an RW field
change. -/
structure SetStands (h h' : Hub) : Prop where
  commit : h'.commit = h.commit
  power  : h'.power = h.power
  fields : ∀ off, rwMask off ≠ 0 → h'.rd off = h.rd off
  reqs   : ∀ n, (h'.port n).req = (h.port n).req

theorem rwMask_pendRegs : ∀ off ∈ pendRegs, rwMask off = 0 := by decide +kernel

theorem rwMask_sendRegs : ∀ off ∈ sendRegs, rwMask off = 0 := by decide +kernel

theorem rwMask_violationRegs : ∀ off ∈ violationRegs, rwMask off = 0 := by decide +kernel

namespace SetStands

variable {a b c : Hub}

theorem refl (h : Hub) : SetStands h h := ⟨rfl, rfl, fun _ _ => rfl, fun _ => rfl⟩

theorem trans (h1 : SetStands a b) (h2 : SetStands b c) : SetStands a c where
  commit := h2.commit.trans h1.commit
  power := h2.power.trans h1.power
  fields off ho := (h2.fields off ho).trans (h1.fields off ho)
  reqs n := (h2.reqs n).trans (h1.reqs n)

theorem of_fields (hf : ∀ off, rwMask off ≠ 0 → b.rd off = a.rd off) (hc : b.commit = a.commit) (hp : b.power = a.power) (hports : b.ports = a.ports) :
    SetStands a b := ⟨hc, hp, hf, fun n => by rw [Hub.port, Hub.port, hports]⟩

theorem of_same (hr : b.regs = a.regs := by rfl) (hc : b.commit = a.commit := by rfl) (hp : b.power = a.power := by rfl)
    (hports : b.ports = a.ports := by rfl) : SetStands a b :=
  of_fields (fun off _ => Hub.rd_of_regs a b hr off) hc hp hports

/-- Registers of a list that have no RW field. -/
theorem of_regsKept {l : List Nat} (hk : RegsKeptBut l a b) (hl : ∀ off ∈ l, rwMask off = 0) (hc : b.commit = a.commit) (hp : b.power = a.power)
    (hports : b.ports = a.ports) : SetStands a b :=
  of_fields (fun off ho => hk off fun hmem => ho (hl off hmem)) hc hp hports

theorem of_reports (hr : Reports a b) : SetStands a b :=
  of_regsKept hr.regs rwMask_pendRegs (congrArg Hub.commit hr.shape :) (congrArg Hub.power hr.shape :) (congrArg Hub.ports hr.shape :)

theorem of_saddleKept (hk : SaddleKept sendRegs a b) (hc : b.commit = a.commit) (hp : b.power = a.power) (hports : b.ports = a.ports) : SetStands a b :=
  of_regsKept hk.regs (fun off ho => (List.mem_append.1 ho).elim (rwMask_sendRegs off) (rwMask_pendRegs off)) hc hp hports

theorem ite {p : Prop} [Decidable p] (hb : SetStands a b) (hc : SetStands a c) : SetStands a (if p then b else c) := by
  split <;> assumption

theorem foldl {α : Type} {f : Hub → α → Hub} (hf : ∀ k x, SetStands k (f k x)) (xs : List α) (h : Hub) : SetStands h (xs.foldl f h) :=
  List.foldlRecOn (motive := SetStands h) xs f (.refl h) fun k hk x _ => hk.trans (hf k x)

theorem modPort (h : Hub) (n : Nat) {f : Port → Port} (hf : ∀ p, (f p).req = p.req := by exact fun _ => rfl) : SetStands h (h.modPort n f) := by
  refine ⟨rfl, rfl, fun _ _ => rfl, fun j => ?_⟩
  rw [Hub.modPort, Hub.port_setPort]
  split
  case isTrue hj => rw [hf, hj]
  case isFalse => rfl

theorem emit (h : Hub) (o : Out) : SetStands h (h.emit o) := .of_same

theorem modSaddle (h : Hub) (f : Saddle → Saddle) : SetStands h (h.modSaddle f) := .of_same

theorem raise (h : Hub) (g : Glob) (src d : Nat) : SetStands h (h.raise g src d) := of_reports (Hub.raise_reports ..)

theorem raiseIf (h : Hub) (c : Bool) (g : Glob) (src d : Nat) : SetStands h (h.raiseIf c g src d) := of_reports (Hub.raiseIf_reports ..)

theorem complete (h : Hub) (g : Glob) (q tag status : Nat) (result : List Byte) : SetStands h (h.complete g q tag status result) :=
  of_reports (Hub.complete_reports ..)

end SetStands

/-! ## Ports -/

theorem Port.withQueue_req (p : Port) (q : Nat) (l : List QFrame) : (p.withQueue q l).req = p.req := by
  unfold Port.withQueue
  split <;> rfl

theorem Port.bumpSeq_req (p : Port) (q dest k : Nat) : (p.bumpSeq q dest k).req = p.req := by
  unfold Port.bumpSeq
  repeat' split
  all_goals rfl

theorem Port.askUp_req (p : Port) (top : Nat) : (p.askUp top).req = p.req := by
  unfold Port.askUp
  split <;> rfl

section
variable (h : Hub) (g : Glob)

theorem Hub.askUp_setStands (n : Nat) : SetStands h (h.askUp n) := .modPort h n (fun p => p.askUp_req _)

theorem Hub.groupTrigger_setStands (pg : Nat) : SetStands h (h.groupTrigger pg) := by
  unfold Hub.groupTrigger Hub.groupUpshift
  refine .ite (.trans (b := h.setGroup pg _) ?_ (.foldl (fun k n => k.askUp_setStands n) _ _)) ?_
  all_goals exact .of_same

theorem Hub.saddleSendLong_setStands (n : Nat) (o : Out) : SetStands h (h.saddleSendLong n o) := by
  unfold Hub.saddleSendLong
  refine .ite ?_ (.refl h)
  exact .of_same

/-! ## Frames that leave -/

theorem Hub.emitFrame_setStands (n : Nat) (f : NFrame) : SetStands h (h.emitFrame n f) := by
  unfold Hub.emitFrame
  have hidle := SetStands.modPort h n (f := fun p => { p with idle := p.idle - (blockCost f.payload.length * blockTime p.rate : Nat) })
  exact hidle.trans (.of_same (by simp) (by simp) (by simp) (by simp))

theorem Hub.fifoPush_stamp_setStands (n w : Nat) : SetStands h (h.fifoPush g (stampFifo n) w) :=
  .of_saddleKept (Hub.fifoPush_stamp_saddleKept ..) (by simp) (by simp) (by simp)

theorem Hub.leaveQ0_setStands (n : Nat) (f : NFrame) : SetStands h (h.leaveQ0 g n f) := by
  have hdrew (k : Hub) : SetStands k (k.drew 1) := .of_same
  unfold Hub.leaveQ0
  refine .ite ?_ (.ite ?_ (Hub.emitFrame_setStands ..))
  · exact ((Hub.emitFrame_setStands ..).trans (hdrew _)).trans (.modPort ..)
  · have hpush := (hdrew h).trans (Hub.fifoPush_stamp_setStands (h.drew 1) g n (h.laneStamp % 2 ^ 64))
    exact .trans (.ite hpush (hpush.trans (.modPort ..))) (Hub.emitFrame_setStands ..)

theorem Hub.pumpQ0_setStands (n : Nat) : SetStands h (h.pumpQ0 g n) := by
  unfold Hub.pumpQ0
  split
  · exact .refl h
  · exact .ite (Hub.leaveQ0_setStands ..) (.trans (.modPort ..) (Hub.leaveQ0_setStands ..))

theorem Hub.fixLate_setStands (j : Nat) (f : QFrame) : SetStands h (h.fixLate g j f) := by
  refine .of_saddleKept (Hub.fixLate_saddleKept ..) ?_ ?_ ?_
  all_goals
    unfold Hub.fixLate
    dsimp only
    repeat' split
  all_goals simp

theorem Hub.sendFrom_setStands (j n q : Nat) (fs : List QFrame) : SetStands h (h.sendFrom g j n q fs).1 := by
  induction fs generalizing h with
  | nil => exact .refl h
  | cons f fs ih =>
    unfold Hub.sendFrom
    split
    · exact ih h
    · split
      · exact .trans (.ite (.refl h) (Hub.fixLate_setStands ..)) ((Hub.emitFrame_setStands ..).trans (ih _))
      · exact .refl h

theorem Hub.pumpEnd_setStands (j q n : Nat) : SetStands h (h.pumpEnd g j q n) := by
  unfold Hub.pumpEnd
  refine .ite (.modPort h j fun p => p.withQueue_req ..) ?_
  exact (Hub.sendFrom_setStands ..).trans (.modPort _ j fun p => p.withQueue_req ..)

theorem Hub.pumpQueue_setStands (j q : Nat) : SetStands h (h.pumpQueue g j q) := .foldl (fun k n => k.pumpEnd_setStands g j q n) _ h

theorem Hub.pumpTop_setStands (j : Nat) : SetStands h (h.pumpTop g j) :=
  .trans (.foldl (fun k n => k.pumpQ0_setStands g n) _ h) (Hub.pumpQueue_setStands ..)

theorem Hub.pumpPix_setStands (j : Nat) : SetStands h (h.pumpPix g j) := by
  unfold Hub.pumpPix
  split
  · exact .refl h
  · refine .ite (.trans (.foldl (fun k n => ?_) _ h) (.modPort ..)) (.refl h)
    exact .ite (Hub.emitFrame_setStands ..) (.refl k)

theorem Hub.pumpLow_setStands (j : Nat) : SetStands h (h.pumpLow g j) := by
  unfold Hub.pumpLow
  split
  · exact Hub.pumpQueue_setStands ..
  · exact .ite (.refl h) (Hub.pumpQueue_setStands ..)

theorem Hub.pump_setStands (j : Nat) : SetStands h (h.pump g j) :=
  ((h.pumpTop_setStands g j).trans (Hub.pumpPix_setStands ..)).trans (Hub.pumpLow_setStands ..)

/-! ## Frames that are admitted -/

theorem Hub.mirrorFrame_setStands (j : Nat) (f : QFrame) : SetStands h (h.mirrorFrame j f) := by
  have hflight (x : Saddle) : SetStands h (h.setSaddle x) := .of_same
  exact .ite ((hflight _).trans (Hub.saddleSendLong_setStands ..)) (.refl h)

theorem Hub.admitOne_setStands (j : Nat) (f : QFrame) : SetStands h (h.admitOne g j f) := by
  unfold Hub.admitOne
  refine .ite ?_ (.ite ?_ ?_)
  · exact (Hub.mirrorFrame_setStands ..).trans (.modPort _ j fun p => p.withQueue_req ..)
  · split
    · exact .complete ..
    · exact .refl h
  · exact (Hub.mirrorFrame_setStands ..).trans (.modPort _ j fun p => (Port.withQueue_req ..).trans (p.bumpSeq_req ..))

theorem Hub.admitList_setStands (j : Nat) (fs : List QFrame) : SetStands h (h.admitList g j fs).1 := by
  induction fs generalizing h with
  | nil => exact .refl h
  | cons f fs ih =>
    unfold Hub.admitList
    split
    · exact (Hub.admitOne_setStands ..).trans (ih _)
    · exact ih h

theorem Hub.admitWaiting_setStands (j : Nat) : SetStands h (h.admitWaiting g j) := by
  have hsends (k : Hub) (F : Port → List QFrame) : SetStands k (k.modPort j fun p => { p with sends := F p }) := .modPort ..
  exact .ite (h.pump_setStands g j) ((((hsends h _).trans (Hub.admitList_setStands ..)).trans (hsends _ _)).trans (Hub.pump_setStands ..))

theorem Hub.submit_setStands (j : Nat) (f : QFrame) : SetStands h (h.submit g j f) :=
  .trans (.modPort ..) (Hub.admitWaiting_setStands ..)

end

end Sys2Proof.Machine
end

section
/-! Committed registers (R65, R81) and the census (R85, R86): the refused direct write, the read back, the end of a transfer to host memory, and the requests and
the report of a census. -/

namespace Sys2Proof.Machine

-- As in the tests, one proof at a time: proofs that wait for one another each take a thread of the compile, whose memory is limited.
set_option Elab.async false

/-! ## Direct writes -/

theorem exec_directWriteRefused {s : State} {who : Requester} (hq : s.hub.quietTo who = true) (off v : Nat) :
    exec (.directWriteRefused who off v) s = .next { s with hub := s.hub.tryWrite s.glob who off id } :=
  reached_quiet (fun s => nextHub s (s.hub.tryWrite s.glob who off id)) hq

theorem directWrite_refused {s : State} {who : Requester} {off i j : Nat} {d : RegDesc} (hq : s.hub.quietTo who = true)
    (ha : s.hub.accessAt s.glob who off = .ok d i j) (hcls : d.cls ≠ .f) (hwho : who ≠ .firmware) (v : Nat) :
    BecomesRaising (.directWriteRefused who off v) s
      ((s.hub.putF Reg.CMT_DIRECT 15 0 (satInc 16 (s.hub.f Reg.CMT_DIRECT 15 0))).wrN Reg.CMT_DIRECT_LAST (off % 2 ^ 24)) 47 := by
  refine ⟨_, exec_directWriteRefused hq off v, ⟨rfl, rfl, rfl⟩, ?_⟩
  have hrefused : s.hub.tryWrite s.glob who off id = s.hub.directRefused s.glob off := by
    rw [Hub.tryWrite, ha]
    exact if_neg (by simp [hcls, hwho])
  dsimp only
  rw [hrefused]
  exact ⟨Hub.raise_reports .., Hub.pending_raise _ _ _ _ (by decide)⟩

/-! ## CFG_READ -/

section
variable {h : Hub} {g : Glob} {secure : Bool}

/-- A register that the world of a CFG_READ may read, in a block that answers reads, and no half of a counter. -/
def Hub.ReadsBack (h : Hub) (secure : Bool) (off : Nat) : Prop :=
  ∃ b rd i j, Block.ofOffset off = some b ∧ b ≠ .dbg ∧ h.reachable b = true ∧
    Reg.at off = some (rd, i, j) ∧ rd.id.counterLo = false ∧ (secure = true ∨ h.regSecure rd i = false)

theorem Hub.cfgReadOne_applied {off : Nat} (hr : h.ReadsBack secure off) : h.cfgReadOne g secure false off = (h.view g off, h) := by
  obtain ⟨b, rd, i, j, hblock, hdbg, hreach, hat, hlow, hworld⟩ := hr
  have hset : (h.stagedWrite off).filter (fun _ => false) = none := Option.filter_eq_none_iff.2 fun _ _ => Bool.false_ne_true
  have hafter : h.afterRead rd off = h := by rw [Hub.afterRead, hlow, if_neg Bool.false_ne_true]
  rw [Hub.cfgReadOne, hblock, hat]
  dsimp only
  rw [hset, if_neg (by simp [hdbg, hreach]), if_neg (by rcases hworld with hw | hw <;> simp [hw]), hafter]

theorem Hub.cfgReadMany_applied (n : Nat) (off : Nat) (hr : ∀ k, k < n → h.ReadsBack secure (off + 4 * k)) :
    h.cfgReadMany g secure false off n = (((List.range n).map fun k => leBytes 4 (h.view g (off + 4 * k))).flatten, h) := by
  induction n generalizing off with
  | zero => rfl
  | succ n ih =>
    have hnext (k : Nat) : off + 4 + 4 * k = off + 4 * (k + 1) := by omega
    have hrest := ih (off + 4) fun k hk => by rw [hnext]; exact hr (k + 1) (by omega)
    simp only [hnext] at hrest
    have hfirst : h.cfgReadOne g secure false off = (h.view g off, h) := Hub.cfgReadOne_applied (hr 0 (by omega))
    rw [Hub.cfgReadMany, hfirst, hrest, List.range_succ_eq_map, List.map_cons, List.flatten_cons, List.map_map]
    rfl

end

theorem cfgRead_moves {s : State} {q tag : Nat} {d : Desc} (hserves : s.hub.serving .cmt = true) (hf : Fetched s q tag 0x04 d)
    (haligned : d.op 16 4 % 4 = 0) (hinside : d.op 16 4 + 4 * d.op 20 4 ≤ 2 ^ 24) (happlied : bitOf (d.op 24 1) 0 = false)
    (hr : ∀ k, k < d.op 20 4 → s.hub.ReadsBack d.secure (d.op 16 4 + 4 * k)) :
    exec (.cfgRead q tag) s = .next { s with
      hub := s.hub.move q tag Status.ok (leBytes 4 s.hub.commit.epoch) [d.op 32 8]
        ((List.range (d.op 20 4)).map (fun k => leBytes 4 (s.hub.view s.glob (d.op 16 4 + 4 * k)))).flatten } := by
  rw [show exec (.cfgRead q tag) s = .next { s with hub := s.hub.cfgRead s.glob q tag } from rfl, Hub.cfgRead, hf.servedBy hserves]
  dsimp only
  rw [if_neg (by simpa [haligned] using hinside), happlied, Hub.cfgReadMany_applied _ _ hr]

/-! ## The end of a transfer to host memory -/

theorem dmaDone_toHost {s : State} {q tag : Nat} {d : Desc} (hd : s.hub.desc q tag = some d) (hp : d.phase = .moving)
    (hop : d.opcode = 0x04 ∨ d.opcode = 0x31 ∨ d.opcode = 0x40 ∨ d.opcode = 0x71) :
    dmaDone q tag s =
      { s with hub := (s.hub.emit (.hostWrite (d.words.headD 0) d.data)).complete s.glob q tag d.status d.result } := by
  rw [dmaDone, hd]
  dsimp only
  rw [if_neg (not_not.2 hp)]
  rcases hop with hop | hop | hop | hop
  all_goals
    rw [hop]
    rfl

theorem dmaTransfer_toHost {s : State} {q tag : Nat} {d : Desc} (hd : s.hub.desc q tag = some d) (hp : d.phase = .moving)
    (hop : d.opcode = 0x04 ∨ d.opcode = 0x31 ∨ d.opcode = 0x40 ∨ d.opcode = 0x71) :
    ∃ t, exec (.dmaTransferDone q tag []) s = .next t ∧ HubOnly s t ∧ Reports s.hub t.hub ∧ Answered q tag d.status d.result s.hub t.hub ∧
      Out.hostWrite (d.words.headD 0) d.data ∈ t.hub.out := by
  let h1 := s.hub.emit (.hostWrite (d.words.headD 0) d.data)
  have hends : Reports h1 (h1.complete s.glob q tag d.status d.result) := Hub.complete_reports ..
  have hanswered := Hub.complete_answered h1 s.glob q tag d.status d.result d hd
  refine ⟨_, (exec_dmaTransferDone q tag s).trans (congrArg _ (dmaDone_toHost hd hp hop)), ⟨rfl, rfl, rfl⟩, ?_, ?_, ?_⟩
  · exact (Hub.emit_reports ..).trans hends
  · exact hanswered.of_same rfl rfl
  · exact hends.mem_out List.mem_cons_self

/-! ## A census -/

theorem exec_census (q tag : Nat) (s : State) : exec (.census q tag) s = .next { s with hub := s.hub.censusStart s.glob q tag } := rfl

/-- The request of a census leaves on a port (R85, Table 10.5). -/
def Hub.censusAsk (g : Glob) (h : Hub) (n : Nat) : Hub :=
  if h.originates n then
    (h.modPort n fun p => { p with req := (p.req + 1) % 2 ^ 32 }).submit g n
      { type := 5, dest := 255, owner := .none
        payload := [1, 0, 0, 0] ++ leBytes 4 ((h.modPort n fun p => { p with req := (p.req + 1) % 2 ^ 32 }).port n).req }
  else h

/-- What a census keeps of its request, and of the commit and the time at its start. -/
def Hub.censusOf (h : Hub) (q tag : Nat) (d : Desc) : Census :=
  { sq := q, tag := tag, mask := d.op 16 4, dest := d.op 24 8, epoch := h.commit.epoch, seconds := h.nowSec, nanos := h.nowNs
    down := (maskPorts (d.op 16 4)).filter (fun n => !(h.port n).phase.carries)
    tiles := (((maskPorts (d.op 16 4)).filter (fun n => (h.port n).phase.carries)).map (fun n => (h.enumerated n).map (fun k => (n, k)))).flatten
    answers := [], endEpoch := h.commit.epoch, endDigest := h.commit.digest }

/-- The descriptor of a census waits, and the census is among those of the hub. -/
def Hub.censusWaits (h : Hub) (q tag : Nat) (d : Desc) : Hub :=
  { h.await q tag [] with commit := { h.commit with censuses := h.commit.censuses ++ [h.censusOf q tag d] } }

section
variable {s : State} {q tag : Nat} {d : Desc}

theorem censusStart_asks (hserves : s.hub.serving .cmt = true) (hf : Fetched s q tag 0x71 d)
    (hon : ∀ n ∈ maskPorts (d.op 16 4), s.hub.blockOn (.nsh n) = true) :
    s.hub.censusStart s.glob q tag =
      ((maskPorts (d.op 16 4)).filter (fun n => (s.hub.port n).phase.carries)).foldl (Hub.censusAsk s.glob) (s.hub.censusWaits q tag d) := by
  rw [Hub.censusStart, hf.servedBy hserves]
  dsimp only
  rw [if_neg (by simpa using hon)]
  rfl

theorem census_without (hserves : s.hub.serving .cmt = true) (hf : Fetched s q tag 0x71 d)
    (hon : ∀ n ∈ maskPorts (d.op 16 4), s.hub.blockOn (.nsh n) = true) (hdown : ∀ n ∈ maskPorts (d.op 16 4), (s.hub.port n).phase.carries = false) :
    ∃ t, exec (.census q tag) s = .next t ∧ HubOnly s t ∧ RegsKeptBut [] s.hub t.hub ∧
      t.hub.commit = { s.hub.commit with censuses := s.hub.commit.censuses ++ [{
        sq := q, tag := tag, mask := d.op 16 4, dest := d.op 24 8, epoch := s.hub.commit.epoch, seconds := s.hub.nowSec, nanos := s.hub.nowNs
        down := maskPorts (d.op 16 4), tiles := [], answers := [], endEpoch := s.hub.commit.epoch, endDigest := s.hub.commit.digest }] } := by
  have hnone : (maskPorts (d.op 16 4)).filter (fun n => (s.hub.port n).phase.carries) = [] := by simpa using hdown
  have hall : (maskPorts (d.op 16 4)).filter (fun n => !(s.hub.port n).phase.carries) = maskPorts (d.op 16 4) := by simpa using hdown
  refine ⟨_, exec_census .., ⟨rfl, rfl, rfl⟩, ?_⟩
  dsimp only
  rw [censusStart_asks hserves hf hon, hnone, List.foldl_nil, Hub.censusWaits, Hub.censusOf, hall, hnone]
  exact ⟨fun _ _ => rfl, rfl⟩

theorem maskPorts_two_pow {n : Nat} (hn : n < 32) : maskPorts (2 ^ n) = [n] := by
  interval_cases n <;> decide

/-- The request goes out with the port's next number, and what submits it touches no commit. -/
theorem Hub.censusAsk_asks (h : Hub) (g : Glob) {n : Nat} (ho : h.originates n = true) :
    (h.censusAsk g n).commit = h.commit ∧ ((h.censusAsk g n).port n).req = ((h.port n).req + 1) % 2 ^ 32 := by
  rw [Hub.censusAsk, if_pos ho]
  have hs := Hub.submit_setStands (h.modPort n fun p => { p with req := (p.req + 1) % 2 ^ 32 }) g n
    { type := 5, dest := 255, owner := .none
      payload := [1, 0, 0, 0] ++ leBytes 4 ((h.modPort n fun p => { p with req := (p.req + 1) % 2 ^ 32 }).port n).req }
  refine ⟨hs.commit, (hs.reqs n).trans ?_⟩
  rw [Hub.modPort, Hub.port_setPort, if_pos rfl]

theorem census_one {n : Nat} (hserves : s.hub.serving .cmt = true) (hf : Fetched s q tag 0x71 d) (hn : n < 32) (hmask : d.op 16 4 = 2 ^ n)
    (hon : s.hub.blockOn (.nsh n) = true) (hup : (s.hub.port n).phase.carries = true) (ho : s.hub.originates n = true) :
    ∃ t c, exec (.census q tag) s = .next t ∧ HubOnly s t ∧ t.hub.commit.censuses = s.hub.commit.censuses ++ [c] ∧ c.down = [] ∧
      c.tiles = (s.hub.enumerated n).map (fun k => (n, k)) ∧ (t.hub.port n).req = ((s.hub.port n).req + 1) % 2 ^ 32 := by
  have hports : maskPorts (d.op 16 4) = [n] := hmask ▸ maskPorts_two_pow hn
  have hnames : (maskPorts (d.op 16 4)).filter (fun n => (s.hub.port n).phase.carries) = [n] := by simp [hports, hup]
  obtain ⟨hcommit, hreq⟩ := (s.hub.censusWaits q tag d).censusAsk_asks s.glob (n := n) ho
  refine ⟨_, s.hub.censusOf q tag d, exec_census .., ⟨rfl, rfl, rfl⟩, ?_⟩
  dsimp only
  rw [censusStart_asks hserves hf (by simpa [hports] using hon), hnames, List.foldl_cons, List.foldl_nil]
  refine ⟨by rw [hcommit]; rfl, ?_, ?_, hreq⟩
  · simp [Hub.censusOf, hports, hup]
  · rw [Hub.censusOf, hnames]
    simp

theorem zeroBlocks_nil (bs : List Byte) : zeroBlocks [] bs = bs := map_getD_range rfl 0

theorem exec_censusWaitEnd (q tag : Nat) (s : State) : exec (.censusWaitEnd q tag []) s = .next { s with hub := s.hub.censusEnd q tag [] } := rfl

theorem censusEnd_incomplete {c : Census} (hc : s.hub.commit.censuses.find? (fun c => c.sq == q && c.tag == tag) = some c)
    (hmissing : c.answers.length ≠ c.tiles.length) :
    s.hub.censusEnd q tag [] =
      ({ s.hub with commit := { s.hub.commit with censuses := s.hub.commit.censuses.erase c } } : Hub).move q tag Status.timeout
        (leBytes 4 c.answers.length) [c.dest] (c.report s.hub.commit.epoch s.hub.commit.digest) := by
  have hwhole : (c.answers.length == c.tiles.length) = false := by simpa using hmissing
  rw [Hub.censusEnd, hc]
  dsimp only
  rw [hwhole, List.filter_nil, zeroBlocks_nil]
  rfl

theorem census_timeout {c : Census} (hd : s.hub.desc q tag = some d)
    (hc : s.hub.commit.censuses.find? (fun c => c.sq == q && c.tag == tag) = some c) (hmissing : c.answers.length ≠ c.tiles.length) :
    ∃ t, exec (.censusWaitEnd q tag []) s = .next t ∧ HubOnly s t ∧ RegsKeptBut [] s.hub t.hub ∧
      t.hub.commit = { s.hub.commit with censuses := s.hub.commit.censuses.erase c } ∧
      t.hub.desc q tag = some { d with
        phase := .moving, status := Status.timeout, result := leBytes 4 c.answers.length, words := [c.dest]
        data := c.report s.hub.commit.epoch s.hub.commit.digest } := by
  refine ⟨_, exec_censusWaitEnd .., ⟨rfl, rfl, rfl⟩, ?_⟩
  dsimp only
  rw [censusEnd_incomplete hc hmissing]
  exact ⟨fun _ _ => rfl, rfl, Hub.desc_move (by exact hd) ..⟩

end

/-- Settles O21, by the branches of the commands that read and guard what a commit applies. -/
theorem committedRegistersAreReadAndGuarded : Obligations.CommittedRegistersAreReadAndGuarded := by
  refine fun s => ⟨fun who off v d i j hq ha hcls hwho => directWrite_refused hq ha hcls hwho v, fun q tag d hserves hf haligned hinside happlied hr => ?_,
    fun q tag d hd hp hop => dmaTransfer_toHost hd hp hop, fun q tag d hserves hf hon hdown => census_without hserves hf hon hdown,
    fun q tag d n hserves hf hn hmask hon hup ho => census_one hserves hf hn hmask hon hup ho,
    fun q tag d c hd hc hmissing => census_timeout hd hc hmissing⟩
  exact ⟨_, cfgRead_moves hserves hf haligned hinside happlied hr, ⟨rfl, rfl, rfl⟩, fun _ _ => rfl, Hub.desc_move hf.1 ..⟩

end Sys2Proof.Machine
end

section
/-! What the blocks do after a set leaves the commit engine, the power states and every RW field as they are (R77): time, scan-out, calibration, the
network, the fixtures and the radios. -/

namespace Sys2Proof.Machine

-- As in the tests, one proof at a time: proofs that wait for one another each take a thread of the compile, whose memory is limited.
set_option Elab.async false

section
variable (h old : Hub) (g : Glob)

/-! ## Time -/

theorem Hub.tbEvent_setStands (t ev : Nat) : SetStands h (h.tbEvent g t ev) := .raise ..

theorem Hub.updateQuality_setStands (t : Nat) : SetStands h (h.updateQuality g t) := by
  unfold Hub.updateQuality
  exact .ite (.refl h) (.trans .of_same (Hub.tbEvent_setStands ..))

theorem Hub.deferredCut_setStands (t : Nat) : SetStands h (h.deferredCut g t) := by
  unfold Hub.deferredCut
  split
  · exact .refl h
  · exact .trans .of_same (.complete ..)

theorem Hub.baseApply_setStands (t : Nat) : SetStands h (h.baseApply g old t) := by
  refine .ite ?_ (.ite .of_same (.refl h))
  refine (h.deferredCut_setStands g t).trans (.ite ?_ ?_)
  all_goals exact .trans .of_same (Hub.updateQuality_setStands ..)

theorem Hub.cmpLate_setStands (c : Nat) : SetStands h (h.cmpLate g c) := .trans .of_same (Hub.tbEvent_setStands ..)

theorem Hub.cmpArm_setStands (c : Nat) : SetStands h (h.cmpArm g c) := by
  unfold Hub.cmpArm
  exact .ite (.ite .of_same (.trans .of_same (Hub.cmpLate_setStands ..))) .of_same

theorem Hub.cmpRetime_setStands (c : Nat) : SetStands h (h.cmpRetime g c) := by
  unfold Hub.cmpRetime
  exact .ite (.ite (.trans .of_same (Hub.cmpLate_setStands ..)) .of_same) .of_same

theorem Hub.cmpApply_setStands (written : List Nat) (c : Nat) : SetStands h (h.cmpApply g old written c) := by
  unfold Hub.cmpApply
  exact .ite (.ite .of_same (.refl h)) (.ite (Hub.cmpArm_setStands ..) (.ite (Hub.cmpRetime_setStands ..) (.refl h)))

theorem Hub.pinApply_setStands (p : Nat) : SetStands h (h.pinApply old p) := by
  have hdrive (level : Option Bool) (at48 : Nat) : SetStands h (h.drive p level at48) := .of_same
  unfold Hub.pinApply
  exact .ite (.ite (.refl h) (hdrive ..)) (.ite (.refl h) (.ite (hdrive ..) (.ite (hdrive ..) (.refl h))))

theorem Hub.timeApply_setStands (written : List Nat) : SetStands h (h.timeApply g old written) := by
  have hbases : SetStands h ((List.range 4).foldl (fun h t => h.baseApply g old t) h) := .foldl (fun k t => k.baseApply_setStands old g t) _ h
  exact (hbases.trans (.foldl (fun k c => k.cmpApply_setStands old g written c) _ _)).trans (.foldl (fun k p => k.pinApply_setStands old p) _ _)

/-! ## Scan-out -/

theorem Hub.msrEnd_setStands (status : Nat) : SetStands h (h.msrEnd g status) := by
  unfold Hub.msrEnd
  have hunits : SetStands h ((List.range 16).foldl (fun h c => if h.seqUnit c then h.setCmp c { h.cmp c with next := none } else h) h) :=
    .foldl (fun k c => .ite .of_same (.refl k)) _ h
  refine .ite (.refl h) ?_
  split
  · exact hunits.trans (.trans .of_same (.complete ..))
  · exact hunits.trans .of_same

theorem Hub.groupApply_setStands (pg : Nat) : SetStands h (h.groupApply g old pg) := by
  unfold Hub.groupApply
  dsimp only
  split
  · exact .of_same
  · exact .ite (.trans .of_same (Hub.msrEnd_setStands ..)) .of_same
  · refine .ite (.refl h) ?_
    refine .trans (b := if h.cal.msr.pg = pg then _ else _) (.ite (.trans .of_same (Hub.msrEnd_setStands ..)) .of_same) (.ite (.raise ..) (.refl _))
  · exact .refl h

theorem Hub.forceArm_setStands (p : Nat) (a : Arm) : SetStands h (h.forceArm p a) := by
  unfold Hub.forceArm
  exact .ite (.trans .of_same (Hub.saddleSendLong_setStands ..)) .of_same

theorem Hub.calForce_setStands (p : Nat) : SetStands h (h.calForce p) := .ite .of_same (.refl h)

theorem Hub.pipeApply_setStands (p : Nat) : SetStands h (h.pipeApply old p) := by
  unfold Hub.pipeApply
  dsimp only
  generalize (old.pipeOn p && (!h.pipeOn p || h.pipeGroup p != old.pipeGroup p) ||
    old.pipeOn p && old.groupOn (old.pipeGroup p) && !h.groupOn (old.pipeGroup p)) = gone
  cases gone
  case false => exact .refl h
  case true =>
    rw [if_pos rfl, if_pos rfl]
    refine .trans ?_ (Hub.calForce_setStands ..)
    split
    · exact .trans .of_same (Hub.forceArm_setStands ..)
    · exact .of_same
    · exact .refl h

theorem Hub.scanApply_setStands (touched lutPipes : List Nat) : SetStands h (h.scanApply g old touched lutPipes) := by
  have hgroups : SetStands h ((List.range 8).foldl (fun h pg => h.groupApply g old pg) h) := .foldl (fun k pg => k.groupApply_setStands old g pg) _ h
  have hpipes := hgroups.trans (.foldl (fun k p => k.pipeApply_setStands old p) (List.range 32) _)
  exact (hpipes.trans (.foldl (fun _ _ => .of_same) _ _)).trans (.foldl (fun _ _ => .of_same) _ _)

/-! ## Calibration -/

theorem Hub.calPipeApply_setStands (p : Nat) : SetStands h (h.calPipeApply old p) := by
  unfold Hub.calPipeApply
  exact .ite (.trans .of_same (Hub.groupTrigger_setStands ..)) .of_same

theorem Hub.statBegins_setStands : SetStands h (h.statBegins old) := .ite .of_same (.refl h)

theorem Hub.calApply_setStands : SetStands h (h.calApply old) :=
  .trans (.foldl (fun k p => k.calPipeApply_setStands old p) _ h) (Hub.statBegins_setStands ..)

/-! ## Network, flows and universes -/

theorem Hub.netLinkDown_setStands (n s : Nat) : SetStands h (h.netLinkDown g n s) := by
  unfold Hub.netLinkDown
  exact .ite (.refl h) (.trans .of_same (.raise ..))

theorem Hub.netPortApply_setStands (n : Nat) : SetStands h (h.netPortApply g old n) :=
  .ite (.foldl (fun _ _ => .of_same) _ h) (.foldl (fun k s => k.netLinkDown_setStands g n s) _ h)

theorem Hub.netFirm_setStands (n s : Nat) (f : TxFrame) : SetStands h (h.netFirm n s f) := by
  apply SetStands.of_same <;> simp

theorem Hub.pathJoin_setStands (f path : Nat) : SetStands h (h.pathJoin old f path) := by
  unfold Hub.pathJoin
  refine .ite (.refl h) ?_
  exact .trans (.ite (Hub.netFirm_setStands ..) (.refl h)) (.ite (Hub.netFirm_setStands ..) (.refl _))

theorem Hub.flowStall_setStands (f : Nat) : SetStands h (h.flowStall g f) := .trans .of_same (.raiseIf ..)

theorem Hub.flowApply_setStands (written : List Nat) (f : Nat) : SetStands h (h.flowApply g old written f) := by
  have hmod (k : Hub) (F : Flow → Flow) : SetStands k (k.modFlow f F) := .of_same
  refine .trans (.trans (.trans ?_ (Hub.flowStall_setStands ..)) (Hub.pathJoin_setStands ..)) (Hub.pathJoin_setStands ..)
  refine .trans (.trans ?_ (.ite (hmod ..) (.refl _))) (.ite (.refl _) (hmod ..))
  exact .ite .of_same (.refl h)

theorem Hub.ingestApply_setStands (written : List Nat) : SetStands h (h.ingestApply g old written) :=
  .trans (.foldl (fun k n => k.netPortApply_setStands old g n) _ h) (.foldl (fun k f => k.flowApply_setStands old g written f) _ _)

theorem Hub.sacnApply_setStands : SetStands h (h.sacnApply old) := by
  unfold Hub.sacnApply
  refine .ite (.refl h) (.foldl (fun k u => ?_) _ h)
  refine .trans (.trans (.ite (.refl k) .of_same) (.foldl (fun k i => ?_) _ _)) (.foldl (fun k i => ?_) _ _)
  all_goals exact Hub.netFirm_setStands ..

/-! ## Fixtures and radios -/

theorem Hub.fixApply_setStands : SetStands h (h.fixApply old) := .ite (.refl h) .of_same

theorem Hub.odlApply_setStands (r : Nat) : SetStands h (h.odlApply old r) := by
  have hstart : SetStands h (h.odlStart r) := .of_same
  unfold Hub.odlApply
  exact .ite (.ite .of_same (.refl h)) (.ite hstart (.ite (.refl h) hstart))

end

end Sys2Proof.Machine
end

section
/-! What the ports and the Saddle link do after a set, and that it all leaves the set as it stands (R77). -/

namespace Sys2Proof.Machine

-- As in the tests, one proof at a time: proofs that wait for one another each take a thread of the compile, whose memory is limited.
set_option Elab.async false

section
variable (h old : Hub) (g : Glob) (m : Memory)

/-! ## Tables that are read -/

theorem Hub.violation_setStands (kind addr : Nat) (write : Bool) (unit : Nat) : SetStands h (h.violation g kind addr write unit) := by
  refine .of_regsKept (l := violationRegs ++ pendRegs) (fun off ho => ?_) (fun off ho => ?_) (by simp) (by simp) (by simp)
  · have hviol : off ∉ violationRegs := fun hm => ho (List.mem_append_left _ hm)
    have hpend : off ∉ pendRegs := fun hm => ho (List.mem_append_right _ hm)
    simp only [violationRegs, List.mem_cons, List.not_mem_nil, or_false, not_or] at hviol
    obtain ⟨hcnt, hlo, hhi⟩ := hviol
    have hstored (k : Hub) (a b : Nat) : (((k.count Reg.SEC_VIOL_CNT 31).wrN Reg.SEC_VIOL_LAST_LO a).wrN Reg.SEC_VIOL_LAST_HI b).rd off = k.rd off := by
      rw [Hub.rd_wrN, if_neg (Ne.symm hhi), Hub.rd_wrN, if_neg (Ne.symm hlo), Hub.rd_count_ne _ _ _ _ (Ne.symm hcnt)]
    unfold Hub.violation
    dsimp only
    split
    · rw [Hub.rd_raise _ _ _ _ _ hpend, (Hub.record_reports ..).regs off hpend]
      exact hstored ..
    · exact hstored ..
  · exact (List.mem_append.1 ho).elim (rwMask_violationRegs off) (rwMask_pendRegs off)

theorem Hub.recordLook_setStands (j k : Nat) : SetStands h (h.recordLook g j k) := by
  unfold Hub.recordLook Hub.tableLook
  split
  · exact .refl h
  · exact .foldl (fun k b => k.violation_setStands g ..) _ h

/-! ## CONFIG -/

theorem Hub.modTile_setStands (j k : Nat) (f : TileRec → TileRec) : SetStands h (h.modTile j k f) := .modPort ..

theorem Hub.sendConfig_setStands (j k : Nat) : SetStands h (h.sendConfig g j k) := .ite (Hub.submit_setStands ..) (.refl h)

theorem Hub.configOrMark_setStands (j k : Nat) : SetStands h (h.configOrMark g m j k) := by
  unfold Hub.configOrMark
  exact .ite (.trans (Hub.modTile_setStands ..) (.raise ..)) (.trans (Hub.recordLook_setStands ..) (Hub.sendConfig_setStands ..))

theorem Hub.reconfigure_setStands (n k : Nat) : SetStands h (h.reconfigure g m n k) := by
  unfold Hub.reconfigure
  refine .ite (.trans (Hub.modTile_setStands ..) (Hub.configOrMark_setStands ..)) (.ite (Hub.configOrMark_setStands ..) (.refl h))

/-! ## Ports -/

theorem Hub.dropFrames_setStands (j status : Nat) : SetStands h (h.dropFrames g j status) := by
  have hempty : SetStands h (h.setPort j { h.port j with q1 := [], q3 := [], sends := [] }) :=
    SetStands.modPort h j (f := fun p => { p with q1 := [], q3 := [], sends := [] })
  unfold Hub.dropFrames
  refine hempty.trans (.foldl (fun k f => ?_) _ _)
  split
  · exact .complete ..
  · exact .refl k

theorem rwMask_hint : rwMask Reg.GLB_NSH_HINT = 0 := by decide +kernel

theorem Hub.hintEnds_setStands (n : Nat) : SetStands h (h.hintEnds n) := by
  refine .of_fields (fun off ho => Hub.rd_putBit_ne _ _ _ _ _ ?_) (by simp [Hub.hintEnds]) (by simp [Hub.hintEnds]) (by simp [Hub.hintEnds])
  rintro rfl
  exact ho rwMask_hint

theorem Hub.retrain_setStands (n : Nat) (phase : LinkPhase) : SetStands h (h.retrain n phase) := by
  unfold Hub.retrain
  exact .trans (.trans (.modPort ..) (Hub.hintEnds_setStands ..)) (.emit ..)

theorem Hub.portDown_setStands (n status : Nat) : SetStands h (h.portDown g n status) := by
  unfold Hub.portDown
  have hends := (SetStands.raiseIf h ((h.port n).phase == .up || (h.port n).phase == .shifting) g n 2).trans
    (.ite (p := h.near n = n) (Hub.dropFrames_setStands _ g n status) (.refl _))
  exact .ite hends (hends.trans (.trans (Hub.retrain_setStands ..) (.modPort ..)))

theorem Hub.resendAll_setStands (j : Nat) : SetStands h (h.resendAll j) := by
  unfold Hub.resendAll
  exact .modPort ..

theorem Hub.portApply_setStands (n : Nat) : SetStands h (h.portApply g m old n) := by
  have hasks := SetStands.modPort h n (f := fun p => { p with wantDown := p.wantDown && decide (p.rate < h.f (Reg.NSHn_CTL n) 4 3) })
  unfold Hub.portApply
  refine .ite (hasks.trans (Hub.portDown_setStands ..)) (.ite (.ite (hasks.trans (Hub.retrain_setStands ..)) hasks) ?_)
  have hmap (k : Hub) : SetStands k (if k.tileMap n = old.tileMap n then k
      else (if ((k.resendAll n).port n).tiles.isEmpty then k.resendAll n
        else ((k.resendAll n).ends n).foldl (fun h m => h.askUp m) (k.resendAll n)).groupTrigger (k.portGroup n)) := by
    refine .ite (.refl k) (.trans (.ite (Hub.resendAll_setStands ..) ?_) (Hub.groupTrigger_setStands ..))
    exact (k.resendAll_setStands n).trans (.foldl (fun h m => h.askUp_setStands m) _ _)
  have hstands := hasks.trans (hmap _)
  exact .ite (hstands.trans (.foldl (fun h k => h.reconfigure_setStands g m n k) _ _)) hstands

/-! ## The Saddle link -/

theorem Hub.enterHoldover_setStands (t : Nat) : SetStands h (h.enterHoldover g t) :=
  .trans (.trans .of_same (Hub.tbEvent_setStands ..)) (Hub.updateQuality_setStands ..)

theorem Hub.saddleDown_setStands (lanes : Nat) : SetStands h (h.saddleDown g lanes) := by
  unfold Hub.saddleDown
  refine .ite .of_same (.trans (.trans (.trans .of_same (.raise ..)) (.ite ?_ (.refl _))) (.foldl (fun k n => k.admitWaiting_setStands g n) _ _))
  exact .foldl (fun k t => .ite (.refl k) (Hub.enterHoldover_setStands ..)) _ _

theorem Hub.saddleApply_setStands : SetStands h (h.saddleApply g old) := by
  unfold Hub.saddleApply
  exact .ite (Hub.saddleDown_setStands ..) (.ite .of_same (.refl h))

/-- What every block does when a set has taken effect leaves the set as it stands. -/
theorem Hub.hooks_setStands (offs ids : List Nat) : SetStands h (h.hooks g m old offs ids) := by
  have htime := (h.timeApply_setStands old g offs).trans (Hub.scanApply_setStands _ old g
    ((offs.map pipeOfWrite).flatten ++ (ids.map pipeOfTable).flatten).eraseDups ((ids.filter (fun id => id / 2 ^ 24 = 3)).map (· % 2 ^ 24)))
  have hingest := (htime.trans (Hub.calApply_setStands _ old)).trans (Hub.ingestApply_setStands _ old g offs)
  have hfix := (hingest.trans (Hub.sacnApply_setStands _ old)).trans (Hub.fixApply_setStands _ old)
  have hradios := (hfix.trans (Hub.odlApply_setStands _ old 0)).trans (Hub.odlApply_setStands _ old 1)
  exact (hradios.trans (.foldl (fun k n => k.portApply_setStands old g m n) _ _)).trans (Hub.saddleApply_setStands ..)

end

end Sys2Proof.Machine
end

section
/-! A pending set takes effect whole (R67, R69, R74, R77, R82): its writes and tables, what its writes clear, and what the blocks do after it. -/

namespace Sys2Proof.Machine

-- As in the tests, one proof at a time: proofs that wait for one another each take a thread of the compile, whose memory is limited.
set_option Elab.async false

/-! ## Counters that a set clears -/

theorem Hub.putF_setStands (h : Hub) {off : Nat} (ho : rwMask off = 0) (hi lo v : Nat) : SetStands h (h.putF off hi lo v) := by
  refine .of_fields (fun o hrw => Hub.rd_putF_ne _ _ _ _ _ _ ?_) (by simp) (by simp) (by simp)
  rintro rfl
  exact hrw ho

theorem Hub.clearCounts_setStands (h : Hub) (hi lo : Nat) {offs : List Nat} (ho : ∀ o ∈ offs, rwMask o = 0) : SetStands h (h.clearCounts hi lo offs) :=
  List.foldlRecOn (motive := SetStands h) offs _ (.refl h) fun k hk o hmem => hk.trans (k.putF_setStands (ho o hmem) ..)

theorem rwMask_clamp : ∀ p < 32, rwMask (Reg.CAL_PIPEp_CLAMP p) = 0 := by decide +kernel

theorem rwMask_flowCounts : ∀ f < 32, ∀ o ∈ [Reg.ING_FSTf_DUP f, Reg.ING_FSTf_LATE f, Reg.ING_FSTf_OVR f, Reg.ING_FSTf_FMT f, Reg.ING_FSTf_DONE f,
    Reg.ING_FSTf_INC f], rwMask o = 0 := by decide +kernel

theorem rwMask_sacnCounts : ∀ o ∈ [Reg.ING_SACN_IGN, Reg.ING_SACN_OVR, Reg.ING_SACN_POOL, Reg.ING_SACN_SEQ, Reg.ING_SACN_ACC], rwMask o = 0 := by
  decide +kernel

theorem Hub.memClear_setStands (h : Hub) (v : Nat) : SetStands h (h.memClear v) := by
  have hclear (k : Hub) (b : Bool) (hi lo : Nat) {offs : List Nat} (ho : ∀ o ∈ offs, rwMask o = 0 := by decide +kernel) :
      SetStands k (if b then k.clearCounts hi lo offs else k) := .ite (k.clearCounts_setStands hi lo ho) (.refl k)
  unfold Hub.memClear
  exact .trans (.trans (.trans (.trans (.trans (.trans (.trans (hclear h ..) (hclear ..)) (hclear ..)) (hclear ..)) (hclear ..)) (hclear ..)) (hclear ..))
    (.modSaddle ..)

/-- A row of which a CLR bit is the whole of its WO fields, and a count the rest, has no RW field; and CAL_PIPEp_CTL has a register for each pipe. -/
theorem rows_cleared : ∀ d ∈ Reg.all, (d.wo = 2 ^ 31 → d.ro = 2 ^ 31 - 1 → d.rw = 0) ∧ (d.id = .CAL_PIPEp_CTL → d.count1 ≤ 32) := by decide +kernel

theorem RegDesc.inst_lt {d : RegDesc} {off i j : Nat} (h : d.inst off = some (i, j)) : i < d.count1 := by
  rw [RegDesc.inst, Option.ite_none_left_eq_some] at h
  obtain ⟨hin, he⟩ := Option.ite_none_right_eq_some.1 h.2
  obtain ⟨rfl, -⟩ := Prod.mk.inj (Option.some.inj he)
  simp only [Bool.and_eq_true, decide_eq_true_eq] at hin
  exact hin.1.1

theorem Hub.clearOnApply_setStands (h : Hub) (w : Nat × Nat) : SetStands h (h.clearOnApply w) := by
  unfold Hub.clearOnApply
  dsimp only
  split
  case h_1 => exact .refl h
  case h_2 d i j hat =>
    obtain ⟨hmem, hinst⟩ := mem_all_of_at hat
    obtain ⟨hcounts, hpipes⟩ := rows_cleared d hmem
    split
    case h_3 hid =>
      refine .ite (.of_fields (fun off ho => Hub.rd_wr_ne _ _ _ _ ?_) rfl rfl rfl) (.refl h)
      rintro rfl
      exact ho (rwMask_clamp i ((RegDesc.inst_lt hinst).trans_le (hpipes hid)))
    case h_4 => exact .ite (h.clearCounts_setStands _ _ rwMask_sacnCounts) (.refl h)
    case h_5 =>
      refine List.foldlRecOn (motive := SetStands h) _ _ (.refl h) fun k hk f hf => hk.trans (k.clearCounts_setStands _ _ (rwMask_flowCounts f ?_))
      exact List.mem_range.1 (List.mem_filter.1 hf).1
    case h_6 => exact Hub.memClear_setStands ..
    case h_8 =>
      split
      case isFalse => exact .refl h
      case isTrue hclr =>
        simp only [Bool.and_eq_true, beq_iff_eq] at hclr
        obtain ⟨⟨-, hwo⟩, hro⟩ := hclr
        refine h.putF_setStands ?_ ..
        rw [rwMask, hat]
        exact hcounts hwo hro
    all_goals exact .ite .of_same (.refl h)

/-! ## The writes of a set -/

/-- A register whose RW fields are those of a value. -/
def Hub.HoldsFields (h : Hub) (off v : Nat) : Prop := h.n off &&& rwMask off = v &&& rwMask off

theorem Hub.holdsFields_mergeRw (h : Hub) (off : Nat) {v : Nat} (hv : v < 2 ^ 32) :
    (h.wrN off (mergeRw (h.n off) v (rwMask off))).HoldsFields off v := by
  obtain ⟨-, hbits⟩ := fieldsWritten_mergeRw h off (rwMask off) v
  refine Nat.eq_of_testBit_eq fun k => ?_
  rw [Nat.testBit_and, Nat.testBit_and]
  by_cases hk : k < 32
  · rw [hbits k hk]
    cases (rwMask off).testBit k <;> simp
  · have hhigh {x : Nat} (hx : x < 2 ^ 32) : x.testBit k = false :=
      Nat.testBit_lt_two_pow (hx.trans_le (Nat.pow_le_pow_right (by decide) (Nat.le_of_not_lt hk)))
    rw [hhigh hv, Hub.n, hhigh (BitVec.isLt _)]

theorem Hub.HoldsFields.of_stands {h h' : Hub} {off v : Nat} (hf : h.HoldsFields off v) (hs : ∀ o, rwMask o ≠ 0 → h'.rd o = h.rd o) :
    h'.HoldsFields off v := by
  by_cases ho : rwMask off = 0
  · rw [Hub.HoldsFields, ho, Nat.and_zero, Nat.and_zero]
  · rwa [Hub.HoldsFields, Hub.n, hs off ho]

theorem Hub.mergeWrites_kept (h : Hub) (ws : List (Nat × Nat)) :
    (h.mergeWrites ws).commit = h.commit ∧ (h.mergeWrites ws).power = h.power := by
  have hk := foldl_kept (fun k : Hub => (k.commit, k.power))
    (f := fun h w => if h.baseStands w.1 then h else h.wrN w.1 (mergeRw (h.n w.1) w.2 (rwMask w.1))) (fun k w => by split <;> rfl) ws h
  rwa [Prod.mk.injEq] at hk

/-- Writes that agree on a register, and of which one goes to it, leave it with their fields. -/
theorem Hub.mergeWrites_holds {off v : Nat} (hv : v < 2 ^ 32) (ws : List (Nat × Nat)) (h : Hub) (hb : h.baseStands off = false)
    (hsame : ∀ w ∈ ws, w.1 = off → w.2 = v) (hone : (off, v) ∈ ws ∨ h.HoldsFields off v) : (h.mergeWrites ws).HoldsFields off v := by
  induction ws generalizing h with
  | nil => exact hone.resolve_left List.not_mem_nil
  | cons w ws ih =>
    rw [show h.mergeWrites (w :: ws) = (h.mergeWrites [w]).mergeWrites ws from rfl]
    refine ih _ ?_ (fun x hx => hsame x (List.mem_cons_of_mem w hx)) ?_
    · rw [Hub.baseStands, (h.mergeWrites_kept [w]).1]
      exact hb
    have hstep : h.mergeWrites [w] = if h.baseStands w.1 then h else h.wrN w.1 (mergeRw (h.n w.1) w.2 (rwMask w.1)) := rfl
    by_cases hw : w.1 = off
    · rw [hstep, hw, hb, if_neg Bool.false_ne_true, hsame w List.mem_cons_self hw]
      exact .inr (h.holdsFields_mergeRw off hv)
    · refine hone.imp (fun hmem => (List.mem_cons.1 hmem).resolve_left fun he => hw (congrArg Prod.fst he).symm) fun hf => ?_
      rw [hstep]
      split
      · exact hf
      · rwa [Hub.HoldsFields, Hub.n, Hub.rd_wrN, if_neg hw]

theorem Hub.mem_setOf {h : Hub} {w : Nat × Nat} : w ∈ h.setOf ↔ w.1 ∈ h.stagedOffs ∧ (h.stagedWrite w.1).getD 0 = w.2 := by
  simp only [Hub.setOf, List.mem_map, List.mem_mergeSort, Prod.ext_iff]
  exact ⟨by rintro ⟨off, hoff, rfl, hv⟩; exact ⟨hoff, hv⟩, fun ⟨hoff, hv⟩ => ⟨w.1, hoff, rfl, hv⟩⟩

theorem Hub.mem_stagedOffs {h : Hub} {off : Nat} : off ∈ h.stagedOffs ↔ ∃ w ∈ h.commit.stagedWrites, w.off = off := by simp [Hub.stagedOffs]

theorem Hub.mem_of_stagedWrite {h : Hub} {off v : Nat} (hs : h.stagedWrite off = some v) : ∃ w ∈ h.commit.stagedWrites, w.off = off ∧ w.value = v := by
  obtain ⟨w, hw, rfl⟩ := Option.map_eq_some_iff.1 hs
  exact ⟨w, List.mem_reverse.1 (List.mem_of_find?_eq_some hw), by simpa using List.find?_some hw, rfl⟩

/-! ## The set in force -/

theorem Hub.switchTables_commit {h k : Hub} (hc : k.commit = h.commit) : k.switchTables.commit = h.switchTables.commit := by
  simp only [Hub.switchTables, Hub.stagedIds, Hub.stagedTable, hc]

/-- The set with its writes and tables in force, and what its writes clear not yet clear. -/
def Hub.setMerged (h : Hub) : Hub := (h.mergeWrites h.heldSet).switchTables

theorem Hub.setMerged_cleared (h : Hub) : SetStands h.setMerged (h.heldSet.foldl Hub.clearOnApply h.setMerged) :=
  .foldl (fun k w => k.clearOnApply_setStands w) _ _

/-- The commit engine after a set: idle, the bank without what was staged, the tables in force, and the epoch given (R68, R82). -/
theorem Hub.setWritten_commit (h : Hub) : ∃ digest,
    h.setWritten.commit = { h.switchTables.commit.emptied with phase := .idle, owner := none, epoch := h.epochGiven, digest := digest } := by
  have hmerged : (h.heldSet.foldl Hub.clearOnApply h.setMerged).commit = h.switchTables.commit :=
    h.setMerged_cleared.commit.trans (Hub.switchTables_commit (h.mergeWrites_kept _).1)
  rw [← hmerged, Hub.setWritten]
  dsimp only
  split
  · exact ⟨_, rfl⟩
  · exact ⟨_, rfl⟩

/-- The registers and the power states of a set are those of its merged writes. -/
theorem Hub.setWritten_stands (h : Hub) :
    (∀ off, rwMask off ≠ 0 → h.setWritten.rd off = (h.mergeWrites h.heldSet).rd off) ∧ h.setWritten.power = h.power := by
  have hc := h.setMerged_cleared
  have hpower := hc.power.trans (h.mergeWrites_kept h.heldSet).2
  rw [Hub.setWritten]
  dsimp only
  split
  · exact ⟨hc.fields, hpower⟩
  · exact ⟨hc.fields, hpower⟩

/-! ## What follows -/

theorem Hub.worldChange_reports (h old : Hub) (g : Glob) : Reports h (h.worldChange g old) := by
  unfold Hub.worldChange
  split
  · exact .refl h
  · exact Hub.record_reports ..

section
variable (h h3 : Hub) (g : Glob) (m : Memory)

/-- The blocks, the completion and source 46, as far as the source. -/
def Hub.setCompletes : Hub :=
  let h4 := (h3.hooks g m h (h.heldSet.map (·.1)) h.stagedIds).modSaddle (fun x =>
    if h.asNoticed then { x with notice := none, cmtMuted := false } else x)
  match h.commit.owner with
  | some (q, tag) => h4.complete g q tag Status.ok (leBytes 4 h.epochGiven ++ padTo 8 h4.commit.digest)
  | none => h4

theorem Hub.setCompletes_setStands : SetStands h3 (h.setCompletes h3 g m) := by
  have hhooks := h3.hooks_setStands h g m (h.heldSet.map (·.1)) h.stagedIds
  unfold Hub.setCompletes
  dsimp only
  split
  · exact hhooks.trans (.trans (.modSaddle ..) (.complete ..))
  · exact hhooks.trans (.modSaddle ..)

/-- Source 46, and the records that follow it. -/
def Hub.setTells (h5 : Hub) : Hub :=
  let h6 := ((h5.raise g 46 h.epochGiven).worldChange g h).descWorlds g
  if h6.bit Reg.CRN_CTL 0 then
    h6.record g 0x0301 Block.cmt.unit h.epochGiven (leAt h6.commit.digest 0 4) (leAt h6.commit.digest 4 4) h.commit.kind
  else h6

theorem Hub.setActs_eq : h.setActs h3 g m = h.setTells g (h.setCompletes h3 g m) := rfl

theorem Hub.setTells_stands (h5 : Hub) : SetStands h5 (h.setTells g h5) ∧ (h.setTells g h5).pending 46 = true := by
  have hchange : Reports h5 ((h5.raise g 46 h.epochGiven).worldChange g h) := (Hub.raise_reports ..).trans (Hub.worldChange_reports ..)
  have hraised : (((h5.raise g 46 h.epochGiven).worldChange g h).descWorlds g).pending 46 = true :=
    (Hub.worldChange_reports ..).pending 46 (Hub.pending_raise _ _ _ _ (by decide))
  have hstands : SetStands h5 (((h5.raise g 46 h.epochGiven).worldChange g h).descWorlds g) := (SetStands.of_reports hchange).trans .of_same
  unfold Hub.setTells
  dsimp only
  split
  · exact ⟨hstands.trans (.of_reports (Hub.record_reports ..)), (Hub.record_reports ..).pending 46 hraised⟩
  · exact ⟨hstands, hraised⟩

theorem Hub.setActs_stands : SetStands h3 (h.setActs h3 g m) ∧ (h.setActs h3 g m).pending 46 = true := by
  obtain ⟨htells, hpending⟩ := h.setTells_stands g (h.setCompletes h3 g m)
  rw [Hub.setActs_eq]
  exact ⟨(h.setCompletes_setStands h3 g m).trans htells, hpending⟩

end

/-! ## The apply -/

section
variable {s : State}

theorem commitApply_before (hi : s.hub.instantCome s.hub.commit.instant = false) (hn : s.hub.saddle.notice = none) :
    exec (.commitApply []) s = .next s := by
  have happly : commitApply [] s = s := by
    rw [commitApply, applyWhere, Hub.noticeMutes_none hn, if_neg (by simp [hi]), State.reads_nil]
  exact congrArg _ happly

/-- Without class F writes, and with no domain waiting for the set, an apply is the effect of the set. -/
theorem setApplies_held (hfree : ∀ w ∈ s.hub.commit.stagedWrites, freeClass w.off = false) (hoff : s.hub.power.offPending = []) :
    setApplies [] s = { s with hub := s.hub.setActs (s.hub.setWritten.viewTables s.mem) s.glob s.mem } := by
  have hnone (p : Nat × Nat → Bool) : s.hub.setOf.filter (fun w => freeClass w.1 && p w) = [] := by
    refine List.filter_eq_nil_iff.2 fun w hw => ?_
    obtain ⟨x, hx, hxw⟩ := Hub.mem_stagedOffs.1 (Hub.mem_setOf.1 hw).1
    rw [← hxw, hfree x hx, Bool.false_and]
    exact Bool.false_ne_true
  have heffect : setTakesEffect [] s = { s with hub := s.hub.setActs (s.hub.setWritten.viewTables s.mem) s.glob s.mem } := rfl
  have hpower : (s.hub.setActs (s.hub.setWritten.viewTables s.mem) s.glob s.mem).power.offPending = [] := by
    rw [(s.hub.setActs_stands _ s.glob s.mem).1.power, show (s.hub.setWritten.viewTables s.mem).power = s.hub.setWritten.power from rfl,
      s.hub.setWritten_stands.2, hoff]
  rw [setApplies, hnone, hnone, applyFree, applyFree, List.foldl_nil, List.foldl_nil, heffect, offPendingRun]
  dsimp only
  rw [hpower, List.foldl_nil]

theorem commitApply_at (hphase : s.hub.commit.phase = .pending) (hi : s.hub.instantCome s.hub.commit.instant = true) (hn : s.hub.saddle.notice = none)
    (hoff : s.hub.power.offPending = []) (hfree : ∀ w ∈ s.hub.commit.stagedWrites, freeClass w.off = false) :
    exec (.commitApply []) s = .next { s with hub := s.hub.setActs (s.hub.setWritten.viewTables s.mem) s.glob s.mem } := by
  refine congrArg _ (show commitApply [] s = _ from ?_)
  rw [commitApply, applyWhere, Hub.noticeMutes_none hn, if_pos ⟨hphase, hi⟩, setApplies_held hfree hoff]

theorem Hub.setWritten_holds {h : Hub} (hw : ∀ w ∈ h.commit.stagedWrites, freeClass w.off = false ∧ w.value < 2 ^ 32) {off v : Nat}
    (hb : h.baseStands off = false) (hs : h.stagedWrite off = some v) : h.setWritten.HoldsFields off v := by
  obtain ⟨w, hmem, rfl, rfl⟩ := Hub.mem_of_stagedWrite hs
  obtain ⟨hclass, hv⟩ := hw w hmem
  have hin : (w.off, w.value) ∈ h.heldSet :=
    List.mem_filter.2 ⟨Hub.mem_setOf.2 ⟨Hub.mem_stagedOffs.2 ⟨w, hmem, rfl⟩, by simp [hs]⟩, by simp [hclass]⟩
  have hsame : ∀ x ∈ h.heldSet, x.1 = w.off → x.2 = w.value := fun x hx hxo => by
    obtain ⟨-, hval⟩ := Hub.mem_setOf.1 (List.mem_filter.1 hx).1
    rw [← hval, hxo, hs, Option.getD_some]
  exact (Hub.mergeWrites_holds hv _ _ hb hsame (.inl hin)).of_stands h.setWritten_stands.1

theorem Hub.mem_switchTables {h : Hub} {id : Nat} (hid : id ∈ h.stagedIds) (hne : h.stagedTable id ≠ []) :
    { id := id, bytes := h.stagedTable id } ∈ h.switchTables.commit.inForce :=
  List.mem_append_right _ (List.mem_map.2 ⟨id, List.mem_filter.2 ⟨hid, by simpa using hne⟩, rfl⟩)

theorem Hub.epochGiven_next {h : Hub} (hn : h.saddle.notice = none) : h.epochGiven = nextEpoch h.commit.epoch := by
  rw [Hub.epochGiven, Hub.asNoticed, hn, Option.any_none, Bool.and_false, if_neg Bool.false_ne_true]

end

/-- Settles O20: the writes and tables of the set stand, and no block that acts on them afterwards touches them. -/
theorem pendingSetTakesEffectWhole : Obligations.PendingSetTakesEffectWhole := by
  refine fun s hphase => ⟨commitApply_before, fun hi hn hoff hw => ?_⟩
  obtain ⟨hstands, hpending⟩ := s.hub.setActs_stands (s.hub.setWritten.viewTables s.mem) s.glob s.mem
  obtain ⟨digest, hcommit⟩ := s.hub.setWritten_commit
  have hview : (s.hub.setWritten.viewTables s.mem).commit = { s.hub.setWritten.commit with seen := (s.hub.setWritten.viewTables s.mem).commit.seen } := rfl
  refine ⟨_, commitApply_at hphase hi hn hoff fun w hmem => (hw w hmem).1, ⟨rfl, rfl, rfl⟩, fun off v hb hs => ?_, fun id hid hne => ?_, ?_, ?_, ?_, ?_, ?_,
    hpending⟩
  · exact (Hub.setWritten_holds hw hb hs).of_stands hstands.fields
  · rw [hstands.commit, hview, hcommit]
    exact Hub.mem_switchTables hid hne
  · rw [hstands.commit, hview, hcommit]
  · rw [hstands.commit, hview, hcommit]
  · rw [hstands.commit, hview, hcommit]
    rfl
  · rw [hstands.commit, hview, hcommit]
    rfl
  · rw [hstands.commit, hview, hcommit]
    exact Hub.epochGiven_next hn

end Sys2Proof.Machine
end

section
/-! Timed outputs (R90, R109 to R111): the copies of the bases, what a compare unit drives when it fires, and the edges of an output. -/

namespace Sys2Proof.Machine

-- As in the tests, one proof at a time: proofs that wait for one another each take a thread of the compile, whose memory is limited.
set_option Elab.async false

/-! ## Copies of the bases -/

/-- An array filled key by key holds at each key that was filled the value of that key. -/
theorem Sparse.get_foldl_set {α : Type} [DecidableEq α] (d : α) (v : Nat → α) (l : List Nat) (m : Sparse α) (j : Nat) :
    Sparse.get d (l.foldl (fun m k => Sparse.set d m k (v k)) m) j = if j ∈ l then v j else Sparse.get d m j := by
  induction l generalizing m with
  | nil => simp
  | cons k l ih =>
    rw [List.foldl_cons, ih, Sparse.get_set]
    by_cases hl : j ∈ l
    · simp [hl]
    · rcases eq_or_ne k j with rfl | hk
      · simp
      · simp [hl, hk, hk.symm]

theorem Hub.ppsSnapshot_snap (h : Hub) {t : Nat} (ht : t < 4) : Sparse.get 0 h.ppsSnapshot.time.snap t = h.now48 t := by
  rw [show h.ppsSnapshot.time.snap = (List.range 4).foldl (fun m t => Sparse.set 0 m t (h.now48 t)) [] from rfl,
    Sparse.get_foldl_set 0 h.now48, if_pos (List.mem_range.2 ht)]

/-! ## Pins that go active -/

theorem Hub.pinState_emit (h : Hub) (o : Out) (p : Nat) : (h.emit o).pinState p = h.pinState p := rfl

theorem Hub.pinState_activate (h : Hub) (p at48 j : Nat) :
    (h.activate p at48).pinState j = if p = j then
      { h.pinState p with drive := some (h.pinActive p), active := true, ends := h.placed p at48 + h.pulse48 p } else h.pinState j := by
  rw [Hub.activate, Hub.pinState_emit, Hub.pinState_setPin]

theorem Hub.cmp_activate (h : Hub) (p at48 c : Nat) : (h.activate p at48).cmp c = h.cmp c := rfl

theorem Hub.pinActive_of_regs {h h' : Hub} (hr : h'.regs = h.regs) (p : Nat) : h'.pinActive p = h.pinActive p := by
  rw [Hub.pinActive, Hub.pinActive, Hub.bit_of_rd h h' _ _ (Hub.rd_of_regs h h' hr _)]

/-- After pins have gone active one by one, each of them drives its active level, and no other pin and no compare unit has changed. -/
theorem Hub.foldl_activate (at48 : Hub → Nat → Nat) (ps : List Nat) (h : Hub) :
    (ps.foldl (fun h p => h.activate p (at48 h p)) h).regs = h.regs ∧
    (∀ c, (ps.foldl (fun h p => h.activate p (at48 h p)) h).cmp c = h.cmp c) ∧
    (∀ p ∈ ps, ((ps.foldl (fun h p => h.activate p (at48 h p)) h).pinState p).drive = some (h.pinActive p) ∧
      ((ps.foldl (fun h p => h.activate p (at48 h p)) h).pinState p).active = true) ∧
    ∀ p, p ∉ ps → (ps.foldl (fun h p => h.activate p (at48 h p)) h).pinState p = h.pinState p := by
  induction ps generalizing h with
  | nil => simp
  | cons q ps ih =>
    obtain ⟨hregs, hcmp, hin, hout⟩ := ih (h.activate q (at48 h q))
    have hact : (h.activate q (at48 h q)).regs = h.regs := (h.activate_frame q _).1
    rw [List.foldl_cons]
    refine ⟨hregs.trans hact, fun c => (hcmp c).trans (h.cmp_activate q _ c), fun p hp => ?_, fun p hp => ?_⟩
    · by_cases hps : p ∈ ps
      · rw [(hin p hps).1, (hin p hps).2, Hub.pinActive_of_regs hact]
        exact ⟨rfl, rfl⟩
      · obtain rfl : p = q := (List.mem_cons.1 hp).resolve_right hps
        rw [hout p hps, Hub.pinState_activate, if_pos rfl]
        exact ⟨rfl, rfl⟩
    · obtain ⟨hq, hps⟩ := not_or.1 (fun hc => hp (List.mem_cons.2 hc))
      rw [hout p hps, Hub.pinState_activate, if_neg (Ne.symm hq)]

/-! ## A compare unit reaches its time -/

/-- A unit that no FUNC 3 pin names fires on its own base. -/
theorem Hub.cmpBase_own {h : Hub} {c : Nat} (hs : h.seqUnit c = false) : h.cmpBase c = h.cmpTb c := by
  have hnone : (List.range 8).find? (fun p => h.pinFunc p == 3 && h.pinCmp p == c) = none :=
    List.find?_eq_none.2 fun p hp => by simpa using List.any_eq_false.1 hs p hp
  rw [Hub.cmpBase, hnone]

/-- A base has one of the sources 36 to 39. -/
theorem source_of_base {t : Nat} (ht : t < 4) : sourceReserved (36 + t) = false := by
  simp only [sourceReserved, Bool.or_eq_false_iff, beq_eq_false_iff_ne, decide_eq_false_iff_not]
  omega

theorem Hub.cmpTb_lt (h : Hub) (c : Nat) : h.cmpTb c < 4 := Nat.mod_lt _ (by norm_num)

/-- The unit as it fires: FIRED is set, and a periodic one takes its next multiple. -/
def Hub.fires (h : Hub) (c n : Nat) : Hub :=
  h.setCmp c { h.cmp c with fired := true, next := if h.n (Reg.TIM_CMPc_PERIOD c) = 0 then none else some (n + h.n (Reg.TIM_CMPc_PERIOD c) * 2 ^ 48) }

/-- The hub with the pins of a unit active, each for the unit's time in the base of the pin. -/
def Hub.drivesPins (h : Hub) (c n : Nat) (ps : List Nat) : Hub := ps.foldl (fun h p => h.activate p (h.pinTime p c n)) h

theorem Hub.compareFire_own {h : Hub} {c n : Nat} (hn : (h.cmp c).next = some n) (hs : h.seqUnit c = false) (g : Glob) :
    ∃ detail, h.compareFire g c = (((h.fires c n).drivesPins c n (h.cmpPins c)).drew 1).raise g (36 + h.f (Reg.TIM_CMPc_CTL c) 2 1) detail := by
  have hzero : h.cmpPeriod c = 0 ↔ h.n (Reg.TIM_CMPc_PERIOD c) = 0 := by simp [Hub.cmpPeriod, ns48]
  rw [Hub.compareFire, hn, Hub.cmpBase_own hs]
  simp only [hs, Bool.or_false, decide_eq_true_eq, hzero]
  exact ⟨_, rfl⟩

theorem compareFire_fires {s : State} {c n : Nat} (hn : (s.hub.cmp c).next = some n) (hs : s.hub.seqUnit c = false) :
    ∃ u, exec (.compareFire c) s = .next u ∧ HubOnly s u ∧ RegsKeptBut pendRegs s.hub u.hub ∧
      u.hub.pending (36 + s.hub.f (Reg.TIM_CMPc_CTL c) 2 1) = true ∧
      u.hub.cmp c = { s.hub.cmp c with
        fired := true
        next := if s.hub.n (Reg.TIM_CMPc_PERIOD c) = 0 then none else some (n + s.hub.n (Reg.TIM_CMPc_PERIOD c) * 2 ^ 48) } ∧
      (∀ p ∈ s.hub.cmpPins c, (u.hub.pinState p).drive = some (s.hub.pinActive p) ∧ (u.hub.pinState p).active = true) ∧
      (∀ p, p ∉ s.hub.cmpPins c → u.hub.pinState p = s.hub.pinState p) := by
  obtain ⟨detail, hfire⟩ := Hub.compareFire_own hn hs s.glob
  obtain ⟨hregs, hcmp, hin, hout⟩ := Hub.foldl_activate (fun h p => h.pinTime p c n) (s.hub.cmpPins c) (s.hub.fires c n)
  have hexec : exec (.compareFire c) s = .next { s with hub := s.hub.compareFire s.glob c } := rfl
  refine ⟨_, hexec, ⟨rfl, rfl, rfl⟩, ?_⟩
  dsimp only
  rw [hfire]
  have htime := (Hub.raise_frame (((s.hub.fires c n).drivesPins c n (s.hub.cmpPins c)).drew 1) s.glob (36 + s.hub.f (Reg.TIM_CMPc_CTL c) 2 1) detail).2.2.2.2.1
  refine ⟨fun off ho => ?_, Hub.pending_raise _ _ _ _ (source_of_base (s.hub.cmpTb_lt c)), ?_, ?_, ?_⟩
  · rw [Hub.rd_raise _ _ _ _ _ ho]
    exact Hub.rd_of_regs _ _ hregs off
  · rw [Hub.cmp, htime]
    exact (hcmp c).trans ((Hub.cmp_setCmp ..).trans (if_pos rfl))
  · intro p hp
    rw [Hub.pinState, htime]
    exact hin p hp
  · intro p hp
    rw [Hub.pinState, htime]
    exact hout p hp

/-! ## The obligation -/

/-- Settles O25: a firing is the unit's own update, then its pins one by one, then the source of its base. -/
theorem timedOutputsFollowTheirBase : Obligations.TimedOutputsFollowTheirBase := by
  refine fun s => ⟨?_, fun c n hn hs => compareFire_fires hn hs, fun p edge hp hedge => ?_, fun p hp => ?_⟩
  · exact ⟨_, rfl, ⟨rfl, rfl, rfl⟩, fun _ _ => rfl, rfl, fun t ht => s.hub.ppsSnapshot_snap ht⟩
  · have hout : s.hub.ppsOutput p = s.hub.activate p (s.hub.now48 (s.hub.pinTb p) / sec48 * sec48) := if_pos hp
    subst hedge
    exact congrArg (fun h => Host.Outcome.next { s with hub := h }) hout
  · have hend : s.hub.tioPulseEnd p = s.hub.drive p (some (!s.hub.pinActive p)) (s.hub.pinState p).ends := if_pos hp
    exact congrArg (fun h => Host.Outcome.next { s with hub := h }) hend

end Sys2Proof.Machine
end

section
/-! Steps of a base (R89, R98, R99): what a step sets off beside the base itself, and TIME_SET and TIME_ACCEPT_JUMP. -/

namespace Sys2Proof.Machine

-- As in the tests, one proof at a time: proofs that wait for one another each take a thread of the compile, whose memory is limited.
set_option Elab.async false

/-! ## Completions after what reports -/

/-- What answers a descriptor answers it of every hub with its descriptors and, but for the pending ones, its registers. -/
theorem Answered.of_sqs {q tag status : Nat} {result : List Byte} {h h1 h2 : Hub} (ha : Answered q tag status result h1 h2)
    (hs : h1.rings.sqs = h.rings.sqs) (hr : RegsKeptBut pendRegs h h1) : Answered q tag status result h h2 := by
  obtain ⟨d, hd, hleft, hout⟩ := ha
  have hsq (n : Nat) : h1.sq n = h.sq n := by rw [Hub.sq, hs]; rfl
  have hrd {off : Nat} (ho : 0x30210 ≤ off) : h1.rd off = h.rd off := hr off (not_mem_pendRegs ho)
  have hn {off : Nat} (ho : 0x30210 ≤ off) : h1.n off = h.n off := congrArg BitVec.toNat (hrd ho)
  refine ⟨d, ?_, ?_, fun hsilent hcq => ?_⟩
  · rw [← hd, Hub.desc, Hub.desc, hsq]
  · rw [hleft, hsq]
  · obtain ⟨slot, c, ho, hc⟩ := hout hsilent ((Hub.bit_of_rd h h1 _ 0 (hrd (by simp only [Reg.CQn_CTL]; omega))).trans hcq)
    rw [Hub.ringAddr, hn (by simp only [Reg.CQn_BASE_LO]; omega), hn (by simp only [Reg.CQn_BASE_HI]; omega)] at ho
    exact ⟨slot, c, ho, hc⟩

/-! ## What a step sets off -/

/-- The bases, what their measurements have to tell and the descriptors are as they were, and so are the measurement run and the registers but for sources that are
raised. -/
structure BasesKept (h h' : Hub) : Prop where
  base    : ∀ t, h'.base t = h.base t
  told    : h'.time.told = h.time.told
  cal     : h'.cal = h.cal
  sqs     : h'.rings.sqs = h.rings.sqs
  regs    : RegsKeptBut pendRegs h h'
  pending : ∀ src, h.pending src = true → h'.pending src = true

namespace BasesKept

variable {a b c : Hub}

theorem refl (h : Hub) : BasesKept h h := ⟨fun _ => rfl, rfl, rfl, rfl, fun _ _ => rfl, fun _ hp => hp⟩

theorem trans (h1 : BasesKept a b) (h2 : BasesKept b c) : BasesKept a c :=
  ⟨fun t => (h2.base t).trans (h1.base t), h2.told.trans h1.told, h2.cal.trans h1.cal, h2.sqs.trans h1.sqs, fun off ho => (h2.regs off ho).trans (h1.regs off ho),
    fun src hp => h2.pending src (h1.pending src hp)⟩

theorem of_same (hb : b.time.bases = a.time.bases := by rfl) (ht : b.time.told = a.time.told := by rfl) (hc : b.cal = a.cal := by rfl)
    (hs : b.rings.sqs = a.rings.sqs := by rfl) (hr : b.regs = a.regs := by rfl) : BasesKept a b :=
  ⟨fun t => by rw [Hub.base, Hub.base, hb], ht, hc, hs, fun off _ => Hub.rd_of_regs a b hr off, fun src hp => (Hub.pending_of_regs a b hr src).trans hp⟩

/-- A report that takes no descriptor from its ring. -/
theorem of_reports (hr : Reports a b) (hs : b.rings.sqs = a.rings.sqs) : BasesKept a b :=
  ⟨fun t => (congrArg (Hub.base · t) hr.shape :), (congrArg (fun h => h.time.told) hr.shape :), (congrArg Hub.cal hr.shape :), hs, hr.regs, hr.pending⟩

theorem raise (h : Hub) (g : Glob) (src d : Nat) : BasesKept h (h.raise g src d) :=
  of_reports (Hub.raise_reports ..) (congrArg Rings.sqs (Hub.raise_rings h g src d) :)

theorem ite {p : Prop} [Decidable p] (hb : BasesKept a b) (hc : BasesKept a c) : BasesKept a (if p then b else c) := by
  split <;> assumption

theorem foldl {α : Type} {f : Hub → α → Hub} (hf : ∀ k x, BasesKept k (f k x)) (xs : List α) (h : Hub) : BasesKept h (xs.foldl f h) :=
  List.foldlRecOn (motive := BasesKept h) xs f (.refl h) fun k hk x _ => hk.trans (hf k x)

/-- A base is replaced alike before and after. -/
theorem setBase (hk : BasesKept a b) (t : Nat) (x : TimeBase) : BasesKept (a.setBase t x) (b.setBase t x) :=
  ⟨fun j => by rw [Hub.base_setBase, Hub.base_setBase, hk.base], hk.told, hk.cal, hk.sqs, hk.regs, hk.pending⟩

/-- Of two values set the later stands. -/
theorem resetBase {t : Nat} {x : TimeBase} (hk : BasesKept (a.setBase t x) b) (y : TimeBase) : BasesKept (a.setBase t y) (b.setBase t y) := by
  have hy := hk.setBase t y
  have hset : (a.setBase t x).setBase t y = a.setBase t y :=
    congrArg (fun m => { a with time := { a.time with bases := m } }) (Sparse.set_set ..)
  rwa [hset] at hy

/-- A base replaced by itself. -/
theorem setBase_self (h : Hub) (t : Nat) : BasesKept (h.setBase t (h.base t)) h :=
  ⟨fun j => by rw [Hub.base_setBase]; split <;> simp_all, rfl, rfl, rfl, fun _ _ => rfl, fun _ hp => hp⟩

end BasesKept

section
variable (h : Hub) (g : Glob)

theorem Hub.cmpLate_basesKept (c : Nat) : BasesKept h (h.cmpLate g c) := .trans .of_same (.raise ..)

theorem Hub.cmpStep_basesKept (old c : Nat) : BasesKept h (h.cmpStep g old c) := by
  unfold Hub.cmpStep
  refine .ite (.refl h) (.ite (.refl h) ?_)
  split
  · exact .refl h
  · exact .ite (.trans .of_same (Hub.cmpLate_basesKept ..)) .of_same

theorem Hub.radioStep_basesKept (d : Int) (r : Nat) : BasesKept h (h.radioStep d r) := .ite (.refl h) (.ite .of_same .of_same)

theorem Hub.msrEnd_idle (hr : h.cal.msr.phase = .idle) (status : Nat) : h.msrEnd g status = h := if_pos hr

/-- The hub after a step of a base, but for the end of a measurement run. -/
def Hub.stepped (t new48 : Nat) : Hub :=
  let d : Int := (new48 : Int) - (h.now48 t : Int)
  let h1 := h.setBase t { h.base t with t48 := wrap48 new48 }
  let h2 := (h.groupsOnBase t).foldl (fun h i => h.groupStep d i) h1
  let h3 := (h.cmpsOn t).foldl (fun k c => k.cmpStep g (h.now48 t) c) h2
  let h4 := ((List.range 2).filter (fun r => h.f (Reg.ODLr_CTL r) 2 1 == t)).foldl (fun h r => h.radioStep d r) h3
  ((List.range 8).filter (fun p => h.pinTb p == t && (h.pinState p).active)).foldl
    (fun h p => h.setPin p { h.pinState p with ends := addTime (h.pinState p).ends d })
    ((h.portsOnBase t).foldl (fun h n => h.modPort n (fun p => { p with timeDue := true })) h4)

theorem Hub.stepBase_locked (hl : h.power.rootLock = true) (t new48 : Nat) :
    h.stepBase g t new48 =
      if h.groupTb h.cal.msr.pg = t then (h.stepped g t new48).msrEnd g Status.aborted else h.stepped g t new48 := by
  rw [Hub.stepBase, hl]
  rfl

theorem Hub.stepped_basesKept (t new48 : Nat) : BasesKept (h.setBase t { h.base t with t48 := wrap48 new48 }) (h.stepped g t new48) :=
  (BasesKept.foldl (fun _ _ => .of_same) _ _).trans <| (BasesKept.foldl (fun k c => k.cmpStep_basesKept g _ c) _ _).trans <|
    (BasesKept.foldl (fun k r => k.radioStep_basesKept _ r) _ _).trans <| (BasesKept.foldl (fun _ _ => .of_same) _ _).trans <|
      BasesKept.foldl (fun _ _ => .of_same) _ _

/-- A base steps while its clock runs and no measurement run is under way (R89). -/
theorem Hub.stepBase_basesKept (hl : h.power.rootLock = true) (hr : h.cal.msr.phase = .idle) (t new48 : Nat) :
    BasesKept (h.setBase t { h.base t with t48 := wrap48 new48 }) (h.stepBase g t new48) := by
  have hk := h.stepped_basesKept g t new48
  rw [Hub.stepBase_locked h g hl, Hub.msrEnd_idle _ g (by rw [hk.cal]; exact hr), ite_self]
  exact hk

/-- A record that is produced takes no descriptor from its ring. -/
theorem Hub.record_basesKept (code source p0 p1 p2 p3 : Nat) : BasesKept h (h.record g code source p0 p1 p2 p3) := by
  refine .of_reports (Hub.record_reports ..) ?_
  unfold Hub.record Hub.queueRecord Hub.writeRecord
  split
  · rfl
  · split
    · rfl
    · exact (BasesKept.raise _ g _ _).sqs

theorem Hub.tbEvent_basesKept (t ev : Nat) : BasesKept h (h.tbEvent g t ev) := .raise ..

end

theorem wrap48_of_lt {t : Nat} (ht : t < 2 ^ 48 * sec48) : wrap48 t = t := Nat.mod_eq_of_lt ht

theorem wrap48_addTime (t : Nat) (d : Int) : wrap48 (addTime t d) = addTime t d := Nat.mod_mod _ _

theorem time48_lt {sec ns frac : Nat} (hs : sec < 2 ^ 48) (hn : ns < 1000000000) (hf : frac < 2 ^ 16) : time48 sec ns frac < 2 ^ 48 * sec48 := by
  simp only [time48, sec48, ns48]
  omega

/-- The time that a TIME_SET names is one that a base holds. -/
theorem Desc.time48_lt (d : Desc) {off : Nat} (hn : d.op (off + 6) 4 < 1000000000) :
    time48 (d.op off 6) (d.op (off + 6) 4) (d.op (off + 10) 2) < 2 ^ 48 * sec48 :=
  Machine.time48_lt (leAt_lt d.bytes off 6) hn (leAt_lt d.bytes (off + 10) 2)

/-! ## QUALITY -/

/-- QUALITY changes nothing else of its base, and raises its source. -/
theorem Hub.updateQuality_eq (h : Hub) (g : Glob) (t : Nat) :
    ∃ quality, BasesKept (h.setBase t { h.base t with quality := quality }) (h.updateQuality g t) := by
  unfold Hub.updateQuality
  split
  · exact ⟨(h.base t).quality, .setBase_self h t⟩
  · exact ⟨h.qualityOf t, .raise ..⟩

/-- A base that is set alike, and then its QUALITY. -/
theorem BasesKept.updateQuality {h k : Hub} {t : Nat} {b : TimeBase} (hk : BasesKept (h.setBase t b) k) (g : Glob) :
    ∃ quality, BasesKept (h.setBase t { b with quality := quality }) (k.updateQuality g t) ∧
      ∀ src, k.pending src = true → (k.updateQuality g t).pending src = true := by
  obtain ⟨quality, hq⟩ := k.updateQuality_eq g t
  have hb : k.base t = b := (hk.base t).trans ((Hub.base_setBase ..).trans (if_pos rfl))
  rw [hb] at hq
  exact ⟨quality, (hk.resetBase _).trans hq, hq.pending⟩

/-! ## A step of a base -/

/-- A base steps to a value, and is then what `f` makes of it. -/
theorem Hub.stepBase_then {h : Hub} (g : Glob) (hl : h.power.rootLock = true) (hr : h.cal.msr.phase = .idle) (t new48 : Nat) (f : TimeBase → TimeBase) :
    BasesKept (h.setBase t (f { h.base t with t48 := wrap48 new48 }))
      ((h.stepBase g t new48).setBase t (f ((h.stepBase g t new48).base t))) := by
  have hk := h.stepBase_basesKept g hl hr t new48
  have hb : (h.stepBase g t new48).base t = { h.base t with t48 := wrap48 new48 } := (hk.base t).trans ((Hub.base_setBase ..).trans (if_pos rfl))
  rw [hb]
  exact hk.resetBase _

/-- A descriptor that completes after a base has stepped: it is answered, and the base has its new value. -/
theorem stepped_complete {s : State} {t q tag : Nat} {d : Desc} {b : TimeBase} {k : Hub} (hk : BasesKept (s.hub.setBase t b) k)
    (hp : k.pending (36 + t) = true) (hf : b.freq = (s.hub.base t).freq) (hd : s.hub.desc q tag = some d) (status : Nat) (result : List Byte) :
    Stepped t b.t48 s { s with hub := k.complete s.glob q tag status result } ∧ (k.complete s.glob q tag status result).base t = b ∧
      Answered q tag status result s.hub (k.complete s.glob q tag status result) := by
  have hr := Hub.complete_reports k s.glob q tag status result
  have hbase (j : Nat) : (k.complete s.glob q tag status result).base j = if t = j then b else s.hub.base j :=
    (congrArg (Hub.base · j) hr.shape :).trans ((hk.base j).trans (Hub.base_setBase ..))
  have hdesc : k.desc q tag = some d := by
    rw [← hd, Hub.desc, Hub.desc, Hub.sq, Hub.sq, hk.sqs]
    rfl
  refine ⟨⟨?_, ?_, fun j hj => ?_, hr.pending _ hp, fun off ho => (hr.regs off ho).trans (hk.regs off ho)⟩, ?_,
    (Hub.complete_answered k s.glob q tag status result d hdesc).of_sqs hk.sqs hk.regs⟩
  · rw [Hub.now48, hbase, if_pos rfl]
  · rw [hbase, if_pos rfl, hf]
  · rw [Hub.now48, hbase, if_neg (Ne.symm hj), Hub.now48]
  · rw [hbase, if_pos rfl]

/-! ## TIME_SET -/

theorem exec_timeSet (q tag : Nat) (s : State) : exec (.timeSet q tag) s = .next { s with hub := s.hub.timeSet s.glob q tag } := rfl

theorem Hub.unmeasured_of_none {h : Hub} {t : Nat} (hs : h.saved t = none) : h.unmeasured t = h := by rw [Hub.unmeasured, hs]

theorem TimeBase.afterSet_kept (b : TimeBase) (clock : Nat) :
    (b.afterSet clock).t48 = b.t48 ∧ (b.afterSet clock).freq = b.freq ∧
      (b.afterSet clock).state = (match b.state with | .acquire | .jumpHeld => .locked | x => x) := by
  unfold TimeBase.afterSet
  cases hb : b.state <;> simp [hb]

/-- What a TIME_SET leaves of its base (R98, R100), but for QUALITY. -/
def TimeBase.set (b : TimeBase) (new clock : Nat) : TimeBase := (({ b with t48 := wrap48 new } : TimeBase).afterSet clock).jumped clock

/-- The hub of a TIME_SET before it completes: its base has stepped, and a record and its events tell of it. -/
def Hub.setsTime (h : Hub) (g : Glob) (t new p0 p1 : Nat) : Hub :=
  let h1 := h.stepBase g t new
  let h2 := h1.setBase t (((h1.base t).afterSet h.clock).jumped h.clock)
  let h4 := (h2.record g 0x0602 0x75 t p0 p1 (h.stateCode t)).tbEvent g t 5
  (if h.stateCode t = 1 || h.stateCode t = 4 then h4.tbEvent g t 1 else h4).updateQuality g t

theorem Hub.setsTime_basesKept {h : Hub} (g : Glob) (hl : h.power.rootLock = true) (hr : h.cal.msr.phase = .idle) {t : Nat} (ht : t < 4) (new p0 p1 : Nat) :
    ∃ quality, BasesKept (h.setBase t { (h.base t).set new h.clock with quality := quality }) (h.setsTime g t new p0 p1) ∧
      (h.setsTime g t new p0 p1).pending (36 + t) = true := by
  have hstep := Hub.stepBase_then g hl hr t new fun b => (b.afterSet h.clock).jumped h.clock
  have hrecord := hstep.trans (Hub.record_basesKept _ g 0x0602 0x75 t p0 p1 (h.stateCode t))
  have hlast (k : Hub) : BasesKept k (if h.stateCode t = 1 || h.stateCode t = 4 then k.tbEvent g t 1 else k) :=
    .ite (Hub.tbEvent_basesKept k g t 1) (.refl k)
  obtain ⟨quality, hq, hp⟩ := (hrecord.trans ((Hub.tbEvent_basesKept _ g t 5).trans (hlast _))).updateQuality g
  exact ⟨quality, hq, hp _ ((hlast _).pending _ (Hub.pending_raise _ _ _ _ (source_of_base ht)))⟩

section
variable {s : State} {q tag t : Nat} {d : Desc}

theorem timeSet_steps (hrun : NoRun s) (ht : t < 4) (hserves : s.hub.serving .tim = true) (hl : s.hub.power.rootLock = true) (hs : s.hub.saved t = none)
    (hf : Fetched s q tag 0x60 d) (hop : d.op 16 1 = t) (hns : d.op 30 4 < 1000000000) (hd : (s.hub.base t).deferred = none)
    (hflip : s.hub.flipAfter t (time48 (d.op 24 6) (d.op 30 4) (d.op 34 2)) = false) :
    ∃ u, exec (.timeSet q tag) s = .next u ∧ HubOnly s u ∧ Stepped t (time48 (d.op 24 6) (d.op 30 4) (d.op 34 2)) s u ∧
      Answered q tag Status.ok [] s.hub u.hub ∧
      (u.hub.base t).state = (match (s.hub.base t).state with | .acquire | .jumpHeld => .locked | x => x) := by
  obtain ⟨quality, hk, hp⟩ := Hub.setsTime_basesKept s.glob hl hrun ht (time48 (d.op 24 6) (d.op 30 4) (d.op 34 2)) (d.op 24 6) (d.op 30 4)
  obtain ⟨hvalue, hfreq, hstate⟩ := TimeBase.afterSet_kept
    { s.hub.base t with t48 := wrap48 (time48 (d.op 24 6) (d.op 30 4) (d.op 34 2)) } s.hub.clock
  obtain ⟨hstepped, hbase, ha⟩ := stepped_complete hk hp hfreq hf.1 Status.ok []
  have hsets : s.hub.timeSet s.glob q tag =
      (s.hub.setsTime s.glob t (time48 (d.op 24 6) (d.op 30 4) (d.op 34 2)) (d.op 24 6) (d.op 30 4)).complete s.glob q tag Status.ok [] := by
    rw [Hub.timeSet, hf.servedBy hserves]
    dsimp only
    rw [hop, if_neg (by omega), hd, Option.isSome_none, if_neg Bool.false_ne_true, hflip, if_neg Bool.false_ne_true, Hub.unmeasured_of_none hs]
    rfl
  refine ⟨_, exec_timeSet q tag s, ⟨rfl, rfl, rfl⟩, ?_⟩
  rw [hsets]
  refine ⟨?_, ha, (congrArg TimeBase.state hbase).trans hstate⟩
  rwa [show ({ (s.hub.base t).set _ s.hub.clock with quality := quality } : TimeBase).t48 = _ from
    hvalue.trans (wrap48_of_lt (d.time48_lt hns))] at hstepped

/-- A TIME_SET that does not step completes with its status. -/
theorem timeSet_refused (hserves : s.hub.serving .tim = true) (hf : Fetched s q tag 0x60 d) {status : Nat}
    (hstatus : (if 1000000000 ≤ d.op 30 4 then some Status.invalid else if (s.hub.base (d.op 16 1)).deferred.isSome then some Status.busy
      else if s.hub.flipAfter (d.op 16 1) (time48 (d.op 24 6) (d.op 30 4) (d.op 34 2)) then some Status.late else none) = some status) :
    BecomesAnswering (.timeSet q tag) s s.hub q tag status [] := by
  refine becomesAnswering_complete hf.1 rfl rfl ((exec_timeSet q tag s).trans ?_)
  rw [Hub.timeSet, hf.servedBy hserves]
  dsimp only
  split at hstatus
  · rw [if_pos (by assumption), Option.some.inj hstatus]
  · rw [if_neg (by assumption)]
    split at hstatus
    · rw [if_pos (by assumption), Option.some.inj hstatus]
    · rw [if_neg (by assumption)]
      split at hstatus
      · rw [if_pos (by assumption), Option.some.inj hstatus]
      · exact absurd hstatus (by simp)

/-! ## TIME_ACCEPT_JUMP -/

theorem exec_timeAcceptJump (q tag : Nat) (s : State) : exec (.timeAcceptJump q tag) s = .next { s with hub := s.hub.timeAcceptJump s.glob q tag } := rfl

theorem exec_deferredJumpApply (t : Nat) (s : State) : exec (.deferredJumpApply t) s = .next { s with hub := s.hub.deferredJumpApply s.glob t } := rfl

/-- A signed value that a field of 32 bits holds is read back. -/
theorem signed_satSigned {x : Int} (hlo : -(2 ^ 31 : Int) ≤ x) (hhi : x < 2 ^ 31) : signed 32 (satSigned 32 x) = x := by
  simp only [signed, satSigned, unsigned]
  norm_num at hlo hhi ⊢
  split_ifs <;> omega

/-- The hub of an accepted jump before it completes: its base has stepped, and a record and its event tell of it. -/
def Hub.jumps (h : Hub) (g : Glob) (t : Nat) (step : Int) (deferred : Nat) : Hub :=
  let h1 := h.stepBase g t (addTime (h.now48 t) (step * (ns48 : Int)))
  let h2 := h1.setBase t ({ h1.base t with state := .locked, deferred := none }.jumped h.clock)
  ((h2.record g 0x0603 0x75 t (unsigned 32 step) deferred 0).tbEvent g t 4).updateQuality g t

theorem acceptJump_steps (hrun : NoRun s) (ht : t < 4) (hl : s.hub.power.rootLock = true) (hs : s.hub.saved t = none) (hd : s.hub.desc q tag = some d)
    {step : Int} (ho : (s.hub.base t).offset = step) (hlo : -(2 ^ 31 : Int) ≤ step) (hhi : step < 2 ^ 31) (deferred : Nat) :
    Stepped t (addTime (s.hub.now48 t) (step * (2 ^ 48 : Nat))) s { s with hub := s.hub.acceptJump s.glob q tag t deferred } ∧
      ((s.hub.acceptJump s.glob q tag t deferred).base t).state = .locked ∧
      ((s.hub.acceptJump s.glob q tag t deferred).base t).deferred = none ∧
      Answered q tag Status.ok (leBytes 8 (unsigned 64 step)) s.hub (s.hub.acceptJump s.glob q tag t deferred) := by
  have hstep := Hub.stepBase_then s.glob hl hrun t (addTime (s.hub.now48 t) (step * (ns48 : Int)))
    fun b => ({ b with state := .locked, deferred := none } : TimeBase).jumped s.hub.clock
  have hrecord := hstep.trans (Hub.record_basesKept _ s.glob 0x0603 0x75 t (unsigned 32 step) deferred 0)
  obtain ⟨quality, hk, hp⟩ := (hrecord.trans (Hub.tbEvent_basesKept _ s.glob t 4)).updateQuality s.glob
  have hraised := hp _ (Hub.pending_raise _ s.glob _ 4 (source_of_base ht))
  obtain ⟨hstepped, hbase, ha⟩ := stepped_complete (q := q) (tag := tag) hk hraised rfl hd Status.ok (leBytes 8 (unsigned 64 step))
  have hjumps : s.hub.acceptJump s.glob q tag t deferred =
      (s.hub.jumps s.glob t step deferred).complete s.glob q tag Status.ok (leBytes 8 (unsigned 64 step)) := by
    rw [Hub.acceptJump, Hub.unmeasured_of_none hs, ho, signed_satSigned hlo hhi]
    rfl
  rw [hjumps]
  refine ⟨?_, congrArg TimeBase.state hbase, congrArg TimeBase.deferred hbase, ha⟩
  rwa [show wrap48 (addTime (s.hub.now48 t) (step * (ns48 : Int))) = addTime (s.hub.now48 t) (step * (2 ^ 48 : Nat)) from wrap48_addTime _ _] at hstepped

end

/-! ## The obligation -/

/-- Settles O22: every step is the one of `stepBase`, told of by a record and an event. -/
theorem timeStepsOnlyAsAsked : Obligations.TimeStepsOnlyAsAsked := by
  intro s q tag t d hrun ht hserves hl hs
  refine ⟨fun hf hop hns hd hflip => timeSet_steps hrun ht hserves hl hs hf hop hns hd hflip, fun hf hns => timeSet_refused hserves hf (if_pos hns),
    fun hf hop hns hd => timeSet_refused hserves hf ?_, fun hf hop hns hd hflip => timeSet_refused hserves hf ?_,
    fun step hf hop hstate hd ho hlo hhi hflip => ?_, fun step hf hop hstate hd ho hlo hneg hflip => ?_, fun step hd hdef ho hlo hhi => ?_⟩
  · rw [if_neg (by omega), hop, if_pos (Option.isSome_iff_ne_none.2 hd)]
  · rw [if_neg (by omega), hop, hd, Option.isSome_none, if_neg Bool.false_ne_true, if_pos hflip]
  · obtain ⟨hstepped, hlocked, -, ha⟩ := acceptJump_steps hrun ht hl hs hf.1 ho hlo hhi 0
    have hjump : s.hub.timeAcceptJump s.glob q tag = s.hub.acceptJump s.glob q tag t 0 := by
      rw [Hub.timeAcceptJump, hf.servedBy hserves]
      dsimp only
      rw [hop, Hub.unmeasured_of_none hs, hd, hstate, ho, signed_satSigned hlo hhi, Option.isSome_none, if_neg Bool.false_ne_true, if_neg (by simp),
        if_neg]
      rintro hc
      simp only [Bool.and_eq_true, decide_eq_true_eq] at hc
      rcases hflip with h0 | hflip
      · omega
      · exact absurd (hflip.symm.trans hc.2) Bool.false_ne_true
    refine ⟨_, exec_timeAcceptJump q tag s, ⟨rfl, rfl, rfl⟩, ?_⟩
    rw [hjump]
    exact ⟨hstepped, hlocked, ha⟩
  · have hwait : s.hub.timeAcceptJump s.glob q tag = (s.hub.await q tag []).setBase t { s.hub.base t with deferred := some (q, tag) } := by
      rw [Hub.timeAcceptJump, hf.servedBy hserves]
      dsimp only
      rw [hop, Hub.unmeasured_of_none hs, hd, hstate, ho, signed_satSigned hlo (by omega), Option.isSome_none, if_neg Bool.false_ne_true,
        if_neg (by simp), if_pos]
      exact Bool.and_eq_true_iff.2 ⟨decide_eq_true hneg, hflip⟩
    refine ⟨_, exec_timeAcceptJump q tag s, ⟨rfl, rfl, rfl⟩, ?_⟩
    rw [hwait]
    exact ⟨fun _ _ => rfl, (Hub.base_setBase ..).trans (if_pos rfl), _, Hub.desc_modDesc hf.1 fun _ => rfl, rfl⟩
  · obtain ⟨hstepped, hlocked, hnone, ha⟩ := acceptJump_steps hrun ht hl hs hd ho hlo hhi 1
    have hjump : s.hub.deferredJumpApply s.glob t = s.hub.acceptJump s.glob q tag t 1 := by rw [Hub.deferredJumpApply, hdef]
    refine ⟨_, exec_deferredJumpApply t s, ⟨rfl, rfl, rfl⟩, ?_⟩
    rw [hjump]
    exact ⟨hstepped, hlocked, hnone, ha⟩

end Sys2Proof.Machine
end

section
/-! The servo (R93 to R96, R100): what an edge of a PPS pin measures, the limits within which it steers, and the loss of a source. -/

namespace Sys2Proof.Machine

-- As in the tests, one proof at a time: proofs that wait for one another each take a thread of the compile, whose memory is limited.
set_option Elab.async false

/-! ## The limits of the servo output -/

theorem foldl_max_le {l : List Int} {a b : Int} : l.foldl max a ≤ b ↔ a ≤ b ∧ ∀ x ∈ l, x ≤ b := by
  induction l generalizing a with
  | nil => simp
  | cons x l ih => simp [ih, and_assoc]

theorem le_foldl_min {l : List Int} {a b : Int} : b ≤ l.foldl min a ↔ b ≤ a ∧ ∀ x ∈ l, b ≤ x := by
  induction l generalizing a with
  | nil => simp
  | cons x l ih => simp [ih, and_assoc]

theorem clampInt_mem {lo hi : Int} (h : lo ≤ hi) (v : Int) : lo ≤ clampInt lo hi v ∧ clampInt lo hi v ≤ hi := by
  unfold clampInt
  split_ifs <;> omega

/-- What is near a value within the bounds stays so when it is held within them. -/
theorem natAbs_clampInt_sub {lo hi x v : Int} {lim : Nat} (hlo : lo ≤ x) (hhi : x ≤ hi) (hv : (v - x).natAbs ≤ lim) : (clampInt lo hi v - x).natAbs ≤ lim := by
  unfold clampInt
  split_ifs <;> omega

/-- The frequencies of a base in the last second, the one in force first. -/
def Hub.recentFreqs (h : Hub) (t : Nat) : List Int := (h.base t).freq :: ((h.base t).recentLog h.clock 400000000).map Prod.snd

theorem Hub.servoFreq_limit (h : Hub) (t : Nat) : -freqMax ≤ h.servoFreq t ∧ h.servoFreq t ≤ freqMax := clampInt_mem (by decide) _

/-- The servo output lies within SLEW_LIMIT of every frequency of the last second, where those lie within it of each other (R93). -/
theorem Hub.servoFreq_slew (h : Hub) (t : Nat) (hmax : ∀ x ∈ h.recentFreqs t, -freqMax ≤ x ∧ x ≤ freqMax)
    (hnear : ∀ x ∈ h.recentFreqs t, ∀ y ∈ h.recentFreqs t, (x - y).natAbs ≤ h.f (Reg.TBt_LIMITS t) 31 20 * 256) :
    ∀ x ∈ h.recentFreqs t, (h.servoFreq t - x).natAbs ≤ h.f (Reg.TBt_LIMITS t) 31 20 * 256 := by
  intro x hx
  generalize hlim : h.f (Reg.TBt_LIMITS t) 31 20 * 256 = lim at hnear ⊢
  have hfreq : h.servoFreq t = clampInt (-freqMax) freqMax (clampInt ((h.recentFreqs t).foldl max (-freqMax) - lim)
      ((h.recentFreqs t).foldl min freqMax + lim) (signed 32 (h.freeAt 0))) := by
    rw [← hlim]
    rfl
  have hhigh : (h.recentFreqs t).foldl max (-freqMax) ≤ x + lim :=
    foldl_max_le.2 ⟨by have := (hmax x hx).1; omega, fun y hy => by have := hnear y hy x hx; omega⟩
  have hlow : x - lim ≤ (h.recentFreqs t).foldl min freqMax :=
    le_foldl_min.2 ⟨by have := (hmax x hx).2; omega, fun y hy => by have := hnear x hx y hy; omega⟩
  have htop : x ≤ (h.recentFreqs t).foldl max (-freqMax) := (foldl_max_le.1 le_rfl).2 x hx
  have hbottom : (h.recentFreqs t).foldl min freqMax ≤ x := (le_foldl_min.1 le_rfl).2 x hx
  rw [hfreq]
  obtain ⟨h1, h2⟩ := clampInt_mem (lo := (h.recentFreqs t).foldl max (-freqMax) - lim) (hi := (h.recentFreqs t).foldl min freqMax + lim)
    (by omega) (signed 32 (h.freeAt 0))
  exact natAbs_clampInt_sub (hmax x hx).1 (hmax x hx).2 (by omega)

/-! ## The hub on which a measurement acts -/

/-- Of what a measurement reads a captured edge changes nothing: the bases, what they have to tell, the clock and the pair are as they were, no record is produced,
and only sources are raised. -/
structure Captured (h k : Hub) : Prop where
  bases  : k.time.bases = h.time.bases
  told   : k.time.told = h.time.told
  clock  : k.clock = h.clock
  saddle : k.saddle = h.saddle
  recQ   : k.cairn.recQ = h.cairn.recQ
  regs   : RegsKeptBut pendRegs h k

theorem Hub.raiseCore_recQ (h : Hub) (g : Glob) (src d : Nat) : (h.raiseCore g src d).cairn.recQ = h.cairn.recQ := by
  have hentry (c : Bool) (e : Event) : (if c = true then (h.setPend src).eventStream e else h.setPend src).cairn = h.cairn := by
    split
    · exact (Hub.eventStream_frame ..).2.2.2.2.1
    · rfl
  unfold Hub.raiseCore
  split
  · rfl
  · dsimp only
    have hsame := hentry (h.bit (Reg.INT_SRC_MAPn src) 9) ((h.setPend src).eventOf src (h.eventDetail g src d))
    split
    all_goals exact (congrArg Cairn.recQ hsame :)

theorem Hub.raise_recQ (h : Hub) (g : Glob) (src d : Nat) : (h.raise g src d).cairn.recQ = h.cairn.recQ := by
  unfold Hub.raise
  split
  · rw [Hub.raiseCore_recQ, Hub.raiseCore_recQ]
  · exact Hub.raiseCore_recQ ..

namespace Captured

variable {h k : Hub} {t : Nat}

theorem base (hk : Captured h k) (t : Nat) : k.base t = h.base t := by rw [Hub.base, Hub.base, hk.bases]

theorem f (hk : Captured h k) {off : Nat} (ho : 0x30210 ≤ off) (hi lo : Nat) : k.f off hi lo = h.f off hi lo :=
  Hub.f_of_rd h k off hi lo (hk.regs off (not_mem_pendRegs ho))

theorem recentFreqs (hk : Captured h k) (t : Nat) : k.recentFreqs t = h.recentFreqs t := by
  rw [Hub.recentFreqs, Hub.recentFreqs, hk.base, hk.clock]

theorem limits (hk : Captured h k) (hi lo : Nat) : k.f (Reg.TBt_LIMITS t) hi lo = h.f (Reg.TBt_LIMITS t) hi lo := hk.f (by simp only [Reg.TBt_LIMITS]; omega) hi lo

/-- A push on a FIFO that has room, after what changes the pins. -/
theorem push {a : Hub} {i : Nat} (hroom : a.fifoFull i = false) (hb : a.time.bases = h.time.bases) (ht : a.time.told = h.time.told) (hc : a.clock = h.clock)
    (hs : a.saddle = h.saddle) (hq : a.cairn = h.cairn) (hr : a.regs = h.regs) (g : Glob) (w : Nat) : Captured h (a.fifoPush g i w) := by
  obtain ⟨hclock, -, -, -, htime, -, -, -, -, -, -, -, -, -, hsaddle, -, -⟩ := Hub.fifoPush_frame a g i w
  refine ⟨htime ▸ hb, htime ▸ ht, hclock.trans hc, hsaddle.trans hs, ?_, fun off ho => ?_⟩
  · rw [Hub.fifoPush_room hroom, Hub.raiseIf]
    split
    · exact (Hub.raise_recQ ..).trans (congrArg Cairn.recQ hq)
    · exact congrArg Cairn.recQ hq
  · rw [Hub.fifoPush_room hroom, Hub.rd_raiseIf _ _ _ _ _ _ ho]
    exact Hub.rd_of_regs h _ hr off

/-- What a measurement may replace is kept beside the hub. -/
theorem save (hk : Captured h k) (t : Nat) : Captured h (k.save t) := by
  unfold Hub.save
  dsimp only
  split
  · exact hk
  · exact ⟨hk.bases, hk.told, hk.clock, hk.saddle, hk.recQ, hk.regs⟩

end Captured

/-! ## Measurements -/

section
variable {k : Hub} {t : Nat} {m : Int} (g : Glob) (source : Nat)

theorem Hub.measure_jumped (hj : (k.base t).jumpedAt = some k.clock) : k.measure g t m source = k := if_pos hj

/-- A measurement of a base whose servo is in charge, in LOCKED or JUMP_HELD. -/
theorem Hub.measure_judged (hj : (k.base t).jumpedAt ≠ some k.clock) (hd : (k.base t).deferred = none) (hr : k.saddle.role ≠ .standby)
    (hs : (k.base t).state = .locked ∨ (k.base t).state = .jumpHeld) :
    (m.natAbs ≤ k.f (Reg.TBt_LIMITS t) 19 0 * ns48 → (k.base t).state = .locked → k.measure g t m source = (k.save t).servoAccept t m) ∧
    (k.f (Reg.TBt_LIMITS t) 19 0 * ns48 < m.natAbs → k.measure g t m source = (k.save t).servoRefuse t m source) := by
  have hfree : (k.base t).state ≠ .free := by rcases hs with hs | hs <;> rw [hs] <;> decide
  have hact : ¬((k.base t).deferred.isSome = true ∨ k.saddle.role = .standby) := by simp [hd, hr]
  refine ⟨fun hin hlocked => ?_, fun hout => ?_⟩
  · rw [Hub.measure, if_neg hj, if_neg (by simpa using hact), if_neg hfree, decide_eq_true hin, hlocked]
    rfl
  · rw [Hub.measure, if_neg hj, if_neg (by simpa using hact), if_neg hfree, decide_eq_false (by omega)]
    rcases hs with hs | hs <;> rw [hs] <;> rfl

end

/-! ## The edge of a PPS pin -/

theorem exec_tioInputEdge {s : State} (ha : s.hub.awake 6 = true) (p : Nat) (rise : Bool) (quarter : Nat) :
    exec (.tioInputEdge p rise quarter) s = .next { s with hub := s.hub.tioEdge s.glob p rise quarter } := 
  wokenWhen_awake (Hub.pinHears p) (fun s => nextHub s (s.hub.tioEdge s.glob p rise quarter)) ha

/-- An edge within 8 ns of the one before is sampled and no more (R466). -/
theorem exec_tioInputEdge_tooSoon {s : State} {p quarter : Nat} (rise : Bool) (hsoon : s.hub.edgeTooSoon p quarter = true) (ha : s.hub.awake 6 = true) :
    exec (.tioInputEdge p rise quarter) s = .next { s with hub := s.hub.setPin p { s.hub.pinState p with sample := rise } } := by
  rw [exec_tioInputEdge ha, Hub.tioEdge, hsoon, Bool.or_true]
  rfl

/-- An edge of the pin that disciplines a base by its whole seconds measures that base (R93). -/
theorem exec_tioInputEdge_measures {s : State} {p t quarter : Nat} {m : Int} (hserves : s.hub.serving .tio = true) (hfunc : s.hub.pinFunc p = 4)
    (htb : s.hub.pinTb p = t) (hroom : s.hub.fifoLoses 1 = false) (hsrc : s.hub.f (Reg.TBt_CTL t) 1 0 = 2) (hpin : s.hub.f (Reg.TBt_CTL t) 4 2 = p)
    (hm : nearestOffset (s.hub.capture p quarter) sec48 = m) (hsoon : s.hub.edgeTooSoon p quarter = false) (ha : s.hub.awake 6 = true) :
    ∃ k, Captured s.hub k ∧ exec (.tioInputEdge p (s.hub.pinActive p) quarter) s = .next { s with hub := k.measure s.glob t m p } := by
  have hfull : s.hub.fifoFull 1 = false := by simpa [Hub.fifoLoses] using hroom
  let h0 := s.hub.setPin p { s.hub.pinState p with sample := s.hub.pinActive p }
  let h1 := h0.setPin p { h0.pinState p with edge := some (s.hub.edgeTime quarter) }
  have hk : Captured s.hub (h1.fifoPush s.glob 1 (s.hub.capture p quarter / quarter48 % 2 ^ 64)) :=
    .push (h := s.hub) (a := h1) hfull rfl rfl rfl rfl rfl rfl _ _
  refine ⟨_, hk, (exec_tioInputEdge ha ..).trans (congrArg (fun h => Host.Outcome.next { s with hub := h }) ?_)⟩
  have htio (lo hi : Nat) : (h1.fifoPush s.glob 1 (s.hub.capture p quarter / quarter48 % 2 ^ 64)).f (Reg.TIO_PINp_CFG p) hi lo =
      s.hub.f (Reg.TIO_PINp_CFG p) hi lo := hk.f (by simp only [Reg.TIO_PINp_CFG]; omega) hi lo
  have hctl (lo hi : Nat) : (h1.fifoPush s.glob 1 (s.hub.capture p quarter / quarter48 % 2 ^ 64)).f (Reg.TBt_CTL t) hi lo = s.hub.f (Reg.TBt_CTL t) hi lo :=
    hk.f (by simp only [Reg.TBt_CTL]; omega) hi lo
  rw [Hub.tioEdge, hserves, hfunc, hsoon, hroom]
  simp only [bne_self_eq_false, Bool.not_true, Bool.false_or, Bool.or_false, Bool.false_eq_true, if_false, beq_self_eq_true, Bool.or_true]
  rw [Hub.edgeMeasure, Hub.pinTb, htio, show s.hub.f (Reg.TIO_PINp_CFG p) 5 4 = t from htb, hctl, hpin, if_neg (not_not.2 rfl), hctl, hsrc, Hub.pinFunc, htio,
    show s.hub.f (Reg.TIO_PINp_CFG p) 3 0 = 4 from hfunc, hm]
  rfl

/-! ## What a measurement leaves -/

section
variable {h k : Hub} {t : Nat} (m : Int)

/-- An accepted measurement steers the frequency of its base, and no more of its value (R93). -/
theorem Hub.base_servoAccept (k : Hub) (t : Nat) (m : Int) : (k.servoAccept t m).base t =
    { (k.base t).steer k.clock (k.servoFreq t) with state := .locked, offset := offsetNs m, e0 := m.natAbs } :=
  (Hub.base_setBase ..).trans (if_pos rfl)

/-- QUALITY after a measurement changes nothing else of its base, and what the measurement has told stays told. -/
theorem Hub.qualityLater_kept (k : Hub) (t : Nat) :
    (∃ quality, (k.qualityLater t).base t = { k.base t with quality := quality }) ∧ ∀ e ∈ k.time.told, e ∈ (k.qualityLater t).time.told := by
  unfold Hub.qualityLater
  split
  · exact ⟨⟨_, rfl⟩, fun _ he => he⟩
  · exact ⟨⟨_, (Hub.base_setBase k t _ t).trans (if_pos rfl)⟩, fun _ he => List.mem_append_left _ he⟩

/-- A LOCKED base whose measurement is refused is held, and the refusal is counted and told (R94). -/
theorem Hub.servoRefuse_locked (hs : (k.base t).state = .locked) (source : Nat) :
    (∃ quality, (k.servoRefuse t m source).base t =
      { k.base t with state := .jumpHeld, offset := offsetNs m, since := k.clock, jumps := satInc 16 (k.base t).jumps, quality := quality }) ∧
    (t, Told.event 3) ∈ (k.servoRefuse t m source).time.told ∧ (t, Told.refusal (offsetNs m) 2 source) ∈ (k.servoRefuse t m source).time.told := by
  let b : TimeBase := { k.base t with state := .jumpHeld, offset := offsetNs m, since := k.clock, jumps := satInc 16 (k.base t).jumps }
  have he : k.servoRefuse t m source =
      (((k.setBase t b).tellLater t (.event 3)).tellLater t (.refusal (offsetNs m) 2 source)).qualityLater t := by
    rw [Hub.servoRefuse, hs]
    rfl
  obtain ⟨⟨quality, hq⟩, htold⟩ :=
    (((k.setBase t b).tellLater t (.event 3)).tellLater t (.refusal (offsetNs m) 2 source)).qualityLater_kept t
  rw [he]
  refine ⟨⟨quality, hq.trans ?_⟩, htold _ ?_, htold _ ?_⟩
  · rw [show (((k.setBase t b).tellLater t (.event 3)).tellLater t (.refusal (offsetNs m) 2 source)).base t = b from
      (Hub.base_setBase ..).trans (if_pos rfl)]
  · exact List.mem_append_left _ (List.mem_append_right _ (List.mem_singleton.2 rfl))
  · exact List.mem_append_right _ (List.mem_singleton.2 rfl)

theorem Hub.servoRefuse_held (hs : (k.base t).state = .jumpHeld) (source : Nat) :
    k.servoRefuse t m source = k.setBase t { k.base t with offset := offsetNs m } := if_pos hs

end

/-! ## What measurements tell at the end of their cycle -/

theorem Hub.tell_reports (h : Hub) (g : Glob) (t : Nat) (w : Told) : Reports h (h.tell g t w) := by
  cases w with
  | event detail => exact Hub.raise_reports ..
  | refusal offset state source => exact Hub.record_reports ..

theorem Hub.foldl_tell_reports (g : Glob) (l : List (Nat × Told)) (h : Hub) : Reports h (l.foldl (fun h e => h.tell g e.1 e.2) h) :=
  List.foldlRecOn (motive := Reports h) l _ (.refl h) fun k hk e _ => hk.trans (k.tell_reports g e.1 e.2)

/-- An event that is told raises the source of its base. -/
theorem Hub.pending_foldl_tell (g : Glob) {t detail : Nat} (ht : t < 4) {l : List (Nat × Told)} (hl : (t, Told.event detail) ∈ l) (h : Hub) :
    (l.foldl (fun h e => h.tell g e.1 e.2) h).pending (36 + t) = true := by
  obtain ⟨l1, l2, rfl⟩ := List.append_of_mem hl
  rw [List.foldl_append, List.foldl_cons]
  exact (Hub.foldl_tell_reports g l2 _).pending _ (Hub.pending_raise _ g _ detail (source_of_base ht))

theorem Hub.tellMeasured_tells (h : Hub) (g : Glob) {t detail : Nat} (ht : t < 4) (hl : (t, Told.event detail) ∈ h.time.told) :
    (h.tellMeasured g).pending (36 + t) = true ∧ (h.tellMeasured g).time.told = [] :=
  ⟨Hub.pending_foldl_tell g ht hl _, (congrArg (fun k => k.time.told) (Hub.foldl_tell_reports g h.time.told _).shape :)⟩

/-! ## A measurement in the cycle of a step -/

/-- The bases and what their measurements have to tell are as they were. -/
def TimeToldKept (h h' : Hub) : Prop := (∀ t, h'.base t = h.base t) ∧ h'.time.told = h.time.told

theorem Hub.complete_timeToldKept (h : Hub) (g : Glob) (q tag status : Nat) (result : List Byte) : TimeToldKept h (h.complete g q tag status result) := by
  obtain ⟨-, -, -, -, htime, -⟩ := Hub.complete_frame h g q tag status result
  exact ⟨fun t => by rw [Hub.base, Hub.base, htime], congrArg TimeState.told htime⟩

theorem Hub.msrEnd_timeToldKept (h : Hub) (g : Glob) (status : Nat) : TimeToldKept h (h.msrEnd g status) := by
  have hfold (k : Hub) : TimeToldKept k ((List.range 16).foldl (fun k c => if k.seqUnit c then k.setCmp c { k.cmp c with next := none } else k) k) :=
    List.foldlRecOn (motive := TimeToldKept k) _ _ ⟨fun _ => rfl, rfl⟩ fun x hx c _ => by split <;> exact hx
  unfold Hub.msrEnd
  split
  · exact ⟨fun _ => rfl, rfl⟩
  · dsimp only
    split
    · obtain ⟨hb, ht⟩ := Hub.complete_timeToldKept _ g _ _ status _
      exact ⟨fun t => (hb t).trans ((hfold h).1 t), ht.trans (hfold h).2⟩
    · exact hfold h

/-- A step of a base changes nothing of the bases but a value, and tells nothing at the end of the cycle. -/
theorem Hub.stepBase_timeToldKept (h : Hub) (g : Glob) (t new48 : Nat) :
    ∃ value, TimeToldKept (h.setBase t { h.base t with t48 := value }) (h.stepBase g t new48) := by
  by_cases hl : h.power.rootLock = true
  · have hk := h.stepped_basesKept g t new48
    refine ⟨wrap48 new48, ?_⟩
    rw [Hub.stepBase_locked h g hl]
    split
    · obtain ⟨hb, ht⟩ := (h.stepped g t new48).msrEnd_timeToldKept g Status.aborted
      exact ⟨fun j => (hb j).trans (hk.base j), ht.trans hk.told⟩
    · exact ⟨hk.base, hk.told⟩
  · rw [Hub.stepBase, if_pos (by simpa using hl)]
    have hself := BasesKept.setBase_self h t
    exact ⟨(h.base t).t48, hself.base, hself.told⟩

/-- A base has the frequency, the offset and the count of jumps that were saved, and nothing to tell. -/
structure Hub.AsSaved (h : Hub) (t : Nat) (x : ServoSave) : Prop where
  freq   : (h.base t).freq = x.freq
  offset : (h.base t).offset = x.offset
  jumps  : (h.base t).jumps = x.jumps
  told   : ∀ w, (t, w) ∉ h.time.told

theorem Hub.AsSaved.of_kept {a b : Hub} {t : Nat} {x : ServoSave} (ha : a.AsSaved t x) (hk : TimeToldKept a b) : b.AsSaved t x := by
  obtain ⟨hb, ht⟩ := hk
  exact ⟨hb t ▸ ha.freq, hb t ▸ ha.offset, hb t ▸ ha.jumps, fun w => ht ▸ ha.told w⟩

/-- A base set to another that agrees in what was saved. -/
theorem Hub.AsSaved.setBase {a : Hub} {t : Nat} {x : ServoSave} (ha : a.AsSaved t x) {b : TimeBase} (hf : b.freq = (a.base t).freq)
    (ho : b.offset = (a.base t).offset) (hj : b.jumps = (a.base t).jumps) : (a.setBase t b).AsSaved t x := by
  have hb : (a.setBase t b).base t = b := (Hub.base_setBase ..).trans (if_pos rfl)
  exact ⟨by rw [hb, hf, ha.freq], by rw [hb, ho, ha.offset], by rw [hb, hj, ha.jumps], ha.told⟩

theorem BasesKept.timeToldKept {a b : Hub} (hk : BasesKept a b) : TimeToldKept a b := ⟨hk.base, hk.told⟩

/-- The measurements of the cycle are discarded with all that they have to tell (R100). -/
theorem Hub.unmeasured_asSaved {h : Hub} {t : Nat} {x : ServoSave} (hx : h.saved t = some x) : (h.unmeasured t).AsSaved t x := by
  have hu : h.unmeasured t = ({ h with time := { h.time with
      saves := Sparse.set none h.time.saves t none, told := h.time.told.filter (fun e => e.1 != t) } } : Hub).setBase t { h.base t with
      state := x.state, freq := x.freq, freqLog := x.freqLog, steered := x.steered, offset := x.offset, e0 := x.e0, since := x.since
      jumps := x.jumps, quality := x.quality } := by rw [Hub.unmeasured, hx]
  rw [hu]
  have hb (a : Hub) (b : TimeBase) : (a.setBase t b).base t = b := (Hub.base_setBase ..).trans (if_pos rfl)
  refine ⟨by rw [hb], by rw [hb], by rw [hb], fun w hw => ?_⟩
  simpa using (List.mem_filter.1 hw).2

theorem Hub.stepBase_asSaved {h : Hub} {t : Nat} {x : ServoSave} (hx : h.AsSaved t x) (g : Glob) (new48 : Nat) : (h.stepBase g t new48).AsSaved t x := by
  obtain ⟨value, hk⟩ := h.stepBase_timeToldKept g t new48
  exact (hx.setBase (b := { h.base t with t48 := value }) rfl rfl rfl).of_kept hk

theorem Hub.updateQuality_asSaved {h : Hub} {t : Nat} {x : ServoSave} (hx : h.AsSaved t x) (g : Glob) : (h.updateQuality g t).AsSaved t x := by
  obtain ⟨quality, hq⟩ := h.updateQuality_eq g t
  exact (hx.setBase (b := { h.base t with quality := quality }) rfl rfl rfl).of_kept hq.timeToldKept

theorem TimeBase.afterSet_servo (b : TimeBase) (clock : Nat) :
    (b.afterSet clock).freq = b.freq ∧ (b.afterSet clock).offset = b.offset ∧ (b.afterSet clock).jumps = b.jumps := by
  unfold TimeBase.afterSet
  cases b.state <;> exact ⟨rfl, rfl, rfl⟩

/-- After a TIME_SET the base is, but for its value, as the measurements of its cycle found it. -/
theorem Hub.setsTime_asSaved {h : Hub} {t : Nat} {x : ServoSave} (hx : h.AsSaved t x) (g : Glob) (new p0 p1 : Nat) :
    (h.setsTime g t new p0 p1).AsSaved t x := by
  obtain ⟨hf, ho, hj⟩ := ((h.stepBase g t new).base t).afterSet_servo h.clock
  have hset := (Hub.stepBase_asSaved hx g new).setBase (b := (((h.stepBase g t new).base t).afterSet h.clock).jumped h.clock) hf ho hj
  have hrecord := (hset.of_kept (Hub.record_basesKept _ g 0x0602 0x75 t p0 p1 (h.stateCode t)).timeToldKept).of_kept
    (Hub.tbEvent_basesKept _ g t 5).timeToldKept
  refine Hub.updateQuality_asSaved ?_ g
  split
  · exact hrecord.of_kept (Hub.tbEvent_basesKept _ g t 1).timeToldKept
  · exact hrecord

section
variable {s : State} {q tag t : Nat} {d : Desc} {x : ServoSave}

theorem timeSet_discards (hf : Fetched s q tag 0x60 d) (hserves : s.hub.serving .tim = true) (hop : d.op 16 1 = t) (hns : d.op 30 4 < 1000000000)
    (hd : (s.hub.base t).deferred = none) (hx : s.hub.saved t = some x)
    (hflip : s.hub.flipAfter t (time48 (d.op 24 6) (d.op 30 4) (d.op 34 2)) = false) :
    ∃ u, exec (.timeSet q tag) s = .next u ∧ u.hub.AsSaved t x := by
  have hclock : (s.hub.unmeasured t).clock = s.hub.clock := by rw [Hub.unmeasured, hx]; rfl
  have hsets : s.hub.timeSet s.glob q tag =
      ((s.hub.unmeasured t).setsTime s.glob t (time48 (d.op 24 6) (d.op 30 4) (d.op 34 2)) (d.op 24 6) (d.op 30 4)).complete s.glob q tag Status.ok [] := by
    rw [Hub.timeSet, hf.servedBy hserves]
    dsimp only
    rw [hop, if_neg (by omega), hd, Option.isSome_none, if_neg Bool.false_ne_true, hflip, if_neg Bool.false_ne_true, Hub.setsTime, hclock]
  refine ⟨_, exec_timeSet q tag s, ?_⟩
  dsimp only
  rw [hsets]
  exact (Hub.setsTime_asSaved (Hub.unmeasured_asSaved hx) s.glob _ _ _).of_kept (Hub.complete_timeToldKept ..)

end

/-! ## The loss of a source -/

theorem BasesKept.drew (h : Hub) (k : Nat) : BasesKept h (h.drew k) := .of_same

/-- The selection of a master changes neither the value of its base nor its servo. -/
theorem Hub.ptpSelect_kept (h : Hub) (g : Glob) (t : Nat) :
    ∃ b, BasesKept (h.setBase t b) (h.ptpSelect g t) ∧ b.t48 = (h.base t).t48 ∧ b.state = (h.base t).state ∧ b.freq = (h.base t).freq := by
  unfold Hub.ptpSelect
  dsimp only
  split
  · exact ⟨_, .drew .., rfl, rfl, rfl⟩
  · split
    · exact ⟨_, .drew .., rfl, rfl, rfl⟩
    · exact ⟨_, .trans (.drew ..) (Hub.tbEvent_basesKept ..), rfl, rfl, rfl⟩

/-- A base without the source that it has lost. -/
def TimeBase.lost (b : TimeBase) : TimeBase :=
  { b with slaveValid := false, master := none, syncT2 := none, reqT3 := [], rivals := b.rivals.filter (fun x => !b.master.any x.same) }

theorem exec_sourceLoss (t : Nat) (s : State) : exec (.sourceLoss t) s = .next { s with hub := s.hub.sourceLoss s.glob (s.hub.servoActs t) t } := rfl

/-- A base enters HOLDOVER at its holdover frequency (R95). -/
theorem Hub.enterHoldover_kept (h : Hub) (g : Glob) {t : Nat} (ht : t < 4) :
    ∃ quality, BasesKept (h.setBase t { (h.base t).runAt h.clock (h.holdoverFreq t) with state := .holdover, since := h.clock, quality := quality })
        (h.enterHoldover g t) ∧ (h.enterHoldover g t).pending (36 + t) = true := by
  obtain ⟨quality, hq, hp⟩ := (Hub.tbEvent_basesKept
    (h.setBase t { (h.base t).runAt h.clock (h.holdoverFreq t) with state := .holdover, since := h.clock }) g t 2).updateQuality g
  exact ⟨quality, hq, hp _ (Hub.pending_raise _ g _ 2 (source_of_base ht))⟩

/-- A LOCKED base that loses its source holds over. -/
theorem sourceLoss_holdsOver {s : State} {t : Nat} (ht : t < 4) (hr : s.hub.saddle.role ≠ .standby) (hs : (s.hub.base t).state = .locked) :
    ∃ u, exec (.sourceLoss t) s = .next u ∧ HubOnly s u ∧ u.hub.now48 t = s.hub.now48 t ∧ (u.hub.base t).state = .holdover ∧
      (u.hub.base t).freq = s.hub.holdoverFreq t ∧ ((s.hub.base t).rivals = [] → (u.hub.base t).slaveValid = false) ∧
      u.hub.pending (36 + t) = true := by
  let h0 := s.hub.setBase t (s.hub.base t).lost
  have hb0 : h0.base t = (s.hub.base t).lost := (Hub.base_setBase ..).trans (if_pos rfl)
  have hfreq : h0.holdoverFreq t = s.hub.holdoverFreq t := by
    rw [Hub.holdoverFreq, Hub.holdoverFreq, hb0]
    rfl
  obtain ⟨quality, hk, hp⟩ := h0.enterHoldover_kept s.glob ht
  have hb : (h0.enterHoldover s.glob t).base t =
      { (h0.base t).runAt h0.clock (h0.holdoverFreq t) with state := .holdover, since := h0.clock, quality := quality } :=
    (hk.base t).trans ((Hub.base_setBase ..).trans (if_pos rfl))
  have hvalue : ((h0.enterHoldover s.glob t).base t).t48 = s.hub.now48 t := by rw [hb, hb0]; rfl
  have hf : ((h0.enterHoldover s.glob t).base t).freq = s.hub.holdoverFreq t := by rw [hb]; exact hfreq
  have hstate : ((h0.enterHoldover s.glob t).base t).state = .holdover := by rw [hb]
  have hlost : s.hub.sourceLoss s.glob (s.hub.servoActs t) t =
      if (s.hub.base t).lost.rivals.isEmpty then h0.enterHoldover s.glob t else (h0.enterHoldover s.glob t).ptpSelect s.glob t := by
    have hacts : (s.hub.servoActs t && ((s.hub.base t).state == .locked || (s.hub.base t).state == .jumpHeld)) = true := by simp [Hub.servoActs, hr, hs]
    rw [Hub.sourceLoss]
    dsimp only
    rw [if_pos hacts]
    rfl
  refine ⟨_, exec_sourceLoss t s, ⟨rfl, rfl, rfl⟩, ?_⟩
  dsimp only
  rw [hlost]
  split
  · refine ⟨hvalue, hstate, hf, fun _ => ?_, hp⟩
    rw [hb, hb0]
    rfl
  case isFalse hrivals =>
    obtain ⟨b, hselect, h1, h2, h3⟩ := (h0.enterHoldover s.glob t).ptpSelect_kept s.glob t
    have hbs : ((h0.enterHoldover s.glob t).ptpSelect s.glob t).base t = b := (hselect.base t).trans ((Hub.base_setBase ..).trans (if_pos rfl))
    rw [Hub.now48, hbs]
    exact ⟨h1.trans hvalue, h2.trans hstate, h3.trans hf, fun hnone => absurd (by simp [TimeBase.lost, hnone]) hrivals, hselect.pending _ hp⟩

/-! ## The obligation -/

/-- Settles O23: a captured edge leaves the hub on which the servo acts as it was, and the servo output is held between the frequencies of the last second. -/
theorem servoSteersWithinItsLimits : Obligations.ServoSteersWithinItsLimits := by
  refine ⟨fun s p quarter rise hsoon ha => exec_tioInputEdge_tooSoon rise hsoon ha,
    fun s p t quarter m hserves hfunc htb hroom hsrc hpin hrole hdef hm hsoon ha => ?_⟩
  obtain ⟨k, hk, hexec⟩ := exec_tioInputEdge_measures hserves hfunc htb hroom hsrc hpin hm hsoon ha
  have ht : t < 4 := htb ▸ Nat.mod_lt _ (by norm_num)
  have hjudged (hs : (s.hub.base t).state = .locked ∨ (s.hub.base t).state = .jumpHeld) (hj : (s.hub.base t).jumpedAt ≠ some s.hub.clock) :=
    Hub.measure_judged (k := k) (m := m) s.glob p (by rwa [hk.base, hk.clock]) ((congrArg _ (hk.base t)).trans hdef) (by rwa [hk.saddle]) (by rwa [hk.base])
  have hlim : k.f (Reg.TBt_LIMITS t) 19 0 = s.hub.f (Reg.TBt_LIMITS t) 19 0 := hk.limits 19 0
  have hsave := hk.save t
  rw [hexec]
  refine ⟨fun hs hj hin => ?_, fun hs hj hout => ?_, fun hs hj hout => ?_, fun hj => ?_, fun detail hl ht => s.hub.tellMeasured_tells s.glob ht hl,
    fun q tag d x hf hserves hop hns hx hflip => ?_, fun hs => sourceLoss_holdsOver ht hrole hs, fun hq => ?_⟩
  · rw [(hjudged (.inl hs) hj).1 (hlim ▸ hin) ((congrArg _ (hk.base t)).trans hs)]
    have hb := (k.save t).base_servoAccept t m
    obtain ⟨hlow, hhigh⟩ := (k.save t).servoFreq_limit t
    refine ⟨_, rfl, ⟨rfl, rfl, rfl⟩, ?_⟩
    dsimp only
    rw [Hub.now48, hb]
    refine ⟨(congrArg TimeBase.t48 (hsave.base t) :), rfl, rfl, rfl, hlow, hhigh, fun recent hrecent hmax hnear => ?_⟩
    have hlist : (k.save t).recentFreqs t = recent := (hsave.recentFreqs t).trans hrecent.symm
    have hslew := (k.save t).servoFreq_slew t
    rw [hlist, hsave.limits] at hslew
    exact hslew hmax hnear
  · rw [(hjudged (.inl hs) hj).2 (hlim ▸ hout)]
    obtain ⟨⟨quality, hb⟩, hevent, hrefusal⟩ := Hub.servoRefuse_locked (k := k.save t) m ((congrArg _ (hsave.base t)).trans hs) p
    refine ⟨_, rfl, ⟨rfl, rfl, rfl⟩, ?_⟩
    dsimp only
    rw [Hub.now48, hb, hsave.base]
    exact ⟨rfl, rfl, rfl, rfl, rfl, hevent, hrefusal⟩
  · rw [(hjudged (.inr hs) hj).2 (hlim ▸ hout), Hub.servoRefuse_held m ((congrArg _ (hsave.base t)).trans hs)]
    refine ⟨_, rfl, ⟨rfl, rfl, rfl⟩, ?_, hsave.recQ, hsave.told⟩
    rw [Hub.base_setBase, if_pos rfl, hsave.base]
  · rw [Hub.measure_jumped s.glob p (by rwa [hk.base, hk.clock])]
    exact ⟨_, rfl, ⟨rfl, rfl, rfl⟩, hk.bases⟩
  · obtain ⟨u, hu, hsaved⟩ := timeSet_discards hf hserves hop hns hdef hx hflip
    exact ⟨u, hu, hsaved.freq, hsaved.offset, hsaved.jumps, hsaved.told⟩
  · have hupdate : s.hub.updateQuality s.glob t =
        (s.hub.setBase t { s.hub.base t with quality := s.hub.qualityOf t }).tbEvent s.glob t (6 + s.hub.qualityOf t * 256) := if_neg hq
    refine ⟨_, rfl, ⟨rfl, rfl, rfl⟩, ?_⟩
    rw [hupdate]
    exact ⟨Hub.raise_reports .., Hub.pending_raise _ _ _ _ (source_of_base ht)⟩

end Sys2Proof.Machine
end

section
/-! PTP (R101, R103, R105, R115, R118): the selection of a master, a one-step Sync, and the messages that leave Q7. -/

namespace Sys2Proof.Machine

-- As in the tests, one proof at a time: proofs that wait for one another each take a thread of the compile, whose memory is limited.
set_option Elab.async false

theorem Hub.base_setBase_same (h : Hub) (t : Nat) (b : TimeBase) : (h.setBase t b).base t = b := (Hub.base_setBase ..).trans (if_pos rfl)

theorem Hub.setBase_setBase (h : Hub) (t : Nat) (x y : TimeBase) : (h.setBase t x).setBase t y = h.setBase t y :=
  congrArg (fun m => ({ h with time := { h.time with bases := m } } : Hub)) (Sparse.set_set ..)

/-! ## The selection of a master -/

section
variable {h : Hub} {t n src : Nat} {ds : List Nat}

/-- The record of a master that announces itself now. -/
def Hub.heardNow (h : Hub) (n src : Nat) (ds : List Nat) (qual : Bool) : PtpMaster := { port := n, src := src, set := ds, heard := h.clock, qual := qual }

/-- A sender has been heard within four Announce intervals, or is the master that the base follows. -/
def Hub.heardBefore (h : Hub) (t n src : Nat) : Bool :=
  (h.base t).rivals.any (fun x => x.port == n && x.src == src && decide (h.clock ≤ x.heard + 4 * h.announceCycles t)) ||
    (h.base t).master.any (fun x => x.port == n && x.src == src)

/-- The hub with the masters that a base hears. -/
def Hub.hears (h : Hub) (t : Nat) (ms : List PtpMaster) : Hub := h.setBase t { h.base t with rivals := ms }

theorem Hub.base_hears (h : Hub) (t : Nat) (ms : List PtpMaster) : (h.hears t ms).base t = { h.base t with rivals := ms } := Hub.base_setBase_same ..

theorem Hub.ptpAnnounce_hears (h : Hub) (g : Glob) (t n src : Nat) (ds : List Nat) :
    h.ptpAnnounce g t n src ds = (h.hears t (h.heardNow n src ds (h.heardBefore t n src) ::
      (h.base t).rivals.filter (fun x => !(n == x.port && src == x.src)))).ptpSelect g t := rfl

/-- An Announce of a sender not heard before, where no other has been heard, selects none. -/
theorem Hub.ptpAnnounce_first (hm : (h.base t).master = none) (hr : (h.base t).rivals = []) (g : Glob) (n src : Nat) (ds : List Nat) :
    h.ptpAnnounce g t n src ds = (h.setBase t { h.base t with rivals := [h.heardNow n src ds false], slaveValid := false, master := none }).drew 1 := by
  have hqual : h.heardBefore t n src = false := by rw [Hub.heardBefore, hm, hr]; rfl
  have hchosen : (h.hears t [h.heardNow n src ds false]).chosenMaster t = none := by
    rw [Hub.chosenMaster, Hub.bestQualified, Hub.base_hears]
    rfl
  rw [Hub.ptpAnnounce_hears, hqual, hr, List.filter_nil, Hub.ptpSelect, hchosen, Hub.base_hears]
  dsimp only
  rw [Hub.hears, Hub.setBase_setBase]

/-- A slave-only PTP clock that hears one master that qualifies chooses it. -/
theorem Hub.chosenMaster_only (hrole : h.f (Reg.TBt_PTP t) 6 5 = 0) (n src : Nat) (ds : List Nat) :
    (h.hears t [h.heardNow n src ds true]).chosenMaster t = some (h.heardNow n src ds true) := by
  have hstill : (h.hears t [h.heardNow n src ds true]).stillHeard t (h.heardNow n src ds true) = true := by
    have hnow : h.clock ≤ h.clock + 4 * (h.hears t [h.heardNow n src ds true]).announceCycles t := Nat.le_add_right ..
    exact Bool.and_eq_true_iff.2 ⟨rfl, Bool.or_eq_true_iff.2 (.inl (decide_eq_true hnow))⟩
  have hslave : (h.hears t [h.heardNow n src ds true]).f (Reg.TBt_PTP t) 6 5 = 0 := hrole
  have hown : (h.hears t [h.heardNow n src ds true]).ownPrimary t = false := by rw [Hub.ownPrimary, hslave]; rfl
  have hbetter (l : List Nat) : (h.hears t [h.heardNow n src ds true]).ownBetter t l = false := by rw [Hub.ownBetter, hslave]; rfl
  have hbest : (h.hears t [h.heardNow n src ds true]).bestQualified t (fun _ => true) = some (h.heardNow n src ds true) := by
    rw [Hub.bestQualified, Hub.base_hears, List.filter_cons_of_pos (by rw [hstill]; rfl)]
    rfl
  rw [Hub.chosenMaster, hbest, Option.filter_some, hown, hbetter]
  rfl

/-- The second Announce of a sender within four intervals selects it as the master of a slave-only PTP clock that hears no other. -/
theorem Hub.ptpAnnounce_second {before : PtpMaster} (hrole : h.f (Reg.TBt_PTP t) 6 5 = 0) (hm : (h.base t).master = none)
    (hr : (h.base t).rivals = [before]) (hport : before.port = n) (hsrc : before.src = src) (hheard : h.clock ≤ before.heard + 4 * h.announceCycles t)
    (g : Glob) (ds : List Nat) :
    h.ptpAnnounce g t n src ds = ((h.setBase t { h.base t with
      rivals := [h.heardNow n src ds true], master := some (h.heardNow n src ds true), slavePort := n, slaveValid := true
      masters := satInc 15 (h.base t).masters, syncT2 := none, reqT3 := [] }).drew 1).tbEvent g t 7 := by
  have hqual : h.heardBefore t n src = true := by simp [Hub.heardBefore, hr, hport, hsrc, hheard]
  have hothers : (h.base t).rivals.filter (fun x => !(n == x.port && src == x.src)) = [] := by simp [hr, hport, hsrc]
  have hfollows : (h.base t).master.any (h.heardNow n src ds true).same = false := by rw [hm]; rfl
  rw [Hub.ptpAnnounce_hears, hqual, hothers, Hub.ptpSelect, Hub.chosenMaster_only hrole, Hub.base_hears]
  dsimp only
  rw [hfollows, if_neg Bool.false_ne_true, Hub.hears, Hub.setBase_setBase]
  rfl

end

/-! ## Messages received -/

section
variable {s : State} {n domain t phase : Nat} {l2 : Bool}

theorem exec_ptpMessageReceive (ha : s.hub.awake 3 = true) (n domain : Nat) (l2 : Bool) (phase : Nat) (m : PtpMsg) :
    exec (.ptpMessageReceive n domain l2 phase m) s = .next { s with hub := s.hub.ptpMessageReceive s.glob n domain l2 phase m } :=
  wokenWhen_awake (Hub.netHears n) (fun s => nextHub s (s.hub.ptpMessageReceive s.glob n domain l2 phase m)) ha

/-- A message that the PTP of a base takes. -/
theorem exec_ptpMessageReceive_served (ha : s.hub.awake 3 = true) (hg : s.glob.safe = false) (hup : s.hub.netUp n 0 = true)
    (ht : (List.range 3).find? (fun t => s.hub.ptpServes t n domain l2) = some t) (m : PtpMsg) :
    exec (.ptpMessageReceive n domain l2 phase m) s = .next { s with hub := s.hub.ptpReceive s.glob t n phase m } := by
  rw [exec_ptpMessageReceive ha, Hub.ptpMessageReceive, hg, hup, ht]
  rfl

/-- A one-step Sync of the selected master's port measures its base. -/
theorem Hub.ptpReceive_sync {h : Hub} (hroom : h.fifoLoses 4 = false) (hv : (h.base t).slaveValid = true) (hp : (h.base t).slavePort = n) (g : Glob)
    (phase seq t1 : Nat) (corr : Int) :
    h.ptpReceive g t n phase (.sync seq false t1 corr) =
      (h.fifoPush g 4 (stampWord (h.netIngress t n phase))).ptpMeasure g t n t1 (h.netIngress t n phase) corr := by
  rw [Hub.ptpReceive]
  dsimp only
  rw [hroom, hv, hp, beq_self_eq_true]
  rfl

/-- The FIFO of the network time stamps has room. -/
theorem Hub.fifoFull_stamps {h : Hub} (hroom : h.fifoLoses 4 = false) : h.fifoFull 4 = false := by simpa [Hub.fifoLoses] using hroom

/-- A measurement of a base in LOCKED leaves its value and gives its offset. -/
theorem Hub.measure_offset {k : Hub} (hj : (k.base t).jumpedAt ≠ some k.clock) (hd : (k.base t).deferred = none) (hr : k.saddle.role ≠ .standby)
    (hs : (k.base t).state = .locked) (g : Glob) (m : Int) (source : Nat) :
    (k.measure g t m source).now48 t = k.now48 t ∧ ((k.measure g t m source).base t).offset = offsetNs m := by
  have hsave : Captured k (k.save t) := Captured.save ⟨rfl, rfl, rfl, rfl, rfl, fun _ _ => rfl⟩ t
  obtain ⟨haccept, hrefuse⟩ := Hub.measure_judged (m := m) g source hj hd hr (.inl hs)
  rcases Nat.lt_or_ge (k.f (Reg.TBt_LIMITS t) 19 0 * ns48) m.natAbs with hout | hin
  · obtain ⟨⟨quality, hb⟩, -⟩ := Hub.servoRefuse_locked (k := k.save t) m ((congrArg _ (hsave.base t)).trans hs) source
    rw [hrefuse hout, Hub.now48, hb, hsave.base]
    exact ⟨rfl, rfl⟩
  · rw [haccept hin hs, Hub.now48, Hub.base_servoAccept, hsave.base]
    exact ⟨rfl, rfl⟩

theorem ptpSync_measures (hroom : s.hub.fifoLoses 4 = false) (hv : (s.hub.base t).slaveValid = true) (hp : (s.hub.base t).slavePort = n)
    (hd : (s.hub.base t).deferred = none) (hr : s.hub.saddle.role ≠ .standby) (hs : (s.hub.base t).state = .locked)
    (hj : (s.hub.base t).jumpedAt ≠ some s.hub.clock) (phase seq t1 : Nat) (corr : Int) :
    (s.hub.ptpReceive s.glob t n phase (.sync seq false t1 corr)).now48 t = s.hub.now48 t ∧
      ((s.hub.ptpReceive s.glob t n phase (.sync seq false t1 corr)).base t).offset =
        offsetNs (ptpOffset t1 (s.hub.netIngress t n phase) corr (s.hub.pathDelay t n) (s.hub.netAsym n)) := by
  have hk : Captured s.hub (s.hub.fifoPush s.glob 4 (stampWord (s.hub.netIngress t n phase))) :=
    .push (Hub.fifoFull_stamps hroom) rfl rfl rfl rfl rfl rfl _ _
  rw [Hub.ptpReceive_sync hroom hv hp]
  generalize s.hub.fifoPush s.glob 4 (stampWord (s.hub.netIngress t n phase)) = k at hk
  let b : TimeBase := { k.base t with lastDiff := (s.hub.netIngress t n phase : Int) - (t1 : Int) - corr }
  have hb : (k.setBase t b).base t = b := Hub.base_setBase_same ..
  have hbase (x : Nat) : k.base x = s.hub.base x := hk.base x
  have hdelay : k.pathDelay t n = s.hub.pathDelay t n := by rw [Hub.pathDelay, Hub.pathDelay, hbase]
  have hasym : k.netAsym n = s.hub.netAsym n := by
    rw [Hub.netAsym, Hub.netAsym, Hub.s32, Hub.s32, Hub.n, Hub.n, hk.regs _ (not_mem_pendRegs (by simp only [Reg.NETn_TS_ASYM]; omega))]
  obtain ⟨hnow, hoffset⟩ := Hub.measure_offset (k := k.setBase t b) (t := t) (by rw [hb]; exact (hbase t ▸ hk.clock ▸ hj :))
    (by rw [hb]; exact (hbase t ▸ hd :)) (by exact (hk.saddle ▸ hr :)) (by rw [hb]; exact (hbase t ▸ hs :)) s.glob
    (ptpOffset t1 (s.hub.netIngress t n phase) corr (s.hub.pathDelay t n) (s.hub.netAsym n)) n
  rw [Hub.ptpMeasure, hdelay, hasym]
  refine ⟨hnow.trans ?_, hoffset⟩
  rw [Hub.now48, hb, Hub.now48, ← hbase]

end

/-! ## Q7 -/

theorem Hub.subPort_modSub (h : Hub) (n i : Nat) (f : NetSub → NetSub) : (h.modSub n i f).subPort n i = f (h.subPort n i) :=
  (Sparse.get_set _ _ _ _ _).trans (if_pos rfl)

theorem Hub.subPort_of_net {h h' : Hub} (hn : h'.net = h.net) (n i : Nat) : h'.subPort n i = h.subPort n i := by rw [Hub.subPort, Hub.subPort, hn]

section
variable {h : Hub} {n phase : Nat} {f : Q7Frame} (g : Glob)

theorem Hub.fifoPush_time (i w : Nat) : (h.fifoPush g i w).time = h.time := (Hub.fifoPush_frame ..).2.2.2.2.1

theorem Hub.fifoPush_net (i w : Nat) : (h.fifoPush g i w).net = h.net := (Hub.fifoPush_frame ..).2.2.2.2.2.2.2.2.1

/-- A sub-port on which nothing waits and that has sent nothing in this cycle sends a message at once. -/
theorem Hub.ptpPost_leaves {t : Nat} (hq : (h.subPort n 0).q7 = []) (hs : (h.subPort n 0).sentAt ≠ some h.clock) (m : PtpOut) (seq stamp : Nat) :
    h.ptpPost g t n m seq stamp phase = h.q7Leave g n phase { t := t, m := m, l2 := h.ptpL2 t, seq := seq, stamp := stamp } := by
  have hfree : ((h.subPort n 0).q7.isEmpty && (h.subPort n 0).sentAt != some h.clock) = true := by simp [hq, hs]
  rw [Hub.ptpPost, hfree]
  rfl

/-- A message waits in Q7 while another is there (R118). -/
theorem Hub.ptpPost_waits {t : Nat} (hq : (h.subPort n 0).q7 ≠ []) (m : PtpOut) (seq stamp : Nat) :
    h.ptpPost g t n m seq stamp phase = h.q7Enter n { t := t, m := m, l2 := h.ptpL2 t, seq := seq, stamp := stamp } := by
  have hfull : ((h.subPort n 0).q7.isEmpty && (h.subPort n 0).sentAt != some h.clock) = false := by simp [hq]
  rw [Hub.ptpPost, hfull]
  rfl

/-- A message that carries the stamp it was given leaves, and no more. -/
theorem Hub.q7Leave_general (hm : (∃ l, f.m = .announce l) ∨ f.m = .followUp ∨ f.m = .delayResp) :
    h.q7Leave g n phase f = (h.modSub n 0 (fun x => { x with sentAt := some h.clock })).ptpEmit n f f.stamp := by
  rw [Hub.q7Leave]
  rcases hm with ⟨l, hm⟩ | hm | hm <;> rw [hm]

/-- A Sync leaves with its stamp, which its Follow_Up is to bring. -/
theorem Hub.q7Leave_sync (hm : f.m = .sync) (hroom : h.fifoLoses 4 = false) :
    h.q7Leave g n phase f = (((h.modSub n 0 (fun x => { x with sentAt := some h.clock })).fifoPush g 4 (stampWord (h.netEgress f.t n phase))).ptpEmit n f
      (h.netEgress f.t n phase)).q7Enter n { f with m := .followUp, stamp := h.netEgress f.t n phase } := by
  rw [Hub.q7Leave, hm, hroom]
  rfl

/-- A delay request leaves, and its stamp is kept. -/
theorem Hub.q7Leave_delayReq (hm : f.m = .delayReq) (hroom : h.fifoLoses 4 = false) :
    ∃ k : Hub, k.time = h.time ∧ h.q7Leave g n phase f = (k.ptpEmit n f (h.netEgress f.t n phase)).setBase f.t { k.base f.t with
      reqT3 := Sparse.set none (k.base f.t).reqT3 n (some (f.seq, h.netEgress f.t n phase)) } := by
  refine ⟨(h.modSub n 0 (fun x => { x with sentAt := some h.clock })).fifoPush g 4 (stampWord (h.netEgress f.t n phase)), Hub.fifoPush_time .., ?_⟩
  rw [Hub.q7Leave, hm, hroom]
  rfl

end

/-! ## Messages sent -/

section
variable {s : State} {n t phase seq : Nat}

theorem exec_ptpMessageSend (t n seq phase : Nat) (m : PtpSend) (s : State) :
    exec (.ptpMessageSend t n seq phase m) s = .next { s with hub := s.hub.ptpMessageSend s.glob t n seq phase m } := rfl

/-- What the PTP of a base with a port that carries frames posts. -/
theorem Hub.ptpMessageSend_posts {h : Hub} {g : Glob} (hg : g.safe = false) (hup : h.netUp n 0 = true) (hc : h.f (Reg.TBt_CTL t) 1 0 = 1)
    (hb : h.bit (Reg.TBt_PTP t) n = true) (m : PtpSend) :
    h.ptpMessageSend g t n seq phase m = match m with
      | .announce => if h.ptpMaster t n then (h.drew 2).ptpPost g t n (.announce (h.announced t)) seq (h.netEgress t n phase) phase else h
      | .sync => if h.ptpMaster t n then h.ptpPost g t n .sync seq 0 phase else h
      | .delayReq =>
        if h.ptpMaster t n && !h.ptpPeer t then h else h.ptpPost g t n (if h.ptpPeer t then .peerReq else .delayReq) seq 0 phase := by
  rw [Hub.ptpMessageSend.eq_def, hg, hup, hc, hb]
  cases m <;> rfl

/-- A full Q7 refuses a message, which changes nothing but for the values that an Announce has drawn (R118). -/
theorem Hub.ptpPost_refused {h : Hub} {g : Glob} (hq : (h.subPort n 0).q7.length = 64) (m : PtpOut) (stamp : Nat) :
    h.ptpPost g t n m seq stamp phase = h := by
  have hne : (h.subPort n 0).q7 ≠ [] := fun he => by simp [he] at hq
  rw [Hub.ptpPost_waits g hne, Hub.q7Enter, if_neg (by omega)]

/-- The master's Sync leaves, and its Follow_Up waits. -/
theorem ptpSync_sent (hroom : s.hub.fifoLoses 4 = false) (hq : (s.hub.subPort n 0).q7 = []) (hs : (s.hub.subPort n 0).sentAt ≠ some s.hub.clock) :
    (s.hub.ptpPost s.glob t n .sync seq 0 phase).time = s.hub.time ∧
      Out.ptp n t .sync (s.hub.ptpL2 t) seq (s.hub.netEgress t n phase) ∈ (s.hub.ptpPost s.glob t n .sync seq 0 phase).out ∧
      ((s.hub.ptpPost s.glob t n .sync seq 0 phase).subPort n 0).q7 =
        [{ t := t, m := .followUp, l2 := s.hub.ptpL2 t, seq := seq, stamp := s.hub.netEgress t n phase }] := by
  rw [Hub.ptpPost_leaves s.glob hq hs, Hub.q7Leave_sync s.glob rfl hroom]
  let k := ((s.hub.modSub n 0 (fun x => { x with sentAt := some s.hub.clock })).fifoPush s.glob 4 (stampWord (s.hub.netEgress t n phase))).ptpEmit n
    { t := t, m := .sync, l2 := s.hub.ptpL2 t, seq := seq, stamp := 0 } (s.hub.netEgress t n phase)
  have htime : k.time = s.hub.time := Hub.fifoPush_time ..
  have hsub : k.subPort n 0 = { s.hub.subPort n 0 with sentAt := some s.hub.clock } :=
    (Hub.subPort_of_net (Hub.fifoPush_net ..) n 0).trans (Hub.subPort_modSub ..)
  have henter (f : Q7Frame) : k.q7Enter n f = k.modSub n 0 (fun x => { x with q7 := x.q7 ++ [f] }) := by
    refine if_pos ?_
    rw [hsub, hq]
    decide
  rw [henter]
  refine ⟨htime, List.mem_cons_self .., ?_⟩
  rw [Hub.subPort_modSub, hsub, hq]
  rfl

theorem ptpDelayReq_sent (hroom : s.hub.fifoLoses 4 = false) (hq : (s.hub.subPort n 0).q7 = []) (hs : (s.hub.subPort n 0).sentAt ≠ some s.hub.clock) :
    (s.hub.ptpPost s.glob t n .delayReq seq 0 phase).base t =
        { s.hub.base t with reqT3 := Sparse.set none (s.hub.base t).reqT3 n (some (seq, s.hub.netEgress t n phase)) } ∧
      Out.ptp n t .delayReq (s.hub.ptpL2 t) seq (s.hub.netEgress t n phase) ∈ (s.hub.ptpPost s.glob t n .delayReq seq 0 phase).out := by
  obtain ⟨k, htime, hleave⟩ := Hub.q7Leave_delayReq (h := s.hub) (n := n) (phase := phase)
    (f := { t := t, m := .delayReq, l2 := s.hub.ptpL2 t, seq := seq, stamp := 0 }) s.glob rfl hroom
  rw [Hub.ptpPost_leaves s.glob hq hs, hleave, Hub.base_setBase_same]
  have hb : k.base t = s.hub.base t := by rw [Hub.base, Hub.base, htime]
  exact ⟨by rw [← hb], List.mem_cons_self ..⟩

end

/-! ## The parts of the obligation -/

section
variable {s : State} {n t phase : Nat}

theorem Hub.ptpReceive_announce_first {h : Hub} (hm : (h.base t).master = none) (hr : (h.base t).rivals = []) (g : Glob) (n phase src : Nat) (ds : List Nat) :
    RegsKeptBut [] h (h.ptpReceive g t n phase (.announce src ds)) ∧
      (h.ptpReceive g t n phase (.announce src ds)).base t =
        { h.base t with rivals := [h.heardNow n src ds false], slaveValid := false } := by
  rw [Hub.ptpReceive, Hub.ptpAnnounce_first hm hr]
  refine ⟨fun _ _ => rfl, (Hub.base_setBase_same ..).trans ?_⟩
  rw [← hm]

theorem Hub.ptpReceive_announce_second {h : Hub} {before : PtpMaster} {src : Nat} (ht : t < 4) (hrole : h.f (Reg.TBt_PTP t) 6 5 = 0)
    (hm : (h.base t).master = none) (hr : (h.base t).rivals = [before]) (hport : before.port = n) (hsrc : before.src = src)
    (hheard : h.clock ≤ before.heard + 4 * h.announceCycles t) (g : Glob) (phase : Nat) (ds : List Nat) :
    (h.ptpReceive g t n phase (.announce src ds)).pending (36 + t) = true ∧
      (h.ptpReceive g t n phase (.announce src ds)).base t = { h.base t with
        rivals := [h.heardNow n src ds true], master := some (h.heardNow n src ds true), slavePort := n, slaveValid := true
        masters := satInc 15 (h.base t).masters, syncT2 := none, reqT3 := [] } := by
  rw [Hub.ptpReceive, Hub.ptpAnnounce_second hrole hm hr hport hsrc hheard]
  exact ⟨Hub.pending_raise _ _ _ _ (source_of_base ht), ((Hub.tbEvent_basesKept ..).base t).trans (Hub.base_setBase_same ..)⟩

/-- A master answers a delay request with the stamp of its arrival. -/
theorem ptpDelayReq_answered (hroom : s.hub.fifoLoses 4 = false) (hpeer : s.hub.ptpPeer t = false) (hmaster : s.hub.ptpMaster t n = true)
    (hq : (s.hub.subPort n 0).q7 = []) (hs : (s.hub.subPort n 0).sentAt ≠ some s.hub.clock) (phase seq : Nat) :
    (s.hub.ptpReceive s.glob t n phase (.delayReq seq)).time = s.hub.time ∧
      Out.ptp n t .delayResp (s.hub.ptpL2 t) seq (s.hub.netIngress t n phase) ∈ (s.hub.ptpReceive s.glob t n phase (.delayReq seq)).out := by
  have hanswer : s.hub.ptpReceive s.glob t n phase (.delayReq seq) =
      (s.hub.fifoPush s.glob 4 (stampWord (s.hub.netIngress t n phase))).ptpPost s.glob t n .delayResp seq (s.hub.netIngress t n phase) phase := by
    rw [Hub.ptpReceive, hroom, hpeer, hmaster]
    exact if_neg Bool.false_ne_true
  have hk : Captured s.hub (s.hub.fifoPush s.glob 4 (stampWord (s.hub.netIngress t n phase))) :=
    .push (Hub.fifoFull_stamps hroom) rfl rfl rfl rfl rfl rfl _ _
  have hsub := Hub.subPort_of_net (Hub.fifoPush_net (h := s.hub) s.glob 4 (stampWord (s.hub.netIngress t n phase))) n 0
  have hl2 : (s.hub.fifoPush s.glob 4 (stampWord (s.hub.netIngress t n phase))).ptpL2 t = s.hub.ptpL2 t := by
    rw [Hub.ptpL2, hk.f (by simp only [Reg.TBt_PTP]; omega), Hub.ptpL2]
  rw [hanswer, Hub.ptpPost_leaves s.glob (by rw [hsub, hq]) (by rw [hsub, hk.clock]; exact hs), Hub.q7Leave_general s.glob (.inr (.inr rfl)), hl2]
  exact ⟨Hub.fifoPush_time .., List.mem_cons_self ..⟩

/-- A Follow_Up at the head of Q7 leaves with the stamp that it brings. -/
theorem Hub.netSend_followUp {h : Hub} {w : Q7Frame} {ws : List Q7Frame} (hup : h.netUp n 0 = true) (hq : (h.subPort n 0).q7 = w :: ws)
    (hm : w.m = .followUp) (g : Glob) :
    ((h.netSend g n 0).subPort n 0).q7 = ws ∧ ((h.netSend g n 0).subPort n 0).txq = (h.subPort n 0).txq ∧
      Out.ptp n w.t .followUp w.l2 w.seq w.stamp ∈ (h.netSend g n 0).out := by
  have hsends : h.netSend g n 0 = ((h.drew 1).modSub n 0 (fun x => { x with q7 := ws })).q7Leave g n (h.freeAt 0 % (5 * 2 ^ 47)) w := by
    rw [Hub.netSend, hup, hq]
    rfl
  have hsub (k : Hub) (x : NetSub → NetSub) (o : Out) : ((k.modSub n 0 x).emit o).subPort n 0 = x (k.subPort n 0) := Hub.subPort_modSub ..
  rw [hsends, Hub.q7Leave_general g (.inr (.inl hm)), Hub.ptpEmit, hsub, Hub.subPort_modSub, hm]
  exact ⟨rfl, rfl, List.mem_cons_self ..⟩

/-- A full Q7 refuses what the PTP of a base posts. -/
theorem Hub.ptpMessageSend_refused {h : Hub} {g : Glob} (hg : g.safe = false) (hup : h.netUp n 0 = true) (hc : h.f (Reg.TBt_CTL t) 1 0 = 1)
    (hb : h.bit (Reg.TBt_PTP t) n = true) (hfull : (h.subPort n 0).q7.length = 64) (seq phase : Nat) (m : PtpSend) :
    h.ptpMessageSend g t n seq phase m = if m = .announce ∧ h.ptpMaster t n = true then h.drew 2 else h := by
  have hrefused (m : PtpOut) (stamp : Nat) : h.ptpPost g t n m seq stamp phase = h := Hub.ptpPost_refused hfull m stamp
  have hdrawn (m : PtpOut) (stamp : Nat) : (h.drew 2).ptpPost g t n m seq stamp phase = h.drew 2 := Hub.ptpPost_refused (h := h.drew 2) hfull m stamp
  rw [Hub.ptpMessageSend_posts hg hup hc hb]
  cases m <;> simp [hrefused, hdrawn]

end

/-! ## The obligation -/

/-- Settles O24: a stamp passes FIFO 4, which has room, and the message is then the last that leaves. -/
theorem ptpSelectsAndMeasures : Obligations.PtpSelectsAndMeasures := by
  refine ⟨fun s n domain t phase l2 ha hg hup ht => ?_, fun s n t phase seq hg hup ht hc hb hroom => ?_,
    fun s n w ws hup hq hm => Hub.netSend_followUp hup hq hm s.glob, fun s n hdown => ⟨fun ha domain l2 phase m => ?_, fun t seq phase m => ?_⟩⟩
  · have hexec := exec_ptpMessageReceive_served (phase := phase) ha hg hup ht
    have ht4 : t < 4 := by have := List.mem_range.1 (List.mem_of_find?_eq_some ht); omega
    exact ⟨fun src ds hrole hnone hr => ⟨_, hexec _, ⟨rfl, rfl, rfl⟩, Hub.ptpReceive_announce_first hnone hr s.glob n phase src ds⟩,
      fun src ds before hrole hnone hr hport hsrc hheard =>
        ⟨_, hexec _, ⟨rfl, rfl, rfl⟩, Hub.ptpReceive_announce_second ht4 hrole hnone hr hport hsrc hheard s.glob phase ds⟩,
      fun seq t1 corr hroom hv hp hd hr hs hj => ⟨_, hexec _, ⟨rfl, rfl, rfl⟩, ptpSync_measures hroom hv hp hd hr hs hj phase seq t1 corr⟩,
      fun seq hroom hpeer hmaster hq hs => ⟨_, hexec _, ⟨rfl, rfl, rfl⟩, ptpDelayReq_answered hroom hpeer hmaster hq hs phase seq⟩⟩
  · have hposts (m : PtpSend) := Hub.ptpMessageSend_posts (t := t) (seq := seq) (phase := phase) hg hup hc hb m
    refine ⟨fun hq hs hmaster => ⟨⟨_, exec_ptpMessageSend .., ⟨rfl, rfl, rfl⟩, ?_⟩, ?_, fun x hx => ?_, fun hnone => ?_⟩,
      fun hq hs hslave hpeer => ⟨_, exec_ptpMessageSend .., ⟨rfl, rfl, rfl⟩, ?_⟩, fun hmaster hq hlt => ?_, fun m hfull => ?_⟩
    · rw [hposts, hmaster]
      exact ptpSync_sent hroom hq hs
    · rw [exec_ptpMessageSend, hposts, hmaster]
      dsimp only
      rw [if_pos rfl, Hub.ptpPost_leaves s.glob (h := s.hub.drew 2) hq hs, Hub.q7Leave_general s.glob (.inl ⟨_, rfl⟩)]
      rfl
    · rw [Hub.announced, hx]
    · rw [Hub.announced, hnone]
      exact ⟨rfl, rfl⟩
    · rw [hposts, hslave, hpeer]
      exact ptpDelayReq_sent hroom hq hs
    · rw [exec_ptpMessageSend, hposts, hmaster]
      dsimp only
      rw [if_pos rfl, Hub.ptpPost_waits s.glob hq, Hub.q7Enter, if_pos hlt]
      rfl
    · rw [exec_ptpMessageSend, Hub.ptpMessageSend_refused hg hup hc hb hfull]
  · rw [exec_ptpMessageReceive ha, Hub.ptpMessageReceive, hdown, Bool.not_false, Bool.or_true, if_pos rfl]
  · rw [exec_ptpMessageSend, Hub.ptpMessageSend.eq_def, hdown, Bool.not_false, Bool.or_true, Bool.true_or, if_pos rfl]

end Sys2Proof.Machine
end

section
/-! A downlink round (R281, R308): an ODATA whose record begins in a poisoned block of the shadow writes that block from its start. -/

namespace Sys2Proof.Machine

/-- A radio that beacons, with one round of data in its interval. Of output 0, to which the empty patch gives no slots, slots 66 to 129 are dirty, and the
block of the shadow in which they begin is poisoned. -/
def dirtyPastItsSlots : State :=
  { mem := { tags := [(0x400040 / 64, { poison := true })] }
    hub :=
      { regs := [(Reg.MEM_STATUS, BitVec.ofNat 32 1)]
        odls := [(0, { phase := .beaconing, ctl := 5 * 2 ^ 3 + 1 * 2 ^ 13 + 2 * 2 ^ 16, marks := [(0, (66, 129))], latest := [(0, (0, List.replicate 65 1))] })] } }

theorem dirtyPastItsSlots_receives : dirtyPastItsSlots.hub.odlReceives dirtyPastItsSlots.glob 0 = true := by decide +kernel

theorem dirtyPastItsSlots_blank : dirtyPastItsSlots.mem.dramByte 0x400040 = 0 := by decide +kernel

/-- Slot 65 of the shadow, which is not among those sent, takes its value with them. -/
theorem downlinkRound_writes_slot65 {t : State} (ht : exec (.downlinkRound 0 1 .sent []) dirtyPastItsSlots = .next t) : t.mem.dramByte 0x400040 = 1 := by
  have hmem : (downlinkOf (dirtyPastItsSlots.reads []) 0 1 .sent).mem.dramByte 0x400040 = 1 := by decide +kernel
  cases ht
  exact hmem

/-- Refutes O41: its clause on ODATA bounds the bytes written where no block that holds slots of the output is poisoned, but asks nothing of the marks. In a
state whose mark lies past the slots of its output, the record of slots 66 to 129 begins in a poisoned block past them, and slot 65 is written too. -/
theorem not_nodesJoinAndAreSentTheirData : ¬ Obligations.NodesJoinAndAreSentTheirData := by
  intro hall
  obtain ⟨-, hrounds⟩ := hall
  obtain ⟨-, hodata, -, -⟩ := hrounds dirtyPastItsSlots 0 dirtyPastItsSlots_receives (by decide +kernel)
  obtain ⟨t, ht, -, -, -, -, -, -, -, hkept, -⟩ :=
    hodata 1 0 0 (List.replicate 65 1) 66 129 97 (by decide +kernel) (.inl (by decide)) (by decide +kernel) (by decide +kernel) (by decide +kernel)
      (by decide +kernel) (by decide) (by decide)
  have hno : ceilDiv (outSlots (outRec dirtyPastItsSlots.hub.patch 0)) 64 = 0 := by decide +kernel
  have hplace : dirtyPastItsSlots.hub.shadowAddr 0 = 0x400000 := by decide +kernel
  obtain ⟨hbytes, -⟩ := hkept fun k hk => absurd hk (by omega)
  have hsame : t.mem.dramByte 0x400040 = dirtyPastItsSlots.mem.dramByte 0x400040 := hbytes 0x400040 (.inl (by omega))
  rw [downlinkRound_writes_slot65 ht, dirtyPastItsSlots_blank] at hsame
  cases hsame

end Sys2Proof.Machine
end

section
/-! One PCLK cycle (R88, R462): what every part of the hub leaves as it is while the bases advance. -/

namespace Sys2Proof.Machine

-- As in the tests, one proof at a time: proofs that wait for one another each take a thread of the compile, whose memory is limited.
set_option Elab.async false

/-- The clock, the commit engine, the root PLL, the powers-off that wait and the time of each base are as they were, and D3 is not entered. Where `steady` holds, the
misses of the partner and the frequency and state of each base are as they were too. -/
structure CycleKept (steady : Prop) (h h' : Hub) : Prop where
  clock  : h'.clock = h.clock
  commit : h'.commit = h.commit
  awake  : h.power.state ≠ 3 → h'.power.state ≠ 3
  lock   : h'.power.rootLock = h.power.rootLock
  off    : h'.power.offPending = h.power.offPending
  now    : ∀ b, h'.now48 b = h.now48 b
  misses : steady → h'.saddle.misses = h.saddle.misses
  servo  : steady → ∀ b, (h'.base b).freq = (h.base b).freq ∧ (h'.base b).state = (h.base b).state

namespace CycleKept

variable {p : Prop} {a b c : Hub}

theorem refl (h : Hub) : CycleKept p h h := ⟨rfl, rfl, id, rfl, rfl, fun _ => rfl, fun _ => rfl, fun _ _ => ⟨rfl, rfl⟩⟩

theorem trans (h1 : CycleKept p a b) (h2 : CycleKept p b c) : CycleKept p a c where
  clock := h2.clock.trans h1.clock
  commit := h2.commit.trans h1.commit
  awake ha := h2.awake (h1.awake ha)
  lock := h2.lock.trans h1.lock
  off := h2.off.trans h1.off
  now t := (h2.now t).trans (h1.now t)
  misses hp := (h2.misses hp).trans (h1.misses hp)
  servo hp t := ⟨((h2.servo hp t).1).trans (h1.servo hp t).1, ((h2.servo hp t).2).trans (h1.servo hp t).2⟩

/-- Parts of a hub as far apart as these decide it. -/
theorem of_parts (hc : b.clock = a.clock) (hm : b.commit = a.commit) (hp : b.power = a.power) (ht : b.time = a.time) (hs : b.saddle.misses = a.saddle.misses) :
    CycleKept p a b := by
  have hbase (t : Nat) : b.base t = a.base t := by rw [Hub.base, Hub.base, ht]
  exact ⟨hc, hm, hp ▸ id, hp ▸ rfl, hp ▸ rfl, fun t => congrArg TimeBase.t48 (hbase t), fun _ => hs, fun _ t => by rw [hbase]; exact ⟨rfl, rfl⟩⟩

theorem of_same (hc : b.clock = a.clock := by simp) (hm : b.commit = a.commit := by simp) (hp : b.power = a.power := by simp)
    (ht : b.time = a.time := by simp) (hs : b.saddle = a.saddle := by simp) : CycleKept p a b := .of_parts hc hm hp ht (by rw [hs])

theorem weaken (hk : CycleKept False a b) (hp : ¬p) : CycleKept p a b :=
  ⟨hk.clock, hk.commit, hk.awake, hk.lock, hk.off, hk.now, fun h => absurd h hp, fun h => absurd h hp⟩

theorem of_reports (hr : Reports a b) : CycleKept p a b :=
  .of_same (congrArg Hub.clock hr.shape :) (congrArg Hub.commit hr.shape :) (congrArg Hub.power hr.shape :) (congrArg Hub.time hr.shape :)
    (congrArg Hub.saddle hr.shape :)

theorem ite {q : Prop} [Decidable q] (hb : CycleKept p a b) (hc : CycleKept p a c) : CycleKept p a (if q then b else c) := by split <;> assumption

theorem foldl {α : Type} {f : Hub → α → Hub} (hf : ∀ k x, CycleKept p k (f k x)) (xs : List α) (h : Hub) : CycleKept p h (xs.foldl f h) :=
  List.foldlRecOn (motive := CycleKept p h) xs f (.refl h) fun k hk x _ => hk.trans (hf k x)

theorem modPort (h : Hub) (n : Nat) (f : Port → Port) : CycleKept p h (h.modPort n f) := .of_same

theorem modSub (h : Hub) (n s : Nat) (f : NetSub → NetSub) : CycleKept p h (h.modSub n s f) := .of_same

theorem drew (h : Hub) (k : Nat) : CycleKept p h (h.drew k) := .of_same

theorem raise (h : Hub) (g : Glob) (src d : Nat) : CycleKept p h (h.raise g src d) := .of_reports (Hub.raise_reports ..)

theorem raiseIf (h : Hub) (c : Bool) (g : Glob) (src d : Nat) : CycleKept p h (h.raiseIf c g src d) := .of_reports (Hub.raiseIf_reports ..)

theorem hintEnds (h : Hub) (n : Nat) : CycleKept p h (h.hintEnds n) :=
  .of_parts rfl rfl rfl rfl rfl

theorem complete (h : Hub) (g : Glob) (q tag status : Nat) (result : List Byte) : CycleKept p h (h.complete g q tag status result) :=
  .of_reports (Hub.complete_reports ..)

theorem emit (h : Hub) (o : Out) : CycleKept p h (h.emit o) := .of_same

theorem count (h : Hub) (off bits : Nat) : CycleKept p h (h.count off bits) := .of_same

theorem countBy (h : Hub) (off bits k : Nat) : CycleKept p h (h.countBy off bits k) := .of_same

/-- The session of the Saddle block may change where nothing is to be kept of it. -/
theorem setRole (h : Hub) (x : Saddle) : CycleKept False h (h.setSaddle x) := ⟨rfl, rfl, id, rfl, rfl, fun _ => rfl, False.elim, False.elim⟩

theorem setSaddle (h : Hub) {x : Saddle} (hx : x.misses = h.saddle.misses := by exact rfl) : CycleKept p h (h.setSaddle x) := .of_parts rfl rfl rfl rfl hx

theorem pmuAdd (h : Hub) (off k : Nat) : CycleKept p h (h.pmuAdd off k) := .of_same

/-- A base that holds its time, its frequency and its state. -/
theorem setBase (h : Hub) (t : Nat) {x : TimeBase} (hnow : x.t48 = (h.base t).t48 := by exact rfl)
    (hservo : p → x.freq = (h.base t).freq ∧ x.state = (h.base t).state := by exact fun _ => ⟨rfl, rfl⟩) : CycleKept p h (h.setBase t x) where
  clock := by simp
  commit := by simp
  awake := by simp
  lock := by simp
  off := by simp
  now b := by
    simp only [Hub.now48, Hub.base_setBase]
    split
    case isTrue hb => rw [hnow, hb]
    case isFalse => rfl
  misses _ := by simp
  servo hp b := by
    simp only [Hub.base_setBase]
    split
    case isTrue hb => exact hb ▸ hservo hp
    case isFalse => exact ⟨rfl, rfl⟩

end CycleKept

variable {p : Prop} (h : Hub) (g : Glob)

/-! ## Frames that leave a port -/

theorem Hub.emitFrame_cycleKept (n : Nat) (f : NFrame) : CycleKept p h (h.emitFrame n f) :=
  .trans (.trans (.modPort ..) (.pmuAdd ..)) (.emit ..)

theorem Hub.leaveQ0_cycleKept (n : Nat) (f : NFrame) : CycleKept p h (h.leaveQ0 g n f) := by
  have hstamp (w : Nat) : CycleKept p h ((h.drew 1).fifoPush g (stampFifo n) w) := .of_same
  unfold Hub.leaveQ0
  refine .ite (.trans (.trans (Hub.emitFrame_cycleKept ..) (.drew ..)) (.modPort ..)) (.ite ?_ (Hub.emitFrame_cycleKept ..))
  exact .trans (.ite (hstamp _) ((hstamp _).trans (.modPort ..))) (Hub.emitFrame_cycleKept ..)

theorem Hub.pumpQ0_cycleKept (n : Nat) : CycleKept p h (h.pumpQ0 g n) := by
  unfold Hub.pumpQ0
  split
  · exact .refl h
  · exact .ite (Hub.leaveQ0_cycleKept ..) (.trans (.modPort ..) (Hub.leaveQ0_cycleKept ..))

theorem Hub.fixLate_cycleKept (j : Nat) (f : QFrame) : CycleKept p h (h.fixLate g j f) := by
  unfold Hub.fixLate
  dsimp only
  repeat' split
  all_goals exact .of_same

theorem Hub.sendFrom_cycleKept (j n q : Nat) (fs : List QFrame) : CycleKept p h (h.sendFrom g j n q fs).1 := by
  induction fs generalizing h with
  | nil => exact .refl h
  | cons f fs ih =>
    unfold Hub.sendFrom
    split
    · exact ih h
    · split
      · exact .trans (.ite (.refl h) (Hub.fixLate_cycleKept ..)) ((Hub.emitFrame_cycleKept ..).trans (ih _))
      · exact .refl h

theorem Hub.pumpQueue_cycleKept (j q : Nat) : CycleKept p h (h.pumpQueue g j q) := by
  refine .foldl (fun k n => ?_) _ h
  unfold Hub.pumpEnd
  exact .ite (.modPort ..) ((Hub.sendFrom_cycleKept ..).trans (.modPort ..))

theorem Hub.pumpPix_cycleKept (j : Nat) : CycleKept p h (h.pumpPix g j) := by
  unfold Hub.pumpPix
  split
  · exact .refl h
  · exact .ite (.trans (.foldl (fun k n => .ite (Hub.emitFrame_cycleKept ..) (.refl k)) _ h) (.modPort ..)) (.refl h)

theorem Hub.pumpLow_cycleKept (j : Nat) : CycleKept p h (h.pumpLow g j) := by
  unfold Hub.pumpLow
  split
  · exact Hub.pumpQueue_cycleKept ..
  · exact .ite (.refl h) (Hub.pumpQueue_cycleKept ..)

theorem Hub.pump_cycleKept (j : Nat) : CycleKept p h (h.pump g j) := by
  have htop : CycleKept p h (h.pumpTop g j) := .trans (.foldl (fun k n => k.pumpQ0_cycleKept g n) _ h) (Hub.pumpQueue_cycleKept ..)
  exact (htop.trans (Hub.pumpPix_cycleKept ..)).trans (Hub.pumpLow_cycleKept ..)

theorem Hub.saddleSendLong_cycleKept (n : Nat) (o : Out) : CycleKept p h (h.saddleSendLong n o) := .ite (.of_parts rfl rfl rfl rfl rfl) (.refl h)

theorem Hub.admitOne_cycleKept (j : Nat) (f : QFrame) : CycleKept p h (h.admitOne g j f) := by
  have hmirror (f : QFrame) : CycleKept p h (h.mirrorFrame j f) :=
    .ite (.trans (.setSaddle ..) (Hub.saddleSendLong_cycleKept ..)) (.refl h)
  unfold Hub.admitOne
  refine .ite ((hmirror _).trans (.modPort ..)) (.ite ?_ ((hmirror _).trans (.modPort ..)))
  split
  · exact .complete ..
  · exact .refl h

theorem Hub.admitList_cycleKept (j : Nat) (fs : List QFrame) : CycleKept p h (h.admitList g j fs).1 := by
  induction fs generalizing h with
  | nil => exact .refl h
  | cons f fs ih =>
    unfold Hub.admitList
    split
    · exact (Hub.admitOne_cycleKept ..).trans (ih _)
    · exact ih h

theorem Hub.submit_cycleKept (j : Nat) (f : QFrame) : CycleKept p h (h.submit g j f) := by
  refine .trans (.modPort ..) (.ite (Hub.pump_cycleKept ..) ?_)
  exact .trans (.trans (.trans (.modPort ..) (Hub.admitList_cycleKept ..)) (.modPort ..)) (Hub.pump_cycleKept ..)

/-! ## Engines, lanes and counters -/

theorem Hub.pmuEngAdd_cycleKept (e k n : Nat) : CycleKept p h (h.pmuEngAdd e k n) := .of_same

theorem Hub.tickEngine_cycleKept (e : Nat) : CycleKept p h (h.tickEngine e) := by
  have hcounts : CycleKept p h (((List.range 8).foldl (fun h' k => h'.pmuEngAdd e k (h.tickCount e k)) (h.pmuEngAdd e 8 3)).drew 12) :=
    .trans (.trans (Hub.pmuEngAdd_cycleKept ..) (.foldl (fun k _ => k.pmuEngAdd_cycleKept ..) _ _)) (.drew ..)
  have hall := CycleKept.ite (q := (h.pmuFrozen e || (h.eng e).phase == .off || (h.eng e).phase == .failed) = true) (.refl h) hcounts
  exact .ite (.refl h) (.ite hall (hall.trans .of_same))

theorem Hub.tickLane_cycleKept (n : Nat) : CycleKept p h (h.tickLane n) := by
  have hblocks (F : Port → Port) (k : Nat) : CycleKept p h ((h.modPort n F).pmuAdd (Reg.PMU_NSHn_IDLE_BLK_LO n) k) := .trans (.modPort ..) (.pmuAdd ..)
  unfold Hub.tickLane
  refine .ite (.ite (.refl h) (.modPort ..)) (.ite ((hblocks ..).trans (.count ..)) (hblocks ..))

theorem Hub.digestJudge_cycleKept (n : Nat) : CycleKept p h (h.digestJudge g n) := by
  have hmatch (k : Hub) : CycleKept p k (k.digestMatch n) := .ite (.refl k) (.of_parts rfl rfl rfl rfl rfl)
  have hmute (k : Hub) : CycleKept p k (k.digestMute n) := .ite (.refl k) (.ite (.of_parts rfl rfl rfl rfl rfl) (.of_parts rfl rfl rfl rfl rfl))
  exact .ite (.refl h) (.ite (.trans (.setSaddle ..) (hmatch _)) (.trans (.trans (.trans (.setSaddle ..) (.count ..)) (.raise ..)) (hmute _)))

theorem Hub.digestGo_cycleKept (n : Nat) : CycleKept p h (h.digestGo g n) := by
  unfold Hub.digestGo
  split
  · exact .refl h
  · refine .ite (.refl h) ?_
    exact .trans (.trans (.trans (.modPort ..) (.setSaddle ..)) (Hub.saddleSendLong_cycleKept ..)) (Hub.digestJudge_cycleKept ..)

theorem Hub.tickPort_cycleKept (n : Nat) : CycleKept p h (h.tickPort g n) :=
  .trans ((h.tickLane_cycleKept n).trans (.ite (Hub.pump_cycleKept ..) (.refl _))) (Hub.digestGo_cycleKept ..)

theorem Hub.tickCol_cycleKept : CycleKept p h h.tickCol := .ite .of_same (.refl h)

theorem Hub.tickPower_cycleKept : CycleKept p h h.tickPower := by
  have hres (n : Nat) : CycleKept p h { h with power := { h.power with resCycles := n } } :=
    ⟨rfl, rfl, id, rfl, rfl, fun _ => rfl, fun _ => rfl, fun _ _ => ⟨rfl, rfl⟩⟩
  exact .ite (.refl h) (.ite (hres _) ((hres 0).trans .of_same))

/-! ## Queues -/

theorem Hub.blockFault_cycleKept (b : Block) : CycleKept p h (h.blockFault g b) := by
  have hreport (k : Hub) : CycleKept p k (k.blockReport b) :=
    .ite (.refl k) ⟨rfl, rfl, id, rfl, rfl, fun _ => rfl, fun _ => rfl, fun _ _ => ⟨rfl, rfl⟩⟩
  unfold Hub.blockFault
  refine .ite (.refl h) ?_
  split
  · exact .trans (.trans (.drew ..) (.raise ..)) (hreport _)
  · exact hreport h

theorem Hub.fifoPop_cycleKept (i : Nat) : CycleKept p h (h.fifoPop g i) := by
  have hword : CycleKept p h { (h.drew 1).setFifo i ((h.fifo i).drop 1) with popped := i :: h.popped } := .of_same
  unfold Hub.fifoPop
  refine .ite (.refl h) ?_
  dsimp only
  split
  · exact hword
  · exact hword.trans .of_same
  · exact hword.trans (Hub.blockFault_cycleKept ..)

theorem Hub.doorbellsEnter_cycleKept (ds : List Doorbell) : CycleKept p h (h.doorbellsEnter ds) := by
  induction ds generalizing h with
  | nil => exact .refl h
  | cons d ds ih =>
    unfold Hub.doorbellsEnter
    refine .ite .of_same (.ite (.trans .of_same (ih _)) (ih h))

theorem Hub.eventsEnter_cycleKept (es : List Event) : CycleKept p h (h.eventsEnter es) := by
  induction es generalizing h with
  | nil => exact .refl h
  | cons e es ih =>
    unfold Hub.eventsEnter
    exact .ite .of_same (.trans .of_same (ih _))

theorem Hub.tickFifos_cycleKept : CycleKept p h (h.tickFifos g) := by
  have hpops : CycleKept p h ((List.range 8).foldl (fun h i => h.fifoPop g i) { h with popped := [] }) :=
    .trans (b := { h with popped := [] }) .of_same (.foldl (fun k i => k.fifoPop_cycleKept g i) _ _)
  unfold Hub.tickFifos
  exact hpops.trans (.trans (.trans .of_same (Hub.doorbellsEnter_cycleKept ..)) (Hub.eventsEnter_cycleKept ..))

theorem Hub.tickScan_cycleKept : CycleKept p h (h.tickScan g) := by
  have hgap (k : Hub) (pg : Nat) : CycleKept p k (k.gapAfterStep g pg) := by
    have hset (G : Group) : CycleKept p k ((k.setGroup pg G).pgEvent g pg 3 0) := .trans .of_same (.raise ..)
    unfold Hub.gapAfterStep
    refine .ite (.refl k) ?_
    split
    · exact hset _
    · exact hset _
    · exact .refl k
  refine .trans (.foldl (fun k pg => ?_) _ h) (.foldl (fun k n => ?_) _ _)
  · exact .ite (hgap k pg) (.refl k)
  · exact .ite (.trans (.modPort ..) (Hub.pump_cycleKept ..)) (.refl k)

theorem Hub.q7Leave_cycleKept (n phase : Nat) (f : Q7Frame) : CycleKept p h (h.q7Leave g n phase f) := by
  have henter (k : Hub) (f : Q7Frame) : CycleKept p k (k.q7Enter n f) := .ite (.modSub ..) (.refl k)
  have hstamped (w : Nat) (f : Q7Frame) (stamp : Nat) :
      CycleKept p h (((h.modSub n 0 (fun x => { x with sentAt := some h.clock })).fifoPush g 4 w).ptpEmit n f stamp) := .of_same
  unfold Hub.q7Leave
  dsimp only
  split
  · exact .ite (hstamped ..) ((hstamped ..).trans (henter ..))
  · exact .ite (hstamped ..) ((hstamped ..).trans (henter ..))
  · exact .ite (hstamped ..) ((hstamped ..).trans (.setBase ..))
  · exact .ite (hstamped ..) ((hstamped ..).trans (.setBase ..))
  · exact .of_same

theorem Hub.netSend_cycleKept (n s : Nat) : CycleKept p h (h.netSend g n s) := by
  have hfirm (k : Hub) : CycleKept p k (k.netFirmEnter n s) := by
    have hpost (f : TxFrame) : CycleKept p k (k.netPost n s 6 f).1 := .of_same
    unfold Hub.netFirmEnter
    split
    next => exact .refl k
    next f fs _ =>
      split
      next h1 he => exact .trans (he ▸ hpost f :) (.modSub ..)
      next => exact .refl k
  unfold Hub.netSend
  refine .ite (.refl h) ?_
  split
  · exact .trans (.trans (.drew ..) (.modSub ..)) (Hub.q7Leave_cycleKept ..)
  · exact .refl h
  · split
    · exact .refl h
    · exact .trans (.trans (.modSub ..) (.emit ..)) (hfirm _)

theorem Hub.tickNet_cycleKept : CycleKept p h (h.tickNet g) := by
  have hdrain (k : Hub) (n s : Nat) : CycleKept p k (k.netDrain n s) := .ite (.refl k) (.trans (.drew ..) (.modSub ..))
  have hflow (k : Hub) (f : Nat) : CycleKept p k (k.flowDrain f) := .ite (.refl k) .of_same
  have hsacn (k : Hub) : CycleKept p k k.sacnDrain := .ite (.refl k) .of_same
  refine .trans (.trans (.foldl (fun k i => ?_) _ h) (.foldl hflow _ _)) (hsacn _)
  exact (Hub.netSend_cycleKept ..).trans (hdrain ..)

theorem Hub.bundleStep_cycleKept : CycleKept p h (h.bundleStep g) := by
  unfold Hub.bundleStep
  split
  · exact .refl h
  · refine .ite (.refl h) (.trans ?_ (.foldl (fun k f => k.submit_cycleKept g _ f) _ _))
    exact .of_same rfl rfl rfl rfl rfl

/-! ## The promotion of a STANDBY -/

theorem Hub.becomes_cycleKept (r : Role) (cause : Nat) : CycleKept False h (h.becomes g r cause) := by
  have hradios (k : Hub) : CycleKept False k (k.roleRadios r) := by
    refine .foldl (fun k x => ?_) _ k
    split
    · exact .of_same rfl rfl rfl rfl rfl
    · refine .ite ?_ (.refl k)
      unfold Hub.odlTakeover Hub.odlAllWhole
      refine .trans ?_ (.foldl (fun k o => ?_) _ _) <;> exact .of_same rfl rfl rfl rfl rfl
  have hconflict (k : Hub) : CycleKept False k (k.conflictFetched g) := .foldl (fun k _ => .foldl (fun k _ => .complete ..) _ k) _ k
  have harms (k : Hub) : CycleKept False k k.dropArms := .foldl (fun k _ => .ite .of_same (.refl k)) _ k
  have hends (k : Hub) (status : Nat) (fs : List QFrame) : CycleKept False k (fs.foldl (fun h f => match f.owner with
      | .tileSend q tag => h.complete g q tag status []
      | _ => h) k) := by
    refine .foldl (fun k f => ?_) fs k
    split
    · exact .complete ..
    · exact .refl k
  have hleave (k : Hub) (j : Nat) : CycleKept False k (k.leaveOrigin g j) :=
    .ite (.refl k) (.ite (.trans (.trans .of_same (hends _ _ _)) (.modPort ..)) (.trans (.modPort ..) (hends _ _ _)))
  have hfollows : CycleKept False h ((h.modSaddle fun x => { x with role := r, misses := 0, diffs := 0 }).roleRadios r) := .trans (.setRole ..) (hradios _)
  refine .ite (.refl h) (.trans (.trans ?_ (.foldl hleave _ _)) (.trans (.raise ..) (.of_reports (Hub.record_reports ..))))
  exact .ite (hfollows.trans (hconflict _)) (.ite (hfollows.trans (harms _)) hfollows)

theorem Hub.updateQuality_cycleKept (t : Nat) : CycleKept p h (h.updateQuality g t) :=
  .ite (.refl h) (.trans (.setBase ..) (.raise ..))

theorem Hub.enterHoldover_cycleKept (t : Nat) : CycleKept False h (h.enterHoldover g t) :=
  .trans (.trans (.setBase (hservo := False.elim) ..) (.raise ..)) (Hub.updateQuality_cycleKept ..)

theorem Hub.ptpSelect_cycleKept (t : Nat) : CycleKept p h (h.ptpSelect g t) := by
  unfold Hub.ptpSelect
  dsimp only
  split
  · exact .trans (.setBase ..) (.drew ..)
  · refine .ite (.trans (.setBase ..) (.drew ..)) ?_
    exact .trans (.trans (.setBase ..) (.drew ..)) (.raise ..)

theorem Hub.sourceLoss_cycleKept (acts : Bool) (t : Nat) : CycleKept False h (h.sourceLoss g acts t) := by
  have hlost (k : Hub) (x : TimeBase) (hnow : x.t48 = (k.base t).t48) : CycleKept False k (k.setBase t x) := .setBase k t hnow False.elim
  unfold Hub.sourceLoss
  dsimp only
  have hheld (c : Bool) (x : TimeBase) (hnow : x.t48 = (h.base t).t48) :
      CycleKept False h (if c = true then (h.setBase t x).enterHoldover g t else h.setBase t x) :=
    .ite ((hlost h x hnow).trans (Hub.enterHoldover_cycleKept ..)) (hlost h x hnow)
  refine .ite (hheld _ _ ?_) ((hheld _ _ ?_).trans (Hub.ptpSelect_cycleKept ..)) <;> rfl

theorem Hub.adoptItems_cycleKept : CycleKept p h h.adoptItems := by
  have hitems (k : Hub) (f : List WorkItem → List WorkItem) : CycleKept p k (k.colItems f) := .of_same rfl rfl rfl rfl rfl
  refine .foldl (fun k i => ?_) _ h
  split
  · exact .refl k
  · exact .ite (hitems ..) (.ite (.refl k) .of_same)

theorem Hub.promote_cycleKept (cause : Nat) : CycleKept False h (h.promote g cause) := by
  have hports (k : Hub) (n : Nat) : CycleKept False k (if k.chainKind n = 1 then
      ((k.modPort n (fun p => { p.jump with q1 := resendHeld (k.ends n) p.q1, q3 := resendHeld (k.ends n) p.q3 })).countBy
        (Reg.NSHn_CNT_RETRY n) 31 (k.port n).heldFrames).pump g n
    else k.modPort n Port.jump) := .ite (.trans (.trans (.modPort ..) (.countBy ..)) (Hub.pump_cycleKept ..)) (.modPort ..)
  have hreturn (k : Hub) : CycleKept False k k.returnItems := .of_same rfl rfl rfl rfl rfl
  have hbases (k : Hub) (t : Nat) : CycleKept False k (if k.f (Reg.TBt_CTL t) 1 0 = 0 then k else k.sourceLoss g true t) :=
    .ite (.refl k) (Hub.sourceLoss_cycleKept ..)
  unfold Hub.promote
  exact .trans (.trans (.trans (.trans ((Hub.becomes_cycleKept ..).trans (.count ..)) (.foldl hports _ _)) ((hreturn _).trans (Hub.adoptItems_cycleKept ..)))
    (.foldl hbases _ _)) (.setRole ..)

/-- No STANDBY whose partner has missed nothing is promoted. -/
theorem Hub.tickPair_cycleKept (hp : p → h.saddle.misses = 0) : CycleKept p h (h.tickPair g) := by
  unfold Hub.tickPair
  split
  case isTrue hpromoted =>
    have hmissed : h.saddle.misses ≠ 0 := by
      simp only [Bool.and_eq_true, bne_iff_ne] at hpromoted
      exact hpromoted.1.1.1.2
    exact (Hub.promote_cycleKept ..).weaken fun hsteady => hmissed (hp hsteady)
  case isFalse => exact .refl h

/-! ## The cycle -/

/-- The hub as its bases advance: the measurements of the cycle before have told what they had to tell. -/
def Hub.advanced (h : Hub) (g : Glob) : Hub := { h.tellMeasured g with clock := (h.tellMeasured g).clock + 1 }.tickBases

theorem Hub.tellMeasured_cycleKept : CycleKept p h (h.tellMeasured g) := by
  have htells (k : Hub) (e : Nat × Told) : CycleKept p k (k.tell g e.1 e.2) := by
    cases he : e.2 with
    | event d => exact .raise ..
    | refusal o st src => exact .of_reports (Hub.record_reports ..)
  refine .trans ?_ (.foldl htells _ _)
  exact ⟨rfl, rfl, id, rfl, rfl, fun _ => rfl, fun _ => rfl, fun _ _ => ⟨rfl, rfl⟩⟩

/-- Of the cycle only the bases' advance changes what `CycleKept` speaks of. -/
theorem Hub.tick_cycleKept (hp : p → (h.advanced g).saddle.misses = 0) : CycleKept p (h.advanced g) (h.tick g) := by
  have hblocks : CycleKept p (h.advanced g) ((((((List.range 32).foldl (fun h n => h.tickPort g n)
      ((List.range 24).foldl (fun h e => h.tickEngine e) (h.advanced g))).tickCol.tickPower.tickFifos g).tickScan g).tickNet g).bundleStep g) :=
    .trans (.trans (.trans (.trans (.trans (.trans (.trans (.foldl (fun k e => k.tickEngine_cycleKept e) _ _) (.foldl (fun k n => k.tickPort_cycleKept g n) _ _))
      (Hub.tickCol_cycleKept ..)) (Hub.tickPower_cycleKept ..)) (Hub.tickFifos_cycleKept ..)) (Hub.tickScan_cycleKept ..)) (Hub.tickNet_cycleKept ..))
      (Hub.bundleStep_cycleKept ..)
  exact hblocks.trans (Hub.tickPair_cycleKept _ g fun hsteady => (hblocks.misses hsteady).trans (hp hsteady))

/-- A base after one cycle in lock: 2.5 ns × (1 + f) later (R88). -/
def TimeBase.stepped (b : TimeBase) : TimeBase := { b with t48 := addTime b.t48 (baseStep b.freq) }

theorem Hub.base_foldl_stepped (ts : List Nat) (hts : ts.Nodup) (t : Nat) :
    (ts.foldl (fun h t => h.setBase t (h.base t).stepped) h).base t = if t ∈ ts then (h.base t).stepped else h.base t := by
  induction ts generalizing h with
  | nil => rfl
  | cons u us ih =>
    obtain ⟨hu, hus⟩ := List.nodup_cons.1 hts
    rw [List.foldl_cons, ih _ hus, Hub.base_setBase]
    by_cases he : u = t
    · subst he
      simp [hu]
    · simp [he, Ne.symm he]

/-- Each base advances by its step while the root PLL is in lock, and by nothing while it is not (R88, R462). -/
theorem Hub.base_tickBases (t : Nat) : h.tickBases.base t = if h.power.rootLock = true ∧ t < 4 then (h.base t).stepped else h.base t := by
  unfold Hub.tickBases
  by_cases hlock : h.power.rootLock = true
  · rw [if_pos hlock]
    exact (Hub.base_foldl_stepped h _ List.nodup_range t).trans (by simp [hlock])
  · simp [hlock]

/-- Beside the bases nothing advances with them. -/
theorem Hub.tickBases_frame : h.tickBases.clock = h.clock ∧ h.tickBases.commit = h.commit ∧ h.tickBases.power = h.power ∧ h.tickBases.saddle = h.saddle := by
  unfold Hub.tickBases
  split
  · refine List.foldlRecOn (motive := fun k : Hub => k.clock = h.clock ∧ k.commit = h.commit ∧ k.power = h.power ∧ k.saddle = h.saddle) _ _
      ⟨rfl, rfl, rfl, rfl⟩ fun k hk t _ => ?_
    simpa using hk
  · exact ⟨rfl, rfl, rfl, rfl⟩

/-! ## Wakes -/

theorem Hub.sleepEnds_cycleKept : CycleKept p h (h.sleepEnds g) := by
  have hitem (k : Hub) (i : WorkItem) (status : Nat) : CycleKept p k (k.endItem g i status) := by
    unfold Hub.endItem
    dsimp only
    split
    · refine .trans ?_ (.complete ..)
      exact .of_same rfl rfl rfl rfl rfl
    · exact .of_same rfl rfl rfl rfl rfl
  have hwork (k : Hub) (e : Nat) : CycleKept p k (k.endWork g e) := by
    unfold Hub.endWork
    dsimp only
    split
    · refine .trans ?_ (hitem ..)
      exact .of_same rfl rfl rfl rfl rfl
    · exact .of_same rfl rfl rfl rfl rfl
  have hengine (k : Hub) (e : Nat) : CycleKept p k (k.engineWakes g e) := by
    refine .ite (hwork k e) (.ite ((hwork k e).trans ?_) ((hwork k e).trans ?_)) <;> exact .of_same
  have hport (k : Hub) (n : Nat) : CycleKept p k (k.portTrains g n) := by
    have hretrain (k : Hub) (phase : LinkPhase) : CycleKept p k (k.retrain n phase) := .trans (.trans (.modPort ..) (.hintEnds ..)) (.emit ..)
    exact .ite (.refl k) (.ite (.ite (.refl k) (.trans (.modPort ..) (.emit ..))) (.trans (.raiseIf ..) (hretrain ..)))
  exact .trans (.foldl hengine _ _) (.foldl hport _ _)

theorem wakeUp_cycleKept (code : Nat) (s : State) (hasleep : s.hub.power.state ≠ 0) : CycleKept p s.hub (wakeUp code s).hub := by
  have hd0 : CycleKept p s.hub { s.hub with power := { s.hub.power with state := 0, wake := code, wokeAt := some s.hub.clock } } :=
    ⟨rfl, rfl, fun _ => by simp, rfl, rfl, fun _ => rfl, fun _ => rfl, fun _ _ => ⟨rfl, rfl⟩⟩
  unfold wakeUp
  dsimp only
  rw [if_neg hasleep]
  exact hd0.trans (.trans (.ite (Hub.sleepEnds_cycleKept ..) (.refl _)) (.raiseIf ..))

/-- Only a wake from D3 loads anything. -/
theorem wakeUp_mem (code : Nat) {s : State} (hd3 : s.hub.power.state ≠ 3) : (wakeUp code s).mem = s.mem := by
  unfold wakeUp
  dsimp only
  rw [if_neg hd3]
  split
  · split <;> rfl
  · rfl

section
variable {s : State}

/-- With no power-off that waits, the powers do no more than wake the hub. -/
theorem powerTick_cycleKept (hoff : s.hub.power.offPending = []) : CycleKept p s.hub (powerTick s).hub ∧ (powerTick s).pending = s.pending ∧
    (powerTick s).glob = s.glob ∧ (s.hub.power.state ≠ 3 → (powerTick s).mem = s.mem) := by
  have hquiet (k : State) (hk : CycleKept p s.hub k.hub) : (if k.hub.power.offPending.isEmpty = true then k else offPendingRun k) = k :=
    if_pos (by rw [hk.off, hoff]; rfl)
  unfold powerTick
  dsimp only
  split
  case isTrue hwake =>
    have hasleep : s.hub.power.state ≠ 0 := by
      simp only [Bool.and_eq_true, bne_iff_ne] at hwake
      exact hwake.1
    have hkept : CycleKept p s.hub (s.wokenBy 1).hub := by
      unfold State.wokenBy
      split
      · exact wakeUp_cycleKept 1 s hasleep
      · exact .refl _
    rw [hquiet _ hkept]
    refine ⟨hkept, s.wokenBy_pending 1, s.wokenBy_glob 1, fun hd3 => ?_⟩
    unfold State.wokenBy
    split
    · exact wakeUp_mem 1 hd3
    · rfl
  case isFalse =>
    rw [hquiet _ (.refl _)]
    exact ⟨.refl _, rfl, rfl, fun _ => rfl⟩

end

/-! ## The obligation -/

section
variable {g : Glob}

theorem Hub.advanced_frame : (h.advanced g).clock = h.clock + 1 ∧ (h.advanced g).commit = h.commit ∧
    (h.advanced g).power.offPending = h.power.offPending ∧ (h.power.state ≠ 3 → (h.advanced g).power.state ≠ 3) ∧ (h.advanced g).saddle.misses = h.saddle.misses := by
  have htold : CycleKept True h (h.tellMeasured g) := Hub.tellMeasured_cycleKept h g
  obtain ⟨hclock, hcommit, hpower, hsaddle⟩ := Hub.tickBases_frame { h.tellMeasured g with clock := (h.tellMeasured g).clock + 1 }
  refine ⟨hclock.trans ?_, hcommit.trans htold.commit, ?_, ?_, ?_⟩
  · exact congrArg (· + 1) htold.clock
  · exact (congrArg Power.offPending hpower).trans htold.off
  · rw [Hub.advanced, hpower]
    exact htold.awake
  · exact (congrArg Saddle.misses hsaddle).trans (htold.misses trivial)

/-- A base that has told what it had to tell advances from where it stood. -/
theorem Hub.advanced_base (t : Nat) : ((h.advanced g).base t).freq = (h.base t).freq ∧ ((h.advanced g).base t).state = (h.base t).state ∧
    (h.advanced g).now48 t = if h.power.rootLock = true ∧ t < 4 then addTime (h.now48 t) (baseStep (h.base t).freq) else h.now48 t := by
  have htold : CycleKept True h (h.tellMeasured g) := Hub.tellMeasured_cycleKept h g
  obtain ⟨hfreq, hstate⟩ := htold.servo trivial t
  have hbase : (h.advanced g).base t = if h.power.rootLock = true ∧ t < 4 then ((h.tellMeasured g).base t).stepped else (h.tellMeasured g).base t :=
    (Hub.base_tickBases _ t).trans (by rw [show _ = h.power.rootLock from htold.lock]; rfl)
  rw [Hub.now48, hbase]
  split
  · refine ⟨hfreq, hstate, ?_⟩
    rw [← hfreq, ← htold.now t]
    rfl
  · exact ⟨hfreq, hstate, htold.now t⟩

end

theorem step_of_empty_queue {s : State} (hqueue : s.pending = []) : step s = .next (idleStep s) := by simp only [step, hqueue]

/-- Settles O2: of an idle step the bases' advance alone moves the bases; every other part of the cycle, and a wake at its end, keeps what the statement names. -/
theorem idleCycleAdvancesTheBases : Obligations.IdleCycleAdvancesTheBases := by
  intro s hqueue hoff
  obtain ⟨hclock, hcommit, hstill, hd3, hmisses⟩ := Hub.advanced_frame s.hub (g := s.glob)
  have htick : CycleKept (s.hub.saddle.misses = 0) (s.hub.advanced s.glob) (s.hub.tick s.glob) := Hub.tick_cycleKept _ _ fun hm => hmisses.trans hm
  have hstep : step s = .next (powerTick { s with hub := (s.hub.tick s.glob).viewTables s.mem }) := step_of_empty_queue hqueue
  generalize s.hub.tick s.glob = k at htick hstep
  let viewed : State := { s with hub := k.viewTables s.mem }
  obtain ⟨hpower, hpending, hglob, hmem⟩ := powerTick_cycleKept (p := s.hub.saddle.misses = 0) (s := viewed) (htick.off.trans (hstill.trans hoff))
  have hnow (t : Nat) : (powerTick viewed).hub.now48 t = (s.hub.advanced s.glob).now48 t := (hpower.now t).trans (htick.now t)
  refine ⟨_, hstep, hpending.trans hqueue, hglob, fun h3 => hmem (htick.awake (hd3 h3)), (hpower.clock.trans htick.clock).trans hclock, ?_, fun hm t => ?_,
    fun hlock t ht => ?_, fun hlock t => ?_⟩
  · rw [hpower.commit, ← hcommit, ← htick.commit]
    rfl
  · obtain ⟨hfreq, hstate, -⟩ := Hub.advanced_base s.hub (g := s.glob) t
    obtain ⟨hfreq1, hstate1⟩ := htick.servo hm t
    obtain ⟨hfreq2, hstate2⟩ := hpower.servo hm t
    exact ⟨(hfreq2.trans hfreq1).trans hfreq, (hstate2.trans hstate1).trans hstate⟩
  · obtain ⟨-, -, hadv⟩ := Hub.advanced_base s.hub (g := s.glob) t
    rw [hnow, hadv, if_pos ⟨hlock, ht⟩]
  · obtain ⟨-, -, hadv⟩ := Hub.advanced_base s.hub (g := s.glob) t
    rw [hnow, hadv, if_neg (by simp [hlock])]

end Sys2Proof.Machine
end

section
/-! A frame boundary (R17, R18): a pipe of a port of the east half while PD_NSHW, with the region's router, is off. -/

namespace Sys2Proof.Machine

/-- A running group with pipe 16, for which a buffer waits. PD_NSHW (domain 8) is off: the block of the pipe, in PD_PIX, serves, and its port P16 is treated as
powered off (R18). -/
def runningBehindWest : State :=
  { hub :=
      { regs := [(Reg.PGg_CTL 1, BitVec.ofNat 32 1), (Reg.SCNp_CTL 16, BitVec.ofNat 32 3)]
        power := { domains := 0xFFF - 2 ^ 8 }
        scan := { groups := [(1, { phase := .running, first := false })], pipes := [(16, { next := some { addr := 4096 } })] } } }

/-- The frame begins without the pipe: its buffer waits on. -/
theorem frameBoundary_leaves_next {t : State} (ht : exec (.frameBoundary 1 [] .none) runningBehindWest = .next t) : ((t.hub.pipe 16).next).isSome = true := by
  have hnext : ((frameBegins 1 [] .none runningBehindWest).hub.pipe 16).next.isSome = true := by decide +kernel
  cases ht
  exact hnext

/-- Refutes O31: the clause on the boundary's pipes asks of a pipe that its block serves, and no more. While PD_NSHW is off, a pipe of P16 to P31 whose block serves
takes no buffer, for the hub treats its port as powered off (R18). -/
theorem not_framesBeginOnTheGrid : ¬ Obligations.FramesBeginOnTheGrid := by
  intro hall
  obtain ⟨hbegins, -⟩ := hall runningBehindWest 1 rfl (by decide +kernel) rfl rfl
  obtain ⟨t, ht, -, -, -, -, -, -, -, -, hpipes⟩ :=
    hbegins .none (by decide) (by decide +kernel) (by decide +kernel) (by decide +kernel) (by decide +kernel) (by decide +kernel)
  obtain ⟨-, hnext⟩ := hpipes 16 { addr := 4096 } (by decide +kernel) (by decide +kernel) (by decide +kernel)
  have hwaits := frameBoundary_leaves_next ht
  rw [hnext] at hwaits
  cases hwaits

end Sys2Proof.Machine
end

section
/-! NET ports (R116 to R119, R139): the branches of a frame that arrives, what a PAUSE holds, and the events of links and holds. -/

namespace Sys2Proof.Machine

-- As in the tests, one proof at a time: proofs that wait for one another each take a thread of the compile, whose memory is limited.
set_option Elab.async false

/-! ## Commands that raise a source after all else -/

section
variable {c : Instr} {s : State} {h : Hub} {src detail : Nat}

theorem becomes_raiseIf {b : Bool} (he : exec c s = .next { s with hub := h.raiseIf b s.glob src detail }) : Becomes c s h :=
  ⟨_, he, ⟨rfl, rfl, rfl⟩, Hub.raiseIf_reports ..⟩

theorem becomesRaising_raise (he : exec c s = .next { s with hub := h.raise s.glob src detail }) (hsrc : sourceReserved src = false) :
    BecomesRaising c s h src :=
  ⟨_, he, ⟨rfl, rfl, rfl⟩, Hub.raise_reports .., Hub.pending_raise _ _ _ _ hsrc⟩

end

theorem sourceReserved_net {n : Nat} (hn : n < 4) : sourceReserved (32 + n) = false := by
  interval_cases n <;> rfl

theorem Hub.hasSub_lt {h : Hub} {n sub : Nat} (hs : h.hasSub n sub = true) : n < 4 := by
  rw [Hub.hasSub, Bool.and_eq_true, decide_eq_true_eq] at hs
  exact hs.1

theorem Hub.netUp_hasSub {h : Hub} {n sub : Nat} (hup : h.netUp n sub = true) : h.hasSub n sub = true := by
  simp only [Hub.netUp, Bool.and_eq_true] at hup
  exact hup.1.1

/-! ## Frames (R116, R117) -/

section
variable {s : State} {h : Hub} {n sub : Nat} {frame : List Byte}

theorem exec_netFrameReceive (ha : s.hub.awake 3 = true) (n sub : Nat) (frame : List Byte) (ok : Bool) :
    exec (.netFrameReceive n sub frame ok) s = .next { s with hub := s.hub.netReceive s.glob n sub frame ok } := by
  rw [show exec (.netFrameReceive n sub frame ok) s = execNetFrameReceive n sub frame ok s from rfl, execNetFrameReceive, wokenWhen_awake _ _ ha]

theorem Hub.netReceive_discards (g : Glob) (hup : h.netUp n sub = true) {ok : Bool} (hbad : frame.length < 64 ∨ 1522 < frame.length ∨ ok = false) :
    h.netReceive g n sub frame ok = h.count (Reg.NETn_CNT_FCS n) 31 := by
  have hcond : (decide (frame.length < 64) || decide (1522 < frame.length) || !ok) = true := by simpa [or_assoc] using hbad
  simp only [Hub.netReceive, hup, hcond, Bool.not_true, Bool.false_eq_true, if_false, if_true]

section
variable (hup : h.netUp n sub = true) (hlo : 64 ≤ frame.length) (hhi : frame.length ≤ 1522)
include hup hlo hhi

omit hup in
theorem frame_sound : (decide (frame.length < 64) || decide (1522 < frame.length) || !true) = false := by simp [hlo, hhi]

theorem Hub.netReceive_control (g : Glob) (hmac : beAt frame 12 2 = 0x8808) : h.netReceive g n sub frame true = h := by
  rw [Hub.netReceive, hup, frame_sound hlo hhi, if_neg (by decide), if_neg Bool.false_ne_true, if_pos hmac]

theorem Hub.netReceive_overrun (g : Glob) (hmac : beAt frame 12 2 ≠ 0x8808) (hfull : 262144 < (h.subPort n sub).rx + frame.length) :
    h.netReceive g n sub frame true =
      (h.count (Reg.NETn_CNT_OVR n) 31).raiseIf (h.f (Reg.NETn_CNT_OVR n) 30 0 == 0) g (32 + n) (3 + sub * 256) := by
  rw [Hub.netReceive, hup, frame_sound hlo hhi, if_neg (by decide), if_neg Bool.false_ne_true, if_neg hmac, if_pos hfull]

theorem Hub.netReceive_takes (g : Glob) (hmac : beAt frame 12 2 ≠ 0x8808) (hroom : (h.subPort n sub).rx + frame.length ≤ 262144) :
    h.netReceive g n sub frame true =
      let h1 := h.modSub n sub (fun x => { x with rx := x.rx + frame.length })
      if firmwareFrame frame && !g.safe then h1.netFirm n sub (.answer frame) else h1 := by
  rw [Hub.netReceive, hup, frame_sound hlo hhi, if_neg (by decide), if_neg Bool.false_ne_true, if_neg hmac, if_neg (not_lt.2 hroom)]

end

/-! ## Frames of the control firmware (R116, R118) -/

theorem Hub.netFirm_rx (h : Hub) (n sub : Nat) (f : TxFrame) : ((h.netFirm n sub f).subPort n sub).rx = (h.subPort n sub).rx := by
  have hpost : ((h.netPost n sub 6 f).1.subPort n sub).rx = (h.subPort n sub).rx := by
    unfold Hub.netPost
    dsimp only
    split
    case isTrue => rw [Hub.subPort_modSub]
    case isFalse => rfl
  have hwait : ((h.modSub n sub (fun x => { x with firm := x.firm ++ [f] })).subPort n sub).rx = (h.subPort n sub).rx := by
    rw [Hub.subPort_modSub]
  unfold Hub.netFirm
  dsimp only
  split
  case isTrue => rfl
  case isFalse =>
    split
    case isTrue => exact hwait
    case isFalse =>
      split
      case h_1 h1 heq => rwa [heq] at hpost
      case h_2 => exact hwait

/-- Where none waits for Q6 and it has room, the frame enters it. -/
theorem Hub.netFirm_enters (hsub : h.hasSub n sub = true) (hfirm : (h.subPort n sub).firm = [])
    (hroom : (Sparse.get [] (h.subPort n sub).txq 6).length < 64) (f : TxFrame) :
    Sparse.get [] ((h.netFirm n sub f).subPort n sub).txq 6 = Sparse.get [] (h.subPort n sub).txq 6 ++ [f] := by
  have hpost : h.netPost n sub 6 f =
      (h.modSub n sub (fun x => { x with txq := Sparse.set [] x.txq 6 (Sparse.get [] (h.subPort n sub).txq 6 ++ [f]) }), true) := by
    rw [Hub.netPost]
    exact if_pos hroom
  have henter : h.netFirm n sub f =
      h.modSub n sub (fun x => { x with txq := Sparse.set [] x.txq 6 (Sparse.get [] (h.subPort n sub).txq 6 ++ [f]) }) := by
    rw [Hub.netFirm, hsub, hfirm, hpost]
    rfl
  rw [henter, Hub.subPort_modSub]
  exact Sparse.get_set_same ..

/-- A frame that has room takes its bytes of the buffer, and the answer of the control firmware enters Q6. -/
theorem netFrameReceive_taken (ha : s.hub.awake 3 = true) (hup : s.hub.netUp n sub = true) (hlo : 64 ≤ frame.length) (hhi : frame.length ≤ 1522)
    (hmac : beAt frame 12 2 ≠ 0x8808) (hroom : (s.hub.subPort n sub).rx + frame.length ≤ 262144) :
    ∃ t, exec (.netFrameReceive n sub frame true) s = .next t ∧ HubOnly s t ∧ RegsKeptBut [] s.hub t.hub ∧ t.hub.out = s.hub.out ∧
      (t.hub.subPort n sub).rx = (s.hub.subPort n sub).rx + frame.length ∧
      (firmwareFrame frame = false → (t.hub.subPort n sub).txq = (s.hub.subPort n sub).txq) ∧
      (firmwareFrame frame = true → s.glob.safe = false → (s.hub.subPort n sub).firm = [] →
        (Sparse.get [] (s.hub.subPort n sub).txq 6).length < 64 →
        Sparse.get [] (t.hub.subPort n sub).txq 6 = Sparse.get [] (s.hub.subPort n sub).txq 6 ++ [.answer frame]) := by
  refine ⟨_, exec_netFrameReceive ha .., ⟨rfl, rfl, rfl⟩, ?_⟩
  dsimp only
  rw [Hub.netReceive_takes hup hlo hhi s.glob hmac hroom]
  dsimp only
  have hport := s.hub.subPort_modSub n sub (fun x => { x with rx := x.rx + frame.length })
  have hsub : (s.hub.modSub n sub (fun x => { x with rx := x.rx + frame.length })).hasSub n sub = true :=
    (Hub.netUp_hasSub hup : s.hub.hasSub n sub = true)
  have hregs : (s.hub.modSub n sub (fun x => { x with rx := x.rx + frame.length })).regs = s.hub.regs := rfl
  have hout : (s.hub.modSub n sub (fun x => { x with rx := x.rx + frame.length })).out = s.hub.out := rfl
  generalize s.hub.modSub n sub (fun x => { x with rx := x.rx + frame.length }) = k at hport hsub hregs hout ⊢
  split
  case isTrue hfw =>
    rw [Bool.and_eq_true] at hfw
    refine ⟨fun off _ => Hub.rd_of_regs _ _ (by simp [hregs]) off, by simp [hout], by rw [Hub.netFirm_rx, hport], fun hno => ?_, fun _ _ hfirm hq => ?_⟩
    · cases hno.symm.trans hfw.1
    · rw [Hub.netFirm_enters hsub (by rw [hport]; exact hfirm) (by rw [hport]; exact hq), hport]
  case isFalse hfw =>
    refine ⟨fun off _ => Hub.rd_of_regs _ _ hregs off, hout, by rw [hport], fun _ => by rw [hport], fun hyes hsafe => ?_⟩
    simp [hyes, hsafe] at hfw

end

/-! ## Holds (R119) -/

section
variable {s : State} {h : Hub} {n sub : Nat}

theorem exec_pauseFrameReceive (ha : s.hub.awake 3 = true) (n sub : Nat) (pfc : Bool) (times : List (Nat × Nat)) :
    exec (.pauseFrameReceive n sub pfc times) s = .next { s with hub := s.hub.netPause n sub pfc times } := by
  rw [show exec (.pauseFrameReceive n sub pfc times) s = execPauseFrameReceive n sub pfc times s from rfl, execPauseFrameReceive,
    wokenWhen_awake _ _ ha]

theorem Hub.netPause_pause (hup : h.netUp n sub = true) (hon : h.bit (Reg.NETn_CTL n) 3 = true) (c time : Nat) :
    h.netPause n sub false [(c, time)] =
      ((h.count (Reg.NETn_CNT_PAUSE n) 31).modSub n sub (fun x => { x with paused := decide (time ≠ 0) })).netHoldsEnd n sub := by
  rw [Hub.netPause, hup, hon]
  rfl

/-- Of a sub-port the end of holds changes only which of them have been told. -/
theorem Hub.subPort_netHoldsEnd (h : Hub) (n sub : Nat) :
    (h.netHoldsEnd n sub).subPort n sub = { h.subPort n sub with heldSaid := (h.subPort n sub).heldSaid.filter (fun q => h.netHeld n sub q) } :=
  Hub.subPort_modSub ..

/-- Q7 is never held (R103). -/
theorem Hub.netHeld_q7 (h : Hub) (n sub : Nat) : h.netHeld n sub 7 = false := rfl

theorem Hub.netHeld_paused (hp : (h.subPort n sub).paused = true) {q : Nat} (hq : q < 7) : h.netHeld n sub q = true := by
  rw [Hub.netHeld, hp, Bool.true_or, Bool.and_true, decide_eq_true hq]

/-- A PAUSE is counted; a time other than zero holds Q0 to Q6, and zero ends the hold. -/
theorem pauseFrameReceive_holds (ha : s.hub.awake 3 = true) (hup : s.hub.netUp n sub = true) (hon : s.hub.bit (Reg.NETn_CTL n) 3 = true) (c time : Nat) :
    ∃ t, exec (.pauseFrameReceive n sub false [(c, time)]) s = .next t ∧ HubOnly s t ∧ RegsKeptBut [Reg.NETn_CNT_PAUSE n] s.hub t.hub ∧
      (t.hub.subPort n sub).paused = decide (time ≠ 0) ∧ (t.hub.subPort n sub).txq = (s.hub.subPort n sub).txq ∧
      t.hub.netHeld n sub 7 = false ∧ (time ≠ 0 → ∀ q, q < 7 → t.hub.netHeld n sub q = true) := by
  refine ⟨_, exec_pauseFrameReceive ha .., ⟨rfl, rfl, rfl⟩, ?_⟩
  dsimp only
  rw [Hub.netPause_pause hup hon]
  have hpaused : ((((s.hub.count (Reg.NETn_CNT_PAUSE n) 31).modSub n sub (fun x => { x with paused := decide (time ≠ 0) })).netHoldsEnd n sub).subPort
      n sub).paused = decide (time ≠ 0) := by
    rw [Hub.subPort_netHoldsEnd, Hub.subPort_modSub]
  refine ⟨fun off hoff => ?_, hpaused, ?_, Hub.netHeld_q7 .., fun ht q hq => Hub.netHeld_paused (by rw [hpaused, decide_eq_true ht]) hq⟩
  · exact Hub.rd_count_ne s.hub _ 31 off fun he => hoff (List.mem_singleton.2 he.symm)
  · rw [Hub.subPort_netHoldsEnd, Hub.subPort_modSub]
    rfl

theorem netPauseHoldEnd_releases (s : State) (n sub : Nat) :
    ∃ t, exec (.netPauseHoldEnd n sub none) s = .next t ∧ HubOnly s t ∧ RegsKeptBut [] s.hub t.hub ∧
      (t.hub.subPort n sub).paused = false ∧ (t.hub.subPort n sub).classes = (s.hub.subPort n sub).classes := by
  have hport : ((s.hub.netHoldExpire n sub none).subPort n sub).paused = false ∧
      ((s.hub.netHoldExpire n sub none).subPort n sub).classes = (s.hub.subPort n sub).classes := by
    rw [Hub.netHoldExpire, Hub.subPort_netHoldsEnd, Hub.subPort_modSub]
    exact ⟨rfl, rfl⟩
  exact ⟨_, rfl, ⟨rfl, rfl, rfl⟩, fun _ _ => rfl, hport⟩

theorem netQueueHoldEvent_raises {q : Nat} (hn : n < 4) (hheld : s.hub.netHeld n sub q = true) (hnew : q ∉ (s.hub.subPort n sub).heldSaid) :
    BecomesRaising (.netQueueHoldEvent n sub q) s
      (s.hub.setSub n sub { s.hub.subPort n sub with heldSaid := q :: (s.hub.subPort n sub).heldSaid }) (32 + n) := by
  refine becomesRaising_raise (detail := 4 + sub * 256 + q * 65536) ?_ (sourceReserved_net hn)
  have hcond : (s.hub.netHeld n sub q && !(s.hub.subPort n sub).heldSaid.contains q) = true := by simp [hheld, hnew]
  rw [show exec (.netQueueHoldEvent n sub q) s = .next { s with hub := s.hub.netHoldEvent s.glob n sub q } from rfl, Hub.netHoldEvent, if_pos hcond]
  rfl

/-! ## Links (R139) -/

theorem netLinkUp_raises (hsub : s.hub.hasSub n sub = true) (hdown : (s.hub.subPort n sub).link = false) (hs : s.hub.serving (.net n) = true) :
    BecomesRaising (.netLinkUp n sub) s (s.hub.setSub n sub { s.hub.subPort n sub with link := true }) (32 + n) := by
  refine becomesRaising_raise (detail := 1 + sub * 256) ?_ (sourceReserved_net (Hub.hasSub_lt hsub))
  have hcond : (!s.hub.hasSub n sub || (s.hub.subPort n sub).link || !s.hub.serving (.net n)) = false := by simp [hsub, hdown, hs]
  rw [show exec (.netLinkUp n sub) s = .next { s with hub := s.hub.netLinkUp s.glob n sub } from rfl, Hub.netLinkUp, hcond]
  rfl

theorem netLinkDown_raises (hn : n < 4) (hup : (s.hub.subPort n sub).link = true) :
    BecomesRaising (.netLinkDown n sub) s (s.hub.setSub n sub { s.hub.subPort n sub with
      link := false, rx := 0, paused := false, classes := [], heldSaid := [] }) (32 + n) := by
  refine becomesRaising_raise (detail := 2 + sub * 256) ?_ (sourceReserved_net hn)
  rw [show exec (.netLinkDown n sub) s = .next { s with hub := s.hub.netLinkDown s.glob n sub } from rfl, Hub.netLinkDown, hup]
  rfl

end

/-- Settles O26, by the branches of a frame that arrives, by what a PAUSE leaves of its sub-port, and by the events of links and holds. -/
theorem netPortsCountHoldAndReport : Obligations.NetPortsCountHoldAndReport := by
  refine fun s n sub => ⟨fun ha hup => ⟨fun frame ok hbad => ?_, fun frame hlo hhi hmac => ?_, fun frame hlo hhi hmac hfull => ?_,
    fun frame hlo hhi hmac hroom => netFrameReceive_taken ha hup hlo hhi hmac hroom, fun c time hon => pauseFrameReceive_holds ha hup hon c time⟩,
    netLinkUp_raises, netLinkDown_raises, netPauseHoldEnd_releases s n sub, fun q hn => netQueueHoldEvent_raises hn⟩
  · rw [exec_netFrameReceive ha, Hub.netReceive_discards s.glob hup hbad]
  · rw [exec_netFrameReceive ha, Hub.netReceive_control hup hlo hhi s.glob hmac]
  · exact becomes_raiseIf (by rw [exec_netFrameReceive ha, Hub.netReceive_overrun hup hlo hhi s.glob hmac hfull])

end Sys2Proof.Machine
end

section
/-! What an access of ING leaves: the bytes of DRAM that a write reaches, and what the violations of a refused access change (R144, R406, R407). -/

namespace Sys2Proof.Machine

-- As in the tests, one proof at a time: proofs that wait for one another each take a thread of the compile, whose memory is limited.
set_option Elab.async false

/-! ## Bytes that a write reaches -/

theorem DramKeptBut.refl (lo n : Nat) (m : Memory) : DramKeptBut lo n m m := ⟨fun _ _ => rfl, rfl, rfl, rfl, rfl, rfl, rfl, rfl⟩

theorem DramKeptBut.trans {lo n : Nat} {a b c : Memory} (h1 : DramKeptBut lo n a b) (h2 : DramKeptBut lo n b c) : DramKeptBut lo n a c := by
  obtain ⟨hd1, hs1, hsb1, hi1, hib1, hl1, hlb1, hst1⟩ := h1
  obtain ⟨hd2, hs2, hsb2, hi2, hib2, hl2, hlb2, hst2⟩ := h2
  exact ⟨fun k hk => (hd2 k hk).trans (hd1 k hk), hs2.trans hs1, hsb2.trans hsb1, hi2.trans hi1, hib2.trans hib1, hl2.trans hl1, hlb2.trans hlb1,
    hst2.trans hst1⟩

/-- Each byte of DRAM is as it was, or the run's that lies there, and beside DRAM and its tags nothing of the memories changes. -/
structure RunWritten (a : Nat) (bs : List Byte) (m m' : Memory) : Prop where
  bytes : ∀ k, m'.dramByte k = m.dramByte k ∨ ∃ i, k = a + i ∧ bs[i]? = some (m'.dramByte k)
  rest  : m' = { m with dram := m'.dram, tags := m'.tags }

namespace RunWritten

variable {a b : Nat} {bs : List Byte} {m m' m'' : Memory}

theorem refl (a : Nat) (bs : List Byte) (m : Memory) : RunWritten a bs m m := ⟨fun _ => .inl rfl, rfl⟩

theorem trans (h1 : RunWritten a bs m m') (h2 : RunWritten a bs m' m'') : RunWritten a bs m m'' where
  bytes k := by
    rcases h2.bytes k with hsame | hrun
    · rw [hsame]
      exact h1.bytes k
    · exact .inr hrun
  rest := by
    rw [h2.rest, h1.rest]

/-- The part of a run that lies in one block is of the run. -/
theorem of_part (hw : RunWritten (blockPart a bs b).1 (blockPart a bs b).2 m m') : RunWritten a bs m m' where
  bytes k := by
    refine (hw.bytes k).imp id fun ⟨i, hk, hi⟩ => ⟨max a (64 * b) - a + i, ?_, ?_⟩
    · rw [hk, blockPart]
      dsimp only
      omega
    · rw [blockPart] at hi
      dsimp only at hi
      obtain ⟨hlen, -⟩ := List.getElem?_eq_some_iff.1 hi
      rw [List.length_take] at hlen
      rwa [List.getElem?_take_of_lt (by omega), List.getElem?_drop] at hi
  rest := hw.rest

/-- No byte changes outside a range that holds the run. -/
theorem kept (hw : RunWritten a bs m m') {lo n : Nat} (hlo : lo ≤ a) (hhi : a + bs.length ≤ lo + n) : DramKeptBut lo n m m' := by
  refine ⟨fun k hk => (hw.bytes k).resolve_right fun ⟨i, hki, hi⟩ => ?_, ?_⟩
  · have hlen := (List.getElem?_eq_some_iff.1 hi).1
    omega
  · rw [hw.rest]
    exact ⟨rfl, rfl, rfl, rfl, rfl, rfl, rfl⟩

/-- A run of the bytes that are there already changes none. -/
theorem kept_of_same (hw : RunWritten a bs m m') (hbs : ∀ i x, bs[i]? = some x → x = m.dramByte (a + i)) (lo n : Nat) : DramKeptBut lo n m m' := by
  refine ⟨fun k _ => (hw.bytes k).elim id fun ⟨i, hki, hi⟩ => hki ▸ hbs i _ (hki ▸ hi), ?_⟩
  rw [hw.rest]
  exact ⟨rfl, rfl, rfl, rfl, rfl, rfl, rfl⟩

end RunWritten

theorem Memory.writeDram_run (m : Memory) (secure : Bool) (ty : Nat → Nat) (a : Nat) (bs : List Byte) (bad : Bool) :
    RunWritten a bs m (m.writeDram secure ty a bs bad) where
  bytes k := by
    by_cases hin : a ≤ k ∧ k < a + bs.length
    · obtain ⟨i, rfl⟩ := Nat.exists_eq_add_of_le hin.1
      have hi : i < bs.length := by omega
      exact .inr ⟨i, rfl, by rw [Memory.dramByte_writeDram_in m secure ty a bs bad i hi, List.getElem?_eq_getElem hi]⟩
    · exact .inl (Memory.dramByte_writeDram_out m secure ty a bs bad k (by omega))
  rest := rfl

/-- A write of a requester reaches no byte but its own, whatever refuses it. -/
theorem Hub.writeDram_run (h : Hub) (m : Memory) (secure : Bool) (a : Nat) (bs : List Byte) (bad : Bool) :
    RunWritten a bs m (h.writeDram m secure a bs bad) := by
  rw [Hub.writeDram]
  split
  case isTrue => exact .refl ..
  case isFalse =>
    split
    case isTrue => exact m.writeDram_run ..
    case isFalse =>
      exact List.foldlRecOn (motive := RunWritten a bs m) _ _ (.refl a bs m) fun m' hm' b _ => hm'.trans (.of_part (m'.writeDram_run ..))

theorem Memory.getElem?_bytesOf (cells : List Host.Cell) (n : Nat) :
    ∀ (a i : Nat) (x : Byte), (Memory.bytesOf cells a n)[i]? = some x → x = Sparse.get Memory.blank cells (a + i) := by
  induction n with
  | zero => intro a i x hx; simp [Memory.bytesOf] at hx
  | succ n ih =>
    intro a i x hx
    rw [Memory.bytesOf] at hx
    cases i with
    | zero => simpa using hx.symm
    | succ i =>
      rw [List.getElem?_cons_succ] at hx
      rw [ih (a + 1) i x hx, Nat.add_right_comm a 1 i, Nat.add_assoc]

/-- A write of what DRAM holds changes no byte. -/
theorem Hub.writeDram_same (h : Hub) (m : Memory) (secure : Bool) (a k : Nat) (bad : Bool) (lo n : Nat) :
    DramKeptBut lo n m (h.writeDram m secure a (m.dramBytes a k) bad) :=
  (h.writeDram_run ..).kept_of_same (fun i x hx => Memory.getElem?_bytesOf m.dram k a i x hx) lo n

@[simp] theorem leBytes_length (k v : Nat) : (leBytes k v).length = k := by
  induction k generalizing v with
  | zero => rfl
  | succ k ih => rw [leBytes, List.length_cons, ih]

@[simp] theorem length_padTo (k : Nat) (bs : List Byte) : (padTo k bs).length = k := by
  rw [padTo, List.length_append, List.length_take, zeros, List.length_replicate]
  omega

theorem padTo_padTo (k : Nat) (bs : List Byte) : padTo k (padTo k bs) = padTo k bs := padTo_length (length_padTo k bs)

/-! ## What a write of DRAM depends on -/

/-- The registers that place a write of DRAM, refuse it or give it a type lie apart from the pending registers and from the count of accepted sACN packets. -/
theorem Hub.writeDram_congr {h h' : Hub} (hr : RegsKeptBut (Reg.ING_SACN_ACC :: pendRegs) h h') : h'.writeDram = h.writeDram := by
  have hrd {off : Nat} (ho : 0x30210 ≤ off ∧ off ≠ 0x92020) : h'.rd off = h.rd off :=
    hr off (by simpa [Reg.ING_SACN_ACC, ho.2] using not_mem_pendRegs ho.1)
  have hf {off : Nat} (ho : 0x30210 ≤ off ∧ off ≠ 0x92020) (hi lo : Nat) : h'.f off hi lo = h.f off hi lo := Hub.f_of_rd _ _ _ _ _ (hrd ho)
  have hbit {off : Nat} (ho : 0x30210 ≤ off ∧ off ≠ 0x92020) (i : Nat) : h'.bit off i = h.bit off i := Hub.bit_of_rd _ _ _ _ (hrd ho)
  have hin : h'.inDram = h.inDram := by
    funext a n
    rw [Hub.inDram, Hub.inDram, Hub.usable, Hub.usable, hf (by decide)]
  have hrefused : h'.blockRefused = h.blockRefused := by
    funext m secure write b
    have hctl (n i : Nat) : h'.bit (Reg.SEC_DRDn_CTL n) i = h.bit (Reg.SEC_DRDn_CTL n) i := hbit (by simp only [Reg.SEC_DRDn_CTL]; omega) i
    have hbase (n : Nat) : h'.f (Reg.SEC_DRDn_BASE n) 19 0 = h.f (Reg.SEC_DRDn_BASE n) 19 0 := hf (by simp only [Reg.SEC_DRDn_BASE]; omega) ..
    have hlim (n : Nat) : h'.f (Reg.SEC_DRDn_LIMIT n) 19 0 = h.f (Reg.SEC_DRDn_LIMIT n) 19 0 := hf (by simp only [Reg.SEC_DRDn_LIMIT]; omega) ..
    have hof : h'.drdOf (64 * b) = h.drdOf (64 * b) := by simp only [Hub.drdOf, hctl, hbase, hlim]
    have hdrd : h'.drdRefuses secure write (64 * b) = h.drdRefuses secure write (64 * b) := by
      rw [Hub.drdRefuses, Hub.drdRefuses, hof]
      simp only [hctl]
    rw [Hub.blockRefused, Hub.blockRefused, hdrd]
  have htype : h'.blockType = h.blockType := by
    funext a
    have harea : h'.tableArea = h.tableArea := by rw [Hub.tableArea, Hub.tableArea, hf (by decide), hf (by decide)]
    have hcal (p : Nat) : h'.calBase p = h.calBase p := by
      rw [Hub.calBase, Hub.calBase, hf (by simp only [Reg.CAL_PIPEp_BASE_LO]; omega), hf (by simp only [Reg.CAL_PIPEp_BASE_HI]; omega)]
    have hslots (p : Nat) : h'.calSlots p = h.calSlots p := hf (by simp only [Reg.CAL_PIPEp_CTL]; omega) ..
    have hon (f : Nat) : h'.bit (Reg.ING_FLOWf_CTL f) 0 = h.bit (Reg.ING_FLOWf_CTL f) 0 := hbit (by simp only [Reg.ING_FLOWf_CTL]; omega) 0
    have hring (f : Nat) : h'.flowRing f = h.flowRing f := by
      rw [Hub.flowRing, Hub.flowRing, hf (by simp only [Reg.ING_FLOWf_RING_LO]; omega), hf (by simp only [Reg.ING_FLOWf_RING_HI]; omega)]
    have hn (f : Nat) : h'.flowSlots f = h.flowSlots f := hf (by simp only [Reg.ING_FLOWf_RING_HI]; omega) ..
    have hsize (f : Nat) : h'.flowSlot f = h.flowSlot f := by
      rw [Hub.flowSlot, Hub.flowSlot, hf (by simp only [Reg.ING_FLOWf_PITCH]; omega), hf (by simp only [Reg.ING_FLOWf_GEOM]; omega)]
    simp only [Hub.blockType, harea, hcal, hslots, hon, hring, hn, hsize]
  funext m secure a bs bad
  rw [Hub.writeDram, Hub.writeDram, Hub.dramRefused, Hub.dramRefused, Hub.blocksOpen, Hub.blocksOpen, hin, hrefused, htype]

/-! ## Refused accesses (R407) -/

/-- Registers of a list that are no pending ones. -/
theorem SaddleKept.of_rd {l : List Nat} {a b : Hub} (hs : b.saddle = a.saddle) (hr : RegsKeptBut l a b) (hl : ∀ off ∈ l, off ∉ pendRegs) :
    SaddleKept l a b := by
  refine ⟨hs, fun src hsrc hp => ?_, fun off ho => hr off fun hm => ho (List.mem_append_left _ hm)⟩
  have hmem : Reg.INT_PENDk (src / 32) ∈ pendRegs := by
    have hk : src / 32 < 4 := by omega
    interval_cases src / 32 <;> simp [pendRegs]
  exact (Hub.bit_of_rd a b _ (src % 32) (hr _ fun hm => hl _ hm hmem)).trans hp

theorem Hub.violation_saddleKept (h : Hub) (g : Glob) (kind addr : Nat) (write : Bool) (unit : Nat) :
    SaddleKept violationRegs h (h.violation g kind addr write unit) := by
  have hstored (lo hi : Nat) :
      SaddleKept violationRegs h (((h.count Reg.SEC_VIOL_CNT 31).wrN Reg.SEC_VIOL_LAST_LO lo).wrN Reg.SEC_VIOL_LAST_HI hi) := by
    refine .of_rd rfl (fun off ho => ?_) (by decide)
    simp only [violationRegs, List.mem_cons, List.not_mem_nil, or_false, not_or] at ho
    obtain ⟨hcnt, hlo, hhi⟩ := ho
    rw [Hub.rd_wrN, if_neg (Ne.symm hhi), Hub.rd_wrN, if_neg (Ne.symm hlo), Hub.rd_count_ne _ _ _ _ (Ne.symm hcnt)]
  have hk := hstored (addr % 2 ^ 32) (addr / 2 ^ 32 % 256 + 256 * b2n write + 512 * (kind % 4) + 65536 * (unit % 65536))
  unfold Hub.violation
  dsimp only
  split
  case isTrue =>
    refine ((hk.trans ?_).trans (.of_reports (Hub.record_reports ..))).trans (Hub.raise_saddleKept ..)
    exact .of_same rfl rfl
  case isFalse =>
    refine hk.trans ?_
    exact .of_same rfl rfl

theorem Hub.blockViolations_saddleKept (h : Hub) (g : Glob) (m : Memory) (secure write : Bool) (unit : Nat) (blocks : List Nat) :
    SaddleKept violationRegs h (h.blockViolations g m secure write unit blocks) := by
  refine .foldl (.refl h) (fun k b _ => ?_) blocks
  split
  · exact k.violation_saddleKept ..
  · exact .refl k

/-- A look of ING leaves its violations, and of the network nothing else. -/
theorem Hub.ingLooks_kept (h : Hub) (g : Glob) (m : Memory) (a n : Nat) :
    SaddleKept violationRegs h (h.ingLooks g m a n) ∧ (h.ingLooks g m a n).net = h.net :=
  ⟨h.blockViolations_saddleKept .., by simp [Hub.ingLooks]⟩

end Sys2Proof.Machine
end

section
/-! ST 2110-20 flows (R122, R123, R126, R128): the merge of a packet, the bytes that an accepted one reaches, and what a complete frame counts and arms. -/

namespace Sys2Proof.Machine

-- As in the tests, one proof at a time: proofs that wait for one another each take a thread of the compile, whose memory is limited.
set_option Elab.async false

theorem Hub.flow_of_net {h h' : Hub} (hn : h'.net = h.net) (f : Nat) : h'.flow f = h.flow f := by rw [Hub.flow, Hub.flow, hn]

theorem Hub.flow_setFlow_same (h : Hub) (f : Nat) (x : Flow) : (h.setFlow f x).flow f = x := (h.flow_setFlow f x f).trans (if_pos rfl)

theorem Hub.setFlow_setFlow (h : Hub) (f : Nat) (x y : Flow) : (h.setFlow f x).setFlow f y = h.setFlow f y := by
  rw [Hub.setFlow, Hub.setFlow, Hub.setFlow]
  dsimp only
  rw [Sparse.set_set]

theorem Hub.flowReceives_parts {h : Hub} {g : Glob} {f path : Nat} (hrec : h.flowReceives g f path = true) :
    f < 32 ∧ h.flowOn f = true ∧ h.serving .ing = true ∧ g.safe = false := by
  simp only [Hub.flowReceives, Bool.and_eq_true, Bool.not_eq_true', decide_eq_true_eq] at hrec
  obtain ⟨⟨⟨⟨⟨hf, hon⟩, -⟩, -⟩, hserves⟩, hsafe⟩ := hrec
  exact ⟨hf, hon, hserves, hsafe⟩

/-! ## The bytes that an accepted packet reaches (R127, R129) -/

/-- A pixel of a frame lies in its slot, where the rows do not overlap. -/
theorem pixel_in_slot {row height x width bytes pitch : Nat} (hrow : row < height) (hx : x < width) (hfit : width * bytes ≤ pitch) :
    row * pitch + x * bytes + bytes ≤ (pitch * height + 4095) / 4096 * 4096 := by
  have hpixel : (x + 1) * bytes ≤ width * bytes := Nat.mul_le_mul_right _ hx
  have hline : (row + 1) * pitch ≤ height * pitch := Nat.mul_le_mul_right _ hrow
  rw [Nat.add_mul, Nat.one_mul] at hpixel hline
  rw [Nat.mul_comm pitch height]
  omega

/-- What refused writes leave of the hub keeps the settings of the flows. -/
theorem flowSettings_kept {h k : Hub} (hk : SaddleKept violationRegs h k) {f : Nat} (hf : f < 32) :
    k.flowRing f = h.flowRing f ∧ k.flowSlot f = h.flowSlot f ∧ k.f (Reg.ING_FLOWf_PITCH f) 17 0 = h.f (Reg.ING_FLOWf_PITCH f) 17 0 ∧
      k.flowFmt f = h.flowFmt f := by
  have hrd {off : Nat} (ho : 0x90000 ≤ off ∧ off < 0x90800) (hi lo : Nat) : k.f off hi lo = h.f off hi lo := by
    refine Hub.f_of_rd _ _ _ _ _ (hk.regs off fun hm => ?_)
    rcases List.mem_append.1 hm with hv | hp
    · simp only [violationRegs, Reg.SEC_VIOL_CNT, Reg.SEC_VIOL_LAST_LO, Reg.SEC_VIOL_LAST_HI, List.mem_cons, List.not_mem_nil, or_false] at hv
      omega
    · exact not_mem_pendRegs (by omega) hp
  have hctl (hi lo : Nat) := hrd (off := Reg.ING_FLOWf_CTL f) (by simp only [Reg.ING_FLOWf_CTL]; omega) hi lo
  have hpitch (hi lo : Nat) := hrd (off := Reg.ING_FLOWf_PITCH f) (by simp only [Reg.ING_FLOWf_PITCH]; omega) hi lo
  have hgeom (hi lo : Nat) := hrd (off := Reg.ING_FLOWf_GEOM f) (by simp only [Reg.ING_FLOWf_GEOM]; omega) hi lo
  have hlo (hi lo : Nat) := hrd (off := Reg.ING_FLOWf_RING_LO f) (by simp only [Reg.ING_FLOWf_RING_LO]; omega) hi lo
  have hhi (hi lo : Nat) := hrd (off := Reg.ING_FLOWf_RING_HI f) (by simp only [Reg.ING_FLOWf_RING_HI]; omega) hi lo
  exact ⟨by rw [Hub.flowRing, Hub.flowRing, hlo, hhi], by rw [Hub.flowSlot, Hub.flowSlot, hpitch, hgeom], hpitch .., hctl ..⟩

/-- The writes of an accepted packet so far: the hub has been told of the refused ones, of the network nothing changes, and no byte outside the slot, as the
settings of `h` give it, is written. -/
structure SlotWritten (f slot : Nat) (h : Hub) (n : NetState) (m : Memory) (hm : Hub × Memory) : Prop where
  looked : SaddleKept violationRegs h hm.1
  net    : hm.1.net = n
  dram   : DramKeptBut (h.flowRing f + slot * h.flowSlot f) (h.flowSlot f) m hm.2

section
variable {g : Glob} {f : Nat} {fr : FlowFrame} {h : Hub} {n : NetState} {m : Memory} {hm : Hub × Memory} (hf : f < 32)
  (hfit : h.flowWidth f * fmtBytes (h.flowFmt f) ≤ h.f (Reg.ING_FLOWf_PITCH f) 17 0)
include hf hfit

theorem SlotWritten.flowPixel (hw : SlotWritten f fr.slot h n m hm) {row x : Nat} (hrow : row < h.flowHeight f) (hx : x < h.flowWidth f) :
    SlotWritten f fr.slot h n m (flowPixel g f fr row x hm) := by
  unfold Machine.flowPixel
  dsimp only
  split
  case h_1 => exact hw
  case h_2 rgb _ =>
    obtain ⟨hring, hslot, hpitch, hfmt⟩ := flowSettings_kept hw.looked hf
    obtain ⟨hlooks, hnet⟩ := (hm.1.drew 3).ingLooks_kept g hm.2
      (hm.1.flowRing f + fr.slot * hm.1.flowSlot f + row * hm.1.f (Reg.ING_FLOWf_PITCH f) 17 0 + x * fmtBytes (hm.1.flowFmt f)) (fmtBytes (hm.1.flowFmt f))
    refine ⟨(hw.looked.drew 3).trans hlooks, hnet.trans hw.net, hw.dram.trans ((Hub.writeDram_run ..).kept ?_ ?_)⟩
    · rw [hring, hslot]
      omega
    · have hin : _ ≤ h.flowSlot f := pixel_in_slot hrow hx hfit
      rw [leBytes_length, hring, hslot, hpitch, hfmt]
      omega

omit hf hfit in
/-- A block gathered whole is written with the bytes that it holds. -/
theorem flowWhole_kept (h : Hub) (f : Nat) (fr : FlowFrame) (row : Nat) (m : Memory) (k lo n : Nat) : DramKeptBut lo n m (flowWhole h f fr row m k) := by
  unfold flowWhole
  dsimp only
  split
  case isTrue => exact h.writeDram_same ..
  case isFalse => exact .refl ..

theorem SlotWritten.flowRow (hw : SlotWritten f fr.slot h n m hm) {r : RowData} (hrow : r.row < h.flowHeight f)
    (hlen : r.offset + r.samples.length ≤ h.flowWidth f) : SlotWritten f fr.slot h n m (flowRow g f fr hm r) := by
  unfold Machine.flowRow
  dsimp only
  have hpixels : ∀ l : List Nat, (∀ i ∈ l, i ≤ r.samples.length) → SlotWritten f fr.slot h n m (l.foldl (fun hm i =>
      if r.offset + i = 0 then hm
      else if i = 0 && (hm.1.f (Reg.ING_FLOWf_CTL f) 7 6 != 2 || (r.offset - 1) % 2 == 0) then hm
      else Machine.flowPixel g f fr r.row (r.offset + i - 1) hm) hm) := fun l hl => by
    refine List.foldlRecOn (motive := SlotWritten f fr.slot h n m) l _ hw fun hm' hw' i hi => ?_
    have hle := hl i hi
    split
    case isTrue => exact hw'
    case isFalse =>
      split
      case isTrue => exact hw'
      case isFalse => exact hw'.flowPixel hf hfit hrow (by omega)
  obtain ⟨hlooked, hnet, hdram⟩ := hpixels (List.range (r.samples.length + 1)) fun i hi => by
    rw [List.mem_range] at hi
    omega
  refine ⟨hlooked, hnet, ?_⟩
  exact List.foldlRecOn (motive := fun m' => DramKeptBut (h.flowRing f + fr.slot * h.flowSlot f) (h.flowSlot f) m m') _ _ hdram
    fun m' hm' k _ => hm'.trans (flowWhole_kept ..)

theorem SlotWritten.rows (hw : SlotWritten f fr.slot h n m hm) {rows : List RowData}
    (hrows : ∀ r ∈ rows, r.row < h.flowHeight f ∧ r.offset + r.samples.length ≤ h.flowWidth f) :
    SlotWritten f fr.slot h n m (rows.foldl (Machine.flowRow g f fr) hm) :=
  List.foldlRecOn (motive := SlotWritten f fr.slot h n m) rows _ hw fun _ hw' r hr => hw'.flowRow hf hfit (hrows r hr).1 (hrows r hr).2

end

theorem Hub.flowFormatBad_rows {h : Hub} {f : Nat} {p : FlowPkt} (hgood : h.flowFormatBad f p = false) :
    ∀ r ∈ p.rows, r.row < h.flowHeight f ∧ r.offset + r.samples.length ≤ h.flowWidth f := by
  intro r hr
  simp only [Hub.flowFormatBad, Bool.or_eq_false_iff, List.any_eq_false, decide_eq_true_eq, not_or, not_le, not_lt, Bool.or_eq_true] at hgood
  exact hgood.2 r hr

/-! ## An accepted packet (R122, R124, R126) -/

/-- A frame with one more packet. -/
def FlowFrame.withPkt (fr : FlowFrame) (p : FlowPkt) : FlowFrame :=
  { fr with count := fr.count + 1, cells := fr.cells + pktCells p.payload }.take p.rows

theorem Flow.mem_seen_enter (x : Flow) (window seq : Nat) : seq % 2 ^ 32 ∈ (x.enter window seq).seen := List.mem_cons_self ..

/-- A packet enters the window and takes its cells (R122, R124, R125). -/
def Hub.packetEnters (h : Hub) (g : Glob) (f : Nat) (p : FlowPkt) : Hub :=
  (h.modFlow f (fun x => { x.enter (h.flowWindow f) p.seq with cells := (h.flow f).cells + pktCells p.payload })).flowLevel g f (h.flow f).cells
    ((h.flow f).cells + pktCells p.payload)

theorem Hub.packetEnters_kept (h : Hub) (g : Glob) (f : Nat) (p : FlowPkt) : SaddleKept violationRegs h (h.packetEnters g f p) :=
  .trans (b := h.modFlow f _) (.of_same rfl rfl) (.of_reports (Hub.raiseIf_reports ..))

theorem Hub.flow_packetEnters (h : Hub) (g : Glob) (f : Nat) (p : FlowPkt) :
    (h.packetEnters g f p).flow f = { (h.flow f).enter (h.flowWindow f) p.seq with cells := (h.flow f).cells + pktCells p.payload } :=
  (Hub.flow_of_net (h := h.modFlow f (fun x => { x.enter (h.flowWindow f) p.seq with cells := (h.flow f).cells + pktCells p.payload }))
    (by simp [Hub.packetEnters, Hub.flowLevel]) f).trans (h.flow_setFlow_same f _)

/-- The frame in progress, with its packets so far, holds its slot. -/
def Hub.frameGrows (h : Hub) (f : Nat) (fr : FlowFrame) : Hub :=
  h.modFlow f (fun x => { x with frame := some fr, slot := some fr.slot, slots := Sparse.erase fr.slot x.slots })

theorem Hub.flow_frameGrows (h : Hub) (f : Nat) (fr : FlowFrame) :
    (h.frameGrows f fr).flow f = { h.flow f with frame := some fr, slot := some fr.slot, slots := Sparse.erase fr.slot (h.flow f).slots } :=
  Hub.flow_setFlow_same ..

/-- A packet of the frame in progress, which does not end it, enters the window and joins the frame, and its rows are written. -/
theorem flowAccept_inProgress {h : Hub} {f : Nat} {p : FlowPkt} {fr : FlowFrame} (g : Glob) (m : Memory) (hfr : (h.flow f).frame = some fr)
    (hrtp : fr.rtp = p.rtp % 2 ^ 32) (hmark : p.marker = false) :
    flowAccept g f p (h, m) =
      p.rows.foldl (flowRow g f (fr.withPkt p)) ((h.packetEnters g f p).frameGrows f (fr.withPkt p), m) := by
  have hframe : ((h.packetEnters g f p).flow f).frame = some fr := by
    rw [Hub.flow_packetEnters]
    exact hfr
  rw [Hub.packetEnters] at hframe
  unfold flowAccept
  simp only [hfr, ← hrtp, if_true, hmark, hframe, Bool.or_false, Option.getD_some, Option.isNone_some, Bool.false_eq_true, if_false]
  rfl

/-! ## The merge (R122) -/

/-- Path A of a flow has carried a packet while it is up, and the cells of writes that have ended are free. -/
def Hub.packetHeard (h : Hub) (f freed : Nat) : Hub :=
  h.setFlow f { h.flow f with downA := false, stalled := false, cells := (h.flow f).cells - freed }

section
variable {s : State} {f : Nat} {p : FlowPkt} {freed : Nat}

theorem exec_flowPacket (ha : s.hub.awake 3 = true) (f path : Nat) (p : FlowPkt) (freed : Nat) :
    exec (.flowPacket f path p freed [] []) s = .next (flowPacketOf s f path p freed) := by
  rw [show exec (.flowPacket f path p freed [] []) s = execFlowPacket f path p freed [] [] s from rfl, execFlowPacket, wokenWhen_awake _ _ ha,
    State.reads_nil, State.ownLines_nil]

theorem Hub.pathHeard_up {h : Hub} (hup : (h.flow f).upA = true) (g : Glob) (freed : Nat) :
    (h.pathHeard g f 0).modFlow f (fun x => { x with cells := x.cells - freed }) = h.packetHeard f freed := by
  have hheard : h.pathHeard g f 0 = h.setFlow f { h.flow f with downA := false, stalled := false } := by
    rw [Hub.pathHeard]
    dsimp only
    rw [if_pos rfl, if_pos rfl, hup, if_pos rfl, ← hup]
  rw [hheard, Hub.modFlow, Hub.flow_setFlow_same, Hub.setFlow_setFlow]
  rfl

theorem Hub.flow_packetHeard (h : Hub) (f freed : Nat) :
    (h.packetHeard f freed).flow f = { h.flow f with downA := false, stalled := false, cells := (h.flow f).cells - freed } := Hub.flow_setFlow_same ..

theorem Hub.flowFormatBad_packetHeard (h : Hub) (f freed : Nat) (p : FlowPkt) : (h.packetHeard f freed).flowFormatBad f p = h.flowFormatBad f p := rfl

theorem Hub.judge_packetHeard (h : Hub) (f freed seq : Nat) :
    ((h.packetHeard f freed).flow f).judge ((h.packetHeard f freed).flowWindow f) seq = (h.flow f).judge (h.flowWindow f) seq := by
  rw [Hub.flow_packetHeard]
  rfl

section
variable (hrec : s.hub.flowReceives s.glob f 0 = true) (hup : (s.hub.flow f).upA = true) (hab : (s.hub.flow f).aborted = false)
  (ha : s.hub.awake 3 = true) (hgood : s.hub.flowFormatBad f p = false)
include hrec hup hab ha hgood

/-- A duplicate and a number behind the window are counted and discarded. -/
theorem exec_flowPacket_counted {v : MergeVerdict} {off : Nat} (hv : (s.hub.flow f).judge (s.hub.flowWindow f) p.seq = v)
    (hoff : v = .duplicate ∧ off = Reg.ING_FSTf_DUP f ∨ v = .old ∧ off = Reg.ING_FSTf_LATE f) :
    exec (.flowPacket f 0 p freed [] []) s = .next { s with hub := (s.hub.packetHeard f freed).count off 31 } := by
  rw [exec_flowPacket ha, flowPacketOf]
  simp only [hrec, hab, Hub.pathHeard_up hup, Hub.flowFormatBad_packetHeard, hgood, Hub.judge_packetHeard, hv, Bool.not_true, Bool.false_eq_true, if_false]
  rcases hoff with ⟨rfl, rfl⟩ | ⟨rfl, rfl⟩ <;> rfl

/-- A fresh packet is accepted where its frame has not ended and its buffer has room. -/
theorem exec_flowPacket_fresh (hv : (s.hub.flow f).judge (s.hub.flowWindow f) p.seq = .fresh) (hnew : p.rtp % 2 ^ 32 ∉ (s.hub.flow f).ended)
    (hopen : (s.hub.flow f).frame.any (fun fr => fr.rtp == p.rtp % 2 ^ 32 && decide (s.hub.flowPkts f ≤ fr.count)) = false)
    (hroom : (s.hub.flow f).cells - freed + pktCells p.payload ≤ s.hub.flowCells f) :
    exec (.flowPacket f 0 p freed [] []) s = .next { s with
      hub := (flowAccept s.glob f p (s.hub.packetHeard f freed, s.mem)).1, mem := (flowAccept s.glob f p (s.hub.packetHeard f freed, s.mem)).2 } := by
  have hended : ((s.hub.packetHeard f freed).flow f).ended.contains (p.rtp % 2 ^ 32) = false := by
    rw [Hub.flow_packetHeard]
    simpa using hnew
  have hshort : ((s.hub.packetHeard f freed).flow f).frame.any
      (fun fr => fr.rtp == p.rtp % 2 ^ 32 && decide ((s.hub.packetHeard f freed).flowPkts f ≤ fr.count)) = false := by
    rw [Hub.flow_packetHeard]
    exact hopen
  have hfits : ¬(s.hub.packetHeard f freed).flowCells f < ((s.hub.packetHeard f freed).flow f).cells + pktCells p.payload := by
    rw [Hub.flow_packetHeard]
    exact not_lt.2 hroom
  rw [exec_flowPacket ha, flowPacketOf]
  simp only [hrec, hab, Hub.pathHeard_up hup, Hub.flowFormatBad_packetHeard, hgood, Hub.judge_packetHeard, hv, hended, hshort, hfits, Bool.not_true,
    Bool.false_eq_true, if_false]

/-- A fresh packet of the frame in progress, for which there is room, is accepted: it writes no byte outside the frame's slot. -/
theorem flowPacket_accepted {fr : FlowFrame} (hv : (s.hub.flow f).judge (s.hub.flowWindow f) p.seq = .fresh) (hfr : (s.hub.flow f).frame = some fr)
    (hrtp : fr.rtp = p.rtp % 2 ^ 32) (hnew : fr.rtp ∉ (s.hub.flow f).ended) (hcount : fr.count < s.hub.flowPkts f) (hmark : p.marker = false)
    (hroom : (s.hub.flow f).cells - freed + pktCells p.payload ≤ s.hub.flowCells f)
    (hfit : s.hub.flowWidth f * fmtBytes (s.hub.flowFmt f) ≤ s.hub.f (Reg.ING_FLOWf_PITCH f) 17 0) :
    ∃ t, exec (.flowPacket f 0 p freed [] []) s = .next t ∧ t.glob = s.glob ∧ t.pending = s.pending ∧
      (t.hub.flow f).frame = some (fr.withPkt p) ∧ p.seq % 2 ^ 32 ∈ (t.hub.flow f).seen ∧
      (t.hub.flow f).cells = (s.hub.flow f).cells - freed + pktCells p.payload ∧
      RegsKeptBut (violationRegs ++ pendRegs) s.hub t.hub ∧
      DramKeptBut (s.hub.flowRing f + fr.slot * s.hub.flowSlot f) (s.hub.flowSlot f) s.mem t.mem := by
  obtain ⟨hf, -⟩ := Hub.flowReceives_parts hrec
  have hflow := s.hub.flow_packetHeard f freed
  have hacc := flowAccept_inProgress (h := s.hub.packetHeard f freed) s.glob s.mem (by rw [hflow]; exact hfr) hrtp hmark
  have hopen : (s.hub.flow f).frame.any (fun fr => fr.rtp == p.rtp % 2 ^ 32 && decide (s.hub.flowPkts f ≤ fr.count)) = false := by
    rw [hfr, Option.any_some, decide_eq_false (not_le.2 hcount), Bool.and_false]
  let k := ((s.hub.packetHeard f freed).packetEnters s.glob f p).frameGrows f (fr.withPkt p)
  have hk : k.flow f = { (s.hub.flow f).enter (s.hub.flowWindow f) p.seq with
      downA := false, stalled := false, cells := (s.hub.flow f).cells - freed + pktCells p.payload, frame := some (fr.withPkt p)
      slot := some fr.slot, slots := Sparse.erase fr.slot (s.hub.flow f).slots } := by
    rw [Hub.flow_frameGrows, Hub.flow_packetEnters, hflow]
    rfl
  have hkept : SaddleKept violationRegs s.hub k :=
    .trans (b := s.hub.packetHeard f freed) (.of_same rfl rfl) (.trans (Hub.packetEnters_kept ..) (.of_same rfl rfl))
  obtain ⟨hlooked, hnet, hdram⟩ := SlotWritten.rows (g := s.glob) (f := f) (fr := fr.withPkt p) (h := s.hub) (m := s.mem) (hm := (k, s.mem)) hf hfit
    ⟨hkept, rfl, .refl ..⟩ (Hub.flowFormatBad_rows hgood)
  refine ⟨_, exec_flowPacket_fresh hrec hup hab ha hgood hv (hrtp ▸ hnew) hopen hroom, ?_⟩
  dsimp only
  rw [hacc]
  have hend := (Hub.flow_of_net hnet f).trans hk
  exact ⟨rfl, rfl, by rw [hend], by rw [hend]; exact Flow.mem_seen_enter .., by rw [hend], hlooked.regs, hdram⟩

end

end

/-! ## A complete frame (R124, R126) -/

/-- The oldest complete frame of a flow has left, its cells are free, and it is counted. -/
def Hub.frameCounted (h : Hub) (f : Nat) (fr : FlowFrame) (rest : List FlowFrame) : Hub :=
  ((h.modFlow f (fun x => { x with done := rest, slots := Sparse.set 0 x.slots fr.slot (fr.rtp + 1), cells := x.cellsAfter rest })).count
    (Reg.ING_FSTf_DONE f) 31).wrN (Reg.ING_FSTf_RTP f) fr.rtp

theorem Hub.frameCounted_regs (h : Hub) (f : Nat) (fr : FlowFrame) (rest : List FlowFrame) :
    RegsKeptBut [Reg.ING_FSTf_RTP f, Reg.ING_FSTf_DONE f] h (h.frameCounted f fr rest) := by
  intro off hoff
  obtain ⟨hrtp, hdone⟩ : off ≠ Reg.ING_FSTf_RTP f ∧ off ≠ Reg.ING_FSTf_DONE f := by simpa using hoff
  rw [Hub.frameCounted, Hub.rd_wrN, if_neg (Ne.symm hrtp), Hub.rd_count_ne _ _ _ _ (Ne.symm hdone)]
  rfl

theorem Hub.frameCounted_done (h : Hub) (f : Nat) (fr : FlowFrame) (rest : List FlowFrame) :
    (h.frameCounted f fr rest).f (Reg.ING_FSTf_DONE f) 30 0 = satInc 31 (h.f (Reg.ING_FSTf_DONE f) 30 0) := by
  have hne : Reg.ING_FSTf_RTP f ≠ Reg.ING_FSTf_DONE f := by simp only [Reg.ING_FSTf_RTP, Reg.ING_FSTf_DONE]; omega
  rw [Hub.frameCounted, Hub.f_of_rd _ _ _ _ _ ((Hub.rd_wrN ..).trans (if_neg hne))]
  exact Hub.f_count _ (by decide) (by decide)

theorem Hub.frameCounted_flow (h : Hub) (f : Nat) (fr : FlowFrame) (rest : List FlowFrame) :
    (h.frameCounted f fr rest).flow f =
      { h.flow f with done := rest, slots := Sparse.set 0 (h.flow f).slots fr.slot (fr.rtp + 1), cells := (h.flow f).cellsAfter rest } :=
  Hub.flow_setFlow_same ..

/-- While ingest runs, the last write of a frame counts it and arms its pipes. -/
theorem exec_flowFrameComplete {s : State} {f : Nat} {fr : FlowFrame} {rest : List FlowFrame} (hd : (s.hub.flow f).done = fr :: rest)
    (hserves : s.hub.serving .ing = true) (hsafe : s.glob.safe = false) :
    exec (.flowFrameComplete f) s = .next { s with hub :=
      ((s.hub.frameArms f fr).1.filter (fun p => s.hub.reachable (.scn p))).foldl (fun h p =>
        h.armByRegister s.glob p ingestArmRank { addr := (s.hub.frameArms f fr).2, source := some (f, fr.rtp) }) (s.hub.frameCounted f fr rest) } := by
  rw [show exec (.flowFrameComplete f) s = .next { s with hub := s.hub.flowFrameComplete s.glob f } from rfl, Hub.flowFrameComplete, hd]
  dsimp only
  rw [hserves, hsafe]
  rfl

theorem flowFrameComplete_counts {s : State} {f : Nat} {fr : FlowFrame} {rest : List FlowFrame} (hd : (s.hub.flow f).done = fr :: rest)
    (hserves : s.hub.serving .ing = true) (hsafe : s.glob.safe = false) (hrtp : fr.rtp < 2 ^ 32) (harms : (s.hub.frameArms f fr).1 = []) :
    ∃ t, exec (.flowFrameComplete f) s = .next t ∧ HubOnly s t ∧ (t.hub.flow f).done = rest ∧
      (t.hub.flow f).cells = min (s.hub.flow f).cells (((s.hub.flow f).frame.toList ++ rest).map FlowFrame.cells).sum ∧
      t.hub.n (Reg.ING_FSTf_RTP f) = fr.rtp ∧
      t.hub.f (Reg.ING_FSTf_DONE f) 30 0 = satInc 31 (s.hub.f (Reg.ING_FSTf_DONE f) 30 0) ∧
      RegsKeptBut [Reg.ING_FSTf_RTP f, Reg.ING_FSTf_DONE f] s.hub t.hub := by
  refine ⟨_, exec_flowFrameComplete hd hserves hsafe, ⟨rfl, rfl, rfl⟩, ?_⟩
  rw [harms]
  dsimp only [List.filter_nil, List.foldl_nil]
  have hflow := s.hub.frameCounted_flow f fr rest
  exact ⟨by rw [hflow], by rw [hflow]; rfl, (Hub.n_wrN_same ..).trans (Nat.mod_eq_of_lt hrtp), Hub.frameCounted_done ..,
    s.hub.frameCounted_regs f fr rest⟩

/-! ## Arms of the bound pipes (R128, R180, R181) -/

/-- Of the pipes only the one named changes; the clock stands, and no register but the pending ones changes. -/
structure PipeAlone (p : Nat) (h h' : Hub) : Prop where
  clock : h'.clock = h.clock
  regs  : RegsKeptBut pendRegs h h'
  pipes : ∀ j, j ≠ p → h'.pipe j = h.pipe j

namespace PipeAlone

variable {p : Nat} {a b c : Hub}

theorem refl (h : Hub) : PipeAlone p h h := ⟨rfl, fun _ _ => rfl, fun _ _ => rfl⟩

theorem trans (h1 : PipeAlone p a b) (h2 : PipeAlone p b c) : PipeAlone p a c :=
  ⟨h2.clock.trans h1.clock, fun off ho => (h2.regs off ho).trans (h1.regs off ho), fun j hj => (h2.pipes j hj).trans (h1.pipes j hj)⟩

theorem of_same (hc : b.clock = a.clock) (hr : b.regs = a.regs) (hp : b.scan.pipes = a.scan.pipes) : PipeAlone p a b :=
  ⟨hc, fun off _ => Hub.rd_of_regs a b hr off, fun j _ => by rw [Hub.pipe, Hub.pipe, hp]⟩

theorem ite {q : Prop} [Decidable q] (hb : PipeAlone p a b) (hc : PipeAlone p a c) : PipeAlone p a (if q then b else c) := by split <;> assumption

theorem setPipe (h : Hub) (p : Nat) (x : Pipe) : PipeAlone p h (h.setPipe p x) :=
  ⟨rfl, fun _ _ => rfl, fun j hj => (h.pipe_setPipe p x j).trans (if_neg (Ne.symm hj))⟩

end PipeAlone

section
variable (h : Hub) (p : Nat)

theorem Hub.saddleSend_parts (o : Out) : (h.saddleSend o).clock = h.clock ∧ (h.saddleSend o).scan = h.scan := by
  unfold Hub.saddleSend Hub.saddleSendLong
  split <;> exact ⟨rfl, rfl⟩

theorem Hub.groupTrigger_parts (pg : Nat) : (h.groupTrigger pg).clock = h.clock ∧ (h.groupTrigger pg).scan.pipes = h.scan.pipes := by
  unfold Hub.groupTrigger Hub.groupUpshift
  dsimp only
  split
  case isTrue =>
    have hk := foldl_kept (fun k : Hub => (k.clock, k.scan.pipes)) (f := fun k n => k.askUp n) (fun _ _ => rfl)
    rw [← Prod.mk.injEq]
    exact hk ..
  case isFalse => exact ⟨rfl, rfl⟩

theorem Hub.saddleSend_pipeAlone (o : Out) : PipeAlone p h (h.saddleSend o) := by
  obtain ⟨hclock, hscan⟩ := h.saddleSend_parts o
  exact .of_same hclock (h.saddleSend_kept o).1 (by rw [hscan])

theorem Hub.groupTrigger_pipeAlone (pg : Nat) : PipeAlone p h (h.groupTrigger pg) := by
  obtain ⟨hclock, hpipes⟩ := h.groupTrigger_parts pg
  exact .of_same hclock (h.groupTrigger_kept pg).1 hpipes

theorem Hub.applyArm_pipeAlone (pg : Nat) : PipeAlone p h (h.applyArm pg p) := by
  unfold Hub.applyArm Hub.takeArm
  split
  case h_1 => exact .refl h
  case h_2 a _ =>
    refine .ite (.refl h) (.ite ?_ (.ite (.setPipe ..) (.refl h)))
    dsimp only
    split
    case isTrue => exact .trans (.setPipe ..) (Hub.saddleSend_pipeAlone ..)
    case isFalse => exact .setPipe ..

theorem Hub.forceArm_pipeAlone (a : Arm) : PipeAlone p h (h.forceArm p a) := by
  unfold Hub.forceArm
  dsimp only
  split
  case isTrue => exact .trans (.setPipe ..) (Hub.saddleSend_pipeAlone ..)
  case isFalse => exact .setPipe ..

theorem Hub.landArm_pipeAlone (rank : Nat) (a : Arm) : PipeAlone p h (h.landArm p rank a).1 := by
  unfold Hub.landArm
  dsimp only
  split
  case isTrue => exact .ite (.setPipe ..) (.trans (.setPipe ..) (Hub.forceArm_pipeAlone ..))
  case isFalse => exact .trans (.trans (.ite (h.applyArm_pipeAlone p _) (.refl h)) (.setPipe ..)) (Hub.groupTrigger_pipeAlone ..)

theorem Hub.armByRegister_pipeAlone (g : Glob) (rank : Nat) (a : Arm) : PipeAlone p h (h.armByRegister g p rank a) := by
  unfold Hub.armByRegister Hub.pgEvent
  refine .ite (h.landArm_pipeAlone ..) (.trans (.setPipe ..) ⟨by simp, fun off ho => Hub.rd_raise _ _ _ _ _ ho, fun j _ => ?_⟩)
  simp [Hub.pipe]

end

/-- Arms of other pipes leave a pipe as it is. -/
theorem Hub.armOthers_kept {p : Nat} {ps : List Nat} (hp : p ∉ ps) (h : Hub) (g : Glob) (rank : Nat) (a : Arm) :
    (ps.foldl (fun h q => h.armByRegister g q rank a) h).clock = h.clock ∧ RegsKeptBut pendRegs h (ps.foldl (fun h q => h.armByRegister g q rank a) h) ∧
      (ps.foldl (fun h q => h.armByRegister g q rank a) h).pipe p = h.pipe p := by
  refine List.foldlRecOn (motive := fun k : Hub => k.clock = h.clock ∧ RegsKeptBut pendRegs h k ∧ k.pipe p = h.pipe p) ps _ ⟨rfl, fun _ _ => rfl, rfl⟩ ?_
  intro k ⟨hclock, hregs, hpipe⟩ q hq
  have hone := k.armByRegister_pipeAlone q g rank a
  exact ⟨hone.clock.trans hclock, fun off ho => (hone.regs off ho).trans (hregs off ho), (hone.pipes p fun he => hp (he ▸ hq)).trans hpipe⟩

/-- No arm of this cycle is pending for the pipe. -/
def Hub.ArmsFresh (h : Hub) (p : Nat) : Prop := (h.pipe p).pend = none ∨ (h.pipe p).pendAt.1 ≠ h.clock

theorem Hub.applyArm_fresh {h : Hub} {p : Nat} (hfresh : h.ArmsFresh p) (pg : Nat) : (h.applyArm pg p).ArmsFresh p := by
  have htook (k : Hub) (o : Out) (hk : (k.pipe p).pend = none) : (k.saddleSend o).ArmsFresh p :=
    .inl (by rw [Hub.pipe, (k.saddleSend_parts o).2]; exact hk)
  unfold Hub.applyArm Hub.takeArm
  split
  case h_1 => exact hfresh
  case h_2 a _ =>
    split
    case isTrue => exact hfresh
    case isFalse =>
      split
      case isTrue =>
        have hpend : ((h.setPipe p { h.pipe p with pend := none, next := some a }).pipe p).pend = none := by rw [Hub.pipe_setPipe, if_pos rfl]
        dsimp only
        split
        case isTrue => exact htook _ _ hpend
        case isFalse => exact .inl hpend
      case isFalse =>
        split
        case isTrue =>
          rw [Hub.ArmsFresh, Hub.pipe_setPipe, if_pos rfl]
          exact hfresh
        case isFalse => exact hfresh

/-- An arm that lands on an enabled pipe is pending, where no other of its cycle is. -/
theorem Hub.landArm_pends {h : Hub} {p : Nat} (hon : h.pipeOn p = true) (hgroup : h.groupOn (h.pipeGroup p) = true) (hfresh : h.ArmsFresh p) (rank : Nat)
    (a : Arm) : ((h.landArm p rank a).1.pipe p).pend = some a := by
  have hk : ∀ k : Hub, k.clock = h.clock → k.ArmsFresh p → ((k.pipe p).pend.isSome && (k.pipe p).pendAt.1 == h.clock) = false := by
    intro k hclock hk
    rcases hk with hnone | hother
    · rw [hnone]; rfl
    · rw [hclock] at hother
      simp [hother]
  have hsame : let k := if h.applyBegun (h.pipeGroup p) then h.applyArm (h.pipeGroup p) p else h
      ((k.pipe p).pend.isSome && (k.pipe p).pendAt.1 == h.clock) = false := by
    dsimp only
    split
    case isTrue => exact hk _ (h.applyArm_pipeAlone ..).clock (Hub.applyArm_fresh hfresh _)
    case isFalse => exact hk h rfl hfresh
  unfold Hub.landArm
  dsimp only at hsame ⊢
  rw [hon, hgroup, Bool.not_true, Bool.or_false, if_neg Bool.false_ne_true]
  dsimp only
  rw [Hub.pipe, (Hub.groupTrigger_parts ..).2, ← Hub.pipe, Hub.pipe_setPipe, if_pos rfl, hsame]
  rfl

/-- The registers that allow a pipe an arm are those from MEM on. -/
theorem Hub.armable_congr {h k : Hub} (hr : ∀ off, 0xA0000 ≤ off → k.rd off = h.rd off) (p a : Nat) :
    k.pipeOn p = h.pipeOn p ∧ k.groupOn (k.pipeGroup p) = h.groupOn (h.pipeGroup p) ∧ k.bufOk p a = h.bufOk p a := by
  have hf {off : Nat} (hlo : 0xA0000 ≤ off) (hi lo : Nat) : k.f off hi lo = h.f off hi lo := Hub.f_of_rd _ _ _ _ _ (hr off hlo)
  have hbit {off : Nat} (hlo : 0xA0000 ≤ off) (i : Nat) : k.bit off i = h.bit off i := Hub.bit_of_rd _ _ _ _ (hr off hlo)
  have hgroup : k.pipeGroup p = h.pipeGroup p := hf (by simp only [Reg.SCNp_CTL]; omega) ..
  refine ⟨hbit (by simp only [Reg.SCNp_CTL]; omega) .., by rw [hgroup]; exact hbit (by simp only [Reg.PGg_CTL]; omega) .., ?_⟩
  rw [Hub.bufOk, Hub.bufOk, Hub.inDram, Hub.inDram, Hub.usable, Hub.usable, Hub.bufSize, Hub.bufSize, hf (off := Reg.MEM_STATUS) (by decide),
    hf (off := Reg.SCNp_SRC_PITCH p) (by simp only [Reg.SCNp_SRC_PITCH]; omega), hf (off := Reg.SCNp_SRC_GEOM p) (by simp only [Reg.SCNp_SRC_GEOM]; omega)]

section
variable {s : State} {f : Nat} {fr : FlowFrame} {rest : List FlowFrame} (hf : f < 32)
include hf

/-- A complete frame arms each bound pipe that may take its buffer. -/
theorem flowFrameComplete_arms (hd : (s.hub.flow f).done = fr :: rest) (hserves : s.hub.serving .ing = true) (hsafe : s.glob.safe = false)
    (hunder : fr.under = none) (hauto : s.hub.flowAuto f = true) {i : Nat} (hi : i ∈ s.hub.flowPipes f) (hreach : s.hub.reachable (.scn i) = true)
    (hon : s.hub.pipeOn i = true) (hgroup : s.hub.groupOn (s.hub.pipeGroup i) = true)
    (hbuf : s.hub.bufOk i (s.hub.flowRing f + fr.slot * s.hub.flowSlot f) = true) (hfresh : s.hub.ArmsFresh i) :
    ∃ t, exec (.flowFrameComplete f) s = .next t ∧ HubOnly s t ∧
      (t.hub.pipe i).pend = some { addr := s.hub.flowRing f + fr.slot * s.hub.flowSlot f, source := some (f, fr.rtp) } := by
  have harms : s.hub.frameArms f fr = (s.hub.flowPipes f, s.hub.flowRing f + fr.slot * s.hub.flowSlot f) := by
    rw [Hub.frameArms, hunder]
    dsimp only
    rw [if_pos hauto]
  refine ⟨_, exec_flowFrameComplete hd hserves hsafe, ⟨rfl, rfl, rfl⟩, ?_⟩
  rw [harms]
  dsimp only
  have hmem : i ∈ (s.hub.flowPipes f).filter (fun p => s.hub.reachable (.scn p)) := List.mem_filter.2 ⟨hi, hreach⟩
  have hnodup : ((s.hub.flowPipes f).filter (fun p => s.hub.reachable (.scn p))).Nodup := (List.nodup_range.filter _).filter _
  generalize (s.hub.flowPipes f).filter (fun p => s.hub.reachable (.scn p)) = ps at hmem hnodup ⊢
  generalize hb : ({ addr := s.hub.flowRing f + fr.slot * s.hub.flowSlot f, source := some (f, fr.rtp) } : Arm) = b
  obtain ⟨before, after, rfl⟩ := List.append_of_mem hmem
  obtain ⟨-, hafter, hbefore⟩ := List.nodup_append.1 hnodup
  rw [List.foldl_append, List.foldl_cons,
    (Hub.armOthers_kept (List.nodup_cons.1 hafter).1 ..).2.2]
  obtain ⟨hclock, hregs, hpipe⟩ := Hub.armOthers_kept (fun hin => hbefore i hin i (List.mem_cons_self ..) rfl)
    (s.hub.frameCounted f fr rest) s.glob ingestArmRank b
  generalize before.foldl (fun h p => h.armByRegister s.glob p ingestArmRank b) (s.hub.frameCounted f fr rest) = k at hclock hregs hpipe ⊢
  have hrd : ∀ off, 0xA0000 ≤ off → k.rd off = s.hub.rd off := fun off hoff =>
    (hregs off (not_mem_pendRegs (by omega))).trans (s.hub.frameCounted_regs f fr rest off (by
      simp only [Reg.ING_FSTf_RTP, Reg.ING_FSTf_DONE, List.mem_cons, List.not_mem_nil, or_false]
      omega))
  obtain ⟨hk1, hk2, hk3⟩ := Hub.armable_congr hrd i (s.hub.flowRing f + fr.slot * s.hub.flowSlot f)
  have hkbuf : k.bufOk i b.addr = true := by rw [← hb]; exact hk3.trans hbuf
  have hkfresh : k.ArmsFresh i := by
    rw [Hub.ArmsFresh, hpipe, hclock]
    exact hfresh
  rw [Hub.armByRegister, if_pos hkbuf]
  exact Hub.landArm_pends (hk1.trans hon) (hk2.trans hgroup) hkfresh ..

end

/-! ## Paths (R123) -/

/-- A path that was not down yet is now, and the flow stalls with its last path. -/
theorem flowPathTimeout_downs {s : State} {f : Nat} (hon : s.hub.flowOn f = true) (hsafe : s.glob.safe = false) (hup : (s.hub.flow f).downA = false) :
    BecomesRaising (.flowPathTimeout f 0) s (s.hub.setFlow f { s.hub.flow f with
      upA := false, downA := true, stalled := !s.hub.flowDual f || (s.hub.flow f).downB }) 104 := by
  let x : Flow := { s.hub.flow f with upA := false, downA := true, stalled := !s.hub.flowDual f || (s.hub.flow f).downB }
  let h1 := (s.hub.setFlow f x).flowEvent s.glob f 4 0
  let last := (!s.hub.flowDual f || (s.hub.flow f).downB) && !(s.hub.flow f).stalled
  have hexec : exec (.flowPathTimeout f 0) s = .next { s with hub := h1.raiseIf last s.glob 104 (6 + f * 256 + 0 * 65536) } := by
    have hcond : (!s.hub.flowOn f || !((0 : Nat) == 0 || ((0 : Nat) == 1 && s.hub.flowDual f)) || (s.hub.flow f).downA || s.glob.safe) = false := by
      simp [hon, hup, hsafe]
    rw [show exec (.flowPathTimeout f 0) s = .next { s with hub := s.hub.flowPathTimeout s.glob f 0 } from rfl, Hub.flowPathTimeout]
    simp only [if_true, hcond, Bool.false_eq_true, if_false, Bool.true_and]
    rfl
  have hmore := h1.raiseIf_reports last s.glob 104 (6 + f * 256 + 0 * 65536)
  exact ⟨_, hexec, ⟨rfl, rfl, rfl⟩, (Hub.raise_reports ..).trans hmore, hmore.pending 104 (Hub.pending_raise _ s.glob 104 _ rfl)⟩

/-- Settles O27, by the judgement of the window, by the bytes that the rows of an accepted packet reach, and by the arms of the bound pipes one by one. -/
theorem flowsMergeAndComplete : Obligations.FlowsMergeAndComplete := by
  intro s f p freed hrec hup hab
  obtain ⟨hf, hon, hserves, hsafe⟩ := Hub.flowReceives_parts hrec
  refine ⟨fun ha hgood hv => ?_, fun ha hgood hv => ?_, fun fr ha hgood hv hfr hrtp hnew hcount hmark hroom hfit =>
    flowPacket_accepted hrec hup hab ha hgood hv hfr hrtp hnew hcount hmark hroom hfit,
    fun fr rest hd hrtp harms => flowFrameComplete_counts hd hserves hsafe hrtp harms,
    fun fr rest i hd hunder hauto hi hreach hpipe hgroup hbuf hfresh =>
      flowFrameComplete_arms hf hd hserves hsafe hunder hauto hi hreach hpipe hgroup hbuf hfresh,
    flowPathTimeout_downs hon hsafe⟩
  · exact exec_flowPacket_counted hrec hup hab ha hgood hv (.inl ⟨rfl, rfl⟩)
  · exact exec_flowPacket_counted hrec hup hab ha hgood hv (.inr ⟨rfl, rfl⟩)

end Sys2Proof.Machine
end

section
/-! sACN universes (R132 to R137, R149): what a packet does by the first check that finds something, the merge of a first source, and the publication of universes
that wait. -/

namespace Sys2Proof.Machine

-- As in the tests, one proof at a time: proofs that wait for one another each take a thread of the compile, whose memory is limited.
set_option Elab.async false

/-! ## Universes after an update -/

theorem Hub.univ_setUniv (h : Hub) (u : Nat) (x : Universe) (j : Nat) : (h.setUniv u x).univ j = if u = j then x else h.univ j := Sparse.get_set ..

theorem Hub.univ_modUniv (h : Hub) (u : Nat) (k : Universe → Universe) (j : Nat) :
    (h.modUniv u k).univ j = if u = j then k (h.univ u) else h.univ j := Hub.univ_setUniv ..

theorem Hub.univ_setUniv_same (h : Hub) (u : Nat) (x : Universe) : (h.setUniv u x).univ u = x := (h.univ_setUniv u x u).trans (if_pos rfl)

theorem Hub.univ_of_net {h h' : Hub} (hn : h'.net = h.net) (u : Nat) : h'.univ u = h.univ u := by rw [Hub.univ, Hub.univ, hn]

theorem Sparse.mem_of_get_ne {α : Type} {d : α} {m : Sparse α} {k : Nat} (h : Sparse.get d m k ≠ d) : (k, Sparse.get d m k) ∈ m := by
  induction m with
  | nil => exact absurd rfl h
  | cons e m ih =>
    obtain ⟨j, a⟩ := e
    rw [Sparse.get] at h ⊢
    split
    case isTrue hj => rw [hj]; exact List.mem_cons_self ..
    case isFalse hj =>
      rw [if_neg hj] at h
      exact List.mem_cons_of_mem _ (ih h)

/-- A universe that waits on an address is among those listed for it. -/
theorem Hub.mem_waitingOn {h : Hub} {addr u : Nat} (hw : addr ∈ (h.univ u).waiting) : u ∈ h.waitingOn addr := by
  have hmem : (u, h.univ u) ∈ h.net.univs := Sparse.mem_of_get_ne fun hd => by
    rw [Hub.univ, hd] at hw
    cases hw
  exact List.mem_map.2 ⟨_, List.mem_filter.2 ⟨hmem, by simpa using hw⟩, rfl⟩

theorem Universe.sources_merge (x : Universe) (tbl : List Byte) (u : Nat) : (x.merge tbl u).sources = x.sources := by
  rw [Universe.merge]
  split <;> rfl

/-! ## Packets and their checks (R132, R133, R135, R149) -/

theorem Hub.sacnOn_parts {h : Hub} {g : Glob} {n sub : Nat} (hon : h.sacnOn g n sub = true) : h.serving .ing = true ∧ g.safe = false := by
  simp only [Hub.sacnOn, Bool.and_eq_true, Bool.not_eq_true'] at hon
  exact ⟨hon.1.2, hon.2⟩

section
variable {s : State} {n sub : Nat} (ha : s.hub.awake 3 = true) (hon : s.hub.sacnOn s.glob n sub = true)
include ha hon

/-- A packet whose universe table reads poisoned is a fault of ING, which then takes none. -/
theorem exec_sacnPacket_spoilt (hbad : s.hub.tableSpoilt s.mem tblUniverse = true) (pkt : SacnPkt) :
    exec (.sacnPacket n sub pkt [] []) s = .next { s with hub := s.hub.blockFault s.glob .ing } := by
  have hoff : (s.hub.blockFault s.glob .ing).sacnOn s.glob n sub = false :=
    Bool.eq_false_iff.2 fun h => by
      have hserves := (Hub.sacnOn_parts h).1
      rw [Hub.blockFault_serves_not] at hserves
      cases hserves
  rw [show exec (.sacnPacket n sub pkt [] []) s = execSacnPacket n sub pkt [] [] s from rfl, execSacnPacket, wokenWhen_awake _ _ ha]
  simp only [State.reads_nil, State.ownLines_nil, hon, hbad, if_true]
  simp only [sacnPacketOf, hoff, Bool.not_false, if_true]

theorem exec_sacnPacket_readable (ht : TableReadable s tblUniverse) (pkt : SacnPkt) :
    exec (.sacnPacket n sub pkt [] []) s = .next (sacnPacketOf s n sub pkt) := by
  obtain ⟨hgood, hopen⟩ := ht
  have hlook (off k : Nat) : s.hub.tableLook s.glob tblUniverse off k = s.hub := by
    rw [Hub.tableLook]
    split
    case h_1 => rfl
    case h_2 v hv => rw [hopen v hv]; rfl
  rw [show exec (.sacnPacket n sub pkt [] []) s = execSacnPacket n sub pkt [] [] s from rfl, execSacnPacket, wokenWhen_awake _ _ ha]
  simp only [State.reads_nil, State.ownLines_nil, hon, hgood, hlook, Bool.false_eq_true, if_true, if_false]

theorem exec_sacnPacket_full (ht : TableReadable s tblUniverse) (hfull : s.hub.sacnFull = true) (pkt : SacnPkt) :
    exec (.sacnPacket n sub pkt [] []) s = .next { s with hub := s.hub.count Reg.ING_SACN_OVR 31 } := by
  rw [exec_sacnPacket_readable ha hon ht]
  simp only [sacnPacketOf, hon, hfull, Bool.not_true, Bool.false_eq_true, if_true, if_false]

omit hon in
theorem exec_sacnSyncPacket (addr : Nat) : exec (.sacnSyncPacket n sub addr) s = .next (sacnSyncOf s n sub addr) := by
  rw [show exec (.sacnSyncPacket n sub addr) s = execSacnSyncPacket n sub addr s from rfl, execSacnSyncPacket, wokenWhen_awake _ _ ha]

theorem exec_sacnSyncPacket_full (hfull : s.hub.sacnFull = true) (addr : Nat) :
    exec (.sacnSyncPacket n sub addr) s = .next { s with hub := s.hub.count Reg.ING_SACN_OVR 31 } := by
  rw [exec_sacnSyncPacket ha]
  simp only [sacnSyncOf, hon, hfull, Bool.not_true, Bool.false_eq_true, if_true, if_false]

section
variable (ht : TableReadable s tblUniverse) (hroom : s.hub.sacnFull = false)
include ht hroom

theorem exec_sacnPacket_discovery :
    exec (.sacnPacket n sub .discovery [] []) s = .next { s with hub := s.hub.sacnEnter.count Reg.ING_SACN_IGN 31 } := by
  rw [exec_sacnPacket_readable ha hon ht]
  simp only [sacnPacketOf, hon, hroom, Bool.not_true, Bool.false_eq_true, if_false]

section
variable {cid number u prio seq : Nat} {terminated : Bool} {values : List Byte} {k : Hub} (hu : s.hub.univIndex number = some u) (hprio : prio ≤ 200)
include hu hprio

/-- A data packet of a universe of the table ends where its source is refused. -/
theorem exec_sacnPacket_refused {sync : Nat} (hr : s.hub.sacnEnter.sacnSource s.glob u cid prio seq terminated values = (k, false)) :
    exec (.sacnPacket n sub (.data cid number prio seq 0 sync false terminated values) [] []) s = .next { s with hub := k } := by
  have hindex : s.hub.sacnEnter.univIndex number = some u := hu
  rw [exec_sacnPacket_readable ha hon ht]
  simp only [sacnPacketOf, hon, hroom, hindex, hr, not_lt.2 hprio, ne_eq, not_true_eq_false, decide_false, Bool.or_false, Bool.not_true, Bool.not_false,
    Bool.false_eq_true, if_true, if_false]

/-- Accepted, and bound to no synchronisation address, it is merged and published. -/
theorem exec_sacnPacket_published (hr : s.hub.sacnEnter.sacnSource s.glob u cid prio seq terminated values = (k, true))
    (hsome : (k.univ u).sources ≠ []) :
    exec (.sacnPacket n sub (.data cid number prio seq 0 0 false terminated values) [] []) s = .next { s with
      hub := (publish s.glob (k.modUniv u (fun x => x.merge (s.hub.table tblUniverse) u), s.mem) u).1
      mem := (publish s.glob (k.modUniv u (fun x => x.merge (s.hub.table tblUniverse) u), s.mem) u).2 } := by
  have hindex : s.hub.sacnEnter.univIndex number = some u := hu
  have htable : s.hub.sacnEnter.table tblUniverse = s.hub.table tblUniverse := rfl
  have hmerged : ((k.modUniv u (fun x => x.merge (s.hub.table tblUniverse) u)).univ u).sources.isEmpty = false := by
    rw [Hub.univ_modUniv, if_pos rfl, Universe.sources_merge]
    simpa using hsome
  rw [exec_sacnPacket_readable ha hon ht]
  simp only [sacnPacketOf, hon, hroom, hindex, hr, htable, hmerged, not_lt.2 hprio, ne_eq, not_true_eq_false, decide_false, Bool.or_false, Bool.not_true,
    Bool.false_eq_true, if_false]

/-- A packet with an old number is counted, and no more (R135). -/
theorem exec_sacnPacket_old {sync : Nat} {src : SacnSource} (hsrc : (s.hub.univ u).sources.find? (fun x => x.cid == cid) = some src)
    (hold : sacnOld src.seq seq = true) :
    exec (.sacnPacket n sub (.data cid number prio seq 0 sync false terminated values) [] []) s =
      .next { s with hub := s.hub.sacnEnter.count Reg.ING_SACN_SEQ 31 } := by
  have hfind : (s.hub.sacnEnter.univ u).sources.find? (fun x => x.cid == cid) = some src := hsrc
  exact exec_sacnPacket_refused ha hon ht hroom hu hprio (by simp only [Hub.sacnSource, hfind, hold, if_true])

end

end

end

/-! ## The merge of a first source (R134, R136) -/

theorem ofNat_byteAt (bs : List Byte) (i : Nat) : BitVec.ofNat 8 (byteAt bs i) = bs.getD i 0 := by
  rw [byteAt, leAt, List.getD_eq_getElem?_getD, ← List.head?_drop]
  cases bs.drop i with
  | nil => rfl
  | cons b l => simp [ofLe]

/-- The values of an only source are the merged ones, by the highest as by the latest. -/
theorem Universe.merged_merge_single {x : Universe} {n : SacnSource} (hx : x.sources = [n]) (hn : n.values.length = 512) (tbl : List Byte) (u : Nat) :
    (x.merge tbl u).merged = n.values := by
  have hbyte (i : Nat) : (if utHtp tbl u i then BitVec.ofNat 8 (([n].map (fun s => byteAt s.values i)).foldl max 0)
      else BitVec.ofNat 8 (byteAt n.values i)) = n.values.getD i 0 := by
    simp [ofNat_byteAt]
  have htop : [n].filter (fun s => s.prio == ([n].map (·.prio)).foldl max 0) = [n] := by simp
  have hnewest : [n].foldl (fun (a : Nat × List Byte) s => if a.1 ≤ s.last then (s.last, s.values) else a) (0, []) = (n.last, n.values) := by simp
  rw [Universe.merge, hx, if_neg (by simp)]
  dsimp only
  rw [htop, hnewest]
  simp only [hbyte]
  exact map_getD_range hn 0

/-- The source that a data packet brings. -/
def Hub.newSource (h : Hub) (cid prio seq : Nat) (values : List Byte) : SacnSource :=
  { cid := cid, prio := prio, seq := seq % 256, values := padTo 512 values, last := h.net.arrivals + 1 }

/-- A universe without sources takes the first: it is counted, and event 0x01 raised. -/
theorem Hub.sacnSource_first {h : Hub} (g : Glob) {u : Nat} (hno : (h.univ u).sources = []) (hroom : h.sourcesUsed < 16384) (cid prio seq : Nat)
    (values : List Byte) :
    ∃ k : Hub, h.sacnSource g u cid prio seq false values = (k, true) ∧ (k.univ u).sources = [h.newSource cid prio seq values] ∧
      k.pending 105 = true ∧ RegsKeptBut (Reg.ING_SACN_ACC :: pendRegs) h k := by
  have hcond : (decide ((h.univ u).sources.length < 4) && decide (h.sourcesUsed < 16384)) = true := by simp [hno, hroom]
  let h1 := h.setUniv u { h.univ u with sources := (h.univ u).sources ++ [h.newSource cid prio seq values], refused := (h.univ u).refused.filter (· != cid) }
  let h2 : Hub := { h1 with net := { h1.net with arrivals := h1.net.arrivals + 1 } }
  have hsrc : ((h2.count Reg.ING_SACN_ACC 31).univ u).sources = [h.newSource cid prio seq values] :=
    (congrArg Universe.sources (h.univ_setUniv_same u _)).trans (by rw [hno, List.nil_append])
  refine ⟨(h2.count Reg.ING_SACN_ACC 31).sacnEvent g 1 u, ?_, ?_, Hub.pending_raise _ g 105 _ rfl, fun off hoff => ?_⟩
  · rw [Hub.sacnSource]
    dsimp only
    rw [show (h.univ u).sources.find? (fun s => s.cid == cid) = none by rw [hno]; rfl]
    dsimp only
    rw [if_pos hcond, if_neg Bool.false_ne_true]
    rfl
  · rw [Hub.univ_of_net (h := h2.count Reg.ING_SACN_ACC 31) (by simp [Hub.sacnEvent])]
    exact hsrc
  · obtain ⟨hacc, hpend⟩ : off ≠ Reg.ING_SACN_ACC ∧ off ∉ pendRegs := by simpa using hoff
    rw [Hub.sacnEvent, Hub.rd_raise _ _ _ _ _ hpend, Hub.rd_count_ne _ _ _ _ (Ne.symm hacc)]
    rfl

/-! ## Publication (R137, R138) -/

/-- The place of a universe in the merged image (Table 11.1). -/
def Hub.univPlace (h : Hub) (u : Nat) : Nat := h.addr36 Reg.FIX_AREA_LO Reg.FIX_AREA_HI 12 + 512 * u

/-- Publishing leaves the violations of a refused access, and of the network nothing else. -/
theorem publish_kept (g : Glob) (hm : Hub × Memory) (u : Nat) :
    SaddleKept violationRegs hm.1 (publish g hm u).1 ∧ (publish g hm u).1.net = hm.1.net := Hub.ingLooks_kept ..

/-- The merged values go to the universe's place, where the registers that decide of it are those of `h`. -/
theorem publish_mem {h k : Hub} (hr : RegsKeptBut (Reg.ING_SACN_ACC :: pendRegs) h k) (g : Glob) (m : Memory) (u : Nat) :
    (publish g (k, m) u).2 = h.writeDram m h.ingSecure (h.univPlace u) (padTo 512 (k.univ u).merged) false := by
  have hrd {off : Nat} (hlo : 0x92021 ≤ off) : k.rd off = h.rd off := by
    refine hr off fun hm => ?_
    rcases List.mem_cons.1 hm with he | hp
    · simp only [Reg.ING_SACN_ACC] at he
      omega
    · exact not_mem_pendRegs (by omega) hp
  have hsecure : k.ingSecure = h.ingSecure := Hub.bit_of_rd _ _ _ _ (hrd (by decide))
  have hplace : k.univPlace u = h.univPlace u := by
    rw [Hub.univPlace, Hub.univPlace, Hub.addr36, Hub.addr36, Hub.n, Hub.n, hrd (by decide), Hub.f_of_rd _ _ _ _ _ (hrd (by decide))]
  rw [← hsecure, ← hplace, ← Hub.writeDram_congr hr]
  rfl

/-- A first source is tracked, merged and published. -/
theorem sacnPacket_first {s : State} {n sub : Nat} (ha : s.hub.awake 3 = true) (hon : s.hub.sacnOn s.glob n sub = true)
    (ht : TableReadable s tblUniverse) (hroom : s.hub.sacnFull = false) {number u prio : Nat} (hu : s.hub.univIndex number = some u) (hprio : prio ≤ 200)
    (hno : (s.hub.univ u).sources = []) (hused : s.hub.sourcesUsed < 16384) (cid seq : Nat) (values : List Byte) :
    ∃ t, exec (.sacnPacket n sub (.data cid number prio seq 0 0 false false values) [] []) s = .next t ∧ t.glob = s.glob ∧
      t.pending = s.pending ∧ t.hub.pending 105 = true ∧ (t.hub.univ u).merged = padTo 512 values ∧
      (t.hub.univ u).sources = [s.hub.newSource cid prio seq values] ∧
      t.mem = s.hub.writeDram s.mem s.hub.ingSecure (s.hub.univPlace u) (padTo 512 values) false ∧
      DramKeptBut (s.hub.univPlace u) 512 s.mem t.mem := by
  obtain ⟨k, hk, hsrc, hpend, hregs⟩ := Hub.sacnSource_first (h := s.hub.sacnEnter) s.glob hno hused cid prio seq values
  let k1 := k.modUniv u (fun x => x.merge (s.hub.table tblUniverse) u)
  have huniv : k1.univ u = (k.univ u).merge (s.hub.table tblUniverse) u := (k.univ_modUniv u _ u).trans (if_pos rfl)
  have hmerged : (k1.univ u).merged = padTo 512 values := by
    rw [huniv]
    exact Universe.merged_merge_single hsrc (length_padTo ..) ..
  have hsources : (k1.univ u).sources = [s.hub.newSource cid prio seq values] := by
    rw [huniv, Universe.sources_merge]
    exact hsrc
  obtain ⟨hkept, hnet⟩ := publish_kept s.glob (k1, s.mem) u
  have hmem : (publish s.glob (k1, s.mem) u).2 = s.hub.writeDram s.mem s.hub.ingSecure (s.hub.univPlace u) (padTo 512 values) false :=
    (publish_mem (h := s.hub) (k := k1) hregs s.glob s.mem u).trans (by rw [hmerged, padTo_padTo])
  refine ⟨_, exec_sacnPacket_published ha hon ht hroom hu hprio hk (by simp [hsrc]), rfl, rfl, hkept.pending 105 (by decide) hpend, ?_, ?_, hmem, ?_⟩
  · rw [Hub.univ_of_net hnet]
    exact hmerged
  · rw [Hub.univ_of_net hnet]
    exact hsources
  · dsimp only
    rw [hmem]
    exact (Hub.writeDram_run ..).kept le_rfl (by rw [length_padTo])

/-! ## Universes that wait (R137) -/

/-- A universe that waits on an address is published, and waits no more. -/
def publishOne (g : Glob) (addr : Nat) (hm : Hub × Memory) (u : Nat) : Hub × Memory :=
  publish g (hm.1.modUniv u (fun x => { x with waiting := x.waiting.filter (· != addr) }), hm.2) u

theorem publishWaiting_eq (g : Glob) (addr : Nat) (hm : Hub × Memory) :
    publishWaiting g addr hm = (hm.1.waitingOn addr).foldl (publishOne g addr) hm := rfl

theorem publishOne_kept (g : Glob) (addr : Nat) (hm : Hub × Memory) (u : Nat) : SaddleKept violationRegs hm.1 (publishOne g addr hm u).1 := by
  refine .trans ?_ (publish_kept ..).1
  exact .of_same rfl rfl

theorem univ_publishOne (g : Glob) (addr : Nat) (hm : Hub × Memory) (u j : Nat) :
    (publishOne g addr hm u).1.univ j =
      if u = j then { hm.1.univ u with waiting := (hm.1.univ u).waiting.filter (· != addr) } else hm.1.univ j := by
  rw [publishOne, Hub.univ_of_net (publish_kept ..).2, Hub.univ_modUniv]

/-- The universes of a list are published in turn: each that is listed waits no more on the address, and no merged value changes. -/
theorem publishAll_univ (g : Glob) (addr : Nat) (us : List Nat) (hm : Hub × Memory) (j : Nat) :
    ((us.foldl (publishOne g addr) hm).1.univ j).merged = (hm.1.univ j).merged ∧
      (j ∈ us ∨ addr ∉ (hm.1.univ j).waiting → addr ∉ ((us.foldl (publishOne g addr) hm).1.univ j).waiting) := by
  induction us generalizing hm with
  | nil => exact ⟨rfl, fun h => h.resolve_left List.not_mem_nil⟩
  | cons u us ih =>
    obtain ⟨hmerged, hwaits⟩ := ih (publishOne g addr hm u)
    rw [List.foldl_cons]
    refine ⟨hmerged.trans ?_, fun hj => hwaits ?_⟩
    · rw [univ_publishOne]
      split
      case isTrue he => rw [← he]
      case isFalse => rfl
    · rw [univ_publishOne]
      split
      case isTrue he => exact .inr (by simp)
      case isFalse he => exact hj.imp_left fun hm => (List.mem_cons.1 hm).resolve_left (Ne.symm he)

theorem publishWaiting_kept (g : Glob) (addr : Nat) (hm : Hub × Memory) : SaddleKept violationRegs hm.1 (publishWaiting g addr hm).1 := by
  rw [publishWaiting_eq]
  exact List.foldlRecOn (motive := fun r : Hub × Memory => SaddleKept violationRegs hm.1 r.1) _ _ (.refl _) fun r hr u _ => hr.trans (publishOne_kept ..)

theorem publishWaiting_univ (g : Glob) (addr : Nat) (hm : Hub × Memory) (u : Nat) :
    ((publishWaiting g addr hm).1.univ u).merged = (hm.1.univ u).merged ∧ addr ∉ ((publishWaiting g addr hm).1.univ u).waiting := by
  obtain ⟨hmerged, hwaits⟩ := publishAll_univ g addr (hm.1.waitingOn addr) hm u
  exact ⟨hmerged, hwaits (Decidable.or_iff_not_imp_right.2 fun h => Hub.mem_waitingOn (not_not.1 h))⟩

section
variable {s : State} {n sub : Nat} (hon : s.hub.sacnOn s.glob n sub = true)
include hon

/-- A synchronisation packet is counted, and publishes every universe that waits on its address. -/
theorem sacnSyncPacket_publishes (ha : s.hub.awake 3 = true) (hroom : s.hub.sacnFull = false) (addr : Nat) :
    ∃ t, exec (.sacnSyncPacket n sub addr) s = .next t ∧ t.glob = s.glob ∧ t.pending = s.pending ∧
      t.hub.f Reg.ING_SACN_ACC 30 0 = satInc 31 (s.hub.f Reg.ING_SACN_ACC 30 0) ∧
      RegsKeptBut ([Reg.ING_SACN_ACC] ++ violationRegs ++ pendRegs) s.hub t.hub ∧
      (∀ u, addr ∉ (t.hub.univ u).waiting) ∧ (∀ u, (t.hub.univ u).merged = (s.hub.univ u).merged) := by
  let h := s.hub.sacnEnter.count Reg.ING_SACN_ACC 31
  have hregs := (publishWaiting_kept s.glob addr (h, s.mem)).regs
  have huniv := publishWaiting_univ s.glob addr (h, s.mem)
  refine ⟨{ s with hub := (publishWaiting s.glob addr (h, s.mem)).1, mem := (publishWaiting s.glob addr (h, s.mem)).2 }, ?_, rfl, rfl, ?_, fun off hoff => ?_,
    fun u => (huniv u).2, fun u => (huniv u).1⟩
  · rw [exec_sacnSyncPacket ha]
    simp only [sacnSyncOf, hon, hroom, Bool.not_true, Bool.false_eq_true, if_false]
    rfl
  · exact (Hub.f_of_rd _ _ _ _ _ (hregs Reg.ING_SACN_ACC (by decide))).trans (s.hub.sacnEnter.f_count (by decide) (by decide))
  · simp only [List.mem_append, List.mem_singleton, not_or] at hoff
    obtain ⟨⟨hacc, hviol⟩, hpend⟩ := hoff
    exact (hregs off (by simp [hviol, hpend])).trans (Hub.rd_count_ne _ _ _ _ (Ne.symm hacc))

/-- Without one in time, the universe that waits is published with event 0x04. -/
theorem sacnSyncTimeout_publishes {addr u : Nat} (hw : s.hub.waitingOn addr = [u]) :
    ∃ t, exec (.sacnSyncTimeout addr) s = .next t ∧ t.glob = s.glob ∧ t.pending = s.pending ∧
      RegsKeptBut (violationRegs ++ pendRegs) s.hub t.hub ∧ t.hub.pending 105 = true ∧ addr ∉ (t.hub.univ u).waiting ∧
      t.mem = s.hub.writeDram s.mem s.hub.ingSecure (s.hub.univPlace u) (padTo 512 (s.hub.univ u).merged) false := by
  obtain ⟨hserves, hsafe⟩ := Hub.sacnOn_parts hon
  let r := publishWaiting s.glob addr (s.hub, s.mem)
  have hone : r = publishOne s.glob addr (s.hub, s.mem) u := by rw [show r = _ from publishWaiting_eq .., hw]; rfl
  have hraise : SaddleKept violationRegs s.hub (r.1.sacnEvent s.glob 4 u) :=
    (publishWaiting_kept s.glob addr (s.hub, s.mem)).trans (Hub.raise_saddleKept _ r.1 s.glob 105 (4 + u * 65536))
  refine ⟨{ s with hub := r.1.sacnEvent s.glob 4 u, mem := r.2 }, ?_, rfl, rfl, hraise.regs, Hub.pending_raise _ s.glob 105 _ rfl, ?_, ?_⟩
  · rw [show exec (.sacnSyncTimeout addr) s = .next (sacnSyncTimeoutOf s addr) from rfl, sacnSyncTimeoutOf, hsafe, hserves]
    dsimp only
    rw [hw]
    rfl
  · dsimp only
    rw [Hub.univ_of_net (h := r.1) (by simp [Hub.sacnEvent])]
    exact (publishWaiting_univ ..).2
  · dsimp only
    rw [hone]
    refine (publish_mem (h := s.hub) (k := s.hub.modUniv u (fun x => { x with waiting := x.waiting.filter (· != addr) })) (fun _ _ => rfl) s.glob s.mem u).trans ?_
    rw [Hub.univ_modUniv, if_pos rfl]

/-- A source that has been silent leaves, with event 0x02. -/
theorem sacnSourceTimeout_leaves {u cid : Nat} (hsrc : (s.hub.univ u).sources.any (fun x => x.cid == cid) = true) :
    BecomesRaising (.sacnSourceTimeout u cid) s
      (s.hub.setUniv u { s.hub.univ u with sources := (s.hub.univ u).sources.filter (fun x => x.cid != cid) }) 105 := by
  obtain ⟨-, hsafe⟩ := Hub.sacnOn_parts hon
  refine becomesRaising_raise (detail := 2 + u * 65536) ?_ rfl
  rw [show exec (.sacnSourceTimeout u cid) s = .next { s with hub := s.hub.sacnSourceTimeout s.glob u cid } from rfl, Hub.sacnSourceTimeout, hsrc, hsafe]
  rfl

end

/-- Settles O28, by the checks that a packet meets, by the merge of an only source, and by what the universes published in turn leave. -/
theorem sacnMergesAndPublishes : Obligations.SacnMergesAndPublishes := by
  refine fun s n sub ha hon => ⟨fun hbad pkt => exec_sacnPacket_spoilt ha hon hbad pkt,
    fun hfull pkt addr => ⟨fun ht => exec_sacnPacket_full ha hon ht hfull pkt, exec_sacnSyncPacket_full ha hon hfull addr⟩,
    fun cid number u prio seq values ht hu hprio hno hused hroom => sacnPacket_first ha hon ht hroom hu hprio hno hused cid seq values,
    fun cid number u prio seq sync term values src ht hu hprio hsrc hold hroom => exec_sacnPacket_old ha hon ht hroom hu hprio hsrc hold,
    fun ht hroom => exec_sacnPacket_discovery ha hon ht hroom, fun addr hroom => sacnSyncPacket_publishes hon ha hroom addr,
    fun addr u hw => sacnSyncTimeout_publishes hon hw, fun u cid hsrc => sacnSourceTimeout_leaves hon hsrc⟩

end Sys2Proof.Machine
end

section
/-! The canonical form of the memories (R141): every operation that the hub carries out on them keeps it. -/

namespace Sys2Proof.Machine

-- As in the tests, one proof at a time: proofs that wait for one another each take a thread of the compile, whose memory is limited.
set_option Elab.async false

/-! ## Operations of the memories -/

theorem Memory.wf_loseLocal (m : Memory) (e : Nat) (h : m.wf = true) : (m.loseLocal e).wf = true := by
  simp only [Memory.wf, Bool.and_eq_true] at h ⊢
  obtain ⟨⟨⟨⟨⟨⟨⟨⟨h1, h2⟩, h3⟩, h4⟩, h5⟩, h6⟩, h7⟩, h8⟩, h9⟩ := h
  exact ⟨⟨⟨⟨⟨⟨⟨⟨h1, h2⟩, h3⟩, h4⟩, Sparse.wf_filter _ _ _ h5⟩, Sparse.wf_filter _ _ _ h6⟩, Sparse.wf_filter _ _ _ h7⟩, Sparse.wf_filter _ _ _ h8⟩, h9⟩

theorem Memory.wf_firmwareIn (m : Memory) (part : List Byte) (h : m.wf = true) : (m.firmwareIn part).wf = true :=
  foldl_wf _ (fun _ _ hm => Memory.wf_writeDmem _ _ _ _ (Memory.wf_writeImem _ _ _ _ hm)) _ m h

theorem Hub.wf_firmwareCopy (h : Hub) (m : Memory) (hm : m.wf = true) : (h.firmwareCopy m).wf = true := by
  unfold Hub.firmwareCopy
  split
  · exact hm
  · exact Hub.wf_writeDram _ _ _ _ _ _ hm

theorem Hub.wf_copyData (h : Hub) (m : Memory) (e : Nat) (hm : m.wf = true) : (h.copyData m e).wf = true :=
  Memory.wf_writeDmem _ _ _ _ hm

theorem Hub.wf_stageToDram (h : Hub) (m : Memory) (q tag : Nat) (d : Desc) (hm : m.wf = true) : (h.stageToDram m q tag d).wf = true := by
  unfold Hub.stageToDram
  split
  · exact hm
  · exact Hub.wf_writeDram _ _ _ _ _ _ hm

theorem Hub.wf_storePoisoned (h : Hub) (m : Memory) (d : Desc) (bs : List Byte) (hm : m.wf = true) : (h.storePoisoned m d bs).wf = true := by
  unfold Hub.storePoisoned
  split
  · exact hm
  · exact Hub.wf_writeDram _ _ _ _ _ _ hm

theorem Hub.wf_lastRenewed (h : Hub) (m : Memory) (hm : m.wf = true) : (h.lastRenewed m).wf = true := Memory.wf_renewLines _ _ hm

theorem Hub.wf_shadowWrite (h : Hub) (m : Memory) (o first count : Nat) (vals : List Byte) (hm : m.wf = true) :
    (h.shadowWrite m o first count vals).wf = true :=
  Hub.wf_writeDram _ _ _ _ _ _ (foldl_wf _ (fun _ _ hm => Hub.wf_writeDram _ _ _ _ _ _ hm) _ m hm)

theorem Hub.wf_ownerWritten (h : Hub) (m : Memory) (key own : Nat) (owned : Bool) (hm : m.wf = true) : (h.ownerWritten m key own owned).wf = true :=
  Hub.wf_writeDram _ _ _ _ _ _ hm

theorem wf_flowWhole (h : Hub) (f : Nat) (fr : FlowFrame) (row : Nat) (m : Memory) (k : Nat) (hm : m.wf = true) : (flowWhole h f fr row m k).wf = true := by
  unfold flowWhole
  dsimp only
  split
  · exact Hub.wf_writeDram _ _ _ _ _ _ hm
  · exact hm

/-! ## Operations of the hub with its memories -/

/-- The memories that stand beside the hub are in canonical form. -/
def PairForm (hm : Hub × Memory) : Prop := hm.2.wf = true

namespace PairForm

variable {a b : Hub × Memory}

theorem beside {m : Memory} (h : Hub) (hm : m.wf = true) : PairForm (h, m) := hm

/-- The hub may change as it will. -/
theorem hub (h : PairForm a) (k : Hub) : PairForm (k, a.2) := h

theorem ite {c : Prop} [Decidable c] (ha : PairForm a) (hb : PairForm b) : PairForm (if c then a else b) := by
  split <;> assumption

theorem writeDram (h : PairForm a) (k k' : Hub) (secure : Bool) (x : Nat) (bs : List Byte) (bad : Bool) :
    PairForm (k, k'.writeDram a.2 secure x bs bad) :=
  Hub.wf_writeDram _ _ _ _ _ _ h

theorem readLine (h : PairForm a) (g : Glob) (scrub : Bool) (w : LineMem) (line : Nat) (err : LineErr) :
    PairForm (Sys2Proof.Machine.readLine g scrub w line err a) := wf_readLine _ _ _ _ _ _ h

theorem dramErrors (h : PairForm a) (g : Glob) (scrub : Bool) (errs : List (Nat × ReadError)) :
    PairForm (Sys2Proof.Machine.dramErrors g scrub errs a) := wf_dramErrors _ _ _ _ h

end PairForm

/-- An operation of the hub with its memories leaves canonical memories canonical. -/
def KeepsForm (f : Hub × Memory → Hub × Memory) : Prop := ∀ hm, PairForm hm → PairForm (f hm)

theorem KeepsForm.foldl {α : Type} {f : Hub × Memory → α → Hub × Memory} (hf : ∀ a, KeepsForm (fun hm => f hm a)) (l : List α) :
    KeepsForm (fun hm => l.foldl f hm) := fun _ h =>
  List.foldlRecOn (motive := PairForm) l f h fun r hr a _ => hf a r hr

theorem keepsForm_readLines (g : Glob) (w : LineMem) (a n : Nat) (lines : List LineErr) : KeepsForm (readLines g w a n lines) :=
  .foldl (fun _ _ h => h.readLine ..) _

theorem keepsForm_readPartLines (g : Glob) (w : LineMem) (a n : Nat) (lines : List LineErr) : KeepsForm (readPartLines g w a n lines) :=
  .foldl (fun _ _ h => .ite h (h.readLine ..)) _

/-! ### Calibration -/

theorem keepsForm_calWrite (g : Glob) (p part : Nat) (e : Nat × List Byte) : KeepsForm (fun hm => calWrite g p part hm e) := by
  intro hm h
  change PairForm (calWrite g p part hm e)
  unfold calWrite
  extract_lets k c t i c1
  exact .ite (.ite (h.writeDram ..) (h.hub _)) (h.hub _)

theorem keepsForm_calRun (g : Glob) (d : Desc) (first count : Nat) (data : List Byte) (t : Nat) :
    KeepsForm (fun hm => calRun g d first count data hm t) := by
  intro hm h
  change PairForm (calRun g d first count data hm t)
  unfold calRun
  extract_lets
  exact .ite h (.beside _ (Hub.wf_writeDram _ _ _ _ _ _ h))

theorem keepsForm_calWrites (g : Glob) (d : Desc) (first count : Nat) (data : List Byte) :
    KeepsForm (fun hm => calWrites g d hm first count data) := by
  intro hm h
  change PairForm (calWrites g d hm first count data)
  unfold calWrites
  extract_lets
  refine .ite h ?_
  exact KeepsForm.foldl (fun i => keepsForm_calWrite g _ _ _) _ _ (KeepsForm.foldl (fun i => keepsForm_calRun g d first count data _) _ hm h)

theorem keepsForm_initRecord (g : Glob) (p t d : Nat) : KeepsForm (fun hm => initRecord g p t hm d) := by
  intro hm h
  change PairForm (initRecord g p t hm d)
  unfold initRecord
  exact .ite h (.ite (h.hub _) (h.writeDram ..))

theorem keepsForm_samplePixel (g : Glob) (p w : Nat) (px : WalkPx) : KeepsForm (fun hm => samplePixel g p w hm px) := by
  intro hm h
  change PairForm (samplePixel g p w hm px)
  unfold samplePixel
  extract_lets k src d
  split
  · exact h
  · exact .ite h (.ite (h.hub _) (h.writeDram ..))

theorem keepsForm_foldPixel (g : Glob) (p t d : Nat) : KeepsForm (fun hm => foldPixel g p t hm d) := by
  intro hm h
  change PairForm (foldPixel g p t hm d)
  unfold foldPixel
  extract_lets k c a r x k0 ages m1
  refine .ite h (.ite (h.hub _) (.ite (h.hub _) ?_))
  have h1 : m1.wf = true := Hub.wf_writeDram _ _ _ _ _ _ h
  exact .ite (.beside _ h1) (.beside _ (Hub.wf_writeDram _ _ _ _ _ _ h1))

/-! ### Ingest -/

theorem keepsForm_flowPixel (g : Glob) (f : Nat) (fr : FlowFrame) (row x : Nat) : KeepsForm (flowPixel g f fr row x) := by
  intro hm h
  unfold flowPixel
  extract_lets
  split
  · exact h
  · exact h.writeDram ..

theorem keepsForm_flowRow (g : Glob) (f : Nat) (fr : FlowFrame) (r : RowData) : KeepsForm (fun hm => flowRow g f fr hm r) := by
  intro hm h
  change PairForm (flowRow g f fr hm r)
  unfold flowRow
  refine .beside _ (foldl_wf _ (fun m k => wf_flowWhole _ _ _ _ m k) _ _ (KeepsForm.foldl (fun i hm h => ?_) _ hm h))
  refine .ite h ?_
  split
  · exact h
  · exact keepsForm_flowPixel g f fr _ _ hm h

theorem keepsForm_flowAccept (g : Glob) (f : Nat) (p : FlowPkt) : KeepsForm (flowAccept g f p) := by
  intro hm h
  unfold flowAccept
  extract_lets
  exact .hub (KeepsForm.foldl (fun r => keepsForm_flowRow g f _ r) p.rows _ (h.hub _)) _

theorem keepsForm_publish (g : Glob) (u : Nat) : KeepsForm (fun hm => publish g hm u) := fun _ h => h.writeDram ..

theorem keepsForm_publishWaiting (g : Glob) (addr : Nat) : KeepsForm (publishWaiting g addr) := by
  intro hm h
  unfold publishWaiting
  exact KeepsForm.foldl (fun u r hr => keepsForm_publish g u (_, r.2) (hr.hub _)) (hm.1.waitingOn addr) hm h

/-! ### Fixtures -/

theorem keepsForm_shadowTakes (g : Glob) (o first count : Nat) (vals : List Byte) : KeepsForm (shadowTakes g o first count vals) :=
  fun _ h => .beside _ (Hub.wf_shadowWrite _ _ _ _ _ _ h)

theorem keepsForm_writeFade (g : Glob) (slot : Nat) : KeepsForm (writeFade g slot) := fun _ h => h.writeDram ..

theorem keepsForm_writeLayer (g : Glob) (par v : Nat) : KeepsForm (writeLayer g par v) := fun _ h => .beside _ (Memory.wf_writeSram _ _ _ h)

theorem keepsForm_tickFades (g : Glob) (pg e : Nat) (bad : List Nat) : KeepsForm (tickFades g pg e bad) := by
  intro hm h
  unfold tickFades
  extract_lets b mine r
  have hr : PairForm r := KeepsForm.foldl (fun f : Fade => keepsForm_writeLayer g f.par (f.value e)) (mine.filter fun f => !bad.contains f.par) hm h
  exact hr.hub _

theorem keepsForm_startFade (g : Glob) (e : Nat) (r : Nat × Option (Nat × Nat × Bool)) : KeepsForm (fun hm => startFade g e hm r) := by
  intro hm h
  change PairForm (startFade g e hm r)
  unfold startFade
  extract_lets
  split
  · exact h.hub _
  · exact .ite (keepsForm_writeLayer g _ _ _ (h.hub _)) (keepsForm_writeFade g _ _ (h.hub _))

theorem keepsForm_tickCues (g : Glob) (pg e : Nat) : KeepsForm (tickCues g pg e) := by
  intro hm h
  unfold tickCues
  extract_lets
  exact KeepsForm.foldl (keepsForm_startFade g e) _ _ (h.hub _)

theorem wf_mergePar (g : Glob) (bad running : List Nat) (key : Nat) (hm : Hub × Memory) (h : PairForm hm) :
    (mergePar g bad running key hm).mem.wf = true := by
  have hprev (k : Hub) (seen : Bool) (a : Nat) (bs : List Byte) :
      (if seen then k.writeDram hm.2 k.fixSecure a bs false else hm.2).wf = true := by
    split
    · exact h.writeDram k k _ _ _ _
    · exact h
  unfold mergePar
  extract_lets
  split
  · dsimp only
    split
    · exact Hub.wf_ownerWritten _ _ _ _ _ (hprev ..)
    · exact hprev ..
  · split
    · exact h
    · exact Hub.wf_ownerWritten _ _ _ _ _ (Hub.wf_writeDram _ _ _ _ _ _ h)

theorem wf_mergeFixture (g : Glob) (bad running : List Nat) (acc : Hub × Memory × SlotVals) (f : Nat) (h : acc.2.1.wf = true) :
    (mergeFixture g bad running acc f).2.1.wf = true :=
  List.foldlRecOn (motive := fun r : Hub × Memory × SlotVals => r.2.1.wf = true) _ _ h fun r hr key _ => wf_mergePar g bad running key (r.1, r.2.1) hr

theorem keepsForm_newFix (g : Glob) (pg o j : Nat) (sp : Nat × Nat) (vals : List Byte) : KeepsForm (newFix g pg o j sp vals) := by
  intro hm h
  unfold newFix
  extract_lets
  exact .ite (h.hub _) (keepsForm_shadowTakes g _ _ _ _ _ (h.hub _))

theorem keepsForm_fixInPlace (g : Glob) (pg o j : Nat) (f : QFrame) (sp : Nat × Nat) (vals : List Byte) :
    KeepsForm (fixInPlace g pg o j f sp vals) := by
  intro hm h
  unfold fixInPlace
  extract_lets
  exact .ite (keepsForm_shadowTakes g _ _ _ _ _ (h.hub _)) (keepsForm_shadowTakes g _ _ _ _ _ (h.hub _))

theorem keepsForm_sendFix (g : Glob) (pg o : Nat) (sp : Nat × Nat) (vals : List Byte) : KeepsForm (sendFix g pg o sp vals) := by
  intro hm h
  unfold sendFix
  extract_lets
  split
  · exact .ite (keepsForm_fixInPlace g pg o _ _ sp vals hm h) (keepsForm_newFix g pg o _ _ vals _ (h.hub _))
  · exact h.hub _
  · exact keepsForm_newFix g pg o _ sp vals hm h

theorem keepsForm_tickOutput (g : Glob) (pg : Nat) (bad running : List Nat) (vals : SlotVals) (o : Nat) :
    KeepsForm (fun hm => tickOutput g pg bad running vals hm o) := by
  intro hm h
  change PairForm (tickOutput g pg bad running vals hm o)
  unfold tickOutput
  extract_lets k r v whole sp _ h1
  clear_value sp
  refine .ite (h.hub _) (.ite (h.hub _) ?_)
  cases sp with
  | none => exact h.hub _
  | some ab => exact keepsForm_sendFix g pg o _ v (h1, hm.2) (h.hub _)

theorem keepsForm_storeLineRead (g : Glob) (e : Nat × LineErr) : KeepsForm (fun hm => storeLineRead g hm e) :=
  fun _ h => .beside _ (Memory.wf_strikeLine _ _ _ _ h)

theorem pairForm_releaseHeld (g : Glob) (j : Nat) (held : List (Nat × QFrame)) (hm : Hub × Memory) (h : PairForm hm) :
    PairForm (releaseHeld g j held hm).1 := by
  induction held generalizing hm with
  | nil => exact h
  | cons e es ih =>
    unfold releaseHeld
    split
    · exact ih _ (keepsForm_shadowTakes g _ _ _ _ _ (h.hub _))
    · exact ih hm h

/-! ### Engines, services and Col -/

theorem keepsForm_imageLoaded (g : Glob) (e : Nat) (errs : List (Nat × ReadError)) : KeepsForm (imageLoaded g e errs) := by
  intro hm h
  have hr := h.dramErrors g false errs
  unfold imageLoaded
  refine .ite h (.ite (h.hub _) ?_)
  extract_lets r code k
  exact .ite (hr.hub _) (.beside _ (Hub.wf_copyData _ _ _ (Memory.wf_writeImem _ _ _ _ hr)))

theorem keepsForm_restartEngine (g : Glob) (e : Nat) : KeepsForm (restartEngine g e) := by
  intro hm h
  unfold restartEngine
  extract_lets
  refine .ite (h.hub _) (.ite (h.hub _) ?_)
  extract_lets
  refine .ite (h.hub _) (.beside _ ?_)
  split
  · exact Hub.wf_copyData _ _ _ h
  · exact h

theorem keepsForm_setPairingKey (g : Glob) (e : Nat) (errs : List (Nat × ReadError)) : KeepsForm (setPairingKey g e errs) := by
  intro hm h
  unfold setPairingKey
  split
  · exact h
  · extract_lets a r d m1
    have h1 : m1.wf = true := Hub.wf_writeDram _ _ _ _ _ _ (h.dramErrors g false errs)
    exact .ite (h.hub _) (.ite (.beside _ h1) (.beside _ h1))

theorem keepsForm_colGrant (g : Glob) (line : LineErr) : KeepsForm (colGrant g line) := by
  intro hm h
  unfold colGrant
  extract_lets k
  refine .ite h ?_
  split
  · exact h
  · split
    · extract_lets r k1
      have hr : PairForm r := (h.hub _).readLine ..
      refine .ite (hr.hub _) ?_
      extract_lets
      exact .beside _ (Memory.wf_writeDmem _ _ _ _ hr)
    · exact h

theorem pairForm_abortReset (g : Glob) (kind i : Nat) (hm : Hub × Memory) (h : PairForm hm) : PairForm (abortReset g kind i hm).1 := by
  unfold abortReset
  split
  · exact keepsForm_restartEngine g i hm h
  all_goals exact h.hub _

theorem pairForm_abortQuiesce (g : Glob) (a : AbortOp) (hm : Hub × Memory) (h : PairForm hm) : PairForm (abortQuiesce g a hm).1 := by
  unfold abortQuiesce
  split
  · exact pairForm_abortReset g a.kind a.index hm h
  · exact h.hub _

/-! ### The pair -/

theorem keepsForm_applyCopy (g : Glob) (c : CopyData) : KeepsForm (applyCopy g c) := by
  intro hm h
  unfold applyCopy
  cases c with
  | fades fades clocks => exact KeepsForm.foldl (fun f : Fade => keepsForm_writeFade g f.slot) fades _ (h.hub _)
  | lines lines =>
    exact .beside _ (foldl_wf _ (fun m l hm => Memory.wf_breakLine _ _ _ _ (Memory.wf_writeSram _ _ _ hm)) lines _ h)
  | commit | servo | col | odelle => exact h.hub _

theorem keepsForm_stateCopy (g : Glob) (c : CopyData) (last : Bool) : KeepsForm (stateCopy g c last) := by
  intro hm h
  unfold stateCopy
  extract_lets
  exact .ite h (.ite (keepsForm_applyCopy g c _ (h.hub _)) (h.hub _))

theorem keepsForm_mirrorShadow (g : Glob) (n : Nat) (f : MirrorFrame) : KeepsForm (mirrorShadow g n f) := by
  intro hm h
  unfold mirrorShadow
  refine .ite h ?_
  split
  · exact h
  · exact keepsForm_shadowTakes g _ _ _ _ hm h

theorem keepsForm_mirroredFrame (g : Glob) (n : Nat) (f : MirrorFrame) : KeepsForm (mirroredFrame g n f) := by
  intro hm h
  unfold mirroredFrame
  extract_lets
  exact .ite h (.ite (h.hub _) (keepsForm_mirrorShadow g n f _ (h.hub _)))

end Sys2Proof.Machine
end

section
/-! The canonical form of the memories after a command and after an idle cycle (R141). -/

namespace Sys2Proof.Machine

-- As in the tests, one proof at a time: proofs that wait for one another each take a thread of the compile, whose memory is limited.
set_option Elab.async false

/-- Where the memories of one state are in canonical form, those of the other are. -/
structure FormKept (s t : State) : Prop where
  kept : MemoryCanonical s → MemoryCanonical t

namespace FormKept

variable {s t u : State}

theorem trans (h1 : FormKept s t) (h2 : FormKept t u) : FormKept s u := ⟨fun h => h2.kept (h1.kept h)⟩

theorem same (h : t.mem = s.mem) : FormKept s t := ⟨fun hs => by rw [MemoryCanonical, h]; exact hs⟩

/-- What comes before changes no memory. -/
theorem before (h : FormKept u t) (hu : u.mem = s.mem) : FormKept s t := .trans (.same hu) h

/-- What follows changes no memory. -/
theorem after (h : FormKept s u) (ht : t.mem = u.mem) : FormKept s t := h.trans (.same ht)

theorem ite {a b : State} {c : Prop} [Decidable c] (ha : FormKept s a) (hb : FormKept s b) : FormKept s (if c then a else b) := by
  split <;> assumption

/-- The memories of the new state stand beside some hub in canonical form. -/
theorem pair {r : Hub × Memory} (ht : t.mem = r.2) (h : MemoryCanonical s → PairForm r) : FormKept s t :=
  ⟨fun hs => by rw [MemoryCanonical, ht]; exact h hs⟩

/-- An operation of the hub with its memories that keeps the form, started on the memories as they are. -/
theorem keeps {f : Hub × Memory → Hub × Memory} (hf : KeepsForm f) (k : Hub) (ht : t.mem = (f (k, s.mem)).2) : FormKept s t :=
  pair ht fun hs => hf _ (.beside k hs)

/-- A write of DRAM by a requester. -/
theorem wrote {k : Hub} {secure bad : Bool} {a : Nat} {bs : List Byte} (ht : t.mem = k.writeDram s.mem secure a bs bad) : FormKept s t :=
  ⟨fun hs => by rw [MemoryCanonical, ht]; exact Hub.wf_writeDram _ _ _ _ _ _ hs⟩

/-- The memories are what a read leaves of them. -/
theorem read {r : Hub × Memory} (h : MemoryCanonical s → PairForm r) (k : Hub) : FormKept s { s with hub := k, mem := r.2 } := pair rfl h

theorem hub (h : FormKept s t) (k : Hub) : FormKept s { t with hub := k } := h.after rfl

theorem renewed (h : FormKept s t) (k k' : Hub) : FormKept s { t with hub := k, mem := k'.lastRenewed t.mem } :=
  h.trans ⟨fun ht => Hub.wf_lastRenewed _ _ ht⟩

end FormKept

/-- An operation of the state keeps the canonical form. -/
def LeavesForm (k : State → State) : Prop := ∀ s, FormKept s (k s)

theorem LeavesForm.foldl {α : Type} {f : State → α → State} (hf : ∀ a, LeavesForm (fun s => f s a)) (l : List α) :
    LeavesForm (fun s => l.foldl f s) := fun s =>
  List.foldlRecOn (motive := fun t => FormKept s t) l f (.same rfl) fun t ht a _ => ht.trans (hf a t)

/-! ## Reads and wakes -/

theorem State.reads_formKept (s : State) (errs : List (Nat × ReadError)) : FormKept s (s.reads errs) := ⟨State.reads_wf s errs⟩

theorem State.ownLines_formKept (s : State) (blk : Block) (b n : Nat) (lines : List (Nat × LineErr)) : FormKept s (s.ownLines blk b n lines) :=
  .pair rfl fun h => KeepsForm.foldl (fun _ _ h => h.readLine ..) _ (s.hub, s.mem) h

theorem State.bankRead_formKept (s : State) (errs : List (Nat × ReadError)) (lines : List (Nat × LineErr)) : FormKept s (s.bankRead errs lines) :=
  ((s.ownLines_formKept .cmt 18 1 lines).trans (State.reads_formKept _ errs)).after rfl

theorem State.firmwareLoads_formKept (s : State) : FormKept s s.firmwareLoads := by
  unfold State.firmwareLoads
  exact .ite ⟨fun h => Memory.wf_firmwareIn _ _ h⟩ (.same rfl)

theorem State.firmwareIn_formKept (s : State) : FormKept s s.firmwareIn := by
  unfold State.firmwareIn
  refine .ite (.trans ?_ (State.firmwareLoads_formKept _)) (.same rfl)
  exact ⟨fun h => Hub.wf_firmwareCopy _ _ h⟩

theorem wakeUp_formKept (code : Nat) (s : State) : FormKept s (wakeUp code s) := by
  unfold wakeUp
  extract_lets p _ h1 s1
  have hs1 : FormKept s s1 := .ite s.firmwareLoads_formKept (.same rfl)
  exact .ite (.ite (.same rfl) (.same rfl)) (hs1.after rfl)

theorem State.wokenBy_formKept (s : State) (code : Nat) : FormKept s (s.wokenBy code) := by
  unfold State.wokenBy
  exact .ite (wakeUp_formKept code s) (.same rfl)

theorem State.reachedBy_formKept (s : State) (who : Requester) : FormKept s (s.reachedBy who) := by
  unfold State.reachedBy
  exact .ite (s.wokenBy_formKept 2) (.same rfl)

/-! ## Scrubbers and logs -/

theorem sramScrubOf_formKept (s : State) (w : LineMem) (line : Nat) (err : LineErr) : FormKept s (sramScrubOf s w line err) := by
  unfold sramScrubOf
  exact .ite (.same rfl) (.pair rfl fun h => PairForm.readLine (a := (s.hub, s.mem)) h ..)

theorem patrolOf_formKept (s : State) (block : Nat) (err : Option ReadError) : FormKept s (patrolOf s block err) := by
  unfold patrolOf
  exact .ite (.same rfl) (.pair rfl fun h => PairForm.dramErrors (a := (s.hub, s.mem)) h ..)

theorem logReadOf_formKept (s : State) (q tag : Nat) (lines : List (Nat × LineErr)) : FormKept s (logReadOf s q tag lines) := by
  unfold logReadOf
  split
  · exact .same rfl
  · refine .ite (.same rfl) (.ite (.same rfl) (.pair rfl fun h => ?_))
    exact KeepsForm.foldl (fun _ _ h => h.readLine ..) _ _ (wf_logsWritten (s.hub, s.mem) h)

/-! ## Frames and calibration -/

theorem framePostOf_formKept (s : State) (q tag : Nat) (data : List Byte) : FormKept s (framePostOf s q tag data) := by
  unfold framePostOf
  split
  · exact .same rfl
  · split
    · exact .same rfl
    · exact .wrote rfl

theorem calLoadOf_formKept (s : State) (q tag : Nat) (data : List Byte) : FormKept s (calLoadOf s q tag data) := by
  unfold calLoadOf
  dsimp only
  split
  · exact .same rfl
  · split
    · exact .same rfl
    · exact .keeps (keepsForm_calWrites s.glob _ _ _ _) s.hub rfl

theorem calLoadDone_formKept (s : State) (q tag : Nat) (d : Desc) : FormKept s (calLoadDone s q tag d) :=
  .keeps (keepsForm_calWrites s.glob _ _ _ _) s.hub rfl

theorem calCopyDoneOf_formKept (s : State) (p : Nat) : FormKept s (calCopyDoneOf s p) := by
  unfold calCopyDoneOf
  exact .ite (.same rfl) ⟨fun h => Hub.wf_copyDram _ _ _ _ _ _ h⟩

theorem statInitDoneOf_formKept (s : State) (p : Nat) : FormKept s (statInitDoneOf s p) := by
  unfold statInitDoneOf
  refine .ite (.same rfl) ?_
  exact .pair rfl fun h => KeepsForm.foldl (fun t => KeepsForm.foldl (fun d => keepsForm_initRecord _ p t d) _) _ (s.hub, s.mem) h

theorem statSampleOf_formKept (s : State) : FormKept s (statSampleOf s) := by
  unfold statSampleOf
  dsimp only
  refine .ite (.same rfl) ?_
  split
  · exact .ite (.same rfl) (.same rfl)
  · exact .pair rfl fun h => KeepsForm.foldl (fun px => keepsForm_samplePixel _ _ _ px) _ (_, s.mem) h

theorem statFoldOf_formKept (s : State) (p : Nat) : FormKept s (statFoldOf s p) := by
  have hr (h : Hub) : FormKept s { s with hub := h, mem := ((List.range (s.hub.calSlots p)).foldl
      (fun hm t => (List.range (s.hub.calPixels p t)).foldl (foldPixel s.glob p t) hm) (s.hub, s.mem)).2 } :=
    .pair rfl fun h => KeepsForm.foldl (fun t => KeepsForm.foldl (fun d => keepsForm_foldPixel _ p t d) _) _ (s.hub, s.mem) h
  unfold statFoldOf
  exact .ite (.same rfl) (.ite (.ite (hr _) (hr _)) (.ite (.same rfl) (.same rfl)))

/-! ## Ingest, fixtures and radios -/

theorem flowPacketOf_formKept (s : State) (f path : Nat) (p : FlowPkt) (freed : Nat) : FormKept s (flowPacketOf s f path p freed) := by
  unfold flowPacketOf
  extract_lets h x rtp
  refine .ite (.same rfl) (.ite (.same rfl) (.ite (.same rfl) ?_))
  split
  · exact .same rfl
  · exact .same rfl
  · exact .ite (.same rfl) (.ite (.same rfl) (.ite (.same rfl) (.keeps (keepsForm_flowAccept s.glob _ _) _ rfl)))

theorem sacnPacketOf_formKept (s : State) (n sub : Nat) (p : SacnPkt) : FormKept s (sacnPacketOf s n sub p) := by
  unfold sacnPacketOf
  extract_lets h
  refine .ite (.same rfl) (.ite (.same rfl) ?_)
  split
  · exact .same rfl
  · split
    · exact .same rfl
    · exact .ite (.same rfl) (.ite (.same rfl) (.ite (.same rfl) (.ite (.same rfl) (.keeps (keepsForm_publish s.glob _) _ rfl))))

theorem sacnSyncOf_formKept (s : State) (n sub addr : Nat) : FormKept s (sacnSyncOf s n sub addr) := by
  unfold sacnSyncOf
  exact .ite (.same rfl) (.ite (.same rfl) (.keeps (keepsForm_publishWaiting s.glob _) _ rfl))

theorem sacnSyncTimeoutOf_formKept (s : State) (addr : Nat) : FormKept s (sacnSyncTimeoutOf s addr) := by
  unfold sacnSyncTimeoutOf
  exact .ite (.same rfl) (.keeps (keepsForm_publishWaiting s.glob _) _ rfl)

theorem fixtureTickOf_formKept (s : State) (pg : Nat) : FormKept s (fixtureTickOf s pg) := by
  unfold fixtureTickOf
  extract_lets h bad e _ h1 looked r running fs a outs
  refine .ite (.same rfl) (.ite (.same rfl) (.pair (r := outs) rfl fun hs => ?_))
  have ha : a.2.1.wf = true := List.foldlRecOn (motive := fun x : Hub × Memory × SlotVals => x.2.1.wf = true) fs _
    (keepsForm_tickCues s.glob pg e _ (keepsForm_tickFades s.glob pg e bad (_, s.mem) hs)) fun x hx f _ => wf_mergeFixture s.glob bad running x f hx
  exact KeepsForm.foldl (fun o => keepsForm_tickOutput s.glob pg bad running a.2.2 o) _ _ (.beside _ ha)

theorem fixHeldReleaseOf_formKept (s : State) (j : Nat) : FormKept s (fixHeldReleaseOf s j) := by
  unfold fixHeldReleaseOf
  exact .ite (.same rfl) (.pair rfl fun h => pairForm_releaseHeld s.glob j _ (_, s.mem) h)

theorem sendOdata_formKept (s : State) (r : Nat) : FormKept s (sendOdata s r) := by
  unfold sendOdata
  dsimp only
  split
  · exact .same rfl
  · refine .pair rfl fun h => ?_
    exact List.foldlRecOn (motive := PairForm) _ _ (.beside _ h) fun r hr e _ => keepsForm_shadowTakes s.glob e.1 _ _ _ r hr

theorem downlinkOf_formKept (s : State) (r round : Nat) (tx : OdlTx) : FormKept s (downlinkOf s r round tx) := by
  unfold downlinkOf
  extract_lets h x answers
  refine .ite (.same rfl) (.ite (.same rfl) ?_)
  cases tx with
  | fails | busy => exact .same rfl
  | sent => exact .ite (.same rfl) (sendOdata_formKept s r)

/-! ## ABORT -/

theorem abortOf_formKept (s : State) (q tag kind : Nat) (hung : Bool) : FormKept s (abortOf s q tag kind hung) := by
  unfold abortOf
  split
  · exact .same rfl
  · extract_lets i h a r
    refine .ite (.same rfl) (.ite (.same rfl) (.ite (.same rfl) (.ite (.same rfl) ?_)))
    split
    · exact .same rfl
    · exact .ite (.same rfl) (.ite (.same rfl) (.pair rfl fun hs => pairForm_abortQuiesce s.glob a (h, s.mem) hs))

theorem blockResetDoneOf_formKept (s : State) (kind i units : Nat) : FormKept s (blockResetDoneOf s kind i units) := by
  unfold blockResetDoneOf
  split
  · exact .same rfl
  · split
    · exact .same rfl
    · exact .ite (.same rfl) (.pair rfl fun h => pairForm_abortReset s.glob kind i (_, s.mem) h)

/-! ## Power and resets -/

theorem powerEntry_formKept (s : State) : FormKept s (powerEntry s) := by
  unfold powerEntry
  extract_lets d h1
  refine .ite (.same rfl) ⟨fun h => ?_⟩
  rw [MemoryCanonical]
  split
  · exact foldl_wf _ (fun m e hm => Memory.wf_loseLocal m e hm) _ _ h
  · exact h

theorem domainOff_formKept (d : Nat) (s : State) : FormKept s (domainOff d s) := by
  unfold domainOff
  exact .ite (.same rfl) ⟨fun h => foldl_wf _ (fun m e hm => Memory.wf_loseLocal m e hm) _ _ h⟩

theorem domainRequestOff_formKept (d : Nat) (s : State) : FormKept s (domainRequestOff d s) := by
  unfold domainRequestOff
  exact .ite (.same rfl) (.ite (.same rfl) (domainOff_formKept d s))

theorem domCtlWrite_formKept (value : Nat) (s : State) : FormKept s (domCtlWrite value s) := by
  unfold domCtlWrite
  extract_lets old s1
  refine FormKept.before (u := s1) (LeavesForm.foldl (fun d t => ?_) _ s1) rfl
  exact .ite (.same rfl) (.ite (domainRequestOff_formKept d t) (.ite (.same rfl) (.same rfl)))

theorem domBitWrite_formKept (who : Requester) (d : Nat) (on : Bool) (s : State) : FormKept s (domBitWrite who d on s) := by
  unfold domBitWrite
  exact .ite (domCtlWrite_formKept _ s) (.same rfl)

theorem offPendingRun_formKept (s : State) : FormKept s (offPendingRun s) := by
  unfold offPendingRun
  refine LeavesForm.foldl (fun d t => ?_) _ s
  exact (domainRequestOff_formKept d _).before rfl

theorem powerTick_formKept (s : State) : FormKept s (powerTick s) := by
  unfold powerTick
  extract_lets s1
  have hs1 : FormKept s s1 := .ite (s.wokenBy_formKept 1) (.same rfl)
  exact .ite hs1 (hs1.trans (offPendingRun_formKept s1))

theorem pwrCtl_formKept (value : Nat) (s : State) : FormKept s (pwrCtl value s) := by
  unfold pwrCtl
  exact .ite ((wakeUp_formKept 8 _).before rfl) (.same rfl)

theorem coldClear_formKept (rstNext : Nat) (porst : Bool) (s : State) : FormKept s (coldClear rstNext porst s) :=
  ⟨fun _ => show ({} : Memory).wf = true by decide⟩

theorem coldBoot_formKept (boot lanes : Nat) (pair ramp : Bool) (a b : Nat) (s : State) : FormKept s (coldBoot boot lanes pair ramp a b s) := by
  unfold coldBoot
  exact .ite (.same rfl) ((State.firmwareIn_formKept _).before rfl)

theorem warmReset_formKept (cause : Nat) (s : State) : FormKept s (warmReset cause s) := by
  unfold warmReset
  exact .ite (.same rfl) ((State.firmwareIn_formKept _).before rfl)

theorem trialFails_formKept (cause : Nat) (s : State) : FormKept s (trialFails cause s) := (warmReset_formKept 3 _).before rfl

theorem fwuReject_formKept (reason : Nat) (s : State) : FormKept s (fwuReject reason s) := by
  unfold fwuReject
  exact .ite ((trialFails_formKept 3 _).before rfl) (.same rfl)

/-! ## Registers -/

theorem writeClassF_formKept (who : Requester) (d : RegDesc) (i off value : Nat) (s : State) : FormKept s (writeClassF who d i off value s) := by
  unfold writeClassF
  split
  · exact .ite (warmReset_formKept 2 s) (.same rfl)
  · exact .ite (.same rfl) (.same rfl)
  · exact pwrCtl_formKept value s
  · exact domCtlWrite_formKept value s
  · exact .ite ((fwuReject_formKept _ _).before rfl) (.same rfl)
  · exact .same rfl

theorem regWrite_formKept (who : Requester) (off value : Nat) (s : State) : FormKept s (regWrite who off value s) := by
  unfold regWrite
  split
  · exact .same rfl
  · exact .same rfl
  · exact .ite (.ite (writeClassF_formKept ..) (.same rfl)) (.same rfl)

theorem regWrites_formKept (who : Requester) (off value k : Nat) (s : State) : FormKept s (regWrites who off value k s) := by
  induction k generalizing off value s with
  | zero => exact .same rfl
  | succ k ih => exact (regWrite_formKept who off _ s).trans (ih ..)

theorem registerWrite_formKept (who : Requester) (off value size : Nat) (s : State) : FormKept s (registerWrite who off value size s) := by
  unfold registerWrite
  exact .ite (.ite (.same rfl) (.same rfl)) (.ite (regWrites_formKept ..) (.same rfl))

theorem jtagLine_formKept (a : Nat) (line : LineErr) (s : State) : FormKept s (jtagLine a line s) :=
  .keeps (keepsForm_readLines s.glob _ _ _ _) s.hub rfl

theorem jtagAccess_formKept (target : JtagTarget) (write : Option Nat) (errs : List (Nat × ReadError)) (line : LineErr) (s : State) :
    FormKept s (jtagAccess target write errs line s) := by
  unfold jtagAccess
  dsimp only
  split
  case h_1 => exact regWrite_formKept ..
  case h_2 => exact .same rfl
  case h_3 => exact (s.reads_formKept errs).trans (.wrote rfl)
  case h_4 => exact (s.reads_formKept errs).after rfl
  case h_5 a v =>
    refine .ite (.same rfl) (.ite (.same rfl) ((jtagLine_formKept a line s).trans ⟨fun h => ?_⟩))
    exact Memory.wf_writeSram _ _ _ h
  case h_6 a =>
    have hl := jtagLine_formKept a line s
    exact .ite (.same rfl) (.ite (.same rfl) (.ite (hl.after rfl) (hl.after rfl)))

/-! ## Commits and transfers -/

theorem applyFree_formKept (ws : List (Nat × Nat)) (s : State) : FormKept s (applyFree ws s) := by
  unfold applyFree
  refine LeavesForm.foldl (fun w t => ?_) ws s
  dsimp only
  split
  · exact .ite (writeClassF_formKept ..) (.same rfl)
  · exact .same rfl

theorem setTakesEffect_formKept (errs : List (Nat × ReadError)) (s : State) : FormKept s (setTakesEffect errs s) :=
  .after (.before (State.reads_formKept { s with hub := s.hub.setWritten } errs) rfl) rfl

theorem setApplies_formKept (errs : List (Nat × ReadError)) (s : State) : FormKept s (setApplies errs s) := by
  unfold setApplies
  exact (((applyFree_formKept _ s).trans (setTakesEffect_formKept errs _)).trans (applyFree_formKept _ _)).trans (offPendingRun_formKept _)

theorem applyWhere_formKept (come : Instant → Bool) (errs : List (Nat × ReadError)) (s : State) : FormKept s (applyWhere come errs s) := by
  unfold applyWhere
  exact .ite ((setApplies_formKept errs _).before rfl) ((State.reads_formKept _ errs).before rfl)

theorem frameBegins_formKept (pg : Nat) (errs : List (Nat × ReadError)) (act : PartnerAct) (s : State) : FormKept s (frameBegins pg errs act s) := by
  unfold frameBegins
  have ht := applyWhere_formKept (s.hub.beginsNow pg) errs s
  exact .ite (s.reads_formKept errs) (.ite ht (ht.after rfl))

theorem dmaDone_formKept (q tag : Nat) (s : State) : FormKept s (dmaDone q tag s) := by
  unfold dmaDone
  split
  · exact .same rfl
  · refine .ite (.same rfl) ?_
    split
    · exact .ite (.same rfl) ⟨fun h => Hub.wf_stageToDram _ _ _ _ _ h⟩
    · exact .wrote rfl
    · exact calLoadDone_formKept ..
    · exact .same rfl
    · exact .same rfl

theorem dmaTimeout_formKept (q tag : Nat) (poisoned : List Byte) (s : State) : FormKept s (dmaTimeout q tag poisoned s) := by
  unfold dmaTimeout
  split
  · exact .same rfl
  · refine .ite (.same rfl) ?_
    split
    · exact .same rfl
    · exact ⟨fun h => Hub.wf_storePoisoned _ _ _ _ h⟩

/-! ## The instructions of an engine -/

section Engine

namespace FormKept

variable {s t : State}

theorem engTrap {e cause eaddr : Nat} (h : FormKept s t) : FormKept s (engTrap e cause eaddr t) := by
  unfold Machine.engTrap
  exact h.after rfl

theorem engDone {e : Nat} {vector : Bool} {f : Engine → Engine} (h : FormKept s t) : FormKept s (engDone e vector f t) := by
  unfold Machine.engDone
  exact h.after rfl

theorem engJump {e to_ : Nat} {f : Engine → Engine} (h : FormKept s t) : FormKept s (engJump e to_ f t) := by
  unfold Machine.engJump
  exact h.after rfl

theorem engLost {e : Nat} (h : FormKept s t) : FormKept s (engLost e t) := by
  unfold Machine.engLost
  exact h.after rfl

theorem engIssue {e addr dest ev : Nat} {d : LoadData} (h : FormKept s t) : FormKept s (engIssue e addr dest ev d t) := by
  unfold Machine.engIssue
  exact h.after rfl

theorem engStored {e : Nat} {vector : Bool} (h : FormKept s t) : FormKept s (engStored e vector t) := by
  unfold Machine.engStored
  exact .engDone (h.after rfl)

theorem engResult {e rd : Nat} {v : Option Word} (h : FormKept s t) : FormKept s (engResult e rd v t) := by
  unfold Machine.engResult
  split
  · exact h.engDone
  · exact .engDone (h.after rfl)

theorem engRefused {e rd status : Nat} (h : FormKept s t) : FormKept s (engRefused e rd status t) := by
  unfold Machine.engRefused
  exact .engResult (h.after rfl)

/-- Stores write memories that a read of their lines has left. -/
theorem stored {r : Hub × Memory} {m : Memory} (hm : PairForm r → m.wf = true) (hr : MemoryCanonical s → PairForm r) (ht : t.mem = m) :
    FormKept s t := ⟨fun hs => by rw [MemoryCanonical, ht]; exact hm (hr hs)⟩

end FormKept

theorem fetchLine_formKept (e : Nat) (err : LineErr) (s : State) : FormKept s (fetchLine e err s) := by
  unfold fetchLine
  exact .ite (.same rfl) ⟨fun h => Memory.wf_strikeLine _ _ _ _ h⟩

theorem leavesForm_engStep (e : Nat) (regs : List Nat) {k : State → State} (hk : LeavesForm k) : LeavesForm (engStep e regs k) := by
  intro s
  unfold engStep
  exact .ite (.same rfl) (.ite (.engTrap (.same rfl)) (hk s))

theorem leavesForm_engKernel (e : Nat) {k : State → State} (hk : LeavesForm k) : LeavesForm (engKernel e k) := by
  intro s
  unfold engKernel
  exact .ite (hk s) (.engTrap (.same rfl))

theorem leavesForm_engOrdered (e : Nat) {k : State → State} (hk : LeavesForm k) : LeavesForm (engOrdered e k) := by
  intro s
  unfold engOrdered
  exact .ite (hk s) (.same rfl)

theorem leavesForm_scalarOf (e : Nat) (i : ScalarInstr) : LeavesForm (scalarOf e i) := by
  refine leavesForm_engStep e _ fun s => .ite (.engTrap (.same rfl)) ?_
  cases i <;> exact .engResult (.same rfl)

theorem leavesForm_branchOf (e : Nat) (i : BranchInstr) : LeavesForm (branchOf e i) := by
  refine leavesForm_engStep e _ fun s => ?_
  cases i with
  | cond c rs1 rs2 off =>
    have hs1 (c : Prop) [Decidable c] (h : Hub) : FormKept s (if c then s else { s with hub := h }) := .ite (.same rfl) (.same rfl)
    exact .ite (.engJump (hs1 _ _)) (.engDone (hs1 _ _))
  | jal rs1 off => exact .engJump (.same rfl)
  | jalr rd rs1 imm => exact .engJump (.same rfl)

theorem leavesForm_csrrOf (e rd csr : Nat) : LeavesForm (csrrOf e rd csr) := by
  refine leavesForm_engStep e _ fun s => ?_
  split
  · exact .engTrap (.same rfl)
  · exact .ite (.engTrap (.same rfl)) (.engResult (.same rfl))

theorem leavesForm_csrwOf (e csr rs1 : Nat) : LeavesForm (csrwOf e csr rs1) :=
  leavesForm_engStep e _ fun s => .ite (.engTrap (.same rfl)) (leavesForm_engKernel e (fun _ => .engDone (.same rfl)) s)

theorem leavesForm_eretOf (e : Nat) : LeavesForm (eretOf e) :=
  leavesForm_engStep e _ (leavesForm_engKernel e fun _ => .engJump (.same rfl))

theorem leavesForm_cntrdOf (e rd n : Nat) (high : Bool) : LeavesForm (cntrdOf e rd n high) :=
  leavesForm_engStep e _ fun _ => .ite (.engTrap (.same rfl)) (.ite (.engTrap (.same rfl))
    (.ite (.engResult (.same rfl)) (.engDone (.same rfl))))

theorem leavesForm_fenceOf (e set : Nat) : LeavesForm (fenceOf e set) := leavesForm_engStep e _ fun _ => .ite (.same rfl) (.engDone (.same rfl))

theorem leavesForm_signalOf (e rs1 : Nat) : LeavesForm (signalOf e rs1) :=
  leavesForm_engStep e _ (leavesForm_engOrdered e fun _ => .engDone (.same rfl))

theorem loadLines_formKept (e a n unit off dest ev : Nat) (w : LineMem) (lines : List LineErr) (bytes : Memory → List Byte)
    (f : List Byte → LoadData) (s : State) : FormKept s (loadLines e a n unit off dest ev w lines bytes f s) := by
  unfold loadLines
  exact .engIssue (.keeps (keepsForm_readLines s.glob w off n lines) s.hub rfl)

theorem loadDram_formKept (e a off n dest : Nat) (errs : List (Nat × ReadError)) (f : List Byte → LoadData) (s : State) :
    FormKept s (loadDram e a off n dest errs f s) := by
  unfold loadDram
  refine .ite (.engIssue (.same rfl)) (.ite (.engTrap (.same rfl)) (.engIssue ?_))
  exact .pair rfl fun h => PairForm.dramErrors (.beside _ h) ..

theorem leavesForm_loadOf (e : Nat) (op : LoadOp) (rt rb off hi : Nat) (errs : List (Nat × ReadError)) (lines : List LineErr) :
    LeavesForm (loadOf e op rt rb off hi errs lines) := by
  refine leavesForm_engStep e _ fun s => ?_
  extract_lets x n a
  split
  · exact .engTrap (.same rfl)
  · refine .ite (.same rfl) ?_
    split
    case h_1 => exact .same rfl
    case h_2 o _ => exact loadLines_formKept ..
    case h_3 o _ => exact loadLines_formKept ..
    case h_4 o _ => exact .ite (.engIssue (.same rfl)) (.ite (.engTrap (.same rfl)) (.before (loadLines_formKept ..) rfl))
    case h_5 o _ => exact .ite (.engIssue (.same rfl)) (.engIssue (.same rfl))
    case h_6 o _ => exact loadDram_formKept ..

theorem loadAnswer_formKept (e k : Nat) (s : State) : FormKept s (loadAnswer e k s) := by
  unfold loadAnswer
  refine .ite (.same rfl) ?_
  split <;> exact .same rfl

theorem storeReg_formKept (e off value : Nat) (s : State) : FormKept s (storeReg e off value s) := by
  unfold storeReg
  exact .ite (.engLost (.same rfl)) (regWrite_formKept ..)

theorem leavesForm_storeOf (e : Nat) (op : StoreOp) (rt rb off hi : Nat) (errs : List (Nat × ReadError)) (lines : List LineErr) :
    LeavesForm (storeOf e op rt rb off hi errs lines) := by
  refine leavesForm_engStep e _ fun s => ?_
  have hpart (w : LineMem) (o : Nat) (h : MemoryCanonical s) : PairForm (readPartLines s.glob w o op.size lines (s.hub, s.mem)) :=
    keepsForm_readPartLines s.glob w o op.size lines (s.hub, s.mem) h
  extract_lets x n a bs vector
  split
  · exact .engTrap (.same rfl)
  · split
    case h_1 => exact .same rfl
    case h_2 o _ => exact .engStored (.stored (fun h => Memory.wf_writeImem _ _ _ _ h) (hpart _ _) rfl)
    case h_3 o _ => exact .engStored (.stored (fun h => Memory.wf_writeDmem _ _ _ _ h) (hpart _ _) rfl)
    case h_4 o _ =>
      refine .ite (.engLost (.engStored (.same rfl))) (.ite (.engTrap (.same rfl)) (.engStored ?_))
      exact .stored (fun h => Memory.wf_writeSram _ _ _ h) (hpart _ _) rfl
    case h_5 o _ => exact .ite (.trans (.engStored (.same rfl)) (storeReg_formKept ..)) (.same rfl)
    case h_6 o _ =>
      refine .ite (.engLost (.engStored (.same rfl))) (.ite (.engTrap (.same rfl)) (.engStored ?_))
      exact .stored (fun h => Hub.wf_writeDram _ _ _ _ _ _ h) (fun h => PairForm.dramErrors (.beside s.hub h) s.glob false errs) rfl

theorem leavesForm_atomicOf (e : Nat) (op : AmoOp) (rd rs1 rs2 hi : Nat) (lines : List LineErr) : LeavesForm (atomicOf e op rd rs1 rs2 hi lines) := by
  refine leavesForm_engStep e _ fun s => ?_
  extract_lets x a w
  clear_value w
  refine .ite (.engTrap (.same rfl)) ?_
  split
  case h_1 o =>
    have hr (h : MemoryCanonical s) : PairForm (readLines s.glob .sram o 4 lines (s.hub.pmuEng e 0x18 1, s.mem)) :=
      keepsForm_readLines s.glob .sram o 4 lines _ (.beside _ h)
    have hread (k : Hub) : FormKept s { s with hub := k, mem := (readLines s.glob .sram o 4 lines (s.hub.pmuEng e 0x18 1, s.mem)).2 } := .pair rfl hr
    refine .ite (.engTrap (.same rfl)) (.ite (.engTrap (.same rfl)) (.ite (.engTrap (.same rfl)) (.ite (.engTrap (hread _)) ?_)))
    extract_lets old
    split
    · exact .engDone (.stored (fun h => Memory.wf_writeSram _ _ _ h) hr rfl)
    · exact .engDone (hread _)
  · exact .engTrap (.same rfl)

theorem leavesForm_wgetOf (e rd rs1 rs2 : Nat) : LeavesForm (wgetOf e rd rs1 rs2) := by
  refine leavesForm_engStep e _ (leavesForm_engKernel e fun s => .ite (.engTrap (.same rfl)) ?_)
  split
  · exact .engTrap (.same rfl)
  · exact .same rfl

theorem leavesForm_wdoneOf (e rs1 rs2 : Nat) : LeavesForm (wdoneOf e rs1 rs2) :=
  leavesForm_engStep e _ (leavesForm_engKernel e (leavesForm_engOrdered e fun _ =>
    .ite (.engTrap (.same rfl)) (.ite (.same rfl) (.engDone (.same rfl)))))

theorem leavesForm_wpostOf (e rd rs1 rs2 : Nat) (lines : List LineErr) : LeavesForm (wpostOf e rd rs1 rs2 lines) := by
  refine leavesForm_engStep e _ (leavesForm_engOrdered e fun s => ?_)
  extract_lets x a o r s1 p
  have hr (h : MemoryCanonical s) : PairForm r := keepsForm_readLines s.glob (.dmem e) o 32 lines _ (.beside _ h)
  have hs1 : FormKept s s1 := .read (r := r) hr _
  split
  · exact .engTrap (.same rfl)
  · exact .ite hs1.engTrap (.ite hs1.engRefused (.ite hs1.engRefused (.ite (.engResult (hs1.renewed _ _)) (.engRefused (hs1.hub _)))))

theorem leavesForm_wdeferOf (e rd rs1 rs2 : Nat) : LeavesForm (wdeferOf e rd rs1 rs2) := by
  refine leavesForm_engStep e _ (leavesForm_engKernel e (leavesForm_engOrdered e fun s => .ite (.engTrap (.same rfl)) ?_))
  split
  · exact .engRefused (.same rfl)
  · exact .ite (.engResult (.same rfl)) (.engRefused (.same rfl))

theorem npostCopy_formKept (e a n : Nat) (errs : List (Nat × ReadError)) (lines : List LineErr) (s : State) :
    FormKept s (npostCopy e a n errs lines s).1 := by
  unfold npostCopy
  extract_lets secure
  generalize s.hub.window a n = w
  split
  · split
    · exact .same rfl
    · split
      · exact .same rfl
      · exact .keeps (keepsForm_readLines s.glob _ _ _ _) s.hub rfl
  · split
    · exact .same rfl
    · split
      · exact .same rfl
      · exact .pair rfl fun h => PairForm.dramErrors (.beside s.hub h) ..
  · exact .same rfl

theorem leavesForm_npostOf (e rd rs1 rs2 hi : Nat) (errs : List (Nat × ReadError)) (lines : List LineErr) :
    LeavesForm (npostOf e rd rs1 rs2 hi errs lines) := by
  refine leavesForm_engStep e _ (leavesForm_engKernel e (leavesForm_engOrdered e fun s => ?_))
  refine .ite (.engTrap (.same rfl)) (.ite (.engTrap (.same rfl)) ?_)
  have hr := npostCopy_formKept e ((s.hub.eng e).addr rs1 0 hi) (fieldOf ((s.hub.eng e).n rs2) 10 0) errs lines s
  generalize npostCopy e _ _ errs lines s = r at hr ⊢
  generalize s.hub.npostStatus _ = status
  obtain ⟨t, frame | ⟨cause, ea⟩⟩ := r
  · cases status with
    | some status => exact .engRefused (.same rfl)
    | none => exact .engResult (t := { t with hub := _ }) (.after (u := t) hr rfl)
  · cases status with
    | some status => exact .engRefused (.same rfl)
    | none => exact .engTrap (t := t) hr

theorem leavesForm_vectorOf (e : Nat) (i : VecInstr) : LeavesForm (vectorOf e i) := by
  refine leavesForm_engStep e _ fun s => .ite (.engTrap (.same rfl)) ?_
  split
  · exact .engTrap (.same rfl)
  · exact .ite (.engDone (.same rfl)) (.ite (.engDone (.same rfl)) (.engDone (.same rfl)))

end Engine

end Sys2Proof.Machine
end

section
/-! Every step keeps the canonical form of the memories (R141): O3 and O4. -/

namespace Sys2Proof.Machine

-- As in the tests, one proof at a time: proofs that wait for one another each take a thread of the compile, whose memory is limited.
set_option Elab.async false

/-- A command completes in no state but one whose memories are in canonical form where they were before it. -/
def FormKeptBy (s : State) (o : Host.Outcome State Fault Refusal) : Prop := ∀ t, o = .next t → FormKept s t

namespace FormKeptBy

variable {s : State} {k : State → Host.Outcome State Fault Refusal}

theorem next {t : State} (h : FormKept s t) : FormKeptBy s (.next t) := by
  rintro _ ⟨⟩; exact h

theorem ite {c : Prop} [Decidable c] {a b : Host.Outcome State Fault Refusal} (ha : FormKeptBy s a) (hb : FormKeptBy s b) :
    FormKeptBy s (if c then a else b) := by
  split <;> assumption

theorem after {u : State} (hu : FormKept s u) (hk : ∀ t, FormKeptBy t (k t)) : FormKeptBy s (k u) :=
  fun t ht => hu.trans (hk u t ht)

theorem reached {who : Requester} (hk : ∀ t, FormKeptBy t (k t)) : FormKeptBy s (reached who k s) :=
  after (u := s.reachedBy who) (s.reachedBy_formKept who) hk

theorem woken {code : Nat} (hk : ∀ t, FormKeptBy t (k t)) : FormKeptBy s (woken code k s) :=
  after (u := s.wokenBy code) (s.wokenBy_formKept code) hk

theorem wokenWhen {b : Hub → Bool} {code : Nat} (hk : ∀ t, FormKeptBy t (k t)) : FormKeptBy s (wokenWhen b code k s) :=
  after (u := if b s.hub then s.wokenBy code else s) (.ite (s.wokenBy_formKept code) (.same rfl)) hk

/-- An instruction of an engine acts after its fetch. -/
theorem fetched {f : State → State} (hf : LeavesForm f) (e : Nat) (fetch : LineErr) : FormKeptBy s (.next (f (fetchLine e fetch s))) :=
  next ((fetchLine_formKept e fetch s).trans (hf _))

end FormKeptBy

theorem execWorkPost_formKeptBy (q tag : Nat) (s : State) : FormKeptBy s (execWorkPost q tag s) := by
  refine .next ⟨fun h => ?_⟩
  rw [MemoryCanonical]
  split
  · exact Hub.wf_lastRenewed _ _ h
  · exact h

theorem execSacnPacket_formKeptBy (n sub : Nat) (p : SacnPkt) (errs : List (Nat × ReadError)) (lines : List (Nat × LineErr)) (s : State) :
    FormKeptBy s (execSacnPacket n sub p errs lines s) := by
  unfold execSacnPacket
  refine .wokenWhen fun t => .next ?_
  have hr := (t.reads_formKept errs).trans (State.ownLines_formKept _ .ing 12 4 lines)
  refine .trans (.ite (hr.hub _) hr) (sacnPacketOf_formKept _ n sub p)

theorem execFixtureTick_formKeptBy (pg : Nat) (errs : List (Nat × ReadError)) (lines : List (Nat × LineErr)) (s : State) :
    FormKeptBy s (execFixtureTick pg errs lines s) := by
  have hr : FormKept s { s.reads errs with
      hub := (lines.foldl (storeLineRead s.glob) ((s.reads errs).hub, (s.reads errs).mem)).1
      mem := (lines.foldl (storeLineRead s.glob) ((s.reads errs).hub, (s.reads errs).mem)).2 } :=
    (s.reads_formKept errs).trans (.keeps (.foldl (fun e => keepsForm_storeLineRead s.glob e) lines) _ rfl)
  exact .ite (.next (.same rfl)) (.next (hr.trans (fixtureTickOf_formKept _ pg)))

theorem execBlockResetTimeout_formKeptBy (kind index : Nat) (s : State) : FormKeptBy s (execBlockResetTimeout kind index s) := by
  unfold execBlockResetTimeout
  split
  · exact .next (.same rfl)
  · split <;> exact .next (.same rfl)

theorem execSafeStateEntry_formKeptBy (causes : List Nat) (s : State) : FormKeptBy s (execSafeStateEntry causes s) := by
  unfold execSafeStateEntry
  split <;> exact .next (.same rfl)

theorem execFwuReject_formKeptBy (who : Requester) (reason : Nat) (s : State) : FormKeptBy s (execFwuReject who reason s) := by
  refine .reached fun t => .next ?_
  cases who with
  | engine e => exact .ite (fwuReject_formKept ..) (.same rfl)
  | _ => exact .same rfl

theorem exec_formKeptBy (c : Instr) (s : State) : FormKeptBy s (exec c s) := by
  cases c
  -- the hub and the chip's own state change; the memories stay as they are
  case cfgCommit | cfgDiscard | cfgRead | census | censusWaitEnd | frameArm | workCancel | logClear | fwStage | fwActivate | fwConfirm
      | timeSet | timeAcceptJump | deferredJumpApply | targetQuiesced | abortEscalation | tileSend | pairQuery | pairEnable | pairDisable
      | requestActive | requestStandby | hostRegionReset | msixMessage | flitCrcError | rootPllLockLost | refclkFailure | ppsSnapshot
      | sourceLoss | qualityChange | compareFire | ppsOutput | tioPulseEnd | roundTripMeasurement | timeBaseSend | netLinkUp | netLinkDown
      | netPauseHoldEnd | netQueueHoldEvent | flowFrameComplete | flowPathTimeout | sacnSourceTimeout | applyLine | flipSend | msrRunEnd
      | trainingStart | trainingAttemptTimeout | trainingWaitEnd | nshLinkUp | tilePauseHoldEnd | tileHoldEvent | retryTimeout | rateShift
      | rateShiftComplete | shiftLockTimeout | beaconSend | beaconSfdCapture | assocReq | keepalive | odlFrameReject | nodeAdrift
      | addrLeaseEnd | transceiverRetry | storeErrorResponse | saddleLinkUp | saddleLinkDown | saddleKeepalive | armRecordDeadline
      | heartbeatMiss | saveSecRegisters | revokeKey | snapshotWrite | recordWrite | thermtrip | ptpMessageSend | engineBist | prbsTestBlock
      | odlSeenFrame =>
    exact .next (.same rfl)
  -- an access of a requester, which may wake the hub
  case directWriteRefused | sqCtlWrite | cqCtlWrite | evqCtlWrite | sqEpochWrite | intSrcMapWrite | glbLnkClr | fbArmGo | fbArmClr | msrStop
      | glbNshHint | engineStart | engineStop | fwuReady | crnTrig | crnClrSnap | crnClrRec | pmuFreeze | pmuClrAll | pmuEngineClr
      | pmuSetClr | pmuLoRead | pwrResClr =>
    unfold exec
    exact .reached fun _ => .next (.same rfl)
  -- an access of the host through a BAR, and an arrival from outside
  case sqTail | cqHead | evqHead | vecRearm | msixTableWrite =>
    unfold exec
    exact .woken fun _ => .next (.same rfl)
  case msixCapabilityWrite | ptpMessageReceive | tioInputEdge | netFrameReceive | pauseFrameReceive | blockLockLoss | lockLossTimeout
      | nshFrameReject | ackReceive | tilePause | digestAnswer | faultReport | frameReport | measurementAnswer | armRecord | mirrorReceipt
      | healthRecord | outputDigest | saddleTimeTransfer | saddleKeepaliveReceive | saddlePacketDiscard | standbyEnumRequest
      | shiftReceive =>
    unfold exec
    exact .wokenWhen fun _ => .next (.same rfl)
  -- what a command reads of the memories before it acts
  case cfgStage => exact .next (.after (s.ownLines_formKept .cmt 18 1 _) rfl)
  case descriptorFetch => exact .next (.after (s.ownLines_formKept .hif 17 1 _) rfl)
  case talusExpiry => exact .next (.after (s.ownLines_formKept .col 18 1 _) rfl)
  case commitCheckDone => exact .next (.after (State.bankRead_formKept ..) rfl)
  case calRead | calMeasure | msrStep | virtualLine | enumWaitEnd => exact .next (.after (State.reads_formKept ..) rfl)
  case identityAnswer =>
    unfold exec
    exact .wokenWhen fun t => .next (.after (t.reads_formKept _) rfl)
  case commitNotice at_ epoch digest errs lines =>
    unfold exec
    refine .wokenWhen fun t => .next ?_
    exact .after (FormKept.ite (s := t) (t.bankRead_formKept errs lines) (.same rfl)) rfl
  -- commit, DMA and the logs
  case commitApply errs => exact .next (applyWhere_formKept _ errs s)
  case frameBoundary pg errs act => exact .next (frameBegins_formKept pg errs act s)
  case dmaTransferDone q tag errs => exact .next ((s.reads_formKept errs).trans (dmaDone_formKept q tag _))
  case dmaReadTimeout q tag data errs => exact .next ((s.reads_formKept errs).trans (dmaTimeout_formKept q tag data _))
  case logRead => exact .next (logReadOf_formKept ..)
  -- memory, frames, calibration, ingest and fixtures
  case sramScrub => exact .next (sramScrubOf_formKept ..)
  case dramPatrolScrub => exact .next (patrolOf_formKept ..)
  case framePost q tag data errs => exact .next ((s.reads_formKept errs).trans (framePostOf_formKept _ q tag data))
  case calLoad q tag data errs => exact .next ((s.reads_formKept errs).trans (calLoadOf_formKept _ q tag data))
  case calCopyDone p errs => exact .next ((s.reads_formKept errs).trans (calCopyDoneOf_formKept _ p))
  case statInitDone p errs => exact .next ((s.reads_formKept errs).trans (statInitDoneOf_formKept _ p))
  case statSample errs => exact .next ((s.reads_formKept errs).trans (statSampleOf_formKept _))
  case statFold p errs => exact .next ((s.reads_formKept errs).trans (statFoldOf_formKept _ p))
  case flowPacket f path pkt freed errs lines =>
    unfold exec
    exact .wokenWhen fun t => .next (((t.reads_formKept errs).trans (State.ownLines_formKept _ .ing 8 4 lines)).trans (flowPacketOf_formKept ..))
  case sacnPacket n sub p errs lines => exact execSacnPacket_formKeptBy n sub p errs lines s
  case sacnSyncPacket =>
    unfold exec
    exact .wokenWhen fun _ => .next (sacnSyncOf_formKept ..)
  case sacnSyncTimeout => exact .next (sacnSyncTimeoutOf_formKept ..)
  case fixtureTick pg errs lines => exact execFixtureTick_formKeptBy pg errs lines s
  case fixHeldRelease n errs => exact .next ((s.reads_formKept errs).trans (fixHeldReleaseOf_formKept _ n))
  case downlinkRound r round tx errs => exact .next ((s.reads_formKept errs).trans (downlinkOf_formKept _ r round tx))
  -- ABORT and the faults
  case abortEngine q tag hung errs => exact .next ((s.reads_formKept errs).trans (abortOf_formKept _ q tag 0 hung))
  case abortRing | abortColLevel | abortPipe | abortPort | abortFlow | abortRadio => exact .next (abortOf_formKept ..)
  case blockResetDone kind index units errs => exact .next ((s.reads_formKept errs).trans (blockResetDoneOf_formKept _ kind index units))
  case blockResetTimeout kind index => exact execBlockResetTimeout_formKeptBy kind index s
  case forceSafe =>
    unfold exec
    exact .reached fun _ => .ite (.next (.same rfl)) (.next (.same rfl))
  case isolation | isolationTimeout => exact .ite (.next (.same rfl)) (.next (.same rfl))
  case safeStateEntry causes => exact execSafeStateEntry_formKeptBy causes s
  -- the pair, the services and Col
  case workPost q tag => exact execWorkPost_formKeptBy q tag s
  case setPairingKey e errs => exact .next (.keeps (keepsForm_setPairingKey s.glob e errs) s.hub rfl)
  case engineImageLoaded e errs => exact .next (.keeps (keepsForm_imageLoaded s.glob e errs) s.hub rfl)
  case colGrant line => exact .next (.keeps (keepsForm_colGrant s.glob line) s.hub rfl)
  case stateCopy data last errs =>
    unfold exec
    exact .wokenWhen fun t => .next (.pair rfl fun h => keepsForm_stateCopy t.glob data last _ (.beside _ ((t.reads_formKept errs).kept h)))
  case mirroredFrame n f errs =>
    unfold exec
    exact .wokenWhen fun t => .next (.pair rfl fun h => keepsForm_mirroredFrame t.glob n f _ (.beside _ ((t.reads_formKept errs).kept h)))
  -- registers, power and resets
  case registerWrite =>
    unfold exec
    exact .reached fun _ => .next (registerWrite_formKept ..)
  case jtagAccess => exact .next (jtagAccess_formKept ..)
  case powerStateEntry => exact .next (powerEntry_formKept s)
  case wake code => exact .next (.ite (.same rfl) (s.wokenBy_formKept code))
  case domainPowerOff | domainPowerOn =>
    unfold exec
    exact .reached fun _ => .next (.ite (domBitWrite_formKept ..) (.same rfl))
  case pwrCtlWrite =>
    unfold exec
    exact .reached fun _ => .next (.ite (pwrCtl_formKept ..) (.same rfl))
  case thermalSample temps =>
    exact .next (.after (.ite (c := thermalEvent temps s.hub s.glob = true) (s.wokenBy_formKept 7) (.same rfl)) rfl)
  case coldReset => exact .next (coldBoot_formKept ..)
  case porstLow => exact .next (.ite (.same rfl) (coldClear_formKept 1 true s))
  case supplyDroop => exact .next (coldClear_formKept 0 false s)
  case warmReset =>
    unfold exec
    exact .reached fun _ => .next (.ite (warmReset_formKept ..) (.ite (warmReset_formKept ..) (.same rfl)))
  case trialTimeout => exact .next (.ite (trialFails_formKept ..) (.same rfl))
  case fwuReject who reason => exact execFwuReject_formKeptBy who reason s
  case flashOperationDone => exact .next (.ite (.before (State.firmwareIn_formKept _) rfl) (.same rfl))
  -- the instructions of an engine
  case scalarAlu e ins fetch => exact .fetched (leavesForm_scalarOf e ins) e fetch
  case branch e ins fetch => exact .fetched (leavesForm_branchOf e ins) e fetch
  case load e op rt rb off hi errs lines fetch => exact .fetched (leavesForm_loadOf e op rt rb off hi errs lines) e fetch
  case loadResponse => exact .next (loadAnswer_formKept ..)
  case store e op rt rb off hi errs lines fetch => exact .fetched (leavesForm_storeOf e op rt rb off hi errs lines) e fetch
  case atomic e op rd rs1 rs2 hi lines fetch => exact .fetched (leavesForm_atomicOf e op rd rs1 rs2 hi lines) e fetch
  case vectorOp e ins fetch => exact .fetched (leavesForm_vectorOf e ins) e fetch
  case wget e rd rs1 rs2 fetch => exact .fetched (leavesForm_wgetOf e rd rs1 rs2) e fetch
  case wdone e rs1 rs2 fetch => exact .fetched (leavesForm_wdoneOf e rs1 rs2) e fetch
  case wpost e rd rs1 rs2 lines fetch => exact .fetched (leavesForm_wpostOf e rd rs1 rs2 lines) e fetch
  case wdefer e rd rs1 rs2 fetch => exact .fetched (leavesForm_wdeferOf e rd rs1 rs2) e fetch
  case cntrd e rd n high fetch => exact .fetched (leavesForm_cntrdOf e rd n high) e fetch
  case fence e set fetch => exact .fetched (leavesForm_fenceOf e set) e fetch
  case csrr e rd csr fetch => exact .fetched (leavesForm_csrrOf e rd csr) e fetch
  case csrw e csr rs1 fetch => exact .fetched (leavesForm_csrwOf e csr rs1) e fetch
  case eret e fetch => exact .fetched (leavesForm_eretOf e) e fetch
  case npost e rd rs1 rs2 hi errs lines fetch => exact .fetched (leavesForm_npostOf e rd rs1 rs2 hi errs lines) e fetch
  case signal e rs1 fetch => exact .fetched (leavesForm_signalOf e rs1) e fetch
  case trap e code fetch => exact .fetched (leavesForm_engStep e [] fun _ => .engTrap (.same rfl)) e fetch
  case bkpt e fetch => exact .fetched (leavesForm_engStep e [] fun _ => .engTrap (.same rfl)) e fetch
  case illegalInstruction e word fetch =>
    exact .next (.ite (.same rfl) ((fetchLine_formKept e fetch s).trans (leavesForm_engStep e [] (fun _ => .engTrap (.same rfl)) _)))

/-! ## The step -/

theorem idleStep_formKept (s : State) : FormKept s (idleStep s) := (powerTick_formKept _).before rfl

/-- Settles O3. -/
theorem resetMemoryIsCanonical : Obligations.ResetMemoryIsCanonical := by
  unfold Obligations.ResetMemoryIsCanonical
  decide

/-- Settles O4, by the two cases of the step: a command keeps the form by the case split over the commands, an idle cycle by what its wakes and
domains do. -/
theorem stepsKeepMemoryCanonical : Obligations.StepsKeepMemoryCanonical := by
  intro s t hs hstep
  unfold step at hstep
  split at hstep
  · next =>
    obtain rfl := Host.Outcome.next.inj hstep
    exact (idleStep_formKept s).kept hs
  · next c rest _ => exact (exec_formKeptBy c { s with pending := rest } t hstep).kept hs

end Sys2Proof.Machine
end

section
/-! Enumeration (R244, R283): the request that the end of the wait repeats goes through the port's queues, from which a FIX that is late may leave with it. -/

namespace Sys2Proof.Machine

/-- Port 0 waits for the identity answer of its one tile. In its Q1 stands a FIX whose presentation time, 0 on time base 0, has passed. -/
def lateFixAhead : State :=
  { hub :=
      { commit := { inForce := [{ id := tblTile 0, bytes := zeros 4 ++ [1] ++ zeros 763 }] }
        time := { bases := [(0, { t48 := 1 })] }
        ports := [(0, { phase := .up, enumTry := 1, q1 := [{ type := 8, dest := 0, payload := [], owner := .none, todo := [0], pt := some (0, 0) }] })] } }

theorem lateFixAhead_hears : HearsTile lateFixAhead 0 0 := by
  unfold HearsTile; decide +kernel

theorem lateFixAhead_waits : ∃ i ∈ tmAll (lateFixAhead.hub.tileMap 0), (lateFixAhead.hub.tile 0 i).present = false :=
  ⟨0, by decide +kernel, rfl⟩

theorem lateFixAhead_late : lateFixAhead.hub.rd Reg.FIX_CNT_LATE = 0 := by decide +kernel

/-- The request makes the port send what may leave, and the FIX that leaves is counted as late (R283). -/
theorem enumWaitEnd_counts_late {t : State} (ht : exec (.enumWaitEnd 0 []) lateFixAhead = .next t) : t.hub.rd Reg.FIX_CNT_LATE = 1 := by
  have hlate : ((lateFixAhead.reads []).hub.enumWaitEnd lateFixAhead.glob (lateFixAhead.reads []).mem 0).rd Reg.FIX_CNT_LATE = 1 := by decide +kernel
  cases ht
  exact hlate

/-- Refutes O37: its clause on a repeated request has every register keep its value. The request goes to Q1, and with it leaves a FIX that waits there;
where that is late, FIX_CNT_LATE counts it. -/
theorem not_enumerationRecordsTiles : ¬ Obligations.EnumerationRecordsTiles := by
  intro hall
  obtain ⟨-, -, -, hrepeat, -⟩ := hall lateFixAhead 0 0 lateFixAhead_hears
  obtain ⟨t, ht, -, hregs, -⟩ := hrepeat (by decide) (by decide) lateFixAhead_waits (by decide +kernel)
  have hkept := hregs Reg.FIX_CNT_LATE (by simp)
  rw [enumWaitEnd_counts_late ht, lateFixAhead_late] at hkept
  cases hkept

end Sys2Proof.Machine
end

section
/-! The tick of a group (R282, R23): an output whose port's block is powered and isolated. -/

namespace Sys2Proof.Machine

/-- A tick of group 0 is due, whose one fixture is on output 0, of port 0. The block of that port is powered, and is isolated (R23). -/
def tickBehindIsolation : State :=
  { hub :=
      { regs := [(Reg.FIX_CTL, 1), (Reg.PGg_CTL 0, 1)]
        commit := { inForce := [{ id := tblPatch, bytes := zeros 4 ++ [1, 0, 0, 0, 0, 0, 1, 0] ++ zeros 52 ++ [0, 0, 0, 1] ++ zeros 44 }] }
        power := { isolated := [.nsh 0] }
        scan := { groups := [(0, { phase := .running })] } } }

theorem tickBehindIsolation_due : tickBehindIsolation.hub.tickDue tickBehindIsolation.glob 0 = true := by decide +kernel

theorem tickBehindIsolation_outputs : tickBehindIsolation.hub.groupOutputs 0 = [0] := by decide +kernel

/-- The tick gives the port no frame. -/
theorem fixtureTick_leaves_isolated {t : State} (ht : exec (.fixtureTick 0 [] []) tickBehindIsolation = .next t) : (t.hub.port 0).q1 = [] := by
  have hq1 : ((fixtureTickOf (tickBehindIsolation.reads []) 0).hub.port 0).q1 = [] := by decide +kernel
  rw [exec, execFixtureTick, tickBehindIsolation_due] at ht
  cases ht
  exact hq1

/-- Refutes O39: its clause on an output that is to be sent whole asks of the block of the output's port that it is powered, and no more. While that block is
isolated, or has reported a fault, it does not serve (R22, R23), and the tick queues no FIX for it. -/
theorem not_fixturesTickOnTheGrid : ¬ Obligations.FixturesTickOnTheGrid := by
  intro hall
  obtain ⟨-, -, hticks, -⟩ := hall tickBehindIsolation 0 _ _ rfl rfl
  obtain ⟨-, -, hwhole⟩ := hticks (by decide +kernel) (by decide +kernel)
  obtain ⟨t, f, ht, hf, -⟩ := hwhole 0 (outRec tickBehindIsolation.hub.patch 0) tickBehindIsolation_due (by decide) tickBehindIsolation_outputs rfl
    (by decide +kernel) (by decide +kernel) (by decide +kernel) (by decide +kernel) (by decide +kernel) (by decide +kernel) rfl rfl (by decide +kernel)
    (by decide +kernel) (by decide +kernel)
  have hport : outPort (outRec tickBehindIsolation.hub.patch 0) = 0 := by decide +kernel
  rw [hport, fixtureTick_leaves_isolated ht] at hf
  cases hf

end Sys2Proof.Machine
end

section
/-! The statistics estimator (R215 to R218): what the initialisation, a sample and a fold leave of the hub and of DRAM, and the turns they take. -/

namespace Sys2Proof.Machine

-- As in the tests, one proof at a time: proofs that wait for one another each take a thread of the compile, whose memory is limited.
set_option Elab.async false

/-! ## What a look at DRAM and a fault of CAL leave -/

/-- The clock, the bases, the scan-out and the books of CAL are as they were, and of the registers only those listed and the pending ones change. -/
structure EstimatorKept (l : List Nat) (h h' : Hub) : Prop where
  clock : h'.clock = h.clock
  time  : h'.time = h.time
  scan  : h'.scan = h.scan
  cal   : h'.cal = h.cal
  regs  : RegsKeptBut (l ++ pendRegs) h h'

namespace EstimatorKept

variable {l : List Nat} {a b c : Hub}

theorem refl (h : Hub) : EstimatorKept l h h := ⟨rfl, rfl, rfl, rfl, fun _ _ => rfl⟩

theorem trans (h1 : EstimatorKept l a b) (h2 : EstimatorKept l b c) : EstimatorKept l a c :=
  ⟨h2.clock.trans h1.clock, h2.time.trans h1.time, h2.scan.trans h1.scan, h2.cal.trans h1.cal, fun off ho => (h2.regs off ho).trans (h1.regs off ho)⟩

theorem drew (h : Hub) (k : Nat) : EstimatorKept l h (h.drew k) := ⟨rfl, rfl, rfl, rfl, fun _ _ => rfl⟩

theorem ite {p : Prop} [Decidable p] (hb : EstimatorKept l a b) (hc : EstimatorKept l a c) : EstimatorKept l a (if p then b else c) := by
  split <;> assumption

theorem calPipe (hk : EstimatorKept l a b) (p : Nat) : b.calPipe p = a.calPipe p := by rw [Hub.calPipe, Hub.calPipe, hk.cal]

end EstimatorKept

section

variable (h : Hub) (g : Glob)

theorem Hub.blockFault_estimatorKept (l : List Nat) (b : Block) : EstimatorKept l h (h.blockFault g b) :=
  ⟨by simp, by simp, by simp, by simp, fun off ho => h.blockFault_regsKept g b off fun hp => ho (List.mem_append_right l hp)⟩

theorem Hub.blockViolations_estimatorKept (m : Memory) (secure write : Bool) (unit : Nat) (blocks : List Nat) :
    EstimatorKept violationRegs h (h.blockViolations g m secure write unit blocks) :=
  ⟨by simp, by simp, by simp, by simp, (h.blockViolations_saddleKept g m secure write unit blocks).regs⟩

theorem Hub.calLooks_estimatorKept (m : Memory) (write : Bool) (a n : Nat) : EstimatorKept violationRegs h (h.calLooks g m write a n) :=
  h.blockViolations_estimatorKept ..

end

/-! ## Registers of a pipe that no violation and no source touches -/

theorem pipeReg_not_mem {off : Nat} (hlow : 0x30210 ≤ off) (hpitch : 0x10 ≤ off % 0x80) : off ∉ violationRegs ++ pendRegs := by
  rw [List.mem_append, not_or]
  refine ⟨?_, not_mem_pendRegs hlow⟩
  simp only [violationRegs, List.mem_cons, List.not_mem_nil, or_false, Reg.SEC_VIOL_CNT, Reg.SEC_VIOL_LAST_LO, Reg.SEC_VIOL_LAST_HI]
  omega

theorem EstimatorKept.statAddr {a b : Hub} (hk : EstimatorKept violationRegs a b) (p t d : Nat) : b.statAddr p t d = a.statAddr p t d := by
  have hlo := Hub.f_of_rd _ _ _ 31 12 (hk.regs (Reg.CAL_PIPEp_STAT_LO p)
    (pipeReg_not_mem (by simp only [Reg.CAL_PIPEp_STAT_LO]; omega) (by simp only [Reg.CAL_PIPEp_STAT_LO]; omega)))
  have hhi := Hub.f_of_rd _ _ _ 3 0 (hk.regs (Reg.CAL_PIPEp_STAT_HI p)
    (pipeReg_not_mem (by simp only [Reg.CAL_PIPEp_STAT_HI]; omega) (by simp only [Reg.CAL_PIPEp_STAT_HI]; omega)))
  rw [Hub.statAddr, Hub.statAddr, hlo, hhi]

/-! ## The initialisation (R216) -/

/-- What the initialisation of the records of pipe `p` has left so far of where it began. -/
structure RecordsWritten (p : Nat) (a b : Hub × Memory) : Prop where
  hub : EstimatorKept violationRegs a.1 b.1
  mem : DramKeptBut (a.1.statAddr p 0 0) (64 * 65536 * a.1.calSlots p) a.2 b.2

theorem freshRecord_length (w : Nat) : (freshRecord w).length = 64 := by
  rw [freshRecord, List.length_append, leBytes_length, zeros, List.length_replicate]

/-- A record of a slot lies in the pipe's range of statistics. -/
theorem Hub.statAddr_within (h : Hub) {p t d n : Nat} (ht : t < n) (hd : d < 65536) :
    h.statAddr p 0 0 ≤ h.statAddr p t d ∧ h.statAddr p t d + 64 ≤ h.statAddr p 0 0 + 64 * 65536 * n := by
  simp only [Hub.statAddr]
  omega

theorem initRecord_written {a b : Hub × Memory} {p t d : Nat} (g : Glob) (ht : t < a.1.calSlots p) (hd : d < 65536) (hw : RecordsWritten p a b) :
    RecordsWritten p a (initRecord g p t b d) := by
  unfold initRecord
  extract_lets h w h1
  have h1k : EstimatorKept violationRegs a.1 h1 := hw.hub.trans (.ite (Hub.calLooks_estimatorKept ..) (.refl _))
  split
  · exact hw
  split
  · exact ⟨h1k.trans (h1.blockFault_estimatorKept g _ .cal), hw.mem⟩
  · refine ⟨h1k.trans (Hub.calLooks_estimatorKept ..), hw.mem.trans ?_⟩
    obtain ⟨hlo, hhi⟩ := a.1.statAddr_within (p := p) ht hd
    have haddr : h.statAddr p t d = a.1.statAddr p t d := hw.hub.statAddr p t d
    rw [← haddr] at hlo hhi
    exact (Hub.writeDram_run ..).kept hlo (by rwa [freshRecord_length])

theorem initRecords_written (g : Glob) (p : Nat) (a : Hub × Memory) :
    RecordsWritten p a ((List.range (a.1.calSlots p)).foldl (fun hm t => (List.range 65536).foldl (initRecord g p t) hm) a) := by
  refine List.foldlRecOn (motive := RecordsWritten p a) _ _ ⟨.refl _, .refl ..⟩ fun b hb t ht => ?_
  exact List.foldlRecOn (motive := RecordsWritten p a) _ _ hb fun c hc d hd =>
    initRecord_written g (List.mem_range.1 ht) (List.mem_range.1 hd) hc

theorem Hub.calPipe_setCal_same (h : Hub) (p : Nat) (c : CalPipe) : (h.setCal p c).calPipe p = c := Sparse.get_set_same ..

/-! ## A sample (R217) -/

/-- What a sample has left so far of where it began. -/
structure SampleKept (a b : Hub × Memory) : Prop where
  hub  : EstimatorKept violationRegs a.1 b.1
  sram : b.2.sram = a.2.sram
  dmem : b.2.dmem = a.2.dmem

theorem samplePixel_kept {a b : Hub × Memory} (g : Glob) (p w : Nat) (px : WalkPx) (hk : SampleKept a b) : SampleKept a (samplePixel g p w b px) := by
  unfold samplePixel
  extract_lets h src d ad r h1
  split
  · exact hk
  have h1k : EstimatorKept violationRegs a.1 h1 := hk.hub.trans ((Hub.blockViolations_estimatorKept ..).trans (Hub.calLooks_estimatorKept ..))
  split
  · exact hk
  split
  · exact ⟨h1k.trans (h1.blockFault_estimatorKept g _ .cal), hk.sram, hk.dmem⟩
  · extract_lets bins
    have hrest := (h.writeDram_run b.2 h.scanSecure ad (addDwell r.bytes bins w) false).rest
    exact ⟨(h1k.trans (.ite (.drew ..) (.refl _))).trans (Hub.calLooks_estimatorKept ..), (congrArg Memory.sram hrest).trans hk.sram,
      (congrArg Memory.dmem hrest).trans hk.dmem⟩

theorem samplePixels_kept (g : Glob) (p w : Nat) (l : List WalkPx) (a : Hub × Memory) : SampleKept a (l.foldl (samplePixel g p w) a) :=
  List.foldlRecOn (motive := SampleKept a) _ _ ⟨.refl _, rfl, rfl⟩ fun _ hb px _ => samplePixel_kept g p w px hb

/-! ## A fold (R218) -/

theorem Hub.pipeGroup_lt (h : Hub) (p : Nat) : h.pipeGroup p < 8 := Nat.mod_lt _ (by decide)


/-- What a fold of pipe `p` has left so far of where it began: the books of CAL change, but not whether a load of the pipe ended meanwhile. -/
structure FoldKept (p : Nat) (h h' : Hub) : Prop where
  clock  : h'.clock = h.clock
  time   : h'.time = h.time
  scan   : h'.scan = h.scan
  loaded : (h'.calPipe p).loaded = (h.calPipe p).loaded
  regs   : RegsKeptBut (Reg.CAL_PIPEp_CLAMP p :: violationRegs ++ pendRegs) h h'

namespace FoldKept

variable {p : Nat} {a b c : Hub}

theorem refl (h : Hub) : FoldKept p h h := ⟨rfl, rfl, rfl, rfl, fun _ _ => rfl⟩

theorem trans (h1 : FoldKept p a b) (h2 : FoldKept p b c) : FoldKept p a c :=
  ⟨h2.clock.trans h1.clock, h2.time.trans h1.time, h2.scan.trans h1.scan, h2.loaded.trans h1.loaded, fun off ho => (h2.regs off ho).trans (h1.regs off ho)⟩

theorem of_kept (hk : EstimatorKept violationRegs a b) : FoldKept p a b :=
  ⟨hk.clock, hk.time, hk.scan, congrArg CalPipe.loaded (hk.calPipe p), fun off ho => hk.regs off fun hm => ho (List.mem_cons_of_mem _ hm)⟩

theorem countBy (h : Hub) (n : Nat) : FoldKept p h (h.countBy (Reg.CAL_PIPEp_CLAMP p) 32 n) :=
  ⟨rfl, rfl, rfl, rfl, fun off ho => Hub.rd_putF_ne _ _ _ _ _ off fun he => ho (he ▸ List.mem_cons_self ..)⟩

theorem setCal (h : Hub) {x : CalPipe} (hx : x.loaded = (h.calPipe p).loaded) : FoldKept p h (h.setCal p x) :=
  ⟨rfl, rfl, rfl, (congrArg CalPipe.loaded (h.calPipe_setCal_same p x)).trans hx, fun _ _ => rfl⟩

/-- A register of SCN's pitch, or of the groups, is none of those a fold changes. -/
theorem rd_control (hk : FoldKept p a b) {off : Nat} (hlow : 0x30210 ≤ off) (hpitch : off % 0x80 = 0) (hviol : off < 0x1A0000 ∨ off % 0x800 = 0) :
    b.rd off = a.rd off := by
  refine hk.regs off fun hm => ?_
  rw [List.mem_append] at hm
  refine hm.elim (fun hv => ?_) (not_mem_pendRegs hlow)
  simp only [violationRegs, List.mem_cons, List.not_mem_nil, or_false, Reg.CAL_PIPEp_CLAMP, Reg.SEC_VIOL_CNT, Reg.SEC_VIOL_LAST_LO,
    Reg.SEC_VIOL_LAST_HI] at hv
  omega

theorem pipeGroup (hk : FoldKept p a b) : b.pipeGroup p = a.pipeGroup p :=
  Hub.f_of_rd _ _ _ 3 1 (hk.rd_control (by simp only [Reg.SCNp_CTL]; omega) (by simp only [Reg.SCNp_CTL]; omega) (by simp only [Reg.SCNp_CTL]; omega))

theorem presentNow (hk : FoldKept p a b) {pg : Nat} (hpg : pg < 8) : b.presentNow pg = a.presentNow pg := by
  have htb : b.groupTb pg = a.groupTb pg :=
    Hub.f_of_rd _ _ _ 2 1 (hk.rd_control (by simp only [Reg.PGg_CTL]; omega) (by simp only [Reg.PGg_CTL]; omega) (by simp only [Reg.PGg_CTL]; omega))
  have hbase (t : Nat) : b.now48 t = a.now48 t := by rw [Hub.now48, Hub.now48, Hub.base, Hub.base, hk.time]
  have hgroup : b.group pg = a.group pg := by rw [Hub.group, Hub.group, hk.scan]
  simp only [Hub.presentNow, Hub.onClock, Hub.groupNow, htb, hbase, hgroup, hk.clock]

end FoldKept

theorem foldPixel_kept {a b : Hub × Memory} (g : Glob) (p t d : Nat) (hk : FoldKept p a.1 b.1) : FoldKept p a.1 (foldPixel g p t b d).1 := by
  unfold foldPixel
  extract_lets h c ad r x h0 ages m1 h1 raw new m2 h2
  have h0k : EstimatorKept violationRegs h h0 := (Hub.calLooks_estimatorKept ..).trans (Hub.blockViolations_estimatorKept ..)
  split
  · exact hk
  split
  · exact hk.trans (.of_kept (h0k.trans (h0.blockFault_estimatorKept g _ .cal)))
  split
  · exact hk.trans (.of_kept h0k)
  have h1k : EstimatorKept violationRegs h h1 := h0k.trans (Hub.calLooks_estimatorKept ..)
  split
  · exact hk.trans (.of_kept h1k)
  · have hbooks := h1k.trans (h1.calLooks_estimatorKept g m1 true (h.gainAddr p (1 - c.bank) t d) 4)
    have h2k : FoldKept p h h2 := (FoldKept.of_kept hbooks).trans (.setCal _ (congrArg CalPipe.loaded (hbooks.calPipe p)).symm)
    exact hk.trans (h2k.trans (.countBy ..))

theorem foldPixels_kept (g : Glob) (p : Nat) (ts : List Nat) (n : Nat → Nat) (a : Hub × Memory) :
    FoldKept p a.1 (ts.foldl (fun (hm : Hub × Memory) t => (List.range (n t)).foldl (foldPixel g p t) hm) a).1 := by
  refine List.foldlRecOn (motive := fun (b : Hub × Memory) => FoldKept p a.1 b.1) _ _ (.refl _) fun b hb t _ => ?_
  exact List.foldlRecOn (motive := fun (b : Hub × Memory) => FoldKept p a.1 b.1) _ _ hb fun c hc d _ => foldPixel_kept g p t d hc

theorem Hub.groupTrigger_cal (h : Hub) (pg : Nat) : (h.groupTrigger pg).cal = h.cal := by
  unfold Hub.groupTrigger Hub.groupUpshift
  dsimp only
  split
  · exact (foldl_kept Hub.cal (f := fun k n => k.askUp n) (fun _ _ => rfl) _ _).trans rfl
  · rfl

/-- The end of a fold leaves the pipe IDLE, or LOADED by a load that ended, or LOADED with the SLEW transition 60 µs from now. -/
theorem Hub.foldEnd_calPipe (h : Hub) (p : Nat) :
    ((h.foldEnd p).calPipe p).phase = (if (h.calPipe p).loaded then .loaded else .idle) ∨
      ((h.foldEnd p).calPipe p).phase = .loaded ∧ ((h.foldEnd p).calPipe p).start = true ∧ ((h.foldEnd p).calPipe p).slewOnly = true ∧
        ((h.foldEnd p).calPipe p).foldAt = h.presentNow (h.pipeGroup p) + 60000 * ns48 := by
  have htrigger (k : Hub) (pg : Nat) : (k.groupTrigger pg).calPipe p = k.calPipe p := by
    rw [Hub.calPipe, Hub.calPipe, Hub.groupTrigger_cal]
  unfold Hub.foldEnd
  dsimp only
  split
  · right
    rw [htrigger, Hub.modCal, Hub.calPipe_setCal_same]
    exact ⟨rfl, rfl, rfl, rfl⟩
  · left
    rw [Hub.modCal, Hub.calPipe_setCal_same]

/-- A fold that is taken changes the round alone. -/
theorem Hub.foldTaken_kept (h : Hub) (p : Nat) :
    h.foldTaken p = { h with cal := { h.cal with folded := (h.foldTaken p).cal.folded, foldDue := (h.foldTaken p).cal.foldDue } } := by
  unfold Hub.foldTaken
  dsimp only
  split <;> rfl

theorem bitOf_folded (w p k : Nat) : bitOf (w ||| 2 ^ p) k = (bitOf w k || decide (p = k)) := by
  rw [bitOf_eq_testBit, bitOf_eq_testBit, Nat.testBit_or, Nat.testBit_two_pow]

/-- With the last of the covered pipes the round is over (R218). -/
theorem Hub.foldTaken_last {h : Hub} {p : Nat} (hall : ∀ k, k < 32 → h.statOn k = true → k = p ∨ bitOf h.cal.folded k = true) :
    h.foldTaken p = { h with cal := { h.cal with folded := 0, foldDue := h.cal.foldDue + h.foldPeriod } } := by
  refine if_pos (List.all_eq_true.2 fun k hk => ?_)
  rw [bitOf_folded]
  cases hon : h.statOn k
  · rfl
  · obtain rfl | hbit := hall k (List.mem_range.1 hk) hon
    · simp
    · simp [hbit]

/-! ## The commands -/

section

variable {s : State} {p : Nat}

theorem statInitDone_kept (hs : s.hub.serving .cal = true) (hinit : (s.hub.calPipe p).statInit = true) (hon : s.hub.statOn p = true) :
    ∃ t, exec (.statInitDone p []) s = .next t ∧ t.glob = s.glob ∧ t.pending = s.pending ∧ RegsKeptBut (violationRegs ++ pendRegs) s.hub t.hub ∧
      (t.hub.serving .cal = true → t.hub.calPipe p = { s.hub.calPipe p with statInit := false, statReady := true, sampled := none }) ∧
      (t.hub.serving .cal = false → t.hub.calPipe p = s.hub.calPipe p) ∧
      DramKeptBut (s.hub.statAddr p 0 0) (64 * 65536 * s.hub.calSlots p) s.mem t.mem := by
  have hw := initRecords_written s.glob p (s.hub, s.mem)
  refine ⟨statInitDoneOf s p, rfl, ?_⟩
  rw [statInitDoneOf, if_neg (by simp [hinit, hon, hs])]
  dsimp only at hw ⊢
  generalize List.foldl _ (s.hub, s.mem) _ = r at hw ⊢
  obtain ⟨hhub, hmem⟩ := hw
  refine ⟨rfl, rfl, ?_, ?_, ?_, hmem⟩
  · split <;> exact hhub.regs
  · split
    case isTrue =>
      intro _
      rw [Hub.modCal, Hub.calPipe_setCal_same, hhub.calPipe]
    case isFalse hnot => exact fun hserve => absurd hserve hnot
  · split
    case isTrue hserve => exact fun hnot => Bool.noConfusion (hnot.symm.trans hserve)
    case isFalse => exact fun _ => hhub.calPipe p

theorem statSample_kept (hsafe : s.glob.safe = false) (hs : s.hub.serving .cal = true) (hdue : s.hub.cal.statDue ≤ s.hub.clock)
    (hnext : s.hub.nextSample = some p) :
    ∃ t, exec (.statSample []) s = .next t ∧ t.glob = s.glob ∧ t.pending = s.pending ∧ RegsKeptBut (violationRegs ++ pendRegs) s.hub t.hub ∧
      t.hub.cal.last = p ∧ (t.hub.calPipe p).sampled = some s.hub.clock ∧
      t.hub.cal.statDue = s.hub.cal.statDue + s.hub.f Reg.CAL_STAT_TIME 7 0 * 4000000 ∧ t.mem.sram = s.mem.sram ∧ t.mem.dmem = s.mem.dmem := by
  have hk := samplePixels_kept s.glob p (s.hub.sampleWeight p) (s.hub.framePixels p) (s.hub.drew 1, s.mem)
  refine ⟨statSampleOf s, rfl, ?_⟩
  rw [statSampleOf, if_neg (by simp [hs, hsafe, hdue]), hnext]
  dsimp only at hk ⊢
  generalize List.foldl _ (s.hub.drew 1, s.mem) _ = r at hk ⊢
  obtain ⟨hhub, hsram, hdmem⟩ := hk
  refine ⟨rfl, rfl, hhub.regs, rfl, ?_, rfl, hsram, hdmem⟩
  exact congrArg CalPipe.sampled (r.1.calPipe_setCal_same p _)

theorem statSample_early (hdue : s.hub.clock < s.hub.cal.statDue) :
    exec (.statSample []) s = .next s := by
  change Host.Outcome.next (statSampleOf s) = _
  rw [statSampleOf, if_pos (by simp [hdue])]

/-- With no pipe to sample only the time of the next sample moves. -/
theorem statSampleOf_none (hnext : s.hub.nextSample = none) :
    ∃ n, statSampleOf s = { s with hub := { s.hub with cal := { s.hub.cal with statDue := n } } } := by
  unfold statSampleOf
  dsimp only
  rw [hnext]
  split
  · exact ⟨_, rfl⟩
  · dsimp only
    split <;> exact ⟨_, rfl⟩

theorem statSample_none (hnext : s.hub.nextSample = none) :
    ∃ t, exec (.statSample []) s = .next t ∧ t = { s with hub := { s.hub with cal := { s.hub.cal with statDue := t.hub.cal.statDue } } } := by
  obtain ⟨n, hn⟩ := statSampleOf_none hnext
  exact ⟨_, congrArg Host.Outcome.next hn, rfl⟩

theorem statFold_waits (hphase : (s.hub.calPipe p).phase ≠ .fold) (hmay : s.hub.foldMayStart p = false) : exec (.statFold p []) s = .next s := by
  change Host.Outcome.next (statFoldOf s p) = _
  unfold statFoldOf
  dsimp only
  rw [if_neg hphase, if_neg (c := s.hub.foldMayStart p = true) (by simp [hmay]), ite_self]

theorem Hub.foldMayStart_early {h : Hub} (hdue : h.clock < h.cal.foldDue) : h.foldMayStart p = false := by
  simp [Hub.foldMayStart, Hub.foldIsDue, hdue]

theorem Hub.foldMayStart_busy {h : Hub} (hidle : (h.calPipe p).phase ≠ .idle) : h.foldMayStart p = false := by
  simp [Hub.foldMayStart, hidle]

theorem statFold_begins (hsafe : s.glob.safe = false) (hphase : (s.hub.calPipe p).phase ≠ .fold) (hmay : s.hub.foldMayStart p = true) :
    ∃ t, exec (.statFold p []) s = .next t ∧ HubOnly s t ∧ RegsKeptBut [] s.hub t.hub ∧
      t.hub.calPipe p = { s.hub.calPipe p with phase := .fold, changed := false, loaded := false } ∧
      ((∀ k, k < 32 → s.hub.statOn k = true → k = p ∨ bitOf s.hub.cal.folded k = true) →
        t.hub.cal.folded = 0 ∧ t.hub.cal.foldDue = s.hub.cal.foldDue + s.hub.f Reg.CAL_STAT_TIME 31 16 * 400000000) := by
  refine ⟨statFoldOf s p, rfl, ?_⟩
  rw [statFoldOf, if_neg (by simp [hsafe]), if_neg hphase, if_pos hmay]
  dsimp only
  generalize hc : ({ s.hub.calPipe p with phase := .fold, changed := false, loaded := false } : CalPipe) = c
  refine ⟨⟨rfl, rfl, rfl⟩, fun off _ => ?_, ?_, fun hall => ?_⟩
  · rw [Hub.foldTaken_kept]
    rfl
  · rw [Hub.foldTaken_kept]
    exact s.hub.calPipe_setCal_same p c
  · rw [Hub.foldTaken_last (h := s.hub.setCal p c) hall]
    exact ⟨rfl, rfl⟩

theorem statFold_ends (hsafe : s.glob.safe = false) (hphase : (s.hub.calPipe p).phase = .fold) :
    ∃ t, exec (.statFold p []) s = .next t ∧ t.glob = s.glob ∧ t.pending = s.pending ∧
      (t.hub.serving .cal = true → (t.hub.calPipe p).phase = (if (s.hub.calPipe p).loaded then .loaded else .idle) ∨
        ((t.hub.calPipe p).phase = .loaded ∧ (t.hub.calPipe p).start = true ∧ (t.hub.calPipe p).slewOnly = true ∧
          (t.hub.calPipe p).foldAt = s.hub.presentNow (s.hub.pipeGroup p) + 60000 * 2 ^ 48)) := by
  have hk := foldPixels_kept s.glob p (List.range (s.hub.calSlots p)) (s.hub.calPixels p) (s.hub, s.mem)
  refine ⟨statFoldOf s p, rfl, ?_⟩
  rw [statFoldOf, if_neg (by simp [hsafe]), if_pos hphase]
  dsimp only at hk ⊢
  generalize List.foldl _ (s.hub, s.mem) _ = r at hk ⊢
  split
  case isTrue hnot => exact ⟨rfl, rfl, fun hserve => absurd hserve (by simpa using hnot)⟩
  case isFalse =>
    refine ⟨rfl, rfl, fun _ => ?_⟩
    have hend := r.1.foldEnd_calPipe p
    rwa [hk.loaded, hk.pipeGroup, hk.presentNow (s.hub.pipeGroup_lt p)] at hend

end

/-- Settles O33, by what the folds over the records, the pixels of a frame and the pixels of a pipe keep. -/
theorem estimatorSamplesInTurn : Obligations.EstimatorSamplesInTurn := by
  unfold Obligations.EstimatorSamplesInTurn
  intro s hsafe hs
  exact ⟨fun _ => statInitDone_kept hs, fun _ => statSample_kept hsafe hs, statSample_early, statSample_none,
    fun _ => statFold_begins hsafe, fun _ hdue hphase => statFold_waits hphase (Hub.foldMayStart_early hdue),
    fun _ hphase hidle => statFold_waits hphase (Hub.foldMayStart_busy hidle), fun _ => statFold_ends hsafe⟩

end Sys2Proof.Machine
end
